-- ==== Sys2Proof/Word.lean ====
section
/-! DEFINITION. The word types of the EZ8192 (R8) and the sparse-map type that holds like things by number. -/

namespace Sys2Proof

/-- A 64-bit word (R8). -/
abbrev Word := BitVec 64

/-- An 8-bit byte (R8). -/
abbrev Byte := BitVec 8

/-- A comparison key of a tag (R30). -/
abbrev Key := BitVec 60

/-- Global PE number p (R17). -/
abbrev PeId := BitVec 13

/-- Job number (R20). -/
abbrev JobId := BitVec 3

/-- Global tile number, p[12:7] (R17). -/
abbrev TileId := BitVec 6

/-- Global cluster number, p[12:3] (R17). -/
abbrev ClusterId := BitVec 10

/-- Node ID: token word W0[39:0] (R36). -/
abbrev NodeId := BitVec 40

/-- A sparse map by number, sorted by key; an absent key stands for the thing in its reset state. -/
abbrev SMap (α : Type) := List (Nat × α)

end Sys2Proof
end

