-- ==== Sys2Proof/Syntax.lean ====
section
/-! DEFINITION. The commands of the block: the rows of the table of operations and events, and the types their operands have. -/

namespace Sys2Proof

/-- Who executes an instruction of BIS: a context of a PE (R16) or a service core. -/
inductive Exec where
  /-- Context c of PE p; waits names the contexts whose next instruction waits in that issue cycle on an operand or on a memory access (R91). -/
  | pe (p : PeId) (c : BitVec 4) (waits : BitVec 16)
  /-- As pe, where what the instruction reads of the context (a register, FPS, the emission list or the store buffer) fails its parity check (R444). -/
  | parity (p : PeId) (c : BitVec 4) (waits : BitVec 16)
  /-- Service core c, 0-15. -/
  | core (c : BitVec 4)
deriving DecidableEq, Repr

/-- An end point of Larkspur that issues requests or charges slots: the initiators of Table 10-4, by the place where their packets are taken. -/
inductive EndPoint where
  /-- The tile or bridge stop of a compute die. -/
  | stop (die : BitVec 2) (stop : BitVec 5)
  /-- The hub die, by the bridge link (die, bridge) the packet came over. -/
  | hub (die : BitVec 2) (br : Bool)
deriving DecidableEq, Repr

/-- The path on which an object is accessed (R382, R389, R390), with its agent identity (R310). -/
inductive Path where
  /-- The management controller on the CAN FD bus. -/
  | sop
  /-- The BAR0 mailbox of a PCIe function: 0 the PF, 1-8 the VFs. -/
  | mbx (fn : BitVec 4)
  /-- The command of ring pair k, with its owner's rights. -/
  | ring (k : BitVec 6)
  /-- A peer module over the Fabric, through port f. -/
  | peer (f : BitVec 3)
deriving DecidableEq, Repr


/-- What the check of a packet's units found on a segment or link (R216). -/
inductive Ecc where
  /-- No error. -/
  | clean
  /-- Single-bit errors, corrected, in some of the packet's units. -/
  | corrected (units : BitVec 4)
  /-- A double-bit error. -/
  | double
deriving DecidableEq, Repr

/-- A record of the repair log of the flash (R245, R250, R253): a Patch Table entry, an HBM_REMAP entry, or a row of HBM for post-package repair. -/
inductive RepairRec where
  | patch (die : BitVec 2) (loc : BitVec 32)
  | remap (e : BitVec 6) (w : BitVec 64)
  | row (r : BitVec 32)
deriving DecidableEq, Repr

/-- What an operation of the QSPI controller leaves in the flash (R294): nothing new, bytes at an offset, or the records of the repair log. -/
inductive FlashOp where
  | keep
  | write (off : BitVec 25) (data : List Byte)
  | repairs (l : List RepairRec)
deriving DecidableEq, Repr

/-- Who accesses a register: a service core that writes at a system address (R281) or at the QSPI controller (R294), or a PCIe function at an offset of its BAR0 (R318). -/
inductive RegPath where
  | core (c : BitVec 4)
  /-- The writes by which a core starts an operation of the QSPI controller: no register of its has an address in the maps. -/
  | qspi (c : BitVec 4) (op : FlashOp)
  /-- A core's write of the entry of the die-to-die switch's table for a die and stop (R225, R229): no map gives the table an address. -/
  | switch (c : BitVec 4) (die : BitVec 2) (stop : BitVec 5)
  /-- A 64-bit write. -/
  | bar0 (fn : BitVec 4)
  /-- A 64-bit read; the value of the command has no meaning. -/
  | bar0Read (fn : BitVec 4)
  /-- An access of another width. -/
  | bar0Narrow (fn : BitVec 4)
deriving DecidableEq, Repr

/-- What the parity check of a register-built entry found as it was read (R444). -/
inductive Parity where
  | good
  /-- The entry fails, and its job field is sound. -/
  | bad
  /-- The job field itself is covered by the failing bit. -/
  | badJob
deriving DecidableEq, Repr

/-- What the command, address and data parity check of an access of HBM finds: no error, one that the single retry mends, or one that it does not (R254). -/
inductive HbmPar where
  | good
  | retried
  | lost
deriving DecidableEq, Repr

/-- The bridge link at whose end a memory request is served, and what the parity check of the access to HBM finds. -/
structure HbmLink where
  br : Bool
  par : HbmPar := .good
deriving DecidableEq, Repr

/-- The PE whose next sweep runs, and what the parity check of the first pending-trap record the sweep reads finds (R157, R444). -/
structure SweepAt where
  pe : PeId
  par : Parity := .good
deriving DecidableEq, Repr

/-- A failing row or column of an SRAM macro: the tile it lies in, none on the hub die, and the macro (R245, R247). -/
structure BadLine where
  tile : Option TileId
  mac : BitVec 16
  col : Bool
deriving DecidableEq, Repr

/-- How a boot stage ends (R409): the tiles it found unusable, the failing rows and columns of step 3 and the HBM units (stack, pseudo-channel, unit) that fail step 9, and the milliseconds its memory tests took; or the reason it failed. -/
inductive StageEnd where
  | ok (removed : BitVec 64) (lines : List BadLine) (units : List (BitVec 27)) (ms : BitVec 16)
  | failed (reason : BitVec 16)
deriving DecidableEq, Repr

/-- A submission entry (Table 15-6) of the command that names it; unknown is whether its OPCODE is none of Table 15-8, reserved whether any reserved field is nonzero. -/
structure Sub where
  unknown : Bool := false
  flags : Byte := 0
  cid : BitVec 16 := 0
  job : Byte := 0
  reserved : Bool := false
  a0 : Word := 0
  a1 : Word := 0
  a2 : Word := 0
  a3 : Word := 0
  host : Word := 0
  len : BitVec 32 := 0
deriving DecidableEq, Repr

/-- A write of memory space (MSE) and, where the configuration accesses also set them, the size of BAR2 and the maximum payload size (R315, R318, R330). -/
structure MemSpace where
  on : Bool
  bar2 : Option (BitVec 3) := none
  payload : Option (BitVec 3) := none
deriving DecidableEq, Repr

/-- What the memory self-test of a wake finds: the tiles that fail, and failing rows and columns (R416). -/
structure WakeTest where
  tiles : BitVec 64 := 0
  lines : List BadLine := []
deriving DecidableEq, Repr

/-- A write of a lock's request register: the agent and the value (R310). -/
structure LockAsk where
  agent : Byte
  value : Byte
deriving DecidableEq, Repr

/-- A lock and the requests that reach it in one hub cycle (R311, R313). -/
structure LockTurn where
  lock : Byte
  asks : List LockAsk := []
deriving DecidableEq, Repr

/-- The bytes of a host write; late is whether it reaches HBM after the first reading of the image of the load that is queued (R276). -/
structure HostWrite where
  bytes : List Byte
  late : Bool := false
deriving DecidableEq, Repr

/-- A change of MSI-X control: MSI-X Enable, the Function Mask, or the mask of a vector (R325). -/
inductive MsixBit where
  | enable (v : Bool)
  | function (v : Bool)
  | vector (n : BitVec 11) (masked : Bool)
deriving DecidableEq, Repr

/-- A frame as a Fabric port receives it: its units, and how many symbols the FEC corrected on the way (R353). -/
structure FrameIn where
  units : List (BitVec 128)
  corrected : BitVec 16 := 0
deriving DecidableEq, Repr

/-- The commands of the block: one constructor per row of the table of operations and events, in its order. -/
inductive Instr where
  /-- REGISTER_WRITE (R10): A write to a register field that has no row of its own stores or acts on the value as its access code and map state. -/
  | registerWrite (who : RegPath) (addr v : Word)
  /-- OBJECT_WRITE (R380): A write to an object that has no row of its own is checked in order and stored if every check passes. -/
  | objectWrite (path : Path) (idx : BitVec 16) (sub : Byte) (data : List Byte)
  /-- ADD (R128): Adds two registers modulo 2^64. -/
  | add (x : Exec) (rd ra rb : BitVec 5)
  /-- SUB (R128): Subtracts rb from ra modulo 2^64. -/
  | sub (x : Exec) (rd ra rb : BitVec 5)
  /-- AND (R103): Bitwise AND of two registers. -/
  | and (x : Exec) (rd ra rb : BitVec 5)
  /-- OR (R103): Bitwise OR of two registers. -/
  | or (x : Exec) (rd ra rb : BitVec 5)
  /-- XOR (R103): Bitwise exclusive OR of two registers. -/
  | xor (x : Exec) (rd ra rb : BitVec 5)
  /-- ANDN (R103): ra AND NOT rb. -/
  | andn (x : Exec) (rd ra rb : BitVec 5)
  /-- ORN (R103): ra OR NOT rb. -/
  | orn (x : Exec) (rd ra rb : BitVec 5)
  /-- XNOR (R103): NOT (ra XOR rb). -/
  | xnor (x : Exec) (rd ra rb : BitVec 5)
  /-- SLL (R104): Logical left shift by the whole 64-bit count in rb. -/
  | sll (x : Exec) (rd ra rb : BitVec 5)
  /-- SRL (R104): Logical right shift by the whole 64-bit count in rb. -/
  | srl (x : Exec) (rd ra rb : BitVec 5)
  /-- SRA (R104): Arithmetic right shift by the whole 64-bit count in rb. -/
  | sra (x : Exec) (rd ra rb : BitVec 5)
  /-- ROL (R104): Rotate left by rb modulo 64. -/
  | rol (x : Exec) (rd ra rb : BitVec 5)
  /-- ROR (R104): Rotate right by rb modulo 64. -/
  | ror (x : Exec) (rd ra rb : BitVec 5)
  /-- SLT (R103): Sets rd to 1 if ra is less than rb as signed values. -/
  | slt (x : Exec) (rd ra rb : BitVec 5)
  /-- SLTU (R103): Sets rd to 1 if ra is less than rb as unsigned values. -/
  | sltu (x : Exec) (rd ra rb : BitVec 5)
  /-- MIN (R103): Signed minimum. -/
  | min (x : Exec) (rd ra rb : BitVec 5)
  /-- MAX (R103): Signed maximum. -/
  | max (x : Exec) (rd ra rb : BitVec 5)
  /-- MINU (R103): Unsigned minimum. -/
  | minu (x : Exec) (rd ra rb : BitVec 5)
  /-- MAXU (R103): Unsigned maximum. -/
  | maxu (x : Exec) (rd ra rb : BitVec 5)
  /-- MUL (R128): Low 64 bits of the product. -/
  | mul (x : Exec) (rd ra rb : BitVec 5)
  /-- MULH (R128): High 64 bits of the signed product. -/
  | mulh (x : Exec) (rd ra rb : BitVec 5)
  /-- MULHU (R128): High 64 bits of the unsigned product. -/
  | mulhu (x : Exec) (rd ra rb : BitVec 5)
  /-- DIV (R128): Signed quotient rounded toward zero, using the shared divider for div_time cycles. -/
  | div (x : Exec) (rd ra rb : BitVec 5)
  /-- DIVU (R128): Unsigned quotient, using the shared divider. -/
  | divu (x : Exec) (rd ra rb : BitVec 5)
  /-- REM (R128): Signed remainder with the sign of the dividend. -/
  | rem (x : Exec) (rd ra rb : BitVec 5)
  /-- REMU (R128): Unsigned remainder. -/
  | remu (x : Exec) (rd ra rb : BitVec 5)
  /-- POPC (R131): Counts the 1 bits of ra. -/
  | popc (x : Exec) (rd ra : BitVec 5)
  /-- CLZ (R131): Counts the leading zeros of ra, 64 for 0. -/
  | clz (x : Exec) (rd ra : BitVec 5)
  /-- CTZ (R131): Counts the trailing zeros of ra, 64 for 0. -/
  | ctz (x : Exec) (rd ra : BitVec 5)
  /-- BEXT (R131): Packs the bits of ra selected by mask rb into the low bits of rd. -/
  | bext (x : Exec) (rd ra rb : BitVec 5)
  /-- BDEP (R131): Places the low bits of ra at the 1 positions of rb. -/
  | bdep (x : Exec) (rd ra rb : BitVec 5)
  /-- BREV (R131): Reverses the bit order of ra. -/
  | brev (x : Exec) (rd ra : BitVec 5)
  /-- BSWAP (R131): Reverses the byte order of ra. -/
  | bswap (x : Exec) (rd ra : BitVec 5)
  /-- ADDI (R103): Adds a sign-extended immediate. -/
  | addi (x : Exec) (rd ra : BitVec 5) (imm : BitVec 16)
  /-- ANDI (R103): ANDs a zero-extended immediate. -/
  | andi (x : Exec) (rd ra : BitVec 5) (imm : BitVec 16)
  /-- ORI (R103): ORs a zero-extended immediate. -/
  | ori (x : Exec) (rd ra : BitVec 5) (imm : BitVec 16)
  /-- XORI (R103): XORs a zero-extended immediate. -/
  | xori (x : Exec) (rd ra : BitVec 5) (imm : BitVec 16)
  /-- SLTI (R103): Signed compare with a sign-extended immediate. -/
  | slti (x : Exec) (rd ra : BitVec 5) (imm : BitVec 16)
  /-- SLTIU (R103): Unsigned compare with a sign-extended immediate. -/
  | sltiu (x : Exec) (rd ra : BitVec 5) (imm : BitVec 16)
  /-- SHI_SLL (R103): Immediate logical left shift, SHI kind 0. -/
  | shiSll (x : Exec) (rd ra : BitVec 5) (n : BitVec 6)
  /-- SHI_SRL (R103): Immediate logical right shift, SHI kind 1. -/
  | shiSrl (x : Exec) (rd ra : BitVec 5) (n : BitVec 6)
  /-- SHI_SRA (R103): Immediate arithmetic right shift, SHI kind 2. -/
  | shiSra (x : Exec) (rd ra : BitVec 5) (n : BitVec 6)
  /-- SHI_ROL (R103): Immediate rotate left, SHI kind 3. -/
  | shiRol (x : Exec) (rd ra : BitVec 5) (n : BitVec 6)
  /-- SHI_ROR (R103): Immediate rotate right, SHI kind 4. -/
  | shiRor (x : Exec) (rd ra : BitVec 5) (n : BitVec 6)
  /-- LUI (R103): Loads a sign-extended immediate shifted left by 16. -/
  | lui (x : Exec) (rd : BitVec 5) (imm : BitVec 16)
  /-- LUT3 (R105): Computes each bit from ra, rb and old rd through truth table TT. -/
  | lut3 (x : Exec) (rd ra rb : BitVec 5) (tt : BitVec 8)
  /-- L4AND (R132): Four-state bitwise AND of two pairs. -/
  | l4and (x : Exec) (pd pa pb : BitVec 4)
  /-- L4OR (R132): Four-state bitwise OR of two pairs. -/
  | l4or (x : Exec) (pd pa pb : BitVec 4)
  /-- L4XOR (R132): Four-state bitwise XOR of two pairs. -/
  | l4xor (x : Exec) (pd pa pb : BitVec 4)
  /-- L4NOT (R132): Four-state bitwise NOT of a pair. -/
  | l4not (x : Exec) (pd pa : BitVec 4)
  /-- L4MUX (R133): Four-state bitwise multiplexer selected by pair PS. -/
  | l4mux (x : Exec) (pd pa pb ps : BitVec 4)
  /-- L4RES (R132): Resolves two four-state drivers bitwise. -/
  | l4res (x : Exec) (pd pa pb : BitVec 4)
  /-- L4EQ (R114): Compares two pairs under the equality table and reduces to one four-state bit. -/
  | l4eq (x : Exec) (pd pa pb : BitVec 4)
  /-- FADD (R136): Floating-point addition with one rounding. -/
  | fadd (x : Exec) (sz : Bool) (rm : BitVec 3) (rd ra rb : BitVec 5)
  /-- FSUB (R136): Floating-point subtraction with one rounding. -/
  | fsub (x : Exec) (sz : Bool) (rm : BitVec 3) (rd ra rb : BitVec 5)
  /-- FMUL (R136): Floating-point multiplication with one rounding. -/
  | fmul (x : Exec) (sz : Bool) (rm : BitVec 3) (rd ra rb : BitVec 5)
  /-- FDIV (R136): Floating-point division on the non-pipelined unit. -/
  | fdiv (x : Exec) (sz : Bool) (rm : BitVec 3) (rd ra rb : BitVec 5)
  /-- FSQRT (R136): Floating-point square root on the non-pipelined unit. -/
  | fsqrt (x : Exec) (sz : Bool) (rm : BitVec 3) (rd ra : BitVec 5)
  /-- FMIN (R142): minimumNumber of two values. -/
  | fmin (x : Exec) (sz : Bool) (rm : BitVec 3) (rd ra rb : BitVec 5)
  /-- FMAX (R142): maximumNumber of two values. -/
  | fmax (x : Exec) (sz : Bool) (rm : BitVec 3) (rd ra rb : BitVec 5)
  /-- FEQ (R142): Quiet floating-point equality compare. -/
  | feq (x : Exec) (sz : Bool) (rm : BitVec 3) (rd ra rb : BitVec 5)
  /-- FLT (R142): Signalling floating-point less-than compare. -/
  | flt (x : Exec) (sz : Bool) (rm : BitVec 3) (rd ra rb : BitVec 5)
  /-- FLE (R142): Signalling floating-point less-or-equal compare. -/
  | fle (x : Exec) (sz : Bool) (rm : BitVec 3) (rd ra rb : BitVec 5)
  /-- FCLASS (R144): Writes the class code and sign of ra. -/
  | fclass (x : Exec) (sz : Bool) (rm : BitVec 3) (rd ra : BitVec 5)
  /-- FCOPYSIGN (R143): Copies the sign of rb onto ra without canonicalising. -/
  | fcopysign (x : Exec) (sz : Bool) (rm : BitVec 3) (rd ra rb : BitVec 5)
  /-- FNEG (R143): Inverts the sign bit of ra. -/
  | fneg (x : Exec) (sz : Bool) (rm : BitVec 3) (rd ra : BitVec 5)
  /-- FABS (R143): Clears the sign bit of ra. -/
  | fabs (x : Exec) (sz : Bool) (rm : BitVec 3) (rd ra : BitVec 5)
  /-- FCVT_I (R145): Converts a floating-point value to i64 under RM. -/
  | fcvtI (x : Exec) (sz : Bool) (rm : BitVec 3) (rd ra : BitVec 5)
  /-- FCVT_U (R145): Converts a floating-point value to u64 under RM. -/
  | fcvtU (x : Exec) (sz : Bool) (rm : BitVec 3) (rd ra : BitVec 5)
  /-- FCVT_FI (R146): Converts i64 to the format SZ. -/
  | fcvtFi (x : Exec) (sz : Bool) (rm : BitVec 3) (rd ra : BitVec 5)
  /-- FCVT_FU (R146): Converts u64 to the format SZ. -/
  | fcvtFu (x : Exec) (sz : Bool) (rm : BitVec 3) (rd ra : BitVec 5)
  /-- FCVT_FF (R146): Converts between binary32 and binary64. -/
  | fcvtFf (x : Exec) (sz : Bool) (rm : BitVec 3) (rd ra : BitVec 5)
  /-- FRFS (R141): Reads FPS once earlier floating-point instructions have written their flags. -/
  | frfs (x : Exec) (sz : Bool) (rm : BitVec 3) (rd : BitVec 5)
  /-- FWFS (R141): Writes FPS from ra. -/
  | fwfs (x : Exec) (sz : Bool) (rm : BitVec 3) (ra : BitVec 5)
  /-- FCFS (R141): Reads FPS and clears its flags. -/
  | fcfs (x : Exec) (sz : Bool) (rm : BitVec 3) (rd : BitVec 5)
  /-- FMADD (R136): Fused ra × rb + rc with one rounding. -/
  | fmadd (x : Exec) (sz : Bool) (rm : BitVec 3) (rd ra rb rc : BitVec 5)
  /-- FMSUB (R136): Fused ra × rb − rc with one rounding. -/
  | fmsub (x : Exec) (sz : Bool) (rm : BitVec 3) (rd ra rb rc : BitVec 5)
  /-- FNMADD (R136): Fused −(ra × rb) − rc with one rounding. -/
  | fnmadd (x : Exec) (sz : Bool) (rm : BitVec 3) (rd ra rb rc : BitVec 5)
  /-- FNMSUB (R136): Fused −(ra × rb) + rc with one rounding. -/
  | fnmsub (x : Exec) (sz : Bool) (rm : BitVec 3) (rd ra rb rc : BitVec 5)
  /-- LD (R107): Loads from the address space SP, zero-extended. -/
  | ld (x : Exec) (rd ra : BitVec 5) (sp w : BitVec 2) (imm : BitVec 12)
  /-- LDS (R107): Loads from the address space SP, sign-extended. -/
  | lds (x : Exec) (rd ra : BitVec 5) (sp w : BitVec 2) (imm : BitVec 12)
  /-- ST (R107): Stores to the address space SP; design-memory stores go to the store buffer (R108). -/
  | st (x : Exec) (rd ra : BitVec 5) (sp w : BitVec 2) (imm : BitVec 12)
  /-- BEQ (R111): Branches when ra equals rb. -/
  | beq (x : Exec) (ra rb : BitVec 5) (off : BitVec 13)
  /-- BNE (R111): Branches when ra differs from rb. -/
  | bne (x : Exec) (ra rb : BitVec 5) (off : BitVec 13)
  /-- BLT (R111): Branches on signed less-than. -/
  | blt (x : Exec) (ra rb : BitVec 5) (off : BitVec 13)
  /-- BGE (R111): Branches on signed greater-or-equal. -/
  | bge (x : Exec) (ra rb : BitVec 5) (off : BitVec 13)
  /-- BLTU (R111): Branches on unsigned less-than. -/
  | bltu (x : Exec) (ra rb : BitVec 5) (off : BitVec 13)
  /-- BGEU (R111): Branches on unsigned greater-or-equal. -/
  | bgeu (x : Exec) (ra rb : BitVec 5) (off : BitVec 13)
  /-- BSET (R111): Branches when ra AND rb is nonzero. -/
  | bset (x : Exec) (ra rb : BitVec 5) (off : BitVec 13)
  /-- BCLR (R111): Branches when ra AND rb is zero. -/
  | bclr (x : Exec) (ra rb : BitVec 5) (off : BitVec 13)
  /-- JAL (R110): Jumps pc-relative and links pc + 4 into rd. -/
  | jal (x : Exec) (rd : BitVec 5) (off : BitVec 21)
  /-- JALR (R110): Jumps to ra + immediate and links pc + 4 into rd. -/
  | jalr (x : Exec) (rd ra : BitVec 5) (imm : BitVec 16)
  /-- EMIT (R115): Checks the target tag of an emission with time offset and appends an emission record. -/
  | emit (x : Exec) (pv : BitVec 4) (ro : BitVec 5) (t : Bool) (mask : BitVec 8)
  /-- EMITD (R115): Checks the delta + 1 target and appends an emission record. -/
  | emitd (x : Exec) (pv : BitVec 4) (t : Bool) (mask : BitVec 8)
  /-- STATE (R116): Records g12–g15 as new values of the state words named in SMASK. -/
  | state (x : Exec) (smask : BitVec 4)
  /-- DONE (R116): Ends the firing and moves its emission list and state writes to the Emit queue once there is room. -/
  | done (x : Exec)
  /-- TRAP (R118): Raises the USER trap with code IMM16. -/
  | trap (x : Exec) (imm : BitVec 16)
  /-- WAIT (R121): Stops issue on a service core until an interrupt is pending or a task is ready for it. -/
  | wait (x : Exec)
  /-- RETI (R121): Returns from a trap or interrupt, restoring pc, PMODE and IE. -/
  | reti (x : Exec)
  /-- FENCE (R121): Issues only once every earlier load and store of the core has completed. -/
  | fence (x : Exec)
  /-- CSRGET (R123): Reads a CSR into rd. -/
  | csrget (x : Exec) (rd : BitVec 5) (csr : BitVec 12)
  /-- CSRPUT (R123): Writes ra into a CSR. -/
  | csrput (x : Exec) (ra : BitVec 5) (csr : BitVec 12)
  /-- CSRSWAP (R123): Swaps a CSR with ra in one access. -/
  | csrswap (x : Exec) (rd ra : BitVec 5) (csr : BitVec 12)
  /-- CSRINS (R123): Inserts the bits of ra under a mask into a CSR. -/
  | csrins (x : Exec) (rd ra : BitVec 5) (csr : BitVec 12)
  /-- LKACQ (R125): Requests or renews a lock and returns the owner read back. -/
  | lkacq (x : Exec) (rd ra : BitVec 5) (imm : BitVec 12)
  /-- LKREL (R125): Releases a lock the core owns. -/
  | lkrel (x : Exec) (rd ra : BitVec 5) (imm : BitVec 12)
  /-- TOKEN (R215): A TOKEN packet taken at its destination is pushed into the PE's Receive FIFO. -/
  | token (die : BitVec 2) (stop : BitVec 5)
  /-- TOKEN_MC (R217): A multicast token packet is taken at a stop and its entries delivered to the PEs of that tile. -/
  | tokenMc (die : BitVec 2) (stop : BitVec 5)
  /-- ANTI (R215): An anti-token packet taken at its destination is pushed into the PE's Receive FIFO. -/
  | anti (die : BitVec 2) (stop : BitVec 5)
  /-- ANTI_MC (R217): A multicast anti-token packet is delivered to its destination PEs. -/
  | antiMc (die : BitVec 2) (stop : BitVec 5)
  /-- CONTROL (R215): A control-token packet from the hub injector is delivered to its destination PE. -/
  | control (die : BitVec 2) (stop : BitVec 5)
  /-- SLOT_REL (R23): A slot release frees one or two in-transit slots of the sending tile. -/
  | slotRel (dst : EndPoint)
  /-- RD (R215): A memory read request is served and answered with RD_RSP or ERR_RSP. -/
  | rd (die : BitVec 2) (link : HbmLink)
  /-- WR (R215): A memory write request is served and answered with WR_ACK or ERR_RSP. -/
  | wr (die : BitVec 2) (link : HbmLink)
  /-- CFG_RD (R226): A stop register read is answered with CFG_RSP or ERR_RSP. -/
  | cfgRd (die : BitVec 2) (stop : BitVec 5)
  /-- CFG_WR (R229): A stop register write takes effect in the next cycle and is answered with CFG_RSP. -/
  | cfgWr (die : BitVec 2) (stop : BitVec 5)
  /-- RD_RSP (R215): A read response delivers data to its initiator. -/
  | rdRsp (dst : EndPoint)
  /-- WR_ACK (R215): A write acknowledgement completes a write at its initiator. -/
  | wrAck (dst : EndPoint)
  /-- CFG_RSP (R215): A configuration response completes a CFG_RD or CFG_WR. -/
  | cfgRsp (dst : EndPoint)
  /-- ERR_RSP (R215): An error response completes a request with status ISOLATED, DATA or ADDRESS. -/
  | errRsp (dst : EndPoint)
  /-- MATCH_ARRIVAL (R71): Match takes an arrival from the Receive FIFO and looks it up, merges, annihilates, stores or places it. -/
  | matchArrival (p : PeId) (par : Parity)
  /-- MOB_PROBE_COMPLETE (R62): A Match Overflow Buffer probe returns and the parked arrival is handled. -/
  | mobProbeComplete (p : PeId) (slot : BitVec 3)
  /-- DEEP_MATCH_PROBE_COMPLETE (R61): A deep-match probe returns from HBM and the parked arrival is handled. -/
  | deepMatchProbeComplete (p : PeId) (slot : BitVec 3)
  /-- DEEP_MATCH_WRITE (R60): A group moved from the MOB is written behind into its deep-match buckets. -/
  | deepMatchWrite (t : TileId)
  /-- ARMING (R64): Gather completes the arming of a group from its node record and makes the straggler check. -/
  | arming (p : PeId)
  /-- DESCRIPTOR_INSERT (R85): Ready writes a descriptor for a presented group into a ready queue at its level. -/
  | descriptorInsert (p : PeId)
  /-- SPILL (R87): After 1,024 cycles of refused arrivals the PE enters spill and defers presentations. -/
  | spill (p : PeId)
  /-- DISPATCH (R88): Ready dispatches the eligible descriptor of lowest level and earliest SEQ. -/
  | dispatch (p : PeId) (par : Parity)
  /-- JOURNAL_GRANT (R172): The journal slice decides a request for entries and grants or refuses it. -/
  | journalGrant (t : TileId)
  /-- EMIT_FIRING (R93): Emit carries out a firing, update or command: tokens, journal entries, state and held-value writes. -/
  | emitFiring (p : PeId) (par : Parity)
  /-- KICK (R79): Fires the node's code with g4 = 0 and held values. -/
  | kick (p : PeId)
  /-- DEPOSIT_HELD (R79): Writes the held value of a port from the control token. -/
  | depositHeld (p : PeId)
  /-- DEPOSIT_STATE (R79): Writes masked bits of a state word from the control token. -/
  | depositState (p : PeId)
  /-- READ_NODE (R79): Copies state words and held values, released when GVT passes the tag. -/
  | readNode (p : PeId)
  /-- ROUTE (R94): Route injects the next packet by the path of R22, merging multicast where allowed. -/
  | route (p : PeId)
  /-- STOP_INJECT (R224): A tile stop selects its next injection candidate by age and job shares. -/
  | stopInject (die : BitVec 2) (stop : BitVec 5)
  /-- RING_HOP (R220): A packet moves to the next stop when it holds credits, arbitrated by age. -/
  | ringHop (die : BitVec 2) (stop : BitVec 5) (ring : BitVec 4) (ecc : Ecc)
  /-- FOXGLOVE_TRAVERSAL (R227): A packet crosses a Foxglove link and is routed at the far stop with DETOUR set. -/
  | foxgloveTraversal (die : BitVec 2) (link : BitVec 4) (back : Bool) (vc : BitVec 2) (ecc : Ecc)
  /-- BRIDGE_CROSSING (R225): A packet crosses the bridges and die-to-die switch to another die or the hub. -/
  | bridgeCrossing (die : BitVec 2) (br toHub : Bool) (vc : BitVec 2) (ecc : Ecc)
  /-- LKS_RT (R229): A routing-table write applies to packets routed from the next cycle. -/
  | lksRt (die : BitVec 2) (stop d : BitVec 5) (v : Word)
  /-- LKS_STOP_CFG (R228): Marks segments unusable or a stop dead and re-routes queued packets. -/
  | lksStopCfg (die : BitVec 2) (stop : BitVec 5) (v : Word)
  /-- FENCE_REQ (R230): Writing REQ 1 starts DRAINING of a stop. -/
  | fenceReq (die : BitVec 2) (stop : BitVec 5)
  /-- FENCE_OPEN (R230): Writing REQ 0 cancels a drain or releases isolation. -/
  | fenceOpen (die : BitVec 2) (stop : BitVec 5)
  /-- FORCE (R230): Writing FORCE 1 while DRAINING isolates the tile at once. -/
  | force (die : BitVec 2) (stop : BitVec 5)
  /-- FENCE_ACK (R230): When queues are empty and nothing is outstanding the stop becomes FENCED. -/
  | fenceAck (die : BitVec 2) (stop : BitVec 5)
  /-- FENCE_TIMEOUT (R230): DRAINING for LKS_FENCE_TIMEOUT cycles sets TIMEOUT and raises the stop interrupt. -/
  | fenceTimeout (die : BitVec 2) (stop : BitVec 5)
  /-- HORIZON_SNAPSHOT (R187): At each c0 every unit samples its terms for the reduction. -/
  | horizonSnapshot
  /-- HORIZON_DELIVERY (R188): The hub combines the reduction and delivers new GVT and SH. -/
  | horizonDelivery (void : Option (BitVec 3))
  /-- COMMIT_SWEEP (R63): Iris and MOB free FIRED groups below GVT, or return them to WAITING on rollback. -/
  | commitSweep (x : SweepAt)
  /-- FOSSIL_COLLECTION (R174): Every journal entry of the job below GVT without unwritten stores is freed. -/
  | fossilCollection (t : TileId) (j : JobId)
  /-- DESCRIPTOR_SWEEP (R84): Ready recomputes LEVEL and FAR of every descriptor after a new SH or W. -/
  | descriptorSweep (p : PeId) (j : JobId)
  /-- MOB_RESCAN (R186): A rescan completes and sets the per-job least-tag register. -/
  | mobRescan (deep : Bool) (unit : ClusterId) (j : JobId)
  /-- ROLLBACK (R152): A node is rolled back to a tag: state restored, generation advanced, anti-tokens sent. -/
  | rollback (t : TileId)
  /-- STORE_WRITE (R176): The tile store writer issues a journaled store to HBM. -/
  | storeWrite (t : TileId)
  /-- STORE_ACK (R176): Acknowledgement of all stores of a firing frees its journal entries. -/
  | storeAck (t : TileId)
  /-- GOVERNOR_PERIOD (R179): At each governor period end every tile halves, keeps or doubles W per job. -/
  | governorPeriod
  /-- STALL_EVENT (R72): When GVT has not advanced for STALL_LIMIT_US the watchdog reports holders and acts. -/
  | stallEvent (j : JobId)
  /-- PAUSE_TIME (R196): A write requests a pause at the later of the tag and the highest SH. -/
  | pauseTime (via : Path) (j : JobId) (t : BitVec 64)
  /-- RESUME (R199): A write returns a PAUSED job to RUN or cancels a pending pause. -/
  | resume (via : Path) (j : JobId) (v : Byte)
  /-- ORPHAN_DISCARD (R73): A write frees every orphaned group of a PAUSED job. -/
  | orphanDiscard (via : Path) (j : JobId) (v : Byte)
  /-- WAVE_START (R191): The Horizon Root starts a system wave down the spanning tree. -/
  | waveStart
  /-- HZ_REQ (R372): A wave request makes the module contribute its next reduction for each named job. -/
  | hzReq (f : BitVec 3) (u : List (BitVec 128))
  /-- HZ_UP (R372): A child's minima are combined toward the root. -/
  | hzUp (f : BitVec 3) (u : List (BitVec 128))
  /-- HZ_DOWN (R372): A wave result with any pause tag is applied and passed on to children. -/
  | hzDown (f : BitVec 3) (u : List (BitVec 128))
  /-- HZ_PAUSE (R372): A pause tag accepted on a module is carried toward the root. -/
  | hzPause (f : BitVec 3) (u : List (BitVec 128))
  /-- HZ_ACK (R372): Acknowledges a horizon set and stops its repeats. -/
  | hzAck (f : BitVec 3) (u : List (BitVec 128))
  /-- HZ_REPEAT (R372): An unacknowledged horizon set is repeated every 1 µs. -/
  | hzRepeat (f : BitVec 3)
  /-- HZ_FRAME_ACK (R372): A horizon acknowledgement makes the sender release ledger slots with SLOT_REL. -/
  | hzFrameAck (f : BitVec 3) (u : List (BitVec 128))
  /-- TIME (R373): A wall-time symbol corrects WALLTIME toward the parent's under SYNC_MODE 1. -/
  | time (f : BitVec 3) (u : List (BitVec 128))
  /-- TARGET_EDGE (R202): A TGT_CLK edge samples inputs, injects tokens, drives outputs and advances the ceiling. -/
  | targetEdge (rising : Bool) (ins : BitVec 16)
  /-- SYNC_IN_EDGE (R208): A SYNC_IN edge corrects WALLTIME and restarts the horizon-period counter. -/
  | syncInEdge
  /-- SYNC_OUT_PULSE (R209): WALLTIME crossing a multiple of SYNC_OUT_PERIOD_NS drives SYNC_OUT for 64 hub cycles. -/
  | syncOutPulse
  /-- CORRECTED_WRITEBACK (R237): A corrected SRAM word is written back in the next free bank cycle. -/
  | correctedWriteback
  /-- SRAM_SCRUB (R243): The SRAM scrubber reads, corrects or poisons the next word. -/
  | sramScrub
  /-- HBM_SCRUB (R243): The HBM scrubber reads, corrects or poisons the next half. -/
  | hbmScrub
  /-- PATCH_INSTALL (R249): PT_LOC with V = 1 copies the word into PT_DATA and serves it from there. -/
  | patchInstall (die : BitVec 2) (e : BitVec 5) (v : Word)
  /-- PATCH_END (R249): PT_LOC with V = 0 copies PT_DATA back and ends the patch. -/
  | patchEnd (die : BitVec 2) (e : BitVec 5) (v : Word)
  /-- REMAP_ENABLE (R252): HBM_REMAP with V = 1 starts copying the source unit to the spare. -/
  | remapEnable (e : BitVec 6) (v : Word)
  /-- REMAP_COPY_COMPLETE (R252): The unit copy ends and accesses are served from the spare. -/
  | remapCopyComplete (e : BitVec 6)
  /-- REMAP_END (R252): HBM_REMAP with V = 0 ends the remap without a copy. -/
  | remapEnd (e : BitVec 6) (v : Word)
  /-- ECC_INJECT_SRAM (R256): Arms inversion of check bits on the next write of an SRAM location. -/
  | eccInjectSram (via : Path) (v : Word)
  /-- ECC_INJECT_HBM (R256): Arms alteration of symbols on the next write of an HBM half. -/
  | eccInjectHbm (via : Path) (v : Word)
  /-- LOAD (R273): A write of 1 accepts or refuses a load of the staged image for the job. -/
  | load (via : Path) (j : JobId) (v : Byte)
  /-- LOAD_START (R275): A queued load starts and runs the checks and copy steps of Table 12-8. -/
  | loadStart
  /-- STAGING_MIB (R274): Allocates, replaces or frees the job's host-staging region. -/
  | stagingMib (via : Path) (j : JobId) (v : BitVec 32)
  /-- KEY_SEAL (R270): Unwraps and seals a key into an empty slot. -/
  | keySeal (via : Path) (data : List Byte)
  /-- KEY_REVOKE (R270): Revokes a key slot permanently. -/
  | keyRevoke (via : Path) (v : Byte)
  /-- SIGN_LOCK (R271): Locks signer hashes and REQUIRE_SIGNED until VIN is removed. -/
  | signLock (via : Path) (v : Byte)
  /-- TSK_POST (R290): A core store posts flags to a task and completes when admitted. -/
  | tskPost (c : BitVec 4) (v : Word)
  /-- POST_ADMISSION (R290): Up to 4 waiting posters are admitted to the post queue round-robin. -/
  | postAdmission
  /-- POST_APPLY (R290): The post queue ORs one post into its task's FLAGS. -/
  | postApply (bad : Bool)
  /-- TASK_DISPATCH (R287): A READY task is dispatched to the lowest idle core in its affinity. -/
  | taskDispatch
  /-- TSK_END (R288): A store ends the task running on the core. -/
  | tskEnd (c : BitVec 4)
  /-- TSK_CFG (R288): A task configuration write changes readiness or disables the task. -/
  | tskCfg (t : BitVec 10) (v : Word)
  /-- EVENT_RING_WRITE (R292): Hardware writes a record to an event ring when it has room and requests its post. -/
  | eventRingWrite (r : BitVec 2)
  /-- EVR_CFG (R292): Writing EN = 1 resets the ring counts. -/
  | evrCfg (r : BitVec 2) (v : Word)
  /-- TILE_RBQ_KEY (R293): Firmware re-issues an overflowed rollback request into the tile queue. -/
  | tileRbqKey (t : TileId) (v : Word)
  /-- OBJ_DONE (R383): Firmware completes a passed-on object access with status and tag. -/
  | objDone (c : BitVec 4) (v : Word)
  /-- INTERRUPT_EDGE (R299): A rising edge sets the source's pending bit. -/
  | interruptEdge (n : BitVec 9) (bad : Bool)
  /-- INTERRUPT_OFFER (R300): The best eligible source is offered to a core after arbitration latency. -/
  | interruptOffer (c : BitVec 4)
  /-- INTERRUPT_ENTRY (R302): The core pushes a frame and enters the handler, committing in e4. -/
  | interruptEntry (c : BitVec 4)
  /-- IC_SWSET (R298): Raises edges on software sources. -/
  | icSwset (v : Word)
  /-- IC_CFG (R308): Changes a source's enable, target or priority with six-cycle effect. -/
  | icCfg (n : BitVec 9) (v : Word)
  /-- LOCK_REQ (R311): A take, renew or release request is decided by the lock in its cycle. first: a request that reaches it in that cycle. others: the rest. -/
  | lockReq (n : Byte) (first : LockAsk) (others : List LockAsk) (bad : Bool)
  /-- LEASE_EXPIRY (R313): A lease reaching its limit frees the lock and logs the owner. -/
  | leaseExpiry (n : LockTurn)
  /-- BAR2_READ (R320): A host read through the aperture reaches HBM or completes with UR. -/
  | bar2Read (fn : BitVec 4) (o : BitVec 36) (n : BitVec 13)
  /-- BAR2_WRITE (R320): A host write through the aperture reaches HBM or is discarded. -/
  | bar2Write (fn : BitVec 4) (o : BitVec 36) (data : HostWrite)
  /-- APERTURE_ENTRY (R319): An aperture-table write maps, rejects or invalidates a page. -/
  | apertureEntry (fn : BitVec 4) (e : BitVec 15) (v : Word)
  /-- RING_CFG (R321): Writing EN enables or disables a ring pair and resets its counts. -/
  | ringCfg (fn : BitVec 4) (k : BitVec 6) (v : Word)
  /-- RING_SQ_TAIL (R321): A doorbell write posts the pair's hardware source. -/
  | ringSqTail (fn : BitVec 4) (k : BitVec 6) (v : Word)
  /-- COMPLETION_WRITE (R323): A completion entry is written when the completion ring has room. -/
  | completionWrite (k : BitVec 6)
  /-- CMD_NOP (R324): Command NOP completes with no effect. -/
  | cmdNop (k : BitVec 6) (e : Sub)
  /-- CMD_OBJ_READ (R324): Copies an object value to host memory. -/
  | cmdObjRead (k : BitVec 6) (e : Sub)
  /-- CMD_OBJ_WRITE (R324): Writes an object from host memory. -/
  | cmdObjWrite (k : BitVec 6) (e : Sub) (host : Option (List Byte))
  /-- CMD_LOAD (R273): Writes image address and length and starts a load, completing at its end. -/
  | cmdLoad (k : BitVec 6) (e : Sub)
  /-- CMD_UNLOAD (R324): Absorbs tokens, frees regions and empties the job. -/
  | cmdUnload (k : BitVec 6) (e : Sub)
  /-- CMD_RUN (R278): A LOADED job enters RUN. -/
  | cmdRun (k : BitVec 6) (e : Sub)
  /-- CMD_PAUSE (R196): Writes PAUSE_TIME and completes when the pause is accepted. -/
  | cmdPause (k : BitVec 6) (e : Sub)
  /-- CMD_RESUME (R199): Writes RESUME := 1. -/
  | cmdResume (k : BitVec 6) (e : Sub)
  /-- CMD_STOP (R324): Pauses a running job, then absorbs its tokens and halts it. -/
  | cmdStop (k : BitVec 6) (e : Sub)
  /-- CMD_CONTROL (R189): Injects a control token subject to admission. -/
  | cmdControl (k : BitVec 6) (e : Sub) (host : Option (List Byte))
  /-- CMD_READ_STATE (R162): Copies a node's state words and held values to host memory. -/
  | cmdReadState (k : BitVec 6) (e : Sub)
  /-- CMD_DM_READ (R162): Copies design memory to host memory. -/
  | cmdDmRead (k : BitVec 6) (e : Sub)
  /-- CMD_DM_WRITE (R324): Copies host memory into committed design memory. -/
  | cmdDmWrite (k : BitVec 6) (e : Sub) (host : Option (List Byte))
  /-- CMD_STAGE_IN (R324): Copies host memory into staging or probe regions. -/
  | cmdStageIn (k : BitVec 6) (e : Sub) (host : Option (List Byte))
  /-- CMD_STAGE_OUT (R324): Copies staging or probe regions to host memory. -/
  | cmdStageOut (k : BitVec 6) (e : Sub)
  /-- TLP_ARBITRATION (R326): The link sends the next upstream TLP by age and job shares. -/
  | tlpArbitration
  /-- FLR_VF (R328): A VF reset faults its job, aborts its load and disables its pairs. -/
  | flrVf (j : JobId)
  /-- FLR_PF (R329): A PF reset loses every VF and applies HOST_LOSS_ACTION to PF-bound jobs. -/
  | flrPf
  /-- LINK_LOSS (R329): Loss of the PCIe link is handled as a PF FLR. -/
  | linkLoss
  /-- PERST_ASSERT (R432): A falling PCIE_PERST_N while the link is up is a link loss. -/
  | perstAssert
  /-- VF_ENABLE_CHANGE (R328): Clearing VF Enable or lowering NumVFs loses the affected VFs. -/
  | vfEnableChange (n : BitVec 4)
  /-- BUS_MASTER_ENABLE (R330): Clearing stops DMA and holds messages; setting releases them. -/
  | busMasterEnable (fn : BitVec 4) (on : Bool)
  /-- MEMORY_SPACE_ENABLE (R330): Clearing makes BAR accesses complete with UR. -/
  | memorySpaceEnable (fn : BitVec 4) (v : MemSpace)
  /-- POWER_STATE_CHANGE (R416): A function's D-state change; PF D3hot to D0 wakes from Snowdrop. -/
  | powerStateChange (fn : BitVec 4) (d3 : Bool)
  /-- FEATURE_ACCEPT (R327): Accepts a subset of offered feature bits while READY. -/
  | featureAccept (via : Path) (v : BitVec 128)
  /-- MBX_REQ (R389): Writing GO starts a mailbox object access. -/
  | mbxReq (fn : BitVec 4) (v : Word)
  /-- PROBE_ITEM (R334): The collector receives and holds a probe item in the commit buffer. -/
  | probeItem (t : TileId)
  /-- PROBE_CANCEL (R335): A rollback cancel drops held items of undone firings. -/
  | probeCancel (t : TileId)
  /-- FRONT_END_PUSH (R339): A released item is pushed into the stream front end when it has room. -/
  | frontEndPush (n : BitVec 6)
  /-- ITEM_WRITE (R343): The writer pops an item into the open packet when free space allows. -/
  | itemWrite (n : BitVec 6)
  /-- PACKET_COMMIT (R342): HBM acknowledges a packet; STR_WRITE advances and a notice may be sent. -/
  | packetCommit (n : BitVec 6)
  /-- STR_READ (R344): A write moves the consumer position within mark and write counts. -/
  | strRead (n : BitVec 6) (v : Word)
  /-- MARK (R344): Sets STR_MARK := STR_READ. -/
  | mark (n : BitVec 6)
  /-- REWIND (R344): Sets STR_READ := STR_MARK. -/
  | rewind (n : BitVec 6)
  /-- RELEASE (R344): Sets STR_RELEASE := STR_MARK, freeing buffer space. -/
  | release (n : BitVec 6)
  /-- DISABLE_FLUSH (R346): Writes queued items, closes with FINAL and disables the stream. -/
  | disableFlush (n : BitVec 6)
  /-- DISABLE_DISCARD (R346): Drops queued items, closes with TRUNC and FINAL and disables the stream. -/
  | disableDiscard (n : BitVec 6)
  /-- CLOSE (R341): Closes the open packet of the stream. -/
  | close (n : BitVec 6)
  /-- FL_ENABLE (R363): Enables a port into TRAINING or disables it from any state. -/
  | flEnable (via : Path) (f : BitVec 3) (v : Byte)
  /-- TRAINING_COMPLETE (R354): All lanes lock and the port enters IDENT. -/
  | trainingComplete (f : BitVec 3)
  /-- TRAINING_ABANDON (R354): A training attempt not done in 500 ms is abandoned. -/
  | trainingAbandon (f : BitVec 3)
  /-- DOWN_TIMEOUT (R363): One second in DOWN starts a new training attempt. -/
  | downTimeout (f : BitVec 3)
  /-- IDENTITY_FRAME_TIMER (R364): In IDENT the Identity Frame is resent every 10 µs. -/
  | identityFrameTimer (f : BitVec 3)
  /-- IDENTITY_FRAME (R364): A received Identity Frame is checked and answered with accept or hold. -/
  | identityFrame (f : BitVec 3) (u : List (BitVec 128))
  /-- IDENT_ACK (R364): An accept or hold moves the port to UP or HELD. -/
  | identAck (f : BitVec 3) (u : List (BitVec 128))
  /-- FRAME_SEND (R360): A data frame is sent when credits, replay room and shares allow. -/
  | frameSend (f : BitVec 3)
  /-- DATA_FRAME (R358): A received data frame is accepted in order or discarded with NAK. -/
  | dataFrame (f : BitVec 3) (u : FrameIn)
  /-- ACK (R357): Frees acknowledged frames from the replay buffer. -/
  | ack (f : BitVec 3) (u : List (BitVec 128))
  /-- ACK_TIMER (R358): An ACK is sent at least every 500 ns while frames are unacknowledged. -/
  | ackTimer (f : BitVec 3)
  /-- NAK (R359): Makes the sender replay from the expected SEQ. -/
  | nak (f : BitVec 3) (u : List (BitVec 128))
  /-- CREDIT (R360): Updates freed-unit counts per VC. -/
  | credit (f : BitVec 3) (u : List (BitVec 128))
  /-- CREDIT_TIMER (R360): CREDIT is sent at least every 500 ns. -/
  | creditTimer (f : BitVec 3)
  /-- PAUSE (R361): Stops new data frames on the named VCs for the given quanta. -/
  | pause (f : BitVec 3) (u : List (BitVec 128))
  /-- PAUSE_EXPIRY (R361): The pause time of a VC runs out. -/
  | pauseExpiry (f : BitVec 3) (vc : BitVec 2)
  /-- REPLAY_TIMEOUT (R359): No ACK progress replays from the oldest frame, and the fifth time enters RETRAIN. -/
  | replayTimeout (f : BitVec 3)
  /-- RETRAIN_COMPLETE (R359): Lock is regained and the port returns to UP with a replay. -/
  | retrainComplete (f : BitVec 3)
  /-- HEARTBEAT_SEND (R366): A HEARTBEAT is sent every 1 ms of WALLTIME. -/
  | heartbeatSend (f : BitVec 3)
  /-- HEARTBEAT (R366): A received heartbeat restarts the timer and gives the round trip. -/
  | heartbeat (f : BitVec 3) (u : List (BitVec 128))
  /-- HEARTBEAT_EXPIRY (R366): A missed beat is counted; the third puts the port DOWN. -/
  | heartbeatExpiry (f : BitVec 3)
  /-- CALIBRATION_TRIGGER (R371): High error ratio, period or request makes the receiver send CAL_REQ. -/
  | calibrationTrigger (f : BitVec 3)
  /-- CAL_REQ (R371): The transmitter sends the training pattern for a 2 µs window. -/
  | calReq (f : BitVec 3) (u : List (BitVec 128))
  /-- CALIBRATION_WINDOW_END (R371): The window ends and the transmitter replays from its oldest frame. -/
  | calibrationWindowEnd (f : BitVec 3)
  /-- LINK_STATE (R367): A flooded link-state message updates the system map and routes. -/
  | linkState
  /-- RESYNC (R369): A partner's resync report makes unacknowledged frames forward on new routes. -/
  | resync
  /-- RESYNC_TIMEOUT (R369): No RESYNC in time faults jobs with tokens on the lost link. -/
  | resyncTimeout (f : BitVec 3)
  /-- FRAME_ACK_RELAY (R369): A relayed horizon acknowledgement releases slots of a lost link's frames. -/
  | frameAckRelay
  /-- OBJECT (R390): A peer object access is served under the peer rules. -/
  | object
  /-- PEER_LOCK (R374): A peer take or release of a lock through the Fabric peer proxy. -/
  | peerLock
  /-- LOCK_WAKE (R374): A peer lock wake message. -/
  | lockWake
  /-- JOB_CHECK (R278): Modules compare DESIGN_ID and MODULE_MASK before a spanning job runs. -/
  | jobCheck
  /-- FL_RT (R368): A Fabric routing entry write applies from the next hub cycle. -/
  | flRt (k : Byte) (v : Word)
  /-- READ (R387): An SOP read snapshots the value and returns the first segment. -/
  | read (ident : BitVec 11) (b : List Byte)
  /-- WRITE (R387): An SOP write is applied at once or opens a segmented transfer. -/
  | write (ident : BitVec 11) (b : List Byte)
  /-- READ_SEG (R387): Returns the next 48 B segment of the read snapshot. -/
  | readSeg (ident : BitVec 11) (b : List Byte)
  /-- WRITE_SEG (R387): Carries the next 60 B of a segmented write. -/
  | writeSeg (ident : BitVec 11) (b : List Byte)
  /-- ABORT (R387): Ends the open transfer without writing. -/
  | abort (ident : BitVec 11) (b : List Byte)
  /-- LOCK (R387): A management take, renew or release of a lock. -/
  | lock (ident : BitVec 11) (b : List Byte)
  /-- TRANSFER_LAPSE (R387): A transfer idle for 100 ms lapses. -/
  | transferLapse
  /-- OBJECT_TIMEOUT (R383): An access not completed by firmware in 10 ms is answered TIMEOUT. -/
  | objectTimeout
  /-- SOP_HEARTBEAT (R388): The module sends its heartbeat frame every HB_PERIOD_MS. -/
  | sopHeartbeat
  /-- EVENT_FRAME (R388): A queued event frame is sent on the field bus. -/
  | eventFrame
  /-- ERRLOG_INDEX (R395): Selects an error-log entry by recording its SEQ. -/
  | errlogIndex (via : Path) (v : BitVec 32)
  /-- ERRLOG_CLEAR (R449): Removes non-permanent and reinstated entries. -/
  | errlogClear (via : Path) (v : Byte)
  /-- TEST_UNLOCK (R396): Unlocks the test objects until reset and logs it permanently. -/
  | testUnlock (via : Path) (v : BitVec 32)
  /-- OVR_UNLOCK (R413): Opens a 1 s window for the reset override. -/
  | ovrUnlock (via : Path) (v : BitVec 32)
  /-- OVR_RELEASE (R413): Applies the override and boots despite RESET_N held low. -/
  | ovrRelease (via : Path) (v : Byte)
  /-- NODE_ID_SRC (R434): Selects the node-ID source; writing 0 resamples NODEID pins. -/
  | nodeIdSrc (via : Path) (v : Byte) (pins : BitVec 7)
  /-- MODULE_CMD_BOOT (R407): Starts a boot from STANDBY. -/
  | moduleCmdBoot (via : Path)
  /-- MODULE_CMD_SNOWDROP (R414): Runs the Snowdrop entry sequence from READY. -/
  | moduleCmdSnowdrop (via : Path)
  /-- SNOWDROP_SAVE_RETRY (R414): A not-ready save is retried every 1 ms and the entry refused after 100 ms. -/
  | snowdropSaveRetry
  /-- MODULE_CMD_WAKE (R416): Runs the wake sequence from SNOWDROP to READY. -/
  | moduleCmdWake (via : Path) (found : WakeTest)
  /-- MODULE_CMD_REBOOT (R404): Reboots the module, losing every job. -/
  | moduleCmdReboot (via : Path)
  /-- MODULE_CMD_STANDBY (R404): Returns the module to STANDBY. -/
  | moduleCmdStandby (via : Path)
  /-- JOB_CMD_RUN (R394): Object write with the effect of the RUN command. -/
  | jobCmdRun (via : Path) (j : JobId)
  /-- JOB_CMD_STOP (R394): Object write with the effect of the STOP command. -/
  | jobCmdStop (via : Path) (j : JobId)
  /-- JOB_CMD_UNLOAD (R394): Object write with the effect of the UNLOAD command. -/
  | jobCmdUnload (via : Path) (j : JobId)
  /-- VIN_RISE (R397): VIN above 4.5 V with REFCLK starts the always-on domain into STANDBY. -/
  | vinRise (mv : BitVec 16) (node : BitVec 7)
  /-- VIN_LOSS (R397): VIN below 4.2 V puts the module OFF and loses all state. -/
  | vinLoss
  /-- VIN_LEVEL_CROSSING (R397): A crossing of 10.0 V or 7.0 V sets interrupt source 163. -/
  | vinLevelCrossing (mv : BitVec 16)
  /-- BROWN_OUT (R397): VIN below 6.5 V switches off main rails and enters FAULT. -/
  | brownOut (mv : BitVec 16)
  /-- OVERVOLTAGE (R397): VIN above 18.5 V switches off main rails and enters FAULT. -/
  | overvoltage (mv : BitVec 16)
  /-- REFCLK_START (R429): REFCLK meeting its requirements lets the always-on domain start. -/
  | refclkStart (node : BitVec 7)
  /-- BOOT_START (R407): Once its conditions hold, a boot starts from STANDBY. -/
  | bootStart
  /-- BOOT_STAGE (R409): A boot stage completes and the next begins, or the boot enters FAULT. -/
  | bootStage (r : StageEnd)
  /-- RESET_ASSERT (R411): A recognised RESET_N low holds the domains in reset and enters STANDBY. -/
  | resetAssert
  /-- RESET_RELEASE (R411): A recognised RESET_N high clears RESET_HELD and starts a boot. -/
  | resetRelease
  /-- POWER_CONTROL (R399): Every 100 µs the controller sheds or restores one step against the cap. -/
  | powerControl (w : BitVec 16)
  /-- CURRENT_LIMIT (R401): Input current at 72 A applies the droop response in every tile. -/
  | currentLimit (ma : BitVec 32)
  /-- THERMAL_ALERT (R402): TJ_MAX_C at 105 °C activates the thermal rule. -/
  | thermalAlert (tj : BitVec 32)
  /-- THERMAL_RULE_END (R402): TJ_MAX_C at 103 °C ends the thermal rule. -/
  | thermalRuleEnd (tj : BitVec 32)
  /-- THERMAL_TRIP (R402): A junction at 115 °C drives THERM_TRIP_N and enters FAULT. -/
  | thermalTrip (tj : BitVec 32)
  /-- RAIL_FAULT (R404): A main rail leaving regulation enters FAULT. -/
  | railFault (rail : Byte)
  /-- AVS_WINDOW (R419): At the end of each 1 µs window the tile adjusts VT by its slack. -/
  | avsWindow (t : TileId) (slack : BitVec 6)
  /-- DROOP_RESPONSE (R420): Zero slack stops issue for 16 cycles and raises VT. -/
  | droopResponse (t : TileId)
  /-- AVS_STAT (R10): A read returns and clears STRETCHES. -/
  | avsStat (t : TileId)
  /-- EXTEST (R436): Boundary-scan drive of the main-domain pins, in READY or FAULT only. -/
  | extest (d : Word)
  /-- SAMPLE_PRELOAD (R436): Samples or preloads the boundary-scan chain. -/
  | samplePreload (d : Word)
  /-- IDCODE (R436): Selects the IDCODE register. -/
  | idcode
  /-- HIGHZ (R436): Places the scanned pins in high impedance, in READY or FAULT only. -/
  | highz
  /-- BYPASS (R436): Selects the bypass register. -/
  | bypass
  /-- REQUEST_TIMEOUT (R446): An unanswered VC2 request acts as an ERR_RSP with status 1. -/
  | requestTimeout (dst : EndPoint) (tid : BitVec 12)
  /-- ERRLOG_WRITE (R448): A queued detection is written to the error log or merged. -/
  | errlogWrite
  /-- REFCLK_LOSS (R429): REFCLK ceasing to meet its requirements holds the always-on domain in reset and silences the field bus. -/
  | refclkLoss
  /-- PCIE_PERST_RELEASE (R432): A rising PCIE_PERST_N lets the PCIe link begin training once boot stage 2 has passed. -/
  | pciePerstRelease
  /-- PCIE_LINK_UP (R432): PCIe link training completes, the link reports its rate and width and begins to serve configuration requests. -/
  | pcieLinkUp (rate : BitVec 3) (width : BitVec 5)
  /-- MSIX_MASK_CHANGE (R325): Clearing a vector mask or the Function Mask, or setting MSI-X Enable, sends each pending message once. -/
  | msixMaskChange (fn : BitVec 4) (b : MsixBit)
  /-- HOST_DMA_COMPLETION (R322): A read or write of host memory for a ring pair completes, letting the command proceed or putting the pair in ERROR. -/
  | hostDmaCompletion (k : BitVec 6) (ok : Bool)
  /-- BUS_OFF (R384): The field-bus controller's error counters reach bus-off, which is counted in CAN_BUS_OFF and later recovered. -/
  | busOff
  /-- QSPI_OPERATION_COMPLETE (R298): A flash operation started through the QSPI controller completes and raises interrupt source 161. -/
  | qspiOperationComplete
  /-- OVR_WINDOW_END (R413): The 1 s window of an accepted OVR_UNLOCK ends and the unlock closes. -/
  | ovrWindowEnd
  /-- TEST_LOGIC_RESET (R436): The TAP enters Test-Logic-Reset by TMS, TRST_N or PGOOD low, returning the pins to functional control and selecting IDCODE. -/
  | testLogicReset
  /-- UNCORRECTABLE_CODEWORD (R375): An FEC codeword the port cannot correct is counted and sets an edge on interrupt source 152 + f. -/
  | uncorrectableCodeword (f : BitVec 3)
deriving DecidableEq, Repr

end Sys2Proof
end

