-- ==== Sys2Proof/Decode.lean ====
section
/-! DEFINITION. Commands from words: the table of operations and events gives its rows no bits, so no word spells a command; and, for the instructions of BIS, the 32-bit words of chapter 5 read and written (R101, R102, Tables 5-2 to 5-9). -/

namespace Sys2Proof

/-- The command a word of the table spells: the table gives no row any bits, so none. -/
def decodeTableWord (_nbits _w : Nat) : Option Instr := none

/-! Words of BIS (Table 5-2) -/

/-- Bits lo to lo + n - 1 of an instruction word. -/
def wf (w : BitVec 32) (lo n : Nat) : BitVec n := w.extractLsb' lo n

/-- An instruction, where what must hold of its reserved fields holds (R102). -/
def whenOk (ok : Bool) (i : Instr) : Option Instr := if ok then some i else none

/-- ALU functions (Table 5-4); none for a reserved one. -/
def decodeAlu (x : Exec) (rd ra rb : BitVec 5) (fn : BitVec 11) : Option Instr :=
  match fn.toNat with
  | 0x00 => some (.add x rd ra rb)
  | 0x01 => some (.sub x rd ra rb)
  | 0x02 => some (.and x rd ra rb)
  | 0x03 => some (.or x rd ra rb)
  | 0x04 => some (.xor x rd ra rb)
  | 0x05 => some (.andn x rd ra rb)
  | 0x06 => some (.orn x rd ra rb)
  | 0x07 => some (.xnor x rd ra rb)
  | 0x08 => some (.sll x rd ra rb)
  | 0x09 => some (.srl x rd ra rb)
  | 0x0a => some (.sra x rd ra rb)
  | 0x0b => some (.rol x rd ra rb)
  | 0x0c => some (.ror x rd ra rb)
  | 0x0d => some (.slt x rd ra rb)
  | 0x0e => some (.sltu x rd ra rb)
  | 0x0f => some (.min x rd ra rb)
  | 0x10 => some (.max x rd ra rb)
  | 0x11 => some (.minu x rd ra rb)
  | 0x12 => some (.maxu x rd ra rb)
  | 0x14 => some (.mul x rd ra rb)
  | 0x15 => some (.mulh x rd ra rb)
  | 0x16 => some (.mulhu x rd ra rb)
  | 0x18 => some (.div x rd ra rb)
  | 0x19 => some (.divu x rd ra rb)
  | 0x1a => some (.rem x rd ra rb)
  | 0x1b => some (.remu x rd ra rb)
  | 0x23 => some (.bext x rd ra rb)
  | 0x24 => some (.bdep x rd ra rb)
  | 0x20 => whenOk (rb == 0) (.popc x rd ra)
  | 0x21 => whenOk (rb == 0) (.clz x rd ra)
  | 0x22 => whenOk (rb == 0) (.ctz x rd ra)
  | 0x25 => whenOk (rb == 0) (.brev x rd ra)
  | 0x26 => whenOk (rb == 0) (.bswap x rd ra)
  | _ => none

/-- Immediate shifts (Table 5-3, SHI). -/
def decodeShi (x : Exec) (rd ra : BitVec 5) (imm : BitVec 16) : Option Instr :=
  let n : BitVec 6 := imm.extractLsb' 0 6
  match (imm.extractLsb' 6 10 : BitVec 10).toNat with
  | 0 => some (.shiSll x rd ra n)
  | 1 => some (.shiSrl x rd ra n)
  | 2 => some (.shiSra x rd ra n)
  | 3 => some (.shiRol x rd ra n)
  | 4 => some (.shiRor x rd ra n)
  | _ => none

/-- Four-state functions (Table 5-6). -/
def decodeL4 (x : Exec) (pd pa pb ps : BitVec 4) (fn : BitVec 3) : Option Instr :=
  match fn.toNat with
  | 0 => whenOk (ps == 0) (.l4and x pd pa pb)
  | 1 => whenOk (ps == 0) (.l4or x pd pa pb)
  | 2 => whenOk (ps == 0) (.l4xor x pd pa pb)
  | 3 => whenOk (pb == 0 && ps == 0) (.l4not x pd pa)
  | 4 => some (.l4mux x pd pa pb ps)
  | 5 => whenOk (ps == 0) (.l4res x pd pa pb)
  | 6 => whenOk (ps == 0) (.l4eq x pd pa pb)
  | _ => none

/-- Floating-point functions (Table 5-7). -/
def decodeFpa (x : Exec) (sz : Bool) (rm : BitVec 3) (rd ra rb : BitVec 5) (fn : BitVec 6) : Option Instr :=
  match fn.toNat with
  | 0x00 => some (.fadd x sz rm rd ra rb)
  | 0x01 => some (.fsub x sz rm rd ra rb)
  | 0x02 => some (.fmul x sz rm rd ra rb)
  | 0x03 => some (.fdiv x sz rm rd ra rb)
  | 0x05 => some (.fmin x sz rm rd ra rb)
  | 0x06 => some (.fmax x sz rm rd ra rb)
  | 0x08 => some (.feq x sz rm rd ra rb)
  | 0x09 => some (.flt x sz rm rd ra rb)
  | 0x0a => some (.fle x sz rm rd ra rb)
  | 0x0c => some (.fcopysign x sz rm rd ra rb)
  | 0x04 => whenOk (rb == 0) (.fsqrt x sz rm rd ra)
  | 0x0b => whenOk (rb == 0) (.fclass x sz rm rd ra)
  | 0x0d => whenOk (rb == 0) (.fneg x sz rm rd ra)
  | 0x0e => whenOk (rb == 0) (.fabs x sz rm rd ra)
  | 0x10 => some (.fcvtI x sz rm rd ra)
  | 0x11 => some (.fcvtU x sz rm rd ra)
  | 0x12 => some (.fcvtFi x sz rm rd ra)
  | 0x13 => some (.fcvtFu x sz rm rd ra)
  | 0x14 => some (.fcvtFf x sz rm rd ra)
  | 0x20 => whenOk (ra == 0 && rb == 0) (.frfs x sz rm rd)
  | 0x21 => whenOk (rd == 0 && rb == 0) (.fwfs x sz rm ra)
  | 0x22 => whenOk (ra == 0 && rb == 0) (.fcfs x sz rm rd)
  | _ => none

/-- Fused multiply-add, by variant (Table 5-7). -/
def decodeFma (x : Exec) (sz : Bool) (rm : BitVec 3) (rd ra rb rc : BitVec 5) (v : BitVec 2) : Option Instr :=
  match v.toNat with
  | 0 => some (.fmadd x sz rm rd ra rb rc)
  | 1 => some (.fmsub x sz rm rd ra rb rc)
  | 2 => some (.fnmadd x sz rm rd ra rb rc)
  | _ => some (.fnmsub x sz rm rd ra rb rc)

/-- Branches, by condition (Table 5-9). -/
def decodeBr (x : Exec) (ra rb : BitVec 5) (off : BitVec 13) (cond : BitVec 3) : Option Instr :=
  match cond.toNat with
  | 0 => some (.beq x ra rb off)
  | 1 => some (.bne x ra rb off)
  | 2 => some (.blt x ra rb off)
  | 3 => some (.bge x ra rb off)
  | 4 => some (.bltu x ra rb off)
  | 5 => some (.bgeu x ra rb off)
  | 6 => some (.bset x ra rb off)
  | _ => some (.bclr x ra rb off)

/-- System instructions (Table 5-3, SYS). -/
def decodeSys (x : Exec) (rest : BitVec 15) (fn : BitVec 11) : Option Instr :=
  match fn.toNat with
  | 0 => whenOk (rest == 0) (.wait x)
  | 1 => whenOk (rest == 0) (.reti x)
  | 2 => whenOk (rest == 0) (.fence x)
  | _ => none

/-- CSR accesses (R123). -/
def decodeCsr (x : Exec) (rd ra : BitVec 5) (op : BitVec 4) (csr : BitVec 12) : Option Instr :=
  match op.toNat with
  | 0 => whenOk (ra == 0) (.csrget x rd csr)
  | 1 => whenOk (rd == 0) (.csrput x ra csr)
  | 2 => some (.csrswap x rd ra csr)
  | 3 => some (.csrins x rd ra csr)
  | _ => none

/-- Lock helpers (R125). -/
def decodeLock (x : Exec) (rd ra : BitVec 5) (op : BitVec 4) (imm : BitVec 12) : Option Instr :=
  match op.toNat with
  | 0 => some (.lkacq x rd ra imm)
  | 1 => some (.lkrel x rd ra imm)
  | _ => none

/-- The instruction a word is, issued by an executor; none for a word that raises ILLEGAL by R102. -/
def decodeBis (x : Exec) (w : BitVec 32) : Option Instr :=
  let rd := wf w 21 5
  let ra := wf w 16 5
  let rb := wf w 11 5
  let imm := wf w 0 16
  match (wf w 26 6).toNat with
  | 0x01 => decodeAlu x rd ra rb (wf w 0 11)
  | 0x02 => some (.addi x rd ra imm)
  | 0x03 => some (.andi x rd ra imm)
  | 0x04 => some (.ori x rd ra imm)
  | 0x05 => some (.xori x rd ra imm)
  | 0x06 => some (.slti x rd ra imm)
  | 0x07 => some (.sltiu x rd ra imm)
  | 0x08 => decodeShi x rd ra imm
  | 0x09 => whenOk (ra == 0) (.lui x rd imm)
  | 0x0A => whenOk (wf w 0 3 == 0) (.lut3 x rd ra rb (wf w 3 8))
  | 0x0B => if wf w 0 7 == 0 then decodeL4 x (wf w 22 4) (wf w 18 4) (wf w 14 4) (wf w 10 4) (wf w 7 3) else none
  | 0x0C => if wf w 1 1 == 0 then decodeFpa x (w.getLsbD 0) (wf w 2 3) rd ra rb (wf w 5 6) else none
  | 0x0D => decodeFma x (w.getLsbD 0) (wf w 1 3) rd ra rb (wf w 6 5) (wf w 4 2)
  | 0x10 => some (.ld x rd ra (wf w 14 2) (wf w 12 2) (wf w 0 12))
  | 0x11 => some (.lds x rd ra (wf w 14 2) (wf w 12 2) (wf w 0 12))
  | 0x12 => some (.st x rd ra (wf w 14 2) (wf w 12 2) (wf w 0 12))
  | 0x14 => decodeBr x rd ra (wf w 0 13) (wf w 13 3)
  | 0x15 => some (.jal x rd (wf w 0 21))
  | 0x16 => some (.jalr x rd ra imm)
  | 0x18 => whenOk (wf w 0 8 == 0) (.emit x (wf w 22 4) (wf w 17 5) (w.getLsbD 16) (wf w 8 8))
  | 0x19 => whenOk (wf w 0 8 == 0 && wf w 17 5 == 0) (.emitd x (wf w 22 4) (w.getLsbD 16) (wf w 8 8))
  | 0x1A => whenOk (wf w 4 22 == 0) (.state x (wf w 0 4))
  | 0x1B => whenOk (wf w 0 26 == 0) (.done x)
  | 0x1C => whenOk (rd == 0 && ra == 0) (.trap x imm)
  | 0x20 => decodeSys x (wf w 11 15) (wf w 0 11)
  | 0x21 => decodeCsr x rd ra (wf w 12 4) (wf w 0 12)
  | 0x22 => decodeLock x rd ra (wf w 12 4) (wf w 0 12)
  | _ => none

/-! The words of instructions -/

/-- Format R. -/
def formR (op : BitVec 6) (rd ra rb : BitVec 5) (fn : BitVec 11) : BitVec 32 := op ++ rd ++ ra ++ rb ++ fn
/-- Format I. -/
def formI (op : BitVec 6) (rd ra : BitVec 5) (imm : BitVec 16) : BitVec 32 := op ++ rd ++ ra ++ imm
/-- Format M. -/
def formM (op : BitVec 6) (rd ra : BitVec 5) (sp w : BitVec 2) (imm : BitVec 12) : BitVec 32 := op ++ rd ++ ra ++ sp ++ w ++ imm
/-- Format B. -/
def formB (ra rb : BitVec 5) (cond : BitVec 3) (off : BitVec 13) : BitVec 32 := (0x14 : BitVec 6) ++ ra ++ rb ++ cond ++ off
/-- Format Q. -/
def formQ (pd pa pb ps : BitVec 4) (fn : BitVec 3) : BitVec 32 := (0x0B : BitVec 6) ++ pd ++ pa ++ pb ++ ps ++ fn ++ (0 : BitVec 7)
/-- Format F. -/
def formF (sz : Bool) (rm : BitVec 3) (rd ra rb : BitVec 5) (fn : BitVec 6) : BitVec 32 :=
  (0x0C : BitVec 6) ++ rd ++ ra ++ rb ++ fn ++ rm ++ (0 : BitVec 1) ++ BitVec.ofBool sz
/-- Format FM. -/
def formFM (sz : Bool) (rm : BitVec 3) (rd ra rb rc : BitVec 5) (v : BitVec 2) : BitVec 32 :=
  (0x0D : BitVec 6) ++ rd ++ ra ++ rb ++ rc ++ v ++ rm ++ BitVec.ofBool sz
/-- Format E. -/
def formE (op : BitVec 6) (pv : BitVec 4) (ro : BitVec 5) (t : Bool) (mask : BitVec 8) : BitVec 32 :=
  op ++ pv ++ ro ++ BitVec.ofBool t ++ mask ++ (0 : BitVec 8)

/-- The word of an instruction of BIS; none for a command that is no instruction. -/
def encodeBis : Instr → Option (BitVec 32)
  | .add _ rd ra rb => some (formR 1 rd ra rb 0x00)
  | .sub _ rd ra rb => some (formR 1 rd ra rb 0x01)
  | .and _ rd ra rb => some (formR 1 rd ra rb 0x02)
  | .or _ rd ra rb => some (formR 1 rd ra rb 0x03)
  | .xor _ rd ra rb => some (formR 1 rd ra rb 0x04)
  | .andn _ rd ra rb => some (formR 1 rd ra rb 0x05)
  | .orn _ rd ra rb => some (formR 1 rd ra rb 0x06)
  | .xnor _ rd ra rb => some (formR 1 rd ra rb 0x07)
  | .sll _ rd ra rb => some (formR 1 rd ra rb 0x08)
  | .srl _ rd ra rb => some (formR 1 rd ra rb 0x09)
  | .sra _ rd ra rb => some (formR 1 rd ra rb 0x0a)
  | .rol _ rd ra rb => some (formR 1 rd ra rb 0x0b)
  | .ror _ rd ra rb => some (formR 1 rd ra rb 0x0c)
  | .slt _ rd ra rb => some (formR 1 rd ra rb 0x0d)
  | .sltu _ rd ra rb => some (formR 1 rd ra rb 0x0e)
  | .min _ rd ra rb => some (formR 1 rd ra rb 0x0f)
  | .max _ rd ra rb => some (formR 1 rd ra rb 0x10)
  | .minu _ rd ra rb => some (formR 1 rd ra rb 0x11)
  | .maxu _ rd ra rb => some (formR 1 rd ra rb 0x12)
  | .mul _ rd ra rb => some (formR 1 rd ra rb 0x14)
  | .mulh _ rd ra rb => some (formR 1 rd ra rb 0x15)
  | .mulhu _ rd ra rb => some (formR 1 rd ra rb 0x16)
  | .div _ rd ra rb => some (formR 1 rd ra rb 0x18)
  | .divu _ rd ra rb => some (formR 1 rd ra rb 0x19)
  | .rem _ rd ra rb => some (formR 1 rd ra rb 0x1a)
  | .remu _ rd ra rb => some (formR 1 rd ra rb 0x1b)
  | .bext _ rd ra rb => some (formR 1 rd ra rb 0x23)
  | .bdep _ rd ra rb => some (formR 1 rd ra rb 0x24)
  | .popc _ rd ra => some (formR 1 rd ra 0 0x20)
  | .clz _ rd ra => some (formR 1 rd ra 0 0x21)
  | .ctz _ rd ra => some (formR 1 rd ra 0 0x22)
  | .brev _ rd ra => some (formR 1 rd ra 0 0x25)
  | .bswap _ rd ra => some (formR 1 rd ra 0 0x26)
  | .addi _ rd ra imm => some (formI 0x02 rd ra imm)
  | .andi _ rd ra imm => some (formI 0x03 rd ra imm)
  | .ori _ rd ra imm => some (formI 0x04 rd ra imm)
  | .xori _ rd ra imm => some (formI 0x05 rd ra imm)
  | .slti _ rd ra imm => some (formI 0x06 rd ra imm)
  | .sltiu _ rd ra imm => some (formI 0x07 rd ra imm)
  | .shiSll _ rd ra n => some (formI 0x08 rd ra ((0 : BitVec 10) ++ n))
  | .shiSrl _ rd ra n => some (formI 0x08 rd ra ((1 : BitVec 10) ++ n))
  | .shiSra _ rd ra n => some (formI 0x08 rd ra ((2 : BitVec 10) ++ n))
  | .shiRol _ rd ra n => some (formI 0x08 rd ra ((3 : BitVec 10) ++ n))
  | .shiRor _ rd ra n => some (formI 0x08 rd ra ((4 : BitVec 10) ++ n))
  | .lui _ rd imm => some (formI 0x09 rd 0 imm)
  | .lut3 _ rd ra rb tt => some ((0x0A : BitVec 6) ++ rd ++ ra ++ rb ++ tt ++ (0 : BitVec 3))
  | .l4and _ pd pa pb => some (formQ pd pa pb 0 0)
  | .l4or _ pd pa pb => some (formQ pd pa pb 0 1)
  | .l4xor _ pd pa pb => some (formQ pd pa pb 0 2)
  | .l4res _ pd pa pb => some (formQ pd pa pb 0 5)
  | .l4eq _ pd pa pb => some (formQ pd pa pb 0 6)
  | .l4not _ pd pa => some (formQ pd pa 0 0 3)
  | .l4mux _ pd pa pb ps => some (formQ pd pa pb ps 4)
  | .fadd _ sz rm rd ra rb => some (formF sz rm rd ra rb 0x00)
  | .fsub _ sz rm rd ra rb => some (formF sz rm rd ra rb 0x01)
  | .fmul _ sz rm rd ra rb => some (formF sz rm rd ra rb 0x02)
  | .fdiv _ sz rm rd ra rb => some (formF sz rm rd ra rb 0x03)
  | .fmin _ sz rm rd ra rb => some (formF sz rm rd ra rb 0x05)
  | .fmax _ sz rm rd ra rb => some (formF sz rm rd ra rb 0x06)
  | .feq _ sz rm rd ra rb => some (formF sz rm rd ra rb 0x08)
  | .flt _ sz rm rd ra rb => some (formF sz rm rd ra rb 0x09)
  | .fle _ sz rm rd ra rb => some (formF sz rm rd ra rb 0x0a)
  | .fcopysign _ sz rm rd ra rb => some (formF sz rm rd ra rb 0x0c)
  | .fsqrt _ sz rm rd ra => some (formF sz rm rd ra 0 0x04)
  | .fclass _ sz rm rd ra => some (formF sz rm rd ra 0 0x0b)
  | .fneg _ sz rm rd ra => some (formF sz rm rd ra 0 0x0d)
  | .fabs _ sz rm rd ra => some (formF sz rm rd ra 0 0x0e)
  | .fcvtI _ sz rm rd ra => some (formF sz rm rd ra 0 0x10)
  | .fcvtU _ sz rm rd ra => some (formF sz rm rd ra 0 0x11)
  | .fcvtFi _ sz rm rd ra => some (formF sz rm rd ra 0 0x12)
  | .fcvtFu _ sz rm rd ra => some (formF sz rm rd ra 0 0x13)
  | .fcvtFf _ sz rm rd ra => some (formF sz rm rd ra 0 0x14)
  | .frfs _ sz rm rd => some (formF sz rm rd 0 0 0x20)
  | .fwfs _ sz rm ra => some (formF sz rm 0 ra 0 0x21)
  | .fcfs _ sz rm rd => some (formF sz rm rd 0 0 0x22)
  | .fmadd _ sz rm rd ra rb rc => some (formFM sz rm rd ra rb rc 0)
  | .fmsub _ sz rm rd ra rb rc => some (formFM sz rm rd ra rb rc 1)
  | .fnmadd _ sz rm rd ra rb rc => some (formFM sz rm rd ra rb rc 2)
  | .fnmsub _ sz rm rd ra rb rc => some (formFM sz rm rd ra rb rc 3)
  | .ld _ rd ra sp w imm => some (formM 0x10 rd ra sp w imm)
  | .lds _ rd ra sp w imm => some (formM 0x11 rd ra sp w imm)
  | .st _ rd ra sp w imm => some (formM 0x12 rd ra sp w imm)
  | .beq _ ra rb off => some (formB ra rb 0 off)
  | .bne _ ra rb off => some (formB ra rb 1 off)
  | .blt _ ra rb off => some (formB ra rb 2 off)
  | .bge _ ra rb off => some (formB ra rb 3 off)
  | .bltu _ ra rb off => some (formB ra rb 4 off)
  | .bgeu _ ra rb off => some (formB ra rb 5 off)
  | .bset _ ra rb off => some (formB ra rb 6 off)
  | .bclr _ ra rb off => some (formB ra rb 7 off)
  | .jal _ rd off => some ((0x15 : BitVec 6) ++ rd ++ off)
  | .jalr _ rd ra imm => some (formI 0x16 rd ra imm)
  | .emit _ pv ro t mask => some (formE 0x18 pv ro t mask)
  | .emitd _ pv t mask => some (formE 0x19 pv 0 t mask)
  | .state _ smask => some ((0x1A : BitVec 6) ++ (0 : BitVec 22) ++ smask)
  | .done _ => some ((0x1B : BitVec 6) ++ (0 : BitVec 26))
  | .trap _ imm => some (formI 0x1C 0 0 imm)
  | .wait _ => some (formR 0x20 0 0 0 0)
  | .reti _ => some (formR 0x20 0 0 0 1)
  | .fence _ => some (formR 0x20 0 0 0 2)
  | .csrget _ rd csr => some (formI 0x21 rd 0 ((0 : BitVec 4) ++ csr))
  | .csrput _ ra csr => some (formI 0x21 0 ra ((1 : BitVec 4) ++ csr))
  | .csrswap _ rd ra csr => some (formI 0x21 rd ra ((2 : BitVec 4) ++ csr))
  | .csrins _ rd ra csr => some (formI 0x21 rd ra ((3 : BitVec 4) ++ csr))
  | .lkacq _ rd ra imm => some (formI 0x22 rd ra ((0 : BitVec 4) ++ imm))
  | .lkrel _ rd ra imm => some (formI 0x22 rd ra ((1 : BitVec 4) ++ imm))
  | _ => none

end Sys2Proof
end

