-- ==== Sys2Proof/Config.lean ====
section
/-! DEFINITION. What the spec leaves open: free values, each an opaque constant that nothing can evaluate, and the fused values of one part. -/

namespace Sys2Proof.Config

/-- A free value of the n-th draw: nothing constrains it. -/
opaque freeWord : Nat → Word

/-- How many of the two words past a taken branch were read and discarded, not dropped (R112): the n-th draw, taken modulo 3. -/
opaque fetchPast : Nat → Nat

/-- Content of the cached word a patched cache location holds, by die and location code (R249). -/
opaque cacheWord : Nat → Nat → Word

/-- The job whose dirty line of a node-record cache a lost word lies in, none for a clean line (Table 11-4): which lines are in a cache, and dirty, the spec leaves open; by draw. -/
opaque dirtyLine : Nat → Option (BitVec 3)

/-- The line of a PE's node-record cache or code cache that holds the line a read asks for (R237): which line holds what the spec leaves open; by draw. -/
opaque cacheLine : Nat → Nat

/-- What raw bytes in the configuration area of the flash make of an object there or of EPOCH, and the records that raw bytes in the repair log spell (Table 13-9); by object and draw. -/
opaque flashValue : Nat → Nat → Nat
opaque flashRepairs : Nat → List RepairRec

/-- The unit a command acts on whose number lies past the last unit of its kind, of which the spec states no result: by the number, taken modulo the count of the units. -/
opaque unitNamed : Nat → Nat

/-- Whether a tile's caches hold what an access of a PE needs where no request of the tile reaches the hub: what stands in them the spec leaves open; by draw. -/
opaque cacheHolds : Nat → Bool

/-- The line of a PE's code cache that holds the word at a module address (R237). -/
opaque codeLine : Nat → Nat

/-- The latest tag of a firing of a spanning job on its other modules (R195): time and delta, 2^64 - 1 and 4,095 where none fired; by draw. -/
opaque farFiring : Nat → BitVec 64 × BitVec 12

/-- HZ_ROOT_MODE of a module whose Identity Frame this module has not had (R193): no message carries it; by module and map version. -/
opaque farRootMode : Nat → Nat → BitVec 2

/-- The check byte of a word under the (72,64) code of the SRAMs, whose matrix the manual does not give (R237). -/
opaque checkByte : BitVec 64 → BitVec 8

/-- Spare rows, or columns, of an SRAM macro that its fuse map uses (R247), by tile (64: the hub die), macro and whether columns. -/
opaque fusedSpares : Nat → Nat → Bool → Nat

/-- The first unit of a pseudo-channel that the 1 MiB pattern test of HBM_BIST_MODE 0 covers (Table 11-5, step 9), by stack * 32 + pseudo-channel. -/
opaque bistUnit : Nat → Nat

/-- SERIAL: the fused serial number of the module (R364). -/
opaque serial : BitVec 128

/-- V0 of a tile in mV, fused at manufacture (R421). -/
opaque fusedV0 : Nat → Nat

/-- What the fused VMAX of a tile holds above V0 + 60 mV, and what VMIN lies below V0, in mV (R421). -/
opaque fusedOver : Nat → Nat
opaque fusedUnder : Nat → Nat

/-- FW_SIGNER_HASH and FW_MIN_SVN, fused at manufacture (R295). -/
opaque fwSignerHash : List Byte
opaque fwMinSvn : BitVec 16

/-- The module's fused wrapping key (R270). -/
opaque wrapKey : List Byte

/-- Bytes the PCIe link sends in one direction in a window of R326, by rate and width. -/
opaque pcieWindowBytes : Nat → Nat → Nat

/-- How many 5 mV steps a start-up calibration lowers VT, and the slack it ends with (R421), by draw. -/
opaque calSteps : Nat → Nat

/-- Whether a tile that shedding powered down fails the SRAM test when it is powered up again (R400), by tile and draw. -/
opaque tileFails : Nat → Nat → Bool

/-- The levels the board drives on GPIO[7:0] where the module drives none, by hub cycle (R437). -/
opaque gpioOutside : Nat → Byte

/-- The levels of GPIO[7:0] under EXTEST, by the chain's content and the hub cycle, and what the chain captures of pins at those levels, by draw: the boundary-scan description file, not the manual, gives the cells (R436). -/
opaque scanGpio : BitVec 64 → Nat → Byte
opaque scanChain : Byte → Nat → BitVec 64

/-- How long past 128 occurrences of 11 recessive bits, in quanta, a recovery from bus-off takes on the field bus as it stands (R384), by draw. -/
opaque busOffWait : Nat → Nat

/-- BUF: the hub-store offset of the 4 KiB buffer of ring-3 records (Table 18-4). -/
opaque objBuf : Nat

end Sys2Proof.Config
end

