-- ==== Sys2Proof/Machine/State.lean ====
section
/-! DEFINITION. The state of the module as plain data: every register, store, queue, counter, mode and pin the spec gives it, and the queue of waiting commands. -/

namespace Sys2Proof.Machine

/-! Design time, tokens and the matching store (chapters 2 to 4) -/

/-- A tag: a full time and a delta (R29, R30). -/
structure Tag where
  time : BitVec 64 := 0
  delta : BitVec 12 := 0
deriving DecidableEq, Repr

/-- A token: four 64-bit words (R36). -/
structure Token where
  w0 : Word := 0
  w1 : Word := 0
  w2 : Word := 0
  w3 : Word := 0
deriving DecidableEq, Repr

/-- An arrival: a token, anti-token or control token, the initiator charged with it and its in-transit slot (R23, Table 10-4). -/
structure Item where
  tok : Token
  src : BitVec 16
  slot : BitVec 14
deriving DecidableEq, Repr

/-- Group states (Table 3-2). -/
inductive GState where
  | arming | waiting | presented | fired
deriving DecidableEq, Repr

/-- A matching entry in use (Table 3-1); VALID is its presence in its store. -/
structure Entry where
  gen : Byte
  kind : BitVec 2
  head : Bool
  job : JobId
  port : BitVec 3
  fs : Bool
  arrived : Byte
  rmask : Byte
  mode : BitVec 2
  gstate : GState
  contest : Bool
  locPe : BitVec 7
  node : BitVec 17
  key : Key
  a : Word
  b : Word
  /-- The model's own number of a control group, which never merges; 0 for a group of tokens. -/
  cid : Nat := 0
deriving DecidableEq, Repr

/-- A group of a PE by (job, local node, tag), with the number of a control group. -/
structure GRef where
  job : JobId
  node : BitVec 17
  key : Key
  cid : Nat := 0
deriving DecidableEq, Repr

/-- The level that holds a group (Table 4-5, PLACE). -/
inductive Place where
  | iris | mob | deep
deriving DecidableEq, Repr

/-- What Gather is asked to do for a group: arm it (R64), repeat the straggler check before presentation (R65), or check a token that merged into a group of anti-tokens (R64). -/
inductive GatherKind where
  | arm | present | recheck
deriving DecidableEq, Repr

/-- A group waiting in Gather. -/
structure GatherReq where
  ref : GRef
  kind : GatherKind
deriving DecidableEq, Repr

/-- The outcome a presentation carries (Table 3-3, Table 4-5). -/
inductive OutcomeKind where
  | firing | update | control
deriving DecidableEq, Repr

/-- A ready descriptor (Table 4-5); VALID is its presence in the pool. -/
structure Desc where
  job : JobId
  level : BitVec 3
  far : Bool
  outcome : OutcomeKind
  place : Place
  jneed : BitVec 2
  index : BitVec 11
  node : BitVec 17
  seq : BitVec 16
  key : Key
  cid : Nat := 0
deriving DecidableEq, Repr

/-- An arrived value of a port (R90). -/
structure PortVal where
  port : BitVec 3
  fs : Bool
  a : Word
  b : Word
deriving DecidableEq, Repr

/-- An emission record (R92, R115): port mask, target tag before step 5 of R43 took effect on TIME, the planes, T, and the EOFF code of the target where the summary can encode it (R168). -/
structure ERec where
  mask : Byte
  target : Tag
  saturated : Bool
  a : Word
  b : Word
  t2 : Bool
  eoff : Option (BitVec 23)
deriving DecidableEq, Repr

/-- An entry of a context's store buffer (R108). -/
structure SRec where
  off : Nat
  w : BitVec 2
  data : Word
deriving DecidableEq, Repr

/-- The registers of one thread of BIS: g0-g31, pc and FPS (R96, Table 5-11). -/
structure Thread where
  regs : Vector Word 32 := Vector.replicate 32 0
  pc : BitVec 32 := 0
  fps : Word := 0
deriving DecidableEq, Repr

/-- A context that holds a firing in execution (R98). -/
structure Ctx where
  th : Thread
  job : JobId
  node : BitVec 17
  tag : Tag
  safe : Bool
  kick : Bool
  gen : Byte
  arrived : List PortVal
  /-- Instructions issued in the firing (R117). -/
  count : Nat
  emits : List ERec
  stores : List SRec
  /-- State words recorded by STATE (R116). -/
  stw : SMap Word
  /-- Node space as it stood at firing entry: 24 words (R107). -/
  nodeImg : List Word
  /-- Journal entries granted (R89). -/
  jents : List Nat
deriving DecidableEq, Repr

/-- What stands in the Emit queue: a completed firing or KICK, an update, a control command (R93), or the anti-tokens of a rollback still to be formed (R155). -/
inductive EmitKind where
  | firing
  | kick
  | update
  | command (tok : Token)
  | antis (toks : List (Token × Tag))
deriving DecidableEq, Repr

/-- A firing, update or command in Emit. -/
structure EmitJob where
  kind : EmitKind
  job : JobId
  node : BitVec 17
  tag : Tag
  safe : Bool
  gen : Byte
  arrived : List PortVal
  emits : List ERec
  stores : List SRec
  stw : SMap Word
  jents : List Nat
  /-- Arcs already expanded into tokens. -/
  arcs : Nat
  /-- The writes of R93 have been made. -/
  begun : Bool := false
deriving DecidableEq, Repr

/-- An arrival parked in the miss buffer (R62): which level its probe is outstanding at, or that it waits behind an earlier one of its class. -/
structure Miss where
  item : Item
  h0 : BitVec 6
  stage : Place
  order : Nat
deriving DecidableEq, Repr

/-- A token formed by Emit that waits for Route, with its in-transit slot. -/
structure Out where
  tok : Token
  slot : BitVec 14
deriving DecidableEq, Repr

/-- A sweep of Iris and MOB to be run for a PE (R63). -/
inductive Sweep where
  | commit (j : JobId) (gvt : Tag)
  | rollback (ref : GRef)
deriving DecidableEq, Repr

/-- A rollback request (R148, Table 13-7), with whether an anti-token caused it. -/
structure RbReq where
  job : JobId
  node : NodeId
  key : Key
  anti : Bool
deriving DecidableEq, Repr

/-- A processing element (R16, Table 4-1). -/
structure Pe where
  fifo : List Item := []
  /-- Consecutive cycles in which both inputs offered and the cluster ring won (R76). -/
  ringWins : Nat := 0
  miss : SMap Miss := []
  missSeq : Nat := 0
  iris : SMap Entry := []
  ovf : SMap Nat := []
  gatherQ : List GatherReq := []
  /-- Presentations Ready holds for want of a descriptor, oldest first (R86). -/
  readyQ : List GRef := []
  /-- Cycles in which Match accepted no arrival because of R86. -/
  bpCycles : Nat := 0
  spill : Bool := false
  deferred : List GRef := []
  pool : SMap Desc := []
  seq : BitVec 16 := 0
  /-- Bit j: the slice refused a request of job j and has signalled no freed entry since (R89). -/
  refused : Byte := 0
  ctxs : SMap Ctx := []
  lastCtx : BitVec 4 := 15
  emitQ : List EmitJob := []
  routeQ : List Out := []
  sweeps : List Sweep := []
  /-- Control groups formed so far: the model's own counter. -/
  ctlSeq : Nat := 0
deriving DecidableEq, Repr

/-- The least-tag registers of a MOB or a deep-match partition for one job (R186); rescan is 0 with none running, 1 with one running, 2 with a further one marked. -/
structure HReg where
  least : Option Tag := none
  leastL : Option Tag := none
  rescan : Nat := 0
  /-- The least of the tags, and of the tags ⊕ L, of groups added since the running rescan started. -/
  added : Option Tag := none
  addedL : Option Tag := none
deriving DecidableEq, Repr

/-- A cluster: its Match Overflow Buffer, DOVF counters and horizon registers (R55, R59, R186). -/
structure Cluster where
  mob : SMap Entry := []
  dovf : SMap Nat := []
  hreg : SMap HReg := []
deriving DecidableEq, Repr

/-! The Rewind Journal and the tile (chapters 7 and 8) -/

/-- A journal entry in use (Table 8-1), with whether fossil collection has passed it to the store writer (R176). -/
structure JEntry where
  job : JobId
  key : Key
  gen : Byte
  node : BitVec 24
  tail : Bool
  emask : Byte
  eoff : BitVec 23
  undo0 : Word
  undo1 : Word
  /-- Emit has written the entry for a firing (R165); an update changes no state word and leaves it false, its undo fields 0 (R166). -/
  written : Bool
  fossil : Bool
deriving DecidableEq, Repr

/-- Stores of a committed firing in the store writer (R176): head and tail entry, stores issued, stores acknowledged. -/
structure StoreJob where
  head : Nat
  tail : Nat
  issued : Nat
  acked : Nat
deriving DecidableEq, Repr

/-- A pending-trap record (R157). -/
structure PendTrap where
  job : JobId
  node : NodeId
  tag : Tag
  t0 : Word
  t1 : Word
  t2 : Word
  t3 : Word
deriving DecidableEq, Repr

/-- A summary hold (R169). -/
structure SumHold where
  job : JobId
  node : NodeId
  key : Key
deriving DecidableEq, Repr

/-- An entry of a tile's probe filter (R332); stream none for a trigger-only entry. -/
structure Filter where
  job : JobId
  node : NodeId
  kind : BitVec 2
  sel : BitVec 3
  stream : Option (BitVec 6)
  trig : Option (BitVec 6)
  probeId : BitVec 32
deriving DecidableEq, Repr

/-- A live token charged to an in-transit slot: its job and tag, and whether it is an anti-token. -/
structure Live where
  job : JobId
  tag : Tag
  anti : Bool := false
  /-- Destination of a token the hub holds; 0 for a tile's. -/
  node : NodeId := 0
deriving DecidableEq, Repr

/-- What a request of a tile's agents is for: store k of a firing in the store writer, by its head entry, with whether its data is lost (R176); the probe of deep match of a miss-buffer slot (R62); the write of a deep-match entry (R60). -/
inductive ReqFor where
  | store (head k : Nat) (lost : Bool)
  | probe (p : PeId) (slot : Nat)
  | entry (i : Nat)
deriving DecidableEq, Repr

/-- A request that an agent of a tile makes of HBM: the agent of its SRC (Table 10-4), RD or WR, module address and data units, the job it serves, the core cycle of its issue, and its transaction number once the stop has taken it (R215, R446). -/
structure TReq where
  agent : Byte
  wr : Bool
  addr : Nat
  units : Nat
  job : JobId
  what : ReqFor
  since : Nat
  tid : Option (BitVec 12) := none
deriving DecidableEq, Repr

/-- A tile (R16): in-transit slots, journal slice, rollback queue, governor, pending traps, summary holds, store writer, deep-match partition registers and probe filter. -/
structure Tile where
  transit : SMap Live := []
  journal : SMap JEntry := []
  /-- Requests made of the slice and not yet accepted: PE and pool position (R172). -/
  jreqs : List (PeId × Nat) := []
  /-- Those of them the slice has accepted, at most one of a cluster, and not yet decided; and the PE of each cluster whose request it accepted last. -/
  jacc : List (PeId × Nat) := []
  jrr : SMap Nat := []
  rbq : List RbReq := []
  rbOvf : Nat := 0
  /-- Least tag written to ring 1 since OVF was last 0, per job (R293). -/
  rbOvfMin : SMap (Tag × PeId) := []
  /-- Overflowed requests not yet re-issued. -/
  rbOut : List RbReq := []
  /-- TILE_RBQ_NODE (Table 13-6). -/
  rbNode : Word := 0
  pend : List PendTrap := []
  holds : List SumHold := []
  /-- W applied, per job (R179). -/
  win : SMap (BitVec 64) := []
  streak : SMap Nat := []
  /-- Speculative firings dispatched, and firings rolled back, in the period, per job. -/
  pSpec : SMap Nat := []
  pRb : SMap Nat := []
  peak : Nat := 0
  /-- The peak since its load of each job loaded in the period (R179). -/
  loadPeak : SMap Nat := []
  storeQ : List StoreJob := []
  /-- Requests of the tile's agents that await their response, oldest first (R215, R446). -/
  reqs : List TReq := []
  /-- Groups moved from a MOB and not yet written into their deep-match buckets (R60). -/
  deepQ : List (List Entry) := []
  /-- Deep-match entries of the tile's partition, by bucket * 8 + place (R60). -/
  deep : SMap Entry := []
  hreg : SMap HReg := []
  filter : List Filter := []
deriving DecidableEq, Repr

/-! Jobs (chapters 9, 12, 19) -/

/-- Job states (R405). -/
inductive JobState where
  | empty | loaded | run | paused | halted | timeExhausted | faulted
deriving DecidableEq, Repr

/-- A READ_NODE copy held until GVT passes its tag (R79). -/
structure ReadCopy where
  tag : Tag
  node : NodeId
  data : List Byte
deriving DecidableEq, Repr

/-- A READ_NODE command of a host that awaits its copy: function, host address, node and tag (Table 15-8). -/
structure ReadReq where
  fn : Nat
  addr : Word
  node : NodeId
  tag : Tag
deriving DecidableEq, Repr

/-- A region of HBM held by a job: module address and rounded size; size 0 is no region (R234). -/
structure Region where
  base : Nat := 0
  size : Nat := 0
deriving DecidableEq, Repr

/-- A job as the module holds it. -/
structure Job where
  state : JobState := .empty
  faultReason : BitVec 16 := 0
  nodeRec : Region := {}
  nodeState : Region := {}
  fanout : Region := {}
  code : Region := {}
  dmem : Region := {}
  probe : Region := {}
  staging : Region := {}
  codeLen : Nat := 0
  constLen : Nat := 0
  dmSize : Nat := 0
  fanLen : Nat := 0
  ncount : SMap Nat := []
  look : SMap Nat := []
  moduleMask : BitVec 256 := 0
  tileMask : BitVec 64 := 0
  designId : List Byte := []
  enc : Bool := false
  /-- Horizon registers, as delivered (R29, R188). -/
  gvt : Tag := {}
  sh : Tag := {}
  gvtWall : Nat := 0
  /-- Pending pause: P (R196), and whether it is a stalled pause (R458). -/
  pause : Option Tag := none
  stalled : Bool := false
  /-- The pause tag a wave result carried for a spanning job (R197), and one cancelled here that later results may still carry (R199). -/
  wavePause : Option Tag := none
  dropPause : Option Tag := none
  /-- P as a delivery carried it to the PEs (R197). -/
  clamp : Option Tag := none
  /-- The rollbacks of R198 or R458 have begun. -/
  pauseRb : Bool := false
  pausedAt : Tag := {}
  /-- CMD_STOPs that wait on the pending pause (Table 15-8): the ring pairs to be completed. -/
  stopWait : List (BitVec 6) := []
  /-- A JOB_CMD STOP waits on the pending pause (R394). -/
  stopObj : Bool := false
  /-- RUNs or RESUMEs of a spanning job that wait on the checks of R278: of ring pairs, of a write of JOB_CMD or RESUME. -/
  runPair : List (BitVec 6) := []
  runObj : Bool := false
  /-- Modules whose JOB_CHECK has matched since the job last entered RUN. -/
  checked : List Byte := []
  /-- Checks sent for the pending run request and not answered: module and message number (R278). -/
  asked : List (Byte × BitVec 16) := []
  /-- A stall event was raised for the present GVT (R72). -/
  stallRaised : Bool := false
  stallReport : List Byte := []
  reads : List ReadCopy := []
  readReqs : List ReadReq := []
  /-- Terms sampled at c0: GVT and SH minima (R187). -/
  sampG : Option Tag := none
  sampS : Option Tag := none
  sampled : Bool := false
  /-- The snapshot found no uncommitted speculative firing and no live anti-token of the job, and whether it found no firing in Fire or Emit (R198, R458). -/
  sampClear : Bool := false
  sampIdle : Bool := false
  /-- The rollbacks of the pause had begun when the snapshot was taken. -/
  sampRb : Bool := false
  /-- GOV_MODE in effect (R181). -/
  govMode : Nat := 0
  /-- WALLTIME the stall watchdog measures from (R72). -/
  stallFrom : Nat := 0
  /-- Paced mode: T0, edges taken, and that the ceiling stands (R201). -/
  paced : Bool := false
  t0 : BitVec 64 := 0
  edge : Nat := 0
  /-- Nodes whose undo image was lost when the job was faulted: PE and local node (R163). -/
  undoLost : List (BitVec 13 × BitVec 17) := []
  /-- Hub cycle in which the job last changed its state (R408, R447). -/
  stateAt : Nat := 0
deriving DecidableEq, Repr

/-! Larkspur, bridges and Foxglove (chapter 10) -/

/-- A packet: header unit and data units (R214). -/
structure Packet where
  hdr : BitVec 128
  data : List (BitVec 128)
deriving DecidableEq, Repr

/-- A packet in a queue with the core cycle it entered (R222), and the stop its ring path leads to (R227). -/
structure QPkt where
  pkt : Packet
  since : Nat
  dest : BitVec 5 := 0
deriving DecidableEq, Repr

/-- A request injected at a stop whose response has not come there: transaction number, and the core cycle it was injected (R230, R232). -/
structure Flight where
  tid : BitVec 12
  since : Nat
deriving DecidableEq, Repr

/-- A stop of a die (R211, Tables 10-6 to 10-8). -/
structure Stop where
  cfg : Word := 0
  req : Bool := false
  fence : BitVec 2 := 0
  timeout : Bool := false
  flight : List Flight := []
  /-- Core cycle in which DRAINING began. -/
  drainFrom : Nat := 0
  isolated : Bool := false
  /-- LKS_RT entries that differ from their reset value, by d (Table 10-6). -/
  rt : SMap Word := []
  /-- Units injected in the window, per job (R224). -/
  used : SMap Nat := []
  lastJob : Nat := 8
  /-- Injection candidates selected, at most one of a VC, each by its VC and its place in that injection queue (R219, R221, R224). -/
  cand : List (BitVec 2 × Nat) := []
  /-- In-transit slots whose SLOT_REL waits for room, with the initiator that charges them, and whether the stop itself absorbed the token (R215, R219, R231). -/
  rels : List (BitVec 16 × BitVec 14 × Bool) := []
  /-- LKS_FENCE_TIMEOUT has passed in this drain (R230). -/
  late : Bool := false
  /-- Round-robin position of each ring output (R223). -/
  rr : SMap Nat := []
deriving DecidableEq, Repr

/-- A stop-window request of a service core: load or store, hub cycle of issue, system address (R282). -/
structure HubReq where
  core : BitVec 4
  load : Bool
  since : Nat
  addr : Word
deriving DecidableEq, Repr

/-- The networks. -/
structure Net where
  queues : SMap (List QPkt) := []
  stops : SMap Stop := []
  /-- LKS_SHARE of each job as the window began (R232). -/
  shares : SMap Nat := []
  /-- Stop-window requests of service cores that await a response, by transaction number (R282, R446). -/
  hubReqs : SMap HubReq := []
  /-- Entries of the die-to-die switch that differ from reset (R225): true names stop 17. -/
  switch : SMap Bool := []
deriving DecidableEq, Repr

/-! Memory, check codes and repair (chapter 11) -/

/-- The memory the block names by module address: byte at each address, canonical (no entry for a zero byte). -/
abbrev Mem := List Host.Cell

/-- Memory repair and check state. A flaw is the set of stored bits that differ from the code word of the data. -/
structure MemSys where
  /-- SRAM words with flaws: key die * 2^32 + location code, 72 bits (R237). -/
  sramFlaw : SMap (BitVec 72) := []
  /-- Hub SRAM words with flaws, by module address of the word. -/
  hubFlaw : SMap (BitVec 72) := []
  /-- HBM halves with symbols altered: mask of 36 symbols, by module address of the half (R240). -/
  hbmFlaw : SMap (BitVec 36) := []
  /-- HBM halves read as poison, or as misaddressed, by module address of the half. -/
  hbmPoison : List Nat := []
  hbmMisaddr : List Nat := []
  sramInj : SMap (BitVec 72) := []
  hbmInj : SMap (BitVec 36) := []
  hbmInjMis : List Nat := []
  /-- Corrected words waiting for write-back: die and location (R237). -/
  wbQ : List (Nat × Nat) := []
  /-- PT_LOC and PT_DATA by die * 32 + e (Table 11-6). -/
  ptLoc : SMap Word := []
  ptData : SMap Word := []
  /-- CH_ENT by die * 16 + h. -/
  chEnt : SMap Word := []
  /-- HBM_REMAP (Table 11-7) and the entries whose unit copy runs (R252). -/
  remap : SMap Word := []
  copying : List Nat := []
  /-- Zero-fills of ranges of HBM that wait for a unit copy, in order: module address and length (R252). -/
  zeroW : List (Nat × Nat) := []
  /-- Scrubber positions: every SRAM word and every HBM half as one sequence each (R243). -/
  sramPos : Nat := 0
  hbmPos : Nat := 0
  /-- Tiles removed (BIST_FAIL_TILES). -/
  failTiles : BitVec 64 := 0
  softRepairs : Nat := 0
  /-- Spare rows and columns in use by soft repair, until the next boot (R247). -/
  soft : List BadLine := []
  /-- Rows of HBM under soft post-package repair, until the next boot (R253). -/
  softRows : List (BitVec 32) := []
  bistMs : Nat := 0
deriving DecidableEq, Repr

/-! Service cores (chapters 5 and 13) -/

/-- What a service core is doing. -/
inductive CoreRun where
  /-- Held in reset. -/
  | held
  /-- Issuing instructions. -/
  | running
  /-- Stopped in WAIT (R121). -/
  | waiting
  /-- A load that awaits its response: destination, width and sign extension. -/
  | loading (rd : BitVec 5) (w : BitVec 2) (sx : Bool)
  /-- A store of a value to TSK_POST that awaits admission (R290). -/
  | posting (v : Word)
  /-- Stopped by a double trap (R283). -/
  | stopped
deriving DecidableEq, Repr

/-- A frame of a core's frame stack (R300). -/
structure Frame where
  epc : Word
  ecause : Word
  eval : Word
  pie : Bool
  ppmode : Bool
  src : BitVec 9
  prio : BitVec 4
deriving DecidableEq, Repr

/-- An interrupt entry in progress (Table 14-4): its source and priority, and whether it tail-chains (R305). -/
structure IrqEntry where
  src : BitVec 9
  prio : BitVec 4
  tail : Bool
deriving DecidableEq, Repr

/-- A service core (Table 5-11). -/
structure Core where
  th : Thread := {}
  run : CoreRun := .held
  status : Word := 1
  epc : Word := 0
  ecause : Word := 0
  eval : Word := 0
  tvec : Word := 0
  scratch : Word := 0
  instret : Nat := 0
  fetchPast : Nat := 0
  task : BitVec 10 := 0x3FF
  /-- Stores issued and not yet completed (R121, R282). -/
  outst : Nat := 0
  /-- Frame stack, top first (R300). -/
  frames : List Frame := []
  entry : Option IrqEntry := none
  /-- An entry committed and the first instruction of its handler has not issued (R303). -/
  fresh : Bool := false
deriving DecidableEq, Repr

/-- The registers an offer of the interrupt controller looks at: IC_PEND, IC_ACTIVE and IC_CFG where it differs from reset. -/
structure IcView where
  pend : BitVec 512 := 0
  act : BitVec 512 := 0
  cfg : SMap Word := []
deriving DecidableEq, Repr

/-- The interrupt controller (chapter 14). -/
structure Ic where
  now : IcView := {}
  /-- The registers at the start of this hub cycle and of the six before it, newest first (R300). -/
  hist : List IcView := []
  vec : SMap Word := []
  /-- Retention registers, while they hold a save (R309). -/
  kept : Option (IcView × SMap Word) := none
  /-- An always-on source with EN and WAKE asked for a wake (R309). -/
  wake : Bool := false
deriving DecidableEq, Repr

/-- A task of the scheduler (Table 13-2). -/
structure Task where
  cfg : Word := 0x0000FFFF00000000
  mask : BitVec 32 := 0
  flags : BitVec 32 := 0
  arg : Word := 0
  running : Option (BitVec 4) := none
deriving DecidableEq, Repr

/-- The task scheduler (chapter 13). -/
structure Sched where
  tasks : SMap Task := []
  /-- READY tasks, each with the hub cycle in which it became READY (R286). -/
  ready : List (Nat × Nat) := []
  postQ : List (BitVec 10 × BitVec 32) := []
  hwMap : SMap Word := []
  /-- Posts of hardware sources that await admission, by source (R290). -/
  hwPost : SMap (BitVec 10 × BitVec 32) := []
  /-- Events of a hardware source that its waiting post blocks, by source (R290). -/
  hwNext : SMap Nat := []
  /-- Position of the round-robin over 16 cores and 128 sources. -/
  rr : Nat := 0
deriving DecidableEq, Repr

/-! Error log (chapter 21) -/

/-- An error-log entry: words L0-L7 (Table 21-4), and the quanta of 1/39 ns at its detection, by which a repeat is judged (R452). -/
structure ErrEntry where
  seq : Word
  wall : Word
  w2 : Word
  loc : Word
  d0 : Word
  d1 : Word
  d2 : Word
  d3 : Word
  since : Nat
deriving DecidableEq, Repr

/-- The error log, its queue of detections, and its non-volatile store (R448-R452). -/
structure ErrLog where
  log : List ErrEntry := []
  queue : List ErrEntry := []
  total : Nat := 0
  supp : SMap Nat := []
  lastByBlock : SMap ErrEntry := []
  nv : List ErrEntry := []
  /-- ERRLOG_INDEX selection: the recorded SEQ (R395). -/
  sel : Nat := 0
deriving DecidableEq, Repr

/-! Event rings, probes and the Target Port -/

/-- An event ring (Table 13-4), with the records producers hold while it is full (R292). -/
structure Evr where
  cfg : Word := 0x400000000
  prod : BitVec 16 := 0
  cons : BitVec 16 := 0
  held : List (List Word) := []
deriving DecidableEq, Repr

/-- A probe item on its way to, or held by, the collector (R333, R336). -/
structure PItem where
  job : JobId
  node : NodeId
  kind : BitVec 2
  sel : BitVec 3
  stream : Option (BitVec 6)
  trig : Option (BitVec 6)
  probeId : BitVec 32
  /-- Committing tag and generation of the firing that formed it. -/
  ctag : Tag
  gen : Byte
  /-- Item tag: short time and delta. -/
  time : BitVec 48
  delta : BitVec 12
  fs : Bool
  a : Word
  b : Word
  /-- Emission order within the firing. -/
  ord : Nat
deriving DecidableEq, Repr

/-- A cancel the collector has received: items of the node at or above the tag, 1 to 128 generations before gen, are dropped (R335). -/
structure ProbeCancel where
  job : JobId
  node : NodeId
  tag : Tag
  gen : Byte
deriving DecidableEq, Repr

/-- A message of a tile to the collector: an item, or a cancel of a rolled-back node (R334, R335). -/
inductive PMsg where
  | item (t : TileId) (i : PItem)
  | cancel (t : TileId) (job : JobId) (node : NodeId) (tag : Tag) (gen : Byte)
deriving DecidableEq, Repr

/-- A message from its formation until its WR_ACK, with the transaction number of its packet once the stop has taken that, and the core cycle it was formed (R334, R335, R446). -/
structure PSend where
  msg : PMsg
  tid : Option (BitVec 12) := none
  since : Nat := 0
deriving DecidableEq, Repr

/-- The Target Port (R201 to R205): forwarded settled values of each output by ceiling interval, the pads it drives, the inputs sampled at the last edge, TGT_LATE and TGT_HOLD. -/
structure Tgt where
  vals : SMap (SMap (Tag × Word × Word)) := []
  out : BitVec 16 := 0
  ins : BitVec 16 := 0
  late : Bool := false
  hold : Bool := false
  /-- Outputs whose settled record lay in a unit being copied at their edge, by entry of TGT_OUT_MAP: the edge they are still to be driven for (R203, R252). -/
  owed : SMap Nat := []
deriving DecidableEq, Repr

/-- Part numbers (Table 0-1). -/
inductive Part where
  /-- EZ8192-96-30. -/
  | p9630
  /-- EZ8192-96-26. -/
  | p9626
  /-- EZ8192-48-30. -/
  | p4830
deriving DecidableEq, Repr

/-- What the block sends to its surroundings. -/
inductive Sent where
  /-- An MSI-X message of a function and vector. -/
  | msix (fn vec : Nat)
  /-- A write of host memory by a function. -/
  | hostWrite (fn : Nat) (addr : Word) (data : List Byte)
  /-- A read of host memory asked for by a function: address and bytes. -/
  | hostRead (fn : Nat) (addr : Word) (n : Nat)
  /-- A completion of a BAR read of a function, with its data and whether it is poisoned. -/
  | completion (fn : Nat) (data : List Byte) (poisoned : Bool)
  /-- A completion with Unsupported Request. -/
  | unsupported (fn : Nat)
  /-- An advisory non-fatal error of a function logged in AER. -/
  | advisory (fn : Nat)
  /-- A CAN FD frame: identifier and data. -/
  | can (ident : BitVec 11) (data : List Byte)
  /-- Units sent on a Fabric port. -/
  | link (port : BitVec 3) (units : List (BitVec 128))
  /-- A value returned to whoever reads a register, or shifted out of the test access port. -/
  | value (v : Word)
deriving DecidableEq, Repr

/-- An upstream transaction layer packet that waits (R326): the job charged, the hub cycle it began to wait, its payload, what it carries, and the ring pair whose entry or command it serves. -/
structure Tlp where
  job : Option JobId
  since : Nat
  bytes : Nat
  msg : Sent
  pair : Option Nat := none
deriving DecidableEq, Repr

/-- The commands of a ring pair that read host memory (Table 15-8). -/
inductive HostOp where
  | objWrite
  | control
  | dmWrite
  | stageIn
deriving DecidableEq, Repr

/-- What the command of a ring pair waits for. -/
inductive CmdWait where
  /-- It is done and its completion awaits room (R323). -/
  | done (status result : BitVec 32)
  /-- A STOP waits on the pending pause of its job. -/
  | stop
  /-- A LOAD waits on the end of the load. -/
  | load
  /-- A RUN of a spanning job waits on the checks of R278. -/
  | run
  /-- An object access waits for the object agent; a value read goes to the host address. -/
  | obj (host : Word)
  /-- Its host writes are under way: the status and result it completes with. -/
  | dma (status result : BitVec 32)
  /-- Its host reads are under way: the command, its entry and what the reads bring. -/
  | fetch (op : HostOp) (e : Sub) (data : List Byte)
  /-- Its completion entry waits in the link's arbiter (R322). -/
  | written
deriving DecidableEq, Repr

/-- A command taken from a ring pair and not yet completed. -/
structure RingCmd where
  cid : BitVec 16
  noIrq : Bool
  job : Option JobId
  wait : CmdWait
deriving DecidableEq, Repr

/-- A ring pair (Table 15-5). -/
structure Pair where
  sqBase : Word := 0
  cqBase : Word := 0
  en : Bool := false
  /-- OWNER, none at its default of Table 15-5. -/
  owner : Option Byte := none
  sqLog : BitVec 4 := 4
  cqLog : BitVec 4 := 4
  vector : BitVec 11 := 0
  sqTail : BitVec 16 := 0
  sqHead : BitVec 16 := 0
  cqHead : BitVec 16 := 0
  cqTail : BitVec 16 := 0
  err : Byte := 0
  stat : BitVec 2 := 0
  cur : Option RingCmd := none
  /-- The read of the entry at SQ_HEAD has been asked for. -/
  fetched : Bool := false
  /-- Reads of host memory sent and not answered (R315). -/
  reads : Nat := 0
deriving DecidableEq, Repr

/-- A BAR0 mailbox (Table 18-8). -/
structure Mbx where
  req : Word := 0
  busy : Bool := false
  done : Bool := false
  tlen : BitVec 16 := 0
  status : BitVec 32 := 0
  data : SMap Word := []
deriving DecidableEq, Repr

/-- An object access the object agent has taken and firmware has not completed (R383), or one that waits its turn. -/
structure Access where
  path : Path
  wr : Bool
  idx : BitVec 16
  sub : Byte
  data : List Byte
  len : Nat
  off : Nat
  /-- SOP TSEQ, with off the SEGNO of a write, or the message number of a peer, and the peer's module. -/
  tseq : BitVec 16
  peer : Byte
  tag : BitVec 32
  /-- Outcome of the checks and the value read. -/
  status : BitVec 32
  value : List Byte
  /-- The time it arrived, in quanta (R383). -/
  since : Nat := 0
  /-- Its path has gone: nobody takes the answer (R328, R389). -/
  gone : Bool := false
deriving DecidableEq, Repr

/-- The open SOP transfer (R387). -/
structure Xfer where
  tseq : Byte
  wr : Bool
  idx : BitVec 16
  sub : Byte
  len : Nat
  data : List Byte
  /-- Number of the next segment; 0 while a READ waits for its value. -/
  seg : Nat
deriving DecidableEq, Repr

/-- The field-bus side of the object agent (R384 to R388). -/
structure Sop where
  xfer : Option Xfer := none
  /-- TSEQ of a transfer that lapsed. -/
  lapsed : Option Byte := none
  /-- The last response sent: TSEQ, SEGNO and its bytes. -/
  last : Option (Byte × Byte × List Byte) := none
deriving DecidableEq, Repr

/-! Probe streams and triggers (chapter 16) -/

/-- An item of a stream: words I0-I3 (Table 16-2), the full time of the GVT whose release carried it, and whether it is the last of its release in the stream. -/
structure SItem where
  i0 : Word
  i1 : Word
  i2 : Word
  i3 : Word
  gvt : BitVec 64
  last : Bool := false
deriving DecidableEq, Repr

/-- The open packet of a stream: byte count of its header, items, hub cycle of its opening. -/
structure OpenPkt where
  at_ : Nat
  items : Nat
  opened : Nat
deriving DecidableEq, Repr

/-- A probe stream (Table 16-3). -/
structure Stream where
  job : Option JobId := none
  sizeMib : Nat := 0
  noteEn : Bool := false
  vector : BitVec 11 := 0
  maxItems : BitVec 10 := 255
  linger : BitVec 10 := 100
  base : Nat := 0
  write : Nat := 0
  read : Nat := 0
  mark : Nat := 0
  release : Nat := 0
  disabled : Bool := false
  full : Bool := false
  /-- Released items the collector still offers (Table 16-1). -/
  offered : List SItem := []
  /-- Front end, stage 0 first. -/
  front : List SItem := []
  openPkt : Option OpenPkt := none
  seq : Nat := 0
  /-- Full time of the GVT whose release last added to the packet (H3). -/
  gvt : BitVec 64 := 0
  /-- Closed packets whose writes HBM has not acknowledged, oldest first. -/
  unacked : List Nat := []
  /-- A disable waits to write its FINAL packet: whether items were discarded. -/
  finalWait : Option Bool := none
  /-- The owning job entered a state that closes the packet once its last items are written (R341). -/
  closeWait : Bool := false
deriving DecidableEq, Repr

/-- A trigger (Table 16-4). -/
structure Trigger where
  job : Option JobId := none
  g : List Word := []
  armed : Bool := false
  vector : BitVec 11 := 0
  /-- PROBE_ID its trigger items carry (R350). -/
  probeId : BitVec 32 := 0xFFFFFFFF
deriving DecidableEq, Repr

/-! Fabric links (chapter 17) -/

/-- A data frame in a replay buffer: SEQ, VC, payload units, whether its first transmission has been made, and the slots its tokens charge. -/
structure LinkFrame where
  seq : BitVec 12
  vc : BitVec 2
  units : List (BitVec 128)
deriving DecidableEq, Repr

/-- A ledger record (R372): the frame and the slots of the tokens it carries. -/
structure LedgerRec where
  seq : BitVec 12
  slots : List (BitVec 16 × BitVec 14)
deriving DecidableEq, Repr

/-- A packet that waits for a port, with the hub cycle it began to wait. -/
structure LinkPkt where
  pkt : Packet
  since : Nat
deriving DecidableEq, Repr

/-- A Fabric port (Table 17-4 and its state). -/
structure FlPort where
  state : BitVec 3 := 0
  /-- Data packets that wait, per VC. -/
  txq : SMap (List LinkPkt) := []
  txSeq : BitVec 12 := 0
  replay : List LinkFrame := []
  /-- Frames still to be resent, by SEQ. -/
  resend : List (BitVec 12) := []
  rxSeq : BitVec 12 := 0
  /-- A NAK has been sent since the last accepted frame. -/
  nakked : Bool := false
  /-- Units accepted and not yet acknowledged. -/
  ackOwed : Nat := 0
  sent : SMap (BitVec 16) := []
  freed : SMap (BitVec 16) := []
  /-- Receive buffer, and units freed and last reported, per VC. -/
  rxq : SMap (List Packet) := []
  rxFreed : SMap (BitVec 16) := []
  rxTold : SMap (BitVec 16) := []
  /-- Packets at the head of each receive buffer that came before the port's last entry into UP from IDENT or HELD: no count takes them (R360). -/
  rxOld : SMap Nat := []
  /-- The port has reached UP, HELD or DOWN since it began to train at the boot or wake (R409). -/
  seen : Bool := false
  /-- Quanta of pause that remain, per VC. -/
  paused : SMap Nat := []
  /-- Consecutive replays without ACK progress. -/
  replays : Nat := 0
  peer : Byte := 0
  peerPort : BitVec 3 := 0
  peerSerial : Option (BitVec 128) := none
  peerCaps : BitVec 16 := 0
  peerEpoch : BitVec 16 := 0
  peerHz : BitVec 2 := 0
  sentAccept : Bool := false
  gotAccept : Bool := false
  beat : BitVec 16 := 0
  /-- TX_WALL of the last heartbeat received and the WALLTIME of its arrival. -/
  hbWall : Option (Word × Nat) := none
  missed : Nat := 0
  rtt : Nat := 0
  ledger : List LedgerRec := []
  /-- SEQ up to which this side has sent horizon acknowledgements. -/
  hzSent : BitVec 12 := 4095
  /-- Last SEQ accepted when the snapshot of the present contribution began (R192). -/
  hzSnap : BitVec 12 := 4095
  /-- WALLTIME of the last calibration window of each direction. -/
  calRx : Option Nat := none
  calTx : Option Nat := none
  /-- A calibration window runs (R371). -/
  window : Bool := false
  /-- Share units used in the window of 4,096 hub cycles, and the class of the last frame. -/
  used : SMap Nat := []
  win : Nat := 0
  lastCls : Nat := 8
deriving DecidableEq, Repr

/-- What a port left unsettled when it left UP (R369): its partner, unacknowledged frames, ledger and waiting packets, the last SEQ it accepted, its horizon acknowledgements, and whether RESYNC has come. -/
structure Lost where
  port : BitVec 3
  peer : Byte
  peerPort : BitVec 3
  serial : Option (BitVec 128) := none
  replay : List LinkFrame
  ledger : List LedgerRec
  wait : List Packet
  rxLast : BitVec 12
  hzSent : BitVec 12
  hzSnap : BitVec 12
  synced : Bool := false
deriving DecidableEq, Repr

/-- A module of the system map (R367). -/
structure MapEnt where
  version : BitVec 16 := 0
  /-- Partner of each UP port. -/
  ports : SMap Byte := []
  serial : Option (BitVec 128) := none
  epoch : BitVec 16 := 0
  hzMode : BitVec 2 := 0
deriving DecidableEq, Repr

/-- A horizon set or HZ_PAUSE sent and not acknowledged: port, KIND, job of a HZ_PAUSE, and its symbols (R372). -/
structure HzOut where
  port : BitVec 3
  kind : BitVec 2
  wave : BitVec 16
  job : JobId
  units : List (List (BitVec 128))
deriving DecidableEq, Repr

/-- The system wave at this module (R191, R372). -/
structure Wave where
  /-- Horizon Root as elected, none before the first map (R193). -/
  root : Option Byte := none
  /-- Port toward the root, and ports of the children in the spanning tree (R367). -/
  parent : Option (BitVec 3) := none
  children : List (BitVec 3) := []
  num : BitVec 16 := 0
  /-- This module has taken, or begun, a wave under that number. -/
  taken : Bool := false
  /-- A request has been taken whose contribution has not been sent. -/
  active : Bool := false
  mask : Byte := 0
  /-- WALLTIME at which the root began its last wave. -/
  began : Option Nat := none
  /-- The root's wave has no result yet. -/
  running : Bool := false
  /-- The snapshot of the contribution has been taken, and its minima per job. -/
  snap : Bool := false
  own : SMap (Option Tag × Option Tag) := []
  /-- Minima of the children, by port * 8 + job. -/
  kids : SMap (Option Tag × Option Tag) := []
  /-- Results received of the wave: job to its minima and P. -/
  down : SMap (Option Tag × Option Tag × Option Tag) := []
  /-- WAVE whose result has been applied. -/
  done : Option (BitVec 16) := none
  /-- Pause tags carried to the root, by job. -/
  pauses : SMap Tag := []
  out : List HzOut := []
deriving DecidableEq, Repr

/-- A PCIe function: configuration bits and MSI-X state (R325, R330). -/
structure Func where
  /-- MSI-X table words, address and data, by vector * 2 + word. -/
  tab : SMap Word := []
  /-- Aperture entries (Table 15-4). -/
  ap : SMap Word := []
  d3 : Bool := false
  msixEn : Bool := false
  fmask : Bool := false
  bme : Bool := false
  mse : Bool := false
  /-- Unmasked vectors; a vector not listed is masked. -/
  unmasked : List Nat := []
  /-- Vectors whose message is pending, and those whose message is held, with the job the message is charged to. -/
  pendVec : List (Nat × Option JobId) := []
  heldVec : List (Nat × Option JobId) := []
  /-- Header logged by AER: BAR2 offset and length of the first write logged (R315, R320). -/
  aer : Option (BitVec 36 × Nat) := none
deriving DecidableEq, Repr

/-- A lock of the lock bank (Table 14-7); age counts hub cycles from the take or last renewal. -/
structure Lock where
  owner : Byte := 0
  lease : BitVec 16 := 0x3E8
  /-- Lease taken at the last take or renewal. -/
  leaseNow : BitVec 16 := 0x3E8
  expiries : Nat := 0
  waiters : BitVec 27 := 0
  age : Nat := 0
deriving DecidableEq, Repr

/-! Power, reset, boot and pins (chapters 19 and 20) -/

/-- A step of the power controller that stands: a tile powered down, a clock step of 100 MHz, or a throttle level (R400). -/
inductive Shed where
  | tile (t : TileId)
  | clock
  | throttle
deriving DecidableEq, Repr

/-- Margin calibration of a tile (R418 to R421): VT stands drop mV below VMAX; consecutive windows above 8 taps, and below 3 taps at VMAX. -/
structure Avs where
  drop : Nat := 0
  high : Nat := 0
  low : Nat := 0
  stretches : Nat := 0
  slack : BitVec 6 := 0
  worn : Bool := false
deriving DecidableEq, Repr

/-- Supply, resets, the sequencer and the power controller. -/
structure Power where
  /-- VIN stands above the level of the always-on start, and REFCLK runs: with both, the always-on domain runs (R397, R429). -/
  vinUp : Bool := true
  refclk : Bool := true
  vinMv : Nat := 0
  vinMa : Nat := 0
  powerW : Nat := 0
  tj : Int := 0
  /-- Main rails in regulation, in the order they come up: hub die, VPP, VDD and VDDQ of the HBM stacks, compute dies 0 to 3, Fabric SerDes, PCIe SerDes (R403). -/
  rails : BitVec 10 := 0
  /-- RESET_N recognised low, when it was (in quanta), and the last RESET_HELD_MS. -/
  held : Bool := false
  heldSince : Nat := 0
  heldMs : Nat := 0
  ovr : Bool := false
  /-- The 1 s window of an accepted OVR_UNLOCK is open (R413). -/
  ovrWin : Bool := false
  /-- One of the causes of R407 has occurred and no boot has answered it. -/
  bootReq : Bool := true
  /-- Boot stage in progress (Table 19-4), 0 outside BOOT. -/
  stage : Nat := 0
  thermal : Bool := false
  /-- THERM_TRIP_N is driven low (R402). -/
  trip : Bool := false
  /-- Steps shed, last first, and consecutive intervals at or below 0.95 of the cap (R399). -/
  shed : List Shed := []
  quiet : Nat := 0
  /-- The tile whose stop shedding drains (R21, R400). -/
  shedding : Option TileId := none
  /-- Clock steps shed for worn tiles until the next boot (R421). -/
  wornSteps : Nat := 0
  /-- The input current stands at 72 A (R401). -/
  limit : Bool := false
  /-- Entry to Snowdrop in progress: saves tried and not ready (R414). -/
  snow : Option Nat := none
  /-- A wake has started and not ended (R416). -/
  waking : Bool := false
  /-- PCIE_PERST_N is released; the PCIe link is up, with its rate and width (R432). -/
  perst : Bool := false
  linkUp : Bool := false
  linkRate : Nat := 0
  linkWidth : Nat := 0
  avs : SMap Avs := []
  /-- NODEID[6:0] as last sampled (R434), and the levels the pins stand at. -/
  nodePins : BitVec 7 := 0
  nodeLevel : BitVec 7 := 0
  /-- GPIO_CTL, and the levels of the pins two hub cycles ago, which GPIO_IN shows, and one (R437). -/
  gpioCtl : BitVec 24 := 0xFF0000
  gpioIn : Byte := 0
  gpioMid : Byte := 0
  /-- Hub cycles for which SYNC_OUT stays driven to 1, and WALLTIME of the last pulse (R209). -/
  syncOut : Nat := 0
  syncWall : Nat := 0
deriving DecidableEq, Repr

/-- PGOOD: every main rail is in regulation (R403). -/
def Power.pgood (x : Power) : Bool := x.rails == BitVec.allOnes 10

/-- What drives the scanned pins (R436). -/
inductive PinDrive where
  | functional
  | scan (d : Word)
  | highz
deriving DecidableEq, Repr

/-- The JTAG test access port: its instruction, the boundary-scan chain, and what drives the scanned pins (R436). -/
structure Jtag where
  ir : Byte := 2
  chain : Word := 0
  pins : PinDrive := .functional
deriving DecidableEq, Repr

/-- The module: everything but the queue of waiting commands and the key store. -/
structure Mach where
  /-- Bits of W1C fields, and counts of RC fields, that hardware has set in the present hub cycle, by field (R11). -/
  setNow : SMap Word := []
  pes : SMap Pe := []
  clusters : SMap Cluster := []
  tiles : SMap Tile := []
  jobs : SMap Job := []
  net : Net := {}
  mem : Mem := []
  ms : MemSys := {}
  cores : SMap Core := []
  err : ErrLog := {}
  /-- Stored objects and counters, by index * 256 + subindex, where they differ from their default. -/
  objs : SMap Nat := []
  /-- Time since power-on in units of 1/39 ns: a hub cycle is 26, a core cycle 13 or 15 (R3, R9). -/
  quanta : Nat := 0
  wall : Nat := 0
  wallRun : Bool := false
  /-- Nanoseconds by which WALLTIME is still ahead (R207). -/
  wallAhead : Nat := 0
  cycle : Nat := 0
  /-- Tokens of the hub not yet stored by Match, by hub slot (Table 9-1). -/
  hubTerms : SMap Live := []
  /-- Tokens of the hub's injectors that wait for a hub slot, in order: SRC, the token and its full tag (R202). -/
  hubWait : List (BitVec 16 × Token × Tag) := []
  govLeft : Nat := 16
  voidRun : SMap Nat := []
  dieOut : BitVec 4 := 0
  evr : SMap Evr := []
  ic : Ic := {}
  sched : Sched := {}
  pairs : SMap Pair := []
  mbx : SMap Mbx := []
  agent : Option Access := none
  /-- Accesses that wait for the agent, in order of arrival (R383). -/
  agentQ : List Access := []
  tag : BitVec 32 := 0
  objLen : Word := 0
  /-- The outcome of the run request that the access under way made, once the checks of R278 have refused it (R394). -/
  objEnd : Option (BitVec 32) := none
  /-- The field-bus port is bus-off until a time in quanta (R384). -/
  busOff : Option Nat := none
  sop : Sop := {}
  /-- Upstream TLPs that wait, and bytes sent per class in the window (R326). -/
  up : List Tlp := []
  upUsed : SMap Nat := []
  /-- PCIE_SHARE of each job as the window under way began with it (R331). -/
  upShare : SMap Nat := []
  /-- Sizes of the PF's BAR2 and of each VF's, as powers of 2 in GiB (Table 15-2). -/
  bar2Pf : Nat := 2
  /-- Maximum payload size of the link, in bytes (R315). -/
  mps : Nat := 128
  bar2Vf : Nat := 0
  upLast : Nat := 8
  streams : SMap Stream := []
  triggers : SMap Trigger := []
  /-- Commit buffer of the probe collector (R336), and jobs that overflowed it. -/
  coll : List (TileId × PItem) := []
  /-- Cancels the collector has received (R335). -/
  collCancels : List ProbeCancel := []
  probeOvf : Byte := 0
  ports : SMap FlPort := []
  lost : List Lost := []
  /-- Peer messages and responses the hub has taken, oldest first, with the port they came by (R374). -/
  peerQ : List (BitVec 3 × Packet) := []
  /-- Number of the next peer message. -/
  peerMsg : BitVec 16 := 0
  /-- Peer module for which the Fabric peer proxy holds a lock, by lock, and the peers that wait for one. -/
  peerHold : SMap Byte := []
  peerWait : List (Byte × Byte) := []
  wave : Wave := {}
  map : SMap MapEnt := []
  /-- MAP_VERSION: changes applied to the map. -/
  mapVer : Nat := 0
  flRt : SMap Word := []
  pmsgs : List PSend := []
  tgt : Tgt := {}
  /-- MODULE_STATE (Table 19-2). -/
  mstate : BitVec 4 := 1
  part : Part := .p9630
  /-- MODULE_NUMBER (R365). -/
  number : Byte := 0
  /-- EPOCH: boot count modulo 2^16, kept in the configuration area, and the booted firmware version (Table 17-5). -/
  epoch : BitVec 16 := 0
  fwVersion : BitVec 32 := 0
  /-- SYSTEM_ID in use (R364, R376). -/
  sysId : Word := 0
  /-- The QSPI flash (Table 13-9): the slots and what is free to firmware; what its configuration area and its repair log hold stands in objs and repairLog. -/
  flash : Mem := []
  repairLog : List RepairRec := []
  /-- What the operation of the QSPI controller under way leaves in the flash. -/
  flashOp : FlashOp := .keep
  /-- Rows of HBM under hard post-package repair, for good (R253). -/
  hardRows : List (BitVec 32) := []
  pw : Power := {}
  jtag : Jtag := {}
  /-- FEATURE_ACCEPT (R327). -/
  features : BitVec 128 := 0x100
  /-- Loads accepted and not begun, in order: the job, the ring pair of the command that waits for it, and the WALLTIME of the LOAD write (R273). -/
  loads : List (JobId × Option (BitVec 6) × Nat) := []
  /-- Host writes on their way to HBM while a load is queued, by module address, in order (R276). -/
  hostW : List (Nat × List Byte) := []
  /-- TEST_UNLOCK has been accepted since the last reset (R396). -/
  testOpen : Bool := false
  /-- Enabled virtual functions: bit j for VF j (R316). -/
  vfOn : Byte := 0
  /-- HIF_EVT of each function: 0 the PF, 1 + j VF j (Table 15-9). -/
  hifEvt : SMap Word := []
  /-- Event frames queued for the field bus, 8 bytes each, and that one was lost (R388). -/
  evFrames : List (List Byte) := []
  evLost : Bool := false
  funcs : SMap Func := []
  locks : SMap Lock := []
  /-- LOCK_WAKE of each core (Table 14-7). -/
  lockWake : SMap Word := []
  /-- Wakes to be posted in a core's place: core, flag, task (R312). -/
  corePosts : List (BitVec 4 × BitVec 5 × BitVec 10) := []
  /-- Lock wakes to be sent to the Fabric peer proxy (R312). -/
  peerWakes : List Byte := []
  sent : List Sent := []
  /-- How many free values have been drawn: the model's own counter. -/
  free : Nat := 0
deriving DecidableEq, Repr

/-- Why a command stops the block: no command of this model does. -/
inductive Fault where
deriving DecidableEq, Repr

/-- Why a command has no meaning. -/
inductive Refusal where
  /-- A command that is not modelled yet, by its mnemonic. -/
  | notModelled (mnemonic : String)
deriving DecidableEq, Repr

/-- A key slot (R270). -/
inductive KeySlot where
  | empty
  | sealed (key : List Byte)
  | revoked
deriving DecidableEq, Repr

/-- The key store and the signing rules of the always-on domain (R270, R271, R279). -/
structure Vault where
  slots : SMap KeySlot := []
  /-- SIGNER_HASH i, where it is not all zeros. -/
  signers : SMap (List Byte) := []
  require : Bool := false
  lock : Bool := false
deriving DecidableEq, Repr

/-- The block: the commands that wait, first in first out, the module, and its key store. -/
structure State where
  pending : List Instr := []
  m : Mach := {}
  vault : Vault := {}
deriving DecidableEq, Repr

/-- The module right after reset. -/
def State.reset : State := {}

end Sys2Proof.Machine
end

