-- ==== Sys2Proof/Machine/Ops.lean ====
section
/-! DEFINITION. The named operations over maps, memory, tags, objects, counters and the error log that every family of commands shares. -/

namespace Sys2Proof.Machine

/-! Sparse maps -/

/-- The thing held at key k. -/
def SMap.get? {α : Type} : SMap α → Nat → Option α
  | [], _ => none
  | (k', v) :: r, k => if k' = k then some v else SMap.get? r k

/-- The thing held at key k, or d. -/
def SMap.getD {α : Type} (m : SMap α) (k : Nat) (d : α) : α :=
  (SMap.get? m k).getD d

/-- The map with v at key k. -/
def SMap.set {α : Type} : SMap α → Nat → α → SMap α
  | [], k, v => [(k, v)]
  | (k', v') :: r, k, v =>
    if k < k' then (k, v) :: (k', v') :: r
    else if k = k' then (k, v) :: r
    else (k', v') :: SMap.set r k v

/-- The map without key k. -/
def SMap.erase {α : Type} (m : SMap α) (k : Nat) : SMap α :=
  m.filter (fun e => e.1 != k)

/-- The map with f applied to the thing at key k, or to d where there is none. -/
def SMap.modify {α : Type} (m : SMap α) (k : Nat) (d : α) (f : α → α) : SMap α :=
  SMap.set m k (f (SMap.getD m k d))

/-- The values of a map in key order. -/
def SMap.vals {α : Type} (m : SMap α) : List α := m.map (·.2)

/-- The lowest key below n that the map does not hold, looking from k. -/
def SMap.freeKey {α : Type} (m : SMap α) : (fuel k : Nat) → Option Nat
  | 0, _ => none
  | f + 1, k => if (SMap.get? m k).isNone then some k else SMap.freeKey m f (k + 1)

/-- Put x into a list in front of the first element that lt puts after it. -/
def insertBy {α : Type} (lt : α → α → Bool) (x : α) : List α → List α
  | [] => [x]
  | y :: r => if lt x y then x :: y :: r else y :: insertBy lt x r

/-- Stable sort by insertion. -/
def sortBy {α : Type} (lt : α → α → Bool) (l : List α) : List α :=
  l.foldl (fun acc x => insertBy lt x acc) []

/-- The least element by lt, the first of equals. -/
def leastBy {α : Type} (lt : α → α → Bool) : List α → Option α
  | [] => none
  | x :: r => some (r.foldl (fun b y => if lt y b then y else b) x)

/-! Memory: little-endian bytes by module address (R8, R233) -/

/-- The byte at an address; a byte nothing has written reads as 0. -/
def memGet : Mem → Nat → Byte
  | [], _ => 0
  | (a', v) :: r, a => if a' = a then v else if a < a' then 0 else memGet r a

/-- The memory with one byte written, in canonical form. -/
def memSet : Mem → Nat → Byte → Mem
  | [], a, v => if v = 0 then [] else [(a, v)]
  | (a', v') :: r, a, v =>
    if a < a' then (if v = 0 then (a', v') :: r else (a, v) :: (a', v') :: r)
    else if a = a' then (if v = 0 then r else (a, v) :: r)
    else (a', v') :: memSet r a v

/-- The canonical form from a lower bound on: addresses strictly rising, and no byte listed that is 0. -/
def Mem.wfFrom : Nat → Mem → Bool
  | _, [] => true
  | lo, (a, v) :: r => decide (lo ≤ a) && v != 0 && Mem.wfFrom (a + 1) r

/-- The canonical form of memory. -/
def Memory.wf (m : Mem) : Bool := Mem.wfFrom 0 m

/-- n bytes from an address. -/
def memBytes (m : Mem) (a n : Nat) : List Byte :=
  (List.range n).map (fun i => memGet m (a + i))

/-- Write a list of bytes from an address. -/
def memWrite : Mem → Nat → List Byte → Mem
  | m, _, [] => m
  | m, a, b :: r => memWrite (memSet m a b) (a + 1) r

/-- The number little-endian bytes hold. -/
def bytesNat : List Byte → Nat
  | [] => 0
  | b :: r => b.toNat + 256 * bytesNat r

/-- n little-endian bytes of a number. -/
def natBytes : Nat → Nat → List Byte
  | 0, _ => []
  | n + 1, v => BitVec.ofNat 8 v :: natBytes n (v / 256)

/-- The 64-bit word at an address. -/
def memWord (m : Mem) (a : Nat) : Word := BitVec.ofNat 64 (bytesNat (memBytes m a 8))

/-- Write a 64-bit word. -/
def memSetWord (m : Mem) (a : Nat) (v : Word) : Mem := memWrite m a (natBytes 8 v.toNat)

/-- Zero-fill a range: every byte listed in it goes. -/
def memZero (m : Mem) (a n : Nat) : Mem := m.filter (fun c => c.1 < a || a + n ≤ c.1)

/-- The 64-bit words of a byte list. -/
def bytesWords : List Byte → List Word
  | a :: b :: c :: d :: e :: f :: g :: h :: r =>
    BitVec.ofNat 64 (bytesNat [a, b, c, d, e, f, g, h]) :: bytesWords r
  | _ => []

/-- The bytes of 64-bit words. -/
def wordsBytes (l : List Word) : List Byte := l.flatMap (fun w => natBytes 8 w.toNat)

/-! Fields -/

/-- Bits hi down to lo of a value, as a number. -/
def bits {n : Nat} (v : BitVec n) (hi lo : Nat) : Nat := (v.toNat / 2 ^ lo) % 2 ^ (hi + 1 - lo)

/-- A 64-bit word with a number placed at bit lo. -/
def at64 (v lo : Nat) : Word := BitVec.ofNat 64 (v * 2 ^ lo)

/-- A bit of a number. -/
def b2n (b : Bool) : Nat := if b then 1 else 0

/-! Tags (R29 to R33) -/

/-- The short time of a tag. -/
def Tag.short (t : Tag) : BitVec 48 := t.time.truncate 48

/-- The comparison key of a tag (R30). -/
def Tag.key (t : Tag) : Key := t.short ++ t.delta

/-- A tag as one number, in plain 76-bit order (R31, R184). -/
def Tag.num (t : Tag) : Nat := t.time.toNat * 4096 + t.delta.toNat

/-- Plain order of full tags (R31). -/
def Tag.lt (x y : Tag) : Bool := decide (x.num < y.num)

/-- At or below in plain order. -/
def Tag.le (x y : Tag) : Bool := decide (x.num ≤ y.num)

/-- The later of two tags. -/
def Tag.max (x y : Tag) : Tag := if x.lt y then y else x

/-- The earlier of two tags. -/
def Tag.min (x y : Tag) : Tag := if y.lt x then y else x

/-- The tag that means no firing has been recorded (R261). -/
def noTag : Tag := ⟨BitVec.allOnes 64, 4095⟩

/-- Earlier-than against a last firing or settled tag, where noTag is earlier than every tag (R261). -/
def Tag.ltRec (x y : Tag) : Bool :=
  if x = noTag then y != noTag else y != noTag && x.lt y

/-- The serial comparison of short times (R31). -/
def timeLt (a b : BitVec 48) : Bool := let d := b - a; d != 0 && decide (d.toNat < 2 ^ 47)

/-- The serial comparison of comparison keys (R31). -/
def keyLt (x y : Key) : Bool := let d := y - x; d != 0 && decide (d.toNat < 2 ^ 59)

/-- At or before, by key. -/
def keyLe (x y : Key) : Bool := x == y || keyLt x y

/-- The full time of a short time near g (R33). -/
def fullTime (s : BitVec 48) (g : BitVec 64) : BitVec 64 :=
  let d := (s - g.truncate 48).toNat
  if d < 2 ^ 47 ∨ g.toNat < 2 ^ 48 - d then BitVec.ofNat 64 (g.toNat + d)
  else BitVec.ofNat 64 (g.toNat - (2 ^ 48 - d))

/-- The full tag of a key, reconstructed near the full time g (R33). -/
def Tag.ofKey (k : Key) (g : BitVec 64) : Tag := ⟨fullTime (k.extractLsb' 12 48) g, k.truncate 12⟩

/-- The operation x ⊕ L of R185. -/
def plusLa (x : Tag) (l : Nat) : Tag :=
  let top := 2 ^ 64 - 1
  if 0 < l then ⟨BitVec.ofNat 64 (Nat.min (x.time.toNat + l) top), 0⟩
  else if x.delta.toNat < 4095 then ⟨x.time, x.delta + 1⟩
  else ⟨BitVec.ofNat 64 (Nat.min (x.time.toNat + 1) top), 0⟩

/-- The least of some tags. -/
def minTag (l : List Tag) : Option Tag := leastBy Tag.lt l

/-! Token fields (Table 2-2) -/

namespace Token
def gen (t : Token) : Byte := t.w0.extractLsb' 56 8
def job (t : Token) : JobId := t.w0.extractLsb' 46 3
def fs (t : Token) : Bool := t.w0.getLsbD 45
def kind (t : Token) : BitVec 2 := t.w0.extractLsb' 43 2
def port (t : Token) : BitVec 3 := t.w0.extractLsb' 40 3
def nodeId (t : Token) : NodeId := t.w0.truncate 40
def modNo (t : Token) : Byte := t.w0.extractLsb' 32 8
def pe (t : Token) : PeId := t.w0.extractLsb' 17 13
def node (t : Token) : BitVec 17 := t.w0.truncate 17
def delta (t : Token) : BitVec 12 := t.w1.extractLsb' 48 12
def time (t : Token) : BitVec 48 := t.w1.truncate 48
def key (t : Token) : Key := t.time ++ t.delta
/-- A malformed token: kind 0b11 or a nonzero reserved field (R38). -/
def malformed (t : Token) : Bool :=
  t.kind == 3 || bits t.w0 55 49 != 0 || bits t.w0 31 30 != 0 || bits t.w1 63 60 != 0
/-- Plane B as a receiving node reads it (R42): 0 for a kind 0b00 token with FOURSTATE 0. -/
def planeB (t : Token) : Word := if t.kind == 0 && !t.fs then 0 else t.w3
/-- The four words of the fields of Table 2-2. -/
def mk' (gen : Byte) (job : JobId) (fs : Bool) (kind : BitVec 2) (port : BitVec 3) (node : NodeId)
    (time : BitVec 48) (delta : BitVec 12) (a b : Word) : Token :=
  { w0 := gen ++ (0 : BitVec 7) ++ job ++ (BitVec.ofBool fs) ++ kind ++ port ++ node,
    w1 := (0 : BitVec 4) ++ delta ++ time, w2 := a, w3 := b }
end Token

/-- The PE of a node ID. -/
def nodePe (n : NodeId) : PeId := n.extractLsb' 17 13
/-- The local node of a node ID. -/
def nodeLocal (n : NodeId) : BitVec 17 := n.truncate 17
/-- The module of a node ID. -/
def nodeMod (n : NodeId) : Byte := n.extractLsb' 32 8
/-- A node ID of this module. -/
def mkNode (modNo : Byte) (p : PeId) (n : BitVec 17) : NodeId := modNo ++ (0 : BitVec 2) ++ p ++ n
/-- The global tile of a PE (R17). -/
def peTile (p : PeId) : TileId := p.extractLsb' 7 6
/-- The global cluster of a PE (R17). -/
def peCluster (p : PeId) : ClusterId := p.extractLsb' 3 10
/-- The die of a PE (R17). -/
def peDie (p : PeId) : BitVec 2 := p.extractLsb' 11 2
/-- The tile-local node reference of the journal (Table 8-1). -/
def node24 (p : PeId) (n : BitVec 17) : BitVec 24 := (p.truncate 7 : BitVec 7) ++ n
/-- The PEs of a tile. -/
def tilePes (t : TileId) : List PeId := (List.range 128).map (fun i => t ++ BitVec.ofNat 7 i)
/-- The PEs of a cluster. -/
def clusterPes (c : ClusterId) : List PeId := (List.range 8).map (fun i => c ++ BitVec.ofNat 3 i)

/-! Parts of the module -/

namespace Mach

def pe (m : Mach) (p : PeId) : Pe := SMap.getD m.pes p.toNat {}
def setPe (m : Mach) (p : PeId) (x : Pe) : Mach := { m with pes := SMap.set m.pes p.toNat x }
def modPe (m : Mach) (p : PeId) (f : Pe → Pe) : Mach := m.setPe p (f (m.pe p))
def tile (m : Mach) (t : TileId) : Tile := SMap.getD m.tiles t.toNat {}
def setTile (m : Mach) (t : TileId) (x : Tile) : Mach := { m with tiles := SMap.set m.tiles t.toNat x }
def modTile (m : Mach) (t : TileId) (f : Tile → Tile) : Mach := m.setTile t (f (m.tile t))
def cluster (m : Mach) (c : ClusterId) : Cluster := SMap.getD m.clusters c.toNat {}
def modCluster (m : Mach) (c : ClusterId) (f : Cluster → Cluster) : Mach :=
  { m with clusters := SMap.set m.clusters c.toNat (f (m.cluster c)) }
def job (m : Mach) (j : JobId) : Job := SMap.getD m.jobs j.toNat {}
def modJob (m : Mach) (j : JobId) (f : Job → Job) : Mach :=
  { m with jobs := SMap.set m.jobs j.toNat (f (m.job j)) }
def core (m : Mach) (c : BitVec 4) : Core := SMap.getD m.cores c.toNat {}
def setCore (m : Mach) (c : BitVec 4) (x : Core) : Mach := { m with cores := SMap.set m.cores c.toNat x }

/-- Draw a free value: the next opaque word, and the machine with the draw counted. -/
def drawWord (m : Mach) : Word × Mach := (Config.freeWord m.free, { m with free := m.free + 1 })

/-- A stored object or counter where it differs from its default. -/
def obj? (m : Mach) (i s : Nat) : Option Nat := SMap.get? m.objs (i * 256 + s)
/-- A stored object, with its default. -/
def objD (m : Mach) (i s d : Nat) : Nat := (m.obj? i s).getD d
/-- Store an object. -/
def setObj (m : Mach) (i s v : Nat) : Mach := { m with objs := SMap.set m.objs (i * 256 + s) v }
/-- Add to a U64 counter. -/
def count (m : Mach) (i s : Nat) (n : Nat := 1) : Mach := m.setObj i s ((m.objD i s 0 + n) % 2 ^ 64)
/-- Add to a counter of job j at index base + j; it counts from the load of the job, so not while the job is EMPTY (R95, R164, R183, R331). -/
def countJ (m : Mach) (base : Nat) (j : JobId) (s : Nat) (n : Nat := 1) : Mach :=
  if (SMap.getD m.jobs j.toNat {}).state = .empty then m else m.count (base + j.toNat) s n
/-- A configuration object of job j, index 0x3000 + 0x100 j (R27). -/
def jobObj (m : Mach) (j : JobId) (s d : Nat) : Nat := m.objD (0x3000 + 0x100 * j.toNat) s d
/-- Clear every object of an index. -/
def clearIdx (m : Mach) (i : Nat) : Mach := { m with objs := m.objs.filter (fun e => e.1 / 256 != i) }

/-- Whether a feature bit of the accepted word 0x1021 is set (R327). -/
def feature (m : Mach) (bit : Nat) : Bool := m.features.getLsbD bit

/-- WALLTIME as an error-log entry or record carries it: 0 while it does not run (R207). -/
def wallNow (m : Mach) : Word := if m.wallRun then BitVec.ofNat 64 m.wall else 0

/-- Core cycles since power-on (R9). -/
def coreCycle (m : Mach) : Nat := m.quanta / (if m.part = .p9626 then 15 else 13)

/-- Whether a source of Table 14-1 exists; a reserved one never latches an edge (R298). -/
def sourceExists (n : Nat) : Bool :=
  decide (n < 35 ∨ (64 ≤ n ∧ n ≤ 140) ∨ (144 ≤ n ∧ n ≤ 147) ∨ (152 ≤ n ∧ n ≤ 166) ∨ (176 ≤ n ∧ n ≤ 191))

/-- Always-on sources (Table 14-1). -/
def alwaysOn (n : Nat) : Bool := decide (162 ≤ n ∧ n ≤ 164)

/-- IC_CFG of a source. -/
def icCfg (v : IcView) (n : Nat) : Word := SMap.getD v.cfg n 0xF
def cfgEn (w : Word) : Bool := w.getLsbD 15
def cfgTarget (w : Word) : Nat := bits w 11 8
def cfgPrio (w : Word) : Nat := bits w 3 0

/-- The sources a view holds pending, not active and enabled for a core. -/
def pendingFor (v : IcView) (c : Nat) : List Nat :=
  let b := v.pend &&& ~~~v.act
  if b = 0 then []
  else (List.range 192).filter (fun s => b.getLsbD s && cfgEn (icCfg v s) && cfgTarget (icCfg v s) == c)

/-! Hardware sets and W1C writes of one hub cycle (R11) -/

/-- A field with W1C or RC access that hardware sets. -/
inductive EvField where
  | pend (k : Nat) | act (k : Nat) | flags (t : Nat) | evt (fn : Nat) | timeout (die stop : Nat) | mbx (fn : Nat)
  | hist (die h : Nat) | stretch (t : Nat) | newFlags (t : Nat)
deriving DecidableEq, Repr

/-- Its key in the record of the present cycle's sets. -/
def EvField.key : EvField → Nat
  | .pend k => k
  | .act k => 8 + k
  | .evt fn => 16 + fn
  | .mbx fn => 32 + fn
  | .hist die h => 64 + die * 16 + h
  | .timeout die stop => 128 + die * 32 + stop
  | .stretch t => 256 + t
  | .flags t => 1024 + t
  | .newFlags t => 2048 + t

/-- Bits of a field that hardware has set in this hub cycle. -/
def setsOf (m : Mach) (f : EvField) : Word := SMap.getD m.setNow f.key 0

/-- Hardware sets bits of a field. -/
def hwSet (m : Mach) (f : EvField) (b : Word) : Mach := { m with setNow := SMap.set m.setNow f.key (m.setsOf f ||| b) }

/-- The bits a W1C write of a value clears: one that hardware sets in the same cycle stays set (R11). -/
def clears (m : Mach) (f : EvField) (v : Word) : Word := v &&& ~~~m.setsOf f

/-- A core in WAIT for which an interrupt is pending completes it (R121). -/
def wakeCores (m : Mach) : Mach :=
  { m with cores := m.cores.map (fun (c, x) =>
      (c, if x.run = .waiting ∧ pendingFor m.ic.now c ≠ [] then { x with run := .running } else x)) }

/-- Change the registers of the interrupt controller. -/
def modIc (m : Mach) (f : IcView → IcView) : Mach := ({ m with ic := { m.ic with now := f m.ic.now } }).wakeCores

/-- A rising edge of an interrupt source sets its pending bit, or is counted as merged when it stands; in Snowdrop only always-on sources latch, in the retained bits, and one with EN and WAKE asks for the wake, also while an entry to Snowdrop waits for its save (R299, R309, R417). -/
def raiseSource (m : Mach) (n : Nat) : Mach :=
  if !sourceExists n then m
  else
    match m.ic.kept with
    | some (v, vec) =>
      if alwaysOn n then
        let w := icCfg v n
        let m := if v.pend.getLsbD n then m.count 0x4D00 0x04 else m
        { m with ic := { m.ic with kept := some ({ v with pend := v.pend ||| (1#512 <<< n) }, vec),
                                   wake := m.ic.wake || (cfgEn w && w.getLsbD 14) } }
      else m
    | none =>
      let w := icCfg m.ic.now n
      let m := if alwaysOn n && m.pw.snow.isSome && cfgEn w && w.getLsbD 14 then { m with ic := { m.ic with wake := true } } else m
      let m := if m.ic.now.pend.getLsbD n then m.count 0x4D00 0x04 else m
      (m.modIc (fun v => { v with pend := v.pend ||| (1#512 <<< n) })).hwSet (.pend (n / 64)) (1#64 <<< (n % 64))

/-- The function a job is bound to: VF j where it is enabled, else the PF (R316). -/
def jobFn (m : Mach) (j : JobId) : Nat := if m.vfOn.getLsbD j.toNat then 1 + j.toNat else 0

/-- Hand an upstream TLP to the link's arbiter (R326). -/
def upstream (m : Mach) (job : Option JobId) (bytes : Nat) (x : Sent) (pair : Option Nat := none) : Mach :=
  { m with up := m.up ++ [⟨job, m.cycle, bytes, x, pair⟩] }

/-- The TLPs that carry data to consecutive addresses: at most n bytes each, and none crosses a multiple of n (R315). -/
def tlps (n addr : Nat) : Nat → List Byte → List (Nat × List Byte)
  | 0, _ => []
  | k + 1, d =>
    if d = [] then []
    else (addr, d.take (n - addr % n)) :: tlps n (addr + (n - addr % n)) k (d.drop (n - addr % n))

/-- Hand writes of host memory by a function to the arbiter, cut to the maximum payload. -/
def hostWrites (m : Mach) (job : Option JobId) (fn : Nat) (addr : Word) (data : List Byte) (pair : Option Nat := none) : Mach :=
  (tlps m.mps addr.toNat data.length data).foldl (fun m x => m.upstream job x.2.length (.hostWrite fn (BitVec.ofNat 64 x.1) x.2) pair) m

/-- A window of R326 begins: bytes owed lapse, and the shares are those PCIE_SHARE holds now (R331). -/
def upWindow (m : Mach) : Mach :=
  { m with upUsed := [], upShare := (List.range 8).map (fun c => (c, m.jobObj (BitVec.ofNat 3 c) 0x51 0)) }

/-- Send something to the surroundings. -/
def send (m : Mach) (x : Sent) : Mach := { m with sent := m.sent ++ [x] }

/-- A PCIe function: 0 the PF, 1 + j VF j. -/
def func (m : Mach) (fn : Nat) : Func := SMap.getD m.funcs fn {}
def modFunc (m : Mach) (fn : Nat) (f : Func → Func) : Mach := { m with funcs := SMap.set m.funcs fn (f (m.func fn)) }

/-- Raise an MSI-X message: pending while masked or disabled, held while Bus Master Enable is 0, else sent (R325). -/
def msi (m : Mach) (fn vec : Nat) (job : Option JobId := none) : Mach :=
  let f := m.func fn
  let add := fun (l : List (Nat × Option JobId)) => if l.any (fun v => v.1 == vec) then l else l ++ [(vec, job)]
  if !f.msixEn || f.fmask || !(vec ∈ f.unmasked) then m.modFunc fn (fun f => { f with pendVec := add f.pendVec })
  else if !f.bme || f.d3 then m.modFunc fn (fun f => { f with heldVec := add f.heldVec })
  else m.upstream job 4 (.msix fn vec)

/-- Set bits of HIF_EVT of a function; each vector one of whose bits goes from 0 to 1 sends a message (Tables 15-7 and 15-9). -/
def setEvt (m : Mach) (fn : Nat) (v : Word) : Mach :=
  let old := SMap.getD m.hifEvt fn 0
  let new := v &&& ~~~old
  let m := ({ m with hifEvt := SMap.set m.hifEvt fn (old ||| v) }).hwSet (.evt fn) v
  if fn = 0 then
    let m := if bits new 2 0 != 0 then m.msi 0 0 else m
    (List.range 8).foldl (fun m j => if new.getLsbD (8 + j) then m.msi 0 (2 + j) else m) m
  else if new != 0 then m.msi fn 0 else m

/-- Queue an event frame of 8 bytes for the field bus: 32 wait, a further one is lost and counted (R388). -/
def evFrame (m : Mach) (b : List Byte) : Mach :=
  if m.evFrames.length < 32 then { m with evFrames := m.evFrames ++ [(b ++ List.replicate 8 0).take 8] }
  else { m with evLost := true }.count 0x4100 0x04

end Mach

/-! The error log (R448 to R452) -/

namespace ErrEntry
def sev (e : ErrEntry) : Nat := bits e.w2 63 60
def perm (e : ErrEntry) : Bool := e.w2.getLsbD 59
def prior (e : ErrEntry) : Bool := e.w2.getLsbD 58
def block (e : ErrEntry) : Nat := bits e.w2 47 40
/-- Equal in SEV, BLOCK, REASON, JOB and LOC (R452). -/
def same (x y : ErrEntry) : Bool :=
  x.sev == y.sev && bits x.w2 57 24 == bits y.w2 57 24 && x.loc == y.loc
/-- The order of two detections of one hub cycle: by BLOCK, then by LOC (R448). -/
def before (x y : ErrEntry) : Bool :=
  x.since == y.since && (decide (x.block < y.block) || (x.block == y.block && decide (x.loc.toNat < y.loc.toNat)))
end ErrEntry

/-- Replace an entry so that a full log has room: the oldest with PERM 0 goes (R449). -/
def dropOldest (p : ErrEntry → Bool) : List ErrEntry → List ErrEntry
  | [] => []
  | e :: r => if p e then r else e :: dropOldest p r

/-- Write a detection to the log: merged into the last entry of its block, or as a new entry (R448, R449, R451, R452). -/
def Mach.errWrite (m : Mach) (e : ErrEntry) : Mach :=
  let el := m.err
  let merge := match SMap.get? el.lastByBlock e.block with
    | some l => if l.same e && decide (e.since ≤ l.since + 39000000) then some l else none
    | none => none
  match merge with
  | some l =>
    let upd := fun (x : ErrEntry) =>
      if x.seq = l.seq ∧ x.prior = false then
        { x with w2 := if bits x.w2 23 16 < 255 then x.w2 + at64 1 16 else x.w2 }
      else x
    { m with err := { el with log := el.log.map upd } }
  | none =>
    let total := el.total + 1
    let sup := Nat.min (SMap.getD el.supp e.block 0) 255
    let e := { e with seq := BitVec.ofNat 64 total, w2 := e.w2 ||| at64 sup 8 }
    let log := if e.perm && decide (64 ≤ (el.log.filter (·.perm)).length) then dropOldest (·.perm) el.log
      else if 1024 ≤ el.log.length then dropOldest (fun x => !x.perm) el.log else el.log
    let nv := if e.sev = 4 then (if 32 ≤ el.nv.length then el.nv.drop 1 else el.nv) ++ [e] else el.nv
    let m := { m with err := { el with
      log := log ++ [e], total := total, nv := nv,
      supp := SMap.set el.supp e.block 0, lastByBlock := SMap.set el.lastByBlock e.block e } }
    ((m.raiseSource 33).setEvt 0 2).evFrame ([3, 0, 0, 0] ++ natBytes 4 total)

/-- Detect an error: a SEV 4 detection is written at once, any other joins the queue of 32 in order of detection, those of one hub cycle by BLOCK and LOC, or is dropped and counted for its block (R448, R452). -/
def Mach.logErr (m : Mach) (sev block reason : Nat) (j : Option JobId) (loc : Nat)
    (d0 d1 d2 d3 : Word := 0) (perm : Bool := false) : Mach :=
  let jf := match j with
    | some k => at64 1 57 ||| at64 k.toNat 54
    | none => 0
  let w2 := at64 sev 60 ||| at64 (b2n (perm || sev = 4)) 59 ||| jf ||| at64 block 40 ||| at64 reason 24
    ||| at64 m.mstate.toNat 4
  let e : ErrEntry := { seq := 0, wall := m.wallNow, w2 := w2, loc := BitVec.ofNat 64 loc, d0, d1, d2, d3, since := m.quanta }
  if sev = 4 then m.errWrite e
  else if m.err.queue.length < 32 then { m with err := { m.err with queue := insertBy ErrEntry.before e m.err.queue } }
  else { m with err := { m.err with supp := SMap.modify m.err.supp block 0 (· + 1) } }

/-! Event rings (R292) -/

/-- Entries of a ring. -/
def Evr.size (r : Evr) : Nat := 2 ^ bits r.cfg 35 32
/-- Whether the ring is full, or treated as full because EN is 0. -/
def Evr.full (r : Evr) : Bool := !r.cfg.getLsbD 63 || (r.prod - r.cons).toNat == r.size

/-- Hand a record to an event ring: its producer holds it until EVENT_RING_WRITE finds room; a producer that comes to hold a record for a full ring raises source 34. -/
def Mach.ringRecord (m : Mach) (ring : Nat) (r : List Word) : Mach :=
  let full := (SMap.getD m.evr ring {}).full
  let m := { m with evr := SMap.modify m.evr ring {} (fun x => { x with held := x.held ++ [r] }) }
  if full then m.raiseSource 34 else m

/-- A hardware source requests the post its TSK_HWMAP entry names, when it is enabled; while one waits, it keeps it, and the next event is blocked until it is admitted (R290, R292). -/
def Mach.requestPost (m : Mach) (src : Nat) : Mach :=
  let w := SMap.getD m.sched.hwMap src 0
  if (SMap.get? m.sched.hwPost src).isSome then
    { m with sched := { m.sched with hwNext := SMap.modify m.sched.hwNext src 0 (· + 1) } }
  else if !w.getLsbD 15 then m
  else
    let post : BitVec 10 × BitVec 32 := (w.truncate 10, 1#32 <<< bits w 14 10)
    { m with sched := { m.sched with hwPost := SMap.set m.sched.hwPost src post } }

end Sys2Proof.Machine
end

