-- ==== Sys2Proof/Machine/Ecc.lean ====
section
/-! DEFINITION. Module-address memory and its check codes: the address map, HBM placement, reads and writes of HBM halves and hub SRAM words with correction, poison and injection, the HBM Remap Table, and writes of SRAM words of the compute dies with the correction history (chapter 11). -/

namespace Sys2Proof.Machine

/-- Number of 1 bits of a mask. -/
def popN {n : Nat} (v : BitVec n) : Nat := ((List.range n).filter (fun i => v.getLsbD i)).length

/-- What a read of a stored word or half finds. -/
inductive Check where
  | clean | corrected | poison | bad
deriving DecidableEq, Repr

/-! Check codes of SRAM words (R237, R238) -/
/-- What a stored SRAM word with a flaw decodes to: bits 0 and 1 of the check byte inverted is poison. -/
def Mach.sramCheck (f : BitVec 72) : Check :=
  if f = 0 then .clean
  else if f = (1#72 <<< 64) ||| (1#72 <<< 65) then .poison
  else if popN f = 1 then .corrected
  else .bad

/-- Key of a location: die and location code. -/
def Mach.sramKey (die : BitVec 2) (loc : Nat) : Nat := die.toNat * 2 ^ 32 + loc

/-- The location code of a word. -/
def Mach.mkLoc (kind tile unit word : Nat) : Nat := kind * 2 ^ 29 + tile * 2 ^ 25 + unit * 2 ^ 18 + word

/-- What an entry of the log says of a stored word with a flaw: the data and check byte as stored, and the syndrome, in which a flaw of the check byte stands as it is (Tables 11-3 and 21-5). -/
def Mach.wordEvidence (data : Word) (f : BitVec 72) : Word × Word × Word :=
  let e : Word := f.truncate 64
  let c : Byte := f.extractLsb' 64 8
  (data ^^^ e, (Config.checkByte data ^^^ c).zeroExtend 64, ((if e = 0 then 0 else Config.checkByte e) ^^^ c).zeroExtend 64)

/-- Bytes of a service core's local memory, which alone it fetches from (R281). -/
def localSize : Nat := 0x40000

/-! The module address map (Table 11-1) -/

def hubBase : Nat := 0x3800000000
def hubSize : Nat := 0x4000000
def localBase : Nat := 0x3C00000000

/-- Bytes of HBM of the part. -/
def hbmSize (p : Part) : Nat := if p = .p4830 then 0xC00000000 else 0x1800000000

/-- What a module address names. -/
inductive ModArea where
  | hbm | hub | localMem (c : Nat) | reserved
deriving DecidableEq, Repr

/-- The area of a module address on a part. -/
def modArea (p : Part) (a : Nat) : ModArea :=
  if a < hbmSize p then .hbm
  else if hubBase ≤ a ∧ a < hubBase + hubSize then .hub
  else if localBase ≤ a ∧ a < localBase + 16 * localSize then .localMem ((a - localBase) / localSize)
  else .reserved

/-- Stack, pseudo-channel and local address of an HBM module address (R236). -/
def hbmPlace (a : Nat) : Nat × Nat × Nat :=
  let v : BitVec 38 := BitVec.ofNat 38 a
  (((v.extractLsb' 8 2 : BitVec 2) ^^^ v.extractLsb' 16 2).toNat,
   ((v.extractLsb' 10 5 : BitVec 5) ^^^ v.extractLsb' 18 5).toNat,
   bits v 37 15 * 256 + bits v 7 0)

/-- The module address of a place (the inverse of R236). -/
def hbmUnplace (s pc loc : Nat) : Nat :=
  let hi := loc / 256
  let s' := Nat.xor s (hi / 2 % 4)
  let p' := Nat.xor pc (hi / 8 % 32)
  hi * 32768 + p' * 1024 + s' * 256 + loc % 256

/-- LOC of an HBM error-log entry (Table 21-5). -/
def hbmLoc (a : Nat) : Nat := let (s, pc, l) := hbmPlace a; s * 2 ^ 35 + pc * 2 ^ 30 + l

/-! HBM halves (R240, R241) -/

/-- The words J0-J3 of a journal entry (Table 8-1). -/
def JEntry.words (e : JEntry) : List Word :=
  [(1 : BitVec 1) ++ e.job ++ e.key, e.gen ++ e.node ++ BitVec.ofBool e.tail ++ e.emask ++ e.eoff, e.undo0, e.undo1]

/-- The words E0-E3 of an entry (Table 3-1). -/
def Entry.words (e : Entry) : List Word :=
  let gs : BitVec 2 := match e.gstate with
    | .arming => 0 | .waiting => 1 | .presented => 2 | .fired => 3
  let h : Bool := e.head
  let hd := fun {n : Nat} (v : BitVec n) => if h then v else 0
  [e.gen ++ (1#1) ++ e.kind ++ BitVec.ofBool h ++ e.job ++ e.port ++ BitVec.ofBool e.fs ++ hd e.arrived
    ++ hd e.rmask ++ hd e.mode ++ hd gs ++ hd (BitVec.ofBool e.contest) ++ e.locPe ++ e.node,
   (0 : BitVec 4) ++ e.key, e.a, e.b]

namespace Mach

/-- Whether the clocks of the horizon-period counter run: outside STANDBY, BOOT, SNOWDROP and FAULT. -/
def serving (m : Mach) : Bool := decide (3 ≤ m.mstate.toNat ∧ m.mstate.toNat ≤ 6)

def modMs (m : Mach) (f : MemSys → MemSys) : Mach := { m with ms := f m.ms }

/-- What a read of the half at h finds. -/
def halfCheck (m : Mach) (h : Nat) : Check :=
  if h ∈ m.ms.hbmPoison then .poison
  else if h ∈ m.ms.hbmMisaddr then .bad
  else match popN (SMap.getD m.ms.hbmFlaw h 0) with
    | 0 => .clean
    | 1 => .corrected
    | _ => .bad

/-- Forget every flaw of a half, as a write of all of it does. -/
def halfClear (m : Mach) (h : Nat) : Mach :=
  m.modMs (fun x => { x with hbmFlaw := SMap.erase x.hbmFlaw h, hbmPoison := x.hbmPoison.filter (· != h),
                             hbmMisaddr := x.hbmMisaddr.filter (· != h) })

/-- Source and spare units of an HBM_REMAP entry: stack, pseudo-channel and unit. -/
def remapSrc (w : Word) : Nat × Nat × Nat := (bits w 26 25, bits w 24 20, bits w 19 0)
def remapSpr (w : Word) : Nat × Nat × Nat := (bits w 54 53, bits w 52 48, bits w 47 28)

/-- The unit an HBM module address lies in. -/
def unitOf (a : Nat) : Nat × Nat × Nat := let (s, pc, l) := hbmPlace a; (s, pc, l / 1024)

/-- Number of the HBM_REMAP entry that serves an address from a spare unit, as DATA2 of an entry of the log gives it; 0 also where none does (R251, Table 21-5). -/
def remapAt (m : Mach) (h : Nat) : Word :=
  match m.ms.remap.find? (fun e => e.2.getLsbD 63 && remapSrc e.2 == unitOf h) with
  | some e => BitVec.ofNat 64 e.1
  | none => 0

/-- The entry of the error log for a half of HBM: its place, its module address, the symbols in error and the remap entry that serves it (R255, Table 21-5). -/
def logHalf (m : Mach) (h : Nat) (f : BitVec 36) : Mach :=
  m.logErr 0 0x09 0 none (hbmLoc h) (BitVec.ofNat 64 h) (f.zeroExtend 64) (m.remapAt h)

/-- Store a half poisoned; the entry of the error log is made here, with the symbols that were in error (R238, R255). -/
def halfPoison (m : Mach) (h : Nat) : Mach :=
  let f := SMap.getD m.ms.hbmFlaw h 0
  let m := m.halfClear h
  let m := m.modMs (fun x => { x with hbmPoison := h :: x.hbmPoison })
  m.logHalf h f

/-- Read a half: a corrected one is written back, an uncorrectable one is logged, poison is counted as consumed. -/
def halfRead (m : Mach) (h : Nat) : Check × Mach :=
  let c := m.halfCheck h
  match c with
  | .clean => (c, m)
  | .corrected => (c, (m.halfClear h).count 0x4A00 0x04)
  | .poison => (c, m.count 0x4A00 0x03)
  | .bad =>
    let m := (m.count 0x4A00 0x05).logHalf h (SMap.getD m.ms.hbmFlaw h 0)
    (c, m.raiseSource (144 + (hbmPlace h).1))

/-- The halves a range touches. -/
def halvesOf (a n : Nat) : List Nat :=
  if n = 0 then [] else (List.range ((a + n - 1) / 32 - a / 32 + 1)).map (fun i => (a / 32 + i) * 32)

/-- Read the halves of a range: whether any is lost. -/
def hbmCheck (m : Mach) (a n : Nat) : Bool × Mach :=
  if m.ms.hbmFlaw = [] ∧ m.ms.hbmPoison = [] ∧ m.ms.hbmMisaddr = [] then (false, m)
  else (halvesOf a n).foldl (fun (acc : Bool × Mach) h =>
    let (c, m) := acc.2.halfRead h
    (acc.1 || c == .poison || c == .bad, m)) (false, m)

/-- A write of a half takes an injection that stands for it (R256). -/
def halfInject (m : Mach) (h : Nat) : Mach :=
  let m := match SMap.get? m.ms.hbmInj h with
    | some f => m.modMs (fun x => { x with hbmFlaw := SMap.set x.hbmFlaw h f, hbmInj := SMap.erase x.hbmInj h })
    | none => m
  if h ∈ m.ms.hbmInjMis then
    m.modMs (fun x => { x with hbmMisaddr := h :: x.hbmMisaddr, hbmInjMis := x.hbmInjMis.filter (· != h) })
  else m

/-- Write bytes to HBM: whole halves are written outright, a narrower write is merged and keeps a lost half poisoned (R241). -/
def hbmWrite (m : Mach) (a : Nat) (d : List Byte) : Mach :=
  let m := (halvesOf a d.length).foldl (fun m h =>
    let whole := decide (a ≤ h ∧ h + 32 ≤ a + d.length)
    let m := if whole then m.halfClear h
      else
        let (c, m) := (m.count 0x4A00 0x08).halfRead h
        if c == .bad || c == .poison then m.halfPoison h else m
    m.halfInject h) m
  { m with mem := memWrite m.mem a d }

/-! Hub SRAM words: the hub store and the local memories (R237 to R239) -/

/-- Read a hub SRAM word. -/
def hubWordRead (m : Mach) (a : Nat) : Check × Mach :=
  let f := SMap.getD m.ms.hubFlaw a 0
  let c := sramCheck f
  match c with
  | .clean => (c, m)
  | .corrected => (c, (m.modMs (fun x => { x with hubFlaw := SMap.erase x.hubFlaw a })).count 0x4A00 0x01)
  | .poison => (c, m.count 0x4A00 0x03)
  | .bad =>
    let (x, k, y) := wordEvidence (memWord m.mem a) f
    (c, ((m.count 0x4A00 0x02).logErr 0 0x08 0 none a x k y).raiseSource 140)

def poisonMask : BitVec 72 := (1#72 <<< 64) ||| (1#72 <<< 65)

/-- The entry of the log for an SRAM word written poisoned: its data, the check byte as stored and the syndrome (R238, R255, Table 21-5). -/
def logPoison (m : Mach) (block loc : Nat) (data : Word) : Mach :=
  let (x, k, y) := wordEvidence data poisonMask
  m.logErr 0 block 0 none loc x k y

/-- Write bytes within one hub SRAM word: a whole word clears it, a narrow one is a read-modify-write that poisons the word when the old one is lost (R239). -/
def hubWordWrite (m : Mach) (a : Nat) (d : List Byte) : Mach :=
  let w := a / 8 * 8
  let m :=
    if d.length = 8 then m.modMs (fun x => { x with hubFlaw := SMap.erase x.hubFlaw w })
    else
      let (c, m) := (m.count 0x4A00 0x07).hubWordRead w
      if c == .bad || c == .poison then
        (m.modMs (fun x => { x with hubFlaw := SMap.set x.hubFlaw w poisonMask })).logPoison 0x08 w (memWord (memWrite m.mem a d) w)
      else m
  { m with mem := memWrite m.mem a d }

/-- Write whole hub SRAM words. -/
def hubWords (m : Mach) (a : Nat) (d : List Byte) : Mach :=
  { (m.modMs (fun x => { x with hubFlaw := x.hubFlaw.filter (fun e => e.1 < a || a + d.length ≤ e.1) })) with
    mem := memWrite m.mem a d }

/-- Write bytes to hub SRAM: a part of a word at either end is a narrow write, and what lies between is whole words (R239). -/
def hubWrite (m : Mach) (a : Nat) (d : List Byte) : Mach :=
  let part := fun (m : Mach) (a : Nat) (d : List Byte) => if d = [] then m else m.hubWordWrite a d
  let head := d.take (if a % 8 = 0 then 0 else 8 - a % 8)
  let rest := d.drop head.length
  let body := rest.take (rest.length / 8 * 8)
  let m := part m a head
  let m := if body = [] then m else m.hubWords (a + head.length) body
  part m (a + head.length + body.length) (rest.drop body.length)

/-! HBM Remap Table (R251, R252) -/

/-- The 1 KiB of a unit as module addresses of its 256 B blocks. -/
def unitBlocks (u : Nat × Nat × Nat) : List Nat :=
  (List.range 4).map (fun i => hbmUnplace u.1 u.2.1 (u.2.2 * 1024 + 256 * i))

/-- Bytes of a unit. -/
def unitBytes (m : Mach) (u : Nat × Nat × Nat) : List Byte := (unitBlocks u).flatMap (fun b => memBytes m.mem b 256)

/-- Write the bytes of a unit. -/
def setUnit (m : Mach) (u : Nat × Nat × Nat) (d : List Byte) : Mach :=
  { m with mem := ((unitBlocks u).zipIdx).foldl (fun mm (b, i) => memWrite mm b ((d.drop (256 * i)).take 256)) m.mem }

/-- Entries in use whose copy has ended. -/
def remapLive (m : Mach) : List Word :=
  (m.ms.remap.filter (fun e => e.2.getLsbD 63 && !(e.1 ∈ m.ms.copying))).map (·.2)

/-- The module address whose bytes an access reaches: a spare unit in use holds the bytes of its source unit (R251). -/
def alias_ (m : Mach) (a : Nat) : Nat :=
  if m.ms.remap = [] then a
  else match (m.remapLive).find? (fun w => remapSpr w == unitOf a) with
    | some w => let (s, pc, u) := remapSrc w; hbmUnplace s pc (u * 1024 + (hbmPlace a).2.2 % 1024)
    | none => a

/-- Whether an access of n bytes waits because a unit it names is being copied (R252). -/
def copyWait (m : Mach) (a : Nat) (n : Nat := 1) : Bool :=
  m.ms.copying != [] && (halvesOf a n).any (fun h =>
    m.ms.remap.any (fun e => e.1 ∈ m.ms.copying && remapSrc e.2 == unitOf h))

/-- Zero-fill a range of HBM. -/
def hbmZeroNow (m : Mach) (a n : Nat) : Mach :=
  let inside := fun h => decide (a ≤ h ∧ h < a + n)
  let inj := ((m.ms.hbmInj.map (·.1)) ++ m.ms.hbmInjMis).filter inside
  let m := { m with mem := memZero m.mem a n }
  let m := m.modMs (fun x => { x with
    hbmFlaw := x.hbmFlaw.filter (fun e => !inside e.1), hbmPoison := x.hbmPoison.filter (fun h => !inside h),
    hbmMisaddr := x.hbmMisaddr.filter (fun h => !inside h) })
  inj.foldl halfInject m

/-- Zero-fill a range of HBM; the whole fill waits while a unit of the range is being copied (R252). -/
def hbmZero (m : Mach) (a n : Nat) : Mach :=
  if m.copyWait a n then m.modMs (fun x => { x with zeroW := x.zeroW ++ [(a, n)] }) else m.hbmZeroNow a n

/-- A copy has ended: the fills that wait for no other are made. -/
def zeroEnds (m : Mach) : Mach :=
  let l := m.ms.zeroW
  l.foldl (fun m r => m.hbmZero r.1 r.2) (m.modMs (fun x => { x with zeroW := [] }))

/-- The entry of the log for a change of HBM_REMAP[e]: at its source unit, with the module address of that and the entry (R255, Table 21-5). -/
def logRemap (m : Mach) (e : Nat) (w : Word) : Mach :=
  let (s, pc, u) := remapSrc w
  m.logErr 0 0x09 0 none (s * 2 ^ 35 + pc * 2 ^ 30 + u * 1024) (BitVec.ofNat 64 (hbmUnplace s pc (u * 1024))) 0 (BitVec.ofNat 64 e)

/-! SRAM of the compute dies (R237, R242, R249, R250) -/

/-- Fields of a location code (Table 11-6). -/
def locKind (loc : Nat) : Nat := loc / 2 ^ 29
def locTile (loc : Nat) : Nat := loc / 2 ^ 25 % 16
def locUnit (loc : Nat) : Nat := loc / 2 ^ 18 % 128
def locWord (loc : Nat) : Nat := loc % 2 ^ 13
/-- WORD range of a kind: Iris, node-record cache, code cache, MOB, journal slice. -/
def locWords : Nat → Nat
  | 0 => 4096 | 1 => 4096 | 2 => 2048 | 3 => 8192 | 4 => 1024 | _ => 0

/-- A tile, PE or cluster of a location code. -/
def locTileId (die : BitVec 2) (loc : Nat) : TileId := die ++ BitVec.ofNat 4 (locTile loc)

/-- The content of an SRAM word of a compute die: an entry's word, 0 where none is in use; the caches' words are the spec's no more than that they are copies. -/
def sramContent (m : Mach) (die : BitVec 2) (loc : Nat) : Word :=
  let t := locTileId die loc
  let w := locWord loc
  match locKind loc with
  | 0 => match SMap.get? (m.pe (t ++ BitVec.ofNat 7 (locUnit loc))).iris (w / 4) with
    | some e => e.words.getD (w % 4) 0
    | none => 0
  | 3 => match SMap.get? (m.cluster (t ++ BitVec.ofNat 4 (locUnit loc / 8))).mob (w / 4) with
    | some e => e.words.getD (w % 4) 0
    | none => 0
  | 4 => match SMap.get? (m.tile t).journal (w / 4) with
    | some e => e.words.getD (w % 4) 0
    | none => 0
  | _ => Config.cacheWord die.toNat loc

/-- Whether a location is served by a Patch Table entry of its die: its index (R249). -/
def patchOf (m : Mach) (die : BitVec 2) (loc : Nat) : Option Nat :=
  (List.range 32).find? (fun e =>
    let w := SMap.getD m.ms.ptLoc (die.toNat * 32 + e) 0
    w.getLsbD 32 && (w.truncate 32 : BitVec 32).toNat == loc)

/-- CH_ENT of a die. -/
def ch (m : Mach) (die : BitVec 2) (h : Nat) : Word := SMap.getD m.ms.chEnt (die.toNat * 16 + h) 0
def setCh (m : Mach) (die : BitVec 2) (h : Nat) (w : Word) : Mach :=
  m.modMs (fun x => { x with chEnt := SMap.set x.chEnt (die.toNat * 16 + h) w })

/-- The word of a location goes into PT_DATA[e], poisoned when it is lost, and is served from there (R249). -/
def patchInstall (m : Mach) (die : BitVec 2) (e loc : Nat) (lost : Bool) : Mach :=
  let k := sramKey die loc
  let m := m.modMs (fun x => { x with
    sramFlaw := if lost then SMap.set x.sramFlaw k poisonMask else SMap.erase x.sramFlaw k,
    wbQ := x.wbQ.filter (· != (die.toNat, loc)),
    ptLoc := SMap.set x.ptLoc (die.toNat * 32 + e) (at64 (b2n lost) 33 ||| at64 1 32 ||| at64 loc 0) })
  let m := if lost then m.logPoison 0x06 k (m.sramContent die loc) else m
  m.logErr 0 0x07 0 none k (BitVec.ofNat 64 e)

/-- The lowest free Patch Table entry of a die. -/
def patchFree (m : Mach) (die : BitVec 2) : Option Nat :=
  (List.range 32).find? (fun e => !(SMap.getD m.ms.ptLoc (die.toNat * 32 + e) 0).getLsbD 32)

/-- Put a record into the repair log of the flash. -/
def repairNote (m : Mach) (r : RepairRec) : Mach :=
  if r ∈ m.repairLog then m else { m with repairLog := m.repairLog ++ [r] }

/-- Whether PT_LOC may take a location: its WORD lies in its structure, and no valid entry of the die names it (R248). -/
def patchMay (m : Mach) (die : BitVec 2) (loc : Nat) : Bool :=
  decide (locWord loc < locWords (locKind loc)) && (m.patchOf die loc).isNone

/-- A COUNT of the correction history has reached PATCH_CE_LIMIT: service firmware, which runs, patches the location in the lowest free entry (which free entry it takes is the model's choice, log entry 90), records the patch in the repair log and clears the history entry; with no entry free it logs "patch table full", with SEV 3 (R250, R443). A location that PT_LOC does not take gets no entry and no record: its write is ignored as a whole, and the history entry is cleared (R248). -/
def patchLimit (m : Mach) (die : BitVec 2) (loc h n : Nat) : Mach :=
  if !m.serving then m
  else if !m.patchMay die loc then m.setCh die h (m.ch die h &&& 0xFFFFFFFF)
  else match m.patchFree die with
    | some e =>
      let m := (m.patchInstall die e loc false).repairNote (.patch die (BitVec.ofNat 32 loc))
      m.setCh die h (m.ch die h &&& 0xFFFFFFFF)
    | none => m.logErr 3 0x07 0 none (sramKey die loc) (BitVec.ofNat 64 h) (BitVec.ofNat 64 n)

/-- A corrected SRAM error of a compute die updates its correction history; at the limit its memory interrupt is raised and service firmware acts (R250). -/
def history (m : Mach) (die : BitVec 2) (loc : Nat) : Mach :=
  let lw : Word := BitVec.ofNat 64 loc
  let used := (List.range 16).filter (fun h => (m.ch die h).getLsbD 32)
  let entry := fun (n : Nat) => at64 n 40 ||| at64 1 32 ||| lw
  let limit := m.objD 0x2700 0x04 3
  let note := fun (m : Mach) (h was n : Nat) =>
    if n = limit ∧ was < n then
      ((m.logErr 1 0x07 0 none (sramKey die loc) (BitVec.ofNat 64 h) (BitVec.ofNat 64 n)).raiseSource (136 + die.toNat)).patchLimit die loc h n
    else m
  match used.find? (fun h => bits (m.ch die h) 31 0 == loc) with
  | some h =>
    let was := bits (m.ch die h) 47 40
    let n := Nat.min 255 (was + 1)
    note (m.setCh die h (entry n)) h was n
  | none =>
    match (List.range 16).find? (fun h => !(h ∈ used)) with
    | some h =>
      note (((m.setCh die h (entry 1)).hwSet (.hist die.toNat h) (at64 1 32)).logErr 1 0x07 0 none (sramKey die loc) (BitVec.ofNat 64 h) 1) h 0 1
    | none =>
      match leastBy (fun x y => decide (bits (m.ch die x) 47 40 < bits (m.ch die y) 47 40)) used with
      | some h => note ((m.setCh die h (entry 1)).hwSet (.hist die.toNat h) (at64 1 32)) h 0 1
      | none => m

/-- A single-bit error of an SRAM word of a compute die was corrected: it is counted, enters the correction history, and the corrected word waits for a free cycle of its bank (R237, R250). -/
def sramCorrected (m : Mach) (die : BitVec 2) (loc : Nat) : Mach :=
  let m := (m.count 0x4A00 0x01).history die loc
  if (SMap.get? m.ms.sramFlaw (sramKey die loc)).isNone || (die.toNat, loc) ∈ m.ms.wbQ then m
  else m.modMs (fun x => { x with wbQ := x.wbQ ++ [(die.toNat, loc)] })

/-- A write of an SRAM word clears its flaws and any write-back that waits, and takes an injection that stands for it. -/
def sramWrite (m : Mach) (die : BitVec 2) (loc : Nat) : Mach :=
  let k := sramKey die loc
  m.modMs (fun x => { x with
    sramFlaw := (match SMap.get? x.sramInj k with
      | some f => SMap.set x.sramFlaw k f
      | none => SMap.erase x.sramFlaw k),
    sramInj := SMap.erase x.sramInj k,
    wbQ := x.wbQ.filter (· != (die.toNat, loc)) })

/-- A functional write of words of a structure of a tile (R237, R244, R249, R256). -/
def sramPut (m : Mach) (t : TileId) (kind unit : Nat) (l : List Nat) : Mach :=
  if m.ms.sramFlaw = [] ∧ m.ms.sramInj = [] ∧ m.ms.wbQ = [] then m
  else l.foldl (fun m w => m.sramWrite (t.extractLsb' 4 2) (mkLoc kind (t.toNat % 16) unit w)) m

/-- Base of the deep-match region of HBM. -/
def deepBase : Nat := 0x40000000

/-- Module address of an entry of a tile's deep-match partition: 262,144 buckets of 8 entries of 32 bytes (R60). -/
def deepAddr (t : TileId) (i : Nat) : Nat := deepBase + t.toNat * 2 ^ 26 + 32 * i

/-- Write words to HBM at a module address, through the HBM Remap Table. -/
def hbmWords (m : Mach) (a : Nat) (ws : List Word) : Mach := m.hbmWrite (m.alias_ a) (wordsBytes ws)

end Mach

end Sys2Proof.Machine
end

