-- ==== Sys2Proof/Machine/Nodes.lean ====
section
/-! DEFINITION. Node records, held values and settled records as the job's HBM regions hold them (Tables 12-5 and 12-6), fanout blocks and design memory. -/

namespace Sys2Proof.Machine

/-- A node of a job on this module: job, PE, local node. -/
structure NRef where
  job : JobId
  pe : PeId
  node : BitVec 17
deriving DecidableEq, Repr

namespace Mach

/-- NCOUNT of a PE in the job's image (R259). -/
def ncount (m : Mach) (j : JobId) (p : PeId) : Nat := SMap.getD (m.job j).ncount p.toNat 0

/-- Whether a node exists in the job (R259). -/
def nodeExists (m : Mach) (r : NRef) : Bool := decide (r.node.toNat < m.ncount r.job r.pe)

/-- Position of a node in the order of R259. -/
def nodeIndex (m : Mach) (r : NRef) : Nat :=
  ((m.job r.job).ncount.filter (fun e => e.1 < r.pe.toNat)).foldl (fun s e => s + e.2) 0 + r.node.toNat

/-- Address of a node record (R260). -/
def recAddr (m : Mach) (r : NRef) : Nat := (m.job r.job).nodeRec.base + 64 * m.nodeIndex r
/-- Address of a node's state block (R263). -/
def stAddr (m : Mach) (r : NRef) : Nat := (m.job r.job).nodeState.base + 384 * m.nodeIndex r

/-- Write a word of a line that the node-record cache of a tile holds: the 64 bytes of the line go to HBM as two whole halves, so nothing is merged there (R241). That they go at once is the model's choice (log entry 79). -/
def lineWrite (m : Mach) (a : Nat) (v : Word) : Mach :=
  let m := if m.ms.hbmFlaw = [] ∧ m.ms.hbmPoison = [] ∧ m.ms.hbmMisaddr = [] ∧ m.ms.hbmInj = [] ∧ m.ms.hbmInjMis = [] then m
    else [a / 64 * 64, a / 64 * 64 + 32].foldl (fun m h => (m.halfClear h).halfInject h) m
  { m with mem := memSetWord m.mem a v }

/-- The line of a PE's node-record cache (kind 1) or code cache (kind 2) that an access uses, and whether it is filled from HBM first: free values, for the spec gives the caches no placement. -/
def cacheDraw (m : Mach) (kind : Nat) : Nat × Bool :=
  let d := Config.cacheLine m.free
  (d / 2 % (locWords kind / 8), d % 2 == 1)

/-- A write of word k of a line that a PE's node-record cache holds: the cache's word is written, and with it the whole line where it is filled first (R237, R256). -/
def cacheWrite (m : Mach) (p : PeId) (k : Nat) : Mach :=
  if m.ms.sramFlaw = [] ∧ m.ms.sramInj = [] ∧ m.ms.wbQ = [] then m
  else
    let (l, fill) := m.cacheDraw 1
    ({ m with free := m.free + 1 }).sramPut (peTile p) 1 (p.toNat % 128)
      (if fill then (List.range 8).map (8 * l + ·) else [8 * l + k % 8])

/-- Word Wk of a node record (Table 12-5). -/
def recW (m : Mach) (r : NRef) (k : Nat) : Word := memWord m.mem (m.recAddr r + 8 * k)
/-- Write a word of the record: the tile's node-record cache holds its line, which goes to HBM whole. -/
def setRecW (m : Mach) (r : NRef) (k : Nat) (v : Word) : Mach := (m.cacheWrite r.pe k).lineWrite (m.recAddr r + 8 * k) v
/-- Word Sk of the settled record (Table 12-6). -/
def setlW (m : Mach) (r : NRef) (k : Nat) : Word := memWord m.mem (m.stAddr r + 128 + 8 * k)
/-- Write words of the settled record from Sk on; it is cached nowhere, so each such write is one of HBM (R241; how the words of one update are grouped is the model's choice, log entry 79). -/
def setSetlW (m : Mach) (r : NRef) (k : Nat) (l : List Word) : Mach :=
  m.hbmWrite (m.stAddr r + 128 + 8 * k) (l.flatMap (fun v => natBytes 8 v.toNat))

def nMode (m : Mach) (r : NRef) : BitVec 2 := (m.recW r 0).extractLsb' 30 2
def nRmask (m : Mach) (r : NRef) : Byte := (m.recW r 0).extractLsb' 22 8
def nEdge (m : Mach) (r : NRef) : BitVec 2 := (m.recW r 0).extractLsb' 20 2
def nEdgeXz (m : Mach) (r : NRef) : Bool := (m.recW r 0).getLsbD 19
def nJn (m : Mach) (r : NRef) : BitVec 2 := (m.recW r 0).extractLsb' 17 2
def nSwmask (m : Mach) (r : NRef) : BitVec 4 := (m.recW r 0).extractLsb' 13 4
def nPmask (m : Mach) (r : NRef) : Byte := (m.recW r 0).extractLsb' 5 8
def nCodeOff (m : Mach) (r : NRef) : BitVec 32 := (m.recW r 0).extractLsb' 32 32
def nGen (m : Mach) (r : NRef) : Byte := (m.recW r 2).extractLsb' 44 8
def nFan (m : Mach) (r : NRef) : BitVec 40 := (m.recW r 2).truncate 40
def nDmBase (m : Mach) (r : NRef) : Nat := 64 * bits (m.recW r 3) 59 30
def nDmLen (m : Mach) (r : NRef) : Nat := 64 * bits (m.recW r 3) 29 0

/-- Last firing tag of a node (R34). -/
def nLast (m : Mach) (r : NRef) : Tag := ⟨m.recW r 1, (m.recW r 2).extractLsb' 52 12⟩
def setLast (m : Mach) (r : NRef) (t : Tag) : Mach :=
  let m := m.setRecW r 1 t.time
  m.setRecW r 2 (t.delta ++ (m.recW r 2).truncate 52)
/-- Advance the generation by 1 modulo 256 (R48). -/
def advanceGen (m : Mach) (r : NRef) : Mach :=
  let w := m.recW r 2
  m.setRecW r 2 ((w.extractLsb' 52 12 : BitVec 12) ++ (m.nGen r + 1) ++ (w.truncate 44 : BitVec 44))

/-- Held value of a port: planes A and B (R263). -/
def held (m : Mach) (r : NRef) (k : Nat) : Word × Word :=
  (memWord m.mem (m.stAddr r + 8 * k), memWord m.mem (m.stAddr r + 64 + 8 * k))
def setHeld (m : Mach) (r : NRef) (k : Nat) (a b : Word) : Mach :=
  ((((m.cacheWrite r.pe k).lineWrite (m.stAddr r + 8 * k) a)).cacheWrite r.pe k).lineWrite (m.stAddr r + 64 + 8 * k) b

/-- Settled value and settled tag of a port (R154). -/
def settled (m : Mach) (r : NRef) (k : Nat) : Word × Word × Tag :=
  let dw := m.setlW r (if k < 4 then 24 else 25)
  (m.setlW r k, m.setlW r (8 + k), ⟨m.setlW r (16 + k), dw.extractLsb' (12 * (k % 4)) 12⟩)
def setSettled (m : Mach) (r : NRef) (k : Nat) (a b : Word) (t : Tag) : Mach :=
  let di := if k < 4 then 24 else 25
  let dw := m.setlW r di
  let sh := 12 * (k % 4)
  let dw' := (dw &&& ~~~(at64 0xFFF sh)) ||| at64 t.delta.toNat sh
  (((m.setSetlW r k [a]).setSetlW r (8 + k) [b]).setSetlW r (16 + k) [t.time]).setSetlW r di [dw']

/-- Settled firing tag (R149, R154). -/
def sft (m : Mach) (r : NRef) : Tag := ⟨m.setlW r 26, (m.setlW r 27).truncate 12⟩
def setSft (m : Mach) (r : NRef) (t : Tag) : Mach :=
  m.setSetlW r 26 [t.time, ((m.setlW r 27) &&& ~~~0xFFF) ||| at64 t.delta.toNat 0]
def pinned (m : Mach) (r : NRef) : Bool := (m.setlW r 27).getLsbD 24
/-- Rollback count (R158). -/
def rbc (m : Mach) (r : NRef) : Nat := bits (m.setlW r 27) 23 16
def setPinRbc (m : Mach) (r : NRef) (p : Bool) (n : Nat) : Mach :=
  m.setSetlW r 27 [((m.setlW r 27) &&& 0xFFF) ||| at64 n 16 ||| at64 (b2n p) 24]
def le (m : Mach) (r : NRef) : Tag := ⟨m.setlW r 28, (m.setlW r 29).truncate 12⟩
def setLe (m : Mach) (r : NRef) (t : Tag) : Mach :=
  m.setSetlW r 28 [t.time, t.delta.zeroExtend 64]
def wt (m : Mach) (r : NRef) : Tag := ⟨m.setlW r 30, (m.setlW r 31).truncate 12⟩
def setWt (m : Mach) (r : NRef) (t : Tag) : Mach :=
  m.setSetlW r 30 [t.time, t.delta.zeroExtend 64]

/-- The later of two recorded tags, where noTag is earlier than every tag (R261). -/
def laterRec (x y : Tag) : Tag := if x.ltRec y then y else x

/-- Arcs of output port k of a node, as words of its fanout block (R265). -/
def arcs (m : Mach) (r : NRef) (k : Nat) : List Word :=
  let fb := m.nFan r
  if fb = BitVec.allOnes 40 then []
  else
    let base := (m.job r.job).fanout.base + 8 * fb.toNat
    let cnt := fun i => bytesNat (memBytes m.mem (base + 2 * i) 2)
    let before := ((List.range k).map cnt).foldl (· + ·) 0
    (List.range (cnt k)).map (fun i => memWord m.mem (base + 16 + 8 * (before + i)))

/-- The fanout block of a node in HBM: its address and length, 0 where the node has none (R265). -/
def fanRange (m : Mach) (r : NRef) : Nat × Nat :=
  let fb := m.nFan r
  if fb = BitVec.allOnes 40 then (0, 0)
  else
    let base := (m.job r.job).fanout.base + 8 * fb.toNat
    (base, 16 + 8 * ((List.range 8).map (fun i => bytesNat (memBytes m.mem (base + 2 * i) 2))).foldl (· + ·) 0)

/-- Whether an access to a node's record, state block or fanout block waits because a unit of HBM is being copied (R252). -/
def nodeWaits (m : Mach) (r : NRef) : Bool :=
  m.ms.copying != [] && (m.copyWait (m.recAddr r) 64 || m.copyWait (m.stAddr r) 384 || m.copyWait (m.fanRange r).1 (m.fanRange r).2)

/-- Declared output lookahead of a PE, limited by LOOKAHEAD_CAP (R185). -/
def lookahead (m : Mach) (j : JobId) (p : PeId) : Nat :=
  Nat.min (SMap.getD (m.job j).look p.toNat 0) (m.jobObj j 0x40 (2 ^ 46))

/-- Whether a job's tile set holds a tile (R20): object TILES. -/
def inTileSet (m : Mach) (j : JobId) (t : TileId) : Bool := (m.jobObj j 0x02 0).testBit t.toNat

/-- Whether a job is LOADED, RUN or PAUSED (R39). -/
def live (m : Mach) (j : JobId) : Bool :=
  match (m.job j).state with
  | .loaded | .run | .paused => true
  | _ => false

/-- Whether a job is active in a tile (R170). -/
def active (m : Mach) (j : JobId) (t : TileId) : Bool := m.live j && m.inTileSet j t

/-- The eight jobs. -/
def allJobs : List JobId := (List.range 8).map (BitVec.ofNat 3)

/-- The full tag of a key of a job, by the GVT delivered to its PEs (R33). -/
def tagOf (m : Mach) (j : JobId) (k : Key) : Tag := Tag.ofKey k (m.job j).gvt.time

/-! Forwarding to the Target Port (R204) -/

/-- The ceiling interval a tag lies in: the number of ceilings K_m at or below it (R201). -/
def ceilInterval (m : Mach) (j : JobId) (t : Tag) : Nat :=
  let jb := m.job j
  if t = noTag ∨ t.time.toNat < jb.t0.toNat then 0 else (t.time.toNat - jb.t0.toNat) / m.jobObj j 0x44 1000 + 1

/-- The port keeps, for one output, the latest forwarded value of each of the last 16 ceiling intervals, and the newest value before them. -/
def tgtStore (m : Mach) (j : JobId) (i : Nat) (t : Tag) (a b : Word) : Mach :=
  let iv := m.ceilInterval j t
  let l := SMap.getD m.tgt.vals i []
  let keep := match SMap.get? l iv with
    | some (o, _, _) => t.ltRec o
    | none => false
  let l := if keep then l else SMap.set l iv (t, a, b)
  let edge := (m.job j).edge
  let old := (l.filter (fun e => e.1 + 16 < edge)).getLast?.toList
  { m with tgt := { m.tgt with vals := SMap.set m.tgt.vals i (old ++ l.filter (fun e => edge ≤ e.1 + 16)) } }

/-- A write of a settled value is forwarded to every output of TGT_OUT_MAP that names its node and port; the value it replaces stands for earlier intervals where the port holds none. -/
def tgtForward (m : Mach) (r : NRef) (port : Nat) (old : Word × Word × Tag) (t : Tag) (a b : Word) : Mach :=
  if m.objD 0x2500 0x06 0xFF != r.job.toNat then m
  else
    let node := mkNode m.number r.pe r.node
    (List.range 16).foldl (fun m i =>
      let w : Word := BitVec.ofNat 64 (m.objD 0x2511 (1 + i) 0)
      if w.getLsbD 63 && (w.truncate 40 : NodeId) == node && bits w 42 40 == port then
        let m := if SMap.getD m.tgt.vals i [] = [] then m.tgtStore r.job i old.2.2 old.1 old.2.1 else m
        m.tgtStore r.job i t a b
      else m) m

/-- Write the settled value and tag of a port, and forward it (R154, R204). -/
def settle (m : Mach) (r : NRef) (port : Nat) (a b : Word) (t : Tag) : Mach :=
  (m.setSettled r port a b t).tgtForward r port (m.settled r port) t a b

end Mach

end Sys2Proof.Machine
end

