-- ==== Sys2Proof/Machine/Groups.lean ====
section
/-! DEFINITION. The matching store: hashing, levels, groups, moves between levels, readiness, descriptors withdrawn and rollback requests (chapter 3, R293). -/

namespace Sys2Proof.Machine

/-- The entry that the words E0-E3 spell; none where VALID is 0. -/
def Entry.ofWords (l : List Word) : Option Entry :=
  let w := l.getD 0 0
  if w.getLsbD 55 then
    some { gen := w.extractLsb' 56 8, kind := w.extractLsb' 53 2, head := w.getLsbD 52, job := w.extractLsb' 49 3,
           port := w.extractLsb' 46 3, fs := w.getLsbD 45, arrived := w.extractLsb' 37 8, rmask := w.extractLsb' 29 8,
           mode := w.extractLsb' 27 2,
           gstate := match bits w 26 25 with
             | 0 => .arming | 1 => .waiting | 2 => .presented | _ => .fired,
           contest := w.getLsbD 24, locPe := w.extractLsb' 17 7, node := w.truncate 17, key := (l.getD 1 0).truncate 60,
           a := l.getD 2 0, b := l.getD 3 0 }
  else none

/-- The words of an entry that is freed: VALID is 0, and the rest stands as it was (the model's choice, log entry 77). -/
def Entry.freedWords (e : Entry) : List Word :=
  (e.words.headD 0 &&& ~~~(at64 1 55)) :: e.words.drop 1

/-- Candidate sets, MOB set and deep-match home bucket of a (job, node, tag) (R53). -/
def irisHash (job : JobId) (node : BitVec 17) (key : Key) (lp : BitVec 7) : Nat × Nat × Nat × Nat :=
  let a : Word := (key.zeroExtend 64) ^^^ (node.zeroExtend 64 <<< 43) ^^^ (job.zeroExtend 64 <<< 60)
  let h0 := (List.range 11).foldl (fun (h : BitVec 6) i => h ^^^ (a >>> (6 * i)).truncate 6) 0
  let mm : Word := a * 0x9E3779B97F4A7C15
  let h1 : BitVec 6 := (mm >>> 58).truncate 6
  let mobSet : BitVec 8 := (h0.zeroExtend 8) ^^^ (((lp.truncate 3 : BitVec 3).zeroExtend 8) <<< 5)
  let dbk : BitVec 18 := (mm >>> 46).truncate 18 ^^^ ((lp.zeroExtend 18) <<< 11)
  (h0.toNat, h1.toNat, mobSet.toNat, dbk.toNat)

/-- The hash of a group of PE p. -/
def GRef.hash (g : GRef) (p : PeId) : Nat × Nat × Nat × Nat := irisHash g.job g.node g.key (p.truncate 7)

/-- The node a group belongs to. -/
def GRef.nref (g : GRef) (p : PeId) : NRef := ⟨g.job, p, g.node⟩

/-- Whether an entry of PE p belongs to a group. -/
def Entry.inGroup (e : Entry) (p : PeId) (g : GRef) : Bool :=
  e.job == g.job && e.node == g.node && e.key == g.key && e.cid == g.cid && e.locPe == (p.truncate 7 : BitVec 7)

/-- The group an entry belongs to. -/
def Entry.ref (e : Entry) : GRef := ⟨e.job, e.node, e.key, e.cid⟩

/-- Index base of the write-behind queue among deep-match indices. -/
def deepQBase : Nat := 2 ^ 24

namespace Mach

/-- Entries of the write-behind queue with the indices the model gives them. -/
def deepQEnts (t : Tile) : List (Nat × Entry) :=
  (t.deepQ.zipIdx).flatMap (fun (l, q) => (l.zipIdx).map (fun (e, k) => (deepQBase + q * 64 + k, e)))

/-- Entries of a level that PE p's Match sees, with their indices. -/
def level (m : Mach) (p : PeId) : Place → List (Nat × Entry)
  | .iris => (m.pe p).iris
  | .mob => (m.cluster (peCluster p)).mob
  | .deep => let t := m.tile (peTile p); t.deep ++ deepQEnts t

/-- Entries of a group at a level. -/
def ents (m : Mach) (p : PeId) (pl : Place) (g : GRef) : List (Nat × Entry) :=
  (m.level p pl).filter (fun e => e.2.inGroup p g)

/-- The first level at which a group is found; it holds all of it (R54). -/
def findGroup (m : Mach) (p : PeId) (g : GRef) : Option Place :=
  if (m.ents p .iris g) != [] then some .iris
  else if (m.ents p .mob g) != [] then some .mob
  else if (m.ents p .deep g) != [] then some .deep
  else none

/-- The head entry of a group with its index. -/
def headOf (m : Mach) (p : PeId) (pl : Place) (g : GRef) : Option (Nat × Entry) :=
  (m.ents p pl g).find? (fun e => e.2.head)

/-- A functional write of words of the entry at an index of Iris or of a MOB. -/
def putWords (m : Mach) (p : PeId) (pl : Place) (i : Nat) (ws : List Nat) : Mach :=
  match pl with
  | .iris => m.sramPut (peTile p) 0 (p.toNat % 128) (ws.map (4 * i + ·))
  | .mob => m.sramPut (peTile p) 3 ((peCluster p).toNat % 16 * 8) (ws.map (4 * i + ·))
  | .deep => m

/-- The agent of the Match Overflow Buffer of a PE's cluster (Table 10-4). -/
def mobAgent (p : PeId) : Byte := 0x90 + (peCluster p).zeroExtend 8 % 16

/-- Match writes an entry of deep match to HBM, behind the pipeline: a WR of its cluster's MOB. One that its stop has not taken yet carries the entry as it stands when it is taken, and serves for a later write of the entry too (R60, R215). -/
def deepReq (m : Mach) (p : PeId) (i : Nat) (j : JobId) : Mach :=
  m.modTile (peTile p) (fun t => if t.reqs.any (fun x => x.what == .entry i && x.tid.isNone) then t
    else { t with reqs := t.reqs ++ [{ agent := mobAgent p, wr := true, addr := deepAddr (peTile p) i, units := 2, job := j,
                                       what := .entry i, since := m.coreCycle }] })

/-- Store an entry at an index of a level; an entry in a deep-match bucket is written to HBM in the layout of Table 3-1 (R50, R60). -/
def storeEnt (m : Mach) (p : PeId) (pl : Place) (i : Nat) (e : Entry) : Mach :=
  match pl with
  | .iris => m.modPe p (fun x => { x with iris := SMap.set x.iris i e })
  | .mob => m.modCluster (peCluster p) (fun c => { c with mob := SMap.set c.mob i e })
  | .deep =>
    if i < deepQBase then
      ((m.modTile (peTile p) (fun t => { t with deep := SMap.set t.deep i e })).hbmWords (deepAddr (peTile p) i) e.words).deepReq p i e.job
    else
      let q := (i - deepQBase) / 64
      let k := (i - deepQBase) % 64
      m.modTile (peTile p) (fun t => { t with deepQ := t.deepQ.modify q (fun l => l.set k e) })

/-- Put an entry at an index of a level: all four of its words are written. -/
def putEnt (m : Mach) (p : PeId) (pl : Place) (i : Nat) (e : Entry) : Mach :=
  (m.storeEnt p pl i e).putWords p pl i [0, 1, 2, 3]

/-- Take an entry out of an index of a level: VALID of its first word goes to 0. -/
def dropEnt (m : Mach) (p : PeId) (pl : Place) (i : Nat) : Mach :=
  match pl with
  | .iris => (m.modPe p (fun x => { x with iris := SMap.erase x.iris i })).putWords p pl i [0]
  | .mob => (m.modCluster (peCluster p) (fun c => { c with mob := SMap.erase c.mob i })).putWords p pl i [0]
  | .deep =>
    if i < deepQBase then
      match SMap.get? (m.tile (peTile p)).deep i with
      | some e => ((m.modTile (peTile p) (fun t => { t with deep := SMap.erase t.deep i })).hbmWords
          (deepAddr (peTile p) i) e.freedWords).deepReq p i e.job
      | none => m
    else
      let q := (i - deepQBase) / 64
      let k := (i - deepQBase) % 64
      m.modTile (peTile p) (fun t => { t with deepQ := t.deepQ.modify q (fun l => l.eraseIdx k) })

/-- What a store to the deep-match region of HBM leaves of the entries it touches: Match reads each as its words now spell it (R60, R235). -/
def deepSync (m : Mach) (a n : Nat) : Mach :=
  if a + n ≤ deepBase ∨ deepBase + 2 ^ 32 ≤ a then m
  else ((halvesOf a n).filter (fun h => deepBase ≤ h ∧ h < deepBase + 2 ^ 32)).foldl (fun m h =>
    let t : TileId := BitVec.ofNat 6 ((h - deepBase) / 2 ^ 26)
    let i := (h - deepBase) % 2 ^ 26 / 32
    let ws := (List.range 4).map (fun k => memWord m.mem (m.alias_ h + 8 * k))
    m.modTile t (fun x => { x with deep := match Entry.ofWords ws with
      | some e => SMap.set x.deep i { e with cid := ((SMap.get? x.deep i).map (·.cid)).getD 0 }
      | none => SMap.erase x.deep i })) m

/-- Change the group fields of a group, which stand in the first word of its head entry. -/
def modHead (m : Mach) (p : PeId) (pl : Place) (g : GRef) (f : Entry → Entry) : Mach :=
  match m.headOf p pl g with
  | some (i, e) => (m.storeEnt p pl i (f e)).putWords p pl i [0]
  | none => m

/-! Counters and horizon registers of the lower levels (R55, R186) -/

/-- Add a group's tag to the horizon registers of its level. -/
def hregAdd (m : Mach) (p : PeId) (pl : Place) (g : GRef) : Mach :=
  let t := m.tagOf g.job g.key
  let tl := plusLa t (m.lookahead g.job p)
  let upd := fun (h : HReg) => { h with
    least := minTag (t :: h.least.toList), leastL := minTag (tl :: h.leastL.toList),
    added := if h.rescan = 0 then none else minTag (t :: h.added.toList),
    addedL := if h.rescan = 0 then none else minTag (tl :: h.addedL.toList) }
  match pl with
  | .iris => m
  | .mob => m.modCluster (peCluster p) (fun c => { c with hreg := SMap.modify c.hreg g.job.toNat {} upd })
  | .deep => m.modTile (peTile p) (fun x => { x with hreg := SMap.modify x.hreg g.job.toNat {} upd })

/-- A group was removed from a level: a register equal to its tag keeps its value and a rescan is marked. -/
def hregRemove (m : Mach) (p : PeId) (pl : Place) (g : GRef) : Mach :=
  let t := m.tagOf g.job g.key
  let tl := plusLa t (m.lookahead g.job p)
  let upd := fun (h : HReg) =>
    if h.least = some t ∨ h.leastL = some tl then { h with rescan := Nat.min 2 (h.rescan + 1) } else h
  match pl with
  | .iris => m
  | .mob => m.modCluster (peCluster p) (fun c => { c with hreg := SMap.modify c.hreg g.job.toNat {} upd })
  | .deep => m.modTile (peTile p) (fun x => { x with hreg := SMap.modify x.hreg g.job.toNat {} upd })

/-- A group came to hold a level below Iris: its class counter rises (R55). -/
def ovfInc (m : Mach) (p : PeId) (pl : Place) (g : GRef) : Mach :=
  let (h0, _, ms, _) := g.hash p
  match pl with
  | .iris => m
  | .mob => m.modPe p (fun x => { x with ovf := SMap.modify x.ovf h0 0 (· + 1) })
  | .deep => m.modCluster (peCluster p) (fun c => { c with dovf := SMap.modify c.dovf ms 0 (· + 1) })

/-- A group below Iris was freed: its counters fall (R55). -/
def ovfFreed (m : Mach) (p : PeId) (pl : Place) (g : GRef) : Mach :=
  let (h0, _, ms, _) := g.hash p
  let decO := fun (m : Mach) => m.modPe p (fun x => { x with ovf := SMap.modify x.ovf h0 0 (· - 1) })
  match pl with
  | .iris => m
  | .mob => decO m
  | .deep => decO (m.modCluster (peCluster p) (fun c => { c with dovf := SMap.modify c.dovf ms 0 (· - 1) }))

/-- Free an entry: the group fields pass to the remaining entry of lowest index, and a group left empty leaves its level (R50, R55). -/
def freeEnt (m : Mach) (p : PeId) (pl : Place) (i : Nat) (e : Entry) : Mach :=
  let g := e.ref
  let m := m.dropEnt p pl i
  match leastBy (fun x y => decide (x.1 < y.1)) (m.ents p pl g) with
  | none => (m.ovfFreed p pl g).hregRemove p pl g
  | some (k, n) =>
    if e.head then
      m.putEnt p pl k { n with head := true, arrived := e.arrived, rmask := e.rmask, mode := e.mode,
                               gstate := e.gstate, contest := e.contest }
    else m

/-- Free every entry of a group. -/
def freeGroup (m : Mach) (p : PeId) (pl : Place) (g : GRef) : Mach :=
  let es := m.ents p pl g
  let m := es.reverse.foldl (fun m e => m.dropEnt p pl e.1) m
  if es = [] then m else (m.ovfFreed p pl g).hregRemove p pl g

/-! Rank (R58) -/

/-- The rank of a tag of a job, D and delta as one number (R58). -/
def rank (m : Mach) (j : JobId) (k : Key) : Int :=
  let t := m.tagOf j k
  (Int.ofNat t.time.toNat - Int.ofNat (m.job j).gvt.time.toNat) * 4096 + Int.ofNat t.delta.toNat

/-! Spill (R87) -/

/-- Number of free general descriptors of a PE's pool; positions 0 to 247 are general, 248 + j is reserved for job j. -/
def freeGeneral (x : Pe) : Nat := 248 - (x.pool.filter (fun d => d.1 < 248)).length

/-- Where the head entry of a group lies: its level, then its index there. R58 orders groups of equal rank and job by the lowest entry index, and does not say how indices of two levels compare: every index of Iris comes before every index of the MOB, and those before deep match (the model's choice, log entry 77). -/
def headIndex (m : Mach) (p : PeId) (g : GRef) : Nat :=
  match m.findGroup p g with
  | some pl => (match pl with
      | .iris => 0 | .mob => 2 ^ 32 | .deep => 2 ^ 33) + ((m.headOf p pl g).map (·.1)).getD 0
  | none => 2 ^ 34

/-- The order in which deferred groups are presented: rank, then the lower job, then the lowest entry index (R58, R87). -/
def deferredBefore (m : Mach) (p : PeId) (a b : GRef) : Bool :=
  let ra := m.rank a.job a.key
  let rb := m.rank b.job b.key
  decide (ra < rb) || (ra == rb && (decide (a.job.toNat < b.job.toNat)
    || (a.job == b.job && decide (m.headIndex p a < m.headIndex p b))))

/-- End spill in the cycle in which 32 general descriptors are free; deferred presentations go on in rank order (R87). -/
def spillEnd (m : Mach) (p : PeId) : Mach :=
  let x := m.pe p
  if x.spill && decide (32 ≤ freeGeneral x) then
    let l := sortBy (m.deferredBefore p) x.deferred
    m.setPe p { x with spill := false, deferred := [], gatherQ := x.gatherQ ++ l.map (fun g => ⟨g, .present⟩) }
  else m

/-! Descriptors -/

/-- The pool position of a group's descriptor. -/
def descOf (m : Mach) (p : PeId) (g : GRef) : Option (Nat × Desc) :=
  (m.pe p).pool.find? (fun d => d.2.job == g.job && d.2.node == g.node && d.2.key == g.key && d.2.cid == g.cid)

/-- Take a group's descriptor and any presentation of it out of Ready; a freed descriptor may end spill (R87). -/
def dropDesc (m : Mach) (p : PeId) (g : GRef) : Mach :=
  let pos := (m.descOf p g).map (·.1)
  let m := m.modPe p (fun x => { x with
    pool := x.pool.filter (fun d => !(d.2.job == g.job && d.2.node == g.node && d.2.key == g.key && d.2.cid == g.cid)),
    readyQ := x.readyQ.filter (· != g) })
  match pos with
  | some q => (m.modTile (peTile p) (fun t => { t with
      jreqs := t.jreqs.filter (· != (p, q)), jacc := t.jacc.filter (· != (p, q)) })).spillEnd p
  | none => m

/-- Set the state of a group. -/
def setGState (m : Mach) (p : PeId) (pl : Place) (g : GRef) (s : GState) : Mach :=
  m.modHead p pl g (fun e => { e with gstate := s })

/-- Withdraw a presented group: its descriptor goes and it returns to WAITING (R66); counted. -/
def withdraw (m : Mach) (p : PeId) (pl : Place) (g : GRef) : Mach :=
  ((m.dropDesc p g).setGState p pl g .waiting).countJ 0x4300 g.job 0x08

/-! Rollback requests (R148, R153, R293) -/

/-- The rollback of a node in progress in its PE, by its tag. -/
def rbInProgress (m : Mach) (r : NRef) : Option Key :=
  (m.pe r.pe).sweeps.findSome? (fun s => match s with
    | .rollback g => if g.job = r.job ∧ g.node = r.node then some g.key else none
    | _ => none)

/-- Who requests a rollback: the Match or the Gather of a PE, or no stage (R293). -/
inductive Stage where
  | matching (p : PeId) | gather (p : PeId) | other
deriving DecidableEq, Repr

/-- The word that names a stage beside a held record of ring 1. -/
def Stage.word : Stage → Word
  | .matching p => at64 1 16 ||| p.zeroExtend 64
  | .gather p => at64 2 16 ||| p.zeroExtend 64
  | .other => 0

/-- Request a rollback of a node to a tag: absorbed behind one in progress to an earlier or equal tag, queued in the tile, or written to ring 1 when the queue is full or requests have overflowed. The record of ring 1 carries beside its words the Match or Gather stage that asked, which holds while the record is held. -/
def requestRb (m : Mach) (r : NRef) (k : Key) (anti : Bool) (who : Stage) : Mach :=
  let absorbed := match m.rbInProgress r with
    | some t => keyLe t k
    | none => false
  if absorbed then m
  else
    let t := peTile r.pe
    let q : RbReq := ⟨r.job, mkNode m.number r.pe r.node, k, anti⟩
    let x := m.tile t
    if x.rbOvf = 0 ∧ x.rbq.length < 32 then m.setTile t { x with rbq := x.rbq ++ [q] }
    else
      let tg := m.tagOf r.job k
      let mn := match SMap.get? x.rbOvfMin r.job.toNat with
        | some o => if tg.lt o.1 then (tg, r.pe) else o
        | none => (tg, r.pe)
      let m := m.setTile t { x with rbOvf := x.rbOvf + 1, rbOut := x.rbOut ++ [q],
                                    rbOvfMin := SMap.set x.rbOvfMin r.job.toNat mn }
      m.ringRecord 1
        [at64 r.job.toNat 56 ||| q.node.zeroExtend 64, k.zeroExtend 64, m.wallNow, 0, who.word]

/-! Readiness (R64 to R66) -/

/-- The readiness test of Table 3-3 on the group fields of a head, with a control group ready as armed. -/
def readyTest (h : Entry) (hasToken : Bool) : Bool :=
  if h.kind = 2 then true
  else !h.contest && hasToken &&
    (if h.mode = 0 then (h.arrived &&& h.rmask) == h.rmask else h.arrived != 0)

/-- Whether a group at a level is ready to be presented (R61, R65). -/
def groupReady (m : Mach) (p : PeId) (pl : Place) (g : GRef) : Bool :=
  match m.headOf p pl g with
  | some (_, h) =>
    readyTest h ((m.ents p pl g).any (fun e => e.2.kind == 0))
      && (pl != .deep || (m.tagOf g.job g.key).lt (m.job g.job).sh)
  | none => false

/-- Whether a presentation of a group is already on its way. -/
def presenting (m : Mach) (p : PeId) (g : GRef) : Bool :=
  let x := m.pe p
  x.gatherQ.any (fun q => q.ref == g && q.kind == .present) || g ∈ x.readyQ || g ∈ x.deferred

/-- Evaluate readiness after a change to ARRIVED, CONTEST or GSTATE: a WAITING group that is ready is presented, or deferred in spill; a PRESENTED one that is no longer ready is withdrawn (R64 to R66, R87). -/
def evalReady (m : Mach) (p : PeId) (g : GRef) : Mach :=
  match m.findGroup p g with
  | none => m
  | some pl =>
    match m.headOf p pl g with
    | none => m
    | some (_, h) =>
      match h.gstate with
      | .waiting =>
        if m.groupReady p pl g && !m.presenting p g then
          m.modPe p (fun x =>
            if x.spill then { x with deferred := x.deferred ++ [g] }
            else { x with gatherQ := x.gatherQ ++ [⟨g, .present⟩] })
        else m
      | .presented => if m.groupReady p pl g then m else m.withdraw p pl g
      | _ => m

/-- Heads of the groups of some entries. -/
def heads (l : List (Nat × Entry)) : List (Nat × Entry) := l.filter (fun e => e.2.head)

/-- Every group of a node on its PE. -/
def groupsOf (m : Mach) (r : NRef) : List (Place × Entry) :=
  [Place.iris, .mob, .deep].flatMap (fun pl =>
    ((heads (m.level r.pe pl)).filter (fun e =>
      e.2.job == r.job && e.2.node == r.node && e.2.locPe == (r.pe.truncate 7 : BitVec 7))).map (fun e => (pl, e.2)))

end Mach

end Sys2Proof.Machine
end

