-- ==== Sys2Proof/Machine/Avs.lean ====
section
/-! DEFINITION. Live margin calibration: the voltage of each tile, its windows, droop responses and registers (R418 to R422). -/

namespace Sys2Proof.Machine

/-- V0, VMAX and VMIN of a tile, mV: VMAX lies at least 60 mV above V0 (R421). -/
def v0Mv (t : TileId) : Nat := Config.fusedV0 t.toNat
def vmaxMv (t : TileId) : Nat := v0Mv t + 60 + Config.fusedOver t.toNat
def vminMv (t : TileId) : Nat := v0Mv t - Config.fusedUnder t.toNat

namespace Mach

def avs (m : Mach) (t : TileId) : Avs := SMap.getD m.pw.avs t.toNat {}
def modPw (m : Mach) (f : Power → Power) : Mach := { m with pw := f m.pw }
def modAvs (m : Mach) (t : TileId) (f : Avs → Avs) : Mach :=
  m.modPw (fun x => { x with avs := SMap.set x.avs t.toNat (f (m.avs t)) })

/-- VT of a tile, mV. -/
def vtMv (m : Mach) (t : TileId) : Nat := vmaxMv t - (m.avs t).drop

/-- Droop responses of a tile counted in this hub cycle (R11). -/
def stretchNow (m : Mach) (t : TileId) : Nat := (m.setsOf (.stretch t.toNat)).toNat

/-- AVS_STAT of a tile as a read returns it: STRETCHES, saturating at 65,535, as it stood before a droop response of the same cycle (R11, Table 19-6). -/
def avsStat (m : Mach) (t : TileId) : Word :=
  let a := m.avs t
  at64 (b2n a.worn) 63 ||| at64 (Nat.min 65535 (a.stretches - m.stretchNow t)) 32 ||| at64 a.slack.toNat 24
    ||| at64 (v0Mv t % 4096) 12 ||| at64 (m.vtMv t % 4096) 0

/-- AVS_LIMIT of a tile. -/
def avsLimit (t : TileId) : Word := at64 (vmaxMv t % 4096) 12 ||| at64 (vminMv t % 4096) 0

/-- A read of AVS_STAT clears STRETCHES but for the droop responses of the same cycle (R11). -/
def avsRead (m : Mach) (t : TileId) : Mach := m.modAvs t (fun a => { a with stretches := m.stretchNow t })

/-- The droop response of a tile: VT rises by 10 mV and it is counted; that its Fire stages issue nothing for 16 cycles is timing (R420). -/
def droop (m : Mach) (t : TileId) : Mach :=
  let m := { m with setNow := SMap.set m.setNow (EvField.stretch t.toNat).key (BitVec.ofNat 64 (m.stretchNow t + 1)) }
  m.modAvs t (fun a => { a with drop := a.drop - 10, stretches := a.stretches + 1 })

/-- RESET_HELD_MS: the present hold, or the last. -/
def resetHeldMs (m : Mach) : Nat :=
  if m.pw.held then (m.quanta - m.pw.heldSince) / 39000000 % 2 ^ 32 else m.pw.heldMs
/-- TJ_MAX_C as a word. -/
def tjWord (m : Mach) : Word := BitVec.ofInt 64 m.pw.tj

/-- A tile is out of margin: WORN, logged, and the power controller sheds one clock step until the next boot (R421). -/
def wear (m : Mach) (t : TileId) : Mach :=
  if (m.avs t).worn then m
  else
    ((m.modAvs t (fun a => { a with worn := true })).modPw (fun x => { x with wornSteps := x.wornSteps + 1 })).logErr
      3 0x13 0 none 0 (BitVec.ofNat 64 m.pw.vinMv) (BitVec.ofNat 64 m.pw.vinMa) m.tjWord (BitVec.ofNat 64 m.resetHeldMs)

/-- The end of a window of 1 µs with its slack: VT rises by 5 mV below 3 taps, and falls by 5 mV after 100 windows above 8; a second at VMAX below 3 taps wears the tile (R419, R421). -/
def avsWindow (m : Mach) (t : TileId) (slack : BitVec 6) : Mach :=
  let a := m.avs t
  let m := m.modAvs t (fun a => { a with slack := slack })
  if slack.toNat < 3 then
    let low := if a.drop = 0 then a.low + 1 else 0
    let m := m.modAvs t (fun a => { a with drop := a.drop - 5, high := 0, low := low })
    if low = 1000000 then m.wear t else m
  else if 8 < slack.toNat then
    if a.high + 1 < 100 then m.modAvs t (fun a => { a with high := a.high + 1, low := 0 })
    else
      m.modAvs t (fun a => { a with
        drop := Nat.min (a.drop + 5) (vmaxMv t - vminMv t), high := 0, low := 0 })
  else m.modAvs t (fun a => { a with high := 0, low := 0 })

/-- Start-up calibration: each tile of a list starts at VMAX and ends with a slack of 3 to 8 taps; how far VT falls is the tile's own (R421). -/
def calibrate (m : Mach) (l : List TileId) : Mach :=
  l.foldl (fun m t =>
    let n := Config.calSteps m.free
    let k := Config.calSteps (m.free + 1)
    ({ m with free := m.free + 2 }).modAvs t (fun _ => {
      drop := Nat.min (5 * n) (vmaxMv t - vminMv t), slack := BitVec.ofNat 6 (3 + k % 6) })) (m.modPw (fun x => { x with avs := [] }))

end Mach

end Sys2Proof.Machine
end

