-- ==== Sys2Proof/Machine/Packets.lean ====
section
/-! DEFINITION. Packets of Larkspur: header fields, commands, queues and credits (Tables 10-1 to 10-4, R219), and the release of in-transit slots (R23). -/

namespace Sys2Proof.Machine

/-- The header fields a sender writes (Table 10-2). -/
structure Hdr where
  age : BitVec 3 := 0
  vc : BitVec 2
  len : BitVec 4
  cmd : BitVec 6
  jv : Bool := false
  job : JobId := 0
  src : BitVec 16
  tid : BitVec 12 := 0
  xst : BitVec 4 := 0
  smask : BitVec 18 := 0
  mc : Bool := false
  dir : Bool := false
  pair : BitVec 3 := 0
  detour : Bool := false
  dstStop : BitVec 5
  dstDie : BitVec 2
  dstHub : Bool := false
  arg : BitVec 38 := 0
deriving DecidableEq, Repr

/-- The header unit of the fields (Table 10-2). -/
def Hdr.pack (h : Hdr) : BitVec 128 :=
  (0 : BitVec 3) ++ h.age ++ h.vc ++ h.len ++ h.cmd ++ BitVec.ofBool h.jv ++ h.job ++ h.src ++ h.tid ++ h.xst
    ++ (0 : BitVec 4) ++ h.smask ++ BitVec.ofBool h.mc ++ BitVec.ofBool h.dir ++ h.pair ++ BitVec.ofBool h.detour
    ++ h.dstStop ++ h.dstDie ++ BitVec.ofBool h.dstHub ++ h.arg

/-- The fields of a header unit. -/
def Hdr.ofBits (v : BitVec 128) : Hdr :=
  { age := v.extractLsb' 122 3, vc := v.extractLsb' 120 2, len := v.extractLsb' 116 4, cmd := v.extractLsb' 110 6,
    jv := v.getLsbD 109, job := v.extractLsb' 106 3, src := v.extractLsb' 90 16, tid := v.extractLsb' 78 12,
    xst := v.extractLsb' 74 4, smask := v.extractLsb' 52 18, mc := v.getLsbD 51, dir := v.getLsbD 50,
    pair := v.extractLsb' 47 3, detour := v.getLsbD 46, dstStop := v.extractLsb' 41 5, dstDie := v.extractLsb' 39 2,
    dstHub := v.getLsbD 38, arg := v.truncate 38 }

/-- The header of a packet. -/
def Packet.h (p : Packet) : Hdr := Hdr.ofBits p.hdr
/-- Units of a packet: header and data (R214). -/
def Packet.units (p : Packet) : Nat := 1 + p.data.length
/-- A packet with its header changed. -/
def Packet.setH (p : Packet) (f : Hdr → Hdr) : Packet := { p with hdr := (f p.h).pack }

/-- The token two data units carry (R215). -/
def unitsToken (u0 u1 : BitVec 128) : Token :=
  { w0 := u0.truncate 64, w1 := u0.extractLsb' 64 64, w2 := u1.truncate 64, w3 := u1.extractLsb' 64 64 }
/-- The two data units of a token. -/
def Token.units (t : Token) : List (BitVec 128) := [t.w1 ++ t.w0, t.w3 ++ t.w2]

/-! Queue numbers: each queue of the networks has one number (R219, R225, R227). -/

/-- Injection queue of a stop and VC. -/
def qInj (die : BitVec 2) (stop : BitVec 5) (vc : BitVec 2) : Nat := 0x10000 + die.toNat * 0x1000 + stop.toNat * 0x40 + vc.toNat
/-- Ejection queue of a stop and VC. -/
def qEj (die : BitVec 2) (stop : BitVec 5) (vc : BitVec 2) : Nat := 0x20000 + die.toNat * 0x1000 + stop.toNat * 0x40 + vc.toNat
/-- Input queue of a stop on a ring (pair * 2 + direction) and VC. -/
def qThr (die : BitVec 2) (stop : BitVec 5) (ring : Nat) (vc : BitVec 2) : Nat :=
  0x30000 + die.toNat * 0x1000 + stop.toNat * 0x40 + ring * 4 + vc.toNat
/-- Queue of a Foxglove link in one direction; back is toward the first stop of Table 10-9. -/
def qFgl (die : BitVec 2) (link : Nat) (back : Bool) (vc : BitVec 2) : Nat :=
  0x40000 + die.toNat * 0x1000 + link * 0x40 + b2n back * 4 + vc.toNat
/-- Queue of a bridge link toward a die. -/
def qToDie (die : BitVec 2) (br : Bool) (vc : BitVec 2) : Nat := 0x60000 + die.toNat * 0x1000 + b2n br * 0x40 + vc.toNat
/-- Packets taken off a ring that wait to enter one again (R228). -/
def qRe (die : BitVec 2) (stop : BitVec 5) (vc : BitVec 2) : Nat := 0x80000 + die.toNat * 0x1000 + stop.toNat * 0x40 + vc.toNat
/-- Packets taken off a bridge link for the hub die's end points. -/
def qHub (die : BitVec 2) (br : Bool) (vc : BitVec 2) : Nat := 0x70000 + die.toNat * 0x1000 + b2n br * 0x40 + vc.toNat

/-- The destination entries of a multicast packet (R217). -/
def mcEntries (p : Packet) : List Word :=
  ((p.data.drop 2).flatMap (fun u => [u.truncate 64, u.extractLsb' 64 64])).filter (·.getLsbD 63)

/-- Whether a packet carries tokens, anti-tokens or control tokens. -/
def isTok (c : BitVec 6) : Bool := decide (1 ≤ c.toNat ∧ c.toNat ≤ 5)
/-- Whether a command is a VC2 request. -/
def isReq (c : BitVec 6) : Bool := decide (0x10 ≤ c.toNat ∧ c.toNat ≤ 0x13)

/-- The token of a packet of one token. -/
def pktToken (p : Packet) : Token := unitsToken (p.data.getD 0 0) (p.data.getD 1 0)

/-- The token a destination entry of a multicast packet stands for. -/
def mcToken (p : Packet) (e : Word) : Token :=
  let t := pktToken p
  { t with w0 := (t.w0 &&& 0xFFFFF80000000000) ||| (e.truncate 43 : BitVec 43).zeroExtend 64 }

/-- The bridge stop a switch bit names: false stop 16, true stop 17. -/
def brStop (br : Bool) : BitVec 5 := if br then 17 else 16

/-- Counter index of a stop (Table 10-12). -/
def stopIdx (die : BitVec 2) (stop : BitVec 5) : Nat := 0x4900 + 0x20 * die.toNat + stop.toNat

/-- Tile of a message to the collector. -/
def PMsg.tile : PMsg → TileId
  | .item t _ => t
  | .cancel t _ _ _ _ => t

/-- Job of a message to the collector. -/
def PMsg.job : PMsg → JobId
  | .item _ i => i.job
  | .cancel _ j _ _ _ => j

/-- A list with its first element that matches replaced. -/
def replaceFirst {α : Type} (p : α → Bool) (y : α) : List α → List α
  | [] => []
  | x :: r => if p x then y :: r else x :: replaceFirst p y r

namespace Mach

/-- The tile stop of a PE. -/
def peStop (p : PeId) : BitVec 5 := (0#1) ++ (p.extractLsb' 7 4 : BitVec 4)

/-- The packets of a queue, oldest first. -/
def queue (m : Mach) (q : Nat) : List QPkt := SMap.getD m.net.queues q []
def setQueue (m : Mach) (q : Nat) (l : List QPkt) : Mach :=
  { m with net := { m.net with queues := if l = [] then SMap.erase m.net.queues q else SMap.set m.net.queues q l } }
/-- Units a queue holds. -/
def queueUnits (m : Mach) (q : Nat) : Nat := ((m.queue q).map (fun x => x.pkt.units)).foldl (· + ·) 0
/-- Put a packet at the end of a queue. -/
def enq (m : Mach) (q : Nat) (p : Packet) (dest : BitVec 5 := 0) : Mach := m.setQueue q (m.queue q ++ [⟨p, m.coreCycle, dest⟩])
/-- Take the head of a queue off. -/
def deq (m : Mach) (q : Nat) : Mach := m.setQueue q ((m.queue q).drop 1)
/-- Whether a queue has room for some units: 32, which R219 gives for ring inputs and R227 for links; the injection and ejection queues, to which the spec gives no size, hold as much (the model's choice, log entry 86). -/
def room (m : Mach) (q n : Nat) : Bool := decide (m.queueUnits q + n ≤ 32)

/-- A stop. -/
def stop (m : Mach) (die : BitVec 2) (s : BitVec 5) : Stop := SMap.getD m.net.stops (die.toNat * 32 + s.toNat) {}
def modStop (m : Mach) (die : BitVec 2) (s : BitVec 5) (f : Stop → Stop) : Mach :=
  { m with net := { m.net with stops := SMap.set m.net.stops (die.toNat * 32 + s.toNat) (f (m.stop die s)) } }

/-- The bridge stop nearer to a stop on its ring, ties to stop 16 (R225). -/
def nearBridge (s : BitVec 5) : Bool := decide (5 ≤ s.toNat ∧ s.toNat ≤ 11) || s == 17

/-- The bridge the die-to-die switch uses for a stop of a die (R225): true names stop 17. -/
def switchFor (m : Mach) (die : BitVec 2) (s : BitVec 5) : Bool :=
  SMap.getD m.net.switch (die.toNat * 32 + s.toNat) (nearBridge s)

/-- A write of the switch's entry for a stop of a die: BR in bit 0, as in entry 18 of a stop's routing table (R225). -/
def writeSwitch (m : Mach) (die : BitVec 2) (s : BitVec 5) (v : Word) : Mach :=
  { m with net := { m.net with switch := SMap.set m.net.switch (die.toNat * 32 + s.toNat) (v.getLsbD 0) } }

/-- The bridge stop packets leaving a die from a stop use: BR of entry 18 of its routing table (R225). -/
def leaveBridge (m : Mach) (die : BitVec 2) (s : BitVec 5) : Bool :=
  match SMap.get? (m.stop die s).rt 18 with
  | some w => w.getLsbD 0
  | none => nearBridge s

/-- SRC of an agent of a tile or bridge stop (Table 10-4). -/
def srcOf (die : BitVec 2) (s : BitVec 5) (agent : Byte) : BitVec 16 := (0#1) ++ die ++ s ++ agent

/-- Whether SRC names an initiator on the hub die. -/
def srcHub (src : BitVec 16) : Bool := src.getLsbD 15

/-- Release an in-transit slot at the tile or hub that charges it (R23). -/
def freeSlot (m : Mach) (src : BitVec 16) (slot : BitVec 14) : Mach :=
  if srcHub src then
    { m with hubTerms := SMap.erase m.hubTerms slot.toNat }
  else
    let t : TileId := src.extractLsb' 13 2 ++ (src.extractLsb' 8 4 : BitVec 4)
    m.modTile t (fun x => { x with transit := SMap.erase x.transit slot.toNat })

/-- A response or release header toward an initiator (R215). -/
def replyHdr (src dest : BitVec 16) (vc : BitVec 2) (cmd : BitVec 6) (len : BitVec 4) : Hdr :=
  { vc := vc, len := len, cmd := cmd, src := src, dstHub := srcHub dest,
    dstDie := if srcHub dest then src.extractLsb' 13 2 else dest.extractLsb' 13 2,
    dstStop := if srcHub dest then 16 else dest.extractLsb' 8 5 }

/-- Send SLOT_REL from a stop to the initiator that charges a slot, paired with the last queued release for the same initiator where it has room (R215); the same tile's slot is released at once. Where the injection queue has no room, or the stop takes nothing more from its tile, the release waits. -/
def releaseSlot (m : Mach) (die : BitVec 2) (s : BitVec 5) (src : BitVec 16) (slot : BitVec 14) (absorbed : Bool) : Mach :=
  if !srcHub src && src.extractLsb' 8 7 == die ++ s then m.freeSlot src slot
  else
    let q := qInj die s 1
    let me := srcOf die s 0x81
    let h0 := replyHdr me src 1 0x06 0
    let h := if h0.dstHub then { h0 with dstStop := brStop (m.leaveBridge die s) } else h0
    let l := m.queue q
    let pairs := fun (x : QPkt) =>
      let xh := x.pkt.h
      xh.cmd == 0x06 && xh.src == me && !xh.arg.getLsbD 28 && xh.dstHub == h.dstHub && xh.dstDie == h.dstDie
        && xh.dstStop == h.dstStop && x.pkt.data == []
    if !absorbed && (m.stop die s).fence != 0 then m.modStop die s (fun x => { x with rels := x.rels ++ [(src, slot, false)] })
    else
      match l.getLast?.filter pairs with
      | some x =>
        m.setQueue q (l.dropLast ++ [{ x with pkt := x.pkt.setH (fun h =>
          { h with arg := (h.arg ||| ((slot.zeroExtend 38) <<< 14) ||| (1#38 <<< 28)) }) }])
      | none =>
        if m.room q 1 then m.enq q ⟨({ h with arg := slot.zeroExtend 38 } : Hdr).pack, []⟩
        else m.modStop die s (fun x => { x with rels := x.rels ++ [(src, slot, absorbed)] })

/-- The releases that wait at a stop are offered again. -/
def offerReleases (m : Mach) (die : BitVec 2) (s : BitVec 5) : Mach :=
  (m.stop die s).rels.foldl (fun m x => m.releaseSlot die s x.1 x.2.1 x.2.2) (m.modStop die s (fun x => { x with rels := [] }))

/-- Release the slot an arrival holds, from the tile of a PE. -/
def releaseItem (m : Mach) (p : PeId) (i : Item) : Mach :=
  m.releaseSlot (peDie p) ((0#1) ++ (p.extractLsb' 7 4 : BitVec 4)) i.src i.slot false

/-- A packet from the hub into a die, by the bridge the die-to-die switch names. What the hub sends waits in the hub's own store, to which the spec gives no size, until the bridge stop has room (the model's choice, log entry 86). -/
def intoDie (m : Mach) (p : Packet) : Mach :=
  let h := p.h
  m.enq (qToDie h.dstDie (m.switchFor h.dstDie h.dstStop) h.vc) p

/-- A response from a hub end point into a die. -/
def hubRespond (m : Mach) (me : BitVec 16) (h : Hdr) (cmd : BitVec 6) (xst : BitVec 4) (data : List (BitVec 128)) : Mach :=
  m.intoDie ⟨({ replyHdr me h.src 3 cmd (BitVec.ofNat 4 data.length) with
    tid := h.tid, xst := xst, jv := h.jv, job := h.job } : Hdr).pack, data⟩

/-! Messages to the probe collector (R334, R335) -/

/-- The die and the stop of a tile. -/
def tileDie (t : TileId) : BitVec 2 := t.extractLsb' 4 2
def tileStop (t : TileId) : BitVec 5 := (t.truncate 4 : BitVec 4).zeroExtend 5

/-- The packet of a message: a WR of tile control for the hub. The spec lays out no message in its data: the packet carries two units of zeros, and the transaction number names the message (log entry 19). -/
def probePkt (m : Mach) (t : TileId) (tid : BitVec 12) (j : JobId) : Packet :=
  ⟨({ vc := 2, len := 2, cmd := 0x11, jv := true, job := j, src := srcOf (tileDie t) (tileStop t) 0x81, tid := tid, dstHub := true,
      dstDie := tileDie t, dstStop := brStop (m.leaveBridge (tileDie t) (tileStop t)) } : Hdr).pack, [0, 0]⟩

/-- Whether a message or a request of a tile has a transaction number. -/
def tidUsed (m : Mach) (t : TileId) (k : BitVec 12) : Bool :=
  m.pmsgs.any (fun x => x.msg.tile == t && x.tid == some k) || (m.tile t).reqs.any (fun x => x.tid == some k)

/-- The lowest transaction number no message and no request of a tile has. -/
def freeTid (m : Mach) (t : TileId) : Option (BitVec 12) :=
  ((List.range 4096).find? (fun k => !m.tidUsed t (BitVec.ofNat 12 k))).map (BitVec.ofNat 12)

/-- A stop takes the messages of its tile, oldest first, while it takes packets and its injection queue has room. -/
def offerProbes (m : Mach) (die : BitVec 2) (s : BitVec 5) : Mach :=
  let t : TileId := die ++ (s.truncate 4 : BitVec 4)
  if 16 ≤ s.toNat ∨ (m.stop die s).fence ≠ 0 then m
  else
    (m.pmsgs.filter (fun x => x.msg.tile == t && x.tid.isNone)).foldl (fun m x =>
      match m.freeTid t with
      | none => m
      | some k =>
        if m.room (qInj die s 2) 3 then
          { m.enq (qInj die s 2) (m.probePkt t k x.msg.job) with pmsgs := replaceFirst (· == x) { x with tid := some k } m.pmsgs }
        else m) m

/-- A response, or its absence, ends a message of a tile stop. -/
def endProbe (m : Mach) (die : BitVec 2) (s : BitVec 5) (tid : BitVec 12) : Mach :=
  { m with pmsgs := m.pmsgs.filter (fun x => !(tileDie x.msg.tile == die && tileStop x.msg.tile == s && x.tid == some tid)) }

/-! Requests of a tile's agents to HBM (R18, R215, R235, R446) -/

/-- BLOCK of an error of a stop: 0x04 for a tile stop, 0x05 for a bridge stop (Table 21-5). -/
def stopBlock (s : BitVec 5) : Nat := if s.toNat < 16 then 0x04 else 0x05
/-- LOC of an error of a stop: the die in [33:32], and the stop in [28:24] or which bridge stop in [24] (Table 21-5). -/
def stopLoc (die : BitVec 2) (s : BitVec 5) : Nat := die.toNat * 2 ^ 32 + s.toNat % 16 * 2 ^ 24

/-- Whether a tile's requests can reach the hub: its stop is neither isolated nor DEAD, and no more is the bridge stop its packets leave by (R18, R231). -/
def hubPath (m : Mach) (t : TileId) : Bool :=
  let d := tileDie t
  let x := m.stop d (tileStop t)
  !x.cfg.getLsbD 0 && x.fence.toNat < 2 && !(m.stop d (brStop (m.leaveBridge d (tileStop t)))).cfg.getLsbD 0

/-- The packet of a request of a tile's agent, with its data units. -/
def reqPkt (m : Mach) (t : TileId) (tid : BitVec 12) (x : TReq) (data : List (BitVec 128)) : Packet :=
  ⟨({ vc := 2, len := BitVec.ofNat 4 data.length, cmd := if x.wr then 0x11 else 0x10, jv := true, job := x.job,
      src := srcOf (tileDie t) (tileStop t) x.agent, tid := tid, xst := if x.wr then 0 else BitVec.ofNat 4 x.units,
      dstHub := true, dstDie := tileDie t, dstStop := brStop (m.leaveBridge (tileDie t) (tileStop t)),
      arg := BitVec.ofNat 38 x.addr } : Hdr).pack, data⟩

/-- The request of a tile with a transaction number. -/
def reqOf (m : Mach) (t : TileId) (tid : BitVec 12) : Option TReq := (m.tile t).reqs.find? (fun x => x.tid == some tid)

/-- A request of a tile has its response, or waits for it no more. -/
def endReq (m : Mach) (t : TileId) (tid : BitVec 12) : Mach :=
  m.modTile t (fun x => { x with reqs := x.reqs.filter (fun r => r.tid != some tid) })

/-- A free in-transit slot of a tile (R23). -/
def freeTransit (m : Mach) (t : TileId) : Option (BitVec 14) :=
  (SMap.freeKey (m.tile t).transit ((m.tile t).transit.length + 1) 0).bind
    (fun k => if k < 16384 then some (BitVec.ofNat 14 k) else none)

end Mach

end Sys2Proof.Machine
end

