-- ==== Sys2Proof/Machine/Writes.lean ====
section
/-! DEFINITION. The writes of Emit: probe items, held values, state words, stores, journal entries and control commands (R79, R93, R150, R151, R154, R166, R168, R332, R333). -/

namespace Sys2Proof.Machine

/-- The distinct targets of emission records. -/
def eTargets (l : List ERec) : List Tag :=
  l.foldl (fun acc r => if r.target ∈ acc then acc else acc ++ [r.target]) []


namespace Mach

/-! Journaled stores (Table 8-2, R151) -/

/-- State words a node may write, ascending (Table 8-2). -/
def swWords (sw : BitVec 4) : List Nat := (List.range 4).filter (fun i => sw.getLsbD i)

/-- The store descriptor of a store record. -/
def storeDesc (s : SRec) : BitVec 32 := (1#1) ++ s.w ++ BitVec.ofNat 29 s.off

/-- Bytes of a width code (R107). -/
def wBytes (w : BitVec 2) : Nat := 2 ^ w.toNat

/-- The journaled stores a head and its tail hold: offset, width and data (Table 8-2). -/
def jStores (h t : JEntry) : List SRec :=
  let d0 : BitVec 32 := h.undo1.truncate 32
  let d1 : BitVec 32 := h.undo1.extractLsb' 32 32
  (if d0.getLsbD 31 then [⟨bits d0 28 0, d0.extractLsb' 29 2, t.undo0⟩] else [])
    ++ (if d1.getLsbD 31 then [⟨bits d1 28 0, d1.extractLsb' 29 2, t.undo1⟩] else [])

/-- Replace the bytes of a store's data that another store of the same node overlaps (R151). -/
def mergeData (s : SRec) (data : Word) (o : SRec) : Word :=
  (List.range (wBytes o.w)).foldl (fun d i =>
    let a := o.off + i
    if s.off ≤ a ∧ a < s.off + wBytes s.w then
      let sh := 8 * (a - s.off)
      (d &&& ~~~(at64 0xFF sh)) ||| at64 (bits o.data (8 * i + 7) (8 * i)) sh
    else d) data

/-- Whether two stores overlap. -/
def storesMeet (x y : SRec) : Bool := decide (x.off < y.off + wBytes y.w ∧ y.off < x.off + wBytes x.w)

/-- The journaled stores of a node that a store overlaps: index of the tail, which of its two stores, and that store (R151). -/
def journaledUnder (m : Mach) (r : NRef) (o : SRec) : List (Nat × Nat × SRec) :=
  let l := (m.tile (peTile r.pe)).journal.filter (fun e => e.2.job == r.job && e.2.node == node24 r.pe r.node)
  (l.filter (fun e => e.2.tail)).flatMap (fun (i, e) =>
    match l.find? (fun h => !h.2.tail && h.2.key == e.key) with
    | some (_, h) =>
      [(0, (h.undo1.truncate 32 : BitVec 32), e.undo0), (1, h.undo1.extractLsb' 32 32, e.undo1)].filterMap (fun (k, d, v) =>
        let s : SRec := ⟨bits d 28 0, d.extractLsb' 29 2, v⟩
        if d.getLsbD 31 && storesMeet s o then some (i, k, s) else none)
    | none => [])

/-- Merge a safe store into every uncommitted journaled store of the node that it overlaps (R151): the word of the slice that holds its data is written again (R237, R256). -/
def mergeJournaled (m : Mach) (r : NRef) (o : SRec) : Mach :=
  let t := peTile r.pe
  (m.journaledUnder r o).foldl (fun m (i, k, s) =>
    (m.modTile t (fun x => { x with journal := x.journal.map (fun (n, e) =>
      if n ≠ i then (n, e)
      else if k = 0 then (n, { e with undo0 := mergeData s e.undo0 o })
      else (n, { e with undo1 := mergeData s e.undo1 o })) })).sramPut t 4 0 [4 * i + 2 + k]) m

/-! Probe items (R332, R333) -/

/-- Send a message to the collector: its packet leaves when the tile's stop takes it. -/
def probeSend (m : Mach) (x : PMsg) : Mach := { m with pmsgs := m.pmsgs ++ [{ msg := x, since := m.coreCycle }] }

/-- Form an item for every filter entry of a node, kind and port or word (R333). -/
def formItems (m : Mach) (r : NRef) (kind : BitVec 2) (sel : Nat) (ctag tag : Tag) (gen : Byte) (ord : Nat)
    (fs : Bool) (a b : Word) : Mach :=
  let t := peTile r.pe
  let node := mkNode m.number r.pe r.node
  ((m.tile t).filter.filter (fun f => f.job == r.job && f.node == node && f.kind == kind && f.sel.toNat == sel)).foldl
    (fun m f => m.probeSend (.item t
      { job := r.job, node := node, kind := kind, sel := f.sel, stream := f.stream, trig := f.trig, probeId := f.probeId,
        ctag := ctag, gen := gen, time := tag.short, delta := tag.delta, fs := fs, a := a, b := b, ord := ord })) m

/-! Writes of Emit (R93, R154) -/

/-- Write the held value of a port, with its item of kind 1. -/
def emitHeld (m : Mach) (r : NRef) (k : Nat) (fs : Bool) (a b : Word) (tag : Tag) (gen : Byte) : Mach :=
  let old := m.held r k
  let m := m.setHeld r k a b
  if old = (a, b) then m else m.formItems r 1 k tag tag gen 0 fs a b

/-- Write a state word, with its item of kind 2. -/
def emitState (m : Mach) (r : NRef) (w : Nat) (v : Word) (tag : Tag) (gen : Byte) : Mach :=
  let old := m.recW r (4 + w)
  let m := m.setRecW r (4 + w) v
  if old = v then m else m.formItems r 2 w tag tag gen 0 false v 0

/-- Write the held values of arrived ports, and for a safe firing or update their settled values and the settled firing tag. -/
def emitArrived (m : Mach) (r : NRef) (e : EmitJob) : Mach :=
  let m := e.arrived.foldl (fun m v =>
    let m := m.emitHeld r v.port.toNat v.fs v.a v.b e.tag e.gen
    if e.safe then m.settle r v.port.toNat v.a v.b e.tag else m) m
  if e.safe then m.setSft r e.tag else m

/-- Write a store of a safe firing to the node's segment (R151). -/
def storeToMem (m : Mach) (r : NRef) (s : SRec) : Mach :=
  m.hbmWrite (m.alias_ ((m.job r.job).dmem.base + m.nDmBase r + s.off)) (natBytes (wBytes s.w) s.data.toNat)

/-- Summary slot of a target: the ports named at it and its EOFF code (R165, R168). -/
def summarySlot (l : List ERec) (t : Tag) : Byte × BitVec 23 :=
  let at_ := l.filter (fun r => r.target == t)
  (at_.foldl (fun a r => a ||| r.mask) 0, ((at_.head?.bind (·.eoff)).getD 0))

/-- Write the journal entries of a speculative firing or update (Table 8-2). -/
def writeJournal (m : Mach) (r : NRef) (e : EmitJob) : Mach :=
  let t := peTile r.pe
  let upd := e.kind == .update
  let und := if upd then [] else (swWords (m.nSwmask r)).map (fun w => m.recW r (4 + w))
  let mem := m.nMode r == 3
  let tgts := eTargets e.emits
  let slot := fun k => match tgts[k]? with
    | some tg => summarySlot e.emits tg
    | none => (0, 0)
  let sd := fun k => match e.stores[k]? with
    | some s => storeDesc s
    | none => 0
  let data := fun k => match e.stores[k]? with
    | some s => s.data
    | none => 0
  let two := e.jents.length == 2
  let head := fun (j : JEntry) => { j with
    emask := (slot 0).1, eoff := (slot 0).2, written := !upd, undo0 := und.getD 0 0,
    undo1 := if mem && two then sd 1 ++ sd 0 else und.getD 1 0 }
  let tail := fun (j : JEntry) => { j with
    emask := (slot 1).1, eoff := (slot 1).2, written := !upd,
    undo0 := if mem then data 0 else und.getD 2 0, undo1 := if mem then data 1 else und.getD 3 0 }
  (m.modTile t (fun x => { x with journal := x.journal.map (fun (i, j) =>
    if i ∈ e.jents then (i, if j.tail then tail j else head j) else (i, j)) })).sramPut t 4 0
    (e.jents.flatMap (fun i => [4 * i + 1, 4 * i + 2, 4 * i + 3]))

/-- Count a control command as executed, and record its tag as the node's last and settled firing tag (R154). -/
def commandDone (m : Mach) (r : NRef) (tag : Tag) : Mach :=
  ((m.setSft r tag).setLast r tag).countJ 0x4400 r.job 0x04

/-- The effect of a control command that needs no context (Table 4-4). -/
def command (m : Mach) (r : NRef) (e : EmitJob) (t : Token) : Mach :=
  match t.port.toNat with
  | 1 =>
    let k := bits t.gen 2 0
    ((m.emitHeld r k true t.w2 t.w3 e.tag e.gen).settle r k t.w2 t.w3 e.tag).commandDone r e.tag
  | 2 =>
    let w := bits t.gen 1 0
    let v := (m.recW r (4 + w) &&& ~~~t.w3) ||| (t.w2 &&& t.w3)
    (m.emitState r w v e.tag e.gen).commandDone r e.tag
  | _ =>
    let data := memBytes m.mem (m.recAddr r + 32) 32 ++ memBytes m.mem (m.stAddr r) 128
    let rc : ReadCopy := ⟨e.tag, mkNode m.number r.pe r.node, data⟩
    (m.modJob r.job (fun x => { x with reads := x.reads ++ [rc] })).commandDone r e.tag

/-- Whether the four-state feature bit is accepted (R42). -/
def fourState (m : Mach) : Bool := m.feature 0

/-- Items of kind 0 of a record, and its counts: an emission that narrows a plane B, and one that saturates (R42, R47, R333). -/
def emitRecord (m : Mach) (r : NRef) (e : EmitJob) (x : ERec) (ord : Nat) : Mach :=
  let ports := (List.range 8).filter (fun k => x.mask.getLsbD k)
  let arcs := ports.flatMap (m.arcs r)
  let four := m.fourState
  let m := if x.b != 0 && arcs.any (fun w => !(w.getLsbD 63 && four)) then m.countJ 0x4200 e.job 0x04 else m
  let m := if x.saturated && arcs != [] then m.countJ 0x4200 e.job 0x05 else m
  let fs := four && !x.t2
  ports.foldl (fun m k => m.formItems r 0 k e.tag x.target e.gen ord fs
    (if fs then x.a else x.a &&& ~~~x.b) (if fs then x.b else 0)) m

/-- The writes of R93 a firing, update or command makes once. -/
def emitBegin (m : Mach) (r : NRef) (e : EmitJob) : Mach :=
  match e.kind with
  | .command t => m.command r e t
  | .antis _ => m
  | .update =>
    let m := if e.safe then m else m.writeJournal r e
    (m.emitArrived r e).countJ 0x4400 e.job 0x03
  | _ =>
    let m := if e.safe then m else m.writeJournal r e
    let sw := m.nSwmask r
    let m := e.stw.foldl (fun m (w, v) =>
      if sw.getLsbD w then m.emitState r w v e.tag e.gen else m.countJ 0x4600 e.job 0x07) m
    let m := m.emitArrived r e
    let m := if e.safe then e.stores.foldl (fun m s => (m.storeToMem r s).mergeJournaled r s) m else m
    let m := (e.emits.zipIdx).foldl (fun m (x, i) => m.emitRecord r e x i) m
    if e.kind = .kick then m.commandDone r e.tag else m

end Mach

end Sys2Proof.Machine
end

