-- ==== Sys2Proof/Machine/Journal.lean ====
section
/-! DEFINITION. The Rewind Journal: entries, undo, freeing, fossil collection, the store writer, grants (chapter 8), held values after a rollback (R154), and the job fault (R163). -/

namespace Sys2Proof.Machine

namespace Mach

/-- The freed-entry signal of a slice to the PEs of its tile (R89, R172): no request of any job counts as refused there any more. -/
def freedSignal (m : Mach) (t : TileId) : Mach :=
  { m with pes := m.pes.map (fun (k, x) => if k / 128 = t.toNat then (k, { x with refused := 0 }) else (k, x)) }

/-- Free journal entries of a slice and signal it (R172). -/
def freeEntries (m : Mach) (t : TileId) (l : List Nat) : Mach :=
  if l = [] then m
  else ((m.modTile t (fun x => { x with journal := x.journal.filter (fun e => !(e.1 ∈ l)) })).sramPut t 4 0
    (l.map (4 * ·))).freedSignal t

/-- Journal entries of a node's firing at a key: head first. -/
def jOf (m : Mach) (r : NRef) (k : Key) : List (Nat × JEntry) :=
  let l := (m.tile (peTile r.pe)).journal.filter (fun e =>
    e.2.job == r.job && e.2.node == node24 r.pe r.node && e.2.key == k)
  l.filter (fun e => !e.2.tail) ++ l.filter (fun e => e.2.tail)

/-- Heads of the uncommitted speculative firings of a node at or after a key (R152); entries passed to the store writer are committed. -/
def specHeads (m : Mach) (r : NRef) (k : Key) : List (Nat × JEntry) :=
  (m.tile (peTile r.pe)).journal.filter (fun e =>
    !e.2.tail && !e.2.fossil && e.2.job == r.job && e.2.node == node24 r.pe r.node && keyLe k e.2.key)

/-- Restore W4-W7 from the undo image of a firing's entries (Table 8-2); an update's holds none, and changed no state word (R166). -/
def restoreState (m : Mach) (r : NRef) (es : List (Nat × JEntry)) : Mach :=
  let ws := swWords (m.nSwmask r)
  let img := match es with
    | [(_, h)] => if h.written then [h.undo0, h.undo1] else []
    | [(_, h), (_, t)] =>
      if !h.written then []
      else if m.nMode r = 3 then [h.undo0] else [h.undo0, h.undo1, t.undo0, t.undo1]
    | _ => []
  (ws.zip img).foldl (fun m (w, v) => m.setRecW r (4 + w) v) m

/-- Held values and last firing tag of a node after a rollback to a tag (R154). -/
def rebuildHeld (m : Mach) (r : NRef) (t : Option Tag) : Mach :=
  let fired := (m.groupsOf r).filter (fun x => x.2.gstate == .fired
    && (match t with | some t => (m.tagOf r.job x.2.key).lt t | none => false))
  let toks := fired.flatMap (fun (pl, h) => ((m.ents r.pe pl h.ref).map (·.2)).filter (·.kind == 0))
  let m := (List.range 8).foldl (fun m k =>
    let (sa, sb, st) := m.settled r k
    let c := (toks.filter (fun e => e.port.toNat == k && st.ltRec (m.tagOf r.job e.key))).map
      (fun e => (m.tagOf r.job e.key, e))
    match leastBy (fun x y => y.1.lt x.1) c with
    | some (_, e) => m.setHeld r k e.a e.b
    | none => m.setHeld r k sa sb) m
  let last := fired.foldl (fun l x => laterRec l (m.tagOf r.job x.2.key)) (m.sft r)
  m.setLast r last

/-- The last firing tag of a node after a firing at a tag was abandoned: the later of the settled firing tag and the latest tag of a FIRED group below it (R154). -/
def rebuildLast (m : Mach) (r : NRef) (t : Tag) : Mach :=
  let fired := (m.groupsOf r).filter (fun x => x.2.gstate == .fired && (m.tagOf r.job x.2.key).lt t)
  m.setLast r (fired.foldl (fun l x => laterRec l (m.tagOf r.job x.2.key)) (m.sft r))

/-- Fold a committed speculative group into the node's settled record (R154). -/
def foldGroup (m : Mach) (p : PeId) (pl : Place) (g : GRef) : Mach :=
  let r := g.nref p
  let t := m.tagOf g.job g.key
  let es := ((m.ents p pl g).map (·.2)).filter (·.kind == 0)
  let m := es.foldl (fun m e =>
    let (_, _, st) := m.settled r e.port.toNat
    if st.ltRec t then m.settle r e.port.toNat e.a e.b t else m) m
  m.setSft r (laterRec (m.sft r) t)

/-- Committed FIRED groups of a PE's stores for a job: below its GVT. -/
def firedBelow (m : Mach) (p : PeId) (j : JobId) (g : Tag) : List (Place × Entry) :=
  [Place.iris, .mob].flatMap (fun pl => ((heads (m.level p pl)).filter (fun e =>
    e.2.job == j && e.2.gstate == .fired && e.2.locPe == (p.truncate 7 : BitVec 7)
      && (m.tagOf j e.2.key).lt g)).map (fun e => (pl, e.2)))

/-- PEs that hold nodes of a job. -/
def jobPes (m : Mach) (j : JobId) : List PeId :=
  ((m.job j).ncount.filter (fun e => e.2 != 0)).map (fun e => BitVec.ofNat 13 e.1)

/-- Count absorbed tokens of a job (R39). -/
def absorbCount (m : Mach) (j : JobId) (n : Nat) : Mach := m.countJ 0x4200 j 0x03 n

/-- Absorb every token of a job held in Iris, MOBs and deep match, with its groups' descriptors and presentations (R21, R39). -/
def absorbJob (m : Mach) (j : JobId) : Mach :=
  (m.jobPes j).foldl (fun m p =>
    let m := [Place.iris, .mob, .deep].foldl (fun m pl =>
      let l := (m.level p pl).filter (fun e => e.2.job == j && e.2.locPe == (p.truncate 7 : BitVec 7))
      let m := m.absorbCount j l.length
      ((heads l).map (fun e => e.2.ref)).foldl (fun m g => m.freeGroup p pl g) m) m
    let m := m.modPe p (fun x => { x with
      pool := x.pool.filter (fun d => d.2.job != j),
      readyQ := x.readyQ.filter (·.job != j),
      deferred := x.deferred.filter (·.job != j),
      gatherQ := x.gatherQ.filter (fun q => q.ref.job != j),
      sweeps := x.sweeps.filter (fun s => match s with
        | .commit k _ => k != j
        | .rollback g => g.job != j) })
    let m := m.spillEnd p
    let gone := ((m.tile (peTile p)).jreqs ++ (m.tile (peTile p)).jacc).filter (fun q => q.1 == p && (SMap.get? (m.pe p).pool q.2).isNone)
    m.modTile (peTile p) (fun t => { t with
      jreqs := t.jreqs.filter (fun q => !(q ∈ gone)), jacc := t.jacc.filter (fun q => !(q ∈ gone)),
      rbq := t.rbq.filter (fun q => !(q.job == j && nodePe q.node == p)) })) m

/-- Count firings undone or abandoned, for the job and for the governor's ratio of the tile (R164, R179). -/
def undone (m : Mach) (j : JobId) (t : TileId) (n : Nat) : Mach :=
  if n = 0 then m
  else (m.countJ 0x4500 j 0x03 n).modTile t (fun x => { x with pRb := SMap.modify x.pRb j.toNat 0 (· + n) })

/-- Whether an undo word of an entry of a slice cannot be corrected; it is counted, and one that is not poison is logged; a word with a single-bit error is corrected, counted and written back (Table 11-3). -/
def undoLost (m : Mach) (t : TileId) (e : Nat) : Bool × Mach :=
  let die : BitVec 2 := t.extractLsb' 4 2
  [2, 3].foldl (fun (acc : Bool × Mach) w =>
    let loc := mkLoc 4 (t.toNat % 16) 0 (4 * e + w)
    let k := sramKey die loc
    let f := SMap.getD acc.2.ms.sramFlaw k 0
    match sramCheck f with
    | .corrected => (acc.1, acc.2.sramCorrected die loc)
    | .poison => (true, acc.2.count 0x4A00 0x03)
    | .bad =>
      let (x, c, y) := wordEvidence (match SMap.get? (acc.2.tile t).journal e with
        | some q => if w = 2 then q.undo0 else q.undo1
        | none => 0) f
      (true, (acc.2.count 0x4A00 0x02).logErr 0 0x06 0 none k x c y)
    | _ => acc) (false, m)

/-- Undo one firing of a faulted job from its entries; where an undo image is lost the node is marked and its state words stay (R163). -/
def undoFiring (m : Mach) (r : NRef) (es : List (Nat × JEntry)) : Mach :=
  let (lost, m) := es.foldl (fun (acc : Bool × Mach) e =>
    let (l, m) := acc.2.undoLost (peTile r.pe) e.1
    (acc.1 || l, m)) (false, m)
  if lost then m.modJob r.job (fun b => { b with undoLost := (r.pe, r.node) :: b.undoLost }) else m.restoreState r es

/-- Undo every uncommitted speculative firing of a job, node by node, latest tag first (R163): state words from the undo images, held values and last firing tags from the settled records, entries and journaled stores discarded, pending traps discarded. -/
def undoJob (m : Mach) (j : JobId) : Mach :=
  (List.range 64).foldl (fun m ti =>
    let t : TileId := BitVec.ofNat 6 ti
    let specs := (m.tile t).journal.filter (fun e => e.2.job == j && !e.2.fossil
      && !e.2.tail && !((m.tagOf j e.2.key).lt (m.job j).gvt))
    let late := sortBy (fun (x y : Nat × JEntry) => keyLt y.2.key x.2.key) specs
    let nodes := (late.map (fun e => e.2.node)).eraseDups
    let m := late.foldl (fun m e =>
      let r : NRef := ⟨j, t ++ e.2.node.extractLsb' 17 7, e.2.node.truncate 17⟩
      m.undoFiring r (m.jOf r e.2.key)) m
    let m := nodes.foldl (fun m n => m.rebuildHeld ⟨j, t ++ n.extractLsb' 17 7, n.truncate 17⟩ none) m
    let gone := ((m.tile t).journal.filter (fun e => e.2.job == j && !e.2.fossil
      && !((m.tagOf j e.2.key).lt (m.job j).gvt))).map (·.1)
    let m := ((m.freeEntries t gone).countJ 0x4600 j 0x04 gone.length).undone j t late.length
    m.modTile t (fun x => { x with pend := x.pend.filter (·.job != j) })) m

/-- Abandon the firings of a job in Fire, and complete the writes of those in Emit, in their order; a safe one still forms its tokens, which Route absorbs, and a speculative one leaves Emit to be undone with the others, no anti-token being sent (R163). Safe firings abandoned are counted here, speculative ones as they are undone. -/
def abandonJob (m : Mach) (j : JobId) : Mach :=
  (m.jobPes j).foldl (fun m p =>
    let x := m.pe p
    let m := m.undone j (peTile p) (x.ctxs.filter (fun c => c.2.job == j && c.2.safe)).length
    let m := (x.emitQ.filter (fun q => q.job == j && !q.begun)).foldl (fun m q => m.emitBegin ⟨j, p, q.node⟩ q) m
    m.modPe p (fun x => { x with
      ctxs := x.ctxs.filter (fun c => c.2.job != j),
      emitQ := (x.emitQ.filter (fun q => q.job != j || q.safe)).map (fun q => if q.job = j then { q with begun := true } else q) })) m

/-- The code of a job state (JOB_STATE). -/
def jobCode : JobState → Nat
  | .empty => 0 | .loaded => 1 | .run => 2 | .paused => 3 | .halted => 4 | .timeExhausted => 5 | .faulted => 6

/-- The module state that follows the job states (R405): READY 3, LOADED 4, RUN 5, PAUSED 6. -/
def followState (m : Mach) : BitVec 4 :=
  let st := allJobs.map (fun j => (m.job j).state)
  if st.any (· == .run) then 5 else if st.any (· == .paused) then 6
  else if st.any (· != .empty) then 4 else 3

/-- Enter a module state: HIF_EVT and an event frame report the change (R404, Table 18-7). -/
def setMState (m : Mach) (v : BitVec 4) : Mach :=
  if m.mstate = v then m
  else (({ m with mstate := v }).setEvt 0 1).evFrame [1, v.zeroExtend 8]

/-- Change the state of a job: reported in HIF_EVT of its function and by an event frame, and followed by the module state (R405, R408). -/
def setJobState (m : Mach) (j : JobId) (s : JobState) : Mach :=
  let old := (m.job j).state
  if old = s then m
  else
    let m := m.modJob j (fun x => { x with state := s, stateAt := m.quanta })
    let m := (m.setEvt (m.jobFn j) (at64 (2 ^ j.toNat) 8)).evFrame
      [2, j.zeroExtend 8, BitVec.ofNat 8 (jobCode s)]
    if 3 ≤ m.mstate.toNat ∧ m.mstate.toNat ≤ 6 then m.setMState m.followState else m

/-- Complete the command a ring pair waits for. -/
def completeCmd (m : Mach) (k : Nat) (status result : BitVec 32) : Mach :=
  match SMap.get? m.pairs k with
  | some p =>
    match p.cur with
    | some c => { m with pairs := SMap.set m.pairs k { p with cur := some { c with wait := .done status result } } }
    | none => m
  | none => m

/-- The commands that wait on a job which can no longer run end: a STOP with OK, a RUN with STATE (Table 15-8, R278). -/
def endWaits (m : Mach) (j : JobId) : Mach :=
  let b := m.job j
  let m := m.modJob j (fun x => { x with stopWait := [], stopObj := false, runPair := [], runObj := false, checked := [], asked := [] })
  let m := if b.runObj then { m with objEnd := some 0x00060001 } else m
  b.runPair.foldl (fun m k => m.completeCmd k.toNat 0x00060001 0) (b.stopWait.foldl (fun m k => m.completeCmd k.toNat 0 0) m)

/-- The open packets of a job's streams close once the items released are written (R341). -/
def closeSoon (m : Mach) (j : JobId) : Mach :=
  { m with streams := m.streams.map (fun (k, x) => (k, if x.job = some j then
      { x with closeWait := x.openPkt.isSome || x.front != [] || x.offered != [] } else x)) }

/-- Fault a job (R163, R447): the cause is logged with SEV 2, or SEV 0 where the job is in TIME EXHAUSTED and stays there (R459), which it does unless it entered that state in this hub cycle (R408); the first cause sets FAULT_REASON, and of two in one hub cycle the lower code; dispatch ends, firings in Fire are abandoned, speculative firings are undone, and the job's tokens are absorbed. -/
def faultJob (m : Mach) (j : JobId) (reason block loc : Nat) (d0 d1 d2 d3 : Word := 0) : Mach :=
  let s := (m.job j).state
  if s = .empty then m
  else
    let now := (m.job j).stateAt == m.quanta
    let ended := s == .timeExhausted && !now
    let m := m.logErr (if ended then 0 else 2) block reason (some j) loc d0 d1 d2 d3
    if ended then m
    else if s = .faulted then
      if now && decide (reason < (m.job j).faultReason.toNat) then m.modJob j (fun x => { x with faultReason := BitVec.ofNat 16 reason })
      else m
    else
      let m := m.modJob j (fun x => { x with
        faultReason := BitVec.ofNat 16 reason, pause := none, wavePause := none, stalled := false, pauseRb := false })
      let m := ((m.setJobState j .faulted).closeSoon j).abandonJob j
      let m := (m.jobPes j).foldl (fun m p =>
        (m.firedBelow p j (m.job j).gvt).foldl (fun m (pl, h) => m.foldGroup p pl h.ref) m) m
      ((m.undoJob j).absorbJob j).endWaits j

/-- Fault every job active in a tile (Table 11-4, R444). -/
def faultTileJobs (m : Mach) (t : TileId) (reason block loc : Nat) (e : List Word := []) : Mach :=
  (allJobs.filter (fun j => m.active j t)).foldl
    (fun m j => m.faultJob j reason block loc (e.getD 0 0) (e.getD 1 0) (e.getD 2 0) (e.getD 3 0)) m

/-- The words by which an entry of the log gives a firing whose context or Emit record failed parity: its node, its tag's time and delta; their layout is the model's choice (log entry 44). -/
def firingWords (md : Byte) (p : PeId) (n : BitVec 17) (t : Tag) : List Word :=
  [(mkNode md p n).zeroExtend 64, t.time, t.delta.zeroExtend 64]

/-! Grants (R170 to R172, R178) -/

/-- A parity error in an entry a PE reads (R444): the job named in it faults, or every job active in the tile when its job field cannot be trusted; the entries of the log give the words of the entry that failed (Table 21-5). -/
def parityFault (m : Mach) (p : PeId) (par : Parity) (j : JobId) (e : List Word) : Mach :=
  match par with
  | .good => m
  | .bad => m.faultJob j 0x0206 0x01 p.toNat (e.getD 0 0) (e.getD 1 0) (e.getD 2 0) (e.getD 3 0)
  | .badJob => m.faultTileJobs (peTile p) 0x0206 0x01 p.toNat e

/-- Free entries of a slice. -/
def jFree (m : Mach) (t : TileId) : Nat := 512 - (m.tile t).journal.length
/-- Entries a job holds in a slice. -/
def jHeld (m : Mach) (t : TileId) (j : JobId) : Nat := ((m.tile t).journal.filter (fun e => e.2.job == j)).length
/-- JOURNAL_RESERVE of a job. -/
def reserve (m : Mach) (j : JobId) : Nat := m.jobObj j 0x32 8

/-- Unmet reserves of the other jobs active in a tile (R170). -/
def unmetOthers (m : Mach) (t : TileId) (j : JobId) : Nat :=
  ((allJobs.filter (fun k => k != j && m.active k t)).map (fun k => m.reserve k - m.jHeld t k)).foldl (· + ·) 0

/-- Whether a request of job j for n entries is granted (R170). -/
def grantOk (m : Mach) (t : TileId) (j : JobId) (n : Nat) : Bool :=
  decide (n + m.unmetOthers t j ≤ m.jFree t)

/-- The lowest free entry of a slice. -/
def jFreeIdx (m : Mach) (t : TileId) : Option Nat :=
  (SMap.freeKey (m.tile t).journal 513 0).bind (fun k => if k < 512 then some k else none)

/-- Write granted entries of a firing: VALID, JOB, KEY, GEN, NODE and TAIL (R165). -/
def jGrant (m : Mach) (r : NRef) (k : Key) (gen : Byte) (n : Nat) : Mach × List Nat :=
  let t := peTile r.pe
  (List.range n).foldl (fun (acc : Mach × List Nat) i =>
    match acc.1.jFreeIdx t with
    | some e =>
      let je : JEntry := { job := r.job, key := k, gen := gen, node := node24 r.pe r.node, tail := i != 0,
                           emask := 0, eoff := 0, undo0 := 0, undo1 := 0, written := false, fossil := false }
      ((acc.1.modTile t (fun x => { x with journal := SMap.set x.journal e je,
                                           peak := Nat.max x.peak (x.journal.length + 1),
                                           loadPeak := x.loadPeak.map (fun (k, n) => (k, Nat.max n (x.journal.length + 1))) })).sramPut t 4 0
        [4 * e, 4 * e + 1], acc.2 ++ [e])
    | none => acc) (m, [])

end Mach

end Sys2Proof.Machine
end

