-- ==== Sys2Proof/Machine/Link.lean ====
section
/-! DEFINITION. Units of the Fabric Links: CRC-32, control symbols, and the symbols of pauses (R355, R356, Table 17-3, R372). -/

namespace Sys2Proof.Machine

/-- One bit of the CRC-32 of IEEE 802.3, least significant bit first. -/
def crcBit (c : BitVec 32) (b : Bool) : BitVec 32 :=
  if c.getLsbD 0 != b then (c >>> 1) ^^^ 0xEDB88320 else c >>> 1

/-- One byte of the CRC-32. -/
def crcByte (c : BitVec 32) (b : Byte) : BitVec 32 :=
  (List.range 8).foldl (fun c i => crcBit c (b.getLsbD i)) c

/-- CRC-32 of IEEE 802.3 of some bytes. -/
def crc32 (l : List Byte) : BitVec 32 := ~~~(l.foldl crcByte (BitVec.allOnes 32))

/-- The bytes of units in little-endian order (R8). -/
def unitBytes (l : List (BitVec 128)) : List Byte := l.flatMap (fun u => natBytes 16 u.toNat)

/-- A unit with its last 32 bits taken as 0. -/
def noCrc (u : BitVec 128) : BitVec 128 := u &&& ~~~(0xFFFFFFFF#128)

/-- Units with the CRC in the last 32 bits of the last. -/
def sealLast (l : List (BitVec 128)) : List (BitVec 128) :=
  match l.getLast? with
  | none => []
  | some u =>
    let l0 := l.dropLast ++ [noCrc u]
    l.dropLast ++ [noCrc u ||| (crc32 (unitBytes l0)).zeroExtend 128]

/-- Units with the CRC in the last 32 bits of the first. -/
def sealFirst (l : List (BitVec 128)) : List (BitVec 128) :=
  match l with
  | [] => []
  | u :: r => (noCrc u ||| (crc32 (unitBytes (noCrc u :: r))).zeroExtend 128) :: r

/-- A number at a bit of a unit. -/
def at128 (v lo : Nat) : BitVec 128 := BitVec.ofNat 128 (v * 2 ^ lo)

/-- A control symbol of a code: FC, count and CODE go into the first unit, and the CRC into the last (R356). -/
def symbol (code : Nat) (l : List (BitVec 128)) : List (BitVec 128) :=
  match l with
  | [] => []
  | u :: r => sealLast ((u ||| at128 2 126 ||| at128 r.length 124 ||| at128 code 118) :: r)

/-- A mask of bits hi to lo. -/
def span (hi lo : Nat) : BitVec 128 := BitVec.ofNat 128 ((2 ^ (hi + 1 - lo) - 1) * 2 ^ lo)

/-- The named payload bits of each unit of a control symbol; none for a reserved CODE (Table 17-3). -/
def symFields (code : Nat) : Option (List (BitVec 128)) :=
  match code with
  | 0x01 | 0x02 | 0x15 => some [span 117 106]
  | 0x03 => some [span 111 48]
  | 0x04 => some [span 117 99]
  | 0x05 => some [span 117 105]
  | 0x06 => some [span 117 102 ||| span 95 32, span 127 32]
  | 0x07 => some [0]
  | 0x10 => some [span 117 94]
  | 0x11 => some [span 117 97 ||| span 95 32, span 127 40]
  | 0x12 => some [span 117 96 ||| span 95 32, span 127 40, span 127 52]
  | 0x13 => some [span 117 103 ||| span 95 32]
  | 0x14 => some [span 117 97]
  | 0x16 => some [span 117 102 ||| span 95 32]
  | _ => none

/-- Whether units are a control symbol whose CRC is good, whose CODE is named and whose reserved fields are 0. -/
def symOk (l : List (BitVec 128)) : Bool :=
  match l with
  | [] => false
  | u :: r =>
    bits u 127 126 == 2 && bits u 125 124 == r.length && sealLast l == l &&
    (match symFields (bits u 123 118) with
      | none => false
      | some fs =>
        let crc := span 31 0
        let head := span 127 118
        fs.length == l.length &&
        ((l.zip fs).zip (List.range l.length)).all (fun ((v, f), i) =>
          v &&& ~~~(f ||| (if i = 0 then head else 0) ||| (if i + 1 = l.length then crc else 0)) == 0))

/-- CODE of a control symbol. -/
def symCode (l : List (BitVec 128)) : Nat := bits (l.headD 0) 123 118

/-- Bits hi to lo of unit i. -/
def ubits (l : List (BitVec 128)) (i hi lo : Nat) : Nat := bits (l.getD i 0) hi lo

/-- An HZ_PAUSE symbol (Table 17-3). -/
def hzPauseSym (j : JobId) (p : Tag) : List (BitVec 128) :=
  symbol 0x13 [at128 j.toNat 115 ||| at128 p.delta.toNat 103 ||| at128 p.time.toNat 32]

namespace Mach

/-- Send units on a Fabric port. -/
def linkSend (m : Mach) (f : BitVec 3) (u : List (BitVec 128)) : Mach := m.send (.link f u)

/-- Send a horizon set, kept for repeats until it is acknowledged (R372). -/
def hzSend (m : Mach) (f : BitVec 3) (kind : BitVec 2) (wave : BitVec 16) (j : JobId) (l : List (List (BitVec 128))) : Mach :=
  let w := m.wave
  let keep := w.out.filter (fun o => !(o.port == f && o.kind == kind && (kind != 3 || o.job == j)))
  let m := { m with wave := { w with out := keep ++ [⟨f, kind, wave, j, l⟩] } }
  l.foldl (fun m u => m.linkSend f u) m

/-- A pause tag of a spanning job goes toward the root; the root keeps the earliest for its next wave (R197, R372). -/
def pauseUp (m : Mach) (j : JobId) (p : Tag) : Mach :=
  let w := m.wave
  if w.root = some m.number then
    let q := match SMap.get? w.pauses j.toNat with
      | some q => q.min p
      | none => p
    { m with wave := { w with pauses := SMap.set w.pauses j.toNat q } }
  else
    match w.parent with
    | some f => m.hzSend f 3 w.num j [hzPauseSym j p]
    | none => m

end Mach

end Sys2Proof.Machine
end

