-- ==== Sys2Proof/Machine/Trap.lean ====
section
/-! DEFINITION. Error codes of accesses, pause requests, locks, firing traps and service-core traps (R118, R122, R157, R196 to R200, R310 to R313). -/

namespace Sys2Proof.Machine

/-- Error codes of object accesses and commands (Table 18-2). -/
inductive Err where
  | ok | noObject | noSubindex | access | readOnly | writeOnly | type | length | aboveRange | belowRange | badValue
  | state | locked | busy | hardware | timeout
deriving DecidableEq, Repr

/-- The code of Table 18-2. -/
def Err.code : Err → BitVec 32
  | .ok => 0 | .noObject => 0x00020001 | .noSubindex => 0x00020002 | .access => 0x00030001
  | .readOnly => 0x00030002 | .writeOnly => 0x00030003 | .type => 0x00040001 | .length => 0x00040002
  | .aboveRange => 0x00050001 | .belowRange => 0x00050002 | .badValue => 0x00050003 | .state => 0x00060001
  | .locked => 0x00060002 | .busy => 0x00060003 | .hardware => 0x00070001 | .timeout => 0x00080001

/-- A trap: code of Table 5-10a, reason of FIRING_OVERRUN, trap value (R118, Table 5-10b). -/
structure Trap where
  code : BitVec 8
  reason : BitVec 8 := 0
  value : Word := 0
deriving DecidableEq, Repr

namespace Mach

/-! Pause (R196 to R200, R458) -/

/-- Whether a job spans several modules (R190). -/
def spanning (m : Mach) (j : JobId) : Bool := ((m.job j).moduleMask &&& ~~~(1#256 <<< m.number.toNat)) != 0

/-- Request a pause at a tag (none for T = 0): refused with STATE unless the job is in RUN, with BELOW_RANGE below GVT; P is the later of the tag and the highest SH delivered; a pending pause is replaced only by an earlier P (R196, R199). -/
def pauseAt (m : Mach) (j : JobId) (t : Option Tag) : Err × Mach :=
  let jb := m.job j
  if jb.state ≠ .run then (.state, m)
  else
    match t with
    | some tg => if tg.lt jb.gvt then (.belowRange, m) else go tg
    | none => go jb.gvt
where
  go (tg : Tag) : Err × Mach :=
    let jb := m.job j
    let p := tg.max jb.sh
    match jb.pause with
    | some q => if p.lt q then (.ok, set p) else (.state, m)
    | none => (.ok, set p)
  set (p : Tag) : Mach :=
    let m := m.modJob j (fun x => { x with pause := some p, pausedAt := p, dropPause := none })
    if m.spanning j then m.pauseUp j p else m

/-- A pause requested inside the device: a tag below GVT is taken as T = 0, and a refusal is recorded in the error log (R200). -/
def pauseInside (m : Mach) (j : JobId) (t : Option Tag) (block : Nat) : Mach :=
  let t := match t with
    | some tg => if tg.lt (m.job j).gvt then none else some tg
    | none => none
  match m.pauseAt j t with
  | (.ok, m') => m'
  | (e, _) => m.logErr 0 block 0 (some j) 0 (e.code.zeroExtend 64)

/-- A stalled pause of the stall watchdog: as T = 0, or the pending pause made a stalled one with its P unchanged (R458). -/
def pauseStalled (m : Mach) (j : JobId) : Mach :=
  let m := if (m.job j).pause.isSome then m else m.pauseInside j none 0x02
  m.modJob j (fun x => { x with stalled := x.pause.isSome })

/-! Locks (R310 to R313) -/

def lock (m : Mach) (n : Byte) : Lock := SMap.getD m.locks n.toNat {}
def modLock (m : Mach) (n : Byte) (f : Lock → Lock) : Mach := { m with locks := SMap.set m.locks n.toNat (f (m.lock n)) }

/-- The WAITERS bit of an agent identity (Table 14-7). -/
def waiterBit (id : Nat) : Option Nat :=
  if 1 ≤ id ∧ id ≤ 16 then some (id - 1)
  else if 0x20 ≤ id ∧ id ≤ 0x28 then some (id - 0x10)
  else if id = 0x30 then some 25
  else if id = 0x40 then some 26
  else none

/-- Deliver the wakes of a freed lock to the agents that waited (R312). -/
def wakeWaiters (m : Mach) (n : Byte) (w : BitVec 27) : Mach :=
  (List.range 27).foldl (fun m i =>
    if !w.getLsbD i then m
    else if i < 16 then
      let c : BitVec 4 := BitVec.ofNat 4 i
      let lw := SMap.getD m.lockWake i 0
      if lw.getLsbD 15 then { m with corePosts := m.corePosts ++ [(c, lw.extractLsb' 10 5, lw.truncate 10)] } else m
    else if i < 25 then m.msi (i - 16) 1
    else if i = 25 then m.evFrame [4, n]
    else { m with peerWakes := m.peerWakes ++ [n] }) m

/-- What a lock that goes free leaves of the Fabric peer proxy: no peer module holds it, and those that wait for it are to be woken (R374). -/
def proxyFreed (m : Mach) (n : Byte) : Mach :=
  if (m.lock n).owner ≠ 0x40 then m
  else { m with peerHold := SMap.erase m.peerHold n.toNat,
                peerWakes := if m.peerWait.any (fun e => e.1 == n) then m.peerWakes ++ [n] else m.peerWakes }

/-- Free a lock: every agent that waited is woken and its bit cleared (R311). -/
def freeLock (m : Mach) (n : Byte) : Mach :=
  let w := (m.lock n).waiters
  ((m.proxyFreed n).modLock n (fun l => { l with owner := 0, waiters := 0 })).wakeWaiters n w

/-- The take of a lock by the requesters of one hub cycle: its owner renews; where it is free, the lowest identity becomes its owner; every other requester waits (R311). -/
def takeLock (m : Mach) (n : Byte) (ids : List Nat) : Mach :=
  let l := m.lock n
  let owner := if l.owner = 0 then (ids.foldl (fun (a : Option Nat) i => some (match a with
      | some k => Nat.min k i
      | none => i)) none).getD 0
    else l.owner.toNat
  let lose := (ids.filter (· != owner)).filterMap waiterBit
  m.modLock n (fun l => { l with
    owner := BitVec.ofNat 8 owner, leaseNow := if owner ∈ ids then l.lease else l.leaseNow, age := if owner ∈ ids then 0 else l.age,
    waiters := lose.foldl (fun w b => w ||| (1#27 <<< b)) l.waiters })

/-- The decision of a lock on the requests that reach it in one hub cycle, agent and value, and on the expiry of its lease: frees, takes, wakes, by which the bit of every agent that waited at its start is cleared; a value that is neither 0 nor the writer's identity, and a 0 of another than the owner, is ignored and counted (R310, R311). -/
def lockDecide (m : Mach) (n : Byte) (reqs : List (Nat × Nat)) (expired : Bool) : Mach :=
  let owner := (m.lock n).owner.toNat
  let bad := reqs.filter (fun q => if q.2 = 0 then q.1 != owner else q.2 != q.1)
  let takes := (reqs.filter (fun q => q.2 != 0 && q.2 == q.1)).map (·.1)
  let freed := (expired && !takes.contains owner) || reqs.any (fun q => q.2 == 0 && q.1 == owner)
  let woken : BitVec 27 := if freed then (m.lock n).waiters else 0
  let m := if bad = [] then m else m.count 0x4D00 0x08 bad.length
  let m := if freed then m.freeLock n else m
  if takes = [] then m
  else (m.takeLock n takes).modLock n (fun l => { l with waiters := l.waiters &&& ~~~woken })

/-- A request of one agent to a lock: value 0 releases, its own identity takes or renews, any other value is ignored and counted (R310, R311). -/
def lockReq (m : Mach) (n : Byte) (id v : Nat) : Mach := m.lockDecide n [(id, v)] false

/-- The death of an owner frees each lock it holds, counted (R313). -/
def ownerDeath (m : Mach) (id : Nat) : Mach :=
  ((List.range 256).filter (fun n => (m.lock (BitVec.ofNat 8 n)).owner.toNat = id && decide (id ≠ 0))).foldl
    (fun m n => (m.freeLock (BitVec.ofNat 8 n)).count 0x4D00 0x07) m

/-! Traps -/

/-- The words of a trap record (Table 5-10b). -/
def trapWords (pend : Bool) (j : JobId) (node : NodeId) (tag : Tag) (pc : BitVec 32) (tr : Trap) : List Word :=
  [(0 : BitVec 4) ++ BitVec.ofBool pend ++ j ++ tr.reason ++ tr.code ++ node,
   tag.time, (0 : BitVec 20) ++ pc ++ tag.delta, tr.value]

/-- Raise a firing trap: its record goes to event ring 0 and TRAPS_RAISED rises (R118). -/
def raiseRecord (m : Mach) (j : JobId) (rcd : List Word) : Mach := (m.ringRecord 0 rcd).countJ 0x4400 j 0x0C

/-- Whether a trap record is a USER trap whose code has bit 15 set (R118). -/
def userPause (rcd : List Word) : Bool :=
  bits (rcd.getD 0 0) 47 40 = 0x0C && (rcd.getD 3 0).getLsbD 15

/-- What follows a raised firing trap of a safe firing: a pause at the firing's tag for a USER trap with IMM16[15] = 1, else the job faults (R118). -/
def raiseTrap (m : Mach) (j : JobId) (p : PeId) (tag : Tag) (rcd : List Word) : Mach :=
  let m := m.raiseRecord j rcd
  if userPause rcd then m.pauseInside j (some tag) 0x01
  else m.faultJob j (0x100 + bits (rcd.getD 0 0) 47 40) 0x01 p.toNat
    (rcd.getD 0 0) (rcd.getD 1 0) (rcd.getD 2 0) (rcd.getD 3 0)

/-- Free a context of a PE. -/
def freeCtx (m : Mach) (p : PeId) (c : BitVec 4) : Mach :=
  m.modPe p (fun x => { x with ctxs := SMap.erase x.ctxs c.toNat })

/-- Abandon a speculative firing without a rollback: entries freed, group back to WAITING to be dispatched again (R157, R168). -/
def abandonSpec (m : Mach) (r : NRef) (k : Key) (jents : List Nat) : Mach :=
  let m := ((m.freeEntries (peTile r.pe) jents).countJ 0x4600 r.job 0x04 jents.length).undone r.job (peTile r.pe) 1
  let g : GRef := { job := r.job, node := r.node, key := k }
  match m.findGroup r.pe g with
  | some pl => (((m.setGState r.pe pl g .waiting).hregAdd r.pe pl g).rebuildLast r (m.tagOf r.job k)).evalReady r.pe g
  | none => m

/-- A firing traps: it ends at the trapping instruction; a safe one raises the trap at once, a speculative one takes a pending-trap record, or is abandoned and retried when none of the 64 is free (R46, R118, R157). -/
def firingTrap (m : Mach) (p : PeId) (c : BitVec 4) (x : Ctx) (tr : Trap) : Mach :=
  let node := mkNode m.number p x.node
  let rcd := trapWords (!x.safe) x.job node x.tag x.th.pc tr
  let m := m.freeCtx p c
  if x.safe then m.raiseTrap x.job p x.tag rcd
  else
    let t := peTile p
    if (m.tile t).pend.length < 64 then
      m.modTile t (fun y => { y with pend := y.pend ++
        [⟨x.job, node, x.tag, rcd.getD 0 0, rcd.getD 1 0, rcd.getD 2 0, rcd.getD 3 0⟩] })
    else
      (m.abandonSpec ⟨x.job, p, x.node⟩ x.tag.key x.jents).countJ 0x4500 x.job 0x08

/-- STATUS bits of a service core (Table 5-11). -/
def pmode (x : Core) : Bool := x.status.getLsbD 0
def ieBit (x : Core) : Bool := x.status.getLsbD 2

/-- A trap on a service core: EPC, ECAUSE, EVAL, PPMODE, PIE, PMODE := 1, IE := 0, pc := TVEC; with PMODE 1 and IE 0 it is a double trap, which stops the core and frees its locks (R122, R283, R313). -/
def coreTrap (m : Mach) (c : BitVec 4) (tr : Trap) : Mach :=
  let x := m.core c
  if pmode x && !ieBit x then
    let m := m.setCore c { x with run := .stopped }
    let m := (m.logErr 3 0x0A 0 none c.toNat x.epc x.ecause x.eval x.status).raiseSource (176 + c.toNat)
    m.ownerDeath (c.toNat + 1)
  else
    let st : Word := at64 (b2n (ieBit x)) 3 ||| at64 (b2n (pmode x)) 1 ||| 1
    m.setCore c { x with
      epc := x.th.pc.zeroExtend 64, ecause := at64 tr.reason.toNat 16 ||| at64 tr.code.toNat 0, eval := tr.value,
      status := st, run := .running, fresh := false, th := { x.th with pc := x.tvec.truncate 32 } }

end Mach

end Sys2Proof.Machine
end

