-- ==== Sys2Proof/Machine/Memory.lean ====
section
/-! DEFINITION. Reads of SRAM words of the compute dies, and what lost data of SRAM and HBM does (Tables 11-3 and 11-4). -/

namespace Sys2Proof.Machine

namespace Mach

/-- The job whose dirty line a lost word of a tile's node-record cache lies in, where it lies in one: a free value. -/
def dirtyJob (m : Mach) (t : TileId) : Option JobId := (Config.dirtyLine m.free).filter (fun j => m.active j t)

/-- Whether a lost word is fetched again, a corrected error in the end (Tables 11-4 and 21-1). -/
def refetches (m : Mach) (die : BitVec 2) (loc : Nat) : Bool :=
  locKind loc == 2 || (locKind loc == 1 && (m.dirtyJob (locTileId die loc)).isNone)

/-- Handle lost data of an SRAM location by Table 11-4. A word that holds VALID and JOB is lost with both, in an entry not in use too: every job active in the tile faults, and the word is written anew as that of a freed entry. A line of a cache that is fetched again is written anew whole. -/
def sramLost (m : Mach) (die : BitVec 2) (loc : Nat) : Mach :=
  let t : TileId := die ++ BitVec.ofNat 4 (locTile loc)
  let dloc := sramKey die loc
  let (ev0, ev1, ev2) := wordEvidence (m.sramContent die loc) (SMap.getD m.ms.sramFlaw dloc 0)
  let tileAll := fun (m : Mach) => m.faultTileJobs t 0x0206 0x06 dloc [ev0, ev1, ev2]
  let one := fun (m : Mach) (j : JobId) => m.faultJob j 0x0206 0x06 dloc ev0 ev1 ev2
  let refetch := fun (m : Mach) (kind : Nat) =>
    (m.count 0x4A00 0x06).sramPut t kind (locUnit loc) ((List.range 8).map (locWord loc / 8 * 8 + ·))
  match locKind loc with
  | 0 =>
    let p : PeId := t ++ BitVec.ofNat 7 (locUnit loc)
    let i := locWord loc / 4
    match SMap.get? (m.pe p).iris i with
    | some e =>
      let m' := m.freeEnt p .iris i e
      if locWord loc % 4 = 0 then tileAll m' else one m' e.job
    | none => if locWord loc % 4 = 0 then tileAll (m.sramPut t 0 (locUnit loc) [locWord loc]) else m
  | 3 =>
    let c : ClusterId := t ++ BitVec.ofNat 4 (locUnit loc / 8)
    let i := locWord loc / 4
    match SMap.get? (m.cluster c).mob i with
    | some e =>
      let p := t ++ e.locPe
      let m' := m.freeEnt p .mob i e
      if locWord loc % 4 = 0 then tileAll m' else one m' e.job
    | none => if locWord loc % 4 = 0 then tileAll (m.sramPut t 3 (locUnit loc) [locWord loc]) else m
  | 4 =>
    match SMap.get? (m.tile t).journal (locWord loc / 4) with
    | some e => if locWord loc % 4 = 0 then tileAll m else one m e.job
    | none => if locWord loc % 4 = 0 then tileAll (m.sramPut t 4 0 [locWord loc]) else m
  | 1 =>
    let m' := { m with free := m.free + 1 }
    match m.dirtyJob t with
    | some j => one m' j
    | none => refetch m' 1
  | _ => refetch m 2

/-- A functional or scrub read of an SRAM word of a compute die (Table 11-3): a corrected word waits for its write-back, a lost one is logged and handled by Table 11-4. -/
def sramRead (m : Mach) (die : BitVec 2) (loc : Nat) : Mach :=
  let k := sramKey die loc
  let f := SMap.getD m.ms.sramFlaw k 0
  match sramCheck f with
  | .clean => m
  | .corrected => m.sramCorrected die loc
  | .poison => (m.count 0x4A00 0x03).sramLost die loc
  | .bad =>
    let (x, c, y) := wordEvidence (m.sramContent die loc) f
    ((m.count 0x4A00 0x02).logErr (b2n (m.refetches die loc)) 0x06 0 none k x c y).sramLost die loc

/-- Read every flawed word of a kind of structure of a tile whose word index satisfies p: what a functional read of those words meets. -/
def sramTouch (m : Mach) (t : TileId) (kind unit : Nat) (p : Nat → Bool) : Mach :=
  if m.ms.sramFlaw = [] then m
  else
    let die : BitVec 2 := t.extractLsb' 4 2
    let hit := m.ms.sramFlaw.filter (fun e =>
      let loc := e.1 % 2 ^ 32
      e.1 / 2 ^ 32 == die.toNat && locKind loc == kind && locTile loc == t.toNat % 16 && locUnit loc == unit
        && p (locWord loc))
    hit.foldl (fun m e => m.sramRead die (e.1 % 2 ^ 32)) m

/-- A functional read of a line of a PE's node-record cache (kind 1) or code cache (kind 2), which is filled from HBM first where the cache does not hold it (R237, R256). -/
def cacheTouch (m : Mach) (p : PeId) (kind : Nat) : Mach :=
  if m.ms.sramFlaw = [] ∧ m.ms.sramInj = [] then m
  else
    let (l, fill) := m.cacheDraw kind
    let m := { m with free := m.free + 1 }
    let m := if fill then m.sramPut (peTile p) kind (p.toNat % 128) ((List.range 8).map (8 * l + ·)) else m
    m.sramTouch (peTile p) kind (p.toNat % 128) (fun w => w / 8 == l)

/-- A functional read of entries of a journal slice (R237). -/
def journalRead (m : Mach) (t : TileId) (l : List Nat) : Mach := m.sramTouch t 4 0 (fun w => w / 4 ∈ l)

/-- Whether an undo word of an entry of a journal slice is lost. -/
def journalLost (m : Mach) (t : TileId) (e : Nat) : Bool :=
  [2, 3].any (fun w =>
    let c := sramCheck (SMap.getD m.ms.sramFlaw (sramKey (t.extractLsb' 4 2) (mkLoc 4 (t.toNat % 16) 0 (4 * e + w))) 0)
    c == .poison || c == .bad)

/-- Read ranges of HBM that belong to a job: whether one is lost, which faults the job (Table 11-4). -/
def regionFetch (m : Mach) (j : JobId) (l : List (Nat × Nat)) : Bool × Mach :=
  match l with
  | [] => (false, m)
  | (a, n) :: rest =>
    let (lost, m) := m.hbmCheck a n
    if lost then (true, m.faultJob j 0x0206 0x09 (hbmLoc a)) else m.regionFetch j rest

/-- A PE's access to HBM where no request reaches the hub: what its caches hold it has, which a free value says; the request for anything else is answered by ERR_RSP with status 1 or by nothing, and faults its job (R231, R446). Whether the access goes no further. -/
def cutOff (m : Mach) (t : TileId) (j : JobId) : Bool × Mach :=
  if m.hubPath t then (false, m)
  else
    let held := Config.cacheHolds m.free
    let m := { m with free := m.free + 1 }
    if held then (false, m) else (true, m.faultJob j 0x020A (stopBlock (tileStop t)) (stopLoc (tileDie t) (tileStop t)))

/-- A PE reads ranges of HBM for a node: whether it cannot, for want of a way to the hub or because data is lost, which faults the node's job (R18, R231, Table 11-4). -/
def peFetch (m : Mach) (r : NRef) (l : List (Nat × Nat)) : Bool × Mach :=
  match m.cutOff (peTile r.pe) r.job with
  | (true, m) => (true, m)
  | (false, m) => m.regionFetch r.job l

/-- Gather, Ready or Emit reads a node's record and held-value block by the node-record cache: whether the node cannot be read, which faults its job (Table 11-4). -/
def nodeFetch (m : Mach) (r : NRef) : Bool × Mach :=
  let s := (m.job r.job).state
  let m := [0, 1, 2].foldl (fun (m : Mach) _ => m.cacheTouch r.pe 1) m
  if (m.job r.job).state = s then m.peFetch r [(m.recAddr r, 64), (m.stAddr r, 128)] else (true, m)

/-- A node's settled record is read from HBM (R154, Table 11-4). -/
def settledFetch (m : Mach) (r : NRef) : Bool × Mach := m.peFetch r [(m.stAddr r + 128, 256)]

/-- A node's fanout block is read from HBM (R265, Table 11-4). -/
def fanFetch (m : Mach) (r : NRef) : Bool × Mach := m.peFetch r [m.fanRange r]

/-- Fault the job that owns a lost half of HBM: by its regions, or by the deep-match entry the half holds (Table 11-4). -/
def hbmLost (m : Mach) (h : Nat) : Mach :=
  match allJobs.find? (fun j =>
    let b := m.job j
    [b.nodeRec, b.nodeState, b.fanout, b.code].any (fun r => decide (r.base ≤ h ∧ h < r.base + r.size))) with
  | some j => m.faultJob j 0x0206 0x09 (hbmLoc h)
  | none =>
    if deepBase ≤ h ∧ h < deepBase + 2 ^ 32 then
      let t : TileId := BitVec.ofNat 6 ((h - deepBase) / 2 ^ 26)
      match SMap.get? (m.tile t).deep ((h - deepBase) % 2 ^ 26 / 32) with
      | some e => m.faultJob e.job 0x0206 0x09 (hbmLoc h)
      | none => m
    else m

/-- Fault the jobs that own the lost halves of a range, whoever reads them (Table 11-4). -/
def rangeLost (m : Mach) (a n : Nat) : Mach :=
  ((halvesOf a n).filter (fun h => m.halfCheck h == .poison || m.halfCheck h == .bad)).foldl hbmLost m

/-- Whether a probe of deep match from a home bucket waits because a unit of HBM is being copied (R252). -/
def deepWaits (m : Mach) (t : TileId) (bucket : Nat) : Bool :=
  m.ms.copying != [] && (List.range 16).any (fun i => m.copyWait (deepAddr t ((bucket + i) % 262144 * 8)) 256)

/-- The fetch of a group's entries from deep match at its dispatch (R61): whether one is lost, which faults the job that entry names. -/
def deepFetch (m : Mach) (p : PeId) (es : List (Nat × Entry)) : Bool × Mach :=
  if m.ms.hbmFlaw = [] ∧ m.ms.hbmPoison = [] ∧ m.ms.hbmMisaddr = [] then (false, m)
  else (es.filter (fun e => e.1 < deepQBase)).foldl (fun (acc : Bool × Mach) e =>
    let h := deepAddr (peTile p) e.1
    let (c, m) := acc.2.halfRead h
    if c == .poison || c == .bad then (true, m.hbmLost h) else (acc.1, m)) (false, m)

end Mach

end Sys2Proof.Machine
end

