-- ==== Sys2Proof/Machine/Operands.lean ====
section
/-! DEFINITION. Every operand form of BIS: registers, pairs, immediates, addresses and branch targets (R96, R97, R101, R107, R110). -/

namespace Sys2Proof.Machine

/-- A general register; g0 reads as 0 (R96). -/
def Thread.get (t : Thread) (r : BitVec 5) : Word := if r = 0 then 0 else t.regs.get r.toFin

/-- Write a general register; a write to g0 is discarded (R96). -/
def Thread.put (t : Thread) (r : BitVec 5) (v : Word) : Thread :=
  if r = 0 then t else { t with regs := t.regs.set r.toNat v r.isLt }

/-- The register that holds plane A of pair n (R97). -/
def pairA (n : BitVec 4) : BitVec 5 := if n.toNat < 8 then n.zeroExtend 5 else n.zeroExtend 5 + 8

/-- The register that holds plane B of pair n (R97). -/
def pairB (n : BitVec 4) : BitVec 5 := pairA n + 8

/-- The two planes of a pair. -/
def Thread.pair (t : Thread) (n : BitVec 4) : Word × Word := (t.get (pairA n), t.get (pairB n))

/-- Write both registers of a pair (R113). -/
def Thread.putPair (t : Thread) (n : BitVec 4) (v : Word × Word) : Thread :=
  (t.put (pairA n) v.1).put (pairB n) v.2

/-- A sign-extended 16-bit immediate. -/
def sext16 (i : BitVec 16) : Word := i.signExtend 64
/-- A zero-extended 16-bit immediate. -/
def zext16 (i : BitVec 16) : Word := i.zeroExtend 64

/-- The address of a load or store: ra + sext(IMM12), in bytes (R107). -/
def Thread.ea (t : Thread) (ra : BitVec 5) (imm : BitVec 12) : Word := t.get ra + imm.signExtend 64

/-- The thread with its pc moved past the instruction. -/
def Thread.next (t : Thread) : Thread := { t with pc := t.pc + 4 }

/-- Go to a branch target, an exact integer: below 0, or at or above 2^32, it raises FETCH at the branching instruction with the low 64 bits of the target (R110, R119); one that is not a multiple of 4 raises MISALIGNED. -/
def Thread.goto (t : Thread) (target : Int) : Except Trap Thread :=
  if target < 0 ∨ (2 ^ 32 : Int) ≤ target then .error { code := 0x01, value := BitVec.ofInt 64 target }
  else if target % 4 ≠ 0 then .error { code := 0x04, value := BitVec.ofInt 64 target }
  else .ok { t with pc := BitVec.ofInt 32 target }

/-- The target of a branch by a signed count of instructions (R110). -/
def Thread.branchTo (t : Thread) (off : Int) : Except Trap Thread := t.goto (Int.ofNat t.pc.toNat + 4 * off)

end Sys2Proof.Machine
end

