-- ==== Sys2Proof/WellFormed.lean ====
section
/-! DEFINITION. Well-formed commands: the operands that name a stop, ring, link, function or access path name one the module has. -/

namespace Sys2Proof

/-- A stop of a compute die: 0 to 17 (R211). -/
def stopOk (stop : BitVec 5) : Bool := decide (stop.toNat ≤ 17)

/-- A ring of a compute die: 0 to 11, pair * 2 + direction (R211). -/
def ringOk (ring : BitVec 4) : Bool := decide (ring.toNat ≤ 11)

/-- A Foxglove link of a compute die: 0 to 11 (Table 10-9). -/
def foxgloveOk (link : BitVec 4) : Bool := decide (link.toNat ≤ 11)

/-- An entry of a stop's routing table: 0 to 18 (Table 10-6). -/
def routeOk (d : BitVec 5) : Bool := decide (d.toNat ≤ 18)

/-- A PCIe function: 0 the PF, 1 to 8 the VFs (R316). -/
def fnOk (fn : BitVec 4) : Bool := decide (fn.toNat ≤ 8)

/-- A rate the PCIe link trains to: 2.5 to 64 GT/s as 1 to 6 (Table 15-1). -/
def rateOk (rate : BitVec 3) : Bool := decide (1 ≤ rate.toNat ∧ rate.toNat ≤ 6)

/-- A width the PCIe link trains to: x1, x2, x4, x8 or x16 (Table 15-1). -/
def widthOk (width : BitVec 5) : Bool := [1, 2, 4, 8, 16].contains width.toNat

/-- An end point that exists. -/
def EndPoint.ok : EndPoint → Bool
  | .stop _ s => stopOk s
  | .hub _ _ => true

/-- An access path that exists. -/
def Path.ok : Path → Bool
  | .sop => true
  | .mbx fn => fnOk fn
  | .ring _ => true
  | .peer _ => true

/-- A path of a register write that exists. -/
def RegPath.ok : RegPath → Bool
  | .core _ => true
  | .qspi _ _ => true
  | .switch _ _ stop => stopOk stop
  | .bar0 fn | .bar0Read fn | .bar0Narrow fn => fnOk fn

/-- A command is well formed: every unit it names exists. -/
def Instr.wf : Instr → Bool
  | .registerWrite who _ _ => who.ok
  | .objectWrite path _ _ _ => path.ok
  | .add _ _ _ _ => true
  | .sub _ _ _ _ => true
  | .and _ _ _ _ => true
  | .or _ _ _ _ => true
  | .xor _ _ _ _ => true
  | .andn _ _ _ _ => true
  | .orn _ _ _ _ => true
  | .xnor _ _ _ _ => true
  | .sll _ _ _ _ => true
  | .srl _ _ _ _ => true
  | .sra _ _ _ _ => true
  | .rol _ _ _ _ => true
  | .ror _ _ _ _ => true
  | .slt _ _ _ _ => true
  | .sltu _ _ _ _ => true
  | .min _ _ _ _ => true
  | .max _ _ _ _ => true
  | .minu _ _ _ _ => true
  | .maxu _ _ _ _ => true
  | .mul _ _ _ _ => true
  | .mulh _ _ _ _ => true
  | .mulhu _ _ _ _ => true
  | .div _ _ _ _ => true
  | .divu _ _ _ _ => true
  | .rem _ _ _ _ => true
  | .remu _ _ _ _ => true
  | .popc _ _ _ => true
  | .clz _ _ _ => true
  | .ctz _ _ _ => true
  | .bext _ _ _ _ => true
  | .bdep _ _ _ _ => true
  | .brev _ _ _ => true
  | .bswap _ _ _ => true
  | .addi _ _ _ _ => true
  | .andi _ _ _ _ => true
  | .ori _ _ _ _ => true
  | .xori _ _ _ _ => true
  | .slti _ _ _ _ => true
  | .sltiu _ _ _ _ => true
  | .shiSll _ _ _ _ => true
  | .shiSrl _ _ _ _ => true
  | .shiSra _ _ _ _ => true
  | .shiRol _ _ _ _ => true
  | .shiRor _ _ _ _ => true
  | .lui _ _ _ => true
  | .lut3 _ _ _ _ _ => true
  | .l4and _ _ _ _ => true
  | .l4or _ _ _ _ => true
  | .l4xor _ _ _ _ => true
  | .l4not _ _ _ => true
  | .l4mux _ _ _ _ _ => true
  | .l4res _ _ _ _ => true
  | .l4eq _ _ _ _ => true
  | .fadd _ _ _ _ _ _ => true
  | .fsub _ _ _ _ _ _ => true
  | .fmul _ _ _ _ _ _ => true
  | .fdiv _ _ _ _ _ _ => true
  | .fsqrt _ _ _ _ _ => true
  | .fmin _ _ _ _ _ _ => true
  | .fmax _ _ _ _ _ _ => true
  | .feq _ _ _ _ _ _ => true
  | .flt _ _ _ _ _ _ => true
  | .fle _ _ _ _ _ _ => true
  | .fclass _ _ _ _ _ => true
  | .fcopysign _ _ _ _ _ _ => true
  | .fneg _ _ _ _ _ => true
  | .fabs _ _ _ _ _ => true
  | .fcvtI _ _ _ _ _ => true
  | .fcvtU _ _ _ _ _ => true
  | .fcvtFi _ _ _ _ _ => true
  | .fcvtFu _ _ _ _ _ => true
  | .fcvtFf _ _ _ _ _ => true
  | .frfs _ _ _ _ => true
  | .fwfs _ _ _ _ => true
  | .fcfs _ _ _ _ => true
  | .fmadd _ _ _ _ _ _ _ => true
  | .fmsub _ _ _ _ _ _ _ => true
  | .fnmadd _ _ _ _ _ _ _ => true
  | .fnmsub _ _ _ _ _ _ _ => true
  | .ld _ _ _ _ _ _ => true
  | .lds _ _ _ _ _ _ => true
  | .st _ _ _ _ _ _ => true
  | .beq _ _ _ _ => true
  | .bne _ _ _ _ => true
  | .blt _ _ _ _ => true
  | .bge _ _ _ _ => true
  | .bltu _ _ _ _ => true
  | .bgeu _ _ _ _ => true
  | .bset _ _ _ _ => true
  | .bclr _ _ _ _ => true
  | .jal _ _ _ => true
  | .jalr _ _ _ _ => true
  | .emit _ _ _ _ _ => true
  | .emitd _ _ _ _ => true
  | .state _ _ => true
  | .done _ => true
  | .trap _ _ => true
  | .wait _ => true
  | .reti _ => true
  | .fence _ => true
  | .csrget _ _ _ => true
  | .csrput _ _ _ => true
  | .csrswap _ _ _ _ => true
  | .csrins _ _ _ _ => true
  | .lkacq _ _ _ _ => true
  | .lkrel _ _ _ _ => true
  | .token _ stop => stopOk stop
  | .tokenMc _ stop => stopOk stop
  | .anti _ stop => stopOk stop
  | .antiMc _ stop => stopOk stop
  | .control _ stop => stopOk stop
  | .slotRel dst => dst.ok
  | .rd _ _ => true
  | .wr _ _ => true
  | .cfgRd _ stop => stopOk stop
  | .cfgWr _ stop => stopOk stop
  | .rdRsp dst => dst.ok
  | .wrAck dst => dst.ok
  | .cfgRsp dst => dst.ok
  | .errRsp dst => dst.ok
  | .matchArrival _ _ => true
  | .mobProbeComplete _ _ => true
  | .deepMatchProbeComplete _ _ => true
  | .deepMatchWrite _ => true
  | .arming _ => true
  | .descriptorInsert _ => true
  | .spill _ => true
  | .dispatch _ _ => true
  | .journalGrant _ => true
  | .emitFiring _ _ => true
  | .kick _ => true
  | .depositHeld _ => true
  | .depositState _ => true
  | .readNode _ => true
  | .route _ => true
  | .stopInject _ stop => stopOk stop
  | .ringHop _ stop ring _ => stopOk stop && ringOk ring
  | .foxgloveTraversal _ link _ _ _ => foxgloveOk link
  | .bridgeCrossing _ _ _ _ _ => true
  | .lksRt _ stop d _ => stopOk stop && routeOk d
  | .lksStopCfg _ stop _ => stopOk stop
  | .fenceReq _ stop => stopOk stop
  | .fenceOpen _ stop => stopOk stop
  | .force _ stop => stopOk stop
  | .fenceAck _ stop => stopOk stop
  | .fenceTimeout _ stop => stopOk stop
  | .horizonSnapshot => true
  | .horizonDelivery _ => true
  | .commitSweep _ => true
  | .fossilCollection _ _ => true
  | .descriptorSweep _ _ => true
  | .mobRescan _ _ _ => true
  | .rollback _ => true
  | .storeWrite _ => true
  | .storeAck _ => true
  | .governorPeriod => true
  | .stallEvent _ => true
  | .pauseTime via _ _ => via.ok
  | .resume via _ _ => via.ok
  | .orphanDiscard via _ _ => via.ok
  | .waveStart => true
  | .hzReq _ _ => true
  | .hzUp _ _ => true
  | .hzDown _ _ => true
  | .hzPause _ _ => true
  | .hzAck _ _ => true
  | .hzRepeat _ => true
  | .hzFrameAck _ _ => true
  | .time _ _ => true
  | .targetEdge _ _ => true
  | .syncInEdge => true
  | .syncOutPulse => true
  | .correctedWriteback => true
  | .sramScrub => true
  | .hbmScrub => true
  | .patchInstall _ _ _ => true
  | .patchEnd _ _ _ => true
  | .remapEnable _ _ => true
  | .remapCopyComplete _ => true
  | .remapEnd _ _ => true
  | .eccInjectSram via _ => via.ok
  | .eccInjectHbm via _ => via.ok
  | .load via _ _ => via.ok
  | .loadStart => true
  | .stagingMib via _ _ => via.ok
  | .keySeal via _ => via.ok
  | .keyRevoke via _ => via.ok
  | .signLock via _ => via.ok
  | .tskPost _ _ => true
  | .postAdmission => true
  | .postApply _ => true
  | .taskDispatch => true
  | .tskEnd _ => true
  | .tskCfg _ _ => true
  | .eventRingWrite _ => true
  | .evrCfg _ _ => true
  | .tileRbqKey _ _ => true
  | .objDone _ _ => true
  | .interruptEdge _ _ => true
  | .interruptOffer _ => true
  | .interruptEntry _ => true
  | .icSwset _ => true
  | .icCfg _ _ => true
  | .lockReq _ _ _ _ => true
  | .leaseExpiry _ => true
  | .bar2Read fn _ _ => fnOk fn
  | .bar2Write fn _ _ => fnOk fn
  | .apertureEntry fn _ _ => fnOk fn
  | .ringCfg fn _ _ => fnOk fn
  | .ringSqTail fn _ _ => fnOk fn
  | .completionWrite _ => true
  | .cmdNop _ _ => true
  | .cmdObjRead _ _ => true
  | .cmdObjWrite _ _ _ => true
  | .cmdLoad _ _ => true
  | .cmdUnload _ _ => true
  | .cmdRun _ _ => true
  | .cmdPause _ _ => true
  | .cmdResume _ _ => true
  | .cmdStop _ _ => true
  | .cmdControl _ _ _ => true
  | .cmdReadState _ _ => true
  | .cmdDmRead _ _ => true
  | .cmdDmWrite _ _ _ => true
  | .cmdStageIn _ _ _ => true
  | .cmdStageOut _ _ => true
  | .tlpArbitration => true
  | .flrVf _ => true
  | .flrPf => true
  | .linkLoss => true
  | .perstAssert => true
  | .vfEnableChange _ => true
  | .busMasterEnable fn _ => fnOk fn
  | .memorySpaceEnable fn _ => fnOk fn
  | .powerStateChange fn _ => fnOk fn
  | .featureAccept via _ => via.ok
  | .mbxReq fn _ => fnOk fn
  | .probeItem _ => true
  | .probeCancel _ => true
  | .frontEndPush _ => true
  | .itemWrite _ => true
  | .packetCommit _ => true
  | .strRead _ _ => true
  | .mark _ => true
  | .rewind _ => true
  | .release _ => true
  | .disableFlush _ => true
  | .disableDiscard _ => true
  | .close _ => true
  | .flEnable via _ _ => via.ok
  | .trainingComplete _ => true
  | .trainingAbandon _ => true
  | .downTimeout _ => true
  | .identityFrameTimer _ => true
  | .identityFrame _ _ => true
  | .identAck _ _ => true
  | .frameSend _ => true
  | .dataFrame _ _ => true
  | .ack _ _ => true
  | .ackTimer _ => true
  | .nak _ _ => true
  | .credit _ _ => true
  | .creditTimer _ => true
  | .pause _ _ => true
  | .pauseExpiry _ _ => true
  | .replayTimeout _ => true
  | .retrainComplete _ => true
  | .heartbeatSend _ => true
  | .heartbeat _ _ => true
  | .heartbeatExpiry _ => true
  | .calibrationTrigger _ => true
  | .calReq _ _ => true
  | .calibrationWindowEnd _ => true
  | .linkState => true
  | .resync => true
  | .resyncTimeout _ => true
  | .frameAckRelay => true
  | .object => true
  | .peerLock => true
  | .lockWake => true
  | .jobCheck => true
  | .flRt _ _ => true
  | .read _ _ => true
  | .write _ _ => true
  | .readSeg _ _ => true
  | .writeSeg _ _ => true
  | .abort _ _ => true
  | .lock _ _ => true
  | .transferLapse => true
  | .objectTimeout => true
  | .sopHeartbeat => true
  | .eventFrame => true
  | .errlogIndex via _ => via.ok
  | .errlogClear via _ => via.ok
  | .testUnlock via _ => via.ok
  | .ovrUnlock via _ => via.ok
  | .ovrRelease via _ => via.ok
  | .nodeIdSrc via _ _ => via.ok
  | .moduleCmdBoot via => via.ok
  | .moduleCmdSnowdrop via => via.ok
  | .snowdropSaveRetry => true
  | .moduleCmdWake via _ => via.ok
  | .moduleCmdReboot via => via.ok
  | .moduleCmdStandby via => via.ok
  | .jobCmdRun via _ => via.ok
  | .jobCmdStop via _ => via.ok
  | .jobCmdUnload via _ => via.ok
  | .vinRise _ _ => true
  | .vinLoss => true
  | .vinLevelCrossing _ => true
  | .brownOut _ => true
  | .overvoltage _ => true
  | .refclkStart _ => true
  | .bootStart => true
  | .bootStage _ => true
  | .resetAssert => true
  | .resetRelease => true
  | .powerControl _ => true
  | .currentLimit _ => true
  | .thermalAlert _ => true
  | .thermalRuleEnd _ => true
  | .thermalTrip _ => true
  | .railFault _ => true
  | .avsWindow _ _ => true
  | .droopResponse _ => true
  | .avsStat _ => true
  | .extest _ => true
  | .samplePreload _ => true
  | .idcode => true
  | .highz => true
  | .bypass => true
  | .requestTimeout dst _ => dst.ok
  | .errlogWrite => true
  | .refclkLoss => true
  | .pciePerstRelease => true
  | .pcieLinkUp rate width => rateOk rate && widthOk width
  | .msixMaskChange fn _ => fnOk fn
  | .hostDmaCompletion _ _ => true
  | .busOff => true
  | .qspiOperationComplete => true
  | .ovrWindowEnd => true
  | .testLogicReset => true
  | .uncorrectableCodeword _ => true

end Sys2Proof
end

