-- ==== Sys2Proof/Machine/Issue.lean ====
section
/-! DEFINITION. Issuing one instruction of BIS on a context or a service core: where it is legal, the fetch and budget checks, traps and counts (R102, R103, R112, R117 to R122). -/

namespace Sys2Proof.Machine

/-- Where an instruction is legal (Table 5-3). -/
inductive Side where
  | both | peOnly | scOnly
deriving DecidableEq, Repr

/-- The ILLEGAL trap (R102). -/
def illegal : Trap := { code := 0x02 }

/-- Whether a word that would issue is one the encoding reserves; 0 is (R102). -/
def reservedWord (w : BitVec 32) : Bool := (decodeBis (.core 0) w).isNone

/-- Where the word at the pc of a firing lies in HBM; the model reads it there at every issue, since which lines a code cache holds is left open (log entry 81). -/
def Mach.codeAt (m : Mach) (x : Ctx) : Nat := m.alias_ ((m.job x.job).code.base + x.th.pc.toNat)

/-- The word at the pc of a firing. -/
def Mach.codeWord (m : Mach) (x : Ctx) : BitVec 32 := BitVec.ofNat 32 (bytesNat (memBytes m.mem (m.codeAt x) 4))

/-- The word at the pc of a service core, in its local memory. -/
def Mach.localWord (m : Mach) (c : BitVec 4) : BitVec 32 :=
  BitVec.ofNat 32 (bytesNat (memBytes m.mem (localBase + localSize * c.toNat + (m.core c).th.pc.toNat) 4))

/-- FIRE_BUDGET of a job (R117). -/
def Mach.budget (m : Mach) (j : JobId) : Nat := m.jobObj j 0x08 512

/-- What stops an instruction of a firing from issuing, first in the order of R119: pc outside the code segment, a reserved word or an instruction not legal on this side, the budget. -/
def Mach.peBlock (m : Mach) (x : Ctx) (side : Side) : Option Trap :=
  if (m.job x.job).codeLen ≤ x.th.pc.toNat then some { code := 0x01, value := x.th.pc.zeroExtend 64 }
  else if reservedWord (m.codeWord x) || side == .scOnly then some illegal
  else if m.budget x.job ≤ x.count then some { code := 0x03, reason := 1 }
  else none

/-- What stops an instruction of a service core from issuing: pc outside its local memory, a reserved word, an instruction not legal on this side, or one that task mode lacks (R102, R112, R120). -/
def Mach.scBlock (m : Mach) (c : BitVec 4) (side : Side) (priv : Bool) : Option Trap :=
  if localSize ≤ (m.core c).th.pc.toNat then some { code := 0x01, value := (m.core c).th.pc.zeroExtend 64 }
  else if reservedWord (m.localWord c) || side == .peOnly || (priv && !Mach.pmode (m.core c)) then some illegal
  else none

/-- Write back a context after an instruction issued in it: the count of the firing and INSTRUCTIONS rise (R117, Table 5-12). -/
def Mach.ctxDone (m : Mach) (p : PeId) (c : BitVec 4) (x : Ctx) : Mach :=
  (m.modPe p (fun y => { y with ctxs := SMap.set y.ctxs c.toNat { x with count := x.count + 1 }, lastCtx := c })).countJ
    0x4400 x.job 0x0B

/-- Write back a service core after an instruction issued on it. -/
def Mach.coreDone (m : Mach) (c : BitVec 4) (x : Core) : Mach :=
  m.setCore c { x with instret := x.instret + 1, fresh := false }

/-- Whether a service core issues: it runs, and no interrupt entry is in progress (Table 14-4). -/
def coreLive (x : Core) : Bool := x.run == .running && x.entry.isNone

/-- The context that issues in an issue cycle of a PE (R91): of those whose next instruction does not wait one with a safe firing before the others, and of one class the next by number after the context that issued last. -/
def Mach.ctxPick (m : Mach) (p : PeId) (waits : BitVec 16) : Option Nat :=
  let x := m.pe p
  let ready := x.ctxs.filter (fun c => !waits.getLsbD c.1)
  let safe := ready.filter (fun c => c.2.safe)
  let after := fun (c : Nat × Ctx) => (c.1 + 15 - x.lastCtx.toNat) % 16
  (leastBy (fun a b => decide (after a < after b)) (if safe = [] then ready else safe)).map (·.1)

/-- The firing an instruction of a context issues in: none where the context holds none, or is not the one that issues in that cycle. -/
def Mach.turn (m : Mach) (p : PeId) (c : BitVec 4) (waits : BitVec 16) : Option Ctx :=
  if m.ctxPick p waits = some c.toNat then SMap.get? (m.pe p).ctxs c.toNat else none

/-- The words of the line of a PE's code cache that a fetch of a firing reads, as location codes (R237). -/
def Mach.codeLocs (m : Mach) (p : PeId) (x : Ctx) : List Nat :=
  (List.range 8).map (fun i => mkLoc 2 ((peTile p).toNat % 16) (p.toNat % 128) (8 * (Config.codeLine (m.codeAt x) % 256) + i))

/-- The die of a PE. -/
def Mach.peDieOf (p : PeId) : BitVec 2 := (peTile p).extractLsb' 4 2

/-- Whether the pc of a firing lies in its job's code segment: a word outside it is not read (R112). -/
def Mach.inCode (m : Mach) (x : Ctx) : Bool := decide (x.th.pc.toNat < (m.job x.job).codeLen)

/-- Whether a location of a compute die has neither a flaw nor an injection that stands for it. -/
def Mach.locClean (m : Mach) (die : BitVec 2) (loc : Nat) : Bool :=
  sramCheck (SMap.getD m.ms.sramFlaw (sramKey die loc) 0) == .clean && (SMap.get? m.ms.sramInj (sramKey die loc)).isNone

/-- The code cache fills the line of a fetch first where it does not hold it, which a free value says: its words are written (R237, R256). -/
def Mach.codeFill (m : Mach) (p : PeId) (x : Ctx) : Mach :=
  if (m.codeLocs p x).all (m.locClean (peDieOf p)) then m
  else
    let (_, fill) := m.cacheDraw 2
    let m := { m with free := m.free + 1 }
    if fill then (m.codeLocs p x).foldl (fun m l => m.sramWrite (peDieOf p) l) m else m

/-- Fetch the word at the pc of a firing (R237, R242, R252): none while its unit is being copied, else whether it cannot be had, which has faulted the job. -/
def Mach.fetchCode (m : Mach) (p : PeId) (x : Ctx) : Option (Bool × Mach) :=
  if !m.inCode x then some (false, m)
  else if m.copyWait (m.codeAt x) 4 then none
  else
    some (match m.cutOff (peTile p) x.job with
      | (true, m) => (true, m)
      | (false, m) =>
        match ((m.codeLocs p x).foldl (fun m l => m.sramRead (peDieOf p) l) (m.codeFill p x)).hbmCheck (m.codeAt x) 4 with
        | (true, m) => (true, m.faultJob x.job 0x0206 0x09 (hbmLoc (m.codeAt x)))
        | (false, m) => (false, m))

/-- Fetch the word at the pc of a service core from its local memory: whether it is lost. -/
def Mach.fetchLocal (m : Mach) (c : BitVec 4) : Bool × Mach :=
  if localSize ≤ (m.core c).th.pc.toNat then (false, m)
  else
  let (k, m) := m.hubWordRead ((localBase + localSize * c.toNat + (m.core c).th.pc.toNat) / 8 * 8)
  (k == .poison || k == .bad, m)

/-- What a read of the word at the pc of an executor finds: none while its unit is being copied. -/
def Mach.fetchFinds (m : Mach) (x : Exec) : Option (List Check) :=
  match x with
  | .pe p c _ => match SMap.get? (m.pe p).ctxs c.toNat with
    | some y => if !m.inCode y then some [] else if m.copyWait (m.codeAt y) 4 then none else some ((Mach.halvesOf (m.codeAt y) 4).map m.halfCheck)
    | none => some []
  | .parity _ _ _ => none
  | .core c => if localSize ≤ (m.core c).th.pc.toNat then some [] else some [Mach.sramCheck (SMap.getD m.ms.hubFlaw
      ((localBase + localSize * c.toNat + (m.core c).th.pc.toNat) / 8 * 8) 0)]

/-- Whether the line of the code cache that a fetch of an executor reads is free of errors and of injections, and its tile reaches the hub; a service core has no such cache. -/
def Mach.lineClean (m : Mach) (x : Exec) : Bool :=
  match x with
  | .pe p c _ => (SMap.get? (m.pe p).ctxs c.toNat).all (fun y =>
      !m.inCode y || (m.hubPath (peTile p) && (m.codeLocs p y).all (m.locClean (peDieOf p))))
  | .parity _ _ _ => false
  | .core _ => true

/-- Whether the word at the pc of an executor reads without error. -/
def Mach.fetchClean (m : Mach) (x : Exec) : Bool := m.lineClean x && (m.fetchFinds x).any (·.all (· == .clean))

/-- Whether the word at the pc of an executor can be had: read without error, or corrected. -/
def Mach.fetchGood (m : Mach) (x : Exec) : Bool := (m.fetchFinds x).any (·.all (fun k => k == .clean || k == .corrected))

/-- What an instruction of a firing comes to, by the order of R119: FETCH of its pc, ILLEGAL of a reserved word or by its side, FETCH and ILLEGAL of the instruction itself, the budget, then what the instruction gives. -/
def Mach.peIssue (m : Mach) (x : Ctx) (side : Side) (r : Except Trap Ctx) : Except Trap Ctx :=
  if (m.job x.job).codeLen ≤ x.th.pc.toNat then .error { code := 0x01, value := x.th.pc.zeroExtend 64 }
  else if reservedWord (m.codeWord x) || side == .scOnly then .error illegal
  else
    match r with
    | .error tr => if tr.code = 0x01 ∨ tr.code = 0x02 ∨ x.count < m.budget x.job then .error tr
      else .error { code := 0x03, reason := 1 }
    | .ok y => if m.budget x.job ≤ x.count then .error { code := 0x03, reason := 1 } else .ok y

/-- Issue an instruction whose effect lies in one context of a PE; where the context is not the one that issues, nothing issues. Lost code faults the job. -/
def Mach.issuePe (m : Mach) (p : PeId) (c : BitVec 4) (waits : BitVec 16) (side : Side) (f : Ctx → Except Trap Ctx) : Mach :=
  match m.turn p c waits with
  | none => m
  | some x =>
    match m.fetchCode p x with
    | none => m
    | some (true, m) => m
    | some (false, m) =>
      match m.peIssue x side (f x) with
      | .error tr => m.firingTrap p c x tr
      | .ok y => m.ctxDone p c y

/-- Issue an instruction whose effect lies in one service core; a core that is not running issues nothing, and one whose word is lost takes MEM_DATA. -/
def Mach.issueSc (m : Mach) (c : BitVec 4) (side : Side) (priv : Bool) (f : Core → Except Trap Core) : Mach :=
  let x := m.core c
  if !coreLive x then m
  else
    let (lost, m) := m.fetchLocal c
    if lost then m.coreTrap c { code := 0x09, value := x.th.pc.zeroExtend 64 }
    else
      match m.scBlock c side priv with
      | some tr => m.coreTrap c tr
      | none =>
        match f x with
        | .error tr => m.coreTrap c tr
        | .ok x' => m.coreDone c x'

/-- The context that is the one to issue fails the parity check of what its instruction reads: the job of the firing faults (R444); the entry of the log gives its node and tag. -/
def Mach.ctxParity (m : Mach) (p : PeId) (c : BitVec 4) (waits : BitVec 16) : Mach :=
  match m.turn p c waits with
  | none => m
  | some x => m.parityFault p .bad x.job (firingWords m.number p x.node x.tag)

/-- Issue an instruction that acts on the registers of its executor alone. -/
def Mach.issue (m : Mach) (x : Exec) (side : Side) (f : Thread → Except Trap Thread) : Mach :=
  match x with
  | .pe p c ws => m.issuePe p c ws side (fun y => (f y.th).map (fun t => { y with th := t }))
  | .parity p c ws => m.ctxParity p c ws
  | .core c => m.issueSc c side false (fun y => (f y.th).map (fun t => { y with th := t }))

/-- Issue an instruction that computes one register and cannot trap (R103). -/
def Mach.issueReg (m : Mach) (x : Exec) (rd : BitVec 5) (f : Thread → Word) : Mach :=
  m.issue x .both (fun t => .ok (t.put rd (f t)).next)

/-- The words that follow a taken branch in sequence and lie in the job's code segment or the core's local memory: the others are dropped (R112). -/
def pastWords (limit : Nat) (pc : BitVec 32) : Nat :=
  ((List.range 2).filter (fun k => decide (pc.toNat + 4 * k + 8 ≤ limit))).length

/-- After a taken branch at pc: the words past it that were read and discarded are counted, of those that lie in executable memory a free number, as the fetches that would miss the cache were dropped (R112). -/
def Mach.fetchedPast (m : Mach) (x : Exec) (pc : BitVec 32) : Mach :=
  let draw := Config.fetchPast m.free
  let m := { m with free := m.free + 1 }
  match x with
  | .pe p c _ =>
    let limit := ((SMap.get? (m.pe p).ctxs c.toNat).map (fun y => (m.job y.job).codeLen)).getD 0
    m.count 0x4410 0x04 (draw % (pastWords limit pc + 1))
  | .parity _ _ _ => m
  | .core c => let y := m.core c; m.setCore c { y with fetchPast := y.fetchPast + draw % (pastWords localSize pc + 1) }

/-- Whether an executor holds a firing that is the one to issue, or is a running core. -/
def Mach.canIssue (m : Mach) (x : Exec) : Bool :=
  match x with
  | .pe p c ws => (m.turn p c ws).isSome
  | .parity _ _ _ => false
  | .core c => coreLive (m.core c)

/-- Whether nothing of R119 stops an instruction legal on both sides on an executor whose turn it is. -/
def Mach.unblocked (m : Mach) (x : Exec) : Bool :=
  match x with
  | .pe p c ws => (m.turn p c ws).any (fun y => (m.peBlock y .both).isNone)
  | .parity _ _ _ => false
  | .core c => coreLive (m.core c) && (m.scBlock c .both false).isNone

/-- Whether an instruction legal on both sides issues on an executor at once: it is the executor's turn, its word reads without error, and nothing of R119 stops it first. -/
def Mach.issues (m : Mach) (x : Exec) : Bool := m.fetchClean x && m.unblocked x

/-- The thread of an executor. -/
def Mach.thread (m : Mach) (x : Exec) : Thread :=
  match x with
  | .pe p c _ => match SMap.get? (m.pe p).ctxs c.toNat with
    | some y => y.th
    | none => {}
  | .parity _ _ _ => {}
  | .core c => (m.core c).th

/-- The outcome of a command. -/
abbrev Res := Host.Outcome State Fault Refusal

/-- A command whose effect lies in the module alone: the next state holds the module changed and the queue as it is. -/
def State.on (s : State) (f : Mach → Mach) : Res := .next { s with m := f s.m }

/-! Numbers past the last unit of their kind: the spec has no such unit and states no result, and which unit a command that names one acts on is a free value (log entry 3). -/

/-- The stop a command names. -/
def theStop (s : BitVec 5) : BitVec 5 := if stopOk s then s else BitVec.ofNat 5 (Config.unitNamed s.toNat % 18)
/-- The ring a command names. -/
def theRing (r : BitVec 4) : BitVec 4 := if ringOk r then r else BitVec.ofNat 4 (Config.unitNamed r.toNat % 12)
/-- The Foxglove link a command names. -/
def theFoxglove (l : BitVec 4) : BitVec 4 := if foxgloveOk l then l else BitVec.ofNat 4 (Config.unitNamed l.toNat % 12)
/-- The entry of a routing table a command names. -/
def theRoute (d : BitVec 5) : BitVec 5 := if routeOk d then d else BitVec.ofNat 5 (Config.unitNamed d.toNat % 19)
/-- The PCIe function a command names. -/
def theFn (fn : BitVec 4) : BitVec 4 := if fnOk fn then fn else BitVec.ofNat 4 (Config.unitNamed fn.toNat % 9)
/-- The main rail a command names. -/
def theRail (k : Byte) : Nat := if k.toNat < 10 then k.toNat else Config.unitNamed k.toNat % 10
/-- The rate and the width a command names, of those the PCIe link has. -/
def theRate (r : BitVec 3) : BitVec 3 := if rateOk r then r else BitVec.ofNat 3 (1 + Config.unitNamed r.toNat % 6)
def theWidth (w : BitVec 5) : BitVec 5 := if widthOk w then w else BitVec.ofNat 5 (2 ^ (Config.unitNamed w.toNat % 5))

end Sys2Proof.Machine

namespace Sys2Proof

/-- The end point, the access path and the path of a register access a command names. -/
def EndPoint.the : EndPoint → EndPoint
  | .stop die s => .stop die (Machine.theStop s)
  | .hub die br => .hub die br
def Path.the : Path → Path
  | .mbx fn => .mbx (Machine.theFn fn)
  | p => p
def RegPath.the : RegPath → RegPath
  | .bar0 fn => .bar0 (Machine.theFn fn)
  | .bar0Read fn => .bar0Read (Machine.theFn fn)
  | .bar0Narrow fn => .bar0Narrow (Machine.theFn fn)
  | .switch c die stop => .switch c die (Machine.theStop stop)
  | p => p

end Sys2Proof
end

