-- ==== Sys2Proof/Machine/Alu.lean ====
section
/-! DEFINITION. Integer and bit instructions (R103 to R106, R128 to R131): one meaning for each. -/

namespace Sys2Proof.Machine

/-! Values -/

/-- Logical left shift by the whole count; 64 or more gives 0 (R104). -/
def sll (a n : Word) : Word := if 64 ≤ n.toNat then 0 else a <<< n.toNat
/-- Logical right shift by the whole count; 64 or more gives 0 (R104). -/
def srl (a n : Word) : Word := if 64 ≤ n.toNat then 0 else a >>> n.toNat
/-- Arithmetic right shift by the whole count; 64 or more gives 64 copies of bit 63 (R104). -/
def sra (a n : Word) : Word := if 64 ≤ n.toNat then (if a.msb then BitVec.allOnes 64 else 0) else a.sshiftRight n.toNat
/-- Rotate left by the count modulo 64 (R131). -/
def rol (a n : Word) : Word := a.rotateLeft (n.toNat % 64)
/-- Rotate right by the count modulo 64 (R131). -/
def ror (a n : Word) : Word := a.rotateRight (n.toNat % 64)
/-- A truth value as a register. -/
def flag (b : Bool) : Word := if b then 1 else 0
/-- High 64 bits of the exact signed product (R128). -/
def mulh (a b : Word) : Word := BitVec.ofInt 64 (a.toInt * b.toInt / 2 ^ 64)
/-- High 64 bits of the exact unsigned product (R128). -/
def mulhu (a b : Word) : Word := BitVec.ofNat 64 (a.toNat * b.toNat / 2 ^ 64)
/-- Number of 1 bits (R131). -/
def popc (a : Word) : Word := BitVec.ofNat 64 ((List.range 64).filter (fun i => a.getLsbD i)).length
/-- Leading zeros, 64 for 0 (R131). -/
def clz (a : Word) : Word := BitVec.ofNat 64 (((List.range 64).find? (fun i => a.getLsbD (63 - i))).getD 64)
/-- Trailing zeros, 64 for 0 (R131). -/
def ctz (a : Word) : Word := BitVec.ofNat 64 (((List.range 64).find? (fun i => a.getLsbD i)).getD 64)
/-- A word from its bits. -/
def ofBits64 (f : Nat → Bool) : Word := BitVec.ofNat 64 ((List.range 64).foldl (fun n i => if f i then n + 2 ^ i else n) 0)
/-- Bit order reversed (R131). -/
def brev (a : Word) : Word := ofBits64 (fun i => a.getLsbD (63 - i))
/-- Byte order reversed (R131). -/
def bswap (a : Word) : Word := BitVec.ofNat 64 (bytesNat (natBytes 8 a.toNat).reverse)
/-- The 1 positions of a mask, ascending. -/
def ones (m : Word) : List Nat := (List.range 64).filter (fun i => m.getLsbD i)
/-- Bits of a at the 1 positions of the mask, packed into the low bits (R131). -/
def bext (a m : Word) : Word :=
  BitVec.ofNat 64 (((ones m).zipIdx).foldl (fun n (i, j) => if a.getLsbD i then n + 2 ^ j else n) 0)
/-- Low bits of a, placed at the 1 positions of the mask (R131). -/
def bdep (a m : Word) : Word :=
  BitVec.ofNat 64 (((ones m).zipIdx).foldl (fun n (i, j) => if a.getLsbD j then n + 2 ^ i else n) 0)
/-- The ternary operation: bit i is bit 4 a[i] + 2 b[i] + c[i] of the table (R105). -/
def lut3 (a b c : Word) (tt : BitVec 8) : Word :=
  ofBits64 (fun i => tt.getLsbD (4 * b2n (a.getLsbD i) + 2 * b2n (b.getLsbD i) + b2n (c.getLsbD i)))
/-- The division time of two magnitudes in cycles (R129). -/
def divTime (a b : Nat) : Nat :=
  if a = 0 then 3 else 3 + ((a.log2 + 1 - b.log2) + 1) / 2

/-- The DIV_ZERO trap (R106). -/
def divZero : Trap := { code := 0x07 }

/-- Issue a division: DIV_ZERO when the divisor is 0, and nothing written (R106). -/
def Mach.issueDiv (m : Mach) (x : Exec) (rd ra rb : BitVec 5) (f : Word → Word → Word) : Mach :=
  m.issue x .both (fun t => if t.get rb = 0 then .error divZero else .ok (t.put rd (f (t.get ra) (t.get rb))).next)

/-! Meanings -/

/-- ADD: rd := ra + rb (Table 5-4, R128). -/
def execAdd (x : Exec) (rd ra rb : BitVec 5) (s : State) : Res :=
  s.on (fun m => m.issueReg x rd (fun t => t.get ra + t.get rb))

/-- SUB: rd := ra - rb (Table 5-4, R128). -/
def execSub (x : Exec) (rd ra rb : BitVec 5) (s : State) : Res :=
  s.on (fun m => m.issueReg x rd (fun t => t.get ra - t.get rb))

/-- AND: rd := ra and rb (Table 5-4, R128). -/
def execAnd (x : Exec) (rd ra rb : BitVec 5) (s : State) : Res :=
  s.on (fun m => m.issueReg x rd (fun t => t.get ra &&& t.get rb))

/-- OR: rd := ra or rb (Table 5-4, R128). -/
def execOr (x : Exec) (rd ra rb : BitVec 5) (s : State) : Res :=
  s.on (fun m => m.issueReg x rd (fun t => t.get ra ||| t.get rb))

/-- XOR: rd := ra xor rb (Table 5-4, R128). -/
def execXor (x : Exec) (rd ra rb : BitVec 5) (s : State) : Res :=
  s.on (fun m => m.issueReg x rd (fun t => t.get ra ^^^ t.get rb))

/-- ANDN: rd := ra and not rb (Table 5-4, R128). -/
def execAndn (x : Exec) (rd ra rb : BitVec 5) (s : State) : Res :=
  s.on (fun m => m.issueReg x rd (fun t => t.get ra &&& ~~~(t.get rb)))

/-- ORN: rd := ra or not rb (Table 5-4, R128). -/
def execOrn (x : Exec) (rd ra rb : BitVec 5) (s : State) : Res :=
  s.on (fun m => m.issueReg x rd (fun t => t.get ra ||| ~~~(t.get rb)))

/-- XNOR: rd := not (ra xor rb) (Table 5-4, R128). -/
def execXnor (x : Exec) (rd ra rb : BitVec 5) (s : State) : Res :=
  s.on (fun m => m.issueReg x rd (fun t => ~~~(t.get ra ^^^ t.get rb)))

/-- SLL: logical left shift (Table 5-4, R128). -/
def execSll (x : Exec) (rd ra rb : BitVec 5) (s : State) : Res :=
  s.on (fun m => m.issueReg x rd (fun t => sll (t.get ra) (t.get rb)))

/-- SRL: logical right shift (Table 5-4, R128). -/
def execSrl (x : Exec) (rd ra rb : BitVec 5) (s : State) : Res :=
  s.on (fun m => m.issueReg x rd (fun t => srl (t.get ra) (t.get rb)))

/-- SRA: arithmetic right shift (Table 5-4, R128). -/
def execSra (x : Exec) (rd ra rb : BitVec 5) (s : State) : Res :=
  s.on (fun m => m.issueReg x rd (fun t => sra (t.get ra) (t.get rb)))

/-- ROL: rotate left (Table 5-4, R128). -/
def execRol (x : Exec) (rd ra rb : BitVec 5) (s : State) : Res :=
  s.on (fun m => m.issueReg x rd (fun t => rol (t.get ra) (t.get rb)))

/-- ROR: rotate right (Table 5-4, R128). -/
def execRor (x : Exec) (rd ra rb : BitVec 5) (s : State) : Res :=
  s.on (fun m => m.issueReg x rd (fun t => ror (t.get ra) (t.get rb)))

/-- SLT: signed less-than (Table 5-4, R128). -/
def execSlt (x : Exec) (rd ra rb : BitVec 5) (s : State) : Res :=
  s.on (fun m => m.issueReg x rd (fun t => flag ((t.get ra).slt (t.get rb))))

/-- SLTU: unsigned less-than (Table 5-4, R128). -/
def execSltu (x : Exec) (rd ra rb : BitVec 5) (s : State) : Res :=
  s.on (fun m => m.issueReg x rd (fun t => flag ((t.get ra).ult (t.get rb))))

/-- MIN: signed minimum (Table 5-4, R128). -/
def execMin (x : Exec) (rd ra rb : BitVec 5) (s : State) : Res :=
  s.on (fun m => m.issueReg x rd (fun t => if (t.get rb).slt (t.get ra) then t.get rb else t.get ra))

/-- MAX: signed maximum (Table 5-4, R128). -/
def execMax (x : Exec) (rd ra rb : BitVec 5) (s : State) : Res :=
  s.on (fun m => m.issueReg x rd (fun t => if (t.get ra).slt (t.get rb) then t.get rb else t.get ra))

/-- MINU: unsigned minimum (Table 5-4, R128). -/
def execMinu (x : Exec) (rd ra rb : BitVec 5) (s : State) : Res :=
  s.on (fun m => m.issueReg x rd (fun t => if (t.get rb).ult (t.get ra) then t.get rb else t.get ra))

/-- MAXU: unsigned maximum (Table 5-4, R128). -/
def execMaxu (x : Exec) (rd ra rb : BitVec 5) (s : State) : Res :=
  s.on (fun m => m.issueReg x rd (fun t => if (t.get ra).ult (t.get rb) then t.get rb else t.get ra))

/-- MUL: low 64 bits of the product (Table 5-4, R128). -/
def execMul (x : Exec) (rd ra rb : BitVec 5) (s : State) : Res :=
  s.on (fun m => m.issueReg x rd (fun t => t.get ra * t.get rb))

/-- MULH: high 64 bits of the signed product (Table 5-4, R128). -/
def execMulh (x : Exec) (rd ra rb : BitVec 5) (s : State) : Res :=
  s.on (fun m => m.issueReg x rd (fun t => mulh (t.get ra) (t.get rb)))

/-- MULHU: high 64 bits of the unsigned product (Table 5-4, R128). -/
def execMulhu (x : Exec) (rd ra rb : BitVec 5) (s : State) : Res :=
  s.on (fun m => m.issueReg x rd (fun t => mulhu (t.get ra) (t.get rb)))

/-- DIV (Table 5-4, R106, R128). -/
def execDiv (x : Exec) (rd ra rb : BitVec 5) (s : State) : Res :=
  s.on (fun m => m.issueDiv x rd ra rb BitVec.sdiv)

/-- DIVU (Table 5-4, R106, R128). -/
def execDivu (x : Exec) (rd ra rb : BitVec 5) (s : State) : Res :=
  s.on (fun m => m.issueDiv x rd ra rb BitVec.udiv)

/-- REM (Table 5-4, R106, R128). -/
def execRem (x : Exec) (rd ra rb : BitVec 5) (s : State) : Res :=
  s.on (fun m => m.issueDiv x rd ra rb BitVec.srem)

/-- REMU (Table 5-4, R106, R128). -/
def execRemu (x : Exec) (rd ra rb : BitVec 5) (s : State) : Res :=
  s.on (fun m => m.issueDiv x rd ra rb BitVec.umod)

/-- POPC (Table 5-4, R131). -/
def execPopc (x : Exec) (rd ra : BitVec 5) (s : State) : Res :=
  s.on (fun m => m.issueReg x rd (fun t => popc (t.get ra)))

/-- CLZ (Table 5-4, R131). -/
def execClz (x : Exec) (rd ra : BitVec 5) (s : State) : Res :=
  s.on (fun m => m.issueReg x rd (fun t => clz (t.get ra)))

/-- CTZ (Table 5-4, R131). -/
def execCtz (x : Exec) (rd ra : BitVec 5) (s : State) : Res :=
  s.on (fun m => m.issueReg x rd (fun t => ctz (t.get ra)))

/-- BEXT: bits of ra under rb packed (Table 5-4, R128). -/
def execBext (x : Exec) (rd ra rb : BitVec 5) (s : State) : Res :=
  s.on (fun m => m.issueReg x rd (fun t => bext (t.get ra) (t.get rb)))

/-- BDEP: low bits of ra placed under rb (Table 5-4, R128). -/
def execBdep (x : Exec) (rd ra rb : BitVec 5) (s : State) : Res :=
  s.on (fun m => m.issueReg x rd (fun t => bdep (t.get ra) (t.get rb)))

/-- BREV (Table 5-4, R131). -/
def execBrev (x : Exec) (rd ra : BitVec 5) (s : State) : Res :=
  s.on (fun m => m.issueReg x rd (fun t => brev (t.get ra)))

/-- BSWAP (Table 5-4, R131). -/
def execBswap (x : Exec) (rd ra : BitVec 5) (s : State) : Res :=
  s.on (fun m => m.issueReg x rd (fun t => bswap (t.get ra)))

/-- ADDI (Table 5-3). -/
def execAddi (x : Exec) (rd ra : BitVec 5) (imm : BitVec 16) (s : State) : Res :=
  s.on (fun m => m.issueReg x rd (fun t => t.get ra + sext16 imm))

/-- ANDI (Table 5-3). -/
def execAndi (x : Exec) (rd ra : BitVec 5) (imm : BitVec 16) (s : State) : Res :=
  s.on (fun m => m.issueReg x rd (fun t => t.get ra &&& zext16 imm))

/-- ORI (Table 5-3). -/
def execOri (x : Exec) (rd ra : BitVec 5) (imm : BitVec 16) (s : State) : Res :=
  s.on (fun m => m.issueReg x rd (fun t => t.get ra ||| zext16 imm))

/-- XORI (Table 5-3). -/
def execXori (x : Exec) (rd ra : BitVec 5) (imm : BitVec 16) (s : State) : Res :=
  s.on (fun m => m.issueReg x rd (fun t => t.get ra ^^^ zext16 imm))

/-- SLTI (Table 5-3). -/
def execSlti (x : Exec) (rd ra : BitVec 5) (imm : BitVec 16) (s : State) : Res :=
  s.on (fun m => m.issueReg x rd (fun t => flag ((t.get ra).slt (sext16 imm))))

/-- SLTIU (Table 5-3). -/
def execSltiu (x : Exec) (rd ra : BitVec 5) (imm : BitVec 16) (s : State) : Res :=
  s.on (fun m => m.issueReg x rd (fun t => flag ((t.get ra).ult (sext16 imm))))

/-- SHI_SLL: shift or rotate by an immediate count (Table 5-3, R104). -/
def execShiSll (x : Exec) (rd ra : BitVec 5) (n : BitVec 6) (s : State) : Res :=
  s.on (fun m => m.issueReg x rd (fun t => sll (t.get ra) (n.zeroExtend 64)))

/-- SHI_SRL: shift or rotate by an immediate count (Table 5-3, R104). -/
def execShiSrl (x : Exec) (rd ra : BitVec 5) (n : BitVec 6) (s : State) : Res :=
  s.on (fun m => m.issueReg x rd (fun t => srl (t.get ra) (n.zeroExtend 64)))

/-- SHI_SRA: shift or rotate by an immediate count (Table 5-3, R104). -/
def execShiSra (x : Exec) (rd ra : BitVec 5) (n : BitVec 6) (s : State) : Res :=
  s.on (fun m => m.issueReg x rd (fun t => sra (t.get ra) (n.zeroExtend 64)))

/-- SHI_ROL: shift or rotate by an immediate count (Table 5-3, R104). -/
def execShiRol (x : Exec) (rd ra : BitVec 5) (n : BitVec 6) (s : State) : Res :=
  s.on (fun m => m.issueReg x rd (fun t => rol (t.get ra) (n.zeroExtend 64)))

/-- SHI_ROR: shift or rotate by an immediate count (Table 5-3, R104). -/
def execShiRor (x : Exec) (rd ra : BitVec 5) (n : BitVec 6) (s : State) : Res :=
  s.on (fun m => m.issueReg x rd (fun t => ror (t.get ra) (n.zeroExtend 64)))

/-- LUI: rd := sext(IMM16) << 16 (Table 5-3). -/
def execLui (x : Exec) (rd : BitVec 5) (imm : BitVec 16) (s : State) : Res :=
  s.on (fun m => m.issueReg x rd (fun _ => sext16 imm <<< 16))

/-- LUT3: the bitwise ternary operation of rd before the instruction, ra and rb (R105). -/
def execLut3 (x : Exec) (rd ra rb : BitVec 5) (tt : BitVec 8) (s : State) : Res :=
  s.on (fun m => m.issueReg x rd (fun t => lut3 (t.get ra) (t.get rb) (t.get rd) tt))

end Sys2Proof.Machine
end

