-- ==== Sys2Proof/Machine/Branch.lean ====
section
/-! DEFINITION. Branches and jumps (R110 to R112, Table 5-9): one meaning for each. -/

namespace Sys2Proof.Machine

/-- Issue a branch or jump; when it is taken without a trap, the words past it are fetched and discarded (R112). -/
def Mach.issueTaken (m : Mach) (x : Exec) (taken : Thread → Bool) (f : Thread → Except Trap Thread) : Mach :=
  let pc := (m.thread x).pc
  let ok := m.fetchGood x && m.unblocked x && taken (m.thread x) && (match f (m.thread x) with
    | .ok _ => true
    | .error _ => false)
  let m := m.issue x .both f
  if ok then m.fetchedPast x pc else m

/-- Issue a conditional branch: taken, it goes to pc + 4 sext(OFF13), and not taken to the next instruction (R110, R111). -/
def Mach.issueBr (m : Mach) (x : Exec) (ra rb : BitVec 5) (off : BitVec 13) (c : Word → Word → Bool) : Mach :=
  m.issueTaken x (fun t => c (t.get ra) (t.get rb))
    (fun t => if c (t.get ra) (t.get rb) then t.branchTo off.toInt else .ok t.next)

/-- BEQ: branch when ra = rb. -/
def execBeq (x : Exec) (ra rb : BitVec 5) (off : BitVec 13) (s : State) : Res :=
  s.on (fun m => m.issueBr x ra rb off (fun a b => a == b))
/-- BNE: branch when ra ≠ rb. -/
def execBne (x : Exec) (ra rb : BitVec 5) (off : BitVec 13) (s : State) : Res :=
  s.on (fun m => m.issueBr x ra rb off (fun a b => a != b))
/-- BLT: branch when ra is below rb, signed. -/
def execBlt (x : Exec) (ra rb : BitVec 5) (off : BitVec 13) (s : State) : Res :=
  s.on (fun m => m.issueBr x ra rb off (fun a b => decide (a.toInt < b.toInt)))
/-- BGE: branch when ra is at or above rb, signed. -/
def execBge (x : Exec) (ra rb : BitVec 5) (off : BitVec 13) (s : State) : Res :=
  s.on (fun m => m.issueBr x ra rb off (fun a b => decide (b.toInt ≤ a.toInt)))
/-- BLTU: branch when ra is below rb, unsigned. -/
def execBltu (x : Exec) (ra rb : BitVec 5) (off : BitVec 13) (s : State) : Res :=
  s.on (fun m => m.issueBr x ra rb off (fun a b => decide (a.toNat < b.toNat)))
/-- BGEU: branch when ra is at or above rb, unsigned. -/
def execBgeu (x : Exec) (ra rb : BitVec 5) (off : BitVec 13) (s : State) : Res :=
  s.on (fun m => m.issueBr x ra rb off (fun a b => decide (b.toNat ≤ a.toNat)))
/-- BSET: branch when ra and rb share a 1 bit. -/
def execBset (x : Exec) (ra rb : BitVec 5) (off : BitVec 13) (s : State) : Res :=
  s.on (fun m => m.issueBr x ra rb off (fun a b => (a &&& b) != 0))
/-- BCLR: branch when ra and rb share no 1 bit. -/
def execBclr (x : Exec) (ra rb : BitVec 5) (off : BitVec 13) (s : State) : Res :=
  s.on (fun m => m.issueBr x ra rb off (fun a b => (a &&& b) == 0))

/-- The address of the next instruction, as a link value. -/
def Thread.link (t : Thread) : Word := (t.pc + 4).zeroExtend 64

/-- JAL: rd := pc + 4 and a jump by 4 sext(OFF21); a trap writes no register (R110). -/
def execJal (x : Exec) (rd : BitVec 5) (off : BitVec 21) (s : State) : Res :=
  s.on (fun m => m.issueTaken x (fun _ => true) (fun t => (t.branchTo off.toInt).map (fun u => u.put rd t.link)))

/-- JALR: rd := pc + 4 and a jump to ra + sext(IMM16), ra read first; the target is an exact integer (R110). -/
def execJalr (x : Exec) (rd ra : BitVec 5) (imm : BitVec 16) (s : State) : Res :=
  s.on (fun m => m.issueTaken x (fun _ => true)
    (fun t => (t.goto (Int.ofNat (t.get ra).toNat + imm.toInt)).map (fun u => u.put rd t.link)))

end Sys2Proof.Machine
end

