-- ==== Sys2Proof/Machine/Emission.lean ====
section
/-! DEFINITION. The emission group: EMIT, EMITD, STATE and DONE (R43 to R47, R92, R115 to R117, R168, R169). -/

namespace Sys2Proof.Machine

/-- The target of an emission with an offset, by steps 1 to 5 of R43 with the checks of R44 and R45: the tag, whether step 5 changed it, and the EOFF code a summary slot holds for it (R168). -/
def emitTarget (g : Nat) (t : Tag) (o : Nat) : Except Trap (Tag × Bool × Option (BitVec 23)) :=
  let exact := t.time.toNat + o
  if g + 2 ^ 46 < exact then .error { code := 0x0A, value := BitVec.ofNat 64 o }
  else if o = 0 then
    if t.delta = 4095 then .error { code := 0x0B }
    else .ok (⟨t.time, t.delta + 1⟩, false, some 0)
  else
    let code := if o < 2 ^ 23 then some (BitVec.ofNat 23 o) else none
    if 2 ^ 64 ≤ exact then .ok (⟨BitVec.allOnes 64, 0⟩, true, code)
    else .ok (⟨BitVec.ofNat 64 exact, 0⟩, false, code)

/-- Append an emission record; MASK 0 appends nothing, and a seventeenth record overruns (R92, R115). -/
def Mach.emission (m : Mach) (x : Ctx) (o : Nat) (pv : BitVec 4) (t2 : Bool) (mask : BitVec 8) : Except Trap Ctx :=
  if mask = 0 then .ok { x with th := x.th.next }
  else if 16 ≤ x.emits.length then .error { code := 0x03, reason := 2 }
  else
    match emitTarget (m.job x.job).gvt.time.toNat x.tag o with
    | .error tr => .error tr
    | .ok (tg, sat, eoff) =>
      let (a, b) := x.th.pair pv
      let r : ERec := ⟨mask, tg, sat, a, if t2 then 0 else b, t2, eoff⟩
      .ok { x with th := x.th.next, emits := x.emits ++ [r] }

/-- Issue an instruction that only a firing may hold; on a service core it is ILLEGAL. -/
def Mach.issueFiring (m : Mach) (x : Exec) (f : Ctx → Except Trap Ctx) : Mach :=
  match x with
  | .pe p c ws => m.issuePe p c ws .peOnly f
  | .parity p c ws => m.ctxParity p c ws
  | .core c => m.issueSc c .peOnly false (fun _ => .error illegal)

/-- EMIT: an emission with the time offset in RO. -/
def execEmit (x : Exec) (pv : BitVec 4) (ro : BitVec 5) (t : Bool) (mask : BitVec 8) (s : State) : Res :=
  s.on (fun m => m.issueFiring x (fun y => m.emission y (y.th.get ro).toNat pv t mask))

/-- EMITD: an emission at the next delta. -/
def execEmitd (x : Exec) (pv : BitVec 4) (t : Bool) (mask : BitVec 8) (s : State) : Res :=
  s.on (fun m => m.issueFiring x (fun y => m.emission y 0 pv t mask))

/-- STATE: record g12 to g15 for the words SMASK names (R116). -/
def execState (x : Exec) (smask : BitVec 4) (s : State) : Res :=
  s.on (fun m => m.issueFiring x (fun y =>
    .ok { y with th := y.th.next,
                 stw := (Mach.swWords smask).foldl (fun w i => SMap.set w i (y.th.get (BitVec.ofNat 5 (12 + i)))) y.stw }))

/-- Whether a speculative firing's records fit in its summary slots (R168). -/
def summaryFits (l : List ERec) (jn : Nat) : Bool :=
  l.all (fun r => r.eoff.isSome) && decide ((eTargets l).length ≤ jn)

/-- Records in the Emit queue of a PE. -/
def Pe.emitRecs (p : Pe) : Nat := (p.emitQ.map (fun e => e.emits.length)).foldl (· + ·) 0

/-- Take a summary hold for a node and tag, when one of the tile's 16 is free (R169). -/
def Mach.takeHold (m : Mach) (t : TileId) (h : SumHold) : Mach :=
  m.modTile t (fun x => if x.holds.length < 16 ∧ ¬ h ∈ x.holds then { x with holds := x.holds ++ [h] } else x)

/-- DONE of a firing: it waits, counted in EMIT_STALLS, for room in the Emit queue for the whole list; a speculative firing whose records do not fit its summary slots is abandoned (R92, R116, R168). -/
def Mach.firingDone (m : Mach) (p : PeId) (c : BitVec 4) (waits : BitVec 16) : Mach :=
  match m.turn p c waits with
  | none => m
  | some x =>
    match m.fetchCode p x with
    | none => m
    | some (true, m) => m
    | some (false, m) =>
    match m.peBlock x .peOnly with
    | some tr => m.firingTrap p c x tr
    | none =>
      if 64 < (m.pe p).emitRecs + x.emits.length then m.count 0x4410 0x03
      else
        let r : NRef := ⟨x.job, p, x.node⟩
        let m := ((m.freeCtx p c).countJ 0x4400 x.job 0x0B).modPe p (fun y => { y with lastCtx := c })
        if !x.safe && !summaryFits x.emits (m.nJn r).toNat then
          ((m.takeHold (peTile p) ⟨x.job, mkNode m.number p x.node, x.tag.key⟩).abandonSpec r x.tag.key x.jents).countJ
            0x4600 x.job 0x06
        else
          let e : EmitJob := { kind := if x.kick then .kick else .firing, job := x.job, node := x.node, tag := x.tag, safe := x.safe, gen := x.gen,
                               arrived := x.arrived, emits := x.emits, stores := x.stores, stw := x.stw,
                               jents := x.jents, arcs := 0 }
          m.modPe p (fun y => { y with emitQ := y.emitQ ++ [e] })

/-- DONE: the end of a firing. -/
def execDone (x : Exec) (s : State) : Res :=
  s.on (fun m => match x with
    | .pe p c ws => m.firingDone p c ws
    | .parity p c ws => m.ctxParity p c ws
    | .core c => m.issueSc c .peOnly false (fun _ => .error illegal))

end Sys2Proof.Machine
end

