-- ==== Sys2Proof/Machine/Match.lean ====
section
/-! DEFINITION. Receive, Match and Gather: arrivals, the miss buffer, deep match, arming and presentation (R38, R39, R50 to R71, R76 to R81, R86, R87). -/

namespace Sys2Proof.Machine

namespace Mach

/-! Room (R56 to R60) -/

/-- The PE of the tile or cluster an entry belongs to. -/
def entPe (p : PeId) (e : Entry) : PeId := (peTile p) ++ e.locPe

/-- Whether a group consists only of anti-token entries. -/
def antiOnly (m : Mach) (p : PeId) (pl : Place) (g : GRef) : Bool :=
  (m.ents p pl g).all (fun e => e.2.kind == 1)

/-- The group of highest rank among heads, equal ranks to the lower job and then the lowest index. -/
def topRank (m : Mach) (l : List (Nat × Entry)) : Option (Nat × Entry) :=
  leastBy (fun x y =>
    let rx := m.rank x.2.job x.2.key
    let ry := m.rank y.2.job y.2.key
    decide (ry < rx) || (rx == ry && (decide (x.2.job.toNat < y.2.job.toNat)
      || (x.2.job == y.2.job && decide (x.1 < y.1))))) l

/-- Which group makes room in a set for an arriving tag, and whether by step 1 of R56, by which it moves as it stands; from a MOB set a group of anti-tokens moves only when it is WAITING (R59). -/
def victim (m : Mach) (p : PeId) (pl : Place) (set : List (Nat × Entry)) (j : JobId) (k : Key) : Option (Entry × Bool) :=
  let later := (heads set).filter (fun e => decide (m.rank j k < m.rank e.2.job e.2.key))
  let s1 := later.filter (fun e => e.2.gstate == .waiting || (pl == .iris && m.antiOnly (entPe p e.2) pl e.2.ref))
  let s2 := later.filter (fun e => e.2.gstate == .presented)
  let s3 := later.filter (fun e => e.2.gstate == .fired)
  match m.topRank s1, m.topRank s2, m.topRank s3 with
  | some e, _, _ => some (e.2, true)
  | none, some e, _ => some (e.2, false)
  | none, none, some e => some (e.2, false)
  | none, none, none => none

/-- Match of PE w rolls back the node of a FIRED group that must leave its place (R56, step 3). -/
def spaceRollback (m : Mach) (p w : PeId) (g : GRef) : Mach :=
  (m.countJ 0x4300 g.job 0x07).requestRb (g.nref p) g.key false (.matching w)

/-- Bring a group that must leave its place to WAITING: a PRESENTED one is withdrawn, a FIRED one has its node rolled back (R56). -/
def settleForMove (m : Mach) (p w : PeId) (pl : Place) (g : GRef) : Mach :=
  match m.headOf p pl g with
  | some (_, h) =>
    match h.gstate with
    | .presented => m.withdraw p pl g
    | .fired => (m.spaceRollback p w g).setGState p pl g .waiting
    | _ => m
  | none => m

/-- Move a group, given by its entries, from the MOB level to deep match: into the tile's write-behind queue (R59, R60). A FIRED group in hand has its node rolled back and goes there in WAITING. A group that arrives at a full MOB set in ARMING goes on in ARMING (log entry 77). -/
def toDeep (m : Mach) (p w : PeId) (g : GRef) (es : List Entry) : Mach :=
  let fired := es.any (fun e => e.head && e.gstate == .fired)
  let m := if fired then m.spaceRollback p w g else m
  let es := if fired then es.map (fun e => if e.head then { e with gstate := .waiting } else e) else es
  let m := m.modTile (peTile p) (fun t => { t with deepQ := t.deepQ ++ [es] })
  ((m.countJ 0x4300 g.job 0x04).ovfInc p .deep g).hregAdd p .deep g

/-- Entries of a MOB set. -/
def mobSet (m : Mach) (p : PeId) (ms : Nat) : List (Nat × Entry) :=
  (m.cluster (peCluster p)).mob.filter (fun e => e.1 / 8 = ms)

/-- The unit of a cluster's MOB in a location code (Table 11-6). -/
def mobUnit (p : PeId) : Nat := bits (peCluster p) 3 0 * 8

/-- Before a group moves into a MOB, its set there is read, and what leaves it is read with it (R59, R237). -/
def mobRead (m : Mach) (p : PeId) (g : GRef) : Mach :=
  let (_, _, ms, _) := g.hash p
  m.sramTouch (peTile p) 3 (mobUnit p) (fun w => decide (w / 32 = ms))

/-- Match reads both candidate sets of a group in Iris (R54, R237). -/
def irisRead (m : Mach) (p : PeId) (g : GRef) : Mach :=
  let (h0, h1, _, _) := g.hash p
  m.sramTouch (peTile p) 0 (p.toNat % 128) (fun w => decide (w / 32 = h0 ∨ w / 32 = 64 + h1))

/-- Gather or Ready reads the entries of a group above deep match: whether one is lost, which frees it and faults its job (R237, Table 11-4). -/
def groupRead (m : Mach) (p : PeId) (g : GRef) : Bool × Mach :=
  if m.ms.sramFlaw = [] then (false, m)
  else
    match m.findGroup p g with
    | none | some .deep => (false, m)
    | some pl =>
      let es := m.ents p pl g
      let mine := fun w => es.any (fun e => w / 4 == e.1)
      let m' := if pl = .iris then m.sramTouch (peTile p) 0 (p.toNat % 128) mine else m.sramTouch (peTile p) 3 (mobUnit p) mine
      (m'.ents p pl g != es || !m'.live g.job, m')

/-- Make n ways of a MOB set free for an arriving tag, by R59; false when the arriving group itself must move on. -/
def mobRoom (m : Mach) (p : PeId) (ms n : Nat) (j : JobId) (k : Key) : Nat → Mach × Bool
  | 0 => (m, false)
  | fuel + 1 =>
    let set := m.mobSet p ms
    if set.length + n ≤ 8 then (m, true)
    else
      match m.victim p .mob set j k with
      | none => (m, false)
      | some (h, _) =>
        let vp := entPe p h
        let g := h.ref
        let m := m.settleForMove vp p .mob g
        let es := (m.ents vp .mob g)
        let m := es.foldl (fun m e => m.dropEnt vp .mob e.1) m
        let m := ((m.hregRemove vp .mob g).toDeep vp p g (es.map (·.2))).evalReady vp g
        mobRoom m p ms n j k fuel

/-- Put entries into the free ways of a MOB set. -/
def mobPut (m : Mach) (p : PeId) (ms : Nat) : List Entry → Mach
  | [] => m
  | e :: r =>
    match (List.range 8).find? (fun w => (SMap.get? (m.cluster (peCluster p)).mob (ms * 8 + w)).isNone) with
    | some w => mobPut (m.putEnt p .mob (ms * 8 + w) e) p ms r
    | none => m

/-- Move a group, given by its entries, from Iris to the MOB, or beyond it to deep match (R56, R59); a FIRED group is no term of the registers of its level (R186). -/
def toMob (m : Mach) (p : PeId) (g : GRef) (es : List Entry) : Mach :=
  let (_, _, ms, _) := g.hash p
  let m := (m.countJ 0x4300 g.job 0x03).ovfInc p .mob g
  let (m, ok) := m.mobRoom p ms es.length g.job g.key 9
  if !ok then m.toDeep p p g es
  else
    let m := m.mobPut p ms es
    if es.any (fun e => e.head && e.gstate == .fired) then m else m.hregAdd p .mob g

/-- Move a group out of Iris, with entries that join it: by step 1 of R56 as it stands, else brought to WAITING first. Back in WAITING at its new level, it is presented again if it is ready (R56, R64). Where the read of the MOB set ends its job, what would have joined it is absorbed (R39). -/
def irisDown (m : Mach) (p : PeId) (g : GRef) (asIs : Bool) (extra : List Entry) : Mach :=
  let m := m.mobRead p g
  if !m.live g.job then m.absorbCount g.job extra.length
  else
    let fired := match m.headOf p .iris g with
      | some (_, h) => h.gstate == .fired
      | none => false
    let m := if asIs && fired then m else m.settleForMove p p .iris g
    let es := m.ents p .iris g
    let m := es.foldl (fun m e => m.dropEnt p .iris e.1) m
    (m.toMob p g (es.map (·.2) ++ extra)).evalReady p g

/-- Free ways of an Iris set, lowest first; the set is given by the index of its way 0. Which free way an entry takes the spec leaves open: it takes the lowest (the model's choice, log entry 77). -/
def irisFree (m : Mach) (p : PeId) (base : Nat) : List Nat :=
  ((List.range 8).map (base + ·)).filter (fun i => (SMap.get? (m.pe p).iris i).isNone)

/-- Entries of an Iris set. -/
def irisSet (m : Mach) (p : PeId) (base : Nat) : List (Nat × Entry) :=
  (m.pe p).iris.filter (fun e => e.1 / 8 = base / 8)

/-- Add an entry to an existing group at its level, making room by R56 or R59; where a read made for that ends its job, the entry is absorbed (R39). -/
def addEnt (m : Mach) (p : PeId) (pl : Place) (g : GRef) (e : Entry) : Mach :=
  match pl with
  | .iris =>
    match m.headOf p .iris g with
    | none => m
    | some (hi, _) =>
      let base := hi / 8 * 8
      match m.irisFree p base with
      | w :: _ => m.putEnt p .iris w e
      | [] =>
        match m.victim p .iris (m.irisSet p base) g.job g.key with
        | some (h, asIs) =>
          let m := m.irisDown p h.ref asIs []
          if !m.live g.job then m.absorbCount g.job 1
          else
            match m.irisFree p base with
            | w :: _ => m.putEnt p .iris w e
            | [] => m.irisDown p g false [e]
        | none => m.irisDown p g false [e]
  | .mob =>
    let (_, _, ms, _) := g.hash p
    let m := m.mobRead p g
    if !m.live g.job then m.absorbCount g.job 1
    else
      let (m, ok) := m.mobRoom p ms 1 g.job g.key 9
      if ok then m.mobPut p ms [e]
      else
        let m := m.settleForMove p p .mob g
        let es := m.ents p .mob g
        let m := es.foldl (fun m e => m.dropEnt p .mob e.1) m
        ((m.hregRemove p .mob g).toDeep p p g (es.map (·.2) ++ [e])).evalReady p g
  | .deep =>
    let (_, _, _, dbk) := g.hash p
    let t := m.tile (peTile p)
    let slots := (List.range 128).map (fun i => (dbk * 8 + i) % (262144 * 8))
    match (m.ents p .deep g).find? (fun x => deepQBase ≤ x.1) with
    | some (i, _) =>
      let q := (i - deepQBase) / 64
      m.modTile (peTile p) (fun t => { t with deepQ := t.deepQ.modify q (· ++ [e]) })
    | none =>
      match slots.find? (fun i => (SMap.get? t.deep i).isNone) with
      | some i => m.putEnt p .deep i e
      | none => m.modTile (peTile p) (fun t => { t with deepQ := t.deepQ ++ [[e]] })

/-- Place a new group's first entry in Iris or below (R56). -/
def placeNew (m : Mach) (p : PeId) (g : GRef) (e : Entry) : Mach :=
  let (h0, h1, _, _) := g.hash p
  let b0 := h0 * 8
  let b1 := 512 + h1 * 8
  let pick := fun (m : Mach) =>
    let f0 := m.irisFree p b0
    let f1 := m.irisFree p b1
    if f0.length < f1.length then f1.head? else f0.head?
  let below := fun (m : Mach) =>
    let m := m.mobRead p g
    if m.live g.job then m.toMob p g [e] else m.absorbCount g.job 1
  match pick m with
  | some w => m.putEnt p .iris w e
  | none =>
    match m.victim p .iris (m.irisSet p b0 ++ m.irisSet p b1) g.job g.key with
    | some (h, asIs) =>
      let m := m.irisDown p h.ref asIs []
      if !m.live g.job then m.absorbCount g.job 1
      else
        match pick m with
        | some w => m.putEnt p .iris w e
        | none => below m
    | none => below m

/-! Group fields -/

/-- ARRIVED and CONTEST of a group as its entries give them (R69, R70). -/
def reField (m : Mach) (p : PeId) (pl : Place) (g : GRef) : Mach :=
  let toks := ((m.ents p pl g).map (·.2)).filter (·.kind == 0)
  let arr := toks.foldl (fun (a : Byte) e => a ||| (1#8 <<< e.port.toNat)) 0
  let con := toks.any (fun e => toks.any (fun f => e.port == f.port && e.gen != f.gen))
  m.modHead p pl g (fun h => { h with arrived := arr, contest := con })

/-- Request a rollback of a group's node to its tag when the group is FIRED (R66, R69, R70). -/
def rbIfFired (m : Mach) (p : PeId) (g : GRef) (st : GState) (anti : Bool) : Mach :=
  if st = .fired then m.requestRb (g.nref p) g.key anti (.matching p) else m

/-- After entries of a group were annihilated: its fields follow, and a group left empty withdraws its descriptor (R66, R69). -/
def afterAnnihilation (m : Mach) (p : PeId) (pl : Place) (g : GRef) : Mach :=
  let m := m.countJ 0x4300 g.job 0x01
  if (m.ents p pl g) = [] then
    if (m.descOf p g).isSome then (m.dropDesc p g).countJ 0x4300 g.job 0x08 else m.dropDesc p g
  else (m.reField p pl g).evalReady p g

/-- The entry an arrival would be stored as; planes are 0 in an anti-token's (Table 3-1). -/
def newEntry (p : PeId) (t : Token) (head : Bool) (cid : Nat) : Entry :=
  { gen := t.gen, kind := t.kind, head := head, job := t.job, port := t.port, fs := t.fs,
    arrived := if head && t.kind == 0 then 1#8 <<< t.port.toNat else 0, rmask := 0, mode := 0,
    gstate := .arming, contest := false, locPe := p.truncate 7, node := t.node, key := t.key,
    a := if t.kind == 1 then 0 else t.w2, b := if t.kind == 1 then 0 else t.planeB, cid := cid }

/-- An anti-token that reaches its group (R69). -/
def mergeAnti (m : Mach) (p : PeId) (pl : Place) (g : GRef) (t : Token) (st : GState) : Mach :=
  match (m.ents p pl g).find? (fun e => e.2.kind == 0 && e.2.port == t.port && e.2.gen == t.gen) with
  | some (i, e) => ((m.freeEnt p pl i e).rbIfFired p g st true).afterAnnihilation p pl g
  | none => ((m.addEnt p pl g (newEntry p t false 0)).countJ 0x4300 g.job 0x02).evalReady p g

/-- A token that reaches its group (R66, R69, R70, Table 3-5). -/
def mergeToken (m : Mach) (p : PeId) (pl : Place) (g : GRef) (t : Token) (h : Entry) : Mach :=
  let es := m.ents p pl g
  match es.find? (fun e => e.2.kind == 1 && e.2.port == t.port && e.2.gen == t.gen) with
  | some (i, e) => (m.freeEnt p pl i e).afterAnnihilation p pl g
  | none =>
    let held := es.filter (fun e => e.2.kind == 0 && e.2.port == t.port)
    match held.find? (fun e => e.2.gen == t.gen) with
    | some (i, e) =>
      let new : BitVec 128 := t.planeB ++ t.w2
      let old : BitVec 128 := e.b ++ e.a
      let m := if old.toNat < new.toNat then m.putEnt p pl i { e with a := t.w2, b := t.planeB, fs := t.fs } else m
      (((m.countJ 0x4300 g.job 0x05).rbIfFired p g h.gstate false)).evalReady p g
    | none =>
      let first := !es.any (fun e => e.2.kind == 0)
      let m := m.addEnt p pl g (newEntry p t false 0)
      match m.findGroup p g with
      | none => m
      | some pl =>
        let m := m.reField p pl g
        let m := if held != [] && !h.contest then m.countJ 0x4300 g.job 0x06 else m
        let m := m.rbIfFired p g h.gstate false
        let m := if first && h.gstate != .arming then
            m.modPe p (fun x => { x with gatherQ := x.gatherQ ++ [⟨g, .recheck⟩] })
          else m
        m.evalReady p g

/-- An arrival whose group stands at a level. -/
def mergeArrival (m : Mach) (p : PeId) (pl : Place) (g : GRef) (t : Token) : Mach :=
  match m.headOf p pl g with
  | none => m
  | some (_, h) => if t.kind = 1 then m.mergeAnti p pl g t h.gstate else m.mergeToken p pl g t h

/-- Create a group for an arrival: it enters ARMING and goes to Gather (R64). -/
def newGroup (m : Mach) (p : PeId) (t : Token) : Mach :=
  let ctl := t.kind == 2
  let n := (m.pe p).ctlSeq + 1
  let m := if ctl then m.modPe p (fun x => { x with ctlSeq := n }) else m
  let cid := if ctl then n else 0
  let g : GRef := { job := t.job, node := t.node, key := t.key, cid := cid }
  let m := if t.kind = 1 then m.countJ 0x4300 t.job 0x02 else m
  let m := m.placeNew p g (newEntry p t true cid)
  if m.live t.job then m.modPe p (fun x => { x with gatherQ := x.gatherQ ++ [⟨g, .arm⟩] }) else m

/-! Lookup and the miss buffer (R54, R62) -/

/-- The group an arrival names. -/
def itemRef (t : Token) : GRef := { job := t.job, node := t.node, key := t.key }

/-- Absorb an arrival of a job that is not LOADED, RUN or PAUSED, and release its in-transit slot (R39). -/
def absorbItem (m : Mach) (p : PeId) (it : Item) : Mach := (m.absorbCount it.tok.job 1).releaseItem p it

/-- Handle an arrival by its lookup in Iris: done, or parked with a probe of the MOB outstanding. -/
def lookup (m : Mach) (p : PeId) (it : Item) (park : Mach → Mach) : Mach × Bool :=
  let g := itemRef it.tok
  let (h0, _, _, _) := g.hash p
  let m := if m.live it.tok.job then m.irisRead p g else m
  if !m.live it.tok.job then (m.absorbItem p it, true)
  else if it.tok.kind = 2 then ((m.newGroup p it.tok).releaseItem p it, true)
  else if (m.ents p .iris g) != [] then ((m.mergeArrival p .iris g it.tok).releaseItem p it, true)
  else if SMap.getD (m.pe p).ovf h0 0 != 0 then (park m, false)
  else ((m.newGroup p it.tok).releaseItem p it, true)

/-- A free slot of the miss buffer of 8. -/
def missSlot (m : Mach) (p : PeId) : Option Nat :=
  (List.range 8).find? (fun k => (SMap.get? (m.pe p).miss k).isNone)

/-- Put an arrival into a slot of the miss buffer. -/
def park (m : Mach) (p : PeId) (slot : Nat) (it : Item) (h0 : Nat) (st : Place) : Mach :=
  m.modPe p (fun x => { x with miss := SMap.set x.miss slot ⟨it, BitVec.ofNat 6 h0, st, x.missSeq⟩, missSeq := x.missSeq + 1 })

/-- The next arrival of a hash class that waits behind a lookup now complete: handled, or its own probe begins. -/
def wakeClass (m : Mach) (p : PeId) (h0 : BitVec 6) : Nat → Mach
  | 0 => m
  | fuel + 1 =>
    let cls := (m.pe p).miss.filter (fun e => e.2.h0 == h0)
    match leastBy (fun x y => decide (x.2.order < y.2.order)) cls with
    | none => m
    | some (k, ms) =>
      if ms.stage != .iris then m
      else
        let (m, fin) := m.lookup p ms.item (fun m =>
          m.modPe p (fun x => { x with miss := SMap.set x.miss k { ms with stage := .mob } }))
        if fin then
          wakeClass (m.modPe p (fun x => { x with miss := SMap.erase x.miss k })) p h0 fuel
        else m

/-- A parked arrival's lookup is complete: its slot is free, its in-transit slot released, and the next of its class goes on. -/
def missDone (m : Mach) (p : PeId) (k : Nat) (ms : Miss) : Mach :=
  ((m.modPe p (fun x => { x with miss := SMap.erase x.miss k })).releaseItem p ms.item).wakeClass p ms.h0 8

/-- A parked arrival whose job is no longer LOADED, RUN or PAUSED is absorbed when its probe returns (R39). -/
def missAbsorb (m : Mach) (p : PeId) (k : Nat) (ms : Miss) : Mach :=
  (m.absorbCount ms.item.tok.job 1).missDone p k ms

/-- A probe of deep match begins: RDs of 128 B for the 16 buckets a group may lie in, from its home bucket on and within the partition (R60, R215). The spec does not say in which reads a probe fetches its buckets: all are read at once (the model's choice, log entry 19). The miss-buffer slot is the room reserved for their responses (R221). -/
def probeReqs (m : Mach) (p : PeId) (slot : Nat) (j : JobId) (bucket : Nat) : Mach :=
  m.modTile (peTile p) (fun t => { t with reqs := t.reqs ++ (List.range 32).map (fun i =>
    { agent := mobAgent p, wr := false, addr := deepAddr (peTile p) ((bucket * 8 + 4 * i) % (262144 * 8)), units := 8, job := j,
      what := .probe p slot, since := m.coreCycle }) })

/-- Whether a probe of deep match still awaits responses. -/
def probeOut (m : Mach) (p : PeId) (slot : Nat) : Bool := (m.tile (peTile p)).reqs.any (fun r => r.what == .probe p slot)

/-- The MOB probe of a miss-buffer slot returns (R54, R62). -/
def mobProbe (m : Mach) (p : PeId) (slot : Nat) : Mach :=
  match SMap.get? (m.pe p).miss slot with
  | none => m
  | some ms =>
    if ms.stage != .mob then m
    else if !m.live ms.item.tok.job then m.missAbsorb p slot ms
    else
      let t := ms.item.tok
      let g := itemRef t
      let (_, _, set, dbk) := g.hash p
      let m := (m.mobRead p g).irisRead p g
      if !m.live t.job then m.missAbsorb p slot ms
      else if (m.ents p .mob g) != [] then (m.mergeArrival p .mob g t).missDone p slot ms
      else if SMap.getD (m.cluster (peCluster p)).dovf set 0 != 0 then
        (m.modPe p (fun x => { x with miss := SMap.set x.miss slot { ms with stage := .deep } })).probeReqs p slot g.job dbk
      else (m.newGroup p t).missDone p slot ms

/-- The deep-match probe of a miss-buffer slot returns: every RD of it has been answered. -/
def deepProbe (m : Mach) (p : PeId) (slot : Nat) : Mach :=
  match SMap.get? (m.pe p).miss slot with
  | none => m
  | some ms =>
    if ms.stage != .deep || m.probeOut p slot then m
    else if !m.live ms.item.tok.job then m.missAbsorb p slot ms
    else
      let t := ms.item.tok
      let g := itemRef t
      let m := m.irisRead p g
      if !m.live t.job then m.missAbsorb p slot ms
      else if (m.ents p .deep g) != [] then (m.mergeArrival p .deep g t).missDone p slot ms
      else (m.newGroup p t).missDone p slot ms

/-! Arrivals -/

/-! Levels and the descriptor pool (R83, R85) -/

/-- WINDOW and WINDOW_MIN of a job. -/
def window (m : Mach) (j : JobId) : Nat := m.jobObj j 0x30 1000
def windowMin (m : Mach) (j : JobId) : Nat := m.jobObj j 0x31 1

/-- W of a job as applied in a tile (R179). -/
def wApplied (m : Mach) (t : TileId) (j : JobId) : Nat :=
  ((SMap.get? (m.tile t).win j.toNat).map (·.toNat)).getD (m.window j)

/-- LEVEL and FAR of a tag against a Safe Horizon and a window (R83). -/
def readyLevel (tag s : Tag) (w : Nat) : BitVec 3 × Bool :=
  if tag.lt s then (0, false)
  else
    let dist := tag.time.toNat - s.time.toNat
    match (List.range 7).find? (fun k => decide (dist < (2 ^ (k + 1) - 1) * w)) with
    | some k => (BitVec.ofNat 3 (k + 1), false)
    | none => (7, true)

/-- LEVEL and FAR of a group of a PE. -/
def levelOf (m : Mach) (p : PeId) (j : JobId) (k : Key) : BitVec 3 × Bool :=
  readyLevel (m.tagOf j k) (m.job j).sh (m.wApplied (peTile p) j)

/-- Order of SEQ stamps, compared serially (R82). -/
def seqLt (a b : BitVec 16) : Bool := let d := b - a; d != 0 && decide (d.toNat < 2 ^ 15)

/-- The lowest free general position. -/
def generalPos (x : Pe) : Option Nat := (List.range 248).find? (fun k => (SMap.get? x.pool k).isNone)

/-- The speculative descriptor of highest rank on a general position, of any job; equal ranks go to the lower job, then the earliest SEQ (R58, R85). -/
def worstSpec (m : Mach) (p : PeId) : Option (Nat × Desc) :=
  leastBy (fun x y =>
    let rx := m.rank x.2.job x.2.key
    let ry := m.rank y.2.job y.2.key
    decide (ry < rx) || (rx == ry && (decide (x.2.job.toNat < y.2.job.toNat)
      || (x.2.job == y.2.job && seqLt x.2.seq y.2.seq))))
    ((m.pe p).pool.filter (fun d => d.1 < 248 && d.2.level != 0))

/-- Whether a descriptor of a level can be had (R85): a general one, and at level 0 that reserved for the job or a speculative one withdrawn. -/
def canTake (m : Mach) (p : PeId) (j : JobId) (level : BitVec 3) : Bool :=
  let x := m.pe p
  (generalPos x).isSome || (level == 0 && ((SMap.get? x.pool (248 + j.toNat)).isNone || (m.worstSpec p).isSome))

/-- Whether a record that a Match or Gather stage has for a full ring 1 is held, and the stage with it (R293). -/
def ringHeld (m : Mach) (who : Stage) : Bool :=
  let r : Evr := SMap.getD m.evr 1 {}
  r.held != [] && r.full && r.held.any (fun w => w.getD 4 0 == who.word)

/-- Whether back-pressure of Ready reaches Match: the presentation it holds can take no descriptor, and the PE is not in spill (R86, R87). -/
def backPressed (m : Mach) (p : PeId) : Bool :=
  let x := m.pe p
  match x.readyQ with
  | [] => false
  | g :: _ => !x.spill && (match m.findGroup p g with
    | some pl => m.groupReady p pl g && !m.canTake p g.job (m.levelOf p g.job g.key).1
    | none => false)

/-- A job named by a malformed token or packet is faulted; the cause is logged whether or not that job is loaded (R38). -/
def faultNamed (m : Mach) (j : JobId) (reason block loc : Nat) (t : Token) : Mach :=
  if (m.job j).state = .empty then m.logErr 0 block reason (some j) loc t.w0 t.w1 t.w2 t.w3
  else m.faultJob j reason block loc t.w0 t.w1 t.w2 t.w3

/-- Match takes the arrival at stage 0 of the Receive FIFO (R38, R39, R62, R71, R86). A cycle in which it takes none for another reason than R86 ends the count of R87. -/
def matchArrival (m : Mach) (p : PeId) : Mach :=
  let x := m.pe p
  match x.fifo with
  | [] => m.setPe p { x with bpCycles := 0 }
  | it :: rest =>
    if m.ringHeld (.matching p) then m.setPe p { x with bpCycles := 0 }
    else if m.backPressed p then (m.setPe p { x with bpCycles := x.bpCycles + 1 }).count 0x4410 0x02
    else if 8 ≤ x.miss.length then m.setPe p { x with bpCycles := 0 }
    else
      let t := it.tok
      let m := m.setPe p { x with fifo := rest, bpCycles := 0 }
      if t.malformed then
        (m.releaseItem p it).faultNamed t.job 0x0201 0x02 p.toNat t
      else if !m.live t.job then m.absorbItem p it
      else
        let g := itemRef t
        let (h0, _, _, _) := g.hash p
        match m.missSlot p with
        | none => (m.lookup p it id).1
        | some k =>
          if (m.pe p).miss.any (fun e => e.2.h0.toNat == h0) then m.park p k it h0 .iris
          else (m.lookup p it (fun m => m.park p k it h0 .mob)).1
/-- After 1,024 cycles in which Match accepted no arrival because of R86, the PE enters spill (R87). -/
def enterSpill (m : Mach) (p : PeId) : Mach :=
  let x := m.pe p
  if x.bpCycles < 1024 ∨ x.spill then m
  else (m.setPe p { x with spill := true, bpCycles := 0 }).count 0x4410 0x01

/-! Deep match (R60) -/

/-- The oldest group of a tile's write-behind queue goes into its buckets; with no space in the 16 buckets the job faults. -/
def deepWrite (m : Mach) (t : TileId) : Mach :=
  let x := m.tile t
  match x.deepQ with
  | [] => m
  | es :: rest =>
    let m := m.setTile t { x with deepQ := rest }
    match es with
    | [] => m
    | e0 :: _ =>
      let p : PeId := t ++ e0.locPe
      let (_, _, _, dbk) := e0.ref.hash p
      if m.deepWaits t dbk then m.setTile t x else
      let slots := ((List.range 128).map (fun i => (dbk * 8 + i) % (262144 * 8))).filter
        (fun i => (SMap.get? (m.tile t).deep i).isNone)
      if slots.length < es.length then
        let m := m.modTile t (fun x => { x with deepQ := es :: x.deepQ })
        m.faultJob e0.job 0x0205 0x02 p.toNat (mkNode m.number p e0.node |>.zeroExtend 64)
      else (es.zip slots).foldl (fun m (e, i) => m.putEnt p .deep i e) m

/-! Gather (R64, R65, R78, R80) -/

/-- The straggler check of R34: a tag at or below the node's last firing tag requests a rollback of the node to it (R64, R148). -/
def stragglerCheck (m : Mach) (p : PeId) (g : GRef) : Mach :=
  let r := g.nref p
  let last := m.nLast r
  if last != noTag && (m.tagOf g.job g.key).le last then m.requestRb r g.key false (.gather p) else m

/-- Whether a control token is one of R80. -/
def controlBad (e : Entry) : Bool :=
  decide (4 ≤ e.port.toNat) || bits e.gen 7 3 != 0 || (e.port == 2 && e.gen.getLsbD 2)

/-- W0 of the token an entry came from. -/
def entryW0 (m : Mach) (p : PeId) (e : Entry) : Word :=
  (Token.mk' e.gen e.job e.fs e.kind e.port (mkNode m.number p e.node) 0 0 0 0).w0

/-- Complete the arming of a group: RMASK and MODE from the node record, the straggler check, then readiness (R64). The error-log entry of a control token that R80 rejects stands under block 0x01 with its W0, time and delta as data: R80 names node, tag and W0 but no block and no word (the model's choice, log entry 78). -/
def armGroup (m : Mach) (p : PeId) (g : GRef) : Mach :=
  match m.findGroup p g with
  | none => m
  | some pl =>
    match m.headOf p pl g with
    | none => m
    | some (_, h) =>
      if h.gstate != .arming then m
      else if h.kind = 2 ∧ controlBad h then
        let tg := m.tagOf g.job g.key
        ((m.freeGroup p pl g).countJ 0x4400 g.job 0x05).logErr 0 0x01 0 (some g.job) p.toNat
          (m.entryW0 p h) tg.time (tg.delta.zeroExtend 64)
      else
        let r := g.nref p
        let (lost, m) := m.nodeFetch r
        if lost then m
        else
          let m := m.modHead p pl g (fun e => { e with rmask := m.nRmask r, mode := m.nMode r, gstate := .waiting })
          let m := if (m.ents p pl g).any (fun e => e.2.kind != 1) then m.stragglerCheck p g else m
          m.evalReady p g

/-- Gather takes its next group: arming, presentation or the check of a token merged into a group of anti-tokens; it takes none while Ready holds a presentation (R64, R65, R86). -/
def gather (m : Mach) (p : PeId) : Mach :=
  let x := m.pe p
  if m.ringHeld (.gather p) || m.backPressed p then m
  else
    match x.gatherQ with
    | [] => m
    | q :: rest =>
      if m.nodeWaits (q.ref.nref p) then m else
      let (gone, m) := (m.setPe p { x with gatherQ := rest }).groupRead p q.ref
      if gone then m else
      match q.kind with
      | .arm => m.armGroup p q.ref
      | .recheck =>
        match m.findGroup p q.ref with
        | some _ => (m.stragglerCheck p q.ref).evalReady p q.ref
        | none => m
      | .present =>
        match m.findGroup p q.ref with
        | none => m
        | some pl =>
          match m.headOf p pl q.ref with
          | some (_, h) =>
            if h.gstate == .waiting && m.groupReady p pl q.ref then
              (m.stragglerCheck p q.ref).modPe p (fun x => { x with readyQ := x.readyQ ++ [q.ref] })
            else m
          | none => m

/-! The edge test and the outcome (R78, Table 3-3) -/

/-- The edge test of Table 4-3 on two four-state bits, each as (plane B, plane A). -/
def edgeTest (edge : BitVec 2) (xz : Bool) (old new : Bool × Bool) : Bool :=
  let zero := (false, false)
  let one := (false, true)
  let rise := old == zero && new == one
  let fall := old == one && new == zero
  let riseX := (old == zero && new.1) || (old == (true, true) && new == one) || (old == (true, false) && new == one)
  let fallX := (old == one && new.1) || (old == (true, true) && new == zero) || (old == (true, false) && new == zero)
  (edge.getLsbD 0 && (rise || (xz && riseX))) || (edge.getLsbD 1 && (fall || (xz && fallX)))

/-- The outcome of a group as its entries and the node's held values stand (Table 3-3). -/
def outcome (m : Mach) (p : PeId) (pl : Place) (g : GRef) : OutcomeKind :=
  match m.headOf p pl g with
  | none => .update
  | some (_, h) =>
    if h.kind = 2 then .control
    else
      let r := g.nref p
      match h.mode.toNat with
      | 0 => .firing
      | 2 =>
        let new := (m.ents p pl g).find? (fun e => e.2.kind == 0 && e.2.port == 0)
        let (oa, ob) := m.held r 0
        match new with
        | some (_, e) =>
          if edgeTest (m.nEdge r) (m.nEdgeXz r) (ob.getLsbD 0, oa.getLsbD 0) (e.b.getLsbD 0, e.a.getLsbD 0) then .firing
          else .update
        | none => .update
      | _ => if (h.arrived &&& h.rmask) != 0 then .firing else .update

end Mach

/-- MATCH_ARRIVAL: Match takes the arrival at stage 0 of the Receive FIFO of a PE (R71), or finds its parity bad (R444). -/
def execMatchArrival (p : PeId) (par : Parity) (s : State) : Res :=
  s.on (fun m => match par, (m.pe p).fifo with
    | .good, _ => m.matchArrival p
    | _, [] => m
    | par, it :: _ => m.parityFault p par it.tok.job [it.tok.w0, it.tok.w1, it.tok.w2, it.tok.w3])
/-- MOB_PROBE_COMPLETE of a miss-buffer slot (R62). -/
def execMobProbeComplete (p : PeId) (slot : BitVec 3) (s : State) : Res := s.on (fun m => m.mobProbe p slot.toNat)
/-- DEEP_MATCH_PROBE_COMPLETE of a miss-buffer slot (R62). -/
def execDeepMatchProbeComplete (p : PeId) (slot : BitVec 3) (s : State) : Res := s.on (fun m => m.deepProbe p slot.toNat)
/-- DEEP_MATCH_WRITE: the write-behind queue of a tile writes one group (R60). -/
def execDeepMatchWrite (t : TileId) (s : State) : Res := s.on (fun m => m.deepWrite t)
/-- ARMING: Gather of a PE takes its next group (R64, R65). -/
def execArming (p : PeId) (s : State) : Res := s.on (fun m => m.gather p)
/-- SPILL (R87). -/
def execSpill (p : PeId) (s : State) : Res := s.on (fun m => m.enterSpill p)

end Sys2Proof.Machine
end

