-- ==== Sys2Proof/Machine/Ready.lean ====
section
/-! DEFINITION. Ready: descriptors, levels, the pool, dispatch and the journal's grants (R82 to R90, R98, R169 to R172, R178). -/

namespace Sys2Proof.Machine

/-- The words D0 and D1 of a descriptor (Table 4-5). -/
def Desc.words (d : Desc) : List Word :=
  let oc : Nat := match d.outcome with
    | .firing => 0 | .update => 1 | .control => 2
  let pl : Nat := match d.place with
    | .iris => 0 | .mob => 1 | .deep => 2
  [d.key.zeroExtend 64,
   at64 1 63 ||| at64 d.job.toNat 60 ||| at64 d.level.toNat 57 ||| at64 (b2n d.far) 56 ||| at64 oc 54 ||| at64 pl 52
    ||| at64 d.jneed.toNat 49 ||| at64 d.index.toNat 38 ||| at64 d.node.toNat 21 ||| at64 d.seq.toNat 0]

namespace Mach

/-- Journal entries a speculative dispatch of a group takes: JN of the node, 1 for an update (R82). For a control descriptor, whose JNEED Table 4-5 does not give and nothing uses, it is 1 (the model's choice, log entry 78). -/
def jneed (m : Mach) (r : NRef) (o : OutcomeKind) : BitVec 2 := if o = .firing then m.nJn r else 1

/-- The group of a descriptor. -/
def descRef (d : Desc) : GRef := { job := d.job, node := d.node, key := d.key, cid := d.cid }

/-- A pool position for a descriptor of a level, withdrawing a speculative descriptor for a level-0 one where R85 says so. -/
def takePos (m : Mach) (p : PeId) (j : JobId) (level : BitVec 3) : Option Nat × Mach :=
  let x := m.pe p
  match generalPos x with
  | some k => (some k, m)
  | none =>
    if level != 0 then (none, m)
    else if (SMap.get? x.pool (248 + j.toNat)).isNone then (some (248 + j.toNat), m)
    else
      match m.worstSpec p with
      | none => (none, m)
      | some (k, d) =>
        let g := descRef d
        let m := m.dropDesc p g
        let m := match m.findGroup p g with
          | some pl => (m.setGState p pl g .waiting).evalReady p g
          | none => m
        (some k, m.countJ 0x4400 d.job 0x08)

/-- Write the descriptor of a group that is presented, when one can be had (R82, R85). INDEX keeps the place of the head entry as it is here: what becomes of it when the head moves while the descriptor stands, the spec leaves open (the model's choice, log entry 78). -/
def insertDesc (m : Mach) (p : PeId) (pl : Place) (g : GRef) (idx : Nat) : Option Mach :=
  let (lv, far) := m.levelOf p g.job g.key
  match m.takePos p g.job lv with
  | (none, _) => none
  | (some pos, m) =>
    let o := m.outcome p pl g
    let x := m.pe p
    let d : Desc := { job := g.job, level := lv, far := far, outcome := o, place := pl, jneed := m.jneed (g.nref p) o,
                      index := if pl = .deep then 0 else BitVec.ofNat 11 idx, node := g.node, seq := x.seq, key := g.key,
                      cid := g.cid }
    let m := m.setPe p { x with pool := SMap.set x.pool pos d, seq := x.seq + 1 }
    let m := if far then m.countJ 0x4400 g.job 0x09 else m
    some (m.setGState p pl g .presented)

/-- Ready inserts the oldest presentation it holds; in spill, with none held, the deferred group of least rank is presented (R85 to R87). A presentation that Ready held when spill began goes in before every deferred group, of lower rank or at level 0 too: R87 orders the deferred groups and does not place the one held among them (the model's choice, log entry 78). -/
def descriptorInsert (m : Mach) (p : PeId) : Mach :=
  let x := m.pe p
  match x.readyQ with
  | g :: rest =>
    let m' := m.setPe p { x with readyQ := rest }
    match m.findGroup p g with
    | none => m'
    | some pl =>
      match m.headOf p pl g with
      | some (i, h) =>
        if h.gstate != .waiting || !m.groupReady p pl g then m'
        else
          match m'.insertDesc p pl g i with
          | some m'' => m''.modPe p (fun x => { x with bpCycles := 0 })
          | none => m
      | none => m'
  | [] =>
    match leastBy (m.deferredBefore p) x.deferred with
    | none => m
    | some g =>
      let m' := m.setPe p { x with deferred := x.deferred.filter (· != g) }
      match m.findGroup p g with
      | none => m'
      | some pl =>
        match m.headOf p pl g with
        | some (i, h) =>
          if h.gstate != .waiting || !m.groupReady p pl g then m'
          else
            match (m'.stragglerCheck p g).insertDesc p pl g i with
            | some m'' => m''
            | none => m
        | none => m'

/-- Recompute LEVEL and FAR of every descriptor of a job in a PE (R84). -/
def descriptorSweep (m : Mach) (p : PeId) (j : JobId) : Mach :=
  m.modPe p (fun x => { x with pool := x.pool.map (fun (k, d) =>
    if d.job = j then
      let (lv, far) := m.levelOf p j d.key
      (k, { d with level := lv, far := far })
    else (k, d)) })

/-! Dispatch (R88, R152, R168, R169, R180, R197, R293) -/

/-- Whether a firing or update of a node is in Fire, or in Emit with its writes not made: those release rule 2 of R88 (R93). -/
def nodeBusy (x : Pe) (j : JobId) (n : BitVec 17) : Bool :=
  x.ctxs.any (fun c => c.2.job == j && c.2.node == n) || x.emitQ.any (fun e => e.job == j && e.node == n && !e.begun
    && !(match e.kind with
      | .antis _ => true
      | _ => false))

/-- Whether a rollback of a node is requested or in progress (R152), or a request of its job and PE has overflowed (R293). -/
def rbHolds (m : Mach) (r : NRef) : Bool :=
  let t := m.tile (peTile r.pe)
  let me := mkNode m.number r.pe r.node
  t.rbq.any (fun q => q.job == r.job && q.node == me) || (m.rbInProgress r).isSome
    || t.rbOut.any (fun q => q.job == r.job && nodePe q.node == r.pe)

/-- Whether speculation is permitted to a job (R180). -/
def specOn (m : Mach) (j : JobId) : Bool := (m.job j).govMode != 2 && m.feature 1

/-- A free context of a PE, lowest first. -/
def freeContext (x : Pe) : Option Nat := (List.range 16).find? (fun c => (SMap.get? x.ctxs c).isNone)

/-- Whether an outcome needs a context: a firing or a KICK. -/
def needsCtx (m : Mach) (p : PeId) (d : Desc) (o : OutcomeKind) : Bool :=
  match o with
  | .firing => true
  | .update => false
  | .control => match (m.findGroup p (descRef d)).bind (fun pl => m.headOf p pl (descRef d)) with
    | some (_, h) => h.port == 0
    | none => false

/-- The outcome of a descriptor as its group stands. -/
def descOutcome (m : Mach) (p : PeId) (d : Desc) : OutcomeKind :=
  match m.findGroup p (descRef d) with
  | some pl => m.outcome p pl (descRef d)
  | none => d.outcome

/-- Whether the reads of a dispatch wait because a unit of HBM is being copied (R252). -/
def dispatchWaits (m : Mach) (p : PeId) (d : Desc) : Bool :=
  m.ms.copying != [] && (m.nodeWaits ⟨d.job, p, d.node⟩ || (m.findGroup p (descRef d) == some .deep
    && m.deepWaits (peTile p) ((descRef d).hash p).2.2.2))

/-- The rules of R88 a descriptor meets at every level: FAR, RUN, the clamp of R197, the end of time of R47, one firing of a node at a time, tag order, rollbacks, a context. -/
def eligibleAny (m : Mach) (p : PeId) (d : Desc) : Bool :=
  let x := m.pe p
  let tag := m.tagOf d.job d.key
  let jb := m.job d.job
  !d.far && jb.state == .run && tag.time != BitVec.allOnes 64
    && (match jb.clamp with
      | some c => tag.lt c
      | none => true)
    && !nodeBusy x d.job d.node
    && !x.pool.any (fun e => e.2.job == d.job && e.2.node == d.node && (m.tagOf d.job e.2.key).lt tag)
    && !m.rbHolds ⟨d.job, p, d.node⟩ && !m.dispatchWaits p d
    && (!m.needsCtx p d (m.descOutcome p d) || (freeContext x).isSome)

/-- Whether a summary hold stands for a node and tag (R169). -/
def held? (m : Mach) (p : PeId) (d : Desc) : Bool :=
  (m.tile (peTile p)).holds.any (fun h => h.job == d.job && h.key == d.key && h.node == mkNode m.number p d.node)

/-- What a speculative descriptor meets besides: rule 4 of R88 but for the pin, and a request not already made. -/
def eligibleSpec (m : Mach) (p : PeId) (pos : Nat) (d : Desc) : Bool :=
  m.descOutcome p d != .control && m.findGroup p (descRef d) != some .deep && m.specOn d.job && !m.held? p d
    && !(m.pe p).refused.getLsbD d.job.toNat && !((p, pos) ∈ (m.tile (peTile p)).jreqs) && !((p, pos) ∈ (m.tile (peTile p)).jacc)

/-- Whether a descriptor of a level from 1 to 7 is passed over because its node is pinned. -/
def pinSkip (m : Mach) (p : PeId) (pos : Nat) (d : Desc) : Bool :=
  d.level != 0 && m.eligibleAny p d && m.eligibleSpec p pos d && m.pinned ⟨d.job, p, d.node⟩

/-- Eligibility by R88. -/
def eligible (m : Mach) (p : PeId) (pos : Nat) (d : Desc) : Bool :=
  m.eligibleAny p d && (d.level == 0 || (m.eligibleSpec p pos d && !m.pinned ⟨d.job, p, d.node⟩))

/-- The arrived values of a group (R90). -/
def arrivedOf (m : Mach) (p : PeId) (pl : Place) (g : GRef) : List PortVal :=
  (((m.ents p pl g).map (·.2)).filter (·.kind == 0)).map (fun e => ⟨e.port, e.fs, e.a, e.b⟩)

/-- Value of a port at firing entry: arrived, or held (R90). -/
def portIn (m : Mach) (r : NRef) (l : List PortVal) (k : Nat) : Word × Word :=
  match l.find? (fun v => v.port.toNat == k) with
  | some v => (v.a, v.b)
  | none => m.held r k

/-- The context of a firing or KICK at entry (R98, Table 5-1). -/
def entryCtx (m : Mach) (r : NRef) (tag : Tag) (safe kick : Bool) (l : List PortVal) (jents : List Nat) : Ctx :=
  let node := mkNode m.number r.pe r.node
  let arr : Byte := if kick then 0 else l.foldl (fun a v => a ||| (1#8 <<< v.port.toNat)) 0
  let ins := (List.range 8).map (m.portIn r l)
  let regs : List (Nat × Word) :=
    [(1, tag.short.zeroExtend 64), (2, tag.delta.zeroExtend 64), (3, node.zeroExtend 64), (4, arr.zeroExtend 64),
     (5, (m.nGen r).zeroExtend 64), (12, m.recW r 4), (13, m.recW r 5), (14, m.recW r 6), (15, m.recW r 7)]
    ++ (ins.zipIdx).map (fun (v, k) => (16 + k, v.1)) ++ (ins.zipIdx).map (fun (v, k) => (24 + k, v.2))
  let th : Thread := regs.foldl (fun t (i, v) => t.put (BitVec.ofNat 5 i) v) {}
  let img := (List.range 8).map (m.recW r) ++ (List.range 8).map (fun k => (m.held r k).1)
    ++ (List.range 8).map (fun k => (m.held r k).2)
  { th := { th with pc := m.nCodeOff r, fps := BitVec.ofNat 64 (m.jobObj r.job 0x09 0) },
    job := r.job, node := r.node, tag := tag, safe := safe, kick := kick, gen := m.nGen r, arrived := l, count := 0,
    emits := [], stores := [], stw := [], nodeImg := img, jents := jents }

/-- Dispatch a descriptor: its group's entries are read, a group in deep match from HBM, and lost data there or in the node's record and state faults the job (R61, R237, R242); the group's entries are freed, or it is FIRED; the context is preloaded, or the update or command passes to Emit (R52, R90, R98, R154). -/
def dispatchDesc (m : Mach) (p : PeId) (d : Desc) (safe : Bool) (jents : List Nat) : Mach :=
  let g := descRef d
  let r := g.nref p
  let tag := m.tagOf d.job d.key
  match m.findGroup p g with
  | none => m.dropDesc p g
  | some pl =>
    let (gone, m) := if pl = .deep then m.deepFetch p (m.ents p pl g) else m.groupRead p g
    if gone then m
    else
    let (lost, m) := m.nodeFetch r
    if lost then m
    else
    let o := m.outcome p pl g
    let arrived := m.arrivedOf p pl g
    let head := (m.headOf p pl g).map (·.2)
    let m := m.dropDesc p g
    let m := if safe then m.freeGroup p pl g else (m.setGState p pl g .fired).hregRemove p pl g
    let m := m.setLast r tag
    let m := if o != .firing then m
      else if safe then m.countJ 0x4400 d.job 0x01
      else (m.countJ 0x4400 d.job 0x02).modTile (peTile p) (fun t => { t with
        pSpec := SMap.modify t.pSpec d.job.toNat 0 (· + 1) })
    let m := if safe then m.modTile (peTile p) (fun t => { t with
        holds := t.holds.filter (fun h => !(h.job == d.job && h.key == d.key && h.node == mkNode m.number p d.node)) })
      else m
    let enter := fun (m : Mach) (kick : Bool) (l : List PortVal) =>
      match freeContext (m.pe p) with
      | some c =>
        let x := m.entryCtx r tag safe kick l jents
        m.modPe p (fun y => { y with ctxs := SMap.set y.ctxs c x })
      | none => m
    let toEmit := fun (m : Mach) (k : EmitKind) (l : List PortVal) =>
      m.modPe p (fun y => { y with emitQ := y.emitQ ++ [{
        kind := k, job := d.job, node := d.node, tag := tag, safe := safe, gen := m.nGen r, arrived := l,
        emits := [], stores := [], stw := [], jents := jents, arcs := 0 }] })
    let m := match o, head with
      | .firing, _ => enter m false arrived
      | .update, _ => toEmit m .update arrived
      | .control, some h =>
        if h.port = 0 then enter m true []
        else
          let tok : Token := Token.mk' h.gen h.job h.fs 2 h.port (mkNode m.number p h.node) tag.short tag.delta h.a h.b
          toEmit m (.command tok) []
      | .control, none => m
    m

/-- The descriptor a dispatch of a PE takes: lowest level, then oldest (R88). -/
def nextDesc (m : Mach) (p : PeId) : Option (Nat × Desc) :=
  leastBy (fun (a b : Nat × Desc) => decide (a.2.level.toNat < b.2.level.toNat)
      || (a.2.level == b.2.level && seqLt a.2.seq b.2.seq)) ((m.pe p).pool.filter (fun d => m.eligible p d.1 d.2))

/-- Ready dispatches the eligible descriptor of lowest LEVEL and, within it, earliest SEQ: at level 0 at once, at a higher level through a request to the tile's slice (R88, R89). -/
def dispatch (m : Mach) (p : PeId) : Mach :=
  let x := m.pe p
  let skips := ((x.pool.filter (fun d => m.pinSkip p d.1 d.2)).map (fun d => d.2.job)).eraseDups
  let m := skips.foldl (fun m j => m.countJ 0x4400 j 0x07) m
  match m.nextDesc p with
  | none => m
  | some (pos, d) =>
    if d.level = 0 then m.dispatchDesc p d true []
    else m.modTile (peTile p) (fun t => { t with jreqs := t.jreqs ++ [(p, pos)] })

/-- The slice accepts one request from each cluster that offers some: clusters offer the requests of their 8 PEs in turn (R172). -/
def acceptReqs (m : Mach) (t : TileId) : Mach :=
  (List.range 16).foldl (fun m cl =>
    let x := m.tile t
    let last := SMap.getD x.jrr cl 7
    let turn := fun (q : PeId × Nat) => (q.1.toNat % 8 + 15 - last) % 8
    match leastBy (fun a b => decide (turn a < turn b)) (x.jreqs.filter (fun q => (peCluster q.1).toNat % 16 == cl)) with
    | some q => m.setTile t { x with jreqs := x.jreqs.filter (· != q), jacc := x.jacc ++ [q],
                                     jrr := SMap.set x.jrr cl (q.1.toNat % 8) }
    | none => m) m

/-- Whether a refused request of a job counts as a yield of its reserve (R178): the free entries fall short of the job's own unmet reserve. A refusal that this does not explain (a request of two with one entry of the reserve unmet and free, or only the sum of several jobs' unmet reserves above the free entries) counts none (the model's reading, log entry 80). -/
def reserveYields (m : Mach) (t : TileId) (j : JobId) : Bool :=
  decide (m.jFree t < m.reserve j - m.jHeld t j)

/-- The slice of a tile decides the first of the requests it has accepted, in ascending KEY order with ties to the lower PE; with none left it accepts anew. Granted, the descriptor is dispatched; refused, it stays in its queue (R89, R170, R172, R178). What becomes of a request whose descriptor no longer meets R88 as the slice decides it, or which a sweep has brought to level 0, the spec leaves open: the first ends with no answer and no refusal counted, and the second is dispatched as the safe firing it has become, with no entry taken (the model's choice, log entry 80). -/
def journalGrant (m : Mach) (t : TileId) : Mach :=
  let m := if (m.tile t).jacc = [] then m.acceptReqs t else m
  let reqs := ((m.tile t).jacc.filterMap (fun (p, pos) => (SMap.get? (m.pe p).pool pos).map (fun d => (p, pos, d))))
  match leastBy (fun (a b : PeId × Nat × Desc) => keyLt a.2.2.key b.2.2.key
      || (a.2.2.key == b.2.2.key && decide (a.1.toNat < b.1.toNat))) reqs with
  | none => m.modTile t (fun x => { x with jacc := [] })
  | some (p, pos, d) =>
    let m := m.modTile t (fun x => { x with jacc := x.jacc.filter (· != (p, pos)) })
    let g := descRef d
    let o := m.descOutcome p d
    let n := (m.jneed (g.nref p) o).toNat
    if !m.eligible p pos d then m
    else if d.level = 0 then m.dispatchDesc p d true []
    else if m.grantOk t d.job n then
      let (m, es) := m.jGrant (g.nref p) d.key (m.nGen (g.nref p)) n
      let m := m.countJ 0x4600 d.job 0x01 n
      let m := if n = 2 then m.countJ 0x4600 d.job 0x02 else m
      m.dispatchDesc p d false es
    else
      let m := m.countJ 0x4400 d.job 0x06
      let m := if m.reserveYields t d.job then (m.countJ 0x4600 d.job 0x10).countJ 0x4600 d.job 0x11 else m
      m.modPe p (fun x => { x with refused := x.refused ||| (1#8 <<< d.job.toNat) })

end Mach

/-- DESCRIPTOR_INSERT: Ready of a PE inserts the descriptor of its oldest presentation (R85). -/
def execDescriptorInsert (p : PeId) (s : State) : Res := s.on (fun m => m.descriptorInsert p)
/-- DESCRIPTOR_SWEEP of a PE for a job (R84). -/
def execDescriptorSweep (p : PeId) (j : JobId) (s : State) : Res := s.on (fun m => m.descriptorSweep p j)
/-- DISPATCH of a PE (R88), or the descriptor it reads has bad parity (R444). -/
def execDispatch (p : PeId) (par : Parity) (s : State) : Res :=
  s.on (fun m => match par, m.nextDesc p with
    | .good, _ => m.dispatch p
    | _, none => m
    | par, some (_, d) => m.parityFault p par d.job d.words)
/-- JOURNAL_GRANT: the slice of a tile decides a request (R172). -/
def execJournalGrant (t : TileId) (s : State) : Res := s.on (fun m => m.journalGrant t)

end Sys2Proof.Machine
end

