-- ==== Sys2Proof/Machine/Emit.lean ====
section
/-! DEFINITION. Emit and Route: state words, held values, journal entries, control commands, probe items, tokens, multicast packets (R22, R23, R42, R43, R79, R93, R94, R154, R158, R166 to R168, R217, R332 to R334). -/

namespace Sys2Proof.Machine

namespace Mach

/-! Tokens (R23, R42, R43) -/

/-- The token of one arc of a record. -/
def arcToken (four : Bool) (e : EmitJob) (x : ERec) (w : Word) : Token :=
  let fs := w.getLsbD 63 && four
  Token.mk' e.gen e.job fs 0 (w.extractLsb' 40 3) (w.truncate 40) x.target.short x.target.delta
    (if fs then x.a else x.a &&& ~~~x.b) (if fs then x.b else 0)

/-- Every token a firing forms, in order, with its full target tag. -/
def emitTokens (m : Mach) (r : NRef) (e : EmitJob) : List (Token × Tag) :=
  match e.kind with
  | .antis l => l
  | _ => e.emits.flatMap (fun x => ((List.range 8).filter (fun k => x.mask.getLsbD k)).flatMap (fun k =>
      (m.arcs r k).map (fun w => (arcToken m.fourState e x w, x.target))))

/-- Form one token: a slot of the tile, LE raised for a token of a firing, and the token handed to Route; none when every slot is taken (R23, R158). -/
def formToken (m : Mach) (r : NRef) (t : Token) (tg : Tag) : Option Mach :=
  match m.freeTransit (peTile r.pe) with
  | none => none
  | some slot =>
    let m := m.modTile (peTile r.pe) (fun x => { x with transit := SMap.set x.transit slot.toNat ⟨r.job, tg, t.kind == 1, 0⟩ })
    let m := m.modPe r.pe (fun x => { x with routeQ := x.routeQ ++ [⟨t, slot⟩] })
    if t.kind = 1 then some (m.countJ 0x4500 r.job 0x04)
    else
      let m := m.countJ 0x4400 r.job 0x0A
      some (if (m.le r).ltRec tg then m.setLe r tg else m)

/-- Form tokens until the list ends or the slots run out: the machine, and how many were formed. -/
def formTokens (m : Mach) (r : NRef) : List (Token × Tag) → Nat × Mach
  | [] => (0, m)
  | (t, tg) :: rest =>
    match m.formToken r t tg with
    | none => (0, m.count 0x4410 0x03)
    | some m =>
      let (n, m) := formTokens m r rest
      (n + 1, m)

/-- What Emit reads before the writes of a firing, update or command: the node, its settled record, the journaled stores that a safe store merges into (R151), and the fanout block where tokens are formed. Whether a word of them is lost, which faults the job (Table 11-4). -/
def emitFetch (m : Mach) (r : NRef) (e : EmitJob) : Bool × Mach :=
  match e.kind with
  | .antis _ => (false, m)
  | _ =>
    match m.nodeFetch r with
    | (true, m) => (true, m)
    | (false, m) =>
      match m.settledFetch r with
      | (true, m) => (true, m)
      | (false, m) =>
        let s := (m.job r.job).state
        let m := if e.safe then m.journalRead (peTile r.pe) ((e.stores.flatMap (m.journaledUnder r)).map (·.1)) else m
        if (m.job r.job).state ≠ s then (true, m)
        else if e.emits = [] then (false, m) else m.fanFetch r

/-- Whether Emit waits because a unit of HBM it reads or stores to is being copied (R252). -/
def emitWaits (m : Mach) (r : NRef) (e : EmitJob) : Bool :=
  m.ms.copying != [] && (m.nodeWaits r
    || e.stores.any (fun s => m.copyWait ((m.job r.job).dmem.base + m.nDmBase r + s.off) (wBytes s.w)))

/-- Emit carries out the firing, update or command at the front of its queue, which stands there until what it reads has been read: where that is lost and its job faults, its writes are completed with those of the others in Emit (R163); where the in-transit slots run out it stalls and goes on later (R23, R93). -/
def emitFiring (m : Mach) (p : PeId) : Mach :=
  match (m.pe p).emitQ with
  | [] => m
  | e :: rest =>
    let r : NRef := ⟨e.job, p, e.node⟩
    if !e.begun && m.emitWaits r e then m
    else
    let (lost, m') := if e.begun then (false, m) else m.emitFetch r e
    if lost then m'
    else
      let m := if e.begun then m else m'.emitBegin r e
      let toks := m.emitTokens r e
      let (n, m) := m.formTokens r (toks.drop e.arcs)
      m.modPe p (fun x => { x with emitQ :=
        if e.arcs + n = toks.length then rest else { e with arcs := e.arcs + n, begun := true } :: rest })

/-- The control command of a code at the front of Emit is carried out; any other front has not its turn. -/
def emitCommand (m : Mach) (p : PeId) (code : Nat) : Mach :=
  match (m.pe p).emitQ with
  | e :: _ => match e.kind with
    | .command t => if t.port.toNat = code then m.emitFiring p else m
    | _ => m
  | [] => m

/-- KICK: the descriptor Ready dispatches by R88 is that of a KICK (R79). -/
def dispatchKick (m : Mach) (p : PeId) : Mach :=
  let x := m.pe p
  match leastBy (fun (a b : Nat × Desc) => decide (a.2.level.toNat < b.2.level.toNat)
      || (a.2.level == b.2.level && seqLt a.2.seq b.2.seq)) (x.pool.filter (fun d => m.eligible p d.1 d.2)) with
  | some (_, d) =>
    if m.descOutcome p d = .control ∧ m.needsCtx p d .control then m.dispatch p else m
  | none => m

/-! Route (R22, R94, R212, R217) -/

/-- Ring position of a stop (Table 10-1). -/
def ringPos (s : BitVec 5) : Nat :=
  if s = 16 then 0 else if s = 17 then 10 else if s.toNat ≤ 8 then s.toNat + 1 else s.toNat + 2

/-- The stop at a ring position. -/
def posStop (p : Nat) : BitVec 5 :=
  if p = 0 then 16 else if p = 10 then 17 else if p ≤ 9 then BitVec.ofNat 5 (p - 1) else BitVec.ofNat 5 (p - 2)

/-- Default direction of R212 from one stop to another: true is counter-clockwise. -/
def defaultDir (a b : BitVec 5) : Bool := decide (9 < (ringPos b + 18 - ringPos a) % 18)

/-- Whether a stop takes new packets for injection: its fence is open (R230). -/
def injectOpen (m : Mach) (die : BitVec 2) (s : BitVec 5) : Bool := (m.stop die s).fence == 0

/-- The header of a TOKEN, ANTI or CONTROL packet from an initiator (R215). -/
def tokenHdr (t : Token) (src : BitVec 16) (slot : BitVec 14) : Hdr :=
  { vc := if t.kind = 0 then 0 else 1, len := 2,
    cmd := if t.kind = 0 then 0x01 else if t.kind = 1 then 0x03 else 0x05,
    jv := true, job := t.job, src := src, dstStop := peStop t.pe, dstDie := peDie t.pe, arg := slot.zeroExtend 38 }

/-- Whether two tokens may share a multicast packet: equal tag, value and generation (R94). -/
def sameValue (a b : Token) : Bool :=
  a.w1 == b.w1 && a.w2 == b.w2 && a.w3 == b.w3 && a.gen == b.gen && a.job == b.job && a.kind == b.kind && a.fs == b.fs

/-- A destination entry of a multicast packet (R217). -/
def mcEntry (o : Out) : Word :=
  (1 : BitVec 1) ++ (0 : BitVec 6) ++ o.slot ++ o.tok.port ++ o.tok.nodeId

/-- Pack destination entries two to a unit. -/
def mcUnits : List Word → List (BitVec 128)
  | a :: b :: r => (b ++ a) :: mcUnits r
  | [a] => [(0 : Word) ++ a]
  | [] => []

/-- A multicast packet for 2 to 12 destinations of one direction from a stop (R217). -/
def mcPacket (die : BitVec 2) (s : BitVec 5) (agent : Byte) (l : List Out) : Packet :=
  match l with
  | [] => ⟨0, []⟩
  | o :: _ =>
    let t := o.tok
    let stops := l.map (fun x => peStop x.tok.pe)
    let ccw := match stops with
      | a :: _ => defaultDir s a
      | [] => false
    let dist := fun (x : BitVec 5) =>
      if ccw then (ringPos s + 18 - ringPos x) % 18 else (ringPos x + 18 - ringPos s) % 18
    let last := (leastBy (fun x y => decide (dist y < dist x)) stops).getD 0
    let h : Hdr := { vc := if t.kind = 0 then 0 else 1, len := BitVec.ofNat 4 (2 + (l.length + 1) / 2),
                     cmd := if t.kind = 0 then 0x02 else 0x04, jv := true, job := t.job, src := srcOf die s agent,
                     smask := stops.foldl (fun m x => m ||| (1#18 <<< x.toNat)) 0, mc := true, dir := ccw,
                     dstStop := last, dstDie := die }
    let w0 : Word := t.w0 &&& 0xFFFFF80000000000
    ⟨h.pack, [t.w1 ++ w0, t.w3 ++ t.w2] ++ mcUnits (l.map mcEntry)⟩

/-- Consecutive tokens in front of Route that may share packets with the first: own die, another tile. -/
def mcRun (p : PeId) (t : Token) : List Out → List Out
  | [] => []
  | o :: r =>
    if sameValue o.tok t && o.tok.modNo == t.modNo && peDie o.tok.pe == peDie p && peTile o.tok.pe != peTile p then
      o :: mcRun p t r
    else []

/-! The arbiter of a Receive FIFO (R76) -/

/-- Whether a PE's own Route offers its Receive FIFO a token: the next one it holds is for the PE itself. -/
def ownOffers (m : Mach) (p : PeId) : Bool :=
  match (m.pe p).routeQ with
  | o :: _ => m.live o.tok.job && o.tok.modNo == m.number && o.tok.pe == p
  | [] => false

/-- Whether the cluster ring offers a PE's Receive FIFO a token: another PE of the tile holds one for it in front of Route, or a packet at the front of an ejection queue of the tile's stop does. -/
def ringOffers (m : Mach) (p : PeId) : Bool :=
  (List.range 128).any (fun k =>
      let q : PeId := peTile p ++ BitVec.ofNat 7 k
      q != p && (match (m.pe q).routeQ with
        | o :: _ => m.live o.tok.job && o.tok.modNo == m.number && o.tok.pe == p
        | [] => false))
    || [0, 1].any (fun vc => match m.queue (qEj (peDie p) (peStop p) (BitVec.ofNat 2 vc)) with
        | x :: _ => if x.pkt.h.mc then (mcEntries x.pkt).any (fun e => (mcToken x.pkt e).pe == p)
            else isTok x.pkt.h.cmd && (pktToken x.pkt).pe == p
        | [] => false)

/-- Push an arrival into a PE's Receive FIFO of 8 when it has a credit: where both inputs offer, the cluster ring is taken, and in the fourth such cycle in a row the PE's own Route (R76). -/
def pushFifo (m : Mach) (p : PeId) (own : Bool) (it : Item) : Option Mach :=
  let x := m.pe p
  let both := if own then m.ringOffers p else m.ownOffers p
  if 8 ≤ x.fifo.length || (both && own != (x.ringWins == 3)) then none
  else some (m.setPe p { x with fifo := x.fifo ++ [it], ringWins := if both && !own then x.ringWins + 1 else 0 })

/-- Route takes the next token by the path of R22: into a Receive FIFO of its own tile, or as a packet into its tile stop's injection queue; with no room, or a stop that injects nothing, it waits. -/
def route (m : Mach) (p : PeId) : Mach :=
  let x := m.pe p
  let t := peTile p
  match x.routeQ with
  | [] => m
  | o :: rest =>
    let die := peDie p
    let s := peStop p
    let src := srcOf die s ((p.truncate 7 : BitVec 7).zeroExtend 8)
    if !m.live o.tok.job then
      ((m.setPe p { x with routeQ := rest }).freeSlot src o.slot).absorbCount o.tok.job 1
    else if o.tok.modNo = m.number ∧ peTile o.tok.pe = t then
      match m.pushFifo o.tok.pe (o.tok.pe == p) ⟨o.tok, src, o.slot⟩ with
      | some m' => m'.modPe p (fun x => { x with routeQ := rest })
      | none => m
    else
      let off := o.tok.modNo != m.number
      let local_ := !off && peDie o.tok.pe == die
      let run := if local_ then mcRun p o.tok x.routeQ else [o]
      let grp := (run.filter (fun y => defaultDir s (peStop y.tok.pe) == defaultDir s (peStop o.tok.pe))).take 12
      let pk : Packet := if 2 ≤ grp.length then mcPacket die s ((p.truncate 7 : BitVec 7).zeroExtend 8) grp
        else
          let h := tokenHdr o.tok src o.slot
          let h := if off then { h with dstHub := true, dstDie := die, dstStop := brStop (m.leaveBridge die s) } else h
          ⟨h.pack, o.tok.units⟩
      let q := qInj die s (if o.tok.kind = 0 then 0 else 1)
      if !m.injectOpen die s || !m.room q pk.units then m
      else (m.setPe p { x with routeQ := x.routeQ.filter (fun y => !(y ∈ grp)) }).enq q pk

end Mach

/-- EMIT_FIRING (R93), or the record it reads, or a list of its firing, has bad parity (R444). -/
def execEmitFiring (p : PeId) (par : Parity) (s : State) : Res :=
  s.on (fun m => match par, (m.pe p).emitQ with
    | .good, _ => m.emitFiring p
    | _, [] => m
    | par, e :: _ => m.parityFault p par e.job (Mach.firingWords m.number p e.node e.tag))
/-- KICK: dispatch of a KICK (R79). -/
def execKick (p : PeId) (s : State) : Res := s.on (fun m => m.dispatchKick p)
/-- DEPOSIT_HELD at the front of Emit (Table 4-4). -/
def execDepositHeld (p : PeId) (s : State) : Res := s.on (fun m => m.emitCommand p 1)
/-- DEPOSIT_STATE at the front of Emit (Table 4-4). -/
def execDepositState (p : PeId) (s : State) : Res := s.on (fun m => m.emitCommand p 2)
/-- READ_NODE at the front of Emit (Table 4-4). -/
def execReadNode (p : PeId) (s : State) : Res := s.on (fun m => m.emitCommand p 3)
/-- ROUTE: Route of a PE sends its next token (R94). -/
def execRoute (p : PeId) (s : State) : Res := s.on (fun m => m.route p)

end Sys2Proof.Machine
end

