-- ==== Sys2Proof/Machine/Sched.lean ====
section
/-! DEFINITION. The task scheduler, its post queue and the event rings (R284 to R293). -/

namespace Sys2Proof.Machine

/-- The readiness test of R285: any-of or all-of the wait mask, never with an empty mask. -/
def Task.test (t : Task) : Bool :=
  t.mask != 0 && (if t.cfg.getLsbD 52 then (t.flags &&& t.mask) == t.mask else (t.flags &&& t.mask) != 0)

/-- TSK_STAT of a task (R285): DISABLED while EN is 0, whatever it runs. -/
def Task.stat (t : Task) : Word :=
  if !t.cfg.getLsbD 63 then 0
  else match t.running with
    | some c => at64 c.toNat 2 ||| 3
    | none => if t.test then 2 else 1

/-- The fields of a write that a mask of writable bits lets through (R12). -/
def maskWrite (old v mask : Word) : Word := (old &&& ~~~mask) ||| (v &&& mask)

namespace Mach

def modSched (m : Mach) (f : Sched → Sched) : Mach := { m with sched := f m.sched }
def task (m : Mach) (t : Nat) : Task := SMap.getD m.sched.tasks t {}

/-- Re-evaluate a task: it takes its place in dispatch order, with the hub cycle in which it becomes READY, and leaves it when it no longer is (R285, R286). -/
def reTask (m : Mach) (t : Nat) : Mach :=
  let x := m.task t
  let rdy := x.cfg.getLsbD 63 && x.running.isNone && x.test
  let l := m.sched.ready
  let ready := if !rdy then l.filter (fun e => e.1 != t) else if l.any (fun e => e.1 == t) then l else l ++ [(t, m.cycle)]
  m.modSched (fun s => { s with ready := ready })

/-- Change a task and re-evaluate it. -/
def modTask (m : Mach) (t : Nat) (f : Task → Task) : Mach :=
  (m.modSched (fun s => { s with tasks := SMap.set s.tasks t (f (m.task t)) })).reTask t

/-- Writable bits of TSK_CFG. -/
def tskCfgMask : Word := 0x803FFFFF0003FFFC

/-- A write of TSK_CFG; AFFINITY 0 is reserved and leaves the field (R12, R13, R288). -/
def writeTskCfg (m : Mach) (t : Nat) (v : Word) : Mach :=
  m.modTask t (fun x =>
    let mask := if bits v 47 32 = 0 then tskCfgMask &&& ~~~0x0000FFFF00000000 else tskCfgMask
    { x with cfg := maskWrite x.cfg v mask })

/-- A write of TSK_EVT: MASK is stored, FLAGS are W1C, and a bit posted in the same cycle stays (R289). -/
def writeTskEvt (m : Mach) (t : Nat) (v : Word) : Mach :=
  m.modTask t (fun x => { x with mask := v.extractLsb' 32 32, flags := x.flags &&& ~~~((m.clears (.flags t) v).truncate 32) })

/-! Posts (R289, R290) -/

/-- A core's store to TSK_POST: it completes when admitted, and until then the core issues nothing (R290). -/
def storePost (m : Mach) (c : BitVec 4) (v : Word) : Mach :=
  let x := m.core c
  if coreLive x then m.setCore c { x with run := .posting v, fresh := false } else m

/-- What the poster at a position of the round-robin would post: cores 0 to 15 their store, else a wake in their place (R312), then sources. -/
def poster (m : Mach) (i : Nat) : Option (BitVec 10 × BitVec 32) :=
  if i < 16 then
    match (m.core (BitVec.ofNat 4 i)).run with
    | .posting v => some (v.extractLsb' 32 10, v.truncate 32)
    | _ => (m.corePosts.find? (fun q => q.1.toNat = i)).map (fun q => (q.2.2, 1#32 <<< q.2.1.toNat))
  else SMap.get? m.sched.hwPost (i - 16)

/-- Remove the first element that satisfies p. -/
def removeFirst {α : Type} (p : α → Bool) : List α → List α
  | [] => []
  | x :: r => if p x then r else x :: removeFirst p r

/-- The poster at a position has been admitted; the next event a hardware source had blocked makes its post (R290). -/
def posted (m : Mach) (i : Nat) : Mach :=
  if i < 16 then
    let c : BitVec 4 := BitVec.ofNat 4 i
    let x := m.core c
    match x.run with
    | .posting _ => m.coreDone c { x with run := .running, th := x.th.next }
    | _ => { m with corePosts := removeFirst (fun q => q.1.toNat == i) m.corePosts }
  else
    let m := m.modSched (fun s => { s with hwPost := SMap.erase s.hwPost (i - 16) })
    match SMap.getD m.sched.hwNext (i - 16) 0 with
    | 0 => m
    | n => (m.modSched (fun s => { s with hwNext := if n = 1 then SMap.erase s.hwNext (i - 16) else SMap.set s.hwNext (i - 16) (n - 1) })).requestPost (i - 16)

/-- Positions of the posters that wait, in round-robin order. -/
def posters (m : Mach) : List Nat :=
  ((List.range 144).map (fun i => (m.sched.rr + 1 + i) % 144)).filter (fun i => (m.poster i).isSome)

/-- Admit one poster. -/
def admitPost (m : Mach) (i : Nat) : Mach :=
  match m.poster i with
  | some q =>
    let m := m.posted i
    m.modSched (fun s => { s with postQ := s.postQ ++ [q], rr := i })
  | none => m

/-- Up to 4 waiting posters are admitted while the queue has room (R290). -/
def postAdmission (m : Mach) : Mach := (m.posters.take (Nat.min 4 (64 - m.sched.postQ.length))).foldl admitPost m

/-- A parity error in a task's registers: logged, and they take their reset values (R444). -/
def taskParity (m : Mach) (t : Nat) : Mach :=
  let v := (m.task t).stat
  (m.logErr 3 0x0B 0 none t v).modTask t (fun x => { ({} : Task) with running := x.running })

/-- The queue applies one post (R289, R290). -/
def postApply (m : Mach) : Mach :=
  match m.sched.postQ with
  | [] => m
  | (t, f) :: r =>
    let m := (m.modSched (fun s => { s with postQ := r })).count 0x4C00 0x02
    let new : BitVec 32 := f &&& ~~~(m.task t.toNat).flags
    ((m.modTask t.toNat (fun x => { x with flags := x.flags ||| f })).hwSet (.flags t.toNat) (f.zeroExtend 64)).hwSet (.newFlags t.toNat) (new.zeroExtend 64)

/-! Dispatch and end (R286 to R288) -/

/-- Whether a core is idle (R286). -/
def idle (m : Mach) (c : BitVec 4) : Bool :=
  let x := m.core c
  x.run == .waiting && x.task == 0x3FF && x.entry.isNone && (pendingFor m.ic.now c.toNat).isEmpty

/-- The lowest idle core in a task's AFFINITY. -/
def idleFor (m : Mach) (t : Nat) : Option (BitVec 4) :=
  ((List.range 16).map (BitVec.ofNat 4)).find? (fun c => (m.task t).cfg.getLsbD (32 + c.toNat) && m.idle c)

/-- The tasks that became READY before this hub cycle, in the order of R286: lower PRIO, then earlier READY, then lower number. -/
def dispatchOrder (m : Mach) : List Nat :=
  let prio := fun (e : Nat × Nat) => bits (m.task e.1).cfg 51 48
  (sortBy (fun x y => decide (prio x < prio y ∨ (prio x = prio y ∧ (x.2 < y.2 ∨ (x.2 = y.2 ∧ x.1 < y.1)))))
    (m.sched.ready.filter (fun e => decide (e.2 < m.cycle)))).map (·.1)

/-- Dispatch a task to a core: what is captured of FLAGS and MASK leaves FLAGS; a post applied in the same hub cycle comes after the capture, so its bits stay (R287). -/
def dispatchTask (m : Mach) (t : Nat) (c : BitVec 4) : Mach :=
  let x := m.task t
  let got := x.flags &&& x.mask &&& ~~~((m.setsOf (.newFlags t)).truncate 32)
  let keep : BitVec 32 := (m.setsOf (.flags t)).truncate 32
  let m := m.modTask t (fun x => { x with flags := x.flags &&& ~~~(got &&& ~~~keep), running := some c })
  let y := m.core c
  let th := ((y.th.put 1 (BitVec.ofNat 64 t)).put 2 (got.zeroExtend 64)).put 3 x.arg
  let st : Word := (y.status &&& ~~~5) ||| 4 ||| at64 (b2n (x.cfg.getLsbD 53)) 0
  (m.setCore c { y with run := .running, task := BitVec.ofNat 10 t, status := st,
                        th := { th with pc := (x.cfg.truncate 32 : BitVec 32) &&& 0x3FFFC } }).count 0x4C00 0x01

/-- At most one task is dispatched: the first in order that has an idle core (R286). -/
def taskDispatch (m : Mach) : Mach :=
  match (m.dispatchOrder).findSome? (fun t => (m.idleFor t).map (fun c => (t, c))) with
  | some (t, c) => m.dispatchTask t c
  | none => m

/-- A store to TSK_END ends the task the core runs; with no task it has no effect (R288). -/
def storeEnd (m : Mach) (c : BitVec 4) : Mach :=
  let x := m.core c
  if x.task = 0x3FF then m
  else
    let t := x.task.toNat
    (m.setCore c { x with task := 0x3FF }).modTask t (fun y => { y with running := none })

/-- A core that has issued a store goes on; a store to TSK_POST completes at its admission (R290). -/
def storeIssued (m : Mach) (c : BitVec 4) : Mach :=
  let x := m.core c
  match x.run with
  | .posting _ => m
  | _ => m.coreDone c { x with th := x.th.next }

/-! Event rings (R292) -/

def evRing (m : Mach) (r : Nat) : Evr := SMap.getD m.evr r {}
def modEvr (m : Mach) (r : Nat) (f : Evr → Evr) : Mach := { m with evr := SMap.set m.evr r (f (m.evRing r)) }

/-- A write of EVR_CFG: BASE and LOG2N only while EN is 0, a LOG2N of 0 to 3 or a BASE off its ring size leaves its field, EN = 1 sets both counts to 0; where the ring is full from then on and a record is held, source 34 rises (R292, R298). -/
def writeEvrCfg (m : Mach) (r : Nat) (v : Word) : Mach :=
  let was := (m.evRing r).full
  let m := m.modEvr r (fun x =>
    let en := x.cfg.getLsbD 63
    let cfg := if en then x.cfg
      else
        let lg := if bits v 35 32 < 4 then bits x.cfg 35 32 else bits v 35 32
        let base := bits v 25 5 * 32
        let base := if base % (32 * 2 ^ lg) = 0 then base else bits x.cfg 25 5 * 32
        at64 lg 32 ||| at64 base 0
    let cfg := (cfg &&& 0x7FFFFFFFFFFFFFFF) ||| (v &&& 0x8000000000000000)
    if v.getLsbD 63 then { x with cfg := cfg, prod := 0, cons := 0 } else { x with cfg := cfg })
  if !was && (m.evRing r).full && (m.evRing r).held != [] then m.raiseSource 34 else m

/-- Hub-store address of the slot of a count. -/
def evrSlot (x : Evr) : Nat := hubBase + bits x.cfg 25 5 * 32 + 32 * (x.prod.toNat % x.size)

/-- Hardware writes the oldest record its producers hold, when the ring has room and the ring's source holds no post; where that fills the ring and a further record is held, source 34 rises (R290, R292, R298). -/
def eventRingWrite (m : Mach) (r : Nat) : Mach :=
  let x := m.evRing r
  match x.held with
  | [] => m
  | rc :: rest =>
    if x.full || (SMap.get? m.sched.hwPost r).isSome then m
    else
      let rc := if r = 1 ∨ r = 2 then rc.set 2 m.wallNow else rc
      let m := m.hubWrite (evrSlot x) (wordsBytes (rc.take 4))
      let m := if r = 1 then m.count 0x4C00 0x05 else m
      let m := (m.modEvr r (fun x => { x with held := rest, prod := x.prod + 1 })).requestPost r
      if rest != [] && (m.evRing r).full then m.raiseSource 34 else m

/-! Tile rollback queue registers (R293) -/

/-- TILE_RBQ_FREE. -/
def rbqFree (m : Mach) (t : TileId) : Word :=
  let x := m.tile t
  at64 x.rbOvf 6 ||| at64 (32 - x.rbq.length) 0

/-- A write of TILE_RBQ_KEY enqueues the request of TILE_RBQ_NODE and decrements OVF; with FREE 0 it is dropped, logged, whether or not the job is loaded, and faults the job (R293). -/
def writeRbqKey (m : Mach) (t : TileId) (v : Word) : Mach :=
  let x := m.tile t
  let j : JobId := x.rbNode.extractLsb' 56 3
  let node : NodeId := x.rbNode.truncate 40
  let key : Key := v.truncate 60
  if 32 ≤ x.rbq.length then
    if (m.job j).state = .empty then m.logErr 0 0x03 0x0209 (some j) t.toNat x.rbNode v
    else m.faultJob j 0x0209 0x03 t.toNat x.rbNode v
  else
    let ovf := x.rbOvf - 1
    let anti := match x.rbOut.find? (fun q => q.job == j && q.node == node && q.key == key) with
      | some q => q.anti
      | none => false
    m.setTile t { x with
      rbq := x.rbq ++ [⟨j, node, key, anti⟩], rbOvf := ovf,
      rbOvfMin := if ovf = 0 then [] else x.rbOvfMin,
      rbOut := removeFirst (fun q => q.job == j && q.node == node && q.key == key) x.rbOut }

end Mach

/-- TSK_POST: a store of a core posts flags to a task and completes when admitted (R290). -/
def execTskPost (c : BitVec 4) (v : Word) (s : State) : Res := s.on (fun m => m.storePost c v)
/-- POST_ADMISSION (R290). -/
def execPostAdmission (s : State) : Res := s.on Mach.postAdmission
/-- POST_APPLY (R290); a parity error in the registers of its task resets them first (R444). -/
def execPostApply (bad : Bool) (s : State) : Res :=
  s.on (fun m => match m.sched.postQ, bad with
    | (t, _) :: _, true => (m.taskParity t.toNat).postApply
    | _, _ => m.postApply)
/-- TASK_DISPATCH (R286, R287). -/
def execTaskDispatch (s : State) : Res := s.on Mach.taskDispatch
/-- TSK_END: a store of a core, which issues, ends its task, and the core goes on (R283, R288). -/
def execTskEnd (c : BitVec 4) (s : State) : Res :=
  s.on (fun m => if coreLive (m.core c) then (m.storeEnd c).storeIssued c else m)
/-- TSK_CFG: a write of a task's configuration (R288). -/
def execTskCfg (t : BitVec 10) (v : Word) (s : State) : Res := s.on (fun m => m.writeTskCfg t.toNat v)
/-- EVENT_RING_WRITE (R292). -/
def execEventRingWrite (r : BitVec 2) (s : State) : Res := s.on (fun m => m.eventRingWrite r.toNat)
/-- EVR_CFG (R292). -/
def execEvrCfg (r : BitVec 2) (v : Word) (s : State) : Res := s.on (fun m => m.writeEvrCfg r.toNat v)
/-- TILE_RBQ_KEY (R293). -/
def execTileRbqKey (t : TileId) (v : Word) (s : State) : Res := s.on (fun m => m.writeRbqKey t v)

end Sys2Proof.Machine
end

