-- ==== Sys2Proof/Machine/Rollback.lean ====
section
/-! DEFINITION. Rollback, the commit and rollback sweeps, fossil collection and the store writer (R63, R149 to R160, R173 to R176). -/

namespace Sys2Proof.Machine

namespace Mach

/-! Anti-tokens (R155) -/

/-- The target tag a summary slot names for a firing at a tag (R168, R47). -/
def slotTarget (t : Tag) (eoff : BitVec 23) : Tag :=
  if eoff = 0 then ⟨t.time, t.delta + 1⟩
  else
    let x := t.time.toNat + eoff.toNat
    if 2 ^ 64 ≤ x then ⟨BitVec.allOnes 64, 0⟩ else ⟨BitVec.ofNat 64 x, 0⟩

/-- The anti-tokens of one undone firing: for each summary slot, each port named and each arc of its fanout, word for word the token sent, with KIND 0b01, the firing's generation and planes of 0. -/
def antisOf (m : Mach) (r : NRef) (t : Tag) (es : List (Nat × JEntry)) : List (Token × Tag) :=
  es.flatMap (fun e => ((List.range 8).filter (fun k => e.2.emask.getLsbD k)).flatMap (fun k =>
    (m.arcs r k).map (fun w =>
      let tg := slotTarget t e.2.eoff
      let fs := w.getLsbD 63 && m.fourState
      (Token.mk' e.2.gen r.job fs 1 (w.extractLsb' 40 3) (w.truncate 40) tg.short tg.delta 0 0, tg))))

/-- Put anti-tokens into Emit ahead of any token of a later firing, behind those of earlier rollbacks. -/
def queueAntis (m : Mach) (r : NRef) (t : Tag) (gen : Byte) (l : List (Token × Tag)) : Mach :=
  if l = [] then m
  else
    let isAnti := fun (e : EmitJob) => match e.kind with
      | .antis _ => true
      | _ => false
    let j : EmitJob := { kind := .antis l, job := r.job, node := r.node, tag := t, safe := false, gen := gen, arrived := [],
                         emits := [], stores := [], stw := [], jents := [], arcs := 0 }
    m.modPe r.pe (fun x => { x with emitQ := x.emitQ.takeWhile isAnti ++ j :: x.emitQ.dropWhile isAnti })

/-! Rollback (R149, R152, R153, R159) -/

/-- The firing of a node in Fire. -/
def inFire (m : Mach) (r : NRef) : Option (Nat × Ctx) :=
  (m.pe r.pe).ctxs.find? (fun c => c.2.job == r.job && c.2.node == r.node)

/-- Whether a firing of the node stands in Emit. -/
def inEmit (m : Mach) (r : NRef) : Bool :=
  (m.pe r.pe).emitQ.any (fun e => e.job == r.job && e.node == r.node && !(match e.kind with
    | .antis _ => true
    | _ => false))

/-- Whether a rollback is in progress in a PE: its sweep has not run. -/
def rollingBack (m : Mach) (p : PeId) : Bool :=
  (m.pe p).sweeps.any (fun s => match s with
    | .rollback _ => true
    | _ => false)

/-- Whether the rollback of a request can start (R152, R153). -/
def rbReady (m : Mach) (q : RbReq) : Bool :=
  let r : NRef := ⟨q.job, nodePe q.node, nodeLocal q.node⟩
  !m.rollingBack r.pe && !m.inEmit r && !m.nodeWaits r && (match m.inFire r with
    | some (_, x) => !(x.tag.lt (m.tagOf q.job q.key))
    | none => true)

/-- Whether a node has entries in its tile's probe filter (R335). -/
def filtered (m : Mach) (r : NRef) : Bool :=
  (m.tile (peTile r.pe)).filter.any (fun f => f.job == r.job && f.node == mkNode m.number r.pe r.node)

/-- Undo the uncommitted speculative firings of a node from a key on: state words restored latest first, held values and last firing tag rebuilt (R152, R154). -/
def undoFirings (m : Mach) (r : NRef) (k : Key) (t : Tag) : Mach :=
  let u := sortBy (fun (x y : Nat × JEntry) => keyLt y.2.key x.2.key) (m.specHeads r k)
  (u.foldl (fun m e => m.restoreState r (m.jOf r e.2.key)) m).rebuildHeld r (some t)

/-- Advance the generation, count the rollback and pin the node at the 128th (R48, R158, R159). -/
def countRollback (m : Mach) (r : NRef) (anti : Bool) (n : Nat) : Mach :=
  let m := m.advanceGen r
  let c := m.rbc r + 1
  let m := (m.setWt r (m.le r)).setPinRbc r (decide (128 ≤ c)) c
  let m := (m.countJ 0x4500 r.job 0x01).undone r.job (peTile r.pe) n
  let m := if anti then m.countJ 0x4500 r.job 0x02 else m
  if c = 128 then m.countJ 0x4500 r.job 0x05 else m

/-- Discard the pending traps of a node from a tag on (R157). -/
def discardPending (m : Mach) (r : NRef) (t : Tag) : Mach :=
  let me := mkNode m.number r.pe r.node
  let gone := fun (x : PendTrap) => x.job == r.job && x.node == me && t.le x.tag
  let n := ((m.tile (peTile r.pe)).pend.filter gone).length
  (m.modTile (peTile r.pe) (fun x => { x with pend := x.pend.filter (fun y => !gone y) })).countJ 0x4500 r.job 0x07 n

/-- What a rollback reads: the journal entries of the firings it undoes, the node, its settled record, and its fanout block. Whether a word of them is lost, which faults the job (Table 11-4). -/
def rollbackFetch (m : Mach) (r : NRef) (l : List (Nat × JEntry)) : Bool × Mach :=
  let s := (m.job r.job).state
  let m := m.journalRead (peTile r.pe) (l.map (·.1))
  if (m.job r.job).state ≠ s then (true, m)
  else
    match m.nodeFetch r with
    | (true, m) => (true, m)
    | (false, m) =>
      match m.settledFetch r with
      | (true, m) => (true, m)
      | (false, m) => m.fanFetch r

/-- Carry out a rollback of a node to a tag (R152). A pinning rollback is extended to the earliest uncommitted speculative firing of the node (R159); the test for a safe firing overtaken is made for the requested tag alone, which the spec leaves open (the model's choice, log entry 82). The entry of the log for a safe firing overtaken stands under block 0x01, with the node in DATA0, the full time of T in DATA1, that of the firing overtaken in DATA2 and both deltas in DATA3: R149 names what it holds, and no table where (the model's choice, log entry 44). A lost word of what it reads faults the job (R242). -/
def rollback (m : Mach) (r : NRef) (k : Key) (anti : Bool) : Mach :=
  let t := m.tagOf r.job k
  let node := mkNode m.number r.pe r.node
  let a := (m.inFire r).filter (fun c => t.le c.2.tag)
  let sft := m.sft r
  let overtaken := match a with
    | some c => c.2.safe
    | none => false
  if overtaken || (sft != noTag && t.le sft) then
    let o := match a with
      | some c => if c.2.safe then c.2.tag else sft
      | none => sft
    m.faultJob r.job 0x0204 0x01 r.pe.toNat (node.zeroExtend 64) t.time o.time (o.delta ++ (0 : BitVec 40) ++ t.delta)
  else
    let inA := fun (e : Nat × JEntry) => match a with
      | some c => e.2.key == c.2.tag.key
      | none => false
    let u0 := (m.specHeads r k).filter (fun e => !inA e)
    if a.isNone ∧ u0 = [] then m
    else
      let pin := decide (127 ≤ m.rbc r)
      let heads := fun (k : Key) => (m.specHeads r k).filter (fun e => !inA e)
      let gk := (m.job r.job).gvt.key
      let ks := (heads gk).map (fun e => e.2.key)
      let k := if pin then (match leastBy keyLt (k :: ks) with
        | some x => x
        | none => k) else k
      let t := m.tagOf r.job k
      let u := sortBy (fun (x y : Nat × JEntry) => keyLt x.2.key y.2.key) (heads k)
      let n := u.length + b2n a.isSome
      let (lost, m) := m.rollbackFetch r (u.flatMap (fun e => m.jOf r e.2.key))
      if lost then m
      else
      let m := match a with
        | some c => m.modPe r.pe (fun x => { x with ctxs := SMap.erase x.ctxs c.1 })
        | none => m
      let antis := u.flatMap (fun e => m.antisOf r (m.tagOf r.job e.2.key) (m.jOf r e.2.key))
      let gen := m.nGen r
      let m := (m.undoFirings r k t).countRollback r anti n
      let m := (m.queueAntis r t gen antis).discardPending r t
      let gone := ((m.tile (peTile r.pe)).journal.filter (fun e => e.2.job == r.job && !e.2.fossil
        && e.2.node == node24 r.pe r.node && keyLe k e.2.key)).map (·.1)
      let m := (m.freeEntries (peTile r.pe) gone).countJ 0x4600 r.job 0x04 gone.length
      let m := if m.filtered r then m.probeSend (.cancel (peTile r.pe) r.job node t (m.nGen r)) else m
      m.modPe r.pe (fun x => { x with sweeps := x.sweeps ++ [.rollback { job := r.job, node := r.node, key := k }] })

/-- The first request of the tile's queue that can start, with none before it for the same PE. -/
def nextRb (m : Mach) (t : TileId) : Option RbReq :=
  let q := (m.tile t).rbq
  ((q.zipIdx).find? (fun (x, i) => m.rbReady x && !(q.take i).any (fun y => nodePe y.node == nodePe x.node))).map (·.1)

/-- A tile starts the rollback of its first request that can start (R152, R153). -/
def rollbackStep (m : Mach) (t : TileId) : Mach :=
  match m.nextRb t with
  | none => m
  | some q =>
    let m := m.modTile t (fun x => { x with rbq := removeFirst (· == q) x.rbq })
    if !m.live q.job then m
    else m.rollback ⟨q.job, nodePe q.node, nodeLocal q.node⟩ q.key q.anti

/-! Sweeps (R63, R154, R157 to R159, R169) -/

/-- A sweep of a PE reads E0 and E1 of every entry of its Iris, and of its entries in the MOB (R63, R237). -/
def sweepRead (m : Mach) (p : PeId) : Mach :=
  if m.ms.sramFlaw = [] then m
  else
    let mine := (((m.cluster (peCluster p)).mob).filter (fun e => e.2.locPe == (p.truncate 7 : BitVec 7))).map (·.1)
    (m.sramTouch (peTile p) 0 (p.toNat % 128) (fun w => decide (w % 4 < 2))).sramTouch (peTile p) 3 (mobUnit p)
      (fun w => decide (w % 4 < 2) && w / 4 ∈ mine)

/-- The rollback sweep: FIRED groups of the node from the tag on return to WAITING. -/
def sweepBack (m : Mach) (p : PeId) (g : GRef) : Mach :=
  let m := m.sweepRead p
  let r := g.nref p
  let t := m.tagOf g.job g.key
  let back := (m.groupsOf r).filter (fun x => x.2.gstate == .fired && t.le (m.tagOf g.job x.2.key))
  back.foldl (fun m (pl, h) => ((m.setGState p pl h.ref .waiting).hregAdd p pl h.ref).evalReady p h.ref) m

/-- Nodes of a PE whose window tag is passed have their rollback count cleared and their pin released. -/
def clearRbc (m : Mach) (p : PeId) (j : JobId) (g : Tag) : Mach :=
  (List.range (m.ncount j p)).foldl (fun m n =>
    let r : NRef := ⟨j, p, BitVec.ofNat 17 n⟩
    if m.rbc r = 0 then m
    else if (m.wt r).ltRec g then m.setPinRbc r false 0 else m) m

/-- The commit sweep of a job has run in the last of its PEs: the pending traps of the firings it committed are raised in tag order, ties to the lower node; then the job faults, each cause with its entry in the log and the lowest code in FAULT_REASON, or pauses as with tag 0 when all were USER traps that ask for it (R157, R447). -/
def raisePending (m : Mach) (j : JobId) (g : Tag) : Mach :=
  let mine := fun (x : PendTrap) => x.job == j && x.tag.lt g
  let l := sortBy (fun (x y : PendTrap) => x.tag.lt y.tag || (x.tag == y.tag && decide (x.node.toNat < y.node.toNat)))
    (m.tiles.flatMap (fun t => t.2.pend.filter mine))
  let sweeping := m.pes.any (fun p => p.2.sweeps.any (fun s => match s with
    | .commit k _ => k == j
    | _ => false))
  if l = [] || sweeping then m
  else
    let m := { m with tiles := m.tiles.map (fun (k, x) => (k, { x with pend := x.pend.filter (fun y => !mine y) })) }
    let m := l.foldl (fun m x => (m.raiseRecord j [x.t0, x.t1, x.t2, x.t3]).countJ 0x4500 j 0x06) m
    let bad := l.filter (fun x => !userPause [x.t0, x.t1, x.t2, x.t3])
    let code := fun (x : PendTrap) => 0x100 + bits x.t0 47 40
    if bad = [] then m.pauseInside j none 0x01
    else
      let first := (m.job j).faultReason
      let m := bad.foldl (fun (m : Mach) (x : PendTrap) => m.faultJob j (code x) 0x01 (nodePe x.node).toNat x.t0 x.t1 x.t2 x.t3) m
      if (m.job j).faultReason = first then m
      else m.modJob j (fun b => { b with faultReason := BitVec.ofNat 16 ((bad.map code).foldl Nat.min 0xFFFF) })

/-- Whether the groups of a job stand to be swept: it has its design, and no fault has settled them (R163). -/
def sweepable (m : Mach) (j : JobId) : Bool :=
  match (m.job j).state with
  | .empty | .faulted => false
  | _ => true

/-- The commit sweep of a PE for a GVT: FIRED groups below it are folded into the settled records and freed, counts and pins below it cleared, summary holds below it freed; the last PE of the job to sweep raises the pending traps. The final commit of a job that has gone on to HALTED or TIME EXHAUSTED is swept like any other (R63, R154, R195). -/
def sweepCommit (m : Mach) (p : PeId) (j : JobId) (g : Tag) : Mach :=
  let m := m.sweepRead p
  let l := sortBy (fun (x y : Place × Entry) => (m.tagOf j x.2.key).lt (m.tagOf j y.2.key)) (m.firedBelow p j g)
  let m := l.foldl (fun m (pl, h) =>
    if !m.sweepable j then m
    else
      match m.settledFetch (h.ref.nref p) with
      | (true, m) => m
      | (false, m) => (m.foldGroup p pl h.ref).freeGroup p pl h.ref) m
  let m := m.modTile (peTile p) (fun t => { t with
    holds := t.holds.filter (fun h => !(h.job == j && nodePe h.node == p && (m.tagOf j h.key).lt g)) })
  (m.clearRbc p j g).raisePending j g

/-- Whether a sweep waits because a unit of HBM that holds a record of its nodes is being copied (R252). -/
def sweepWaits (m : Mach) (p : PeId) (s : Sweep) : Bool :=
  m.ms.copying != [] && (match s with
    | .commit j g => (m.firedBelow p j g).any (fun e => m.nodeWaits (e.2.ref.nref p))
    | .rollback g => m.nodeWaits (g.nref p))

/-- Carry out a sweep of a PE. -/
def runSweep (m : Mach) (p : PeId) : Sweep → Mach
  | .commit j g => m.sweepCommit p j g
  | .rollback g => m.sweepBack p g

/-- The job a sweep belongs to. -/
def sweepJob : Sweep → JobId
  | .commit j _ => j
  | .rollback g => g.job

/-- The next sweep of a PE is carried out. -/
def sweep (m : Mach) (p : PeId) : Mach :=
  match (m.pe p).sweeps with
  | [] => m
  | s :: rest => if m.sweepWaits p s then m else (m.modPe p (fun x => { x with sweeps := rest })).runSweep p s

/-- The first pending-trap record that the next sweep of a PE reads. -/
def pendRead (m : Mach) (p : PeId) : Option PendTrap :=
  match (m.pe p).sweeps with
  | .commit j g :: _ => (m.tile (peTile p)).pend.find? (fun x => x.job == j && x.tag.lt g)
  | _ => none

/-- Every sweep of a job that still waits is carried out, in the order of its PEs: the end of a STOP comes after the final commit has been swept (R157, Table 15-8). -/
def finishSweeps (m : Mach) (j : JobId) : Mach :=
  (m.jobPes j).foldl (fun m p =>
    let mine := (m.pe p).sweeps.filter (fun s => sweepJob s == j)
    mine.foldl (fun m s => (m.modPe p (fun x => { x with sweeps := removeFirst (· == s) x.sweeps })).runSweep p s) m) m

/-! Fossil collection and the store writer (R174 to R176) -/

/-- The stores a firing's head entry and its tail hold; none where the entries were not written or hold no stores. -/
def entryStores (m : Mach) (t : TileId) (h : JEntry) (tl : Option JEntry) : List SRec :=
  let r : NRef := ⟨h.job, t ++ (h.node.extractLsb' 17 7 : BitVec 7), h.node.truncate 17⟩
  match tl with
  | some x => if h.written && m.nMode r == 3 then jStores h x else []
  | none => []

/-- The tail of the firing a head belongs to. -/
def tailOf (m : Mach) (t : TileId) (h : JEntry) : Option (Nat × JEntry) :=
  (m.tile t).journal.find? (fun e => e.2.tail && e.2.job == h.job && e.2.node == h.node && e.2.key == h.key)

/-- Fossil collection of a job in a tile: entries below GVT are freed; a firing with stores passes to the store writer, in ascending KEY order. -/
def fossil (m : Mach) (t : TileId) (j : JobId) : Mach :=
  let g := (m.job j).gvt
  let old := (m.tile t).journal.filter (fun e => e.2.job == j && !e.2.fossil && (m.tagOf j e.2.key).lt g)
  let heads := sortBy (fun (x y : Nat × JEntry) => keyLt x.2.key y.2.key) (old.filter (fun e => !e.2.tail))
  let keep := heads.filterMap (fun (i, h) =>
    match m.tailOf t h with
    | some (k, tl) => if m.entryStores t h (some tl) != [] then some (i, k) else none
    | none => none)
  let kept := keep.flatMap (fun (i, k) => [i, k])
  let gone := (old.map (·.1)).filter (fun i => !(i ∈ kept))
  let m := (m.freeEntries t gone).countJ 0x4600 j 0x03 gone.length
  m.modTile t (fun x => { x with
    journal := x.journal.map (fun (i, e) => if i ∈ kept then (i, { e with fossil := true }) else (i, e)),
    storeQ := x.storeQ ++ keep.map (fun (i, k) => ⟨i, k, 0, 0⟩) })

/-- The stores of a firing in the store writer, with the node they belong to. -/
def jobStores (m : Mach) (t : TileId) (s : StoreJob) : Option (NRef × List SRec) :=
  match SMap.get? (m.tile t).journal s.head, SMap.get? (m.tile t).journal s.tail with
  | some h, some tl => some (⟨h.job, t ++ (h.node.extractLsb' 17 7 : BitVec 7), h.node.truncate 17⟩, jStores h tl)
  | _, _ => none

/-- Module address of a store of a node (R107). -/
def storeAddr (m : Mach) (r : NRef) (x : SRec) : Nat := (m.job r.job).dmem.base + m.nDmBase r + x.off

/-- The store writer of a tile issues its next write, a WR of agent 0x80 for the 16 B that hold the store (R176, R215). -/
def storeWrite (m : Mach) (t : TileId) : Mach :=
  match ((m.tile t).storeQ.zipIdx).find? (fun (s, _) => match m.jobStores t s with
    | some (_, l) => decide (s.issued < l.length)
    | none => false) with
  | none => m
  | some (s, i) =>
    match m.jobStores t s with
    | some (r, l) =>
      match l[s.issued]? with
      | some x =>
        let lost := m.journalLost t s.tail
        let m := (m.journalRead t [s.head, s.tail]).countJ 0x4600 r.job 0x05
        let q : TReq := { agent := 0x80, wr := true, addr := m.storeAddr r x / 16 * 16, units := 1, job := r.job,
                          what := .store s.head s.issued lost, since := m.coreCycle }
        m.modTile t (fun y => { y with storeQ := y.storeQ.set i { s with issued := s.issued + 1 }, reqs := y.reqs ++ [q] })
      | none => m
    | none => m

/-- Store k of the firing in the store writer whose head entry is given, with its node. -/
def storeRec (m : Mach) (t : TileId) (head k : Nat) : Option (NRef × SRec) :=
  ((m.tile t).storeQ.find? (fun (s : StoreJob) => s.head == head)).bind (fun s =>
    (m.jobStores t s).bind (fun x => (x.2[k]?).map (fun y => (x.1, y))))

/-- A store of the store writer reaches HBM: its bytes are written as its entries hold them, safe stores merged meanwhile included (R151); data that was lost in the journal becomes poison (R238). -/
def storeServed (m : Mach) (t : TileId) (head k : Nat) (lost : Bool) : Mach :=
  match m.storeRec t head k with
  | some (r, x) =>
    let m := m.storeToMem r x
    if lost then (halvesOf (m.alias_ (m.storeAddr r x)) (wBytes x.w)).foldl halfPoison m else m
  | none => m

/-- A store of the store writer is acknowledged. -/
def storeAcked (m : Mach) (t : TileId) (head : Nat) : Mach :=
  m.modTile t (fun y => { y with storeQ := y.storeQ.map (fun (s : StoreJob) => if s.head = head then { s with acked := s.acked + 1 } else s) })

/-- The data units of a request's packet: the 16 B units of HBM with what the request writes in them. -/
def reqData (m : Mach) (t : TileId) (x : TReq) : List (BitVec 128) :=
  if !x.wr then []
  else
    let old := memBytes m.mem (m.alias_ x.addr) (16 * x.units)
    let bytes := match x.what with
      | .store head k _ =>
        match m.storeRec t head k with
        | some (r, s) =>
          let o := m.storeAddr r s - x.addr
          old.take o ++ natBytes (wBytes s.w) s.data.toNat ++ old.drop (o + wBytes s.w)
        | none => old
      | _ => old
    (List.range x.units).map (fun i => BitVec.ofNat 128 (bytesNat ((bytes.drop (16 * i)).take 16)))

/-- A stop takes the requests of its tile's agents, oldest first, while it takes packets and its injection queue has room (R219, R230). -/
def offerReqs (m : Mach) (die : BitVec 2) (s : BitVec 5) : Mach :=
  let t : TileId := die ++ (s.truncate 4 : BitVec 4)
  if 16 ≤ s.toNat ∨ (m.stop die s).fence ≠ 0 then m
  else
    ((m.tile t).reqs.filter (·.tid.isNone)).foldl (fun m x =>
      match m.freeTid t with
      | none => m
      | some k =>
        let p := m.reqPkt t k x (m.reqData t x)
        if m.room (qInj die s 2) p.units then
          (m.enq (qInj die s 2) p).modTile t (fun y => { y with reqs := replaceFirst (· == x) { x with tid := some k } y.reqs })
        else m) m

/-- Every store of the oldest firing in the store writer is acknowledged: its two entries are freed. -/
def storeAck (m : Mach) (t : TileId) : Mach :=
  match (m.tile t).storeQ with
  | [] => m
  | s :: rest =>
    match m.jobStores t s with
    | none => m.modTile t (fun y => { y with storeQ := rest })
    | some (r, l) =>
      if s.acked < l.length then m
      else
        let m := m.modTile t (fun y => { y with storeQ := rest })
        (m.freeEntries t [s.head, s.tail]).countJ 0x4600 r.job 0x03 2

/-- What a rescan reads: E0 and E1 of every entry of a MOB, or the entries of a tile's buckets in HBM (R186, R237, R242). -/
def rescanRead (m : Mach) (deep : Bool) (u : ClusterId) : Mach :=
  if deep then
    let t : TileId := u.truncate 6
    (m.deepFetch (t ++ 0#7) (m.tile t).deep).2
  else m.sramTouch (u.extractLsb' 4 6) 3 (bits u 3 0 * 8) (fun w => decide (w % 4 < 2))

/-- A rescan of a MOB or a deep-match partition for a job completes: its registers take the least values over the groups held that are not FIRED, and over those of the groups added since it started (R186). The groups it visited are taken to be those held as it completes: which of the groups removed meanwhile it came to first is a matter of cycles. -/
def rescan (m : Mach) (deep : Bool) (u : ClusterId) (j : JobId) : Mach :=
  let m := m.rescanRead deep u
  let least := fun (l : List (PeId × Entry)) =>
    let h := l.filter (fun e => e.2.head && e.2.job == j && e.2.gstate != .fired)
    (minTag (h.map (fun e => m.tagOf j e.2.key)),
     minTag (h.map (fun e => plusLa (m.tagOf j e.2.key) (m.lookahead j e.1))))
  let done := fun (h : HReg) (v : Option Tag × Option Tag) =>
    if h.rescan = 0 then h
    else { least := minTag (v.1.toList ++ h.added.toList), leastL := minTag (v.2.toList ++ h.addedL.toList),
           rescan := h.rescan - 1, added := none, addedL := none }
  if deep then
    let t : TileId := u.truncate 6
    let x := m.tile t
    let v := least ((x.deep ++ deepQEnts x).map (fun e => (t ++ e.2.locPe, e.2)))
    m.modTile t (fun x => { x with hreg := SMap.modify x.hreg j.toNat {} (fun h => done h v) })
  else
    let v := least ((m.cluster u).mob.map (fun e => ((u.extractLsb' 4 6 : BitVec 6) ++ e.2.locPe, e.2)))
    m.modCluster u (fun x => { x with hreg := SMap.modify x.hreg j.toNat {} (fun h => done h v) })

end Mach

/-- ROLLBACK: a tile starts its next rollback (R152). -/
def execRollback (t : TileId) (s : State) : Res := s.on (fun m => m.rollbackStep t)
/-- COMMIT_SWEEP: the next sweep of a PE (R63), or the pending-trap record it reads first has bad parity (R444). -/
def execCommitSweep (x : SweepAt) (s : State) : Res :=
  s.on (fun m => match x.par, m.pendRead x.pe with
    | .good, _ | _, none => m.sweep x.pe
    | par, some t => m.parityFault x.pe par t.job [t.t0, t.t1, t.t2, t.t3])
/-- FOSSIL_COLLECTION of a job in a tile (R174). -/
def execFossilCollection (t : TileId) (j : JobId) (s : State) : Res := s.on (fun m => m.fossil t j)
/-- STORE_WRITE of a tile's store writer (R176). -/
def execStoreWrite (t : TileId) (s : State) : Res := s.on (fun m => m.storeWrite t)
/-- STORE_ACK of a tile's store writer (R176). -/
def execStoreAck (t : TileId) (s : State) : Res := s.on (fun m => m.storeAck t)
/-- MOB_RESCAN: a rescan of a MOB or of a tile's deep-match partition completes (R186). -/
def execMobRescan (deep : Bool) (u : ClusterId) (j : JobId) (s : State) : Res := s.on (fun m => m.rescan deep u j)

end Sys2Proof.Machine
end

