-- ==== Sys2Proof/Machine/Repair.lean ====
section
/-! DEFINITION. Scrubbing, the Patch Table and correction history, the HBM Remap Table and error injection (R237 to R252, R256). -/

namespace Sys2Proof.Machine

/-! The SRAM words in scrub order -/

/-- SRAM words of one tile in scrub order: Iris, node-record cache and code cache of each PE, then the MOBs, then the journal slice. -/
def tileWords : Nat := 128 * 10240 + 16 * 8192 + 2048
/-- Words of the hub store and of the local memories. -/
def hubWords : Nat := hubSize / 8
def localWords : Nat := 16 * localSize / 8
/-- All SRAM words the scrubbers read. -/
def sramTotal : Nat := 64 * tileWords + hubWords + localWords

/-- A word the SRAM scrubber comes to: of a compute die, or of hub SRAM by module address. -/
inductive SWord where
  | die (d : BitVec 2) (loc : Nat)
  | hub (a : Nat)
deriving DecidableEq, Repr

/-- The word at a position of the scrub sequence. -/
def scrubWord (n : Nat) : SWord :=
  if n < 64 * tileWords then
    let t := n / tileWords
    let k := n % tileWords
    let loc := if k < 128 * 10240 then
        let u := k / 10240
        let w := k % 10240
        if w < 4096 then Mach.mkLoc 0 (t % 16) u w
        else if w < 8192 then Mach.mkLoc 1 (t % 16) u (w - 4096)
        else Mach.mkLoc 2 (t % 16) u (w - 8192)
      else if k < 128 * 10240 + 16 * 8192 then
        Mach.mkLoc 3 (t % 16) ((k - 128 * 10240) / 8192 * 8) ((k - 128 * 10240) % 8192)
      else Mach.mkLoc 4 (t % 16) 0 (k - 128 * 10240 - 16 * 8192)
    .die (BitVec.ofNat 2 (t / 16)) loc
  else if n < 64 * tileWords + hubWords then .hub (hubBase + 8 * (n - 64 * tileWords))
  else .hub (localBase + 8 * (n - 64 * tileWords - hubWords))

namespace Mach

/-! Scrubbing (R243, R244) -/

/-- A corrected word that waits is written back in a free bank cycle. -/
def writeback (m : Mach) : Mach :=
  match m.ms.wbQ with
  | [] => m
  | (d, loc) :: r => m.modMs (fun x => { x with wbQ := r, sramFlaw := SMap.erase x.sramFlaw (d * 2 ^ 32 + loc) })

/-- The SRAM scrubber reads its next word: corrected, or written back poisoned when it is lost. -/
def sramScrub (m : Mach) : Mach :=
  let n := m.ms.sramPos
  if !m.pw.pgood then m
  else if n = 0 ∧ m.objD 0x2700 0x01 100 = 0 then m
  else
    let m := match scrubWord n with
      | .die d loc =>
        match sramCheck (SMap.getD m.ms.sramFlaw (sramKey d loc) 0) with
        | .corrected => m.sramRead d loc
        | .bad =>
          let data := m.sramContent d loc
          ((m.sramRead d loc).modMs (fun x => { x with
            sramFlaw := SMap.set x.sramFlaw (sramKey d loc) poisonMask })).logPoison 0x06 (sramKey d loc) data
        | _ => m
      | .hub a =>
        match sramCheck (SMap.getD m.ms.hubFlaw a 0) with
        | .corrected => (m.hubWordRead a).2
        | .bad => ((m.hubWordRead a).2).modMs (fun x => { x with hubFlaw := SMap.set x.hubFlaw a poisonMask }) |>.logPoison 0x08 a (memWord m.mem a)
        | _ => m
    if n + 1 < sramTotal then m.modMs (fun x => { x with sramPos := n + 1 })
    else (m.modMs (fun x => { x with sramPos := 0 })).count 0x4A00 0x09

/-- The HBM scrubber reads its next half. -/
def hbmScrub (m : Mach) : Mach :=
  let n := m.ms.hbmPos
  if !m.pw.pgood then m
  else if n = 0 ∧ m.objD 0x2700 0x02 3600 = 0 then m
  else
    let h := 32 * n
    let m := match m.halfCheck h with
      | .corrected => (m.halfRead h).2
      | .bad => (((m.halfRead h).2).halfPoison h).hbmLost h
      | _ => m
    if h + 32 < hbmSize m.part then m.modMs (fun x => { x with hbmPos := n + 1 })
    else (m.modMs (fun x => { x with hbmPos := 0 })).count 0x4A00 0x0A

/-! Patch Table and correction history (R248 to R250) -/

def ptLoc (m : Mach) (die : BitVec 2) (e : Nat) : Word := SMap.getD m.ms.ptLoc (die.toNat * 32 + e) 0
def setPtLoc (m : Mach) (die : BitVec 2) (e : Nat) (w : Word) : Mach :=
  m.modMs (fun x => { x with ptLoc := SMap.set x.ptLoc (die.toNat * 32 + e) w })
/-- PT_DATA: the word it serves, or what it last held. -/
def ptData (m : Mach) (die : BitVec 2) (e : Nat) : Word :=
  let w := m.ptLoc die e
  if w.getLsbD 32 then m.sramContent die (bits w 31 0) else SMap.getD m.ms.ptData (die.toNat * 32 + e) 0

/-- Whether another valid entry of the die names a location. -/
def ptNamed (m : Mach) (die : BitVec 2) (e loc : Nat) : Bool :=
  (List.range 32).any (fun k => k != e && (m.ptLoc die k).getLsbD 32 && bits (m.ptLoc die k) 31 0 == loc)

/-- End a patch: PT_DATA is copied back into the macro word. -/
def patchEnd (m : Mach) (die : BitVec 2) (e : Nat) : Mach :=
  let w := m.ptLoc die e
  if !w.getLsbD 32 then m
  else
    let d := m.ptData die e
    let m := m.modMs (fun x => { x with ptData := SMap.set x.ptData (die.toNat * 32 + e) d })
    (m.setPtLoc die e (w &&& 0xFFFFFFFF)).logErr 0 0x07 0 none (sramKey die (bits w 31 0)) (BitVec.ofNat 64 e)

/-- Take a word into the Patch Table: copied with correction, or poisoned when it is lost. -/
def patchTake (m : Mach) (die : BitVec 2) (e loc : Nat) : Mach :=
  let k := sramKey die loc
  let c := sramCheck (SMap.getD m.ms.sramFlaw k 0)
  let m := if c == .clean then m else m.sramRead die loc
  let lost := c == .bad || c == .poison
  m.patchInstall die e loc lost

/-- A write of PT_LOC: one that names a word beyond its structure, or a location another valid entry names, is ignored; V from 0 to 1 installs, V 0 ends. -/
def writePtLoc (m : Mach) (die : BitVec 2) (e : Nat) (v : Word) : Mach :=
  let old := m.ptLoc die e
  let mask : Word := if 5 ≤ bits v 31 29 then 0x11FFC1FFF else 0x1FFFC1FFF
  let new := maskWrite old v mask
  let loc := bits new 31 0
  if locWords (locKind loc) ≤ locWord loc ∨ m.ptNamed die e loc then m
  else if !new.getLsbD 32 then (m.patchEnd die e).setPtLoc die e (at64 loc 0)
  else if old.getLsbD 32 ∧ bits old 31 0 = loc then m
  else (m.patchEnd die e).patchTake die e loc

/-- A write of CH_ENT: 1 to V clears V and COUNT. -/
def writeCh (m : Mach) (die : BitVec 2) (h : Nat) (v : Word) : Mach :=
  if (m.clears (.hist die.toNat h) v).getLsbD 32 then m.setCh die h (m.ch die h &&& 0xFFFFFFFF) else m

/-! HBM Remap Table (R251, R252) -/

/-- Units of a pseudo-channel on the part. -/
def unitsPerPc (m : Mach) : Nat := hbmSize m.part / 131072

/-- Exchange the bytes and flaws of two units. -/
def swapUnits (m : Mach) (u v : Nat × Nat × Nat) : Mach :=
  let bu := m.unitBytes u
  let bv := m.unitBytes v
  let m := (m.setUnit u bv).setUnit v bu
  let dest := fun (h : Nat) =>
    let off := (hbmPlace h).2.2 % 1024
    if unitOf h = u then hbmUnplace v.1 v.2.1 (v.2.2 * 1024 + off)
    else if unitOf h = v then hbmUnplace u.1 u.2.1 (u.2.2 * 1024 + off) else h
  m.modMs (fun x => { x with
    hbmFlaw := x.hbmFlaw.foldl (fun s e => SMap.set s (dest e.1) e.2) [],
    hbmPoison := x.hbmPoison.map dest, hbmMisaddr := x.hbmMisaddr.map dest })

/-- A write of HBM_REMAP: one that names a unit beyond the pseudo-channel, or a source another valid entry names, is ignored; V from 0 to 1 starts the copy, V to 0 ends the remap without one. -/
def writeRemap (m : Mach) (e : Nat) (v : Word) : Mach :=
  let v := v &&& 0x807FFFFFF7FFFFFF
  let old := SMap.getD m.ms.remap e 0
  let cap := m.unitsPerPc
  if cap ≤ (remapSrc v).2.2 ∨ cap ≤ (remapSpr v).2.2
      ∨ m.ms.remap.any (fun x => x.1 != e && x.2.getLsbD 63 && remapSrc x.2 == remapSrc v) then m
  else
    let m := if old.getLsbD 63 && (!v.getLsbD 63 || v != old) then
        if e ∈ m.ms.copying then m.modMs (fun x => { x with copying := x.copying.filter (· != e) })
        else m.swapUnits (remapSrc old) (remapSpr old)
      else m
    let m := m.modMs (fun x => { x with remap := SMap.set x.remap e v })
    let m := if v.getLsbD 63 && v != old then m.modMs (fun x => { x with copying := e :: x.copying }) else m
    (m.logRemap e v).zeroEnds

/-- The unit copy of an entry ends: the spare holds the data, with the halves that could not be corrected poisoned, and serves the source's addresses; the interrupt of the source's controller is raised (Table 14-1). -/
def remapCopied (m : Mach) (e : Nat) : Mach :=
  if !(e ∈ m.ms.copying) then m
  else
    let w := SMap.getD m.ms.remap e 0
    let src := remapSrc w
    let hs := (unitBlocks src).flatMap (fun b => (List.range 8).map (fun i => b + 32 * i))
    let bytes := m.unitBytes src
    let (bad, m) := hs.foldl (fun (acc : List Nat × Mach) h =>
      let (c, m) := acc.2.halfRead h
      (if c == .poison || c == .bad then h :: acc.1 else acc.1, m)) ([], m)
    let m := m.swapUnits src (remapSpr w)
    let m := m.setUnit src bytes
    let m := hs.foldl (fun m h => if h ∈ bad then m.halfPoison h else m.halfClear h) m
    ((m.modMs (fun x => { x with copying := x.copying.filter (· != e) })).zeroEnds).raiseSource (144 + src.1)

/-! Repair at boot (Table 11-5, R245 to R247, R253) -/

/-- Whether the fuse map and the soft repairs leave a spare of a macro for a failing line: each macro has 4 spare rows and 2 spare columns (R247). -/
def spareFree (m : Mach) (b : BadLine) : Bool :=
  let fused := Config.fusedSpares ((b.tile.map (·.toNat)).getD 64) b.mac.toNat b.col
  decide (fused + (m.ms.soft.filter (· == b)).length < (if b.col then 2 else 4))

/-- A failing line of step 3, and its soft repair in step 4 with an unused spare, each with its entry of the log; whether it was repaired (R246, R247). -/
def softRepair (m : Mach) (b : BadLine) : Bool × Mach :=
  let note := fun (m : Mach) (step : Nat) => m.logErr 0 0x12 0 none step
    (BitVec.ofNat 64 ((b.tile.map (·.toNat)).getD 64)) (b.mac.zeroExtend 64) (BitVec.ofNat 64 (b2n b.col))
  let m := note m 3
  if m.spareFree b then (true, note (m.modMs (fun x => { x with soft := x.soft ++ [b] })) 4) else (false, m)

/-- Steps 3 and 4 over the failing lines: the tiles that cannot be repaired, whether the hub die has a line that cannot, and the machine with the repairs made. -/
def softRepairs (m : Mach) (l : List BadLine) : BitVec 64 × Bool × Mach :=
  l.foldl (fun (acc : BitVec 64 × Bool × Mach) b =>
    let (ok, m) := acc.2.2.softRepair b
    if ok then (acc.1, acc.2.1, m)
    else match b.tile with
      | some t => (acc.1 ||| (1#64 <<< t.toNat), acc.2.1, m)
      | none => (acc.1, true, m)) (0, false, m)

/-- Step 6: the Patch Table entries of the repair log are installed again, each in the lowest free entry of its die. -/
def patchReload (m : Mach) : Mach :=
  m.repairLog.foldl (fun m r =>
    match r with
    | .patch die loc =>
      let l := loc.toNat
      (match m.patchFree die with
        | some e => if locWords (locKind l) ≤ locWord l ∨ m.ptNamed die 32 l then m else m.patchInstall die e l false
        | none => m)
    | _ => m) m

/-- Step 7: the rows of the repair log are repaired, each with its entry of the log: for good where HPPR_ENABLE is 1, else until the next boot (R253). -/
def rowRepair (m : Mach) : Mach :=
  m.repairLog.foldl (fun m r =>
    match r with
    | .row a =>
      if a ∈ m.hardRows then m
      else
        let m := m.logErr 0 0x12 0 none 7 (a.zeroExtend 64)
        if m.objD 0x2700 0x05 0 = 1 then { m with hardRows := m.hardRows ++ [a] }
        else m.modMs (fun x => { x with softRows := x.softRows ++ [a] })
    | _ => m) m

/-- Whether an HBM_REMAP entry is free: not in use, and not recorded in the repair log. -/
def remapFree (m : Mach) (e : Nat) : Bool :=
  !(SMap.getD m.ms.remap e 0).getLsbD 63 && m.repairLog.all (fun r =>
    match r with
    | .remap k _ => k.toNat != e
    | _ => true)

/-- The value of HBM_REMAP that serves a unit from a spare. -/
def remapWord (src spr : Nat × Nat × Nat) : Word :=
  at64 1 63 ||| at64 spr.1 53 ||| at64 spr.2.1 48 ||| at64 spr.2.2 28 ||| at64 src.1 25 ||| at64 src.2.1 20 ||| at64 src.2.2 0

/-- Units of the remap spare area, the last 1 MiB of the firmware region (R251). -/
def spareUnits : List (Nat × Nat × Nat) :=
  (List.range 4).flatMap (fun s => (List.range 32).flatMap (fun pc => (List.range 8).map (fun u => (s, pc, 0x1FF8 + u))))

/-- A unit as BOOT_STAGE names it: stack, pseudo-channel and unit. -/
def unitKey (u : BitVec 27) : Nat × Nat × Nat := (bits u 26 25, bits u 24 20, bits u 19 0)

/-- Whether the pattern test of step 9 covers a unit: all of HBM in mode 1, 1 MiB of the pseudo-channel in mode 0. -/
def bistCovers (m : Mach) (u : Nat × Nat × Nat) : Bool :=
  let first := Config.bistUnit (u.1 * 32 + u.2.1)
  decide (u.2.2 < m.unitsPerPc) && (m.objD 0x2700 0x03 0 == 1 || decide (first ≤ u.2.2 ∧ u.2.2 < first + 1024))

/-- A unit fails step 9: logged, and served from a spare by the lowest free HBM_REMAP entry, which is recorded in the repair log; none where no entry is free (R246). A unit the repair log already names needs no other entry. -/
def unitRepair (m : Mach) (all : List (Nat × Nat × Nat)) (u : Nat × Nat × Nat) : Option Mach :=
  let m := m.logErr 0 0x12 0 none 9 (BitVec.ofNat 64 (u.1 * 2 ^ 25 + u.2.1 * 2 ^ 20 + u.2.2))
  let used := (m.ms.remap.map (·.2)) ++ m.repairLog.filterMap (fun r =>
    match r with
    | .remap _ w => some w
    | _ => none)
  let held := used.filter (·.getLsbD 63)
  if held.any (fun w => remapSrc w == u) then some m
  else
    match (List.range 64).find? m.remapFree, spareUnits.find? (fun x => !(x ∈ all) && !held.any (fun w => remapSpr w == x)) with
    | some e, some x =>
      let w := remapWord u x
      let m := m.modMs (fun y => { y with remap := SMap.set y.remap e w })
      some ((m.repairNote (.remap (BitVec.ofNat 6 e) w)).logRemap e w)
    | _, _ => none

/-- Step 10: the HBM Remap Table is loaded from the repair log, each entry that changes with its entry of the log (R255), and all of HBM is zero-filled with valid line code. -/
def remapReload (m : Mach) : Mach :=
  let m := m.repairLog.foldl (fun m r =>
    match r with
    | .remap e w => if SMap.getD m.ms.remap e.toNat 0 = w then m
      else (m.modMs (fun y => { y with remap := SMap.set y.remap e.toNat w })).logRemap e.toNat w
    | _ => m) m
  { (m.modMs (fun y => { y with hbmFlaw := [], hbmPoison := [], hbmMisaddr := [], copying := [], zeroW := [] })) with
    mem := m.mem.filter (fun c => decide (hbmSize m.part ≤ c.1)) }

/-- Steps 6 to 10 of Table 11-5, with the units that fail step 9: none where one of them finds no free HBM_REMAP entry. -/
def memoryRepair (m : Mach) (units : List (BitVec 27)) : Option Mach :=
  let m := m.patchReload.rowRepair
  let us := ((units.map unitKey).eraseDups).filter m.bistCovers
  (us.foldl (fun (o : Option Mach) u => o.bind (fun m => m.unitRepair us u)) (some m)).map remapReload

/-! Injection (R256) -/

/-- ECC_INJECT_SRAM arms a location. -/
def injectSram (m : Mach) (v : Word) : Mach :=
    let bit := fun (n : Nat) => 1#72 <<< n
    let f := bit (bits v 50 44) ^^^ (if v.getLsbD 58 then bit (bits v 57 51) else 0)
    m.modMs (fun x => { x with sramInj := SMap.set x.sramInj (sramKey (v.extractLsb' 32 2) (bits v 31 0)) f })

/-- ECC_INJECT_HBM arms a half. -/
def injectHbm (m : Mach) (v : Word) : Mach :=
    let h := bits v 37 5 * 32
    let sym := fun (n : Nat) => 1#36 <<< n
    let f := sym (bits v 44 39) ||| (if v.getLsbD 51 then sym (bits v 50 45) else 0)
    if v.getLsbD 38 then
      m.modMs (fun x => { x with hbmInj := SMap.erase x.hbmInj h, hbmInjMis := h :: x.hbmInjMis.filter (· != h) })
    else
      m.modMs (fun x => { x with hbmInj := SMap.set x.hbmInj h f, hbmInjMis := x.hbmInjMis.filter (· != h) })

end Mach

/-- CORRECTED_WRITEBACK (R237). -/
def execCorrectedWriteback (s : State) : Res := s.on Mach.writeback
/-- SRAM_SCRUB (R243). -/
def execSramScrub (s : State) : Res := s.on Mach.sramScrub
/-- HBM_SCRUB (R243). -/
def execHbmScrub (s : State) : Res := s.on Mach.hbmScrub
/-- PATCH_INSTALL: PT_LOC[e] of a die is written with V = 1 (R249). -/
def execPatchInstall (die : BitVec 2) (e : BitVec 5) (v : Word) (s : State) : Res :=
  s.on (fun m => m.writePtLoc die e.toNat (v ||| 0x100000000))
/-- PATCH_END: PT_LOC[e] of a die is written with V = 0 (R249). -/
def execPatchEnd (die : BitVec 2) (e : BitVec 5) (v : Word) (s : State) : Res :=
  s.on (fun m => m.writePtLoc die e.toNat (v &&& ~~~0x100000000))
/-- REMAP_ENABLE: HBM_REMAP[e] is written with V = 1 (R252). -/
def execRemapEnable (e : BitVec 6) (v : Word) (s : State) : Res :=
  s.on (fun m => m.writeRemap e.toNat (v ||| 0x8000000000000000))
/-- REMAP_COPY_COMPLETE of an entry (R252). -/
def execRemapCopyComplete (e : BitVec 6) (s : State) : Res := s.on (fun m => m.remapCopied e.toNat)
/-- REMAP_END: HBM_REMAP[e] is written with V = 0 (R252). -/
def execRemapEnd (e : BitVec 6) (v : Word) (s : State) : Res :=
  s.on (fun m => m.writeRemap e.toNat (v &&& ~~~0x8000000000000000))
end Sys2Proof.Machine
end

