-- ==== Sys2Proof/Machine/Network.lean ====
section
/-! DEFINITION. Larkspur, the bridges and Foxglove: routing, injection, hops, ejection, multicast, absorption, stop registers, fences, and the packets end points take (chapter 10). -/

namespace Sys2Proof.Machine

/-! Tables -/

/-- The two stops a Foxglove link joins (Table 10-9). -/
def fglEnds (l : Nat) : BitVec 5 × BitVec 5 :=
  ([(16, 2), (2, 5), (5, 8), (8, 10), (10, 13), (13, 16), (0, 17), (3, 11), (6, 14), (1, 9), (4, 12), (7, 15)].getD l (0, 0))

/-- Fields of LKS_RT[d] (Table 10-6). -/
def rtFglEn (w : Word) : Bool := w.getLsbD 15
def rtFgl (w : Word) : Nat := bits w 14 11
def rtDir (w : Word) : Bool := w.getLsbD 10
def rtMask (w : Word) : Nat := bits w 9 4

/-- The VC and the range of data units of a command; none for a reserved one (Table 10-3). -/
def cmdForm (c : BitVec 6) : Option (BitVec 2 × Nat × Nat) :=
  match c.toNat with
  | 0x01 => some (0, 2, 2)
  | 0x02 => some (0, 3, 8)
  | 0x03 => some (1, 2, 2)
  | 0x04 => some (1, 3, 8)
  | 0x05 => some (1, 2, 2)
  | 0x06 => some (1, 0, 0)
  | 0x10 => some (2, 0, 0)
  | 0x11 => some (2, 1, 8)
  | 0x12 => some (2, 0, 0)
  | 0x13 => some (2, 1, 1)
  | 0x20 => some (3, 1, 8)
  | 0x21 => some (3, 0, 0)
  | 0x22 => some (3, 1, 1)
  | 0x23 => some (3, 0, 0)
  | _ => none

/-- Whether a packet's header is one of the faults of R216. -/
def badForm (p : Packet) : Bool :=
  let h := p.h
  (match cmdForm h.cmd with
    | none => true
    | some (vc, lo, hi) => h.vc != vc || decide (h.len.toNat < lo) || decide (hi < h.len.toNat))
    || decide (6 ≤ h.pair.toNat) || p.data.length != h.len.toNat

/-- The tokens a packet still carries, with the slot each charges: those of a multicast packet whose stops have not taken their copies (R218). -/
def pktTokens (p : Packet) : List (Token × BitVec 14) :=
  if p.h.mc then ((mcEntries p).map (fun e => (mcToken p e, e.extractLsb' 43 14))).filter (fun x => p.h.smask.getLsbD (Mach.peStop x.1.pe).toNat)
  else if isTok p.h.cmd then [(pktToken p, p.h.arg.truncate 14)] else []

/-- The next stop on a ring; an odd ring is counter-clockwise (R211). -/
def nextStop (s : BitVec 5) (ring : Nat) : BitVec 5 :=
  Mach.posStop ((Mach.ringPos s + (if ring % 2 = 1 then 17 else 1)) % 18)

/-- Ring number of a pair and direction. -/
def ringNo (pair : Nat) (ccw : Bool) : Nat := pair * 2 + b2n ccw

/-- Where a stop sends a packet (R227). -/
inductive Route where
  | link (l : Nat) (back : Bool)
  | ring (pair : Nat) (ccw : Bool)
  | here
  | none
deriving DecidableEq, Repr

/-- RTT_BIN of a round trip in cycles (Table 10-12). -/
def rttBin (n : Nat) : Nat :=
  match (List.range 15).find? (fun b => decide (n < 2 ^ (b + 4))) with
  | some b => b
  | none => 15

namespace Mach

/-- LKS_RT[d] of a stop, with its reset value. -/
def rtWord (m : Mach) (die : BitVec 2) (s : BitVec 5) (d : Nat) : Word :=
  match SMap.get? (m.stop die s).rt d with
  | some w => w
  | none =>
    if d = 18 then 0x3F0 ||| at64 (b2n (nearBridge s)) 0
    else 0x3F0 ||| at64 (b2n (defaultDir s (BitVec.ofNat 5 d))) 10

/-- The stop of its die that a packet routed at a stop heads for: its destination, or the bridge stop that BR of entry 18 of the stop's table names when it leaves the die (R227). -/
def ringTarget (m : Mach) (die : BitVec 2) (s : BitVec 5) (h : Hdr) : BitVec 5 :=
  if !h.dstHub && h.dstDie == die then h.dstStop
  else brStop ((m.rtWord die s 18).getLsbD 0)

/-- The number that picks a ring pair (R227). -/
def pairSeed (p : Packet) : Nat :=
  let h := p.h
  let y : Byte := if h.mc then (match mcEntries p with
      | e :: _ => ((e.extractLsb' 17 7 : BitVec 7)).zeroExtend 8
      | [] => 0)
    else if isTok h.cmd then ((pktToken p).pe.truncate 7 : BitVec 7).zeroExtend 8
    else if isReq h.cmd then h.arg.extractLsb' 6 8
    else h.tid.truncate 8
  ((h.src.truncate 8 : Byte) ^^^ y).toNat

/-- Usable pairs of a mask in a direction from a stop. -/
def usable (m : Mach) (die : BitVec 2) (s : BitVec 5) (mask : Nat) (ccw : Bool) : List Nat :=
  let cfg := (m.stop die s).cfg
  (List.range 6).filter (fun k => mask.testBit k && !cfg.getLsbD ((if ccw then 16 else 8) + k))

/-- Route a packet at a stop for a stop of its die (R227). -/
def routeAt (m : Mach) (die : BitVec 2) (s dest : BitVec 5) (p : Packet) : Route :=
  if dest = s then .here
  else
    let w := m.rtWord die s dest.toNat
    let pick := fun (l : List Nat) (ccw : Bool) => Route.ring (l.getD (pairSeed p % l.length) 0) ccw
    if !p.h.detour && rtFglEn w then .link (rtFgl w) ((fglEnds (rtFgl w)).2 == s)
    else
      let a := m.usable die s (rtMask w) (rtDir w)
      let b := m.usable die s (rtMask w) (!rtDir w)
      if a != [] then pick a (rtDir w)
      else if b != [] then pick b (!rtDir w)
      else .none

/-- AGE of a queued packet after its wait so far (R222). -/
def age (m : Mach) (x : QPkt) : BitVec 3 :=
  BitVec.ofNat 3 (Nat.min 7 (x.pkt.h.age.toNat + (m.coreCycle - x.since) / 128))

/-- A packet as it leaves a queue. -/
def aged (m : Mach) (x : QPkt) : Packet := x.pkt.setH (fun h => { h with age := m.age x })

/-- Count at a stop. -/
def countStop (m : Mach) (die : BitVec 2) (s : BitVec 5) (sub : Nat) (n : Nat := 1) : Mach := m.count (stopIdx die s) sub n

/-! Discard and absorption (R216, R231) -/

/-- Discard a packet at a stop: logged with its header and the syndrome, and counted; a lost token faults its job. -/
def discard (m : Mach) (die : BitVec 2) (s : BitVec 5) (p : Packet) (syn : BitVec 9 := 0) : Mach :=
  let h := p.h
  let m := m.countStop die s 0x0F
  let lo : Word := p.hdr.truncate 64
  let hi : Word := p.hdr.extractLsb' 64 64
  let j := if h.jv then some h.job else none
  if h.vc.toNat < 2 ∧ h.jv ∧ m.live h.job then m.faultJob h.job 0x0202 (stopBlock s) (stopLoc die s) lo hi (syn.zeroExtend 64)
  else m.logErr 0 (stopBlock s) 0 j (stopLoc die s) lo hi (syn.zeroExtend 64)

/-- Whether a stop absorbs what is addressed to it (R231). -/
def absorbing (m : Mach) (die : BitVec 2) (s : BitVec 5) : Bool :=
  let x := m.stop die s
  x.cfg.getLsbD 0 || x.fence != 0

/-- Whether only DRAINING makes a stop absorb. -/
def draining (m : Mach) (die : BitVec 2) (s : BitVec 5) : Bool :=
  let x := m.stop die s
  !x.cfg.getLsbD 0 && x.fence == 1

/-- Whether a stop can answer a request now: its injection queue has room for the response (R219). -/
def canAnswer (m : Mach) (die : BitVec 2) (s : BitVec 5) : Bool := m.room (qInj die s 3) 2

/-- A response from a stop to the initiator of a request (R215). -/
def respond (m : Mach) (die : BitVec 2) (s : BitVec 5) (h : Hdr) (cmd : BitVec 6) (xst : BitVec 4) (data : List (BitVec 128)) : Mach :=
  let r := replyHdr (srcOf die s 0x81) h.src 3 cmd (BitVec.ofNat 4 data.length)
  let r := if r.dstHub then { r with dstStop := brStop (m.leaveBridge die s) } else r
  let m := if cmd = 0x23 then m.countStop die s 0x0B else m
  m.enq (qInj die s 3) ⟨({ r with tid := h.tid, xst := xst, jv := h.jv, job := h.job } : Hdr).pack, data⟩

/-- Release the slots of some tokens of a packet at a stop. -/
def releaseToks (m : Mach) (die : BitVec 2) (s : BitVec 5) (src : BitVec 16) (l : List (Token × BitVec 14)) : Mach :=
  l.foldl (fun m x => m.releaseSlot die s src x.2 true) m

/-- Absorb the tokens of a packet addressed to an isolated stop (Table 10-11). -/
def absorbToks (m : Mach) (die : BitVec 2) (s : BitVec 5) (p : Packet) (l : List (Token × BitVec 14)) : Mach :=
  let h := p.h
  let m := m.releaseToks die s h.src l
  if m.live h.job then m.faultJob h.job 0x0203 (stopBlock s) (stopLoc die s) (p.hdr.truncate 64) (p.hdr.extractLsb' 64 64)
  else m.absorbCount h.job l.length

/-- Whether a packet can be absorbed now: a request waits for room for its ERR_RSP. -/
def canAbsorb (m : Mach) (die : BitVec 2) (s : BitVec 5) (p : Packet) : Bool := !isReq p.h.cmd || m.canAnswer die s

/-- The round trip of a request injected at a stop is over (R230). -/
def endFlight (m : Mach) (die : BitVec 2) (s : BitVec 5) (tid : BitVec 12) : Mach :=
  m.modStop die s (fun x => { x with flight := removeFirst (fun f => f.tid == tid) x.flight })

/-- A response is ejected at the stop of its request: the request is outstanding no more, and its round trip is counted (R230, R232). -/
def landed (m : Mach) (die : BitVec 2) (s : BitVec 5) (tid : BitVec 12) : Mach :=
  match (m.stop die s).flight.find? (fun f => f.tid == tid) with
  | none => m
  | some f => (m.endFlight die s tid).countStop die s (0x10 + rttBin (m.coreCycle - f.since))

/-- The bridge stop of a die at which a request of the hub was injected: a response may leave by the other one (R225, R229). -/
def flightBridge (m : Mach) (die : BitVec 2) (s : BitVec 5) (tid : BitVec 12) : BitVec 5 :=
  ([s, 16, 17].find? (fun b => (m.stop die b).flight.any (fun f => f.tid == tid))).getD s

/-- Absorb a packet addressed to a stop by Table 10-11; of a multicast packet only the tokens for that stop, unless it has no way on. A response to a request of the stop itself has arrived there, and ends its flight (R230); nothing else is done for a response. -/
def absorbAt (m : Mach) (die : BitVec 2) (s : BitVec 5) (p : Packet) (noWay : Bool := false) : Mach :=
  let h := p.h
  let m := m.countStop die s 0x0A
  if isTok h.cmd then
    m.absorbToks die s p ((pktTokens p).filter (fun x => !h.mc || noWay || (peDie x.1.pe == die && peStop x.1.pe == s)))
  else if isReq h.cmd then m.respond die s h 0x23 1 []
  else if h.vc = 3 ∧ !h.dstHub ∧ h.dstDie = die ∧ h.dstStop = s then m.endFlight die s h.tid
  else m

/-! Ejection (R218, R231) -/

/-- Put a packet that has reached its stop into its ejection queue, or absorb it; none when the queue has no room. A response is taken in every cycle (R221), and there its round trip ends (R232). -/
def eject (m : Mach) (die : BitVec 2) (s : BitVec 5) (p : Packet) (leaving : Bool) : Option Mach :=
  let h := p.h
  let abs := if leaving then (m.stop die s).cfg.getLsbD 0
    else m.absorbing die s && !(m.draining die s && (h.cmd == 0x06 || h.vc == 3))
  if abs then (if m.canAbsorb die s p then some (m.absorbAt die s p) else none)
  else if h.vc != 3 && !m.room (qEj die s h.vc) p.units then none
  else
    let m := if h.vc == 3 then m.landed die (if leaving then m.flightBridge die s h.tid else s) h.tid else m
    let m := (m.countStop die s 0x09 p.units).countStop die s (0x20 + h.age.toNat)
    some (m.enq (qEj die s h.vc) p)

/-- Whether a packet leaves its die at a bridge stop. -/
def leavesAt (die : BitVec 2) (h : Hdr) : Bool := h.dstHub || h.dstDie != die

/-- Whether a packet on a ring is for a stop it has reached: a multicast packet where its SMASK bit is set, until SMASK is 0 (R218). -/
def forStop (s : BitVec 5) (x : QPkt) : Bool := if x.pkt.h.mc then x.pkt.h.smask.getLsbD s.toNat else x.dest == s

/-- Take the heads of a through queue that have reached a stop off the ring (R218). -/
def ejectThrough (m : Mach) (die : BitVec 2) (s : BitVec 5) (q : Nat) : Nat → Mach
  | 0 => m
  | fuel + 1 =>
    match m.queue q with
    | [] => m
    | x :: rest =>
      let h := x.pkt.h
      if h.mc && h.smask.getLsbD s.toNat then
        match m.eject die s (m.aged x) false with
        | none => m
        | some m =>
          let sm := h.smask &&& ~~~(1#18 <<< s.toNat)
          if sm = 0 then ejectThrough (m.setQueue q rest) die s q fuel
          else m.setQueue q ({ x with pkt := x.pkt.setH (fun h => { h with smask := sm }) } :: rest)
      else if !h.mc && x.dest == s then
        match m.eject die s (m.aged x) (leavesAt die h) with
        | none => m
        | some m => ejectThrough (m.setQueue q rest) die s q fuel
      else m

/-- A packet arrives at a stop over a segment or link: errors of single bits are corrected and counted unit by unit, one that cannot be corrected or a bad header discards it, and tokens of a job that is not live are absorbed; true when it goes on (R39, R216). -/
def checkAt (m : Mach) (die : BitVec 2) (s : BitVec 5) (p : Packet) (ecc : Ecc) : Bool × Mach :=
  if ecc = .double then
    let (w, m) := m.drawWord
    (false, m.discard die s p (w.truncate 9))
  else
    let m := match ecc with
      | .corrected n => m.countStop die s 0x0E (Nat.min n.toNat p.units)
      | _ => m
    if badForm p then (false, m.discard die s p)
    else if isTok p.h.cmd && !m.live p.h.job then
      (false, (m.releaseToks die s p.h.src (pktTokens p)).absorbCount p.h.job (pktTokens p).length)
    else (true, m)

/-- Move a packet onto the segment of a ring leaving a stop: into the next stop's input queue. -/
def hopFrom (m : Mach) (die : BitVec 2) (s : BitVec 5) (ring : Nat) (p : Packet) (dest : BitVec 5) (ecc : Ecc) : Mach :=
  let nx := nextStop s ring
  let (ok, m) := m.checkAt die nx p ecc
  if ok then
    let q := qThr die nx ring p.h.vc
    (m.enq q p dest).ejectThrough die nx q 16
  else m

/-- Whether the next stop's input queue holds credits for a packet; one that enters the ring needs 9 more (R220). -/
def credits (m : Mach) (die : BitVec 2) (s : BitVec 5) (ring : Nat) (p : Packet) (enters : Bool) : Bool :=
  m.room (qThr die (nextStop s ring) ring p.h.vc) (p.units + if enters then 9 else 0)

/-- A packet with the ring it was routed to in its header. -/
def onRing (p : Packet) (pair : Nat) (ccw : Bool) : Packet :=
  p.setH (fun h => { h with dir := ccw, pair := BitVec.ofNat 3 pair })

/-! Injection (R219, R220, R223, R224, R227) -/

/-- Take a packet at a place of an injection queue as injected: counted, charged to its job's share, and a request's flight begins. -/
def injected (m : Mach) (die : BitVec 2) (s : BitVec 5) (vc : BitVec 2) (i : Nat) (p : Packet) : Mach :=
  let m := m.setQueue (qInj die s vc) ((m.queue (qInj die s vc)).eraseIdx i)
  let h := p.h
  let m := (m.countStop die s (1 + vc.toNat)).countStop die s (5 + vc.toNat) p.units
  let m := m.modStop die s (fun x => { x with
    cand := x.cand.filter (·.1 != vc), lastJob := if h.jv then h.job.toNat else 8,
    used := if h.jv then SMap.modify x.used h.job.toNat 0 (· + p.units) else x.used })
  if isReq h.cmd then
    m.modStop die s (fun x => { x with flight := x.flight ++ [⟨h.tid, m.coreCycle⟩] })
  else m

/-- Units still owed to a job at a tile stop in the window (R224). -/
def owedUnits (m : Mach) (die : BitVec 2) (s : BitVec 5) (j : JobId) : Nat :=
  SMap.getD m.net.shares j.toNat 0 * 4096 / 100 - SMap.getD (m.stop die s).used j.toNat 0

/-- The packets waiting in a stop's injection queues: VC, place and packet. -/
def injWaiting (m : Mach) (die : BitVec 2) (s : BitVec 5) : List (BitVec 2 × Nat × QPkt) :=
  ((List.range 4).map (BitVec.ofNat 2)).flatMap (fun vc => ((m.queue (qInj die s vc)).zipIdx).map (fun x => (vc, x.2, x.1)))

/-- Job class of a packet: 8 for packets with JV 0. -/
def jobClass (h : Hdr) : Nat := if h.jv then h.job.toNat else 8

/-- The packet with the highest AGE, equal ages by round-robin over jobs. -/
def oldest (m : Mach) (last : Nat) (l : List (BitVec 2 × Nat × QPkt)) : Option (BitVec 2 × Nat × QPkt) :=
  let turn := fun (x : BitVec 2 × Nat × QPkt) => (jobClass x.2.2.pkt.h + 8 - last) % 9
  leastBy (fun a b => decide ((m.age b.2.2).toNat < (m.age a.2.2).toNat)
    || (m.age a.2.2 == m.age b.2.2 && decide (turn a < turn b))) l

/-- The next injection candidate of a stop among some of its waiting packets, and the jobs that yield to it (R224). Of several packets of AGE 7, and of several that are owed units, the one of highest AGE is taken, equal ages by round-robin over jobs, as rule 3 has it; rules 1 and 2 name no order. R224 speaks of tile stops: a bridge stop, which has no shares, selects by rules 1 and 3. Both are the model's choices (log entry 87). -/
def pickAmong (m : Mach) (die : BitVec 2) (s : BitVec 5) (l : List (BitVec 2 × Nat × QPkt)) : Option (BitVec 2 × Nat × QPkt) × List JobId :=
  let last := (m.stop die s).lastJob
  let hd := fun (x : BitVec 2 × Nat × QPkt) => x.2.2.pkt.h
  let owed := fun (x : BitVec 2 × Nat × QPkt) => decide (s.toNat < 16) && (hd x).jv && m.owedUnits die s (hd x).job != 0
  match m.oldest last (l.filter (fun x => m.age x.2.2 == 7)) with
  | some x =>
    (some x, ((l.filter (fun y => owed y && !((hd x).jv && (hd y).job == (hd x).job))).map (fun y => (hd y).job)).eraseDups)
  | none =>
    match m.oldest last (l.filter owed) with
    | some x => (some x, [])
    | none => (m.oldest last l, [])

/-- A yield of a guaranteed share with its reason's counter (R177). -/
def yieldShare (m : Mach) (j : JobId) (sub : Nat) : Mach := (m.countJ 0x4600 j 0x10).countJ 0x4600 j sub

/-- The packets waiting in the injection queues of the VCs for which a stop holds no candidate. -/
def pickable (m : Mach) (die : BitVec 2) (s : BitVec 5) : List (BitVec 2 × Nat × QPkt) :=
  (m.injWaiting die s).filter (fun x => !(m.stop die s).cand.any (fun c => c.1 == x.1))

/-- The next injection candidate of a stop, and the jobs that yield to it (R224). -/
def pickInjection (m : Mach) (die : BitVec 2) (s : BitVec 5) : Option (BitVec 2 × Nat × QPkt) × List JobId :=
  m.pickAmong die s (m.pickable die s)

/-- A stop selects injection candidates until every VC with a waiting packet has one, each by R224 among the VCs that have none. No VC waits on a packet of another (R219, R221), and a candidate once selected is kept until it leaves, whatever becomes ready after it: R224 says neither how long a selection stands nor how it meets the rule of R219 (the model's choice, log entry 87). -/
def fillCands (m : Mach) (die : BitVec 2) (s : BitVec 5) : Nat → Mach
  | 0 => m
  | k + 1 =>
    match m.pickInjection die s with
    | (none, _) => m
    | (some (vc, i, _), ys) =>
      fillCands ((ys.foldl (fun m j => m.yieldShare j 0x12) m).modStop die s (fun y => { y with cand := y.cand ++ [(vc, i)] })) die s k

/-- An injection candidate bound for a Foxglove link, or for the stop itself, or with no way, leaves the queue as soon as it can; one bound for a ring waits for its output (R224, R227). -/
def candLeaves (m : Mach) (die : BitVec 2) (s : BitVec 5) (vc : BitVec 2) (i : Nat) : Mach :=
  match (m.queue (qInj die s vc))[i]? with
  | none => m
  | some x =>
    let p := m.aged x
    let dest := m.ringTarget die s p.h
    match m.routeAt die s dest p with
    | .link l back =>
      let q := qFgl die l back p.h.vc
      if m.room q p.units then ((m.injected die s vc i p).countStop die s 0x0C).enq q p dest else m
    | .ring _ _ => m
    | .here =>
      match m.eject die s p (leavesAt die p.h) with
      | some m => m.injected die s vc i p
      | none => m
    | .none => if m.canAbsorb die s p then (m.injected die s vc i p).absorbAt die s p true else m

/-- STOP_INJECT: a stop takes what its tile and its releases offer, selects its injection candidates, and sends those on that need no ring output (R224, R227). -/
def stopInject (m : Mach) (die : BitVec 2) (s : BitVec 5) : Mach :=
  let m := (((m.offerReleases die s).offerProbes die s).offerReqs die s).fillCands die s 4
  (m.stop die s).cand.foldl (fun m c => m.candLeaves die s c.1 c.2) m

/-- The packets of a ring that cannot pass a stop's unusable segment leave the ring, to be routed again with DETOUR set (R228). -/
def offRing (m : Mach) (die : BitVec 2) (s : BitVec 5) (ring : Nat) : Mach :=
  (List.range 4).foldl (fun m v =>
    let q := qThr die s ring (BitVec.ofNat 2 v)
    let on := m.queue q
    (on.filter (fun x => !forStop s x)).foldl (fun m x =>
      (m.enq (qRe die s (BitVec.ofNat 2 v)) ((m.aged x).setH (fun h => { h with detour := true })) x.dest).countStop die s 0x0D)
      (m.setQueue q (on.filter (forStop s)))) m

/-- The bit of LKS_STOP_CFG that makes the segment of a ring leaving a stop unusable (Table 10-7). -/
def segBit (ring : Nat) : Nat := (if ring % 2 = 1 then 16 else 8) + ring / 2

/-- The way on of a packet that a stop routes again: by its own table, or along the ring for a multicast packet with stops still to serve. -/
def routeAgain (m : Mach) (die : BitVec 2) (s : BitVec 5) (p : Packet) : Route :=
  let dest := m.ringTarget die s p.h
  if dest = s ∧ p.h.mc then .ring p.h.pair.toNat p.h.dir else m.routeAt die s dest p

/-- Packets routed again that have no way on are absorbed, and those for the stop itself are ejected (R227, R231). -/
def settleRe (m : Mach) (die : BitVec 2) (s : BitVec 5) : Mach :=
  (List.range 4).foldl (fun m v =>
    let q := qRe die s (BitVec.ofNat 2 v)
    (m.queue q).foldl (fun m x =>
      let p := m.aged x
      match m.routeAgain die s x.pkt with
      | .none => if m.canAbsorb die s p then m.absorbAt die s p true else m.setQueue q (m.queue q ++ [x])
      | .here => (m.eject die s p (leavesAt die p.h)).getD (m.setQueue q (m.queue q ++ [x]))
      | _ => m.setQueue q (m.queue q ++ [x])) (m.setQueue q [])) m

/-- What competes for a ring output: its place in the round-robin, the queue it heads, the packet, its target and whether it enters the ring. -/
structure Cand where
  place : Nat
  q : Nat
  x : QPkt
  dest : BitVec 5
  enters : Bool
  vc : BitVec 2
deriving DecidableEq, Repr

/-- Candidates for a ring output of a stop that the next input queue has credits for, in the order VC3, VC2, VC1, VC0, injection (R223). The injection input offers the first selected of its candidates that may go. Packets that enter a ring again, routed anew by R228 or come over a Foxglove link, take a sixth place after injection, one VC after the other; R223 names no place for them (the model's choice, log entry 88). -/
def ringCands (m : Mach) (die : BitVec 2) (s : BitVec 5) (ring : Nat) : List Cand :=
  let vcs : List (BitVec 2) := [3, 2, 1, 0]
  let go := fun (c : Cand) => m.credits die s ring c.x.pkt c.enters
  let thr := (vcs.zipIdx).filterMap (fun (vc, i) =>
    let q := qThr die s ring vc
    (m.queue q).head?.bind (fun x =>
      if forStop s x then none else some ⟨i, q, x, x.dest, false, vc⟩))
  let here := fun (x : QPkt) (dest : BitVec 5) => match m.routeAt die s dest x.pkt with
    | .ring pair ccw => ringNo pair ccw == ring
    | _ => false
  let inj := (m.stop die s).cand.filterMap (fun (vc, i) => ((m.queue (qInj die s vc))[i]?).bind (fun x =>
    let dest := m.ringTarget die s x.pkt.h
    if here x dest then some (⟨4, qInj die s vc, x, dest, true, vc⟩ : Cand) else none))
  let re := vcs.filterMap (fun vc => (m.queue (qRe die s vc)).head?.bind (fun x =>
    match m.routeAgain die s x.pkt with
    | .ring pair ccw => if ringNo pair ccw == ring then some (⟨5, qRe die s vc, x, m.ringTarget die s x.pkt.h, true, vc⟩ : Cand) else none
    | _ => none))
  thr.filter go ++ (inj.find? go).toList ++ re.filter go

/-- A ring output of a stop sends its next packet to the next stop (R220, R222, R223). -/
def ringHop (m : Mach) (die : BitVec 2) (s : BitVec 5) (ring : Nat) (ecc : Ecc) : Mach :=
  if 12 ≤ ring ∨ 18 ≤ s.toNat then m
  else
    let m := (List.range 4).foldl (fun m v => m.ejectThrough die s (qThr die s ring (BitVec.ofNat 2 v)) 16) m
    let m := if (m.stop die s).cfg.getLsbD (segBit ring) then m.offRing die s ring else m
    let m := m.settleRe die s
    let last := SMap.getD (m.stop die s).rr ring 5
    let turn := fun (c : Cand) => (c.place + 5 - last) % 6
    match leastBy (fun (a b : Cand) => decide ((m.age b.x).toNat < (m.age a.x).toNat)
        || (m.age a.x == m.age b.x && decide (turn a < turn b))) (m.ringCands die s ring) with
    | none => m
    | some c =>
      let p := m.aged c.x
      let p := if c.enters then onRing p (ring / 2) (decide (ring % 2 = 1)) else p
      let m := if c.place = 4 then m.injected die s c.vc ((((m.stop die s).cand.find? (·.1 == c.vc)).map (·.2)).getD 0) p else m.deq c.q
      let m := m.modStop die s (fun x => { x with rr := SMap.set x.rr ring c.place })
      m.hopFrom die s ring p c.dest ecc

/-- A packet crosses a Foxglove link: ejected where its path ends, or held to be routed by the far stop's own table with DETOUR set (R227). -/
def foxglove (m : Mach) (die : BitVec 2) (link : Nat) (back : Bool) (vc : BitVec 2) (ecc : Ecc) : Mach :=
  let q := qFgl die link back vc
  let far := if back then (fglEnds link).1 else (fglEnds link).2
  match m.queue q with
  | [] => m
  | x :: _ =>
    let p := (m.aged x).setH (fun h => { h with detour := true })
    let (ok, m') := m.checkAt die far p ecc
    if !ok then m'.deq q
    else
      let mcHere := p.h.mc && p.h.smask.getLsbD far.toNat
      let sm := p.h.smask &&& ~~~(1#18 <<< far.toNat)
      let p2 := if mcHere then p.setH (fun h => { h with smask := sm }) else p
      let ends := if p.h.mc then sm == 0 else m'.ringTarget die far p.h == far
      let ready := ends || m'.room (qRe die far vc) p2.units
      if !ready then m
      else
        match (if mcHere ∨ ends then m'.eject die far p (leavesAt die p.h) else some m') with
        | none => m
        | some m =>
          let m := m.deq q
          if ends then m else m.enq (qRe die far vc) p2

/-! Bridges (R225, R231) and Fabric routing (R355, R368) -/

/-- The port a packet for a module takes (R368). -/
def fabricPort (m : Mach) (mo : Byte) : Option (BitVec 3) :=
  let w := SMap.getD m.flRt mo.toNat 0
  let up := fun (f : Nat) => (SMap.getD m.ports f {}).state == 4
  if w.getLsbD 7 && up (bits w 6 4) then some (BitVec.ofNat 3 (bits w 6 4))
  else if w.getLsbD 3 && up (bits w 2 0) then some (BitVec.ofNat 3 (bits w 2 0))
  else none

/-- A packet as it travels on a Fabric Link: header bits [45:38] hold DST_MODULE (R355). -/
def fabricForm (p : Packet) (mo : Byte) : Packet :=
  { p with hdr := (p.hdr &&& ~~~(0xFF#128 <<< 38)) ||| (mo.zeroExtend 128 <<< 38) }

/-- Put a packet into a port's queue of its VC. -/
def toPort (m : Mach) (f : BitVec 3) (p : Packet) : Mach :=
  let x := SMap.getD m.ports f.toNat {}
  { m with ports := SMap.set m.ports f.toNat { x with
      txq := SMap.modify x.txq p.h.vc.toNat [] (· ++ [⟨p, m.cycle⟩]) } }

/-- Release a slot from the hub: a hub slot at once, another by SLOT_REL to its initiator (R23, R215). -/
def hubRelease (m : Mach) (src : BitVec 16) (slot : BitVec 14) : Mach :=
  if srcHub src then m.freeSlot src slot
  else m.intoDie ⟨({ replyHdr 0x8300 src 1 0x06 0 with arg := slot.zeroExtend 38 } : Hdr).pack, []⟩

/-- ERR_RSP with status 1 to the module that sent a peer message: from the hub itself it is among its own responses (R215, R368, R374). -/
def peerErr (m : Mach) (p : Packet) : Mach :=
  let dst : Byte := p.h.arg.truncate 8
  let r : Packet := ⟨({ vc := 3, len := 0, cmd := 0x23, xst := 1, src := 0x8200, dstStop := 0, dstDie := 0, arg := p.h.arg } : Hdr).pack, []⟩
  if dst = m.number then { m with peerQ := m.peerQ ++ [(0, r)] }
  else
    match m.fabricPort dst with
    | some f => m.toPort f (fabricForm r dst)
    | none => m

/-- A packet for another module: to its port, or with no route its token is absorbed and faults its job, and a request is answered (R368). -/
def toFabric (m : Mach) (p : Packet) (mo : Byte) : Mach :=
  match m.fabricPort mo with
  | some f => m.toPort f (fabricForm p mo)
  | none =>
    let h := p.h
    if isTok h.cmd then
      let m := (pktTokens p).foldl (fun m x => m.hubRelease h.src x.2) m
      if m.live h.job then m.faultJob h.job 0x0401 0x0E (bits (SMap.getD m.flRt mo.toNat 0) 6 4) (p.hdr.truncate 64) (p.hdr.extractLsb' 64 64)
      else m.absorbCount h.job (pktTokens p).length
    else if isReq h.cmd then
      m.intoDie ⟨({ replyHdr 0x8300 h.src 3 0x23 0 with tid := h.tid, xst := 1, jv := h.jv, job := h.job } : Hdr).pack, []⟩
    else if h.cmd = 0x30 then m.peerErr p
    else m

/-- A packet crosses from a bridge stop to another die or the hub, or from a bridge link into its die, with credits for every unit of it (R219, R225). No stop stands at the hub's end of a bridge link: an error of a packet on its way to the hub is found, counted and its packet discarded at the bridge stop that sends it (the model's choice, log entry 87). What the die-to-die switch holds of VC3 has no bound (R221). -/
def bridge (m : Mach) (die : BitVec 2) (br toHub : Bool) (vc : BitVec 2) (ecc : Ecc) : Mach :=
  let s := brStop br
  if toHub then
    let q := qEj die s vc
    match m.queue q with
    | [] => m
    | x :: _ =>
      let h := x.pkt.h
      if !leavesAt die h then m
      else
        let p := m.aged x
        let (ok, m') := m.checkAt die s p ecc
        if !ok then m'.deq q
        else if h.dstHub then
          if isTok h.cmd then (m'.deq q).toFabric p (pktToken p).modNo
          else (m'.deq q).enq (qHub die br vc) p
        else
          let q2 := qToDie h.dstDie (m.switchFor h.dstDie h.dstStop) vc
          if vc = 3 ∨ m.room q2 p.units then (m'.deq q).enq q2 p else m
  else
    let q := qToDie die br vc
    match m.queue q with
    | [] => m
    | x :: _ =>
      let p := m.aged x
      let (ok, m') := m.checkAt die s p ecc
      if !ok then m'.deq q
      else if (m.stop die s).cfg.getLsbD 0 then (if m.canAbsorb die s p then (m'.deq q).absorbAt die s p else m)
      else if m.room (qInj die s vc) p.units then (m'.deq q).enq (qInj die s vc) p
      else m

/-! Packets at their end points (R215) -/

/-- The tokens of the head of an ejection queue are pushed into Receive FIFOs; those without a credit wait. -/
def takeTokens (m : Mach) (die : BitVec 2) (s : BitVec 5) (vc : BitVec 2) (cmd : BitVec 6) : Mach :=
  let q := qEj die s vc
  match m.queue q with
  | [] => m
  | x :: rest =>
    let p := x.pkt
    if p.h.cmd ≠ cmd then m
    else if p.h.mc then
      let mine := (mcEntries p).filter (fun e => peDie ((mcToken p e).pe) == die && peStop ((mcToken p e).pe) == s)
      let (m, left) := mine.foldl (fun (acc : Mach × List Word) e =>
        match acc.1.pushFifo (mcToken p e).pe false ⟨mcToken p e, p.h.src, e.extractLsb' 43 14⟩ with
        | some m => (m, acc.2)
        | none => (acc.1, acc.2 ++ [e])) (m, [])
      if left = [] then m.setQueue q rest
      else
        let p := p.setH (fun h => { h with len := BitVec.ofNat 4 (2 + (left.length + 1) / 2) })
        m.setQueue q ({ x with pkt := { p with data := p.data.take 2 ++ mcUnits left } } :: rest)
    else
      match m.pushFifo (pktToken p).pe false ⟨pktToken p, p.h.src, p.h.arg.truncate 14⟩ with
      | some m => m.setQueue q rest
      | none => m

/-- The queue an end point takes packets of a VC from. -/
def endQ (e : EndPoint) (vc : BitVec 2) : Nat :=
  match e with
  | .stop die s => qEj die s vc
  | .hub die br => qHub die br vc

/-- SLOT_REL releases one or two slots of the initiator it reaches. -/
def takeSlotRel (m : Mach) (e : EndPoint) : Mach :=
  let q := endQ e 1
  match m.queue q with
  | [] => m
  | x :: _ =>
    let h := x.pkt.h
    if h.cmd ≠ 0x06 then m
    else
      let src : BitVec 16 := match e with
        | .stop die s => srcOf die s 0x81
        | .hub _ _ => 0x8300
      let m := (m.deq q).freeSlot src (h.arg.truncate 14)
      if h.arg.getLsbD 28 then m.freeSlot src (h.arg.extractLsb' 14 14) else m

/-- Whether a tile agent may reach a range of HBM: it lies in a region of a job active in its tile (R235). -/
def tileMayReach (m : Mach) (t : TileId) (a n : Nat) : Bool :=
  allJobs.any (fun j => m.active j t &&
    (let b := m.job j
     [b.nodeRec, b.nodeState, b.fanout, b.code, b.dmem, b.probe, b.staging].any (fun r => decide (r.base ≤ a ∧ a + n ≤ r.base + r.size))))

/-- The tile an SRC names (Table 10-4). -/
def srcTile (src : BitVec 16) : TileId := src.extractLsb' 13 2 ++ (src.extractLsb' 8 4 : BitVec 4)

/-- Whether a request is a write of a tile's store writer (R176). -/
def storeReq (m : Mach) (src : BitVec 16) (tid : BitVec 12) : Bool :=
  match (m.reqOf (srcTile src) tid).map TReq.what with
  | some (.store _ _ _) => !srcHub src
  | _ => false

/-- Whether the initiator of a Larkspur request may reach a range of HBM: a MOB its tile's partition of deep match (R60), the store writer the segments of the firings it has taken over, of a job that has stopped meanwhile too (R176), and any agent of a tile the regions of the jobs active there (R235). -/
def mayReach (m : Mach) (h : Hdr) (a n : Nat) : Bool :=
  let t := srcTile h.src
  if srcHub h.src then decide (a + n ≤ hbmSize m.part)
  else m.tileMayReach t a n || m.storeReq h.src h.tid
    || (h.src.extractLsb' 4 4 == (9 : BitVec 4) && decide (deepAddr t 0 ≤ a ∧ a + n ≤ deepAddr t 0 + 2 ^ 26))

/-- SRC of the HBM controller that serves an address (Table 10-4). -/
def hbmSrc (a : Nat) : BitVec 16 := 0x8100 + BitVec.ofNat 16 (hbmPlace a).1

/-- An access of HBM whose parity error the retry has not mended counts as uncorrectable: logged, its controller's interrupt raised, the jobs that own the range faulted (R254, Tables 11-4 and 11-8). -/
def parityLost (m : Mach) (a n : Nat) : Mach :=
  (halvesOf a n).foldl hbmLost (((m.count 0x4A00 0x05).logHalf (a / 32 * 32) 0).raiseSource (144 + (hbmPlace a).1))

/-- RD at the head of a bridge link's queue is served: data, or status 2 for lost data or an access that failed, or 3 for an address in no permitted region. -/
def serveRd (m : Mach) (die : BitVec 2) (br : Bool) (par : HbmPar) : Mach :=
  let q := qHub die br 2
  match m.queue q with
  | [] => m
  | x :: _ =>
    let h := x.pkt.h
    if h.cmd ≠ 0x10 then m
    else
      let a := h.arg.toNat
      let n := 16 * h.xst.toNat
      if m.copyWait a n then m
      else if h.xst = 0 ∨ 8 < h.xst.toNat ∨ a % 16 ≠ 0 ∨ !m.mayReach h a n then (m.deq q).hubRespond (hbmSrc a) h 0x23 3 []
      else if par = .lost then ((m.deq q).parityLost (m.alias_ a) n).hubRespond (hbmSrc a) h 0x23 2 []
      else
        let (lost, m) := (m.deq q).hbmCheck (m.alias_ a) n
        if lost then (m.rangeLost (m.alias_ a) n).hubRespond (hbmSrc a) h 0x23 2 []
        else
          let ws := (bytesWords (memBytes m.mem (m.alias_ a) n))
          m.hubRespond (hbmSrc a) h 0x20 0 ((List.range h.xst.toNat).map (fun i => ws.getD (2 * i + 1) 0 ++ ws.getD (2 * i) 0))

/-- What a WR writes: a store of the store writer its own bytes and no others of its data unit; an entry of deep match stands in HBM already, as Match reads and writes it without waiting (R60; log entry 19); any other WR its data units. -/
def wrEffect (m : Mach) (p : Packet) : Mach :=
  let h := p.h
  match srcHub h.src, (m.reqOf (srcTile h.src) h.tid).map TReq.what with
  | false, some (.store head k lost) => m.storeServed (srcTile h.src) head k lost
  | false, some (.entry _) => m
  | _, _ => m.hbmWrite (m.alias_ h.arg.toNat) (p.data.flatMap (fun u => natBytes 16 u.toNat))

/-- WR at the head of a bridge link's queue is served and acknowledged; one of tile control is for the probe collector and not for memory (R334). -/
def serveWr (m : Mach) (die : BitVec 2) (br : Bool) (par : HbmPar) : Mach :=
  let q := qHub die br 2
  match m.queue q with
  | [] => m
  | x :: _ =>
    let h := x.pkt.h
    if h.cmd ≠ 0x11 then m
    else if !srcHub h.src && h.src.truncate 8 == (0x81 : Byte) then m
    else
      let a := h.arg.toNat
      let n := 16 * x.pkt.data.length
      if m.copyWait a n then m
      else if a % 16 ≠ 0 ∨ !m.mayReach h a n then (m.deq q).hubRespond (hbmSrc a) h 0x23 3 []
      else if par = .lost then ((m.deq q).parityLost (m.alias_ a) n).hubRespond (hbmSrc a) h 0x23 2 []
      else
        ((m.deq q).wrEffect x.pkt).hubRespond (hbmSrc a) h 0x21 0 []

/-! Stop registers and fences (R226, R228 to R230) -/

/-- FENCE STATE codes: 0 OPEN, 1 DRAINING, 2 FENCED, 3 FORCED. -/
def fenceReq (m : Mach) (die : BitVec 2) (s : BitVec 5) : Mach :=
  let x := m.stop die s
  if x.req ∨ x.fence ≠ 0 then m
  else m.modStop die s (fun x => { x with req := true, fence := 1, drainFrom := m.coreCycle, late := false })

/-- REQ written 0: a drain is cancelled, or isolation is released and the stop opens. -/
def fenceOpen (m : Mach) (die : BitVec 2) (s : BitVec 5) : Mach :=
  if !(m.stop die s).req then m
  else (m.modStop die s (fun x => { x with req := false, fence := 0, isolated := false })).offerReleases die s

/-- FORCE written 1 while DRAINING: the packets queued are discarded and the stop is isolated. -/
def force (m : Mach) (die : BitVec 2) (s : BitVec 5) : Mach :=
  if (m.stop die s).fence ≠ 1 then m
  else
    let m := m.modStop die s (fun x => { x with fence := 3, isolated := true, cand := [] })
    (List.range 4).foldl (fun m v =>
      let vc : BitVec 2 := BitVec.ofNat 2 v
      [qInj die s vc, qEj die s vc].foldl (fun m q =>
        let l := m.queue q
        l.foldl (fun m x => m.discard die s x.pkt) (m.setQueue q [])) m) m

/-- When queues are empty and nothing is outstanding a draining stop raises FENCE_ACK and is FENCED, and its tile side is clamped. -/
def fenceAck (m : Mach) (die : BitVec 2) (s : BitVec 5) : Mach :=
  let x := m.stop die s
  let empty := (List.range 4).all (fun v =>
    m.queue (qInj die s (BitVec.ofNat 2 v)) == [] && m.queue (qEj die s (BitVec.ofNat 2 v)) == [])
      && !x.rels.any (·.2.2)
  if x.fence = 1 ∧ empty ∧ x.flight = [] then m.modStop die s (fun x => { x with fence := 2, isolated := true }) else m

/-- DRAINING for LKS_FENCE_TIMEOUT cycles sets TIMEOUT and raises the stop's interrupt source. -/
def fenceTimeout (m : Mach) (die : BitVec 2) (s : BitVec 5) : Mach :=
  let x := m.stop die s
  if x.fence = 1 ∧ !x.late ∧ m.objD 0x2600 0x01 65536 ≤ m.coreCycle - x.drainFrom then
    ((m.modStop die s (fun x => { x with timeout := true, late := true })).hwSet (.timeout die.toNat s.toNat) 4).raiseSource
      (64 + 18 * die.toNat + s.toNat)
  else m

/-- A write of LKS_FENCE. -/
def writeFence (m : Mach) (die : BitVec 2) (s : BitVec 5) (v : Word) : Mach :=
  let m := if v.getLsbD 1 then m.force die s else m
  if v.getLsbD 0 then m.fenceReq die s else m.fenceOpen die s

/-- A write of LKS_RT[d]: a reserved encoding leaves its field, and the stop's entry for itself keeps its reset value (R13, Table 10-6). -/
def writeRt (m : Mach) (die : BitVec 2) (s : BitVec 5) (d : Nat) (v : Word) : Mach :=
  if d = s.toNat ∨ 18 < d then m
  else
    let old := m.rtWord die s d
    let link := bits v 14 11
    let badLink := decide (12 ≤ link) || ((fglEnds link).1 != s && (fglEnds link).2 != s)
    let mask : Word := 0x8400 ||| (if badLink then 0 else 0x7800) ||| (if bits v 9 4 = 0 then 0 else 0x3F0)
      ||| (if d = 18 then 1 else 0)
    m.modStop die s (fun x => { x with rt := SMap.set x.rt d (maskWrite old v mask) })

/-- A write of LKS_STOP_CFG: packets that feed a newly unusable segment leave the ring and are routed again (R228). -/
def writeStopCfg (m : Mach) (die : BitVec 2) (s : BitVec 5) (v : Word) : Mach :=
  let old := (m.stop die s).cfg
  let new := v &&& 0x3F3F01
  let m := m.modStop die s (fun x => { x with cfg := new })
  (List.range 12).foldl (fun m ring =>
    if new.getLsbD (segBit ring) && !old.getLsbD (segBit ring) then m.offRing die s ring else m) m

/-- LKS_FENCE_STAT. -/
def fenceStat (m : Mach) (die : BitVec 2) (s : BitVec 5) : Word :=
  let x := m.stop die s
  at64 (Nat.min 65535 x.flight.length) 16 ||| at64 (b2n x.timeout) 2 ||| at64 x.fence.toNat 0

/-- Read a stop register; none for an unassigned offset (Tables 10-5 and 13-6, R422 at a tile stop, R248 at bridge stop 16). -/
def stopRead (m : Mach) (die : BitVec 2) (s : BitVec 5) (off : Nat) : Option Word :=
  if off = 0 then some (m.stop die s).cfg
  else if off = 8 then some (at64 (b2n (m.stop die s).req) 0)
  else if off = 0x10 then some (m.fenceStat die s)
  else if off % 8 ≠ 0 then none
  else if 0x100 ≤ off ∧ off ≤ 0x100 + 8 * 18 then some (m.rtWord die s ((off - 0x100) / 8))
  else if s.toNat < 16 ∧ off = 0x900 then some (m.avsStat (die ++ (s.truncate 4 : BitVec 4)))
  else if s.toNat < 16 ∧ off = 0x908 then some (avsLimit (die ++ (s.truncate 4 : BitVec 4)))
  else if s.toNat < 16 ∧ off = 0x800 then some (m.rbqFree (die ++ (s.truncate 4 : BitVec 4)))
  else if s.toNat < 16 ∧ off = 0x808 then some (m.tile (die ++ (s.truncate 4 : BitVec 4))).rbNode
  else if s.toNat < 16 ∧ off = 0x810 then some 0
  else if s ≠ 16 then none
  else if 0x400 ≤ off ∧ off < 0x500 then some (m.ptLoc die ((off - 0x400) / 8))
  else if 0x500 ≤ off ∧ off < 0x600 then some (m.ptData die ((off - 0x500) / 8))
  else if 0x600 ≤ off ∧ off < 0x680 then some (m.ch die ((off - 0x600) / 8))
  else none

/-- Write a stop register; none for an unassigned offset. -/
def stopWrite (m : Mach) (die : BitVec 2) (s : BitVec 5) (off : Nat) (v : Word) : Option Mach :=
  if off = 0 then some (m.writeStopCfg die s v)
  else if off = 8 then some (m.writeFence die s v)
  else if off = 0x10 then
    some (if (m.clears (.timeout die.toNat s.toNat) v).getLsbD 2 then m.modStop die s (fun x => { x with timeout := false }) else m)
  else if off % 8 ≠ 0 then none
  else if 0x100 ≤ off ∧ off ≤ 0x100 + 8 * 18 then some (m.writeRt die s ((off - 0x100) / 8) v)
  else if s.toNat < 16 ∧ (off = 0x900 ∨ off = 0x908) then some m
  else if s.toNat < 16 ∧ off = 0x800 then some m
  else if s.toNat < 16 ∧ off = 0x808 then
    some (m.modTile (die ++ (s.truncate 4 : BitVec 4)) (fun x => { x with rbNode := v &&& 0x070000FFFFFFFFFF }))
  else if s.toNat < 16 ∧ off = 0x810 then some (m.writeRbqKey (die ++ (s.truncate 4 : BitVec 4)) v)
  else if s ≠ 16 then none
  else if 0x400 ≤ off ∧ off < 0x500 then some (m.writePtLoc die ((off - 0x400) / 8) v)
  else if 0x500 ≤ off ∧ off < 0x600 then some m
  else if 0x600 ≤ off ∧ off < 0x680 then some (m.writeCh die ((off - 0x600) / 8) v)
  else none

/-- CFG_RD at the head of a stop's ejection queue is answered. -/
def serveCfgRd (m : Mach) (die : BitVec 2) (s : BitVec 5) : Mach :=
  let q := qEj die s 2
  match m.queue q with
  | [] => m
  | x :: _ =>
    let h := x.pkt.h
    if h.cmd ≠ 0x12 ∨ leavesAt die h ∨ !m.canAnswer die s then m
    else
      match m.stopRead die s (bits h.arg 11 0) with
      | some v =>
        let m := if bits h.arg 11 0 = 0x900 then m.avsRead (die ++ (s.truncate 4 : BitVec 4)) else m
        (m.deq q).respond die s h 0x22 0 [v.zeroExtend 128]
      | none => (m.deq q).respond die s h 0x23 3 []

/-- CFG_WR at the head of a stop's ejection queue takes effect and is answered. -/
def serveCfgWr (m : Mach) (die : BitVec 2) (s : BitVec 5) : Mach :=
  let q := qEj die s 2
  match m.queue q with
  | [] => m
  | x :: _ =>
    let h := x.pkt.h
    if h.cmd ≠ 0x13 ∨ leavesAt die h ∨ !m.canAnswer die s then m
    else
      match (m.deq q).stopWrite die s (bits h.arg 11 0) ((x.pkt.data.getD 0 0).truncate 64) with
      | some m => m.respond die s h 0x22 0 [0]
      | none => (m.deq q).respond die s h 0x23 3 []

/-! Responses (R215, R282, R446) -/

/-- The value a load of a width gives a register (R107). -/
def loadExt (w : BitVec 2) (sx : Bool) (v : Word) : Word :=
  match w.toNat, sx with
  | 0, false => (v.truncate 8 : BitVec 8).zeroExtend 64
  | 0, true => (v.truncate 8 : BitVec 8).signExtend 64
  | 1, false => (v.truncate 16 : BitVec 16).zeroExtend 64
  | 1, true => (v.truncate 16 : BitVec 16).signExtend 64
  | 2, false => (v.truncate 32 : BitVec 32).zeroExtend 64
  | 2, true => (v.truncate 32 : BitVec 32).signExtend 64
  | _, _ => v

/-- A response to a service core: a load writes its register, a store is complete; an error status raises a trap of the load or is counted for the store (R282). -/
def coreResponse (m : Mach) (tid : BitVec 12) (status : BitVec 4) (v : Word) : Mach :=
  match SMap.get? m.net.hubReqs tid.toNat with
  | none => m.logErr 0 0x0A 0 none 0
  | some r =>
    let m := { m with net := { m.net with hubReqs := SMap.erase m.net.hubReqs tid.toNat } }
    let x := m.core r.core
    if r.load then
      match x.run with
      | .loading rd w sx =>
        let x := { x with run := .running }
        if status = 0 then m.coreDone r.core { x with th := (x.th.put rd (loadExt w sx v)).next }
        else (m.setCore r.core x).coreTrap r.core { code := if status = 2 then 0x09 else 0x06, value := r.addr }
      | _ => m
    else
      let m := m.setCore r.core { x with outst := x.outst - 1 }
      if status = 0 then m
      else (m.count 0x4C00 0x06).logErr 0 0x0A 0 none r.core.toNat 0 (status.zeroExtend 64) r.addr

/-- The request of a tile that has a transaction number has its answer: an error, or its lack, faults the job it served (R446), and an acknowledged store counts for its firing (R176). None where no request has that number. -/
def reqEnds (m : Mach) (die : BitVec 2) (s : BitVec 5) (tid : BitVec 12) (err : Option Nat) (e0 e1 : Word) : Option Mach :=
  let t : TileId := die ++ (s.truncate 4 : BitVec 4)
  let fault := fun (m : Mach) (j : JobId) => match err with
    | some r => m.faultJob j r (stopBlock s) (stopLoc die s) e0 e1
    | none => m
  if 16 ≤ s.toNat then none
  else
    match m.reqOf t tid, m.pmsgs.find? (fun x => x.msg.tile == t && x.tid == some tid) with
    | some r, _ =>
      let m := m.endReq t tid
      match r.what, err with
      | .store head _ _, none => some (m.storeAcked t head)
      | _, _ => some (fault m r.job)
    | none, some x => some (fault (m.endProbe die s tid) x.msg.job)
    | none, none => none

/-- The header of the request of a tile that has a transaction number, as its stop took it (Table 10-2). -/
def reqHdr (m : Mach) (die : BitVec 2) (s : BitVec 5) (tid : BitVec 12) : BitVec 128 :=
  let t : TileId := die ++ (s.truncate 4 : BitVec 4)
  match m.reqOf t tid, m.pmsgs.find? (fun x => x.msg.tile == t && x.tid == some tid) with
  | some r, _ => (m.reqPkt t tid r (List.replicate (if r.wr then r.units else 0) 0)).hdr
  | none, some x => (m.probePkt t tid x.msg.job).hdr
  | none, none => 0

/-- The core cycle in which a tile issued the request that has a transaction number. -/
def reqSince (m : Mach) (die : BitVec 2) (s : BitVec 5) (tid : BitVec 12) : Option Nat :=
  let t : TileId := die ++ (s.truncate 4 : BitVec 4)
  if 16 ≤ s.toNat then none
  else ((m.reqOf t tid).map TReq.since).orElse (fun _ => (m.pmsgs.find? (fun x => x.msg.tile == t && x.tid == some tid)).map (·.since))

/-- The response of a command at the head of an end point's VC3 queue: at a tile the request it answers ends, and an error faults the job it served; one that no request awaits is discarded and logged (R446). -/
def takeResponse (m : Mach) (e : EndPoint) (cmd : BitVec 6) : Mach :=
  let q := endQ e 3
  match m.queue q with
  | [] => m
  | x :: _ =>
    let h := x.pkt.h
    if h.cmd ≠ cmd then m
    else
      let m := m.deq q
      match e with
      | .hub _ _ => m.coreResponse h.tid (if cmd = 0x23 then h.xst else 0) ((x.pkt.data.getD 0 0).truncate 64)
      | .stop die s =>
        let lo : Word := x.pkt.hdr.truncate 64
        let hi : Word := x.pkt.hdr.extractLsb' 64 64
        (m.reqEnds die s h.tid (if cmd = 0x23 then some (if h.xst = 2 then 0x0206 else 0x020A) else none) lo hi).getD
          (m.logErr 0 (stopBlock s) 0 (if h.jv then some h.job else none) (stopLoc die s) lo hi)

/-- Whether the response of a transaction number has reached an end point that has not taken it yet: it has come in time (R446). -/
def answered (m : Mach) (qs : List Nat) (tid : BitVec 12) : Bool := qs.any (fun q => (m.queue q).any (fun x => x.pkt.h.tid == tid))

/-- The queues of responses at the hub's end points. -/
def hubRspQs : List Nat :=
  ((List.range 4).map (BitVec.ofNat 2)).flatMap (fun d => [qHub d false 3, qHub d true 3])

/-- A request that no response has answered in its time acts as an ERR_RSP with status 1, and is outstanding no more; a flight whose request has ended so before it was injected ends in the same time (R446). The entry of the log gives the request's command, SRC, TID and ARG as its header held them (Table 21-5). -/
def requestTimeout (m : Mach) (e : EndPoint) (tid : BitVec 12) : Mach :=
  match e with
  | .stop die s =>
    if m.answered [qEj die s 3] tid then m
    else
      match m.reqSince die s tid with
      | some c =>
        if m.coreCycle - c < 2 ^ 20 then m
        else
          let p := m.reqHdr die s tid
          ((m.endFlight die s tid).reqEnds die s tid (some 0x020A) (p.truncate 64) (p.extractLsb' 64 64)).getD m
      | none =>
        if (m.stop die s).flight.any (fun f => f.tid == tid && decide (2 ^ 20 ≤ m.coreCycle - f.since)) then m.endFlight die s tid else m
  | .hub _ _ =>
    if m.answered hubRspQs tid then m
    else
      match SMap.get? m.net.hubReqs tid.toNat with
      | some r =>
        if m.cycle - r.since < 2 ^ 19 then m
        else ([16, 17].foldl (fun m b => [0, 1, 2, 3].foldl (fun (m : Mach) d => m.endFlight d b tid) m) m).coreResponse tid 1 0
      | none => m

/-! The hub token injector (R40, R189, Table 9-1) -/

/-- The lowest free hub slot. -/
def freeHubSlot (m : Mach) : Option (BitVec 14) :=
  (SMap.freeKey m.hubTerms (m.hubTerms.length + 1) 0).bind (fun k => if k < 16384 then some (BitVec.ofNat 14 k) else none)

/-- A token the hub takes on while a reduction runs enters its report (R187). -/
def hubReport (m : Mach) (x : Live) : Mach :=
  m.modJob x.job (fun b =>
    if b.sampled then { b with sampG := minTag (x.tag :: b.sampG.toList), sampS := minTag (x.tag :: b.sampS.toList),
                               sampClear := b.sampClear && !x.anti }
    else b)

/-- A token becomes a term of the hub. -/
def hubTerm (m : Mach) (slot : BitVec 14) (x : Live) : Mach :=
  ({ m with hubTerms := SMap.set m.hubTerms slot.toNat x }).hubReport x

/-- A token of the hub's injectors takes a slot, becomes a hub term, and goes into its die or to another module. -/
def hubPlace (m : Mach) (slot : BitVec 14) (src : BitVec 16) (t : Token) (tag : Tag) : Mach :=
  let m := m.hubTerm slot ⟨t.job, tag, t.kind == 1, t.nodeId⟩
  let p : Packet := ⟨(tokenHdr t src slot).pack, t.units⟩
  if t.modNo = m.number then m.intoDie p else m.toFabric p t.modNo

/-- The hub sends a token into its die, or to another module: it is a hub term from now on. With every hub slot taken it waits for one, in order, and its tag stands in the hub's report meanwhile (R189, R202). -/
def hubInject (m : Mach) (src : BitVec 16) (t : Token) (tag : Tag) : Mach :=
  match m.hubWait, m.freeHubSlot with
  | [], some slot => m.hubPlace slot src t tag
  | _, _ => ({ m with hubWait := m.hubWait ++ [(src, t, tag)] }).hubReport ⟨t.job, tag, t.kind == 1, t.nodeId⟩

/-- In a hub cycle the first token that waits for a hub slot takes a free one; a token of a job that is no longer LOADED, RUN or PAUSED is absorbed (R39, R202). -/
def hubDrain (m : Mach) : Mach :=
  match m.hubWait with
  | [] => m
  | (src, t, tag) :: rest =>
    if !m.live t.job then ({ m with hubWait := rest }).absorbCount t.job 1
    else
      match m.freeHubSlot with
      | none => m
      | some slot => ({ m with hubWait := rest }).hubPlace slot src t tag

end Mach

/-- TOKEN at its destination stop (R215). -/
def execToken (die : BitVec 2) (stop : BitVec 5) (s : State) : Res :=
  let stop := theStop stop
  s.on (fun m => m.takeTokens die stop 0 0x01)
/-- TOKEN_MC at a destination stop (R217, R218). -/
def execTokenMc (die : BitVec 2) (stop : BitVec 5) (s : State) : Res :=
  let stop := theStop stop
  s.on (fun m => m.takeTokens die stop 0 0x02)
/-- ANTI at its destination stop. -/
def execAnti (die : BitVec 2) (stop : BitVec 5) (s : State) : Res :=
  let stop := theStop stop
  s.on (fun m => m.takeTokens die stop 1 0x03)
/-- ANTI_MC at a destination stop. -/
def execAntiMc (die : BitVec 2) (stop : BitVec 5) (s : State) : Res :=
  let stop := theStop stop
  s.on (fun m => m.takeTokens die stop 1 0x04)
/-- CONTROL at its destination stop. -/
def execControl (die : BitVec 2) (stop : BitVec 5) (s : State) : Res :=
  let stop := theStop stop
  s.on (fun m => m.takeTokens die stop 1 0x05)
/-- SLOT_REL at the initiator (R23, R215). -/
def execSlotRel (dst : EndPoint) (s : State) : Res :=
  let dst := dst.the
  s.on (fun m => m.takeSlotRel dst)
/-- RD at the hub (R215, R235, R254). -/
def execRd (die : BitVec 2) (link : HbmLink) (s : State) : Res := s.on (fun m => m.serveRd die link.br link.par)
/-- WR at the hub (R215, R235, R241, R254). -/
def execWr (die : BitVec 2) (link : HbmLink) (s : State) : Res := s.on (fun m => m.serveWr die link.br link.par)
/-- CFG_RD at a stop (R226). -/
def execCfgRd (die : BitVec 2) (stop : BitVec 5) (s : State) : Res :=
  let stop := theStop stop
  s.on (fun m => m.serveCfgRd die stop)
/-- CFG_WR at a stop (R226, R229). -/
def execCfgWr (die : BitVec 2) (stop : BitVec 5) (s : State) : Res :=
  let stop := theStop stop
  s.on (fun m => m.serveCfgWr die stop)
/-- RD_RSP at its initiator. -/
def execRdRsp (dst : EndPoint) (s : State) : Res :=
  let dst := dst.the
  s.on (fun m => m.takeResponse dst 0x20)
/-- WR_ACK at its initiator. -/
def execWrAck (dst : EndPoint) (s : State) : Res :=
  let dst := dst.the
  s.on (fun m => m.takeResponse dst 0x21)
/-- CFG_RSP at its initiator (R282). -/
def execCfgRsp (dst : EndPoint) (s : State) : Res :=
  let dst := dst.the
  s.on (fun m => m.takeResponse dst 0x22)
/-- ERR_RSP at its initiator (R282, R446). -/
def execErrRsp (dst : EndPoint) (s : State) : Res :=
  let dst := dst.the
  s.on (fun m => m.takeResponse dst 0x23)
/-- STOP_INJECT (R224). -/
def execStopInject (die : BitVec 2) (stop : BitVec 5) (s : State) : Res :=
  let stop := theStop stop
  s.on (fun m => m.stopInject die stop)
/-- RING_HOP of a ring output of a stop (R220, R223). -/
def execRingHop (die : BitVec 2) (stop : BitVec 5) (ring : BitVec 4) (ecc : Ecc) (s : State) : Res :=
  let stop := theStop stop
  let ring := theRing ring
  s.on (fun m => m.ringHop die stop ring.toNat ecc)
/-- FOXGLOVE_TRAVERSAL (R227). -/
def execFoxgloveTraversal (die : BitVec 2) (link : BitVec 4) (back : Bool) (vc : BitVec 2) (ecc : Ecc) (s : State) : Res :=
  let link := theFoxglove link
  s.on (fun m => m.foxglove die link.toNat back vc ecc)
/-- BRIDGE_CROSSING (R225). -/
def execBridgeCrossing (die : BitVec 2) (br toHub : Bool) (vc : BitVec 2) (ecc : Ecc) (s : State) : Res :=
  s.on (fun m => m.bridge die br toHub vc ecc)
/-- LKS_RT: a routing-table write (R229). -/
def execLksRt (die : BitVec 2) (stop d : BitVec 5) (v : Word) (s : State) : Res :=
  let stop := theStop stop
  let d := theRoute d
  s.on (fun m => m.writeRt die stop d.toNat v)
/-- LKS_STOP_CFG: a write (R228, R229). -/
def execLksStopCfg (die : BitVec 2) (stop : BitVec 5) (v : Word) (s : State) : Res :=
  let stop := theStop stop
  s.on (fun m => m.writeStopCfg die stop v)
/-- FENCE_REQ: REQ written 1 (R230). -/
def execFenceReq (die : BitVec 2) (stop : BitVec 5) (s : State) : Res :=
  let stop := theStop stop
  s.on (fun m => m.fenceReq die stop)
/-- FENCE_OPEN: REQ written 0 (R230). -/
def execFenceOpen (die : BitVec 2) (stop : BitVec 5) (s : State) : Res :=
  let stop := theStop stop
  s.on (fun m => m.fenceOpen die stop)
/-- FORCE written 1 (R230). -/
def execForce (die : BitVec 2) (stop : BitVec 5) (s : State) : Res :=
  let stop := theStop stop
  s.on (fun m => m.force die stop)
/-- FENCE_ACK (R230). -/
def execFenceAck (die : BitVec 2) (stop : BitVec 5) (s : State) : Res :=
  let stop := theStop stop
  s.on (fun m => m.fenceAck die stop)
/-- FENCE_TIMEOUT (R230). -/
def execFenceTimeout (die : BitVec 2) (stop : BitVec 5) (s : State) : Res :=
  let stop := theStop stop
  s.on (fun m => m.fenceTimeout die stop)
/-- REQUEST_TIMEOUT of an initiator's request (R446). -/
def execRequestTimeout (dst : EndPoint) (tid : BitVec 12) (s : State) : Res :=
  let dst := dst.the
  s.on (fun m => m.requestTimeout dst tid)

end Sys2Proof.Machine
end

