-- ==== Sys2Proof/Machine/Probe.lean ====
section
/-! DEFINITION. Probe streams and triggers: the collector, releases, trigger actions, front ends, packets, the stream operations and registers (chapter 16). -/

namespace Sys2Proof.Machine

/-- Items of a job the commit buffer is entitled to hold (R336). -/
def itemsPerJob : Nat := 131072

/-- Words I0-I3 of a released item (Table 16-2). -/
def itemWords (kind : Nat) (trg : Nat) (pid : BitVec 32) (x : PItem) (g : BitVec 64) : SItem :=
  { i0 := fullTime x.time g,
    i1 := at64 x.delta.toNat 52 ||| at64 kind 50 ||| at64 x.sel.toNat 45 ||| at64 (b2n x.fs) 44 ||| at64 trg 32
      ||| at64 pid.toNat 0,
    i2 := x.a, i3 := x.b, gvt := g }

/-- The order of items within a release (R337). -/
def itemBefore (x y : PItem) : Bool :=
  x.ctag.lt y.ctag || (x.ctag == y.ctag && (decide (x.node.toNat < y.node.toNat)
    || (x.node == y.node && (decide (x.kind.toNat < y.kind.toNat)
    || (x.kind == y.kind && (decide (x.sel.toNat < y.sel.toNat)
    || (x.sel == y.sel && decide (x.ord < y.ord))))))))

namespace Stream

/-- Bytes of the buffer. -/
def size (x : Stream) : Nat := x.sizeMib * 2 ^ 20

/-- OPEN of R343: the open packet with its header, and closed packets not yet acknowledged. -/
def openBytes (x : Stream) : Nat :=
  (match x.openPkt with
   | some o => 32 + 32 * o.items
   | none => 0) + x.unacked.foldl (· + ·) 0

/-- Free space (R343). -/
def free (x : Stream) : Nat := x.size + x.release - (x.write + x.openBytes)

/-- Whether the writer can pop an item (R343). -/
def canPop (x : Stream) : Bool := decide ((if x.openPkt.isSome then 32 else 64) ≤ x.free)

/-- Module address of a byte count. -/
def addr (x : Stream) (c : Nat) : Nat := x.base + c % x.size

/-- STATE of STR_STAT (Table 16-3). -/
def state (x : Stream) : Nat := if x.job.isNone then 0 else if x.disabled then 2 else 1

end Stream

namespace Mach

def stream (m : Mach) (s : Nat) : Stream := SMap.getD m.streams s {}
def modStream (m : Mach) (s : Nat) (f : Stream → Stream) : Mach :=
  { m with streams := SMap.set m.streams s (f (m.stream s)) }
def trigger (m : Mach) (t : Nat) : Trigger := SMap.getD m.triggers t {}
def modTrigger (m : Mach) (t : Nat) (f : Trigger → Trigger) : Mach :=
  { m with triggers := SMap.set m.triggers t (f (m.trigger t)) }

/-! The collector (R334 to R336) -/

/-- Items the commit buffer holds for a job: those not released, and those released that no front end has taken, but for trigger items (R336, R345). -/
def itemsHeld (m : Mach) (j : JobId) : Nat :=
  (m.coll.filter (fun x => x.2.job == j)).length
    + (m.streams.flatMap (fun e => if e.2.job = some j then e.2.offered.filter (fun i => bits i.i1 51 50 != 3) else [])).length

/-- The message of a tile whose packet heads a bridge link's queue at the hub die, with the link: the switch delivers it to the collector (R334). -/
def nextMsg (m : Mach) (t : TileId) : Option (Bool × Option PMsg) :=
  [false, true].findSome? (fun br => (m.queue (qHub (tileDie t) br 2)).head?.bind (fun x =>
    let h := x.pkt.h
    if h.cmd = 0x11 ∧ h.src = srcOf (tileDie t) (tileStop t) 0x81 then
      some (br, (m.pmsgs.find? (fun y => y.msg.tile == t && y.tid == some h.tid)).map (·.msg))
    else none))

/-- The collector acknowledges the packet at the head of a bridge link's queue; Table 10-4 gives the collector no SRC number, and the model takes the hub's (log entry 19). -/
def ackMsg (m : Mach) (t : TileId) (br : Bool) : Mach :=
  match m.queue (qHub (tileDie t) br 2) with
  | [] => m
  | x :: _ => (m.deq (qHub (tileDie t) br 2)).hubRespond 0x8300 x.pkt.h 0x21 0 []

/-- Whether a cancel of a node at a tag, with its generation after the advance, drops an item (R335). -/
def cancels (j : JobId) (node : NodeId) (tag : Tag) (g : Byte) (x : PItem) : Bool :=
  x.job == j && x.node == node && tag.le x.ctag && (let d := (g - x.gen).toNat; decide (1 ≤ d ∧ d ≤ 128))

/-- Whether a cancel belongs to the present run of its node's generations: an undone item of an earlier run is under way no more, for GVT has passed it (R160). -/
def cancelLive (m : Mach) (c : ProbeCancel) : Bool :=
  let r : NRef := ⟨c.job, nodePe c.node, nodeLocal c.node⟩
  decide ((m.nGen r - c.gen).toNat < m.rbc r)

/-- Whether the collector has a cancel that drops an item, whichever of the two arrived first (R335, R338). -/
def cancelled (m : Mach) (x : PItem) : Bool :=
  m.collCancels.any (fun c => m.cancelLive c && cancels c.job c.node c.tag c.gen x)

/-- The collector takes an item: dropped where a cancel of it came first, held, or dropped when its job has overflowed or would exceed its entitlement, which faults the job (R335, R336). -/
def collect (m : Mach) (t : TileId) (x : PItem) : Mach :=
  let j := x.job
  let n := m.itemsHeld j
  if (m.job j).state = .empty ∨ m.probeOvf.getLsbD j.toNat then m
  else if m.cancelled x then m.count (0x4F80 + j.toNat) 0x01
  else if itemsPerJob ≤ n then
    ({ m with probeOvf := m.probeOvf ||| (1#8 <<< j.toNat) }).faultJob j 0x0207 0x0F (x.stream.getD 0).toNat (BitVec.ofNat 64 n)
  else
    let m := { m with coll := m.coll ++ [(t, x)] }
    m.setObj (0x4F80 + j.toNat) 0x02 (Nat.max (m.objD (0x4F80 + j.toNat) 0x02 0) (n + 1))

/-- PROBE_ITEM: the collector receives an item of a tile, or a packet whose message has ended by its timeout. -/
def probeItem (m : Mach) (t : TileId) : Mach :=
  match m.nextMsg t with
  | some (br, some (.item _ x)) => (m.ackMsg t br).collect t x
  | some (br, none) => m.ackMsg t br
  | _ => m

/-- PROBE_CANCEL: the collector receives a cancel of a tile: it drops what it holds, and keeps the cancel for items that arrive after it. -/
def probeCancel (m : Mach) (t : TileId) : Mach :=
  match m.nextMsg t with
  | some (br, some (.cancel _ j node tag g)) =>
    let m := m.ackMsg t br
    let n := (m.coll.filter (fun x => cancels j node tag g x.2)).length
    let old : List ProbeCancel := m.collCancels.filter (fun c => !(c.job == j && c.node == node) || m.cancelLive c)
    let c : ProbeCancel := ⟨j, node, tag, g⟩
    ({ m with coll := m.coll.filter (fun x => !cancels j node tag g x.2), collCancels := old ++ [c] }).count (0x4F80 + j.toNat) 0x01 n
  | _ => m

/-! Packets (R340 to R343, R345) -/

/-- Close the open packet: its header is written, and its bytes wait for the acknowledgement (R342). -/
def closePacket (m : Mach) (s : Nat) (fin trunc : Bool) : Mach :=
  let x := m.stream s
  match x.openPkt with
  | none => m
  | some o =>
    let len := 32 + 32 * o.items
    let h0 : Word := at64 1 56 ||| at64 (b2n fin) 51 ||| at64 (b2n trunc) 50 ||| at64 o.items 32 ||| at64 len 0
    let m := m.hbmWrite (m.alias_ (x.addr o.at_)) (wordsBytes [h0, BitVec.ofNat 64 x.seq, m.wallNow, x.gvt])
    (m.modStream s (fun x => { x with openPkt := none, seq := x.seq + 1, unacked := x.unacked ++ [len],
                                      closeWait := x.closeWait && (x.front != [] || x.offered != []) })).count (0x4F00 + s) 0x02

/-- FULL is 1 while the writer holds an item or a FINAL packet it has no space for; its rise pauses the job and is logged (R343, R345). -/
def streamFull (m : Mach) (s : Nat) : Mach :=
  let x := m.stream s
  let now := (x.front != [] && !x.canPop)
    || (x.finalWait.isSome && x.front == [] && x.openPkt.isNone && decide (x.free < 32))
  let m := if now = x.full then m else m.modStream s (fun x => { x with full := now })
  if now && !x.full then
    let m := (m.count (0x4F00 + s) 0x03).logErr 0 0x0F 0 x.job s (BitVec.ofNat 64 (m.objD (0x4F00 + s) 0x03 0 + 1))
    match x.job with
    | some j => m.pauseInside j none 0x0F
    | none => m
  else m

/-- Open a packet at the write position (R340). -/
def openPacket (m : Mach) (s : Nat) : Mach :=
  m.modStream s (fun x => { x with openPkt := some ⟨x.write + x.unacked.foldl (· + ·) 0, 0, m.cycle⟩ })

/-- Whether the open packet was opened LINGER_US or more ago. -/
def lingered (m : Mach) (x : Stream) : Bool :=
  match x.openPkt with
  | some o => decide (x.linger.toNat * 1500 ≤ m.cycle - o.opened)
  | none => false

/-- Closes that have fallen due once the items before them are written: a disable's FINAL packet, and the close of a job that stopped (R341, R346). -/
def settleStream (m : Mach) (s : Nat) : Mach :=
  let x := m.stream s
  if x.front != [] then m.streamFull s
  else
    match x.finalWait with
    | some trunc =>
      if x.openPkt.isSome then
        ((m.closePacket s true trunc).modStream s (fun x => { x with finalWait := none })).streamFull s
      else if 32 ≤ x.free then
        (((m.openPacket s).closePacket s true false).modStream s (fun x => { x with finalWait := none })).streamFull s
      else m.streamFull s
    | none =>
      if x.closeWait && x.offered == [] then
        ((m.closePacket s false false).modStream s (fun x => { x with closeWait := false })).streamFull s
      else m.streamFull s

/-- ITEM_WRITE: the writer pops stage 0 into the open packet, opening one where none is open, when space allows (R343). -/
def itemWrite (m : Mach) (s : Nat) : Mach :=
  let x := m.stream s
  match x.front with
  | [] => m.settleStream s
  | i :: rest =>
    if !x.canPop then m.streamFull s
    else
      let m := if x.openPkt.isSome then m else m.openPacket s
      match (m.stream s).openPkt with
      | none => m
      | some o =>
        let m := m.hbmWrite (m.alias_ (x.addr (o.at_ + 32 + 32 * o.items))) (wordsBytes [i.i0, i.i1, i.i2, i.i3])
        let m := (m.modStream s (fun x => { x with
          front := rest, gvt := i.gvt, openPkt := some { o with items := o.items + 1 } })).count (0x4F00 + s) 0x01
        let y := m.stream s
        let m := if decide (y.maxItems.toNat ≤ o.items + 1) || (i.last && m.lingered y) then m.closePacket s false false else m
        m.settleStream s

/-- FRONT_END_PUSH: the collector pushes the item it offers, when one of the 16 stages is empty (R339). -/
def frontPush (m : Mach) (s : Nat) : Mach :=
  let x := m.stream s
  match x.offered with
  | [] => m
  | i :: rest =>
    if 16 ≤ x.front.length then m
    else (m.modStream s (fun x => { x with offered := rest, front := x.front ++ [i] })).streamFull s

/-- PACKET_COMMIT: HBM has acknowledged every write of the oldest closed packet; STR_WRITE advances, and a notice is sent where NOTE_EN asks for it (R342); writes to a unit of HBM that is being copied are acknowledged after the copy (R252). -/
def packetCommit (m : Mach) (s : Nat) : Mach :=
  let x := m.stream s
  match x.unacked with
  | [] => m
  | len :: rest =>
    if (List.range (len / 32)).any (fun i => m.copyWait (x.addr (x.write + 32 * i)) 32) then m
    else
    let m := m.modStream s (fun x => { x with write := x.write + len, unacked := rest })
    match x.noteEn, x.job with
    | true, some j => m.msi (m.jobFn j) x.vector.toNat
    | _, _ => m

/-! Operations of a stream (R344, R346) -/

/-- Whether a stream is owned; with no owner its registers stay at reset (R347). -/
def owned (m : Mach) (s : Nat) : Bool := (m.stream s).job.isSome

/-- A write of STR_READ: taken when it is a multiple of 32 from STR_MARK to STR_WRITE (R344). -/
def strRead (m : Mach) (s : Nat) (v : Word) : Mach :=
  let x := m.stream s
  if m.owned s && decide (v.toNat % 32 = 0 ∧ x.mark ≤ v.toNat ∧ v.toNat ≤ x.write) then
    m.modStream s (fun x => { x with read := v.toNat })
  else m

def strMark (m : Mach) (s : Nat) : Mach := if m.owned s then m.modStream s (fun x => { x with mark := x.read }) else m
def strRewind (m : Mach) (s : Nat) : Mach := if m.owned s then m.modStream s (fun x => { x with read := x.mark }) else m
def strRelease (m : Mach) (s : Nat) : Mach :=
  if m.owned s then (m.modStream s (fun x => { x with release := x.mark })).settleStream s else m
def strClose (m : Mach) (s : Nat) : Mach := if m.owned s then (m.closePacket s false false).settleStream s else m

/-- DISABLE_FLUSH and DISABLE_DISCARD: the stream is DISABLED at once, items not yet in the front end are dropped, and the FINAL packet follows; a stream already DISABLED is left (R346). -/
def strDisable (m : Mach) (s : Nat) (discard : Bool) : Mach :=
  let x := m.stream s
  if x.job.isNone || x.disabled then m
  else
    let n := x.offered.length + (if discard then x.front.length else 0)
    let m := (m.modStream s (fun x => { x with
      disabled := true, offered := [], finalWait := some discard, front := if discard then [] else x.front })).count (0x4F00 + s) 0x04 n
    m.settleStream s

/-- A write of STR_CFG: NOTE_EN, VECTOR within the table of the function, MAX_ITEMS from 1, LINGER_US (Table 16-3, R13). -/
def strCfg (m : Mach) (s : Nat) (vectors : Nat) (v : Word) : Mach :=
  if !m.owned s then m
  else m.modStream s (fun x => { x with
    noteEn := v.getLsbD 31,
    vector := if bits v 30 20 < vectors then v.extractLsb' 20 11 else x.vector,
    maxItems := if bits v 19 10 = 0 then x.maxItems else v.extractLsb' 10 10,
    linger := v.extractLsb' 0 10 })

/-- A write of STR_CTL. -/
def strCtl (m : Mach) (s : Nat) (v : Word) : Mach :=
  match bits v 2 0 with
  | 1 => m.strMark s
  | 2 => m.strRewind s
  | 3 => m.strRelease s
  | 4 => m.strDisable s false
  | 5 => m.strDisable s true
  | 6 => m.strClose s
  | _ => m

/-- A read of a register of a stream at an offset (Table 16-3). -/
def strReg (m : Mach) (s off : Nat) : Word :=
  let x := m.stream s
  match off with
  | 0x00 =>
    match x.job with
    | none => at64 255 10 ||| at64 100 0
    | some j => at64 1 63 ||| at64 j.toNat 60 ||| at64 x.sizeMib 49 ||| at64 (b2n x.noteEn) 31 ||| at64 x.vector.toNat 20
      ||| at64 x.maxItems.toNat 10 ||| at64 x.linger.toNat 0
  | 0x08 => at64 x.base 0
  | 0x10 => at64 x.write 0
  | 0x18 => at64 x.read 0
  | 0x20 => at64 x.mark 0
  | 0x28 => at64 x.release 0
  | 0x38 => at64 (b2n x.openPkt.isSome) 3 ||| at64 (b2n x.full) 2 ||| at64 x.state 0
  | _ => 0

/-- A read of a register of a trigger at an offset (Table 16-4). -/
def trgReg (m : Mach) (t off : Nat) : Word :=
  let x := m.trigger t
  if off < 0x38 then x.g.getD (off / 8) 0
  else at64 (b2n x.armed) 63 ||| at64 x.vector.toNat 0

/-- A write of TRG_CTL (Table 16-4, R13). -/
def trgCtl (m : Mach) (t : Nat) (vectors : Nat) (v : Word) : Mach :=
  if (m.trigger t).job.isNone then m
  else m.modTrigger t (fun x => { x with
    armed := v.getLsbD 63, vector := if bits v 10 0 < vectors then v.truncate 11 else x.vector })

/-! Release at commit (R337, R349 to R351) -/

/-- Hand a released item to its stream; one of a disabled stream is dropped and counted (R346). -/
def offer (m : Mach) (s : Nat) (i : SItem) : Mach :=
  if (m.stream s).disabled then m.count (0x4F00 + s) 0x04
  else m.modStream s (fun x => { x with offered := x.offered ++ [i] })

/-- Whether a released item, captured by the trigger's own filter entry, matches its trigger (R349). -/
def trgMatches (x : Trigger) (j : JobId) (i : PItem) (time : Word) : Bool :=
  let g := fun k => x.g.getD k 0
  x.armed && x.job == some j && decide ((g 5).toNat ≤ time.toNat ∧ time.toNat ≤ (g 6).toNat)
    && ((i.a ^^^ g 2) &&& g 1) == 0 && ((i.b ^^^ g 4) &&& g 3) == 0

/-- Actions of one trigger that matched, in the order of R350; whether it asks for a pause. -/
def trgAct (m : Mach) (j : JobId) (t : Nat) (i : PItem) (g : BitVec 64) : Bool × Mach :=
  let x := m.trigger t
  let g0 := x.g.getD 0 0
  let m := if g0.getLsbD 62 then m.offer (bits g0 51 46) (itemWords 3 t x.probeId i g) else m
  let m := if g0.getLsbD 61 then m.msi (m.jobFn j) x.vector.toNat else m
  let m := if g0.getLsbD 59 then m.modTrigger t (fun x => { x with armed := false }) else m
  let m := if g0.getLsbD 58 then m.modTrigger (bits g0 57 52) (fun x => { x with armed := true }) else m
  (g0.getLsbD 60, m)

/-- Release the items of one committing tag: items to their streams, then the actions of the triggers that matched, in ascending trigger number. -/
def releaseTag (m : Mach) (j : JobId) (g : BitVec 64) (l : List PItem) : Bool × Mach :=
  let m := l.foldl (fun m i => match i.stream with
    | some s => m.offer s.toNat (itemWords i.kind.toNat 0 i.probeId i g)
    | none => m) m
  let hits := (List.range 64).filterMap (fun t => (l.find? (fun i => i.trig == some (BitVec.ofNat 6 t)
    && trgMatches (m.trigger t) j i (fullTime i.time g))).map (fun i => (t, i)))
  let m := hits.foldl (fun m (t, i) =>
    ((m.count (0x4F40 + t) 0x01).setObj (0x4F40 + t) 0x02 (fullTime i.time g).toNat).setObj (0x4F40 + t) 0x03 i.delta.toNat) m
  hits.foldl (fun acc (t, i) =>
    let (p, m) := acc.2.trgAct j t i g
    (acc.1 || p, m)) (false, m)

/-- Items grouped by committing tag, in release order. -/
def byTag : List PItem → List (List PItem)
  | [] => []
  | x :: r =>
    match byTag r with
    | (y :: l) :: gs => if y.ctag = x.ctag then (x :: y :: l) :: gs else [x] :: (y :: l) :: gs
    | gs => [x] :: gs

/-- The end of a release in a stream: the last item of it asks for the close of R341, which comes at once where all are written. -/
def releaseEnd (m : Mach) (s : Nat) : Mach :=
  let mark := fun (l : List SItem) => match l.getLast? with
    | some i => l.dropLast ++ [{ i with last := true }]
    | none => l
  let x := m.stream s
  if x.offered != [] then m.modStream s (fun x => { x with offered := mark x.offered })
  else if x.front != [] then m.modStream s (fun x => { x with front := mark x.front })
  else if m.lingered x then m.closePacket s false false
  else m

/-- Streams of a job. -/
def jobStreams (m : Mach) (j : JobId) : List Nat :=
  (m.streams.filter (fun e => e.2.job == some j)).map (·.1)

/-- A new GVT of a job releases its items below it, in order, and combines the pause actions of its triggers into one request (R337, R351). -/
def probeRelease (m : Mach) (j : JobId) (g : Tag) : Mach :=
  let out := (m.coll.filter (fun x => x.2.job == j && x.2.ctag.lt g)).map (·.2)
  let m := { m with coll := m.coll.filter (fun x => !(x.2.job == j && x.2.ctag.lt g)) }
  let (p, m) := (byTag (sortBy itemBefore out)).foldl (fun (acc : Bool × Mach) l =>
    let (p, m) := acc.2.releaseTag j g.time l
    (acc.1 || p, m)) (false, m)
  let m := (m.jobStreams j).foldl releaseEnd m
  if p then m.pauseInside j none 0x0F else m

/-- The job of its streams has stopped: each open packet closes once its last items are written (R341). -/
def closeStreams (m : Mach) (j : JobId) : Mach :=
  (m.jobStreams j).foldl (fun m s =>
    (m.modStream s (fun x => { x with closeWait := x.openPkt.isSome || x.front != [] || x.offered != [] })).settleStream s) m

end Mach

/-- PROBE_ITEM from a tile (R334, R336). -/
def execProbeItem (t : TileId) (s : State) : Res := s.on (fun m => m.probeItem t)
/-- PROBE_CANCEL from a tile (R335). -/
def execProbeCancel (t : TileId) (s : State) : Res := s.on (fun m => m.probeCancel t)
/-- FRONT_END_PUSH of a stream (R339). -/
def execFrontEndPush (n : BitVec 6) (s : State) : Res := s.on (fun m => m.frontPush n.toNat)
/-- ITEM_WRITE of a stream (R343). -/
def execItemWrite (n : BitVec 6) (s : State) : Res := s.on (fun m => m.itemWrite n.toNat)
/-- PACKET_COMMIT of a stream (R342). -/
def execPacketCommit (n : BitVec 6) (s : State) : Res := s.on (fun m => m.packetCommit n.toNat)
/-- STR_READ: a write of the consumer position (R344). -/
def execStrRead (n : BitVec 6) (v : Word) (s : State) : Res := s.on (fun m => m.strRead n.toNat v)
/-- MARK (R344). -/
def execMark (n : BitVec 6) (s : State) : Res := s.on (fun m => m.strMark n.toNat)
/-- REWIND (R344). -/
def execRewind (n : BitVec 6) (s : State) : Res := s.on (fun m => m.strRewind n.toNat)
/-- RELEASE (R344). -/
def execRelease (n : BitVec 6) (s : State) : Res := s.on (fun m => m.strRelease n.toNat)
/-- DISABLE_FLUSH (R346). -/
def execDisableFlush (n : BitVec 6) (s : State) : Res := s.on (fun m => m.strDisable n.toNat false)
/-- DISABLE_DISCARD (R346). -/
def execDisableDiscard (n : BitVec 6) (s : State) : Res := s.on (fun m => m.strDisable n.toNat true)
/-- CLOSE (R341). -/
def execClose (n : BitVec 6) (s : State) : Res := s.on (fun m => m.strClose n.toNat)

end Sys2Proof.Machine
end

