-- ==== Sys2Proof/Machine/Life.lean ====
section
/-! DEFINITION. Life of the module and its jobs: losing jobs, resets of the hub domain, FAULT, removal of tiles, entering RUN, and the end of a STOP (R201, R246, R405 to R408, Tables 15-8, 19-2 and 19-3). -/

namespace Sys2Proof.Machine

/-- Stored objects a reset of the hub domain keeps: those of the always-on domain, and those of the configuration area of the flash (R256, R376, R393). -/
def keptObj (k : Nat) : Bool :=
  k / 256 == 0x1030 || k / 256 == 0x4100 || k / 256 == 0x5000 || k == 0x6000 * 256 + 1 || k == 0x6000 * 256 + 2
    || k == 0x2700 * 256 + 3 || k == 0x2700 * 256 + 5

namespace Mach

/-! Resets (R406, R411) -/

/-- The two words of a job's DESIGN_ID. -/
def designWords (m : Mach) (j : JobId) : Word × Word :=
  let b := (m.job j).designId
  (BitVec.ofNat 64 (bytesNat (b.take 8)), BitVec.ofNat 64 (bytesNat ((b.drop 8).take 8)))

/-- Record each job that is not EMPTY, with its DESIGN_ID (R406). -/
def recordLost (m : Mach) : Mach :=
  (allJobs.filter (fun j => (m.job j).state != .empty)).foldl (fun m j =>
    let (a, b) := m.designWords j
    let o := fun (k d : Nat) => BitVec.ofNat 64 (m.objD (0x4B00 + j.toNat) k d)
    m.logErr 0 0x11 0 (some j) 0 (o 0x01 255) (o 0x02 0) a b) m

/-- Reset the hub and compute domains: the always-on domain, its objects, the error log and the flash stand, and so do soft repairs, until a boot; WALLTIME stops when the rails go down (R207, R247, R411). -/
def hubReset (m : Mach) (railsDown : Bool) : Mach :=
  { objs := m.objs.filter (fun e => keptObj e.1), part := m.part, number := m.number, sysId := m.sysId, epoch := m.epoch, flash := m.flash,
    repairLog := m.repairLog, hardRows := m.hardRows, ms := { soft := m.ms.soft, softRows := m.ms.softRows }, quanta := m.quanta, err := m.err, evFrames := m.evFrames, evLost := m.evLost, busOff := m.busOff, sop := m.sop, agent := m.agent, agentQ := m.agentQ,
    tag := m.tag, sent := m.sent, free := m.free, mstate := m.mstate,
    wallRun := m.wallRun && !railsDown, wall := if railsDown then 0 else m.wall,
    pw := { m.pw with
      rails := if railsDown then 0 else m.pw.rails, stage := 0, shed := [], shedding := none, quiet := 0, wornSteps := 0, snow := none, waking := false,
      linkUp := false, linkRate := 0, linkWidth := 0, avs := [], gpioCtl := 0xFF0000, gpioIn := 0, gpioMid := 0, syncOut := 0 },
    wallAhead := if railsDown then 0 else m.wallAhead, jtag := if railsDown then {} else m.jtag }

/-- Move to a state outside READY to PAUSED: reported by MODULE_STATE and an event frame (R404). -/
def moveTo (m : Mach) (v : BitVec 4) : Mach := ({ m with mstate := v }).evFrame [1, v.zeroExtend 8]

/-- Enter STANDBY: every job is lost, the hub and compute domains are reset and the main rails go down (R403, R406, R411). -/
def enterStandby (m : Mach) : Mach := (m.recordLost.hubReset true).moveTo 1

/-- Enter BOOT: every job is lost and stage 1 begins (R404, R406, R409). -/
def enterBoot (m : Mach) : Mach :=
  let m := (m.recordLost.hubReset true).moveTo 2
  { m with epoch := m.epoch + 1, ms := {}, number := BitVec.ofNat 8 (m.objD 0x6000 0x01 0), sysId := BitVec.ofNat 64 (m.objD 0x6000 0x02 0),
           pw := { m.pw with stage := 1, bootReq := false } }

/-- Enter FAULT: the cause is logged with SEV 4, every job is lost (R404, R406, R443). -/
def enterFault (m : Mach) (railsDown : Bool) (block loc : Nat) (d0 d1 d2 d3 : Word := 0) : Mach :=
  let m := m.logErr 4 block 0 none loc d0 d1 d2 d3
  (m.recordLost.hubReset railsDown).moveTo 8

/-! Removal of tiles (R246, R445) -/

/-- Take tiles out of the set that may join a tile set: they leave TILE_MAP and are counted in BIST_FAIL_TILES. -/
def removeTiles (m : Mach) (mask : BitVec 64) : Mach :=
  let m := m.modMs (fun x => { x with failTiles := x.failTiles ||| mask })
  match m.obj? 0x2010 0x01 with
  | some v => m.setObj 0x2010 0x01 ((BitVec.ofNat 64 v) &&& ~~~mask).toNat
  | none => m

/-- TILE_MAP: by default every tile not removed. -/
def tileMap (m : Mach) : BitVec 64 := BitVec.ofNat 64 (m.objD 0x2010 0x01 (~~~m.ms.failTiles).toNat)

/-- A compute die is taken out of service: its tiles go, and the jobs that use one of them fault (R445). -/
def removeDie (m : Mach) (d : BitVec 2) (n : Nat) : Mach :=
  let mask : BitVec 64 := 0xFFFF#64 <<< (16 * d.toNat)
  let m := { m with dieOut := m.dieOut ||| (1#4 <<< d.toNat) }
  let m := (m.logErr 3 0x14 0 none d.toNat (BitVec.ofNat 64 n)).removeTiles mask
  (allJobs.filter (fun j => (m.job j).state != .empty && (BitVec.ofNat 64 (m.jobObj j 0x02 0) &&& mask) != 0)).foldl
    (fun m j => m.faultJob j 0x020B 0x14 d.toNat (BitVec.ofNat 64 n)) m

/-! Jobs (R201, R405, R408, Table 15-8) -/

/-- Whether a job runs paced: it owns the Target Port and its PACED object is 1 (R201). -/
def isPaced (m : Mach) (j : JobId) : Bool := m.jobObj j 0x43 0 == 1 && m.objD 0x2500 0x06 0xFF == j.toNat

/-- A job enters RUN: whether it runs paced is decided, a paced job takes its base from GVT and counts its edges from there, and the stall watchdog measures from now (R72, R201). That its time starts anew at every entry into RUN, the first as one after a pause, rather than running on from the last rise of GVT, R72 does not say (the model's choice, log entry 62). -/
def enterRun (m : Mach) (j : JobId) : Mach :=
  let p := m.isPaced j
  let m := m.modJob j (fun x => { x with paced := p, edge := 0, t0 := if x.gvt.delta = 0 then x.gvt.time else x.gvt.time + 1 })
  let m := if p then { m with tgt := { m.tgt with vals := [], hold := false } } else m
  (m.modJob j (fun x => { x with stallFrom := m.wall })).setJobState j .run

/-- The end of a STOP: the final commit is swept and its traps are raised (R157), every token of the job is absorbed, a job in RUN or PAUSED enters HALTED, and the command or write that asked for it completes. A raised trap that faults the job ends the STOP with it (R163). -/
def stopDone (m : Mach) (j : JobId) : Mach :=
  let m := m.finishSweeps j
  if (m.job j).state = .faulted then m else
  let jb := m.job j
  let m := m.absorbJob j
  let m := m.modJob j (fun x => { x with
    pause := none, wavePause := none, stalled := false, pauseRb := false, clamp := none, stopWait := [], stopObj := false })
  let m := if jb.state = .run ∨ jb.state = .paused then (m.setJobState j .halted).closeStreams j else m
  jb.stopWait.foldl (fun m k => m.completeCmd k.toNat 0 0) m

/-- A job enters PAUSED, its pause tag and clamp standing until it is resumed (R199); a STOP that waits on the pause proceeds. -/
def enterPaused (m : Mach) (j : JobId) : Mach :=
  let jb := m.job j
  let m := m.modJob j (fun x => { x with stalled := false, pauseRb := false })
  let m := (m.setJobState j .paused).closeStreams j
  if !jb.stopWait.isEmpty || jb.stopObj then m.stopDone j else m

end Mach

end Sys2Proof.Machine
end

