-- ==== Sys2Proof/Machine/Horizon.lean ====
section
/-! DEFINITION. The Horizon Network: terms, snapshots, deliveries, commit, quiescence, pause, the governor, the stall watchdog and orphaned groups (R72, R73, R179 to R200, R445, R458). -/

namespace Sys2Proof.Machine

namespace Mach

/-! Terms (Table 9-1) -/

/-- The items of one PE: groups not FIRED, firings in Fire or Emit, and rollbacks in progress. -/
def peTags (m : Mach) (p : PeId) (j : JobId) : List Tag :=
  let x := m.pe p
  ((heads x.iris).filter (fun e => e.2.job == j && e.2.gstate != .fired)).map (fun e => m.tagOf j e.2.key)
    ++ (x.ctxs.filter (fun c => c.2.job == j)).map (fun c => c.2.tag)
    ++ (x.emitQ.filter (fun e => e.job == j)).map (fun e => e.tag)
    ++ x.sweeps.filterMap (fun s => match s with
      | .rollback g => if g.job = j then some (m.tagOf j g.key) else none
      | _ => none)

/-- Terms of a tile reported at their own tags: tokens in transit, and messages to the collector that WR_ACK has not answered. -/
def tileTags (m : Mach) (j : JobId) : List Tag :=
  m.tiles.flatMap (fun e => (e.2.transit.filter (fun l => l.2.job == j)).map (fun l => l.2.tag))
    ++ m.pmsgs.filterMap (fun x => match x.msg with
      | .item _ i => if i.job = j then some i.ctag else none
      | .cancel _ k _ t _ => if k = j then some t else none)

/-- Terms of the hub: tokens it holds, those that wait for a hub slot, and the ceiling of a paced job. While a token of an edge waits, its tag (K_(n-1), 0) keeps the least of these where the ceiling was before the edge (R202). The ceiling is found from TGT_PERIOD as it stands: a write of it while the job is PAUSED moves a ceiling already counted at once, where R201 does not say whether it does (the model's choice, log entry 34). -/
def hubTags (m : Mach) (j : JobId) : List Tag :=
  let jb := m.job j
  (m.hubTerms.filter (fun l => l.2.job == j)).map (fun l => l.2.tag)
    ++ (m.hubWait.filter (fun x => x.2.1.job == j)).map (fun x => x.2.2)
    ++ (if jb.paced then [⟨BitVec.ofNat 64 (jb.t0.toNat + jb.edge * m.jobObj j 0x44 1000), 0⟩] else [])

/-- Every rollback request of a job that has not started, and the least one a tile has written to ring 1 since its OVF was last 0, with the lookahead of its PE (R184, R293). -/
def rbTags (m : Mach) (j : JobId) : List (Tag × Nat) :=
  m.tiles.flatMap (fun e => ((e.2.rbq ++ e.2.rbOut).filter (fun q => q.job == j)).map
      (fun q => (m.tagOf j q.key, m.lookahead j (nodePe q.node)))
    ++ ((SMap.get? e.2.rbOvfMin j.toNat).map (fun q => (q.1, m.lookahead j q.2))).toList)

/-- The GVT and SH values of every term of a job (R184). -/
def horizonTerms (m : Mach) (j : JobId) : List Tag × List Tag :=
  let pes := (m.jobPes j).flatMap (fun p => (m.peTags p j).map (fun t => (t, m.lookahead j p)))
  let held := pes ++ m.rbTags j
  let regs := (m.clusters.map (fun c => SMap.getD c.2.hreg j.toNat {})) ++ (m.tiles.map (fun t => SMap.getD t.2.hreg j.toNat {}))
  let plain := m.tileTags j ++ m.hubTags j
  (held.map (·.1) ++ regs.filterMap (·.least) ++ plain,
   held.map (fun x => plusLa x.1 x.2) ++ regs.filterMap (·.leastL) ++ plain)

/-! What a pause waits for (R198, R458) -/

/-- Heads of the uncommitted speculative firings of a job, with their tiles. -/
def specFirings (m : Mach) (j : JobId) : List (Nat × JEntry) :=
  let g := (m.job j).gvt
  m.tiles.flatMap (fun t => (t.2.journal.filter (fun e =>
    e.2.job == j && !e.2.tail && !e.2.fossil && !((m.tagOf j e.2.key).lt g))).map (fun e => (t.1, e.2)))

/-- Whether an anti-token of a job is live: in transit, held by the hub, stored in a group, or still to be formed. -/
def antiLive (m : Mach) (j : JobId) : Bool :=
  let anti := fun (l : SMap Entry) => l.any (fun e => e.2.job == j && e.2.kind == 1)
  m.tiles.any (fun t => t.2.transit.any (fun l => l.2.job == j && l.2.anti) || anti t.2.deep || anti (deepQEnts t.2))
    || m.hubTerms.any (fun l => l.2.job == j && l.2.anti)
    || m.hubWait.any (fun x => x.2.1.job == j && x.2.1.kind == 1)
    || m.clusters.any (fun c => anti c.2.mob)
    || m.pes.any (fun p => anti p.2.iris || p.2.emitQ.any (fun e => e.job == j && (match e.kind with
      | .antis _ => true
      | _ => false)))

/-- Whether a firing of a job is in Fire or Emit. -/
def firingLive (m : Mach) (j : JobId) : Bool :=
  m.pes.any (fun p => p.2.ctxs.any (fun c => c.2.job == j) || p.2.emitQ.any (fun e => e.job == j))

/-- Sample the terms of one job at c0. -/
def sampleJob (m : Mach) (j : JobId) : Mach :=
  if !m.live j then m.modJob j (fun x => { x with sampled := false })
  else
    let (g, s) := m.horizonTerms j
    let clear := m.specFirings j == [] && !m.antiLive j
    let idle := !m.firingLive j
    m.modJob j (fun x => { x with
      sampG := minTag g, sampS := minTag s, sampled := true, sampClear := clear, sampIdle := idle, sampRb := x.pauseRb })

/-- HORIZON_SNAPSHOT: cycle c0. Every unit samples its terms; the injection windows of the stops begin anew, and the governor period counts down (R187, R224, R232). -/
def snapshot (m : Mach) : Mach :=
  if !m.serving then m
  else
    let m := allJobs.foldl sampleJob m
    let net := { m.net with stops := m.net.stops.map (fun (k, x) => (k, { x with used := [] })),
                            shares := (allJobs.map (fun j => (j.toNat, m.jobObj j 0x50 0))) }
    let m := { m with net := net, govLeft := m.govLeft - 1 }
    if m.wave.active && m.wave.own == [] then
      { m with wave := { m.wave with snap := true },
               ports := m.ports.map (fun (k, x) => (k, { x with hzSnap := x.rxSeq - 1 })),
               lost := m.lost.map (fun (x : Lost) => { x with hzSnap := x.rxLast }) }
    else m

/-! Delivery (R188, R194, R195, R197, R198, R458) -/

/-- Add a commit sweep of a job to every PE that holds its nodes; an earlier one still waiting is covered by it. -/
def pushSweeps (m : Mach) (j : JobId) (g : Tag) : Mach :=
  (m.jobPes j).foldl (fun m p => m.modPe p (fun x => { x with sweeps := (x.sweeps.filter (fun s => match s with
    | .commit k _ => k != j
    | _ => true)) ++ [.commit j g] })) m

/-- Release the READ_NODE copies below a GVT to the hosts that asked for them in tag order (R79, R194). -/
def releaseReads (m : Mach) (j : JobId) (g : Tag) : Mach :=
  let jb := m.job j
  let out := sortBy (fun (x y : ReadCopy) => x.tag.lt y.tag) (jb.reads.filter (fun r => r.tag.lt g))
  let m := m.modJob j (fun x => { x with reads := x.reads.filter (fun r => !(r.tag.lt g)) })
  out.foldl (fun m r =>
    match (m.job j).readReqs.find? (fun q => q.node == r.node && q.tag == r.tag) with
    | some q =>
      (m.modJob j (fun x => { x with readReqs := removeFirst (fun y => y.node == r.node && y.tag == r.tag) x.readReqs })).hostWrites
        (some j) q.fn q.addr r.data
    | none => m) m

/-- TGT_LAG: ceilings before the current one that GVT has not reached (R204). -/
def tgtLag (m : Mach) (j : JobId) : Nat :=
  let jb := m.job j
  ((List.range jb.edge).filter (fun k =>
    jb.gvt.lt ⟨BitVec.ofNat 64 (jb.t0.toNat + k * m.jobObj j 0x44 1000), 0⟩)).length

/-- Commit: what follows a rise of GVT (R194). -/
def commit (m : Mach) (j : JobId) (g : Tag) : Mach :=
  let m := m.modJob j (fun x => { x with gvt := g, gvtWall := m.wall, stallFrom := m.wall, stallRaised := false })
  let m := ((m.pushSweeps j g).releaseReads j g).probeRelease j g
  if (m.job j).paced && m.tgt.hold && m.tgtLag j = 0 then { m with tgt := { m.tgt with hold := false } } else m

/-- Groups of a job that deep match holds ready, and that a risen Safe Horizon makes safe, are presented (R57, R61). -/
def presentDeep (m : Mach) (j : JobId) : Mach :=
  (m.jobPes j).foldl (fun m p =>
    ((heads (m.level p .deep)).filter (fun e =>
      e.2.job == j && e.2.gstate == .waiting && e.2.locPe == (p.truncate 7 : BitVec 7))).foldl (fun m e => m.evalReady p e.2.ref) m) m

/-- The latest tag of any firing of a job: of its nodes on this module, and for a spanning job of those on its other modules, which no message brings here and is a free value (log entry 83). -/
def lastFiring (m : Mach) (j : JobId) : Option Tag :=
  let tags := (m.jobPes j).flatMap (fun p => (List.range (m.ncount j p)).map (fun n => m.nLast ⟨j, p, BitVec.ofNat 17 n⟩))
  let far : List Tag := if m.spanning j then [⟨(Config.farFiring m.free).1, (Config.farFiring m.free).2⟩] else []
  leastBy (fun x y => y.lt x) ((tags ++ far).filter (· != noTag))

/-- A job reaches the end of time (R47). -/
def timeExhausted (m : Mach) (j : JobId) : Mach :=
  let m := m.modJob j (fun x => { x with pause := none, wavePause := none, stalled := false, pauseRb := false })
  let m := (m.setJobState j .timeExhausted).closeStreams j
  if !(m.job j).stopWait.isEmpty || (m.job j).stopObj then m.stopDone j else m

/-- Quiescence: a final commit above every tag of the job, which enters HALTED, or PAUSED where a pause is pending (R195). SH takes the tag of the final commit from above as from below, as R195 sets the registers to it; GVT does not fall (log entry 83). -/
def quiesce (m : Mach) (j : JobId) : Mach :=
  let last := m.lastFiring j
  let m := if m.spanning j then { m with free := m.free + 1 } else m
  let m := match last with
    | none => m
    | some l =>
      let f := (plusLa l 0).max (m.job j).gvt
      (m.modJob j (fun x => { x with sh := f })).commit j f
  let jb := m.job j
  if jb.gvt.time = BitVec.allOnes 64 then m.timeExhausted j
  else if jb.pause.isSome then m.enterPaused j
  else (m.setJobState j .halted).closeStreams j

/-- Request the rollbacks of a pause: each node that holds an uncommitted speculative firing at or above a tag, to its earliest such firing, unless one is already asked for (R198, R458). -/
def pauseRollbacks (m : Mach) (j : JobId) (from_ : Option Tag) : Mach :=
  let l := (m.specFirings j).filter (fun e => match from_ with
    | some p => !((m.tagOf j e.2.key).lt p)
    | none => true)
  let nodes := (l.map (fun e => (e.1, e.2.node))).eraseDups
  nodes.foldl (fun m (t, n) =>
    let r : NRef := ⟨j, BitVec.ofNat 6 t ++ (n.extractLsb' 17 7 : BitVec 7), n.truncate 17⟩
    match leastBy (fun x y => (m.tagOf j x).lt (m.tagOf j y)) ((l.filter (fun e => e.1 = t && e.2.node == n)).map (fun e => e.2.key)) with
    | some k => if m.rbHolds r then m else m.requestRb r k false .other
    | none => m) m

/-- Carry a pending pause forward at a delivery: its rollbacks begin when GVT reaches P, or at once for a stalled pause, whether its P is delivered or still held at the hub, and the job enters PAUSED when a reduction after that finds nothing left to undo. -/
def pauseStep (m : Mach) (j : JobId) : Mach :=
  let jb := m.job j
  match jb.state, jb.clamp.or (if jb.stalled then jb.pause else none) with
  | .run, some p =>
    let reached := !(jb.gvt.lt p)
    if !reached && !jb.stalled then m
    else
      let ready := jb.sampRb && jb.pauseRb && jb.sampClear && (reached || jb.sampIdle)
      if ready then m.enterPaused j
      else
        let m := if jb.pauseRb then m else m.requestPost (8 + j.toNat)
        (m.pauseRollbacks j (if reached then some p else none)).modJob j (fun x => { x with pauseRb := true })
  | _, _ => m

/-- The pause tag a delivery of a job may carry: that of a spanning job only once a wave result has brought it (R197). -/
def pauseNow (m : Mach) (j : JobId) : Option Tag := if m.spanning j then (m.job j).wavePause else (m.job j).pause

/-- Deliver reduced values of a job to its PEs (R188, R197); groups of deep match that the new SH makes safe are presented (R61). -/
def deliver (m : Mach) (j : JobId) (g s : Option Tag) : Mach :=
  let jb := m.job j
  let pause := m.pauseNow j
  match g with
  | none =>
    let spec := match pause with
      | some p => (m.specFirings j).any (fun e => !((m.tagOf j e.2.key).lt p))
      | none => false
    if jb.state != .run then m
    else if spec then
      let p := pause.getD jb.gvt
      let m := m.modJob j (fun x => { x with clamp := some p, sh := if x.sh.lt p then p else x.sh })
      let m := if jb.gvt.lt p then m.commit j p else m
      ((m.countJ 0x4800 j 0x07).presentDeep j).pauseStep j
    else (m.quiesce j).countJ 0x4800 j 0x07
  | some g =>
    let clamp := match pause with
      | some p => if p.time.toNat ≤ g.time.toNat + 2 ^ 46 then some p else none
      | none => none
    let spec := match clamp with
      | some p => (m.specFirings j).any (fun e => !((m.tagOf j e.2.key).lt p))
      | none => false
    let g := match clamp with
      | some p => if p.lt g && spec then p else g
      | none => g
    let s := s.getD g
    let s := match clamp with
      | some p => s.min p
      | none => s
    let m := m.modJob j (fun x => { x with clamp := clamp, sh := if x.sh.lt s then s else x.sh })
    let m := if jb.gvt.lt g then m.commit j g else m
    let m := m.countJ 0x4800 j 0x07
    if (m.job j).gvt.time = BitVec.allOnes 64 && jb.state == .run then m.timeExhausted j
    else (m.presentDeep j).pauseStep j

/-- A void reduction is discarded and logged; the 256th in a row of one die removes the die, of the hub puts the module in FAULT (R445). -/
def voidReduction (m : Mach) (k : Nat) : Mach :=
  let n := SMap.getD m.voidRun k 0 + 1
  let m := { m with voidRun := [(k, n)], jobs := m.jobs.map (fun (e : Nat × Job) => (e.1, { e.2 with sampled := false })),
                    wave := { m.wave with snap := false } }
  let m := m.logErr 0 0x14 0 none k (BitVec.ofNat 64 n)
  if n < 256 then m
  else if k = 4 then m.enterFault false 0x14 4 (BitVec.ofNat 64 n)
  else ({ m with voidRun := [] }).removeDie (BitVec.ofNat 2 k) n

/-- HORIZON_DELIVERY: the reduction of the last snapshot is delivered, kept for the system wave where a job spans modules, or found void (R188, R190, R445). -/
def horizonDelivery (m : Mach) (void : Option (BitVec 3)) : Mach :=
  if !m.jobs.any (fun e => e.2.sampled) && void.isNone then
    (if m.wave.snap then { m with wave := { m.wave with snap := false, own := [(8, (none, none))] } } else m)
  else
    match void with
    | some v =>
      let k := Nat.min v.toNat 4
      if !m.serving || (k < 4 && m.dieOut.getLsbD k) then m else m.voidReduction k
    | none =>
      let m := { m with voidRun := [] }
      let own := allJobs.filterMap (fun j =>
        let x := m.job j
        if m.wave.snap && m.wave.mask.getLsbD j.toNat then some (j.toNat, (if x.sampled && m.spanning j then (x.sampG, x.sampS) else (none, none)))
        else none)
      let m := if m.wave.snap then { m with wave := { m.wave with snap := false, own := own ++ [(8, (none, none))] } } else m
      allJobs.foldl (fun m j =>
        let x := m.job j
        if !x.sampled then m
        else
          let m := m.modJob j (fun x => { x with sampled := false })
          if m.spanning j then m else m.deliver j x.sampG x.sampS) m

/-! The Optimism Governor (R179 to R181) -/

/-- The new window and streak of a job in a tile, by the measurements of the period, or of the part of it since the job's load. -/
def govern (m : Mach) (x : Tile) (j : JobId) (w : Nat) : Nat × Nat × Int :=
  let occHigh := m.objD 0x2400 0x02 448
  let occLow := m.objD 0x2400 0x03 256
  let rrHigh := m.objD 0x2400 0x04 250
  let rrLow := m.objD 0x2400 0x05 50
  let spec := SMap.getD x.pSpec j.toNat 0
  let rb := SMap.getD x.pRb j.toNat 0
  let rr := 1000 * rb / Nat.max spec 1
  let st := SMap.getD x.streak j.toNat 0
  let peak := SMap.getD x.loadPeak j.toNat x.peak
  if occHigh ≤ peak ∨ rrHigh ≤ rr then
    let w' := Nat.max (m.windowMin j) (w / 2)
    (w', 0, if w' < w then -1 else 0)
  else if peak ≤ occLow ∧ rr ≤ rrLow then
    if st + 1 = 2 then
      let w' := Nat.min (m.window j) (2 * w)
      (w', 0, if w < w' then 1 else 0)
    else (w, st + 1, 0)
  else (w, 0, 0)

/-- Set W of a job in a tile, within WINDOW_MIN and WINDOW (R181). -/
def setW (m : Mach) (t : TileId) (j : JobId) (w : Nat) : Mach :=
  let w := Nat.min (m.window j) (Nat.max (m.windowMin j) w)
  m.modTile t (fun x => { x with win := SMap.set x.win j.toNat (BitVec.ofNat 64 w) })

/-- The governor of one tile for one active job at the end of a period; without the speculation feature every job is as with GOV_MODE 2 (R180). -/
def governJob (m : Mach) (t : TileId) (j : JobId) : Mach :=
  let w := m.wApplied t j
  match if m.feature 1 then (m.job j).govMode else 2 with
  | 0 =>
    let (w', st, d) := m.govern (m.tile t) j w
    let m := (m.setW t j w').modTile t (fun x => { x with streak := SMap.set x.streak j.toNat st })
    if d < 0 then m.countJ 0x4600 j 0x08 else if 0 < d then m.countJ 0x4600 j 0x09 else m
  | 1 => m.setW t j (m.window j)
  | _ => m.setW t j w

/-- A period of the governor begins: its measurements start from the entries now in use. -/
def govRestart (m : Mach) : Mach :=
  { m with govLeft := m.objD 0x2400 0x01 16,
           tiles := m.tiles.map (fun (k, x) => (k, { x with peak := x.journal.length, loadPeak := [], pSpec := [], pRb := [] })) }

/-- GOVERNOR_PERIOD: at the end of a period GOV_MODE is taken over, every tile governs its active jobs, and the next period begins. -/
def governorPeriod (m : Mach) : Mach :=
  if !m.serving || m.govLeft != 0 then m
  else
    let m := allJobs.foldl (fun m j => m.modJob j (fun x => { x with govMode := m.jobObj j 0x33 0 })) m
    let m := ((List.range 64).map (BitVec.ofNat 6)).foldl (fun m (t : TileId) =>
      let m := m.setObj 0x4701 (1 + t.toNat) (m.tile t).peak
      (allJobs.filter (fun j => m.active j t)).foldl (fun m j => m.governJob t j) m) m
    m.govRestart

/-! The stall watchdog and orphaned groups (R72, R73) -/

/-- Whether a group is orphaned: all-of, incomplete, at GVT, and safe. -/
def orphaned (m : Mach) (e : Entry) : Bool :=
  let jb := m.job e.job
  let t := m.tagOf e.job e.key
  e.kind != 2 && e.gstate == .waiting && e.mode == 0 && (e.arrived &&& e.rmask) != e.rmask && t == jb.gvt && t.lt jb.sh

/-- Groups of a job of a PE at a level that are not FIRED. -/
def liveHeads (m : Mach) (p : PeId) (pl : Place) (j : JobId) : List Entry :=
  ((heads (m.level p pl)).filter (fun e => e.2.job == j && e.2.gstate != .fired && e.2.locPe == (p.truncate 7 : BitVec 7))).map (·.2)

/-- A holder record (Table 3-7). -/
def holder (place arrived rmask mode : Nat) (orph : Bool) (node : NodeId) (t : Tag) (tile : Nat) : List Word :=
  [at64 arrived 56 ||| at64 rmask 48 ||| at64 mode 44 ||| at64 (b2n orph) 43 ||| at64 place 40 ||| node.zeroExtend 64,
   t.time, t.delta.zeroExtend 64, at64 tile 0]

/-- The holders of the GVT tag of a job: by place, and within a place by node. -/
def holders (m : Mach) (j : JobId) : List (List Word) :=
  let g := (m.job j).gvt
  let byNode := fun (l : List (NodeId × List Word)) => (sortBy (fun x y => decide (x.1.toNat < y.1.toNat)) l).map (·.2)
  let grp := fun (n : Nat) (pl : Place) => byNode ((m.jobPes j).flatMap (fun p =>
    ((m.liveHeads p pl j).filter (fun e => m.tagOf j e.key == g)).map (fun e =>
      let node := mkNode m.number p e.node
      (node, holder n e.arrived.toNat (m.nRmask ⟨j, p, e.node⟩).toNat (m.nMode ⟨j, p, e.node⟩).toNat (m.orphaned e) node g 0))))
  let transit := m.tiles.flatMap (fun t => (t.2.transit.filter (fun l => l.2.job == j && l.2.tag == g)).map
    (fun _ => holder 3 0 0 0 false 0 g t.1))
  let firing := byNode ((m.jobPes j).flatMap (fun p =>
    let x := m.pe p
    let ns := (x.ctxs.filter (fun c => c.2.job == j && c.2.tag == g)).map (fun c => c.2.node)
      ++ (x.emitQ.filter (fun e => e.job == j && e.tag == g && !(match e.kind with
        | .antis _ => true
        | _ => false))).map (fun e => e.node)
    ns.map (fun n =>
      let node := mkNode m.number p n
      (node, holder 4 0 (m.nRmask ⟨j, p, n⟩).toNat (m.nMode ⟨j, p, n⟩).toNat false node g 0))))
  let rb := byNode (m.tiles.flatMap (fun t => ((t.2.rbq ++ t.2.rbOut).filter (fun q => q.job == j && m.tagOf j q.key == g)).map
    (fun q => (q.node, holder 5 0 0 0 false q.node g 0))))
  let hub := byNode ((m.hubTerms.filter (fun l => l.2.job == j && l.2.tag == g)).map
    (fun l => (l.2.node, holder 6 0 0 0 false l.2.node g 0)))
  (grp 0 .iris ++ grp 1 .mob ++ grp 2 .deep ++ transit ++ firing ++ rb ++ hub).take 16

/-- STALL_EVENT: GVT of a job in RUN has not advanced for STALL_LIMIT_US; the holders are reported and STALL_ACTION is applied, once per value of GVT. -/
def stallEvent (m : Mach) (j : JobId) : Mach :=
  let jb := m.job j
  if jb.state != .run || jb.stallRaised || decide (m.wall < jb.stallFrom + m.jobObj j 0x20 100000 * 1000) then m
  else
    let rep := (m.holders j).flatMap wordsBytes
    let m := (m.modJob j (fun x => { x with stallRaised := true, stallReport := rep })).countJ 0x4300 j 0x09
    let m := (m.requestPost (16 + j.toNat)).setEvt (m.jobFn j) (at64 (2 ^ j.toNat) 8)
    match m.jobObj j 0x21 1 with
    | 0 => m
    | 1 => m.pauseStalled j
    | _ => m.faultJob j 0x0208 0x02 0 (BitVec.ofNat 64 (bytesNat (rep.take 8))) jb.gvt.time (jb.gvt.delta.zeroExtend 64)

/-- ORPHAN_DISCARD: every orphaned group of a PAUSED job is freed, counted and logged (R73). -/
def orphanDiscard (m : Mach) (j : JobId) (v : Nat) : Err × Mach :=
  if (m.job j).state != .paused then (.state, m)
  else if v ≠ 1 then (.badValue, m)
  else
    (.ok, (m.jobPes j).foldl (fun m p =>
      [Place.iris, .mob, .deep].foldl (fun m pl =>
        ((m.liveHeads p pl j).filter m.orphaned).foldl (fun m e =>
          ((m.freeGroup p pl e.ref).countJ 0x4300 j 0x0A).logErr 0 0x02 0 (some j) p.toNat
            ((mkNode m.number p e.node).zeroExtend 64) (m.tagOf j e.key).time ((m.tagOf j e.key).delta.zeroExtend 64)) m) m) m)

/-! Pause and resume as objects (R196, R199) -/

/-- PAUSE_TIME := T; 0 asks for the earliest pause. The value written is kept for reading back. -/
def pauseTime (m : Mach) (j : JobId) (t : BitVec 64) : Err × Mach :=
  match m.pauseAt j (if t = 0 then none else some ⟨t, 0⟩) with
  | (.ok, m') => (.ok, m'.setObj (0x3000 + 0x100 * j.toNat) 0x41 t.toNat)
  | r => r

/-- A pending pause of a spanning job is cancelled: it is taken back from the root's next wave and from the sets still repeated toward the root, and a result that still carries it is not followed here. How other modules learn of it the spec leaves open (the model's choice, log entry 84). -/
def cancelPause (m : Mach) (j : JobId) : Mach :=
  if !m.spanning j then m
  else
    let w := m.wave
    ({ m with wave := { w with pauses := SMap.erase w.pauses j.toNat, out := w.out.filter (fun o => !(o.kind.toNat == 3 && o.job == j)) } }).modJob j
      (fun x => { x with dropPause := x.pause.or x.dropPause })

/-- RESUME := 1: PAUSED returns to RUN, or a pending pause is cancelled unless a STOP waits on it (R199). -/
def resume (m : Mach) (j : JobId) (v : Nat) : Err × Mach :=
  let jb := m.job j
  let clear := fun (m : Mach) => (m.cancelPause j).modJob j (fun x => { x with pause := none, wavePause := none, stalled := false, pauseRb := false })
  if jb.state == .paused then
    if v ≠ 1 then (.badValue, m) else (.ok, (clear m).enterRun j)
  else if jb.state == .run && jb.pause.isSome && !(!jb.stopWait.isEmpty || jb.stopObj) then
    if v ≠ 1 then (.badValue, m) else (.ok, clear m)
  else (.state, m)

end Mach

/-- HORIZON_SNAPSHOT (R187). -/
def execHorizonSnapshot (s : State) : Res := s.on Mach.snapshot
/-- GOVERNOR_PERIOD (R179). -/
def execGovernorPeriod (s : State) : Res := s.on Mach.governorPeriod
/-- STALL_EVENT of a job (R72). -/
def execStallEvent (j : JobId) (s : State) : Res := s.on (fun m => m.stallEvent j)

end Sys2Proof.Machine
end

