-- ==== Sys2Proof/Machine/Paced.lean ====
section
/-! DEFINITION. Paced mode and time alignment: edges of TGT_CLK, SYNC_IN and SYNC_OUT, and corrections of WALLTIME (R201 to R209). -/

namespace Sys2Proof.Machine

namespace Mach

/-! WALLTIME (R207, R208) -/

/-- Correct WALLTIME toward a value: a later one is a step, an earlier one is absorbed by running slower, so that WALLTIME never decreases. -/
def correctWall (m : Mach) (v : Nat) : Mach :=
  if !m.wallRun then m
  else if m.wall ≤ v then { m with wall := v, wallAhead := 0 }
  else { m with wallAhead := m.wall - v }

/-- SYNC_IN_EDGE: source 166 rises; in mode 2 WALLTIME is corrected toward SYNC_IN_VALUE and the horizon period starts anew. -/
def syncInEdge (m : Mach) : Mach :=
  let m := m.raiseSource 166
  if m.wallRun && m.objD 0x2500 0x03 1 == 2 then
    ((m.correctWall (m.objD 0x2500 0x04 0)).count 0x4810 0x05).govRestart
  else m

/-- SYNC_OUT_PULSE: WALLTIME has crossed a multiple of SYNC_OUT_PERIOD_NS, and SYNC_OUT is driven to 1 for 64 hub cycles, unless PGOOD is low (R209, R427). -/
def syncOutPulse (m : Mach) : Mach :=
  let p := m.objD 0x2500 0x05 0
  if !m.pw.pgood ∨ p = 0 ∨ m.wall / p = m.pw.syncWall / p then m
  else { m with pw := { m.pw with syncOut := 64, syncWall := m.wall } }

/-! The Target Port (R201 to R205) -/

/-- The ceiling (K_n, 0) of a paced job; a K_n at or above 2^64 wraps modulo 2^64, which the spec leaves open (the model's choice, log entry 34). -/
def ceiling (m : Mach) (j : JobId) (n : Nat) : Tag :=
  ⟨BitVec.ofNat 64 ((m.job j).t0.toNat + n * m.jobObj j 0x44 1000), 0⟩

/-- Fields of an entry of TGT_IN_MAP or TGT_OUT_MAP. -/
def mapEntry (m : Mach) (idx i : Nat) : Word := BitVec.ofNat 64 (m.objD idx (1 + i) 0)

/-- Plane A and not plane B of the latest settled value of the node and port of an output whose tag is below a ceiling; none where the port holds no such value. The module bits of the entry are not looked at, nor whether the node is one of the job: its PE and local node name the settled record that is read (the model's choice, log entry 34). -/
def outValue (m : Mach) (j : JobId) (i n : Nat) : Option Word :=
  let w := m.mapEntry 0x2511 i
  let below := (SMap.getD m.tgt.vals i []).filter (fun e => e.1 < n)
  match below.getLast? with
  | some (_, _, a, b) => some (a &&& ~~~b)
  | none =>
    if SMap.getD m.tgt.vals i [] != [] then none
    else
      let node : NodeId := w.truncate 40
      let (a, b, t) := m.settled ⟨j, nodePe node, nodeLocal node⟩ (bits w 42 40)
      if t.ltRec (m.ceiling j (n - 1)) then some (a &&& ~~~b) else none

/-- The node an output of TGT_OUT_MAP names. -/
def outNode (m : Mach) (j : JobId) (i : Nat) : NRef :=
  let node : NodeId := (m.mapEntry 0x2511 i).truncate 40
  ⟨j, nodePe node, nodeLocal node⟩

/-- Drive output i for edge n. Its settled record is read from HBM: the read waits while its unit is copied, and the output is driven when the copy has ended (R252); lost data faults the job, and the output keeps its value (R242). -/
def driveOutput (m : Mach) (j : JobId) (i n : Nat) : Mach :=
  let w := m.mapEntry 0x2511 i
  let r := m.outNode j i
  if m.copyWait (m.stAddr r + 128) 256 then { m with tgt := { m.tgt with owed := SMap.set m.tgt.owed i n } }
  else
    let m := { m with tgt := { m.tgt with owed := SMap.erase m.tgt.owed i } }
    match m.settledFetch r with
    | (true, m) => m
    | (false, m) =>
      match m.outValue j i n with
      | some v =>
        let bit := 1#16 <<< i
        { m with tgt := { m.tgt with out := if v.getLsbD (bits w 48 43) then m.tgt.out ||| bit else m.tgt.out &&& ~~~bit } }
      | none => m

/-- The outputs at an on-time edge n (R203, R205). -/
def driveOutputs (m : Mach) (j : JobId) (n : Nat) : Mach :=
  let hold := m.objD 0x2500 0x08 0 == 1
  (List.range 16).foldl (fun m i =>
    if !(m.mapEntry 0x2511 i).getLsbD 63 || (i == 15 && hold) || (m.job j).state != .run then m else m.driveOutput j i n) m

/-- In a hub cycle, outputs whose settled record is no longer being copied are driven for their edge. -/
def tickOutputs (m : Mach) : Mach :=
  let j : JobId := BitVec.ofNat 3 (m.objD 0x2500 0x06 0xFF)
  m.tgt.owed.foldl (fun m e => if m.copyWait (m.stAddr (m.outNode j e.1) + 128) 256 then m else m.driveOutput j e.1 e.2) m

/-- The tokens of an edge: one for each mapped node and port with a changed input, at edge 1 one for each (R202). -/
def edgeTokens (m : Mach) (ins : BitVec 16) (n : Nat) : List (NodeId × BitVec 3 × Word) :=
  let ents := (List.range 16).filterMap (fun i =>
    let w := m.mapEntry 0x2510 i
    if w.getLsbD 63 then some (i, (w.truncate 40 : NodeId), (w.extractLsb' 40 3 : BitVec 3), bits w 48 43) else none)
  let keys := (ents.map (fun e => (e.2.1, e.2.2.1))).eraseDups
  keys.filterMap (fun (node, port) =>
    let mine := ents.filter (fun e => e.2.1 == node && e.2.2.1 == port)
    let changed := n == 1 || mine.any (fun e => ins.getLsbD e.1 != m.tgt.ins.getLsbD e.1)
    if changed then
      some (node, port, mine.foldl (fun v e => if ins.getLsbD e.1 then v ||| (1#64 <<< e.2.2.2) else v) 0)
    else none)

/-- TARGET_EDGE: edge n is taken, on time or late: outputs, lateness, injection of the inputs at K_(n-1), and the ceiling K_n. TGT_HOLD is raised at a late edge alone: where TGT_HOLD_EN is written 1 after one, with GVT still behind, it stays 0 until the next late edge (the model's choice, log entry 34). -/
def takeEdge (m : Mach) (j : JobId) (ins : BitVec 16) : Mach :=
  let jb := m.job j
  let n := jb.edge + 1
  if 16 ≤ (m.modJob j (fun x => { x with edge := n })).tgtLag j then
    (m.pauseInside j none 0x10).logErr 0 0x10 0 (some j) 0 (BitVec.ofNat 64 n) (m.ceiling j (n - 1)).time
  else
    let k := m.ceiling j (n - 1)
    let late := jb.gvt.lt k
    let m := { m with tgt := { m.tgt with owed := [] } }
    let m := if late then
        let m := (m.countJ 0x4800 j 0x09).raiseSource 165
        { m with tgt := { m.tgt with late := true, hold := m.tgt.hold || m.objD 0x2500 0x08 0 == 1 } }
      else
        let m := m.driveOutputs j n
        { m with tgt := { m.tgt with late := false } }
    if (m.job j).state != .run then m else
    let toks := m.edgeTokens ins n
    let m := toks.foldl (fun m (node, port, v) =>
      m.hubInject 0x8300 (Token.mk' 0 j false 0 port node k.short k.delta v 0) k) m
    let m := { m with tgt := { m.tgt with ins := ins } }
    m.modJob j (fun x => { x with edge := n })

/-- TARGET_EDGE: a transition of TGT_CLK; the one selected is counted while the job is in RUN or PAUSED, and taken while it is in RUN. -/
def targetEdge (m : Mach) (rising : Bool) (ins : BitVec 16) : Mach :=
  let owner := m.objD 0x2500 0x06 0xFF
  if 8 ≤ owner || (m.objD 0x2500 0x07 1 == 1) != rising then m
  else
    let j := BitVec.ofNat 3 owner
    let jb := m.job j
    if !jb.paced then m
    else
      match jb.state with
      | .run => (m.countJ 0x4800 j 0x08).takeEdge j ins
      | .paused => m.countJ 0x4800 j 0x08
      | _ => m

end Mach

/-- TARGET_EDGE (R202, R203). -/
def execTargetEdge (rising : Bool) (ins : BitVec 16) (s : State) : Res := s.on (fun m => m.targetEdge rising ins)
/-- SYNC_IN_EDGE (R208). -/
def execSyncInEdge (s : State) : Res := s.on Mach.syncInEdge
/-- SYNC_OUT_PULSE (R209). -/
def execSyncOutPulse (s : State) : Res := s.on Mach.syncOutPulse

end Sys2Proof.Machine
end

