-- ==== Sys2Proof/Machine/Fabric.lean ====
section
/-! DEFINITION. Fabric Links: port states, identity, frames, replay, credits, pauses, calibration, heartbeats, the system map and its routes, and leaving (R353 to R371, R374 to R376). -/

namespace Sys2Proof.Machine

/-- Whether SEQ a is at or before SEQ b (R357). -/
def seqLe (a b : BitVec 12) : Bool := decide ((b - a).toNat < 2048)

/-! Units -/

/-- A data frame (Table 17-2). -/
def frameUnits (x : LinkFrame) : List (BitVec 128) :=
  sealFirst ((at128 1 126 ||| at128 x.units.length 121 ||| at128 x.vc.toNat 119 ||| at128 x.seq.toNat 107) :: x.units)

/-- A data frame read from units: none where the CRC is bad or a field is malformed (R358). -/
def frameOf (l : List (BitVec 128)) : Option LinkFrame :=
  match l with
  | [] => none
  | u :: r =>
    let n := bits u 125 121
    if bits u 127 126 = 1 ∧ 1 ≤ n ∧ n ≤ 16 ∧ n = r.length ∧ bits u 106 32 = 0 ∧ sealFirst l = l then
      some { seq := u.extractLsb' 107 12, vc := u.extractLsb' 119 2, units := r }
    else none

/-- The packets of a frame's payload: each header's LEN counts its data units; a packet cut short stays as it is. -/
def framePackets : Nat → List (BitVec 128) → List Packet
  | 0, _ => []
  | _, [] => []
  | f + 1, u :: r =>
    let n := (Hdr.ofBits u).len.toNat
    ⟨u, r.take n⟩ :: framePackets f (r.drop n)

/-- DST_MODULE of a packet on a Fabric Link (R355). -/
def dstModule (p : Packet) : Byte := p.hdr.extractLsb' 38 8

/-- Whether a packet on a Fabric Link on a VC is malformed: a token names its module, a peer message has 1 to 8 data units, the error answer of one has none, and no other packet crosses. -/
def fabricBad (p : Packet) (vc : BitVec 2) : Bool :=
  let h := p.h
  let n := h.len.toNat
  h.vc != vc || p.data.length != n || decide (6 ≤ h.pair.toNat) ||
  (match h.cmd.toNat with
    | 0x01 => h.vc != 0 || n != 2 || (pktToken p).modNo != dstModule p
    | 0x03 | 0x05 => h.vc != 1 || n != 2 || (pktToken p).modNo != dstModule p
    | 0x30 => h.vc != 2 || n == 0 || decide (8 < n)
    | 0x31 => h.vc != 3 || decide (8 < n)
    | 0x23 => h.vc != 3 || n != 0
    | _ => true)

/-! The system map (R367) -/

/-- Partners of a module by its ports. -/
def mapPorts (mp : SMap MapEnt) (a : Nat) : List (Nat × Nat) :=
  (SMap.getD mp a {}).ports.map (fun e => (e.1, e.2.toNat))

/-- Hop counts from the modules of a frontier, without passing a module. -/
def mapBfs (mp : SMap MapEnt) (avoid : Nat) : Nat → List Nat → SMap Nat → Nat → SMap Nat
  | 0, _, d, _ => d
  | f + 1, fr, d, k =>
    let next := ((fr.flatMap (fun a => (mapPorts mp a).map (·.2))).eraseDups).filter (fun b => (SMap.get? d b).isNone && b != avoid)
    if next = [] then d
    else mapBfs mp avoid f next (next.foldl (fun d b => SMap.set d b (k + 1)) d) (k + 1)

/-- Hop counts from a module, without passing another. -/
def mapDist (mp : SMap MapEnt) (avoid a : Nat) : SMap Nat := mapBfs mp avoid 256 [a] [(a, 0)] 0

/-- Ports of a module with their partners and the partners' hop counts. -/
def mapWays (mp : SMap MapEnt) (own : Nat) : List (Nat × Nat × SMap Nat) :=
  (mapPorts mp own).map (fun (k, b) => (k, b, mapDist mp own b))

/-- The first port of a best path to a module over some ports: hop count, then lower neighbour, then lower port. -/
def bestPort (ws : List (Nat × Nat × SMap Nat)) (dst : Nat) : Option Nat :=
  let l := ws.filterMap (fun (k, b, d) => (SMap.get? d dst).map (fun n => (n, b, k)))
  (leastBy (fun (x y : Nat × Nat × Nat) =>
    decide (x.1 < y.1 ∨ (x.1 = y.1 ∧ (x.2.1 < y.2.1 ∨ (x.2.1 = y.2.1 ∧ x.2.2 < y.2.2))))) l).map (·.2.2)

/-- FL_RT of a module to a destination: the first port of a best path, and of the best that avoids its link. -/
def routeWord (ws : List (Nat × Nat × SMap Nat)) (dst : Nat) : Word :=
  match bestPort ws dst with
  | none => 0
  | some p =>
    let w := at64 1 7 ||| at64 p 4
    match bestPort (ws.filter (fun x => x.1 != p)) dst with
    | none => w
    | some q => w ||| at64 1 3 ||| at64 q 0

/-- HZ_ROOT_MODE of a module of the map: as its Identity Frame gave it; of a module that has sent this one none, a free value, for no message carries it (R193). -/
def MapEnt.rootMode (ver n : Nat) (e : MapEnt) : BitVec 2 :=
  if e.serial.isSome then e.hzMode else Config.farRootMode n ver

/-- The Horizon Root of a list of modules with their modes: the lowest module of mode 1, else of mode 0 (R193). -/
def electRoot (l : List (Nat × BitVec 2)) : Option Byte :=
  let of := fun (k : BitVec 2) => ((l.find? (fun e => e.2 == k)).map (fun e => BitVec.ofNat 8 e.1))
  match of 1 with
  | some r => some r
  | none => of 0

namespace Mach

def port (m : Mach) (f : BitVec 3) : FlPort := SMap.getD m.ports f.toNat {}
def modPort (m : Mach) (f : BitVec 3) (g : FlPort → FlPort) : Mach :=
  { m with ports := SMap.set m.ports f.toNat (g (m.port f)) }
/-- A counter of a port (Table 17-10). -/
def countPort (m : Mach) (f : BitVec 3) (sub : Nat) (n : Nat := 1) : Mach := m.count (0x6020 + f.toNat) sub n

/-- The partner a port has, and its SERIAL. -/
def partner (m : Mach) (f : BitVec 3) : Byte × Option (BitVec 128) := ((m.port f).peer, (m.port f).peerSerial)

/-- The words of a ring-2 record of a port, with the partner it speaks of (Table 17-9). -/
def portWords (m : Mach) (f : BitVec 3) (who : Byte × Option (BitVec 128)) (ev reason : Nat) (detail : Word) : List Word :=
  let serial : Word := match who.2 with
    | some s => s.truncate 64
    | none => 0
  [at64 ev 56 ||| at64 f.toNat 53 ||| at64 who.1.toNat 40 ||| at64 reason 32, serial, m.wallNow, detail]

/-- A ring-2 record of a port that speaks of a partner, with the edge of its interrupt source (R375, Table 17-9). -/
def partnerRecord (m : Mach) (f : BitVec 3) (who : Byte × Option (BitVec 128)) (ev reason : Nat) (detail : Word := 0) : Mach :=
  (m.ringRecord 2 (m.portWords f who ev reason detail)).raiseSource (152 + f.toNat)

/-- A ring-2 record of a port, of its present partner. -/
def portRecord (m : Mach) (f : BitVec 3) (ev reason : Nat) : Mach := m.partnerRecord f (m.partner f) ev reason

/-- Fault a job for a path lost at a port; the entry of the log carries the port's ring-2 record (R369, Table 21-5). -/
def pathLost (m : Mach) (j : JobId) (f : BitVec 3) (who : Byte × Option (BitVec 128)) (ev : Nat) : Mach :=
  let w := m.portWords f who ev 0 0
  m.faultJob j 0x0402 0x0E f.toNat (w.getD 0 0) (w.getD 1 0) (w.getD 2 0) (w.getD 3 0)

/-- Take a control symbol that arrives at a port as one of a CODE: a symbol in bad form is counted in CRC_ERRORS, and one of another CODE is another event (R356). -/
def takeSymbol (m : Mach) (f : BitVec 3) (code : Nat) (u : List (BitVec 128)) (eff : Mach → Mach) : Mach :=
  if bits (u.headD 0) 127 126 ≠ 2 then m
  else if !symOk u then m.countPort f 0x04
  else if symCode u ≠ code then m
  else eff m

/-- Whether a port takes the control symbols of a link in service. -/
def linked (m : Mach) (f : BitVec 3) : Bool := (m.port f).state == 4 || (m.port f).state == 5

/-! Peer messages (R374) -/

/-- Send a peer message to a module; one with no route is lost. -/
def peerSend (m : Mach) (dest : Byte) (type : Nat) (data : List (BitVec 128)) : Mach :=
  let arg : BitVec 38 := BitVec.ofNat 38 (m.number.toNat + type * 2 ^ 8 + m.peerMsg.toNat * 2 ^ 16)
  let h : Hdr := { vc := 2, len := BitVec.ofNat 4 data.length, cmd := 0x30, src := 0x8200, dstStop := 0, dstDie := 0, arg := arg }
  ({ m with peerMsg := m.peerMsg + 1 }).toFabric ⟨h.pack, data⟩ dest

/-- Answer a peer message: type and number are copied. -/
def peerAnswer (m : Mach) (p : Packet) (data : List (BitVec 128)) : Mach :=
  let a := p.h.arg
  let arg : BitVec 38 := ((a >>> 8) <<< 8) ||| m.number.zeroExtend 38
  let h : Hdr := { vc := 3, len := BitVec.ofNat 4 data.length, cmd := 0x31, src := 0x8200, dstStop := 0, dstDie := 0, arg := arg }
  m.toFabric ⟨h.pack, data⟩ (a.truncate 8)

/-- Source module and type of a peer message. -/
def peerFrom (p : Packet) : Byte := p.h.arg.truncate 8
def peerType (p : Packet) : Nat := bits p.h.arg 15 8

/-- The oldest peer message of a type that passes a test, taken off the queue. -/
def takePeer (m : Mach) (type : Nat) (ok : Packet → Bool := fun _ => true) : Option (BitVec 3 × Packet × Mach) :=
  let hit := fun (e : BitVec 3 × Packet) => peerType e.2 == type && ok e.2
  (m.peerQ.find? hit).map (fun e => (e.1, e.2, { m with peerQ := removeFirst hit m.peerQ }))

/-! Leaving: what a lost link left behind (R369) -/

/-- The job a slot is charged for. -/
def slotJob (m : Mach) (src : BitVec 16) (slot : BitVec 14) : Option JobId :=
  if srcHub src then (SMap.get? m.hubTerms slot.toNat).map (·.job)
  else (SMap.get? (m.tile (src.extractLsb' 13 2 ++ (src.extractLsb' 8 4 : BitVec 4))).transit slot.toNat).map (·.job)

/-- Slots of the tokens of some packets. -/
def packetSlots (l : List Packet) : List (BitVec 16 × BitVec 14) :=
  l.flatMap (fun p => (pktTokens p).map (fun t => (p.h.src, t.2)))

/-- The link's loss is final: the jobs of its tokens fault with "fabric path lost" and the slots are released; packets never sent are routed again. -/
def lostFail (m : Mach) (x : Lost) : Mach :=
  let m := { m with lost := removeFirst (fun y => y.port == x.port) m.lost }
  let slots := (packetSlots (x.replay.flatMap (fun f => framePackets 16 f.units)) ++ x.ledger.flatMap (·.slots)).eraseDups
  let js := (slots.filterMap (fun s => m.slotJob s.1 s.2)).eraseDups
  let m := slots.foldl (fun m s => m.hubRelease s.1 s.2) m
  let m := js.foldl (fun m j => if m.live j then m.pathLost j x.port (x.peer, x.serial) 0x08 else m) m
  let m := x.wait.foldl (fun m p => m.toFabric p (dstModule p)) m
  m.partnerRecord x.port (x.peer, x.serial) 0x08 0

/-- A lost link is settled once RESYNC has come, its ledger is empty and its horizon acknowledgements are all sent. -/
def lostTidy (m : Mach) : Mach :=
  { m with lost := m.lost.filter (fun x => !(x.synced && x.ledger == [] && x.hzSent == x.rxLast)) }

/-! Map changes (R193, R367, R369) -/

/-- The root elected over a map (R193). -/
def newRoot (m : Mach) (mp : SMap MapEnt) : Option Byte :=
  electRoot (mp.map (fun e =>
    (e.1, if e.1 = m.number.toNat then BitVec.ofNat 2 (m.objD 0x2500 0x01 0) else e.2.rootMode m.mapVer e.1)))

/-- Put the port toward the root and the children of the spanning tree in place, over the links in UP and in RETRAIN; a tree that changes, or a root other than the old one, ends the wave in progress (R193, R367). -/
def setTree (m : Mach) (oldRoot : Option Byte) : Mach :=
  let w := m.wave
  let parent := match w.root with
    | some r => if r = m.number then none else (bestPort (mapWays m.map m.number.toNat) r.toNat).map (BitVec.ofNat 3)
    | none => none
  let children := match w.root with
    | some r => ((List.range 8).map (BitVec.ofNat 3)).filter (fun f =>
        let x := m.port f
        (x.state == 4 || x.state == 5) && x.peer != r && bestPort (mapWays m.map x.peer.toNat) r.toNat == some x.peerPort.toNat)
    | none => []
  if w.root = oldRoot ∧ parent = w.parent ∧ children = w.children then m
  else
    { m with wave := { w with parent := parent, children := children, active := false, running := false, snap := false,
                              own := [], kids := [], down := [], out := [] } }

/-- The map has changed: unreachable modules leave, routes are set, a root is elected when there is none, the locks of modules that left are freed, and what hung on them faults (R193, R367, R369). A module named as out leaves whatever reaches it (R365). No root is elected before the first map is built, at the end of stage 8 of a boot or wake (Table 19-4). The record of the change speaks of the port's partner, or of the one it has just lost (R375). -/
def mapUpdate (m : Mach) (f : BitVec 3) (who : Byte × Option (BitVec 128)) (out : Nat := 256) : Mach :=
  let own := m.number.toNat
  let old := m.map.map (·.1)
  let reach := mapDist (SMap.erase m.map out) out own
  let mp := reach.map (fun e => (e.1, SMap.getD m.map e.1 {}))
  let ws := mapWays mp own
  let rt := (mp.filter (fun e => e.1 != own)).map (fun e => (e.1, routeWord ws e.1))
  let oldRoot := m.wave.root
  let root := match oldRoot with
    | some r => if (SMap.get? mp r.toNat).isSome then some r else m.newRoot mp
    | none => if m.pw.stage = 8 then none else m.newRoot mp
  let m := { m with map := mp, flRt := rt, mapVer := m.mapVer + 1, wave := { m.wave with root := root } }
  let m := (m.setTree oldRoot).partnerRecord f who 0x05 0
  let gone := old.filter (fun a => (SMap.get? mp a).isNone)
  let m := gone.foldl (fun m a =>
    let held := (m.peerHold.filter (fun e => e.2.toNat == a)).map (·.1)
    let m := held.foldl (fun m n => (m.freeLock (BitVec.ofNat 8 n)).count 0x4D00 0x07) m
    allJobs.foldl (fun m j => if m.live j && (m.job j).moduleMask.getLsbD a then m.pathLost j f who 0x05 else m) m) m
  (m.lost.filter (fun x => (SMap.get? mp x.peer.toNat).isNone)).foldl lostFail m

/-- The LINK_STATE data of a module (Table 17-8). -/
def linkStateData (mo : Byte) (e : MapEnt) : BitVec 128 :=
  e.ports.foldl (fun d (k, b) => d ||| at128 (256 + b.toNat) (9 * k)) (at128 mo.toNat 120 ||| at128 e.version.toNat 104)

/-- A module's own ports have changed: its version rises, the map follows, and LINK_STATE goes to every reachable module. -/
def ownChange (m : Mach) (f : BitVec 3) (who : Byte × Option (BitVec 128)) : Mach :=
  let own := m.number.toNat
  let ps : SMap Byte := (List.range 8).filterMap (fun k =>
    let x := m.port (BitVec.ofNat 3 k)
    if x.state = 4 ∨ x.state = 5 then some (k, x.peer) else none)
  let m := { m with map := SMap.modify m.map own {} (fun e => { e with ports := ps, version := e.version + 1 }) }
  let m := m.mapUpdate f who
  let d := linkStateData m.number (SMap.getD m.map own {})
  (m.map.filter (fun e => e.1 != own)).foldl (fun m e => m.peerSend (BitVec.ofNat 8 e.1) 0x04 [d]) m

/-- Leave UP or RETRAIN: the frames not settled are set aside, and the map follows; RESYNC goes to a partner still reachable (R369). -/
def leaveUp (m : Mach) (f : BitVec 3) (x : FlPort) : Mach :=
  let l : Lost := { port := f, peer := x.peer, peerPort := x.peerPort, serial := x.peerSerial, replay := x.replay, ledger := x.ledger,
                    wait := x.txq.flatMap (fun e => e.2.map (·.pkt)), rxLast := x.rxSeq - 1, hzSent := x.hzSent, hzSnap := x.hzSnap }
  let m := (m.lost.filter (fun y => y.port == f)).foldl lostFail m
  let m := ({ m with lost := m.lost ++ [l] }).ownChange f (x.peer, x.peerSerial)
  if (SMap.get? m.map x.peer.toNat).isSome then
    m.peerSend x.peer 0x05 [at128 l.rxLast.toNat 116 ||| at128 l.hzSent.toNat 104 ||| at128 f.toNat 101]
  else m

/-- A port goes to DOWN or DISABLED: recorded, and a leave where it was in service (R363, R369). -/
def portDown (m : Mach) (f : BitVec 3) (state : BitVec 3) (reason : Nat) : Mach :=
  let x := m.port f
  let m := m.portRecord f 0x02 reason
  let m := if state = 1 then m.countPort f 0x0A else m
  let m := m.modPort f (fun _ => { state := state, rxq := x.rxq, rxOld := x.rxOld, seen := x.seen || state == 1 })
  if x.state = 4 ∨ x.state = 5 then m.leaveUp f x else m

/-- A write of FL_ENABLE (R363). -/
def flEnable (m : Mach) (f : BitVec 3) (v : Bool) : Mach :=
  let x := m.port f
  if v then (if x.state = 0 then m.modPort f (fun x => { x with state := 2 }) else m)
  else if x.state = 0 then m
  else m.portDown f 0 2

/-! Training, identity and heartbeats (R354, R364 to R366) -/

/-- This module's Identity Frame on a port (Table 17-5). -/
def identity (m : Mach) (f : BitVec 3) : List (BitVec 128) :=
  sealLast [at128 3 126 ||| at128 1 120 ||| at128 m.number.toNat 112 ||| at128 f.toNat 109 ||| at128 (m.objD 0x2500 0x01 0) 96
      ||| at128 (bits m.features 15 0) 64 ||| m.sysId.zeroExtend 128,
    Config.serial, at128 m.fwVersion.toNat 96 ||| at128 m.epoch.toNat 80, 0]

/-- Training has succeeded: the port enters IDENT and sends its Identity Frame. -/
def trained (m : Mach) (f : BitVec 3) : Mach :=
  if (m.port f).state ≠ 2 then m
  else (m.modPort f (fun x => { x with state := 3, sentAccept := false, gotAccept := false, missed := 0 })).linkSend f (m.identity f)

/-- Both identities are accepted: the port enters UP with every count at 0, which what its receive buffers still hold of before enters no more; its partner's identity enters the map, which follows (R360, R364, R365, R367). -/
def portUp (m : Mach) (f : BitVec 3) : Mach :=
  let m := (m.lost.filter (fun y => y.port == f)).foldl lostFail m
  let m := m.modPort f (fun x => { x with
    state := 4, txSeq := 0, replay := [], resend := [], rxSeq := 0, nakked := false, ackOwed := 0, sent := [], freed := [],
    rxFreed := [], rxTold := [], rxOld := x.rxq.map (fun e => (e.1, e.2.length)), seen := true, paused := [], replays := 0, ledger := [], hzSent := 4095, hzSnap := 4095, used := [] })
  let x := m.port f
  let m := { m with map := SMap.modify m.map x.peer.toNat {} (fun e => { e with serial := x.peerSerial, epoch := x.peerEpoch, hzMode := x.peerHz }) }
  let m := (m.portRecord f 0x01 0).ownChange f (m.partner f)
  (m.map.filter (fun e => e.1 != m.number.toNat && e.1 != x.peer.toNat)).foldl (fun m e =>
    m.peerSend x.peer 0x04 [linkStateData (BitVec.ofNat 8 e.1) e.2]) m

/-- An IDENT_ACK symbol. -/
def identAckSym (mo : Byte) (accept : Bool) (reason : Nat) : List (BitVec 128) :=
  symbol 0x05 [at128 mo.toNat 110 ||| at128 (b2n accept) 109 ||| at128 reason 105]

/-- A module that has restarted leaves before its new instance is admitted: the ports in service toward the old one go DOWN, and what the map still holds of it is taken out as a leave (R365, R369). -/
def oldInstance (m : Mach) (f : BitVec 3) (serial : BitVec 128) (epoch : BitVec 16) : Mach :=
  match m.map.find? (fun e => e.2.serial == some serial && e.2.epoch != epoch && e.1 != m.number.toNat) with
  | none => m
  | some (a, _) =>
    let fs := ((List.range 8).map (BitVec.ofNat 3)).filter (fun f => m.linked f && (m.port f).peer.toNat == a)
    let m := fs.foldl (fun m f => m.portDown f 1 3) m
    if (SMap.get? m.map a).isSome then m.mapUpdate f (BitVec.ofNat 8 a, some serial) a else m

/-- The hold reason of an Identity Frame, 0 when every check passes (Table 17-6). -/
def identityReason (m : Mach) (u : List (BitVec 128)) : Nat :=
  if u.length ≠ 4 ∨ sealLast u ≠ u ∨ ubits u 0 125 120 ≠ 1 ∨ ubits u 0 108 98 ≠ 0 ∨ ubits u 0 95 80 ≠ 0
      ∨ ubits u 2 79 0 ≠ 0 ∨ ubits u 3 127 32 ≠ 0 then 1
  else if ubits u 0 63 0 ≠ m.sysId.toNat then 2
  else if ubits u 0 119 112 = m.number.toNat then 3
  else
    match SMap.get? m.map (ubits u 0 119 112) with
    | some e => (match e.serial with
      | some s => if s = u.getD 1 0 then 0 else 3
      | none => 0)
    | none => 0

/-- A port is held: it enters HELD, recorded. -/
def hold (m : Mach) (f : BitVec 3) (reason : Nat) : Mach :=
  if (m.port f).state = 6 then m
  else (m.modPort f (fun x => { x with state := 6, seen := true })).portRecord f 0x03 reason

/-- An Identity Frame arrives (R364, R365). -/
def identityFrame (m : Mach) (f : BitVec 3) (u : List (BitVec 128)) : Mach :=
  if bits (u.headD 0) 127 126 ≠ 3 then m
  else
    let st := (m.port f).state
    if st ≠ 3 ∧ st ≠ 4 ∧ st ≠ 6 then m
    else
      let mo : Byte := BitVec.ofNat 8 (ubits u 0 119 112)
      let serial := u.getD 1 0
      let epoch : BitVec 16 := BitVec.ofNat 16 (ubits u 2 95 80)
      let m := if m.identityReason u = 1 then m else m.oldInstance f serial epoch
      let r := m.identityReason u
      let st := (m.port f).state
      if st = 4 then m.linkSend f (identAckSym mo (r == 0) r)
      else if st ≠ 3 ∧ st ≠ 6 then m
      else if r ≠ 0 then
        ((m.linkSend f (identAckSym mo false r)).modPort f (fun x => { x with sentAccept := false })).hold f r
      else
        let m := m.linkSend f (identAckSym mo true 0)
        let m := m.modPort f (fun x => { x with
          sentAccept := true, peer := mo, peerPort := BitVec.ofNat 3 (ubits u 0 111 109), peerSerial := some serial,
          peerCaps := BitVec.ofNat 16 (ubits u 0 79 64), peerEpoch := epoch, peerHz := BitVec.ofNat 2 (ubits u 0 97 96) })
        if (m.port f).gotAccept then m.portUp f else m

/-- An IDENT_ACK for this module arrives. -/
def identAck (m : Mach) (f : BitVec 3) (u : List (BitVec 128)) : Mach :=
  let x := m.port f
  if (x.state ≠ 3 ∧ x.state ≠ 6) ∨ ubits u 0 117 110 ≠ m.number.toNat then m
  else if (u.headD 0).getLsbD 109 then
    let m := m.modPort f (fun x => { x with gotAccept := true })
    if x.sentAccept then m.portUp f else m
  else (m.modPort f (fun x => { x with gotAccept := false })).hold f (ubits u 0 108 105)

/-- A HEARTBEAT is sent (R366). -/
def heartbeatSend (m : Mach) (f : BitVec 3) : Mach :=
  let x := m.port f
  if x.state.toNat < 3 then m
  else
    let (echo, held) : Word × Nat := match x.hbWall with
      | some (w, at_) => (w, m.wall - at_)
      | none => (0, 0)
    (m.modPort f (fun x => { x with beat := x.beat + 1 })).linkSend f
      (symbol 0x06 [at128 x.beat.toNat 102 ||| at128 (m.wall % 2 ^ 64) 32, at128 echo.toNat 64 ||| at128 (held % 2 ^ 32) 32])

/-- A HEARTBEAT arrives: the timer starts anew, and an echo gives the round trip. -/
def heartbeat (m : Mach) (f : BitVec 3) (u : List (BitVec 128)) : Mach :=
  if (m.port f).state.toNat < 3 then m
  else
    let echo := ubits u 1 127 64
    let rtt := m.wall - echo - ubits u 1 63 32
    m.modPort f (fun x => { x with
      missed := 0, hbWall := some (BitVec.ofNat 64 (ubits u 0 95 32), m.wall),
      rtt := if echo = 0 then x.rtt else rtt % 2 ^ 32 })

/-- The heartbeat timer runs out: a missed beat, and the third in a row puts the port DOWN. -/
def heartbeatExpiry (m : Mach) (f : BitVec 3) : Mach :=
  if (m.port f).state.toNat < 3 then m
  else
    let m := (m.modPort f (fun x => { x with missed := x.missed + 1 })).countPort f 0x0B
    if 3 ≤ (m.port f).missed then m.portDown f 1 1 else m

/-! Sending frames (R357, R359, R360, R362) -/

/-- Units of a replay buffer. -/
def replayUnits (x : FlPort) : Nat := (x.replay.map (fun f => 1 + f.units.length)).foldl (· + ·) 0

/-- Units a VC may still send. -/
def portCredit (x : FlPort) (vc : Nat) : Nat :=
  1024 - (SMap.getD x.sent vc 0 - SMap.getD x.freed vc 0).toNat

/-- Records of the ledger. -/
def ledgerSize (x : FlPort) : Nat := (x.ledger.map (fun r => r.slots.length)).foldl (· + ·) 0

/-- Packets a port may send now: the oldest of each VC and job class, where the VC is not paused and credits, replay room and ledger allow. -/
def portCands (x : FlPort) : List (Nat × Nat × LinkPkt) :=
  (List.range 4).flatMap (fun vc =>
    if SMap.getD x.paused vc 0 != 0 || (decide (vc < 2) && decide (262144 ≤ ledgerSize x)) then []
    else
      (List.range 9).filterMap (fun c =>
        match (SMap.getD x.txq vc []).find? (fun q => jobClass q.pkt.h == c) with
        | some q =>
          let n := q.pkt.units
          if n ≤ portCredit x vc ∧ replayUnits x + 1 + n ≤ 4096 then some (vc, c, q) else none
        | none => none))

/-- Units still owed to a job at a port in the window (R362). -/
def portOwed (m : Mach) (x : FlPort) (c : Nat) : Nat :=
  if 8 ≤ c then 0 else m.jobObj (BitVec.ofNat 3 c) 0x52 0 * 8533 / 100 - SMap.getD x.used c 0

/-- The packet a port takes next, and the jobs that yield to it. -/
def portPick (m : Mach) (x : FlPort) : Option (Nat × Nat × LinkPkt) × List JobId :=
  let l := portCands x
  let turn := fun (e : Nat × Nat × LinkPkt) => (e.2.1 + 8 - x.lastCls) % 9
  let rr := leastBy (fun a b => decide (turn a < turn b))
  let old := l.filter (fun e => decide (8192 ≤ m.cycle - e.2.2.since))
  match leastBy (fun (a b : Nat × Nat × LinkPkt) => decide (a.2.2.since < b.2.2.since)) old with
  | some e =>
    (some e, ((l.filter (fun y => y.2.1 != e.2.1 && m.portOwed x y.2.1 != 0)).map (fun y => BitVec.ofNat 3 y.2.1)).eraseDups)
  | none =>
    match rr (l.filter (fun e => e.1 == 3)) with
    | some e => (some e, [])
    | none =>
      match rr (l.filter (fun e => m.portOwed x e.2.1 != 0)) with
      | some e => (some e, [])
      | none => (rr l, [])

/-- Send a packet as a new data frame. -/
def frameNew (m : Mach) (f : BitVec 3) (vc c : Nat) (q : LinkPkt) : Mach :=
  let x := m.port f
  let units := q.pkt.hdr :: q.pkt.data
  let fr : LinkFrame := { seq := x.txSeq, vc := BitVec.ofNat 2 vc, units := units }
  let slots := packetSlots [q.pkt]
  let m := m.modPort f (fun x => { x with
    txq := SMap.modify x.txq vc [] (removeFirst (fun y => y == q)),
    txSeq := x.txSeq + 1, replay := x.replay ++ [fr],
    sent := SMap.modify x.sent vc 0 (· + BitVec.ofNat 16 units.length),
    ledger := if slots = [] then x.ledger else x.ledger ++ [⟨fr.seq, slots⟩],
    used := if c < 8 then SMap.modify x.used c 0 (· + (1 + units.length)) else x.used, lastCls := c })
  (m.countPort f 0x01).linkSend f (frameUnits fr)

/-- FRAME_SEND: a port in UP sends its next frame; frames to be resent go before any new one, and a token of a job that is not live is absorbed (R39, R359). -/
def frameSend (m : Mach) (f : BitVec 3) : Mach :=
  let x := m.port f
  if x.state ≠ 4 ∨ x.window then m
  else
    match x.resend with
    | s :: r =>
      let m := m.modPort f (fun x => { x with resend := r })
      (match x.replay.find? (fun y => y.seq == s) with
        | some fr => m.linkSend f (frameUnits fr)
        | none => m)
    | [] =>
      let m := if m.cycle / 4096 = x.win then m else m.modPort f (fun x => { x with win := m.cycle / 4096, used := [] })
      match m.portPick (m.port f) with
      | (none, _) => m
      | (some (vc, c, q), ys) =>
        if isTok q.pkt.h.cmd && !m.live q.pkt.h.job then
          let m := m.modPort f (fun x => { x with txq := SMap.modify x.txq vc [] (removeFirst (fun y => y == q)) })
          ((packetSlots [q.pkt]).foldl (fun m s => m.hubRelease s.1 s.2) m).absorbCount q.pkt.h.job (pktTokens q.pkt).length
        else
          (ys.foldl (fun m j => m.yieldShare j 0x14) m).frameNew f vc c q

/-- Begin a replay of every unacknowledged frame from a SEQ. -/
def replayFrom (m : Mach) (f : BitVec 3) (s : BitVec 12) : Mach :=
  let l := ((m.port f).replay.filter (fun y => seqLe s y.seq)).map (·.seq)
  if l = [] then m.modPort f (fun x => { x with resend := [] })
  else (m.modPort f (fun x => { x with resend := l })).countPort f 0x03

/-- Replay from the oldest unacknowledged frame. -/
def replayAll (m : Mach) (f : BitVec 3) : Mach :=
  match (m.port f).replay with
  | [] => m
  | y :: _ => m.replayFrom f y.seq

/-- ACK frees the frames up to its SEQ. -/
def ack (m : Mach) (f : BitVec 3) (s : BitVec 12) : Mach :=
  if !m.linked f then m
  else
    m.modPort f (fun x =>
      let keep := x.replay.filter (fun y => !seqLe y.seq s)
      { x with
        replay := keep, resend := x.resend.filter (fun q => !seqLe q s),
        replays := if keep.length < x.replay.length then 0 else x.replays })

/-- NAK replays from its SEQ. -/
def nak (m : Mach) (f : BitVec 3) (s : BitVec 12) : Mach := if m.linked f then m.replayFrom f s else m

/-- No ACK has advanced: a replay from the oldest frame, and after four the port enters RETRAIN (R359). -/
def replayTimeout (m : Mach) (f : BitVec 3) : Mach :=
  let x := m.port f
  if x.state ≠ 4 ∨ x.window ∨ x.replay = [] then m
  else if x.replays < 4 then (m.modPort f (fun x => { x with replays := x.replays + 1 })).replayAll f
  else ((m.modPort f (fun x => { x with state := 5, replays := 0 })).countPort f 0x09).portRecord f 0x04 0

/-- Lock is regained: the port returns to UP with a replay. -/
def retrained (m : Mach) (f : BitVec 3) : Mach :=
  if (m.port f).state ≠ 5 then m
  else ((m.modPort f (fun x => { x with state := 4 })).portRecord f 0x01 0).replayAll f

/-! Receiving frames (R355, R358, R360) -/

/-- Send an ACK of the last frame accepted. -/
def sendAck (m : Mach) (f : BitVec 3) : Mach :=
  (m.modPort f (fun x => { x with ackOwed := 0 })).linkSend f (symbol 0x01 [at128 ((m.port f).rxSeq - 1).toNat 106])

/-- Send the CREDIT values of a port. -/
def sendCredit (m : Mach) (f : BitVec 3) : Mach :=
  let x := m.port f
  let v := fun (vc : Nat) => (SMap.getD x.rxFreed vc 0).toNat
  (m.modPort f (fun x => { x with rxTold := x.rxFreed })).linkSend f
    (symbol 0x03 [at128 (v 0) 96 ||| at128 (v 1) 80 ||| at128 (v 2) 64 ||| at128 (v 3) 48])

/-- The hub takes one packet of a receive buffer: it is forwarded, enters its die, or is a peer message; none while its die has no room. -/
def hubTake (m : Mach) (f : BitVec 3) (p : Packet) : Option Mach :=
  if dstModule p ≠ m.number then some (m.toFabric p (dstModule p))
  else if isTok p.h.cmd then
    let t := pktToken p
    let q := p.setH (fun h => { h with dstHub := false, dstDie := peDie t.pe, dstStop := peStop t.pe, age := 0, mc := false,
                                       dir := false, pair := 0, detour := false })
    let die := peDie t.pe
    if m.room (qToDie die (m.switchFor die (peStop t.pe)) q.h.vc) q.units then some (m.intoDie q) else none
  else some { m with peerQ := m.peerQ ++ [(f, p)] }

/-- Units of a receive buffer are freed, and CREDIT is sent when a count has grown by 64 (R360). -/
def unitsFreed (m : Mach) (f : BitVec 3) (vc n : Nat) : Mach :=
  let m := m.modPort f (fun x => { x with rxFreed := SMap.modify x.rxFreed vc 0 (· + BitVec.ofNat 16 n) })
  let x := m.port f
  if 64 ≤ (SMap.getD x.rxFreed vc 0 - SMap.getD x.rxTold vc 0).toNat && m.linked f then m.sendCredit f else m

/-- The hub drains a receive buffer of a port; what came before the port's last entry into UP frees no unit of the present counts. -/
def drainVc (m : Mach) (f : BitVec 3) (vc : Nat) : Nat → Mach
  | 0 => m
  | k + 1 =>
    match SMap.getD (m.port f).rxq vc [] with
    | [] => m
    | p :: r =>
      match m.hubTake f p with
      | none => m
      | some m =>
        let old := SMap.getD (m.port f).rxOld vc 0
        let m := m.modPort f (fun x => { x with rxq := SMap.set x.rxq vc r, rxOld := SMap.set x.rxOld vc (old - 1) })
        drainVc (if old = 0 then m.unitsFreed f vc p.units else m) f vc k

/-- The hub drains the receive buffers of a port, VC3 first. -/
def drainPort (m : Mach) (f : BitVec 3) : Mach :=
  [3, 2, 1, 0].foldl (fun m vc => m.drainVc f vc (SMap.getD (m.port f).rxq vc []).length) m

/-- A packet of an accepted frame enters the receive buffer: one that is malformed is discarded by R216, a token becomes a hub term under a hub slot, and a token of a job that is not live is absorbed (R39, R192, R358). -/
def receivePacket (m : Mach) (f : BitVec 3) (vc : BitVec 2) (p : Packet) : Mach :=
  let h := p.h
  let freed := fun (m : Mach) => m.unitsFreed f vc.toNat p.units
  let lo : Word := p.hdr.truncate 64
  let hi : Word := p.hdr.extractLsb' 64 64
  if fabricBad p vc then
    if h.vc.toNat < 2 ∧ h.jv ∧ m.live h.job then freed (m.faultJob h.job 0x0202 0x0E f.toNat lo hi)
    else freed (m.logErr 0 0x0E 0 (if h.jv then some h.job else none) f.toNat lo hi)
  else if !isTok h.cmd then m.modPort f (fun x => { x with rxq := SMap.modify x.rxq vc.toNat [] (· ++ [p]) })
  else if !m.live h.job then freed (m.absorbCount h.job 1)
  else
    match m.freeHubSlot with
    | none => m
    | some slot =>
      let t := pktToken p
      let m := m.hubTerm slot ⟨t.job, m.tagOf t.job t.key, t.kind == 1, t.nodeId⟩
      let hdr := (p.hdr &&& ~~~(0xFFFF#128 <<< 90) &&& ~~~(0x3FFF#128)) ||| at128 (0x8200 + f.toNat) 90 ||| slot.zeroExtend 128
      m.modPort f (fun x => { x with rxq := SMap.modify x.rxq vc.toNat [] (· ++ [⟨hdr, p.data⟩]) })

/-- A data frame arrives: accepted in order, or discarded with one NAK; a duplicate is answered with an ACK (R358). -/
def dataFrame (m : Mach) (f : BitVec 3) (u : List (BitVec 128)) : Mach :=
  let x := m.port f
  let nakOnce := fun (m : Mach) =>
    if (m.port f).nakked then m
    else (m.modPort f (fun x => { x with nakked := true })).linkSend f (symbol 0x02 [at128 x.rxSeq.toNat 106])
  if x.state ≠ 4 ∨ bits (u.headD 0) 127 126 ≠ 1 then m
  else
    match frameOf u with
    | none => nakOnce (m.countPort f 0x04)
    | some fr =>
      let ps := framePackets 16 fr.units
      if fr.seq ≠ x.rxSeq then (if seqLe fr.seq x.rxSeq then m.sendAck f else nakOnce m)
      else if 16384 < m.hubTerms.length + (ps.filter (fun p => isTok p.h.cmd)).length then nakOnce m
      else
        let m := (m.modPort f (fun x => { x with
          rxSeq := x.rxSeq + 1, nakked := false, ackOwed := x.ackOwed + u.length })).countPort f 0x02
        let m := ps.foldl (fun m p => m.receivePacket f fr.vc p) m
        let m := m.drainPort f
        if 64 ≤ (m.port f).ackOwed then m.sendAck f else m

/-- CREDIT sets the freed counts. -/
def credit (m : Mach) (f : BitVec 3) (u : List (BitVec 128)) : Mach :=
  if !m.linked f then m
  else
    let v := fun (hi lo : Nat) => (BitVec.ofNat 16 (ubits u 0 hi lo))
    m.modPort f (fun x => { x with freed := [(0, v 111 96), (1, v 95 80), (2, v 79 64), (3, v 63 48)] })

/-- PAUSE replaces the pause of each VC it names; VC3 cannot be named (R361). -/
def pauseVcs (m : Mach) (f : BitVec 3) (u : List (BitVec 128)) : Mach :=
  if (m.port f).state ≠ 4 then m
  else
    let q := ubits u 0 117 102
    let m := m.modPort f (fun x => { x with paused := (List.range 3).foldl (fun p vc =>
      if (u.headD 0).getLsbD (99 + vc) then SMap.set p vc q else p) x.paused })
    m.countPort f 0x07

/-- The pause of a VC runs out. -/
def pauseExpiry (m : Mach) (f : BitVec 3) (vc : BitVec 2) : Mach :=
  m.modPort f (fun x => { x with paused := SMap.erase x.paused vc.toNat })

/-! Calibration (R371) -/

/-- The receiving side asks for a window, at least 1 ms after the last. -/
def calTrigger (m : Mach) (f : BitVec 3) : Mach :=
  let x := m.port f
  let soon := match x.calRx with
    | some w => decide (m.wall < w + 1000000)
    | none => false
  if x.state != 4 || soon then m
  else (m.modPort f (fun x => { x with calRx := some m.wall })).linkSend f (symbol 0x07 [0])

/-- CAL_REQ begins a window of 2 µs; one that comes sooner than 1 ms after the last is discarded. -/
def calReq (m : Mach) (f : BitVec 3) : Mach :=
  let x := m.port f
  let soon := match x.calTx with
    | some w => decide (m.wall < w + 1000000)
    | none => false
  if x.state != 4 || soon then m
  else ((m.modPort f (fun x => { x with window := true, calTx := some m.wall })).countPort f 0x08).portRecord f 0x06 0

/-- The window ends, and the transmitter replays from its oldest frame. -/
def calEnd (m : Mach) (f : BitVec 3) : Mach :=
  if !(m.port f).window then m
  else (m.modPort f (fun x => { x with window := false })).replayAll f

/-! Peer messages that change the map and the lost links (R367, R369, R374) -/

/-- LINK_STATE: a newer one of another module updates the map and is passed on. -/
def linkState (m : Mach) : Mach :=
  match m.takePeer 0x04 with
  | none => m
  | some (f, p, m) =>
    let u := p.data.headD 0
    let mo := bits u 127 120
    let ver : BitVec 16 := u.extractLsb' 104 16
    let newer := match SMap.get? m.map mo with
      | some e => e.version == 0 || (let d := (ver - e.version).toNat; decide (1 ≤ d ∧ d < 32768))
      | none => true
    if p.h.cmd ≠ 0x30 ∨ mo = m.number.toNat ∨ !newer then m
    else
      let ps : SMap Byte := (List.range 8).filterMap (fun k =>
        if u.getLsbD (9 * k + 8) then some (k, u.extractLsb' (9 * k) 8) else none)
      let m := ({ m with map := SMap.modify m.map mo {} (fun e => { e with version := ver, ports := ps }) }).mapUpdate f (m.partner f)
      let others := (((List.range 8).map (BitVec.ofNat 3)).filter (fun g => g != f && (m.port g).state == 4)).map (fun g => (m.port g).peer)
      (others.eraseDups.filter (fun b => b.toNat != mo)).foldl (fun m b => m.peerSend b 0x04 [u]) m

/-- RESYNC from the partner of a lost link: frames it has not accepted are forwarded on the new routes, the others are freed, and the slots its horizon acknowledgements cover are released (R369). -/
def resync (m : Mach) : Mach :=
  let hit := fun (p : Packet) (x : Lost) => x.peer == peerFrom p && x.peerPort.toNat == bits (p.data.headD 0) 103 101 && !x.synced
  match m.takePeer 0x05 (fun p => p.h.cmd != 0x30 || m.lost.any (hit p)) with
  | none => m
  | some (_, p, m) =>
    match m.lost.find? (fun x => p.h.cmd == 0x30 && hit p x) with
    | none => m
    | some x =>
      let u := p.data.headD 0
      let acc : BitVec 12 := u.extractLsb' 116 12
      let cov : BitVec 12 := u.extractLsb' 104 12
      let again := x.replay.filter (fun y => !seqLe y.seq acc)
      let covered := x.ledger.filter (fun r => seqLe r.seq cov)
      let keep := x.ledger.filter (fun r => !seqLe r.seq cov && seqLe r.seq acc)
      let m := { m with lost := m.lost.map (fun (y : Lost) => if y.port = x.port then { y with
        replay := [], ledger := keep, wait := [], synced := true } else y) }
      let m := (covered.flatMap (·.slots)).foldl (fun m s => m.hubRelease s.1 s.2) m
      let m := (again.flatMap (fun y => framePackets 16 y.units) ++ x.wait).foldl (fun m p => m.toFabric p (dstModule p)) m
      (m.partnerRecord x.port (x.peer, x.serial) 0x07 0 (at64 acc.toNat 12 ||| at64 cov.toNat 0)).lostTidy

/-- No RESYNC has come in time. -/
def resyncTimeout (m : Mach) (f : BitVec 3) : Mach :=
  match m.lost.find? (fun x => x.port == f && !x.synced) with
  | some x => m.lostFail x
  | none => m

/-- FRAME_ACK_RELAY releases the slots of a lost link's frames up to its SEQ. -/
def frameAckRelay (m : Mach) : Mach :=
  match m.takePeer 0x07 with
  | none => m
  | some (_, p, m) =>
    let u := p.data.headD 0
    let s : BitVec 12 := u.extractLsb' 116 12
    match m.lost.find? (fun x => p.h.cmd == 0x30 && x.peer == peerFrom p && x.peerPort.toNat == bits u 115 113) with
    | none => m
    | some x =>
      let done := x.ledger.filter (fun r => seqLe r.seq s)
      let m := { m with lost := m.lost.map (fun (y : Lost) => if y.port = x.port then { y with ledger := y.ledger.filter (fun r => !seqLe r.seq s) } else y) }
      ((done.flatMap (·.slots)).foldl (fun m s => m.hubRelease s.1 s.2) m).lostTidy

/-- The Fabric peer proxy takes or releases a lock for a peer module, and answers with the owner and the module it holds the lock for. -/
def peerLock (m : Mach) : Mach :=
  match m.takePeer 0x02 with
  | none => m
  | some (_, p, m) =>
    if p.h.cmd ≠ 0x30 then m
    else
      let u := p.data.headD 0
      let n : Byte := u.truncate 8
      let who := peerFrom p
      let mine := SMap.get? m.peerHold n.toNat
      let wake := fun (m : Mach) =>
        let l := m.peerWait.filter (fun e => e.1 == n)
        l.foldl (fun m e => m.peerSend e.2 0x03 [n.zeroExtend 128]) { m with peerWait := m.peerWait.filter (fun e => e.1 != n) }
      let m := if u.getLsbD 8 then
          if mine = some who then (wake m).lockReq n 0x40 0
          else m.count 0x4D00 0x08
        else if mine.isSome && mine != some who then { m with peerWait := m.peerWait ++ [(n, who)] }
        else
          let m := m.lockReq n 0x40 0x40
          if (m.lock n).owner = 0x40 then { m with peerHold := SMap.set m.peerHold n.toNat who }
          else { m with peerWait := m.peerWait ++ [(n, who)] }
      let owner := (m.lock n).owner
      let holder := if owner = 0x40 then SMap.getD m.peerHold n.toNat 0 else m.number
      m.peerAnswer p [at128 owner.toNat 0 ||| at128 holder.toNat 8]

/-- LOCK_WAKE: the proxy passes a wake on to the peers that wait for the lock, or a peer's wake is taken (R312). -/
def lockWakes (m : Mach) : Mach :=
  match m.peerWakes with
  | n :: r =>
    let l := m.peerWait.filter (fun e => e.1 == n)
    l.foldl (fun m e => m.peerSend e.2 0x03 [n.zeroExtend 128])
      { m with peerWakes := r, peerWait := m.peerWait.filter (fun e => e.1 != n) }
  | [] =>
    match m.takePeer 0x03 with
    | some (_, _, m) => m
    | none => m

/-! Starting a spanning job (R278) -/

/-- JOB_CHECK data of a job. -/
def jobCheckData (m : Mach) (j : JobId) : List (BitVec 128) :=
  let b := m.job j
  [j.zeroExtend 128, BitVec.ofNat 128 (bytesNat b.designId), b.moduleMask.truncate 128, b.moduleMask.extractLsb' 128 128]

/-- The other modules of a job. -/
def jobModules (m : Mach) (j : JobId) : List Byte :=
  ((List.range 256).filter (fun k => (m.job j).moduleMask.getLsbD k && k != m.number.toNat)).map (BitVec.ofNat 8)

/-- The request to run a spanning job ends with an outcome: its command completes, and its write is answered with it (R394). -/
def runEnd (m : Mach) (j : JobId) (e : Err) : Mach :=
  let b := m.job j
  let m := m.modJob j (fun x => { x with runPair := [], runObj := false, checked := [], asked := [] })
  let m := if b.runObj ∧ e ≠ .ok then { m with objEnd := some e.code } else m
  b.runPair.foldl (fun m k => m.completeCmd k.toNat e.code 0) m

/-- Whether a request to run a spanning job stands. -/
def runAsked (m : Mach) (j : JobId) : Bool := !(m.job j).runPair.isEmpty || (m.job j).runObj

/-- A spanning job enters RUN once every other module has answered this module's checks with a match and asked with a check that matched. -/
def runReady (m : Mach) (j : JobId) : Mach :=
  let b := m.job j
  if m.runAsked j && b.asked == [] && (m.jobModules j).all (fun k => k ∈ b.checked) then
    let m := m.modJob j (fun x => { x with pause := none, wavePause := none, stalled := false, pauseRb := false })
    (m.runEnd j .ok).enterRun j
  else m

/-- Refuse the pending run request of a job on this module. -/
def runRefused (m : Mach) (j : JobId) : Mach :=
  if m.runAsked j then m.runEnd j .state else m.modJob j (fun x => { x with checked := [] })

/-- Ask for RUN of a spanning job: refused with STATE where no root stands or a module is not in the map, else JOB_CHECK goes to every other module. -/
def runSpanning (m : Mach) (j : JobId) (pair : Option (BitVec 6)) : Bool × Mach :=
  let mods := m.jobModules j
  if m.wave.root.isNone || mods.any (fun k => (SMap.get? m.map k.toNat).isNone) then (false, m)
  else
    let m := m.modJob j (fun x => { x with runPair := x.runPair ++ pair.toList, runObj := x.runObj || pair.isNone })
    let d := m.jobCheckData j
    (true, (mods.foldl (fun m k =>
      (m.modJob j (fun x => { x with asked := x.asked ++ [(k, m.peerMsg)] })).peerSend k 0x06 d) m).runReady j)

/-- The answer to a check of this module: a match is noted, and a mismatch, or a check that no route carried, refuses the run request it was made for. -/
def checkAnswer (m : Mach) (j : JobId) (n : BitVec 16) (ok : Bool) : Mach :=
  if !(m.job j).asked.any (fun a => a.2 == n) then m
  else if ok then (m.modJob j (fun x => { x with asked := x.asked.filter (fun a => a.2 != n) })).runReady j
  else m.runRefused j

/-- JOB_CHECK: a check of a peer is compared and answered; a mismatch, here or there, refuses the run request. -/
def jobCheck (m : Mach) : Mach :=
  match m.takePeer 0x06 with
  | none => m
  | some (_, p, m) =>
    let j : JobId := (p.data.headD 0).truncate 3
    let n : BitVec 16 := p.h.arg.extractLsb' 16 16
    if p.h.cmd = 0x31 then m.checkAnswer j n ((p.data.headD 0).getLsbD 8)
    else if p.h.cmd = 0x23 then allJobs.foldl (fun m j => m.checkAnswer j n false) m
    else
      let b := m.job j
      let ok := (b.state == .loaded || b.state == .paused) && p.data == m.jobCheckData j
      if ok then
        ((m.modJob j (fun x => { x with checked := (x.checked ++ [peerFrom p]).eraseDups })).runReady j).peerAnswer p
          [j.zeroExtend 128 ||| at128 1 8]
      else (m.runRefused j).peerAnswer p [j.zeroExtend 128]

end Mach

/-- TRAINING_COMPLETE of a port (R354). -/
def execTrainingComplete (f : BitVec 3) (s : State) : Res := s.on (fun m => m.trained f)
/-- TRAINING_ABANDON: the attempt ends in DOWN (R354). -/
def execTrainingAbandon (f : BitVec 3) (s : State) : Res :=
  s.on (fun m => if (m.port f).state = 2 then m.portDown f 1 0 else m)
/-- DOWN_TIMEOUT: a new attempt (R363). -/
def execDownTimeout (f : BitVec 3) (s : State) : Res :=
  s.on (fun m => if (m.port f).state = 1 then m.modPort f (fun x => { x with state := 2 }) else m)
/-- IDENTITY_FRAME_TIMER: the Identity Frame is sent again (R364). -/
def execIdentityFrameTimer (f : BitVec 3) (s : State) : Res :=
  s.on (fun m =>
    let x := m.port f
    if (x.state = 3 ∧ !x.gotAccept) ∨ x.state = 6 then m.linkSend f (m.identity f) else m)
/-- IDENTITY_FRAME (R364, R365). -/
def execIdentityFrame (f : BitVec 3) (u : List (BitVec 128)) (s : State) : Res := s.on (fun m => m.identityFrame f u)
/-- IDENT_ACK (R364). -/
def execIdentAck (f : BitVec 3) (u : List (BitVec 128)) (s : State) : Res :=
  s.on (fun m => m.takeSymbol f 0x05 u (fun m => m.identAck f u))
/-- FRAME_SEND (R359, R360, R362). -/
def execFrameSend (f : BitVec 3) (s : State) : Res := s.on (fun m => m.frameSend f)
/-- DATA_FRAME (R358); the symbols the FEC corrected on its way are counted (R353, Table 17-10). -/
def execDataFrame (f : BitVec 3) (u : FrameIn) (s : State) : Res :=
  s.on (fun m => (if (m.port f).state.toNat < 2 then m else m.countPort f 0x05 u.corrected.toNat).dataFrame f u.units)
/-- ACK (R357). -/
def execAck (f : BitVec 3) (u : List (BitVec 128)) (s : State) : Res :=
  s.on (fun m => m.takeSymbol f 0x01 u (fun m => m.ack f (BitVec.ofNat 12 (ubits u 0 117 106))))
/-- ACK_TIMER: accepted frames are acknowledged (R358). -/
def execAckTimer (f : BitVec 3) (s : State) : Res :=
  s.on (fun m => if m.linked f && (m.port f).ackOwed != 0 then m.sendAck f else m)
/-- NAK (R359). -/
def execNak (f : BitVec 3) (u : List (BitVec 128)) (s : State) : Res :=
  s.on (fun m => m.takeSymbol f 0x02 u (fun m => m.nak f (BitVec.ofNat 12 (ubits u 0 117 106))))
/-- CREDIT (R360). -/
def execCredit (f : BitVec 3) (u : List (BitVec 128)) (s : State) : Res :=
  s.on (fun m => m.takeSymbol f 0x03 u (fun m => m.credit f u))
/-- CREDIT_TIMER: the hub drains the port and CREDIT is sent (R360). -/
def execCreditTimer (f : BitVec 3) (s : State) : Res :=
  s.on (fun m => if m.linked f then (m.drainPort f).sendCredit f else m)
/-- PAUSE (R361). -/
def execPause (f : BitVec 3) (u : List (BitVec 128)) (s : State) : Res :=
  s.on (fun m => m.takeSymbol f 0x04 u (fun m => m.pauseVcs f u))
/-- PAUSE_EXPIRY of a VC (R361). -/
def execPauseExpiry (f : BitVec 3) (vc : BitVec 2) (s : State) : Res := s.on (fun m => m.pauseExpiry f vc)
/-- REPLAY_TIMEOUT (R359). -/
def execReplayTimeout (f : BitVec 3) (s : State) : Res := s.on (fun m => m.replayTimeout f)
/-- RETRAIN_COMPLETE (R359). -/
def execRetrainComplete (f : BitVec 3) (s : State) : Res := s.on (fun m => m.retrained f)
/-- HEARTBEAT_SEND (R366). -/
def execHeartbeatSend (f : BitVec 3) (s : State) : Res := s.on (fun m => m.heartbeatSend f)
/-- HEARTBEAT (R366). -/
def execHeartbeat (f : BitVec 3) (u : List (BitVec 128)) (s : State) : Res :=
  s.on (fun m => m.takeSymbol f 0x06 u (fun m => m.heartbeat f u))
/-- HEARTBEAT_EXPIRY (R366). -/
def execHeartbeatExpiry (f : BitVec 3) (s : State) : Res := s.on (fun m => m.heartbeatExpiry f)
/-- CALIBRATION_TRIGGER (R371). -/
def execCalibrationTrigger (f : BitVec 3) (s : State) : Res := s.on (fun m => m.calTrigger f)
/-- CAL_REQ (R371). -/
def execCalReq (f : BitVec 3) (u : List (BitVec 128)) (s : State) : Res :=
  s.on (fun m => m.takeSymbol f 0x07 u (fun m => m.calReq f))
/-- CALIBRATION_WINDOW_END (R371). -/
def execCalibrationWindowEnd (f : BitVec 3) (s : State) : Res := s.on (fun m => m.calEnd f)
/-- LINK_STATE (R367). -/
def execLinkState (s : State) : Res := s.on Mach.linkState
/-- RESYNC (R369). -/
def execResync (s : State) : Res := s.on Mach.resync
/-- RESYNC_TIMEOUT of a port (R369). -/
def execResyncTimeout (f : BitVec 3) (s : State) : Res := s.on (fun m => m.resyncTimeout f)
/-- FRAME_ACK_RELAY (R369). -/
def execFrameAckRelay (s : State) : Res := s.on Mach.frameAckRelay
/-- PEER_LOCK (R374). -/
def execPeerLock (s : State) : Res := s.on Mach.peerLock
/-- LOCK_WAKE (R374). -/
def execLockWake (s : State) : Res := s.on Mach.lockWakes
/-- JOB_CHECK (R278). -/
def execJobCheck (s : State) : Res := s.on Mach.jobCheck
/-- FL_RT[m] is written (R368, Table 17-7). -/
def execFlRt (k : Byte) (v : Word) (s : State) : Res :=
  s.on (fun m => { m with flRt := SMap.set m.flRt k.toNat (v &&& 0xFF) })
/-- UNCORRECTABLE_CODEWORD of a port (R353, R375). -/
def execUncorrectableCodeword (f : BitVec 3) (s : State) : Res :=
  s.on (fun m => if (m.port f).state.toNat < 2 then m else (m.countPort f 0x06).raiseSource (152 + f.toNat))

end Sys2Proof.Machine
end

