-- ==== Sys2Proof/Machine/Crypto.lean ====
section
/-! DEFINITION. The algorithms the loader and the boot engine check images by: SHA-384, ECDSA over P-384 (FIPS 186-5), AES-256-GCM (SP 800-38D) and AES key wrap (RFC 3394) (R268 to R270, R295). -/

namespace Sys2Proof.Machine

/-! SHA-384 -/

/-- The round constants of SHA-512 and SHA-384. -/
def shaK : List Word :=
  [0x428A2F98D728AE22, 0x7137449123EF65CD, 0xB5C0FBCFEC4D3B2F, 0xE9B5DBA58189DBBC,
   0x3956C25BF348B538, 0x59F111F1B605D019, 0x923F82A4AF194F9B, 0xAB1C5ED5DA6D8118,
   0xD807AA98A3030242, 0x12835B0145706FBE, 0x243185BE4EE4B28C, 0x550C7DC3D5FFB4E2,
   0x72BE5D74F27B896F, 0x80DEB1FE3B1696B1, 0x9BDC06A725C71235, 0xC19BF174CF692694,
   0xE49B69C19EF14AD2, 0xEFBE4786384F25E3, 0x0FC19DC68B8CD5B5, 0x240CA1CC77AC9C65] ++
  [0x2DE92C6F592B0275, 0x4A7484AA6EA6E483, 0x5CB0A9DCBD41FBD4, 0x76F988DA831153B5,
   0x983E5152EE66DFAB, 0xA831C66D2DB43210, 0xB00327C898FB213F, 0xBF597FC7BEEF0EE4,
   0xC6E00BF33DA88FC2, 0xD5A79147930AA725, 0x06CA6351E003826F, 0x142929670A0E6E70,
   0x27B70A8546D22FFC, 0x2E1B21385C26C926, 0x4D2C6DFC5AC42AED, 0x53380D139D95B3DF,
   0x650A73548BAF63DE, 0x766A0ABB3C77B2A8, 0x81C2C92E47EDAEE6, 0x92722C851482353B] ++
  [0xA2BFE8A14CF10364, 0xA81A664BBC423001, 0xC24B8B70D0F89791, 0xC76C51A30654BE30,
   0xD192E819D6EF5218, 0xD69906245565A910, 0xF40E35855771202A, 0x106AA07032BBD1B8,
   0x19A4C116B8D2D0C8, 0x1E376C085141AB53, 0x2748774CDF8EEB99, 0x34B0BCB5E19B48A8,
   0x391C0CB3C5C95A63, 0x4ED8AA4AE3418ACB, 0x5B9CCA4F7763E373, 0x682E6FF3D6B2B8A3,
   0x748F82EE5DEFB2FC, 0x78A5636F43172F60, 0x84C87814A1F0AB72, 0x8CC702081A6439EC] ++
  [0x90BEFFFA23631E28, 0xA4506CEBDE82BDE9, 0xBEF9A3F7B2C67915, 0xC67178F2E372532B,
   0xCA273ECEEA26619C, 0xD186B8C721C0C207, 0xEADA7DD6CDE0EB1E, 0xF57D4F7FEE6ED178,
   0x06F067AA72176FBA, 0x0A637DC5A2C898A6, 0x113F9804BEF90DAE, 0x1B710B35131C471B,
   0x28DB77F523047D84, 0x32CAAB7B40C72493, 0x3C9EBE0A15C9BEBC, 0x431D67C49C100D4C,
   0x4CC5D4BECB3E42B6, 0x597F299CFC657E2A, 0x5FCB6FAB3AD6FAEC, 0x6C44198C4A475817]

/-- The initial hash value of SHA-384. -/
def shaInit : List Word :=
  [0xCBBB9D5DC1059ED8, 0x629A292A367CD507, 0x9159015A3070DD17, 0x152FECD8F70E5939,
   0x67332667FFC00B31, 0x8EB44A8768581511, 0xDB0C2E0D64F98FA7, 0x47B5481DBEFA4FA4]

/-- Big-endian number of some bytes. -/
def beNat (l : List Byte) : Nat := l.foldl (fun n b => n * 256 + b.toNat) 0

/-- n big-endian bytes of a number. -/
def beBytes (n v : Nat) : List Byte := (natBytes n v).reverse

/-- Cut a list into pieces of n. -/
def chunks {α : Type} (n : Nat) : Nat → List α → List (List α)
  | 0, _ => []
  | f + 1, l => if l.isEmpty then [] else l.take n :: chunks n f (l.drop n)

def shaS0 (x : Word) : Word := x.rotateRight 1 ^^^ x.rotateRight 8 ^^^ (x >>> 7)
def shaS1 (x : Word) : Word := x.rotateRight 19 ^^^ x.rotateRight 61 ^^^ (x >>> 6)
def shaB0 (x : Word) : Word := x.rotateRight 28 ^^^ x.rotateRight 34 ^^^ x.rotateRight 39
def shaB1 (x : Word) : Word := x.rotateRight 14 ^^^ x.rotateRight 18 ^^^ x.rotateRight 41

/-- The message schedule: n further words, newest first. -/
def shaSchedule : Nat → List Word → List Word
  | 0, l => l
  | n + 1, l => shaSchedule n ((shaS1 (l.getD 1 0) + l.getD 6 0 + shaS0 (l.getD 14 0) + l.getD 15 0) :: l)

/-- One round of the compression function. -/
def shaRound (s : List Word) (kw : Word) : List Word :=
  match s with
  | [a, b, c, d, e, f, g, h] =>
    let t1 := h + shaB1 e + ((e &&& f) ^^^ (~~~e &&& g)) + kw
    let t2 := shaB0 a + ((a &&& b) ^^^ (a &&& c) ^^^ (b &&& c))
    [t1 + t2, a, b, c, d + t1, e, f, g]
  | _ => s

/-- Compress one block of 128 bytes. -/
def shaBlock (s : List Word) (blk : List Byte) : List Word :=
  let w := (shaSchedule 64 ((chunks 8 16 blk).map (fun c => BitVec.ofNat 64 (beNat c))).reverse).reverse
  let r := (w.zip shaK).foldl (fun s x => shaRound s (x.1 + x.2)) s
  (s.zip r).map (fun x => x.1 + x.2)

/-- SHA-384 of some bytes: 48 bytes. -/
def sha384 (msg : List Byte) : List Byte :=
  let n := msg.length
  let pad := (0x80 : Byte) :: List.replicate ((239 - n % 128) % 128) 0 ++ beBytes 16 (8 * n)
  let s := (chunks 128 (n / 128 + 2) (msg ++ pad)).foldl shaBlock shaInit
  (s.flatMap (fun w => beBytes 8 w.toNat)).take 48

/-! ECDSA over P-384 -/

/-- The curve: prime, order, coefficient b and base point. -/
def ecP : Nat := 39402006196394479212279040100143613805079739270465446667948293404245721771496870329047266088258938001861606973112319
def ecN : Nat := 39402006196394479212279040100143613805079739270465446667946905279627659399113263569398956308152294913554433653942643
def ecB : Nat := 27580193559959705877849011840389048093056905856361568521428707301988689241309860865136260764883745107765439761230575
def ecG : Nat × Nat := (26247035095799689268623156744566981891852923491109213387815615900925518854738050089022388053975719786650872476732087, 8325710961489029985546751289520108179287853048861315594709205902480503199884419224438643760392947333078086511627871)

/-- x to the power e modulo m; fuel bounds the bits of e. -/
def powMod (m : Nat) : Nat → Nat → Nat → Nat
  | 0, _, _ => 1
  | f + 1, x, e => if e = 0 then 1 else
    let h := powMod m f (x * x % m) (e / 2)
    if e % 2 = 1 then h * x % m else h

/-- The inverse modulo a prime. -/
def invMod (m x : Nat) : Nat := powMod m 384 (x % m) (m - 2)

/-- Addition on the curve; none is the point at infinity. -/
def ecAdd (a b : Option (Nat × Nat)) : Option (Nat × Nat) :=
  match a, b with
  | none, q => q
  | p, none => p
  | some (x1, y1), some (x2, y2) =>
    if x1 = x2 ∧ (y1 + y2) % ecP = 0 then none
    else
      let l := if x1 = x2 then (3 * x1 * x1 + (ecP - 3)) * invMod ecP (2 * y1) % ecP
        else (y2 + ecP - y1) * invMod ecP (x2 + ecP - x1) % ecP
      let x3 := (l * l + 2 * ecP - x1 - x2) % ecP
      some (x3, (l * (x1 + ecP - x3) + ecP - y1) % ecP)

/-- Multiplication on the curve by k, double and add; fuel bounds the bits of k. -/
def ecMul : Nat → Nat → Option (Nat × Nat) → Option (Nat × Nat)
  | 0, _, _ => none
  | f + 1, k, p => if k = 0 then none else
    let h := ecMul f (k / 2) (ecAdd p p)
    if k % 2 = 1 then ecAdd h p else h

/-- Whether (r, s) is a signature of a digest under a public key (FIPS 186-5). -/
def ecdsaOk (digest : List Byte) (qx qy r s : Nat) : Bool :=
  let onCurve := decide (qx < ecP ∧ qy < ecP ∧ qy * qy % ecP = (qx * qx * qx + (ecP - 3) * qx + ecB) % ecP)
  if !onCurve || decide (r = 0 ∨ s = 0 ∨ ecN ≤ r ∨ ecN ≤ s) then false
  else
    let w := invMod ecN s
    let u1 := beNat digest * w % ecN
    let u2 := r * w % ecN
    match ecAdd (ecMul 384 u1 (some ecG)) (ecMul 384 u2 (some (qx, qy))) with
    | some (x, _) => x % ecN == r
    | none => false

/-! AES-256 -/

/-- Multiplication by x in GF(2^8). -/
def xtime (b : Byte) : Byte := if b.getLsbD 7 then (b <<< 1) ^^^ 0x1B else b <<< 1

/-- Multiplication in GF(2^8). -/
def gfMul (a b : Byte) : Byte :=
  ((List.range 8).foldl (fun (x : Byte × Byte) i => (if b.getLsbD i then x.1 ^^^ x.2 else x.1, xtime x.2)) (0, a)).1

/-- The inverse in GF(2^8), 0 for 0. -/
def gfInv (a : Byte) : Byte :=
  let a2 := gfMul a a
  let a4 := gfMul a2 a2
  let a8 := gfMul a4 a4
  let a16 := gfMul a8 a8
  let a32 := gfMul a16 a16
  let a64 := gfMul a32 a32
  let a128 := gfMul a64 a64
  gfMul a128 (gfMul a64 (gfMul a32 (gfMul a16 (gfMul a8 (gfMul a4 a2)))))

/-- The S-box and its inverse. -/
def sbox (b : Byte) : Byte :=
  let x := gfInv b
  x ^^^ x.rotateLeft 1 ^^^ x.rotateLeft 2 ^^^ x.rotateLeft 3 ^^^ x.rotateLeft 4 ^^^ 0x63
def sboxInv (b : Byte) : Byte := gfInv (b.rotateLeft 1 ^^^ b.rotateLeft 3 ^^^ b.rotateLeft 6 ^^^ 0x05)

def xorBytes (a b : List Byte) : List Byte := (a.zip b).map (fun x => x.1 ^^^ x.2)

/-- The 60 key words of AES-256, newest first, from the eight of the key. -/
def keyExpand : Nat → Nat → Byte → List (List Byte) → List (List Byte)
  | 0, _, _, l => l
  | f + 1, i, rc, l =>
    let prev := l.getD 0 []
    let t := if i % 8 = 0 then xorBytes ((prev.drop 1 ++ prev.take 1).map sbox) [rc, 0, 0, 0]
      else if i % 8 = 4 then prev.map sbox else prev
    keyExpand f (i + 1) (if i % 8 = 0 then xtime rc else rc) (xorBytes (l.getD 7 []) t :: l)

/-- The 15 round keys. -/
def roundKeys (key : List Byte) : List (List Byte) :=
  (chunks 4 15 (keyExpand 52 8 1 (chunks 4 8 key).reverse).reverse).map (·.flatten)

def shiftRows (s : List Byte) : List Byte := (List.range 16).map (fun k => s.getD (k % 4 + 4 * ((k / 4 + k % 4) % 4)) 0)
def shiftRowsInv (s : List Byte) : List Byte := (List.range 16).map (fun k => s.getD (k % 4 + 4 * ((k / 4 + 4 - k % 4) % 4)) 0)

/-- Multiply each column by a circulant of four coefficients. -/
def mixBy (co : List Byte) (s : List Byte) : List Byte :=
  (List.range 16).map (fun k => (List.range 4).foldl (fun v j => v ^^^ gfMul (co.getD ((j + 4 - k % 4) % 4) 0) (s.getD (k / 4 * 4 + j) 0)) 0)

/-- Encrypt a block of 16 bytes. -/
def aesEnc (rk : List (List Byte)) (blk : List Byte) : List Byte :=
  let s := (List.range 13).foldl (fun s i => xorBytes (mixBy [2, 3, 1, 1] (shiftRows (s.map sbox))) (rk.getD (i + 1) []))
    (xorBytes blk (rk.getD 0 []))
  xorBytes (shiftRows (s.map sbox)) (rk.getD 14 [])

/-- Decrypt a block of 16 bytes. -/
def aesDec (rk : List (List Byte)) (blk : List Byte) : List Byte :=
  let s := (List.range 13).foldl (fun s i => mixBy [14, 11, 13, 9] (xorBytes ((shiftRowsInv s).map sboxInv) (rk.getD (13 - i) [])))
    (xorBytes blk (rk.getD 14 []))
  xorBytes ((shiftRowsInv s).map sboxInv) (rk.getD 0 [])

/-! GCM and key wrap -/

/-- Multiplication in GF(2^128) as GCM numbers its bits. -/
def ghashMul (x y : BitVec 128) : BitVec 128 :=
  ((List.range 128).foldl (fun (a : BitVec 128 × BitVec 128) i =>
    (if x.getLsbD (127 - i) then a.1 ^^^ a.2 else a.1,
     if a.2.getLsbD 0 then (a.2 >>> 1) ^^^ 0xE1000000000000000000000000000000 else a.2 >>> 1)) (0, y)).1

/-- Blocks of 16 bytes as numbers, the last padded with zeros. -/
def gcmBlocks (l : List Byte) : List (BitVec 128) :=
  (chunks 16 (l.length / 16 + 1) l).map (fun c => BitVec.ofNat 128 (beNat (c ++ List.replicate (16 - c.length) 0)))

/-- The tag of AES-256-GCM over additional data and ciphertext. -/
def gcmTag (rk : List (List Byte)) (iv aad ct : List Byte) : List Byte :=
  let h : BitVec 128 := BitVec.ofNat 128 (beNat (aesEnc rk (List.replicate 16 0)))
  let len : BitVec 128 := BitVec.ofNat 128 (8 * aad.length * 2 ^ 64 + 8 * ct.length)
  let y := (gcmBlocks aad ++ gcmBlocks ct ++ [len]).foldl (fun y b => ghashMul (y ^^^ b) h) 0
  xorBytes (beBytes 16 y.toNat) (aesEnc rk (iv ++ [0, 0, 0, 1]))

/-- The plaintext of AES-256-GCM. -/
def gcmOpen (rk : List (List Byte)) (iv ct : List Byte) : List Byte :=
  ((chunks 16 (ct.length / 16 + 1) ct).zipIdx).flatMap (fun (c, i) => xorBytes c (aesEnc rk (iv ++ beBytes 4 (i + 2))))

/-- RFC 3394 unwrap of 40 bytes under a wrapping key: the 32 bytes, none where the integrity check fails. -/
def keyUnwrap (kek wrapped : List Byte) : Option (List Byte) :=
  let rk := roundKeys kek
  let c := chunks 8 5 wrapped
  let (a, r) := (List.range 24).foldl (fun (s : List Byte × List (List Byte)) k =>
    let t := 24 - k
    let i := (t - 1) % 4
    let b := aesDec rk (xorBytes s.1 (beBytes 8 t) ++ s.2.getD i [])
    (b.take 8, s.2.set i (b.drop 8))) (c.getD 0 [], c.drop 1)
  if wrapped.length = 40 ∧ a = List.replicate 8 0xA6 then some r.flatten else none

end Sys2Proof.Machine
end

