-- ==== Sys2Proof/Machine/Image.lean ====
section
/-! DEFINITION. Design images: the container, its section table, and the checks of its contents that look at the image alone (R257 to R269, Tables 12-1 to 12-8). -/

namespace Sys2Proof.Machine

/-- Why a load fails: LOAD_STATUS and LOAD_FAIL_OFFSET (R275). -/
structure LoadErr where
  status : Nat
  off : Nat
deriving DecidableEq, Repr

/-- A step of a load. -/
abbrev Load (α : Type) := Except LoadErr α

/-- Go on where a check holds. -/
def check (c : Bool) (status off : Nat) : Load Unit := if c then .ok () else .error ⟨status, off⟩

/-- The bytes of an image, for access by offset. -/
abbrev Img := Array Byte

namespace Img
/-- n bytes from an offset, as a little-endian number. -/
def num (g : Img) (o n : Nat) : Nat := bytesNat ((List.range n).map (fun i => g.getD (o + i) 0))
/-- n bytes from an offset. -/
def slice (g : Img) (o n : Nat) : List Byte := (List.range n).map (fun i => g.getD (o + i) 0)
/-- Whether n bytes from an offset are 0. -/
def zero (g : Img) (o n : Nat) : Bool := (List.range n).all (fun i => g.getD (o + i) 0 == 0)
end Img

/-- A section table entry (Table 12-2), with the offset of the entry. -/
structure Section_ where
  type : Nat
  at_ : Nat
  crc : BitVec 32
  off : Nat
  len : Nat
deriving DecidableEq, Repr

/-- The header fields a load uses (Table 12-1). -/
structure Ezi where
  len : Nat
  enc : Bool
  signed : Bool
  slot : Nat
  secs : List Section_
  payOff : Nat
  payLen : Nat
  sigOff : Nat
deriving DecidableEq, Repr

/-- The section of a type. -/
def Ezi.sec (z : Ezi) (t : Nat) : Option Section_ := z.secs.find? (fun s => s.type == t)
/-- Offset and length of a section, with length 0 where the image has none. -/
def Ezi.range (z : Ezi) (t : Nat) : Nat × Nat := match z.sec t with
  | some s => (s.off, s.len)
  | none => (0, 0)

/-- The length rule of a type that step 1 checks (Table 12-3). -/
def lengthRule (t n : Nat) : Bool :=
  match t with
  | 0x1 => n == 0x20040
  | 0x4 | 0x5 | 0x8 => n % 8 == 0
  | 0x6 => n % 40 == 0 && decide (n ≤ 40 * 2 ^ 24)
  | 0x7 => n % 136 == 0
  | 0x9 => decide (256 ≤ n) && (n - 256) % 16 == 0
  | 0xA => n % 64 == 0
  | _ => true

/-- Step 1: the header and the section table (FORMAT). -/
def imageHeader (g : Img) (imageLength : Nat) : Load Ezi := do
  let f := 0x10
  check (g.num 0 4 == 0x1A495A45) f 0
  check (g.num 4 2 == 0x0100) f 4
  check (g.num 6 2 == 256) f 6
  check (crc32 (g.slice 0 0xFC) == BitVec.ofNat 32 (g.num 0xFC 4)) f 0xFC
  let len := g.num 8 8
  check (decide (512 ≤ len ∧ len ≤ imageLength)) f 8
  let fl : Byte := g.getD 0x35 0
  let enc := fl.getLsbD 0
  let signed := fl.getLsbD 1
  check (decide (fl.toNat < 4)) f 0x35
  let slot := g.num 0x36 1
  check (if enc then decide (slot < 8) else slot == 0) f 0x36
  check (g.zero 0x37 1) f 0x37
  let n := g.num 0x38 2
  check (decide (3 ≤ n ∧ n ≤ 10)) f 0x38
  check (g.zero 0x3A 6) f 0x3A
  let tabEnd := 256 + 32 * n
  let po := g.num 0x40 8
  let pl := g.num 0x48 8
  let so := g.num 0x50 8
  let last := if signed then len - 256 else len
  check (po == if enc then (tabEnd + 63) / 64 * 64 else 0) f 0x40
  check (if enc then decide (po + pl ≤ last) else pl == 0) f 0x48
  check (so == if signed then len - 256 else 0) f 0x50
  check (g.zero 0x58 8) f 0x58
  check (g.zero 0x6C 4) f 0x6C
  check (g.zero 0x80 124) f 0x80
  let secs := (List.range n).map (fun i =>
    let a := 256 + 32 * i
    ({ type := g.num a 2, at_ := a, crc := BitVec.ofNat 32 (g.num (a + 4) 4), off := g.num (a + 8) 8, len := g.num (a + 16) 8 } : Section_))
  let _ ← secs.foldlM (fun (prev : List Section_) s => do
    check (decide (1 ≤ s.type ∧ s.type ≤ 10) && !prev.any (fun p => p.type == s.type)) f s.at_
    check (g.zero (s.at_ + 2) 2) f (s.at_ + 2)
    check (g.zero (s.at_ + 24) 8) f (s.at_ + 24)
    check (s.off % 64 == 0 && decide (tabEnd ≤ s.off) && (!enc || decide (po ≤ s.off))
      && prev.all (fun p => decide (p.off + p.len ≤ s.off ∨ s.off + s.len ≤ p.off))) f (s.at_ + 8)
    check (lengthRule s.type s.len && decide (s.off + s.len ≤ last) && (!enc || decide (s.off + s.len ≤ po + pl))) f (s.at_ + 16)
    return prev ++ [s]) []
  check ([1, 2, 3].all (fun t => secs.any (fun s => s.type == t))) f 0x38
  if signed then check (g.zero (so + 0xC0) 64) f (so + 0xC0)
  return { len := len, enc := enc, signed := signed, slot := slot, secs := secs, payOff := po, payLen := pl, sigOff := so }

/-- Step 2: the CRC of every section. -/
def imageCrcs (g : Img) (z : Ezi) : Load Unit :=
  z.secs.forM (fun s => check (crc32 (g.slice s.off s.len) == s.crc) 0x11 (s.at_ + 4))

/-- Whether a P-384 signature block at an offset signs the bytes before it (R268). -/
def signatureOk (g : Img) (sigOff : Nat) : Bool :=
  ecdsaOk (sha384 (g.slice 0 sigOff)) (g.num sigOff 48) (g.num (sigOff + 0x30) 48) (g.num (sigOff + 0x60) 48) (g.num (sigOff + 0x90) 48)

/-- Step 3: signer trust, then the signature. -/
def imageSigned (g : Img) (z : Ezi) (v : Vault) : Load Unit := do
  if z.signed then
    let h := sha384 (g.slice z.sigOff 96)
    check (v.signers.any (fun e => e.2 == h && e.2.any (· != 0))) 0x13 z.sigOff
    check (signatureOk g z.sigOff) 0x12 (z.sigOff + 0x60)
  else check (!v.require) 0x13 0x35

/-- Step 7 and the decryption of step 8: the image with its encrypted range in plain text (R269). -/
def imageOpen (g : Img) (z : Ezi) (v : Vault) : Load Img :=
  if !z.enc then .ok g
  else
    match SMap.getD v.slots z.slot .empty with
    | .sealed key =>
      let rk := roundKeys key
      let iv := g.slice 0x60 12
      let ct := g.slice z.payOff z.payLen
      let aad := g.slice 0 0x60 ++ g.slice 256 (32 * z.secs.length)
      if gcmTag rk iv aad ct == g.slice 0x70 16 then
        .ok ((g.slice 0 z.payOff ++ gcmOpen rk iv ct ++ g.slice (z.payOff + z.payLen) (z.len - z.payOff - z.payLen)).toArray)
      else .error ⟨0x15, 0x70⟩
    | _ => .error ⟨0x14, 0x36⟩

/-- The second computation of step 11 over the bytes copied: the start of the first range whose check differs from the one found before, none where all agree (R275, R276). -/
def imageChanged (g g2 : Img) (z : Ezi) (v : Vault) : Option Nat :=
  let tab := 256 + 32 * z.secs.length
  if g2.slice 0 tab ≠ g.slice 0 tab then some 0
  else
    match leastBy (fun (x y : Section_) => decide (x.off < y.off)) (z.secs.filter (fun s => crc32 (g2.slice s.off s.len) != s.crc)) with
    | some s => some s.off
    | none =>
      if (z.signed && sha384 (g2.slice 0 z.sigOff) != sha384 (g.slice 0 z.sigOff)) || (imageOpen g2 z v).toOption.isNone then some 0
      else none

/-- The partition map (Table 12-4): node counts and lookaheads by PE, where they are not 0. -/
structure PartMap where
  mask : BitVec 256
  tiles : BitVec 64
  dmSize : Nat
  ncount : SMap Nat
  look : SMap Nat
deriving DecidableEq, Repr

/-- N: the nodes of the image. -/
def PartMap.total (p : PartMap) : Nat := (p.ncount.map (·.2)).foldl (· + ·) 0

/-- Number of the first node of a PE in the order of R259. -/
def PartMap.first (p : PartMap) (pe : Nat) : Nat := ((p.ncount.filter (fun e => e.1 < pe)).map (·.2)).foldl (· + ·) 0

/-- Whether a node ID names a node of this module's image, and its number in the order of R259. -/
def PartMap.node? (p : PartMap) (mo : Byte) (n : NodeId) : Option Nat :=
  let pe := (nodePe n).toNat
  if nodeMod n = mo ∧ n.extractLsb' 30 2 = 0 ∧ (nodeLocal n).toNat < SMap.getD p.ncount pe 0 then
    some (p.first pe + (nodeLocal n).toNat)
  else none

/-- Step 8: the partition map by R259 (PARTITION). -/
def partition (g : Img) (z : Ezi) (mo : Byte) : Load PartMap := do
  let f := 0x18
  let (b, _) := z.range 1
  let mask : BitVec 256 := BitVec.ofNat 256 (g.num b 32)
  let tiles : BitVec 64 := BitVec.ofNat 64 (g.num (b + 0x20) 8)
  check (mask.getLsbD mo.toNat) f b
  check (g.zero (b + 0x28) 8) f (b + 0x28)
  let dm := g.num (b + 0x30) 8
  check (dm % 64 == 0) f (b + 0x30)
  check (g.zero (b + 0x38) 8) f (b + 0x38)
  let (nc, lk) ← (List.range 8192).foldlM (fun (acc : SMap Nat × SMap Nat) p => do
    let a := b + 0x40 + 16 * p
    if g.zero a 16 then return acc
    else
      let l := g.num a 8
      let n := g.num (a + 8) 4
      check (decide (l ≤ 2 ^ 46)) f a
      check (decide (n ≤ 131072) && (n == 0 || tiles.getLsbD (p / 128))) f (a + 8)
      check (g.zero (a + 12) 4) f (a + 12)
      return (if n = 0 then acc.1 else acc.1 ++ [(p, n)], if l = 0 then acc.2 else acc.2 ++ [(p, l)])) ([], [])
  return { mask := mask, tiles := tiles, dmSize := dm, ncount := nc, look := lk }

/-- The length rules step 8 checks (FORMAT). -/
def lengthRules (g : Img) (z : Ezi) (p : PartMap) : Load Unit := do
  let (c, cl) := z.range 2
  let ok2 := decide (8 ≤ cl) && cl == 16 + g.num c 4 + g.num (c + 4) 4
  match z.sec 2 with
  | some s => check ok2 0x10 (s.at_ + 16)
  | none => return ()
  match z.sec 3 with
  | some s => check (s.len == 64 * p.total) 0x10 (s.at_ + 16)
  | none => return ()

/-- STREAM_MIB of each stream of PROBES, where it is not 0. -/
def streamSizes (g : Img) (z : Ezi) : List (Nat × Nat) :=
  let (b, n) := z.range 9
  if n = 0 then [] else ((List.range 64).map (fun s => (s, g.num (b + 4 * s) 4))).filter (fun e => e.2 != 0)

/-- Step 10, first check: every STREAM_MIB is 0 or 1 to 1,024 (PROBE). -/
def streamCheck (g : Img) (z : Ezi) : Load Unit :=
  (streamSizes g z).forM (fun e => check (decide (e.2 ≤ 1024)) 0x1F ((z.range 9).1 + 4 * e.1))

/-- Step 11: the layout of CODE (DATA). -/
def codeCheck (g : Img) (z : Ezi) : Load Unit := do
  let (c, _) := z.range 2
  let n := g.num c 4
  let k := g.num (c + 4) 4
  check (n % 4 == 0 && decide (4 ≤ n)) 0x1D c
  check (k % 8 == 0 && decide (n + k ≤ 2 ^ 32)) 0x1D (c + 4)
  check (g.zero (c + 8) 8) 0x1D (c + 8)

/-- Words of a node record of the image. -/
def recWord (g : Img) (z : Ezi) (i k : Nat) : Word := BitVec.ofNat 64 (g.num ((z.range 3).1 + 64 * i + 8 * k) 8)

/-- Length in bytes of a fanout block at a byte offset of FANOUT, where its directory lies in it. -/
def fanBlock (g : Img) (z : Ezi) (o : Nat) : Option Nat :=
  let (b, n) := z.range 4
  if o + 16 ≤ n then some (16 + 8 * ((List.range 8).map (fun k => g.num (b + o + 2 * k) 2)).foldl (· + ·) 0) else none

/-- Whether a node record passes R262 and R166, but for overlaps of memory segments. -/
def recordOk (g : Img) (z : Ezi) (dmSize i : Nat) : Bool :=
  let w0 := recWord g z i 0
  let w2 := recWord g z i 2
  let w3 := recWord g z i 3
  let mode := bits w0 31 30
  let rmask := bits w0 29 22
  let edge := bits w0 21 20
  let jn := bits w0 18 17
  let sw := popN (w0.extractLsb' 13 4)
  let pmask := bits w0 12 5
  let dmLen := 64 * bits w3 29 0
  let fan := bits w2 39 0
  bits w0 4 0 == 0 && bits w2 43 40 == 0 && bits w3 63 60 == 0
    && rmask != 0
    && (if mode = 2 then rmask == 1 && edge != 0 else edge == 0 && !w0.getLsbD 19)
    && (mode != 0 || rmask &&& pmask == rmask)
    && (jn == 1 || jn == 2) && !(jn == 1 && decide (2 < sw)) && !(mode == 3 && jn == 2 && decide (1 < sw))
    && !(mode == 3 && jn == 2 && decide (2 ^ 29 < dmLen))
    && bits w0 63 32 % 4 == 0 && decide (bits w0 63 32 < g.num (z.range 2).1 4)
    && (if mode = 3 then dmLen != 0 && decide (64 * bits w3 59 30 + dmLen ≤ dmSize) else w3 == 0)
    && (fan == 2 ^ 40 - 1 || (match fanBlock g z (8 * fan) with
      | some n => decide (8 * fan + n ≤ (z.range 4).2)
      | none => false))
where
  popN (v : BitVec 4) : Nat := ((List.range 4).filter (fun i => v.getLsbD i)).length

/-- Step 11: every node record, and no two memory segments overlap (NODE_RECORD). -/
def recordCheck (g : Img) (z : Ezi) (p : PartMap) : Load Unit := do
  let b := (z.range 3).1
  let n := p.total
  (List.range n).forM (fun i => check (recordOk g z p.dmSize i) 0x1B (b + 64 * i))
  let segs := ((List.range n).filter (fun i => bits (recWord g z i 0) 31 30 == 3)).map (fun i =>
    let w := recWord g z i 3
    (64 * bits w 59 30, 64 * bits w 29 0, i))
  let l := sortBy (fun (x y : Nat × Nat × Nat) => decide (x.1 < y.1 ∨ (x.1 = y.1 ∧ x.2.2 < y.2.2))) segs
  (l.zip (l.drop 1)).forM (fun (x, y) => check (decide (x.1 + x.2.1 ≤ y.1)) 0x1B (b + 64 * Nat.max x.2.2 y.2.2))

/-- PMASK of a node of the image. -/
def imgPmask (g : Img) (z : Ezi) (i : Nat) : Nat := bits (recWord g z i 0) 12 5

/-- Step 12: arcs and INBOUND; every input port is fed exactly as PMASK says (FANOUT). -/
def fanoutCheck (g : Img) (z : Ezi) (p : PartMap) (mo : Byte) : Load Unit := do
  let (fb, _) := z.range 4
  let feeds ← (List.range p.total).foldlM (fun (acc : SMap Nat) i => do
    let fan := bits (recWord g z i 2) 39 0
    if fan = 2 ^ 40 - 1 then return acc
    else
      let o := fb + 8 * fan
      let n := (((fanBlock g z (8 * fan)).getD 16) - 16) / 8
      (List.range n).foldlM (fun (acc : SMap Nat) k => do
        let a := o + 16 + 8 * k
        let w : Word := BitVec.ofNat 64 (g.num a 8)
        check (bits w 62 43 == 0 && bits w 31 30 == 0) 0x1C a
        let node : NodeId := w.truncate 40
        check (p.mask.getLsbD (nodeMod node).toNat) 0x1C a
        if nodeMod node = mo then
          match p.node? mo node with
          | some d =>
            check ((imgPmask g z d).testBit (bits w 42 40)) 0x1C a
            return SMap.modify acc (8 * d + bits w 42 40) 0 (· + 1)
          | none => .error ⟨0x1C, a⟩
        else return acc) acc) []
  let (ib, il) := z.range 5
  let feeds ← (List.range (il / 8)).foldlM (fun (acc : SMap Nat) k => do
    let a := ib + 8 * k
    let w : Word := BitVec.ofNat 64 (g.num a 8)
    check (bits w 63 43 == 0) 0x1C a
    match p.node? mo (w.truncate 40) with
    | some d => return SMap.modify acc (8 * d + bits w 42 40) 0 (· + 1)
    | none => .error ⟨0x1C, a⟩) feeds
  (List.range p.total).forM (fun i =>
    check ((List.range 8).all (fun k => SMap.getD feeds (8 * i + k) 0 == if (imgPmask g z i).testBit k then 1 else 0)) 0x1C
      ((z.range 3).1 + 64 * i))

/-- Step 13: the held-value blocks of NODE_INIT by node number (DATA). -/
def nodeInit (g : Img) (z : Ezi) (p : PartMap) (mo : Byte) : Load (SMap (List Byte)) := do
  let (b, n) := z.range 7
  (List.range (n / 136)).foldlM (fun (acc : SMap (List Byte)) k => do
    let a := b + 136 * k
    match p.node? mo (BitVec.ofNat 40 (g.num a 8)) with
    | some d =>
      check ((SMap.get? acc d).isNone && decide (g.num a 8 < 2 ^ 40)) 0x1D a
      return SMap.set acc d (g.slice (a + 8) 128)
    | none => .error ⟨0x1D, a⟩) []

/-- Step 13: the entries of DM_INIT: offset in design memory and data (DATA). -/
def dmInit (g : Img) (z : Ezi) (dmSize : Nat) : Load (List (Nat × List Byte)) :=
  let (b, n) := z.range 8
  go b n (n / 8) 0
where
  go (b n : Nat) : Nat → Nat → Load (List (Nat × List Byte))
    | 0, _ => .ok []
    | f + 1, o =>
      if n ≤ o then .ok []
      else
        let w : Word := BitVec.ofNat 64 (g.num (b + o) 8)
        let len := bits w 63 40
        let dest := bits w 39 0
        let pad := (len + 7) / 8 * 8
        if len = 0 ∨ dmSize < dest + len ∨ n < o + 8 + pad then .error ⟨0x1D, b + o⟩
        else
          match go b n f (o + 8 + pad) with
          | .ok r => .ok ((dest, g.slice (b + o + 8) len) :: r)
          | .error e => .error e

/-- Step 14: the initial tokens with their full tags, in ascending tag order (INITIAL_TOKEN). -/
def initialTokens (g : Img) (z : Ezi) (p : PartMap) (mo : Byte) : Load (List (Tag × Token)) := do
  let (b, n) := z.range 6
  let word := fun a => BitVec.ofNat 64 (g.num a 8)
  let l := (List.range (n / 40)).map (fun k =>
    let a := b + 40 * k
    let t : Token := { w0 := word (a + 8), w1 := word (a + 16), w2 := word (a + 24), w3 := word (a + 32) }
    (a, (⟨word a, t.delta⟩ : Tag), t))
  let g0 := match leastBy (fun (x y : Nat × Tag × Token) => x.2.1.lt y.2.1) l with
    | some x => x.2.1.time.toNat
    | none => 0
  let _ ← l.foldlM (fun (seen : List (NodeId × BitVec 3 × Tag)) (a, tag, t) => do
    check (t.kind == 0 && !t.malformed && t.gen == 0 && t.job == 0 && t.modNo == mo && (p.node? mo t.nodeId).isSome
      && t.time == tag.short && (t.fs || t.w3 == 0) && decide (tag.time.toNat ≤ g0 + 2 ^ 46)
      && !seen.any (fun x => x == (t.nodeId, t.port, tag))) 0x1E a
    return (t.nodeId, t.port, tag) :: seen) []
  return sortBy (fun (x y : Tag × Token) => x.1.lt y.1) (l.map (fun x => x.2))

/-- A PROBES entry. -/
structure ProbeEnt where
  at_ : Nat
  stream : BitVec 6
  kind : BitVec 2
  sel : BitVec 3
  node : NodeId
  id : BitVec 32
deriving DecidableEq, Repr

/-- The entries of PROBES. -/
def probeEnts (g : Img) (z : Ezi) : List ProbeEnt :=
  let (b, n) := z.range 9
  (List.range ((n - 256) / 16)).map (fun k =>
    let a := b + 256 + 16 * k
    let q : Word := BitVec.ofNat 64 (g.num a 8)
    { at_ := a, stream := q.extractLsb' 58 6, kind := q.extractLsb' 56 2, sel := q.extractLsb' 40 3, node := q.truncate 40,
      id := BitVec.ofNat 32 (g.num (a + 8) 4) })

/-- The triggers of an image: number, offset of the entry and G0 to G6. -/
def triggerEnts (g : Img) (z : Ezi) : List (Nat × Nat × List Word) :=
  let (b, n) := z.range 10
  (List.range (n / 64)).map (fun k =>
    let a := b + 64 * k
    (g.num a 1, a, (List.range 7).map (fun i => BitVec.ofNat 64 (g.num (a + 8 + 8 * i) 8))))

/-- Whether a trigger's configuration is valid by itself and against the streams and triggers of its job (R348). -/
def triggerOk (p : PartMap) (mo : Byte) (streams trigs : List Nat) (w : List Word) : Bool :=
  let g0 := w.getD 0 0
  let kind := bits g0 45 44
  !g0.getLsbD 43 && kind != 3 && !(kind == 2 && decide (4 ≤ bits g0 42 40)) && (p.node? mo (g0.truncate 40)).isSome
    && (w.getD 2 0 &&& ~~~(w.getD 1 0)) == 0 && (w.getD 4 0 &&& ~~~(w.getD 3 0)) == 0
    && decide ((w.getD 5 0).toNat ≤ (w.getD 6 0).toNat)
    && (!g0.getLsbD 62 || decide (bits g0 51 46 ∈ streams)) && (!g0.getLsbD 58 || decide (bits g0 57 52 ∈ trigs))

/-- Step 15: probes and triggers against the image, the streams and triggers other jobs own, and the 512 filter entries of a tile, of which other jobs hold some (PROBE, R332). -/
def probeCheck (g : Img) (z : Ezi) (p : PartMap) (mo : Byte) (ownS ownT : List Nat) (held : Nat → Nat) : Load Unit := do
  let f := 0x1F
  let ss := (streamSizes g z).map (·.1)
  let ps := probeEnts g z
  let ts := triggerEnts g z
  ss.forM (fun s => check (!decide (s ∈ ownS)) f ((z.range 9).1 + 4 * s))
  let _ ← ps.foldlM (fun (seen : List ProbeEnt) e => do
    let q : Word := BitVec.ofNat 64 (g.num e.at_ 8)
    check (bits q 55 43 == 0 && g.num (e.at_ + 12) 4 == 0 && e.kind != 3 && !(e.kind == 2 && decide (4 ≤ e.sel.toNat))
      && decide (e.stream.toNat ∈ ss) && (p.node? mo e.node).isSome
      && !seen.any (fun x => x.stream == e.stream && x.kind == e.kind && x.sel == e.sel && x.node == e.node)) f e.at_
    return e :: seen) []
  let _ ← ts.foldlM (fun (seen : List Nat) (t, a, w) => do
    check (decide (t < 64) && g.zero (a + 1) 7 && !decide (t ∈ ownT) && !decide (t ∈ seen)
      && triggerOk p mo ss (ts.map (·.1)) w) f a
    return t :: seen) []
  let tileOf := fun (n : NodeId) => (peTile (nodePe n)).toNat
  let used := (ps.map (fun e => tileOf e.node)) ++ (ts.map (fun e => tileOf ((e.2.2.getD 0 0).truncate 40)))
  check ((List.range 64).all (fun t => decide (!used.contains t ∨ held t + (used.filter (· == t)).length ≤ 512))) f (z.range 9).1

end Sys2Proof.Machine
end

