-- ==== Sys2Proof/Machine/Wave.lean ====
section
/-! DEFINITION. System waves of the Horizon Network: requests, contributions, results, pauses and their acknowledgements, horizon acknowledgements of frames, and time symbols (R190 to R193, R372, R373). -/

namespace Sys2Proof.Machine

/-- The minima of two contributions; an empty term gives way. -/
def minOpt (a b : Option Tag) : Option Tag :=
  match a, b with
  | none, y => y
  | x, none => x
  | some x, some y => some (x.min y)

/-- The units of an HZ_UP or HZ_DOWN after U0's P valid bit (Table 17-3). -/
def hzUnits (wave : BitVec 16) (j : Nat) (g s : Option Tag) : List (BitVec 128) :=
  let gt := g.getD {}
  let st := s.getD {}
  [at128 wave.toNat 102 ||| at128 j 99 ||| at128 (b2n g.isNone) 98 ||| at128 (b2n s.isNone) 97 ||| at128 gt.time.toNat 32,
   at128 st.time.toNat 64 ||| at128 gt.delta.toNat 52 ||| at128 st.delta.toNat 40]

/-- GVT and SH of an HZ_UP or HZ_DOWN. -/
def hzTags (u : List (BitVec 128)) : Option Tag × Option Tag :=
  let g : Tag := ⟨BitVec.ofNat 64 (ubits u 0 95 32), BitVec.ofNat 12 (ubits u 1 63 52)⟩
  let s : Tag := ⟨BitVec.ofNat 64 (ubits u 1 127 64), BitVec.ofNat 12 (ubits u 1 51 40)⟩
  (if ubits u 0 98 98 = 1 then none else some g, if ubits u 0 97 97 = 1 then none else some s)

/-- The jobs of a mask. -/
def maskJobs (mask : Byte) : List Nat := (List.range 8).filter (fun j => mask.getLsbD j)

namespace Mach

/-- An HZ_ACK. -/
def hzAck (m : Mach) (f : BitVec 3) (wave : BitVec 16) (kind j : Nat) : Mach :=
  m.linkSend f (symbol 0x14 [at128 wave.toNat 102 ||| at128 kind 100 ||| at128 j 97])

/-- Send the wave request to every child. -/
def requestDown (m : Mach) : Mach :=
  m.wave.children.foldl (fun m f => m.hzSend f 0 m.wave.num 0
    [symbol 0x10 [at128 m.wave.num.toNat 102 ||| at128 m.wave.mask.toNat 94]]) m

/-- WAVE_START: the root begins a wave when the last has ended and SYS_WAVE_MIN_NS has passed since it began (R191). JOBMASK names all 8 jobs: the jobs of any number may span other modules in RUN or PAUSED, whatever the root itself holds under it (R191, R372; log entry 70). -/
def waveStart (m : Mach) : Mach :=
  let w := m.wave
  if !m.serving || w.root != some m.number || w.running || w.began.any (fun b => decide (m.wall < b + m.objD 0x2500 0x02 0)) then m
  else
    ({ m with wave := { w with num := w.num + 1, taken := true, active := true, running := true, mask := 0xFF, began := some m.wall, snap := false,
                               own := [], kids := [], down := [] } }).requestDown

/-- A result of a wave is applied: a pause tag first, then the minima are delivered; a result below a held value is discarded and logged (R193, R197). -/
def waveApply (m : Mach) (res : SMap (Option Tag × Option Tag × Option Tag)) : Mach :=
  let mine := res.filter (fun e => m.spanning (BitVec.ofNat 3 e.1) && ((m.job (BitVec.ofNat 3 e.1)).state == JobState.run || (m.job (BitVec.ofNat 3 e.1)).state == JobState.paused))
  let below := fun (e : Nat × Option Tag × Option Tag × Option Tag) =>
    let b := m.job (BitVec.ofNat 3 e.1)
    (match e.2.1 with
      | some g => g.lt b.gvt
      | none => false) ||
    (match e.2.2.1 with
      | some s => s.lt b.sh
      | none => false)
  if mine.any below then m.logErr 0 0x14 0 none 4 (BitVec.ofNat 64 m.wave.num.toNat)
  else
    let m := mine.foldl (fun m e =>
      let j : JobId := BitVec.ofNat 3 e.1
      let b := m.job j
      let m := match e.2.2.2 with
        | some p =>
          if b.state != JobState.run || b.dropPause == some p then m
          else
            let first := fun (o : Option Tag) => (o.map (p.min ·)).getD p
            m.modJob j (fun x => { x with pause := some (first x.pause), pausedAt := first x.pause, wavePause := some (first x.wavePause) })
        | none => m
      m.deliver j e.2.1 e.2.2.1) m
    m.count 0x4810 0x03

/-- Send a result to every child, with TIME (R372, R373). -/
def resultDown (m : Mach) (res : SMap (Option Tag × Option Tag × Option Tag)) : Mach :=
  let num := m.wave.num
  let syms := res.map (fun e =>
    let p := e.2.2.2.getD {}
    match hzUnits num e.1 e.2.1 e.2.2.1 with
    | [a, b] => symbol 0x12 [a ||| at128 (b2n e.2.2.2.isSome) 96, b, at128 p.time.toNat 64 ||| at128 p.delta.toNat 52]
    | _ => [])
  m.wave.children.foldl (fun m f =>
    (m.hzSend f 2 num 0 syms).linkSend f (symbol 0x16 [at128 num.toNat 102 ||| at128 (m.wall % 2 ^ 64) 32])) m

/-- After a contribution, horizon acknowledgements go out for the frames that arrived before its snapshot, on the link or by relay where it is lost (R192, R369). -/
def frameAcks (m : Mach) : Mach :=
  let m := ((List.range 8).map (BitVec.ofNat 3)).foldl (fun m f =>
    let x := m.port f
    if m.linked f && x.hzSnap != x.hzSent then
      (m.modPort f (fun x => { x with hzSent := x.hzSnap })).linkSend f (symbol 0x15 [at128 x.hzSnap.toNat 106])
    else m) m
  let due := m.lost.filter (fun x => x.hzSnap != x.hzSent)
  let m := due.foldl (fun m x => m.peerSend x.peer 0x07 [at128 x.hzSnap.toNat 116 ||| at128 x.port.toNat 113]) m
  ({ m with lost := m.lost.map (fun (x : Lost) => { x with hzSent := x.hzSnap }) }).lostTidy

/-- Combine and pass on the contribution of this module once its own minima and those of every child are there: to the parent, or at the root as the result (R191). SYS_WAVE_LAST_NS is set at the root alone, from the request sent to the result formed; elsewhere it stays 0, for the spec does not say what a wave lasts there (the model's choice, log entry 85). -/
def waveStep (m : Mach) : Mach :=
  let w := m.wave
  let js := maskJobs w.mask
  let kidsIn := w.children.all (fun f => js.all (fun j => (SMap.get? w.kids (f.toNat * 8 + j)).isSome))
  if !w.active || w.own == [] || !kidsIn then m
  else
    let mins := js.map (fun j =>
      (j, w.children.foldl (fun (a : Option Tag × Option Tag) f =>
        let k := SMap.getD w.kids (f.toNat * 8 + j) (none, none)
        (minOpt a.1 k.1, minOpt a.2 k.2)) (SMap.getD w.own j (none, none))))
    let m := { m with wave := { w with active := false, own := [], kids := [] } }
    if w.root = some m.number then
      let res : SMap (Option Tag × Option Tag × Option Tag) := mins.map (fun e => (e.1, e.2.1, e.2.2, SMap.get? w.pauses e.1))
      let m := { m with wave := { m.wave with running := false, done := some w.num,
                                              pauses := w.pauses.filter (fun e => !(e.1 ∈ js)) } }
      let m := (m.setObj 0x4810 0x04 ((m.wall - w.began.getD m.wall) % 2 ^ 32)).resultDown res
      (m.waveApply res).frameAcks
    else
      match w.parent with
      | some f => (m.hzSend f 1 w.num 0 (mins.map (fun e => symbol 0x11 (hzUnits w.num e.1 e.2.1 e.2.2)))).frameAcks
      | none => m

/-- HZ_REQ from the parent: a new wave begins here and goes on to the children; a repeat, which has the number of the last one taken, is acknowledged (R372). -/
def hzReq (m : Mach) (f : BitVec 3) (u : List (BitVec 128)) : Mach :=
  let w := m.wave
  let num : BitVec 16 := BitVec.ofNat 16 (ubits u 0 117 102)
  if !m.linked f || w.parent != some f then m
  else
    let m := m.hzAck f num 0 0
    if w.taken ∧ num = w.num then m
    else
      ({ m with wave := { w with num := num, taken := true, active := true, mask := BitVec.ofNat 8 (ubits u 0 101 94), snap := false,
                                 own := [], kids := [], down := [] } }).requestDown

/-- HZ_UP from a child: its minima of one job; when its set is whole it is acknowledged and may complete the contribution. -/
def hzUp (m : Mach) (f : BitVec 3) (u : List (BitVec 128)) : Mach :=
  let w := m.wave
  let num : BitVec 16 := BitVec.ofNat 16 (ubits u 0 117 102)
  let j := ubits u 0 101 99
  if !m.linked f || !(f ∈ w.children) || num != w.num then m
  else if !w.active then m.hzAck f num 1 0
  else
    let m := { m with wave := { w with kids := SMap.set w.kids (f.toNat * 8 + j) (hzTags u) } }
    if (maskJobs w.mask).all (fun j => (SMap.get? m.wave.kids (f.toNat * 8 + j)).isSome) then (m.hzAck f num 1 0).waveStep else m

/-- HZ_DOWN from the parent: the result of one job; when the set is whole it is acknowledged, applied once and passed on. -/
def hzDown (m : Mach) (f : BitVec 3) (u : List (BitVec 128)) : Mach :=
  let w := m.wave
  let num : BitVec 16 := BitVec.ofNat 16 (ubits u 0 117 102)
  let j := ubits u 0 101 99
  if !m.linked f || w.parent != some f || num != w.num then m
  else if w.done = some num then m.hzAck f num 2 0
  else
    let p : Option Tag := if ubits u 0 96 96 = 1 then
        some ⟨BitVec.ofNat 64 (ubits u 2 127 64), BitVec.ofNat 12 (ubits u 2 63 52)⟩ else none
    let t := hzTags u
    let m := { m with wave := { w with down := SMap.set w.down j (t.1, t.2, p) } }
    if (maskJobs w.mask).all (fun j => (SMap.get? m.wave.down j).isSome) then
      let res := m.wave.down
      let m := { (m.hzAck f num 2 0) with wave := { m.wave with done := some num, down := [], active := false } }
      (m.resultDown res).waveApply res
    else m

/-- HZ_PAUSE from a child: acknowledged, and carried on toward the root. -/
def hzPause (m : Mach) (f : BitVec 3) (u : List (BitVec 128)) : Mach :=
  if !m.linked f || !(f ∈ m.wave.children) then m
  else
    let j : JobId := BitVec.ofNat 3 (ubits u 0 117 115)
    (m.hzAck f m.wave.num 3 j.toNat).pauseUp j ⟨BitVec.ofNat 64 (ubits u 0 95 32), BitVec.ofNat 12 (ubits u 0 114 103)⟩

/-- HZ_ACK ends the repeats of its set. -/
def hzAcked (m : Mach) (f : BitVec 3) (u : List (BitVec 128)) : Mach :=
  let num := ubits u 0 117 102
  let kind := ubits u 0 101 100
  let j := ubits u 0 99 97
  let hit := fun (o : HzOut) => o.port == f && o.kind.toNat == kind && (if kind = 3 then o.job.toNat == j else o.wave.toNat == num)
  if !m.linked f then m else { m with wave := { m.wave with out := m.wave.out.filter (fun o => !hit o) } }

/-- HZ_REPEAT: the sets of a port that no HZ_ACK has answered are sent again. -/
def hzRepeat (m : Mach) (f : BitVec 3) : Mach :=
  if !m.linked f then m
  else (m.wave.out.filter (fun o => o.port == f)).foldl (fun m o => o.units.foldl (fun m u => m.linkSend f u) m) m

/-- HZ_FRAME_ACK releases the slots of the frames up to its SEQ (R192, R372). -/
def hzFrameAck (m : Mach) (f : BitVec 3) (s : BitVec 12) : Mach :=
  if !m.linked f then m
  else
    let done := (m.port f).ledger.filter (fun r => seqLe r.seq s)
    let m := m.modPort f (fun x => { x with ledger := x.ledger.filter (fun r => !seqLe r.seq s) })
    (done.flatMap (·.slots)).foldl (fun m s => m.hubRelease s.1 s.2) m

/-- TIME from the parent corrects WALLTIME under SYNC_MODE 1; the root runs free (R207, R373). -/
def timeSymbol (m : Mach) (f : BitVec 3) (u : List (BitVec 128)) : Mach :=
  if !m.linked f || m.wave.parent != some f || m.objD 0x2500 0x03 1 != 1 then m
  else m.correctWall (ubits u 0 95 32 + (m.port f).rtt / 2)

end Mach

/-- HORIZON_DELIVERY, or a reduction found void by a die or the hub (R188, R445); a contribution it completes goes on its way (R191). -/
def execHorizonDelivery (void : Option (BitVec 3)) (s : State) : Res := s.on (fun m => (m.horizonDelivery void).waveStep)
/-- WAVE_START (R191). -/
def execWaveStart (s : State) : Res := s.on Mach.waveStart
/-- HZ_REQ (R372). -/
def execHzReq (f : BitVec 3) (u : List (BitVec 128)) (s : State) : Res :=
  s.on (fun m => m.takeSymbol f 0x10 u (fun m => m.hzReq f u))
/-- HZ_UP (R372). -/
def execHzUp (f : BitVec 3) (u : List (BitVec 128)) (s : State) : Res :=
  s.on (fun m => m.takeSymbol f 0x11 u (fun m => m.hzUp f u))
/-- HZ_DOWN (R372). -/
def execHzDown (f : BitVec 3) (u : List (BitVec 128)) (s : State) : Res :=
  s.on (fun m => m.takeSymbol f 0x12 u (fun m => m.hzDown f u))
/-- HZ_PAUSE (R372). -/
def execHzPause (f : BitVec 3) (u : List (BitVec 128)) (s : State) : Res :=
  s.on (fun m => m.takeSymbol f 0x13 u (fun m => m.hzPause f u))
/-- HZ_ACK (R372). -/
def execHzAck (f : BitVec 3) (u : List (BitVec 128)) (s : State) : Res :=
  s.on (fun m => m.takeSymbol f 0x14 u (fun m => m.hzAcked f u))
/-- HZ_REPEAT of a port (R372). -/
def execHzRepeat (f : BitVec 3) (s : State) : Res := s.on (fun m => m.hzRepeat f)
/-- HZ_FRAME_ACK (R372). -/
def execHzFrameAck (f : BitVec 3) (u : List (BitVec 128)) (s : State) : Res :=
  s.on (fun m => m.takeSymbol f 0x15 u (fun m => m.hzFrameAck f (BitVec.ofNat 12 (ubits u 0 117 106))))
/-- TIME (R373). -/
def execTime (f : BitVec 3) (u : List (BitVec 128)) (s : State) : Res :=
  s.on (fun m => m.takeSymbol f 0x16 u (fun m => m.timeSymbol f u))

end Sys2Proof.Machine
end

