-- ==== Sys2Proof/Machine/Loader.lean ====
section
/-! DEFINITION. Loading and unloading jobs: staging and job regions, LOAD, the steps of Table 12-8, failed loads, and UNLOAD (R234, R268 to R279, Table 15-8). -/

namespace Sys2Proof.Machine

/-- Where the pool of job regions begins (R234). -/
def poolBase : Nat := 0x140000000

/-- A size rounded up to the granule of 2 MiB. -/
def granule (n : Nat) : Nat := (n + 2 ^ 21 - 1) / 2 ^ 21 * 2 ^ 21

/-- The regions of a job. -/
def Job.regions (b : Job) : List Region := [b.nodeRec, b.nodeState, b.fanout, b.code, b.dmem, b.probe, b.staging]

/-- The settled record a load writes, after S0 to S15 (Table 12-6). -/
def freshSettled : List Word :=
  List.replicate 8 (BitVec.allOnes 64) ++ [0xFFFFFFFFFFFF, 0xFFFFFFFFFFFF, BitVec.allOnes 64, 0xFFF,
    BitVec.allOnes 64, 0xFFF, BitVec.allOnes 64, 0xFFF]

namespace Mach

/-! Regions (R234, R272, R274) -/

/-- The regions of every job, in address order. -/
def heldRegions (m : Mach) : List Region :=
  sortBy (fun (x y : Region) => decide (x.base < y.base)) ((allJobs.flatMap (fun j => (m.job j).regions)).filter (fun r => r.size != 0))

/-- The lowest place of the pool where a size fits. -/
def poolPlace (m : Mach) (n : Nat) : Option Nat :=
  let a := m.heldRegions.foldl (fun (a : Nat) r => if a + n ≤ r.base then a else Nat.max a (r.base + r.size)) poolBase
  if a + n ≤ hbmSize m.part then some a else none

/-- Bytes all jobs hold in one kind of region. -/
def heldKind (m : Mach) (f : Job → Region) : Nat := ((allJobs.map (fun j => (f (m.job j)).size))).foldl (· + ·) 0

/-- Every aperture entry that names a page of a region becomes invalid (R319). -/
def apertureDrop (m : Mach) (r : Region) : Mach :=
  if r.size = 0 then m
  else
    { m with funcs := m.funcs.map (fun (e : Nat × Func) => (e.1, { e.2 with ap := e.2.ap.map (fun (q : Nat × Word) =>
        let base := bits q.2 37 21 * 2 ^ 21
        (q.1, if q.2.getLsbD 63 && decide (r.base ≤ base ∧ base < r.base + r.size) then q.2 &&& ~~~(1#64 <<< 63) else q.2)) })) }

/-- Free a region: zero-filled where asked, and its aperture entries invalid. -/
def freeRegion (m : Mach) (r : Region) (zero : Bool) : Mach := (if zero then m.hbmZero r.base r.size else m).apertureDrop r

/-- Whether a load of a job is QUEUED. -/
def loadQueued (m : Mach) (j : JobId) : Bool := m.loads.any (fun x => x.1 == j)

/-- A write of STAGING_MIB (R274). -/
def stagingMib (m : Mach) (j : JobId) (n : Nat) : Err × Mach :=
  if m.loadQueued j then (.busy, m)
  else
    let b := m.job j
    let old := b.staging
    let size := n * 2 ^ 20
    let top := if m.part = .p4830 then 2 ^ 33 else 2 ^ 34
    let free := fun (m : Mach) => (m.freeRegion old b.enc).modJob j (fun x => { x with staging := {} })
    let m' := free m
    if n = 0 then (.ok, m'.setObj (0x3000 + 0x100 * j.toNat) 0x63 0)
    else if top < m'.heldKind (·.staging) + size then (.badValue, m)
    else
      match m'.poolPlace size with
      | none => (.badValue, m)
      | some a =>
        (.ok, ((m'.hbmZero a size).modJob j (fun x => { x with staging := ⟨a, size⟩ })).setObj (0x3000 + 0x100 * j.toNat) 0x63 n)

/-! Releasing a job (R21, R272, R277, Table 15-8) -/

/-- Release the streams and triggers of a job, with their counters and filter entries. -/
def releaseProbes (m : Mach) (j : JobId) : Mach :=
  let ss := m.jobStreams j
  let ts := (m.triggers.filter (fun e => e.2.job == some j)).map (·.1)
  let m := ss.foldl (fun m s => ({ m with streams := SMap.erase m.streams s }).clearIdx (0x4F00 + s)) m
  let m := ts.foldl (fun m t => ({ m with triggers := SMap.erase m.triggers t }).clearIdx (0x4F40 + t)) m
  { m with coll := m.coll.filter (fun x => x.2.job != j), collCancels := m.collCancels.filter (fun c => c.job != j), probeOvf := m.probeOvf &&& ~~~(1#8 <<< j.toNat),
           tiles := m.tiles.map (fun (e : Nat × Tile) => (e.1, { e.2 with filter := e.2.filter.filter (·.job != j) })) }

/-- At its load a job's W is WINDOW in each tile of its tile set, and its part of the governor period begins (R179). -/
def windowsAtLoad (m : Mach) (j : JobId) : Mach :=
  (((List.range 64).map (BitVec.ofNat 6)).filter (m.inTileSet j)).foldl (fun m (t : TileId) =>
    m.modTile t (fun x => { x with
      win := SMap.set x.win j.toNat (BitVec.ofNat 64 (m.window j)), streak := SMap.erase x.streak j.toNat,
      pSpec := SMap.erase x.pSpec j.toNat, pRb := SMap.erase x.pRb j.toNat,
      loadPeak := SMap.set x.loadPeak j.toNat x.journal.length })) m

/-- What PEs and tiles hold of a job goes; the slices that held entries of it signal them freed (R172). -/
def dropJobState (m : Mach) (j : JobId) : Mach :=
  let no := fun {α : Type} (l : SMap α) => SMap.erase l j.toNat
  { m with
    hubWait := m.hubWait.filter (fun x => x.2.1.job != j)
    pes := m.pes.map (fun (e : Nat × Pe) => (e.1, { e.2 with
      ctxs := e.2.ctxs.filter (fun c => c.2.job != j), emitQ := e.2.emitQ.filter (fun q => q.job != j),
      refused := if (m.tile (BitVec.ofNat 6 (e.1 / 128))).journal.any (fun q => q.2.job == j) then 0
        else e.2.refused &&& ~~~(1#8 <<< j.toNat) })),
    clusters := m.clusters.map (fun (e : Nat × Cluster) => (e.1, { e.2 with hreg := no e.2.hreg })),
    tiles := m.tiles.map (fun (e : Nat × Tile) =>
      let gone := (e.2.journal.filter (fun q => q.2.job == j)).map (·.1)
      (e.1, { e.2 with
        journal := e.2.journal.filter (fun q => q.2.job != j), pend := e.2.pend.filter (·.job != j),
        holds := e.2.holds.filter (·.job != j), storeQ := e.2.storeQ.filter (fun q => !(q.head ∈ gone)),
        reqs := e.2.reqs.filter (fun q => q.job != j || q.tid.isSome),
        rbq := e.2.rbq.filter (·.job != j), rbOut := e.2.rbOut.filter (·.job != j), rbOvfMin := no e.2.rbOvfMin,
        win := no e.2.win, loadPeak := no e.2.loadPeak, streak := no e.2.streak, pSpec := no e.2.pSpec, pRb := no e.2.pRb, hreg := no e.2.hreg })) }

/-- Counter indices of a job that unloading clears. -/
def jobCounters (j : JobId) : List Nat :=
  [0x4200, 0x4300, 0x4400, 0x4500, 0x4600, 0x4800, 0x4E10, 0x4F80].map (· + j.toNat)

/-- The objects of the last load that unloading clears (R279); LOAD_TIME_US stays. -/
def clearLoad (m : Mach) (j : JobId) : Mach :=
  { m with objs := m.objs.filter (fun e => !(e.1 / 256 == 0x4B00 + j.toNat && decide (e.1 % 256 ≤ 4))) }

/-- Take a job to EMPTY: its tokens are absorbed, streams and triggers released, regions zero-filled and freed but for staging, and its counters cleared. -/
def unloadJob (m : Mach) (j : JobId) : Mach :=
  let b := m.job j
  let m := ((m.absorbJob j).dropJobState j).releaseProbes j
  let m := [b.nodeRec, b.nodeState, b.fanout, b.code, b.dmem, b.probe].foldl (fun m r => m.freeRegion r true) m
  let m := if m.objD 0x2500 0x06 0xFF = j.toNat then { m with tgt := { m.tgt with vals := [] } } else m
  let m := m.setJobState j .empty
  let m := m.modJob j (fun x => { ({} : Job) with staging := x.staging, govMode := x.govMode })
  ((jobCounters j).foldl clearIdx m).clearLoad j

/-! A load (R273, R275, R277) -/

/-- Record a load's status. -/
def loadStatus (m : Mach) (j : JobId) (v : Nat) : Mach := m.setObj (0x4B00 + j.toNat) 0x01 v

/-- The end of a load: its status and offset, and the command that waits for it. -/
def loadEnd (m : Mach) (j : JobId) (pair : Option (BitVec 6)) (since : Nat) (status off : Nat) : Mach :=
  let m := ((m.loadStatus j status).setObj (0x4B00 + j.toNat) 0x02 off).setObj (0x4B00 + j.toNat) 0x05
    (if m.wallRun then (m.wall - since) / 1000 % 2 ^ 32 else 0)
  match pair with
  | some k => m.completeCmd k.toNat 0 (BitVec.ofNat 32 status)
  | none => m

/-- A load that fails: status, offset and DESIGN_ID are logged. -/
def loadFail (m : Mach) (j : JobId) (pair : Option (BitVec 6)) (since : Nat) (e : LoadErr) (design : List Byte) : Mach :=
  let w := bytesWords (design ++ List.replicate 16 0)
  (m.logErr 0 0x11 e.status (some j) 0 (BitVec.ofNat 64 e.status) (BitVec.ofNat 64 e.off) (w.getD 0 0) (w.getD 1 0)).loadEnd
    j pair since e.status e.off

/-- The write of LOAD := 1, or the LOAD command: accepted for an EMPTY job with no load queued and a range within its staging region (R273). -/
def loadAsk (m : Mach) (j : JobId) (v : Nat) (pair : Option (BitVec 6)) : Err × Mach :=
  let b := m.job j
  let a := m.jobObj j 0x60 0
  let n := m.jobObj j 0x61 0
  if b.state ≠ .empty then (.state, m)
  else if !m.feature 3 && j != 0 then (.state, m)
  else if m.loadQueued j then (.busy, m)
  else if v ≠ 1 ∨ n < 512 ∨ a < b.staging.base ∨ b.staging.base + b.staging.size < a + n then (.badValue, m)
  else (.ok, ({ m with loads := m.loads ++ [(j, pair, m.wall)] }).loadStatus j 1)

/-- The first line of a range of the image that cannot be read (HARDWARE). -/
def readable (m : Mach) (base o n : Nat) : Load Unit :=
  match (halvesOf (base + o) n).find? (fun h => let c := m.halfCheck h; c == .poison || c == .bad) with
  | some h => .error ⟨0x21, h / 64 * 64 - base⟩
  | none => .ok ()

/-- A region step 10 asks for: its size, the bytes all jobs may hold of its kind, whether its size is one the part takes, its place in a job, and the field that sizes it. -/
structure RegionAsk where
  size : Nat
  top : Nat
  ok : Bool := true
  kind : Job → Region
  set : Job → Region → Job
  off : Nat

/-- The regions of a job in the order of step 10. -/
def regionAsks (m : Mach) (g : Img) (z : Ezi) (p : PartMap) : List RegionAsk :=
  let small := m.part = .p4830
  let gib := fun (a b : Nat) => (if small then b else a) * 2 ^ 30
  let lenAt := fun t => match z.sec t with
    | some s => s.at_ + 16
    | none => 0
  let n := p.total
  let code := (z.range 2).2 - 16
  let mib := ((streamSizes g z).map (·.2)).foldl (· + ·) 0
  let fits := decide (n ≤ if small then 89478485 else 178956970)
  [ { size := 64 * n, top := gib 64 32, ok := fits, kind := (·.nodeRec), set := fun x r => { x with nodeRec := r }, off := lenAt 3 },
    { size := 384 * n, top := gib 64 32, kind := (·.nodeState), set := fun x r => { x with nodeState := r }, off := lenAt 3 },
    { size := (z.range 4).2, top := gib 16 8, kind := (·.fanout), set := fun x r => { x with fanout := r }, off := lenAt 4 },
    { size := code, top := 2 ^ 35, ok := decide (granule code ≤ 2 ^ 32), kind := (·.code), set := fun x r => { x with code := r },
      off := lenAt 2 },
    { size := p.dmSize, top := gib 64 32, kind := (·.dmem), set := fun x r => { x with dmem := r }, off := (z.range 1).1 + 0x30 },
    { size := mib * 2 ^ 20, top := gib 64 32, kind := (·.probe), set := fun x r => { x with probe := r }, off := (z.range 9).1 } ]

/-- Step 10: the regions of a job allocated in order, as far as they fit; the field that sizes the first that does not (CAPACITY). -/
def allocate (m : Mach) (j : JobId) (l : List RegionAsk) : Mach × Option LoadErr :=
  match l with
  | [] => (m, none)
  | q :: r =>
    let size := granule q.size
    if !q.ok then (m, some ⟨0x1A, q.off⟩)
    else if size = 0 then m.allocate j r
    else if q.top < m.heldKind q.kind + size then (m, some ⟨0x1A, q.off⟩)
    else
      match m.poolPlace size with
      | some a => (m.modJob j (fun x => q.set x ⟨a, size⟩)).allocate j r
      | none => (m, some ⟨0x1A, q.off⟩)

/-- The record a load writes for a node: the image's words, with no firing recorded and generation 0 (Table 12-5, R261). -/
def freshRecord (g : Img) (z : Ezi) (i : Nat) : List Word :=
  let w := fun k => recWord g z i k
  [w 0, BitVec.allOnes 64, at64 0xFFF 52 ||| (w 2 &&& 0xFFFFFFFFFF), w 3, w 4, w 5, w 6, w 7]

/-- The node-state block a load writes from a held-value block (Table 12-6). -/
def freshState (held : List Byte) : List Byte := held ++ held ++ wordsBytes freshSettled

/-- Write the contents of the regions, step 11 and step 13. -/
def fillRegions (m : Mach) (j : JobId) (g : Img) (z : Ezi) (p : PartMap) (init : SMap (List Byte)) (dm : List (Nat × List Byte)) : Mach :=
  let b := m.job j
  let n := p.total
  let c := z.range 2
  let wr := fun (m : Mach) a d => if d = [] then m else m.hbmWrite a d
  let m := wr m b.nodeRec.base ((List.range n).flatMap (fun i => wordsBytes (freshRecord g z i)))
  let m := wr m b.fanout.base (g.slice (z.range 4).1 (z.range 4).2)
  let m := wr m b.code.base (g.slice (c.1 + 16) (c.2 - 16))
  let m := wr m b.nodeState.base ((List.range n).flatMap (fun i => freshState (SMap.getD init i (List.replicate 128 0))))
  let m := m.hbmZero b.dmem.base b.dmem.size
  dm.foldl (fun m (o, d) => wr m (b.dmem.base + o) d) m

/-- Place an initial token through Match: it joins its group or begins one. -/
def placeToken (m : Mach) (t : Token) : Mach :=
  let g := itemRef t
  match m.findGroup t.pe g with
  | some pl => m.mergeArrival t.pe pl g t
  | none => m.newGroup t.pe t

/-- Step 15: streams and triggers assigned, and the tiles' filters written. -/
def assignProbes (m : Mach) (j : JobId) (g : Img) (z : Ezi) : Mach :=
  let b := m.job j
  let (m, _) := (streamSizes g z).foldl (fun (acc : Mach × Nat) (s, mib) =>
    (acc.1.modStream s (fun _ => { job := some j, sizeMib := mib, base := acc.2 }), acc.2 + mib * 2 ^ 20)) (m, b.probe.base)
  let put := fun (m : Mach) (n : NodeId) (f : Filter) => m.modTile (peTile (nodePe n)) (fun x => { x with filter := x.filter ++ [f] })
  let ps := probeEnts g z
  let m := ps.foldl (fun m e => put m e.node ⟨j, e.node, e.kind, e.sel, some e.stream, none, e.id⟩) m
  (triggerEnts g z).foldl (fun m (t, _, w) =>
    let g0 := w.getD 0 0
    let node : NodeId := g0.truncate 40
    let pid := match ps.find? (fun e => e.stream.toNat == bits g0 51 46 && e.node == node && e.kind.toNat == bits g0 45 44
        && e.sel.toNat == bits g0 42 40) with
      | some e => e.id
      | none => 0xFFFFFFFF
    let m := m.modTrigger t (fun _ => { job := some j, g := w, armed := g0.getLsbD 63, probeId := pid })
    put m node ⟨j, node, g0.extractLsb' 44 2, g0.extractLsb' 40 3, none, some (BitVec.ofNat 6 t), 0xFFFFFFFF⟩) m

/-- Steps 1 to 10 of Table 12-8 but for the allocation: the image as read, in plain text, and its header and partition map. -/
def loadFirst (m : Mach) (v : Vault) (j : JobId) : Load (Img × Img × Ezi × PartMap) := do
  let base := m.jobObj j 0x60 0
  let n := m.jobObj j 0x61 0
  let _ ← m.readable base 0 256
  let hdr : Img := (memBytes m.mem base 256).toArray
  let tab := 32 * Nat.min 10 (hdr.getD 0x38 0).toNat
  let _ ← m.readable base 256 tab
  let raw : Img := (memBytes m.mem base n).toArray
  let g := raw
  let z ← imageHeader g n
  let _ ← z.secs.forM (fun s => m.readable base s.off s.len)
  imageCrcs g z
  if z.signed then m.readable base 0 z.len
  imageSigned g z v
  let req : BitVec 128 := BitVec.ofNat 128 (g.num 0x20 16)
  check (req &&& ~~~m.features == 0) 0x16 0x20
  check (!z.enc || m.feature 4) 0x16 0x35
  check (g.num 0x30 4 == m.jobObj j 0x01 1000) 0x17 0x30
  check (g.num 0x34 1 == m.number.toNat) 0x18 0x34
  if z.enc then m.readable base z.payOff z.payLen
  let g ← imageOpen g z v
  let p ← partition g z m.number
  check (m.feature 6 || p.mask == (1#256 <<< m.number.toNat)) 0x16 (z.range 1).1
  lengthRules g z p
  let tiles : BitVec 64 := BitVec.ofNat 64 (m.jobObj j 0x02 0) &&& ~~~m.ms.failTiles
  check (p.tiles &&& ~~~tiles == 0) 0x19 ((z.range 1).1 + 0x20)
  streamCheck g z
  return (raw, g, z, p)

/-- The second reading of step 11: the header, the section table and every section are read again; the image copied, in plain text, where every check agrees with the one found before (CHANGED). -/
def loadAgain (m : Mach) (v : Vault) (j : JobId) (raw : Img) (z : Ezi) : Load Img := do
  let base := m.jobObj j 0x60 0
  let _ ← m.readable base 0 (256 + 32 * z.secs.length)
  let _ ← z.secs.forM (fun s => m.readable base s.off s.len)
  if z.signed then m.readable base 0 z.sigOff
  if z.enc then m.readable base z.payOff z.payLen
  let g2 : Img := (memBytes m.mem base (m.jobObj j 0x61 0)).toArray
  match imageChanged raw g2 z v with
  | some off => .error ⟨0x20, off⟩
  | none => imageOpen g2 z v

/-- Steps 11 to 16 of Table 12-8: every check of the contents, then the regions filled, tokens placed, probes assigned, and the job LOADED. -/
def loadRest (m : Mach) (j : JobId) (g : Img) (z : Ezi) (p : PartMap) : Load Mach := do
  codeCheck g z
  recordCheck g z p
  fanoutCheck g z p m.number
  let init ← nodeInit g z p m.number
  let dm ← dmInit g z p.dmSize
  let toks ← initialTokens g z p m.number
  let others := fun (x : Option JobId) => x.isSome && x != some j
  probeCheck g z p m.number ((m.streams.filter (fun e => others e.2.job)).map (·.1)) ((m.triggers.filter (fun e => others e.2.job)).map (·.1))
    (fun t => ((m.tile (BitVec.ofNat 6 t)).filter.filter (fun f => f.job != j)).length)
  let first : Tag := match toks with
    | (t, _) :: _ => t
    | [] => {}
  let c := (z.range 2).1
  let m := m.modJob j (fun x => { x with
    codeLen := g.num c 4, constLen := g.num (c + 4) 4, dmSize := p.dmSize, fanLen := (z.range 4).2,
    ncount := p.ncount, look := p.look, moduleMask := p.mask, tileMask := p.tiles, designId := g.slice 0x10 16, enc := z.enc,
    gvt := first, sh := first })
  let m := m.fillRegions j g z p init dm
  let m := toks.foldl (fun m (_, t) => m.placeToken { t with w0 := t.w0 ||| at64 j.toNat 46 }) m
  let m := m.assignProbes j g z
  return ((m.setObj (0x4B00 + j.toNat) 0x04 p.total).windowsAtLoad j).setJobState j .loaded

/-- The image range is read: corrected halves are written back, and a lost one is met where the load fails for it. -/
def readImage (m : Mach) (j : JobId) (lost : Bool) : Mach :=
  ((halvesOf (m.jobObj j 0x60 0) (m.jobObj j 0x61 0)).filter (fun h =>
    let c := m.halfCheck h
    c == .corrected || (lost && (c == .bad || c == .poison)))).foldl (fun m h => (m.halfRead h).2) m

/-- The bytes of a host write reach HBM at a module address. -/
def hostStore (m : Mach) (a : Nat) (d : List Byte) : Mach := m.hbmWrite (m.alias_ a) d

/-- The host writes held until a load has read its image the first time reach HBM, in order (R276). -/
def lateWrites (m : Mach) : Mach :=
  m.hostW.foldl (fun m e => m.hostStore e.1 e.2) { m with hostW := [] }

/-- Drop what a failed load allocated: its regions are zero-filled and freed (R277). -/
def dropRegions (m before : Mach) (j : JobId) : Mach :=
  let b := m.job j
  { [b.nodeRec, b.nodeState, b.fanout, b.code, b.dmem, b.probe].foldl (fun m r => m.hbmZero r.base r.size) m with jobs := before.jobs }

/-- LOAD_START: the oldest accepted load runs to its end; a failed one leaves the job as it was, with what was allocated zero-filled and freed (R275 to R277). It reads and writes HBM throughout, and waits while a unit of it is being copied (R252). -/
def loadStart (m : Mach) (v : Vault) : Mach :=
  match m.loads with
  | [] => m
  | (j, pair, since) :: r =>
    if m.ms.copying != [] then m else
    let m := (({ m with loads := r }).loadStatus j 2).readImage j false
    let design := memBytes m.mem (m.jobObj j 0x60 0 + 0x10) 16
    let failed := fun (m : Mach) (e : LoadErr) => (m.readImage j (e.status == 0x21)).loadFail j pair since e design
    match m.loadFirst v j with
    | .error e => failed m.lateWrites e
    | .ok (raw, g, z, p) =>
      let (m1, e) := m.allocate j (m.regionAsks g z p)
      let m1 := m1.lateWrites
      match e with
      | some e => failed (m1.dropRegions m j) e
      | none =>
        match (m1.loadAgain v j raw z).bind (fun g2 => m1.loadRest j g2 z p) with
        | .ok m' => m'.loadEnd j pair since 0 0
        | .error e => failed (m1.dropRegions m j) e

/-- The queued loads of jobs bound to a lost function fail with ABORTED (R277); host writes held for a load reach HBM where none is left. -/
def abortLoads (m : Mach) (lost : JobId → Bool) : Mach :=
  let out := m.loads.filter (fun x => lost x.1)
  let m := if m.loads.all (fun x => lost x.1) then m.lateWrites else m
  out.foldl (fun m (j, pair, since) => m.loadFail j pair since ⟨0x22, 0⟩ (memBytes m.mem (m.jobObj j 0x60 0 + 0x10) 16))
    { m with loads := m.loads.filter (fun x => !lost x.1) }

/-- UNLOAD, in the states of Table 15-8. -/
def unload (m : Mach) (j : JobId) : Err × Mach :=
  match (m.job j).state with
  | .loaded | .paused | .halted | .timeExhausted | .faulted => (.ok, m.unloadJob j)
  | _ => (.state, m)

end Mach

/-- LOAD_START (R275, R276). -/
def execLoadStart (s : State) : Res := s.on (fun m => m.loadStart s.vault)

end Sys2Proof.Machine
end

