-- ==== Sys2Proof/Machine/Power.lean ====
section
/-! DEFINITION. Supply, resets, boot, Snowdrop, the power controller and JTAG: what moves the module between its states (chapters 19 and 20). -/

namespace Sys2Proof.Machine

/-- Objects the configuration area of the flash keeps (R256, R376). -/
def configObj (k : Nat) : Bool :=
  k == 0x6000 * 256 + 1 || k == 0x6000 * 256 + 2 || k == 0x2700 * 256 + 3 || k == 0x2700 * 256 + 5

/-- The tiles of a mask. -/
def maskTiles (v : BitVec 64) : List TileId := ((List.range 64).filter (fun t => v.getLsbD t)).map (BitVec.ofNat 6)

namespace Mach

/-- Whether the always-on domain runs (R397, R429). -/
def awake (m : Mach) : Bool := m.pw.vinUp && m.pw.refclk
/-- Whether the hub domain runs: its rail is the first to come up and the last to go down, and Snowdrop keeps it (R403, R414). -/
def hubOn (m : Mach) : Bool := m.pw.rails.getLsbD 0
/-- Main rails Snowdrop keeps: hub die, HBM and PCIe SerDes; those of the compute dies and of the Fabric SerDes go down (R414). -/
def snowRails : BitVec 10 := 0x20F
/-- The FEATURE word offered on B0 (R327). -/
def featureOffer : BitVec 128 := 0x17F

/-- A cause of FAULT: the main rails go down where it says so; in FAULT already, it is logged (R397, R402, R404). -/
def faultNow (m : Mach) (railsDown : Bool) (block loc : Nat) (d0 d1 d2 d3 : Word := 0) : Mach :=
  if m.mstate = 8 then (m.logErr 4 block 0 none loc d0 d1 d2 d3).hubReset railsDown
  else m.enterFault railsDown block loc d0 d1 d2 d3

/-- A cause of FAULT of the supply, with what Table 21-5 records for it. -/
def powerFault (m : Mach) : Mach :=
  if m.mstate.toNat < 2 then m
  else m.faultNow true 0x13 0 (BitVec.ofNat 64 m.pw.vinMv) (BitVec.ofNat 64 m.pw.vinMa) m.tjWord (BitVec.ofNat 64 m.resetHeldMs)

/-! Supply and clock (R397, R429, R434, R451) -/

/-- The always-on domain starts: the node-ID pins are sampled, the entries of the non-volatile store go to the head of the log, those that stand in it too, and the module is in STANDBY, but for one that a thermal trip keeps in FAULT until VIN goes (R402, R451). -/
def alwaysOnStart (m : Mach) : Mach :=
  let back := m.err.nv.map (fun (e : ErrEntry) => { e with w2 := e.w2 ||| at64 3 58 })
  let rest := m.err.log.filter (fun (x : ErrEntry) => !m.err.nv.any (fun (e : ErrEntry) => x.seq == e.seq && !x.w2.getLsbD 58))
  let m := { m with err := { m.err with log := back ++ rest, nv := [] }, pw := { m.pw with nodePins := m.pw.nodeLevel } }
  if m.mstate == 1 || m.pw.trip then m else m.moveTo 1

/-- VIN rises above 4.5 V. -/
def vinRise (m : Mach) (mv : Nat) (node : BitVec 7) : Mach :=
  if m.pw.vinUp ∨ mv ≤ 4500 then m
  else
    let m := m.modPw (fun x => { x with vinUp := true, vinMv := mv, nodeLevel := node, bootReq := true })
    if m.pw.refclk then m.alwaysOnStart else m

/-- VIN falls below 4.2 V: OFF, and every state is lost but the flash and the non-volatile store. -/
def vinLoss (m : Mach) : Mach :=
  { objs := m.objs.filter (fun e => configObj e.1), part := m.part, epoch := m.epoch, flash := m.flash, repairLog := m.repairLog, hardRows := m.hardRows, err := { nv := m.err.nv },
    sent := m.sent, free := m.free, mstate := 0,
    pw := { vinUp := false, refclk := m.pw.refclk, perst := m.pw.perst, nodeLevel := m.pw.nodeLevel } }

/-- VIN as averaged: a crossing of 10.0 V or 7.0 V in either direction raises source 163 while the hub domain runs. -/
def vinLevel (m : Mach) (mv : Nat) : Mach :=
  if !m.awake then m
  else
    let old := m.pw.vinMv
    let cross := fun (v : Nat) => decide (old < v) != decide (mv < v)
    let m := m.modPw (fun x => { x with vinMv := mv })
    if (cross 10000 || cross 7000) && m.hubOn then m.raiseSource 163 else m

/-- VIN below 6.5 V. -/
def brownOut (m : Mach) (mv : Nat) : Mach := if 6500 ≤ mv ∨ !m.awake then m else (m.vinLevel mv).powerFault
/-- VIN above 18.5 V. -/
def overvoltage (m : Mach) (mv : Nat) : Mach := if mv ≤ 18500 ∨ !m.awake then m else (m.vinLevel mv).powerFault

/-- REFCLK is lost: the always-on domain is held in reset, with RESET_HELD and RESET_HELD_MS at 0; the management agent's locks are freed, its transfer, its events and the override window end (R14, R313, R429). REFCLK is the only source of the hub's and the cores' clocks too: nothing runs until it is back, and what runs then has lost every job, so that the domains' reset is made here (log entry 57). -/
def refclkLoss (m : Mach) : Mach :=
  if !m.pw.refclk then m
  else
    let m := ((m.ownerDeath 0x30).clearIdx 0x4100).clearIdx 0x5000
    let m := (if 1 < m.mstate.toNat then m.recordLost else m).hubReset true
    { m with mstate := if m.pw.trip then m.mstate else 0
             busOff := none, sop := {}, evFrames := [], evLost := false, agent := none, agentQ := [], err := { m.err with sel := 0 },
             pw := { m.pw with refclk := false, ovrWin := false, held := false, heldSince := 0, heldMs := 0 } }

/-- REFCLK meets its requirements: with VIN up the always-on domain starts, in STANDBY. -/
def refclkStart (m : Mach) (node : BitVec 7) : Mach :=
  if m.pw.refclk then m
  else
    let m := m.modPw (fun x => { x with refclk := true, nodeLevel := node })
    if m.pw.vinUp then m.alwaysOnStart else m

/-! Boot (R296, R407, R409) -/

/-- A boot starts from STANDBY when RESET_N is high or overridden, VIN permits it and a cause stands (R407). -/
def bootStart (m : Mach) : Mach :=
  if m.awake && m.mstate == 1 && (!m.pw.held || m.pw.ovr) && decide (7000 ≤ m.pw.vinMv) && m.pw.bootReq then m.enterBoot else m

/-- Why a firmware slot fails, none where it passes: 1 header, 2 signature or signer, 3 SVN (R295, R296). -/
def slotFault (m : Mach) (base : Nat) : Option Nat :=
  let num := fun (o n : Nat) => bytesNat (memBytes m.flash (base + o) n)
  let core := num 0x10 4
  let hub := num 0x14 4
  let sig := num 0x18 4
  let hubAt := (0x40 + core + 63) / 64 * 64
  if num 0 4 ≠ 0x57465A45 ∨ num 0x0A 6 ≠ 0 ∨ num 0x1C 32 ≠ 0 ∨ core < 4 ∨ 262144 < core ∨ core % 4 ≠ 0 ∨ 2 ^ 22 < hub
      ∨ 2 ^ 23 - 255 ≤ sig ∨ sig < 0x40 + core ∨ (0 < hub ∧ sig < hubAt + hub)
      ∨ (crc32 (memBytes m.flash base 0x3C)).toNat ≠ num 0x3C 4 then some 1
  else
    let g : Img := (memBytes m.flash base (sig + 256)).toArray
    if sha384 (g.slice sig 96) ≠ Config.fwSignerHash ∨ !g.zero (sig + 0xC0) 64 ∨ !signatureOk g sig then some 2
    else if num 8 2 < Config.fwMinSvn.toNat then some 3
    else none

/-- The parts of a slot are copied, and every service core leaves reset at pc 0 (R100, R296). -/
def slotBoot (m : Mach) (slot : Nat) : Mach :=
  let base := slot * 2 ^ 23
  let num := fun (o n : Nat) => bytesNat (memBytes m.flash (base + o) n)
  let core := memBytes m.flash (base + 0x40) (num 0x10 4)
  let hub := memBytes m.flash (base + (0x40 + num 0x10 4 + 63) / 64 * 64) (num 0x14 4)
  let mem := (List.range 16).foldl (fun mem c => memWrite mem (localBase + 0x40000 * c) core) (memWrite m.mem hubBase hub)
  let m := { m with mem := mem, fwVersion := BitVec.ofNat 32 (num 4 4),
                    cores := (List.range 16).map (fun c => (c, { run := CoreRun.running })) }
  ((m.setObj 0x1050 0x01 slot).setObj 0x1050 0x02 (num 4 4)).setObj 0x1050 0x03 (num 8 2)

/-- Boot stage 4: slot A, then slot B, each failure logged with the slot and its reason; both failing is a failed stage. -/
def firmwareLoad (m : Mach) : Bool × Mach :=
  let bad := fun (m : Mach) (slot why : Nat) => m.logErr 0 0x12 0 none 4 (BitVec.ofNat 64 slot) (BitVec.ofNat 64 why)
  match m.slotFault 0 with
  | none => (true, m.slotBoot 0)
  | some a =>
    match m.slotFault (2 ^ 23) with
    | none => (true, (bad m 0 a).slotBoot 1)
    | some b => (false, bad (bad m 0 a) 1 b)

/-- Bytes written into the configuration area, or into the repair log, of the flash: Table 13-9 lays out neither, so what the objects of the area and EPOCH, or the records of the log, are from then on is a free value, each within its range (log entry 90). -/
def flashFree (m : Mach) (area log : Bool) : Mach :=
  if !area && !log then m else
  let v := fun (k n : Nat) => Config.flashValue k m.free % n
  let m' := { m with free := m.free + 1 }
  let m' := if area then
      { ((((m'.setObj 0x6000 0x01 (v 0 256)).setObj 0x6000 0x02 (v 1 (2 ^ 64))).setObj 0x2700 0x03 (v 2 2)).setObj 0x2700 0x05 (v 3 2)) with
        epoch := BitVec.ofNat 16 (v 4 65536) }
    else m'
  if log then { m' with repairLog := Config.flashRepairs m.free } else m'

/-- The operation of the QSPI controller under way ends and leaves in the flash what it writes; of a flash of 32 MiB bytes past its end are none. -/
def flashDone (m : Mach) : Mach :=
  let op := m.flashOp
  let m := { m with flashOp := .keep }
  match op with
  | .keep => m
  | .write off d =>
    let a := off.toNat
    let d := d.take (2 ^ 25 - a)
    let meets := fun (lo hi : Nat) => decide (a < hi ∧ lo < a + d.length)
    ({ m with flash := memWrite m.flash a d }).flashFree (meets 0x1000000 0x1100000) (meets 0x1100000 0x1200000)
  | .repairs l => { m with repairLog := l }

/-- Tiles a stage found unusable: each is logged and removed (R246). -/
def dropTiles (m : Mach) (stage : Nat) (v : BitVec 64) : Mach :=
  ((maskTiles (v &&& ~~~m.ms.failTiles)).foldl (fun m t =>
    m.logErr 3 0x12 0 none stage (BitVec.ofNat 64 t.toNat)) m).removeTiles v

/-- Tiles that are not removed. -/
def goodTiles (m : Mach) : List TileId := maskTiles (~~~m.ms.failTiles)

/-- Every port with FL_ENABLE 1 trains. -/
def portsTrain (m : Mach) : Mach :=
  ((List.range 8).map (BitVec.ofNat 3)).foldl (fun m (f : BitVec 3) =>
    if m.objD (0x6010 + f.toNat) 0x01 1 = 1 then (m.modPort f (fun x => { x with seen := false })).flEnable f true else m) m

/-- Whether every enabled port has reached UP, HELD or DOWN since it began to train (R409). -/
def portsSeen (m : Mach) : Bool :=
  ((List.range 8).map (BitVec.ofNat 3)).all (fun (f : BitVec 3) => m.objD (0x6010 + f.toNat) 0x01 1 != 1 || (m.port f).seen)

/-- The dies none of whose tiles is left answer no more (Table 19-4, stage 7). -/
def diesOut (m : Mach) : BitVec 4 :=
  BitVec.ofNat 4 ((List.range 4).foldl (fun n d =>
    n + b2n (decide (bits m.ms.failTiles (16 * d + 15) (16 * d) = 0xFFFF)) * 2 ^ d) 0)

/-- The main rails come up, each once the one before it is in regulation (R403). -/
def railsUp (m : Mach) : Mach :=
  (List.range 10).foldl (fun m k => m.modPw (fun x => { x with rails := x.rails ||| (1#10 <<< k) })) m

/-- A boot stage ends well, and the next begins; stage 8 ends once every enabled port has reached UP, HELD or DOWN (Table 19-4). -/
def stagePassed (m : Mach) (n : Nat) (removed : BitVec 64) (lines : List BadLine) (units : List (BitVec 27)) (ms : Nat) : Mach :=
  let next := fun (m : Mach) => m.modPw (fun x => { x with stage := n + 1 })
  let fail := fun (m : Mach) (why : Nat) => m.faultNow false 0x12 n (BitVec.ofNat 64 why)
  let bist := fun (m : Mach) => m.modMs (fun x => { x with bistMs := x.bistMs + ms })
  match n with
  | 1 => next m.railsUp
  | 2 => next { m with wall := 0, wallRun := true, wallAhead := 0 }
  | 3 =>
    let (out, hub, m) := m.softRepairs lines
    let m := m.modMs (fun x => { x with softRepairs := x.soft.length })
    if hub then fail m 3 else next (bist (m.dropTiles 3 (removed ||| out)))
  | 4 =>
    let (ok, m) := m.firmwareLoad
    if ok then next m else fail m 1
  | 5 =>
    match (bist m).memoryRepair units with
    | some m => next m
    | none => fail m 4
  | 6 => next (let m := m.dropTiles 6 removed; m.calibrate m.goodTiles)
  | 7 =>
    let m := m.dropTiles 7 removed
    let m := { m with dieOut := m.diesOut }
    if m.dieOut = 15 then fail m 2 else next m.portsTrain
  | 8 => if m.portsSeen then (next m).mapUpdate 0 (m.partner 0) else m
  | _ => (m.modPw (fun x => { x with stage := 0 })).setMState 3

/-! Snowdrop (R309, R414 to R417) -/

/-- Whether the entry may begin: every function is in D3hot, or the link is down. -/
def snowAllowed (m : Mach) : Bool :=
  m.mstate == 3 && (!m.pw.linkUp || ((m.func 0).d3 && (List.range 8).all (fun j => !m.vfOn.getLsbD j || (m.func (1 + j)).d3)))

/-- Whether the save can be made: no active bit, no frame or entry, and every core stands in WAIT or no longer runs. -/
def snowReady (m : Mach) : Bool :=
  m.ic.now.act == 0 && (m.cores.map (·.2)).all (fun x => x.frames == [] && x.entry.isNone &&
    (match x.run with
      | .waiting | .held | .stopped => true
      | _ => false))

/-- The save, and all that Snowdrop does not keep goes; the module is in SNOWDROP. -/
def snowEnter (m : Mach) : Mach :=
  let m := { m with
    ic := { m.ic with kept := some (m.ic.now, m.ic.vec), wake := false, hist := [] },
    pes := [], clusters := [], tiles := [], net := {}, ports := [], lost := [], peerQ := [], wave := {}, map := [], flRt := [],
    peerHold := [], peerWait := [], pmsgs := [], coll := [], collCancels := [],
    ms := { m.ms with sramFlaw := [], sramInj := [], wbQ := [], ptLoc := [], ptData := [], chEnt := [], soft := m.ms.soft.filter (fun b => b.tile.isNone) },
    jtag := {},
    pw := { m.pw with rails := snowRails, shed := [], shedding := none, quiet := 0, avs := [], snow := none, syncOut := 0 } }
  m.moveTo 7

/-- The entry is given up: the ports start again and the module stays READY. -/
def snowCancel (m : Mach) : Mach :=
  ({ m with pw := { m.pw with snow := none }, ic := { m.ic with wake := false } }).portsTrain

/-- MODULE_CMD 2 accepted: the ports leave, and the save is made or tried again every 1 ms. -/
def snowBegin (m : Mach) : Mach :=
  let m := ((List.range 8).map (BitVec.ofNat 3)).foldl (fun m (f : BitVec 3) => if (m.port f).state = 0 then m else m.portDown f 0 2) m
  if m.snowReady then m.snowEnter else m.modPw (fun x => { x with snow := some 0 })

/-- A save is tried again: made, given up for a wake request, for a module that has left READY (Table 19-2), or after 100 ms, or still waiting; whether the write of MODULE_CMD 2 ends, and how. -/
def snowRetry (m : Mach) : Option Err × Mach :=
  match m.pw.snow with
  | none => (none, m)
  | some n =>
    if m.ic.wake || m.pw.waking then (some .state, m.snowCancel.modPw (fun x => { x with waking := false }))
    else if m.mstate ≠ 3 then (some .state, m.snowCancel)
    else if m.snowReady then (some .ok, m.snowEnter)
    else if 100 ≤ n + 1 then (some .state, m.snowCancel)
    else (none, m.modPw (fun x => { x with snow := some (n + 1) }))

/-- A wake request in SNOWDROP, or during the entry to it (R416, R417). -/
def wakeAsk (m : Mach) : Mach :=
  if m.mstate = 7 ∨ m.pw.snow.isSome then m.modPw (fun x => { x with waking := true }) else m

/-- The end of a wake: once every enabled port has reached UP, HELD or DOWN the map is built, and the module is READY (R416, Table 19-4). -/
def wakeDone (m : Mach) : Mach :=
  if m.pw.stage ≠ 8 ∨ !m.portsSeen then m
  else (((m.modPw (fun x => { x with stage := 0, waking := false })).mapUpdate 0 (m.partner 0)).setMState 3).wakeCores

/-- The wake runs: the rails come up, steps 1 to 6 of Table 11-5 have run for the compute dies, with soft repair and the Patch Table installed again, tiles that fail go, the interrupt controller is restored, leases start from 0, tiles are calibrated, FAULT follows where no die answers, and the ports train, whose stage ends the wake (R309, R313, R416). -/
def wakeRun (m : Mach) (failed : BitVec 64) (lines : List BadLine) : Mach :=
  if m.mstate ≠ 7 ∨ !(m.pw.waking || m.ic.wake) ∨ m.pw.stage = 8 then m
  else
    let m := m.railsUp.modPw (fun x => { x with waking := true })
    let (out, _, m) := m.softRepairs (lines.filter (fun b => b.tile.isSome))
    let m := (m.dropTiles 3 (failed ||| out)).patchReload
    let m := match m.ic.kept with
      | some (v, vec) => { m with ic := { m.ic with now := v, vec := vec, kept := none, wake := false, hist := [] } }
      | none => m
    let m := { m with locks := m.locks.map (fun (e : Nat × Lock) => (e.1, { e.2 with age := 0 })) }
    let m := m.calibrate m.goodTiles
    let m : Mach := { m with dieOut := m.diesOut }
    if m.dieOut = (15 : BitVec 4) then m.faultNow false 0x12 7 2
    else (m.portsTrain.govRestart.modPw (fun x => { x with stage := 8 })).wakeDone

/-- BOOT_STAGE: the stage in progress ends, of a boot or of a wake; stages 6, 8 and 9 cannot fail (R409, R416, Table 19-4). -/
def bootStage (m : Mach) (r : StageEnd) : Mach :=
  let may := !(m.pw.stage == 6 || decide (8 ≤ m.pw.stage))
  match m.mstate.toNat, r with
  | 2, .ok removed lines units ms => m.stagePassed m.pw.stage removed lines units ms.toNat
  | 2, .failed why => if may then m.faultNow (m.pw.stage == 1) 0x12 m.pw.stage (why.zeroExtend 64) else m
  | 7, .ok removed lines _ _ => if m.pw.stage = 8 then m.wakeDone else m.wakeRun removed lines
  | 7, .failed why => if may && (m.pw.waking || m.ic.wake) then m.faultNow false 0x12 5 (why.zeroExtend 64) else m
  | _, _ => m

/-! RESET_N (R411 to R413) -/

/-- RESET_N is recognised low; under the override only RESET_HELD follows it, and so it does after a thermal trip, for which the module stays in FAULT until VIN goes (R402). -/
def resetAssert (m : Mach) : Mach :=
  if !m.awake || m.pw.held then m
  else
    let m := m.modPw (fun x => { x with held := true, heldSince := m.quanta })
    if m.pw.ovr || m.pw.trip then m
    else if m.mstate = 1 then m.hubReset true
    else m.enterStandby

/-- RESET_N is recognised high: RESET_HELD_MS stays, and a boot starts. -/
def resetRelease (m : Mach) : Mach :=
  if !m.awake || !m.pw.held then m
  else
    let ms := m.resetHeldMs
    let m := m.modPw (fun x => { x with held := false, heldMs := ms })
    if m.pw.ovr then m else (m.modPw (fun x => { x with bootReq := true })).bootStart

/-- OVR_UNLOCK is accepted: its window of 1 s opens anew. -/
def ovrUnlock (m : Mach) : Mach := m.modPw (fun x => { x with ovrWin := true })
/-- Whether OVR_RELEASE passes its tests of state. -/
def ovrMay (m : Mach) : Bool := m.pw.ovrWin && m.pw.held && !m.pw.ovr
/-- The override is applied: logged for good, reported by event frame 0x05, and a boot starts. -/
def ovrRelease (m : Mach) : Mach :=
  let m := m.modPw (fun x => { x with ovr := true, ovrWin := false, bootReq := true })
  let m := m.logErr 0 0x13 0 none 0 (BitVec.ofNat 64 m.pw.vinMv) (BitVec.ofNat 64 m.pw.vinMa) m.tjWord (BitVec.ofNat 64 m.resetHeldMs) true
  (m.evFrame [5]).bootStart

/-! MODULE_CMD (R404) -/

/-- Whether MODULE_CMD accepts a value in the present state; a value it does not know passes here and fails its range. -/
def moduleCmdMay (m : Mach) (v : Nat) : Bool :=
  match v with
  | 1 => m.mstate == 1 && decide (7000 ≤ m.pw.vinMv)
  | 2 => m.snowAllowed && m.pw.snow.isNone
  | 3 => m.mstate == 7
  | 4 => decide (3 ≤ m.mstate.toNat) && !m.pw.trip && decide (7000 ≤ m.pw.vinMv)
  | 5 => decide (3 ≤ m.mstate.toNat) && !m.pw.trip
  | _ => true

/-- The effect of an accepted MODULE_CMD. -/
def moduleCmd (m : Mach) (v : Nat) : Mach :=
  match v with
  | 1 => (m.modPw (fun x => { x with bootReq := true })).bootStart
  | 2 => m.snowBegin
  | 3 => m.wakeAsk
  | 4 => m.enterBoot
  | 5 => m.enterStandby
  | _ => m

/-! The power controller (R398 to R402) -/

/-- CORE_MHZ, and the core clock as shed. -/
def coreMhz (m : Mach) : Nat := if m.part = .p9626 then 2600 else 3000
def clockMhz (m : Mach) : Nat :=
  let top := Nat.min m.coreMhz (m.objD 0x2000 0x03 m.coreMhz)
  Nat.max 1000 (top - 100 * ((m.pw.shed.filter (· == .clock)).length + m.pw.wornSteps))
/-- Throttle level, 0 to 3: Fire issues in 1 of every 2^level issue cycles. -/
def throttle (m : Mach) : Nat := (m.pw.shed.filter (· == .throttle)).length
/-- The effective cap in watts. -/
def powerCap (m : Mach) : Nat := Nat.min (m.objD 0x2000 0x01 864) (72 * m.pw.vinMv / 1000)
/-- A cause to drive ALERT_N low stands (R403). -/
def alert (m : Mach) : Bool := m.pw.shed != [] || m.pw.wornSteps != 0 || m.pw.thermal || m.mstate == 8

/-- While VIN is below 4.5 V the open-drain outputs are released (R433). -/
def released (m : Mach) : Bool := decide (m.pw.vinMv < 4500)
/-- PGOOD as its pin reads: pulled up where it is released (R403, R433). -/
def pgoodPin (m : Mach) : Bool := m.released || m.pw.pgood
/-- ALERT_N and THERM_TRIP_N are driven low (R402, R403, R433). -/
def alertLow (m : Mach) : Bool := m.alert && !m.released
def tripLow (m : Mach) : Bool := m.pw.trip && !m.released

/-- Tiles that shedding may power down: in TILE_MAP, in no job's tile set, and powered. -/
def shedTiles (m : Mach) : List TileId :=
  (maskTiles m.tileMap).filter (fun t => !allJobs.any (fun j => m.inTileSet j t) && !m.pw.shed.any (· == .tile t))

/-- A drain that shedding began and that has not ended is given up: the stop opens. -/
def shedCancel (m : Mach) : Mach :=
  match m.pw.shedding with
  | some t => (m.fenceOpen (t.extractLsb' 4 2) (tileStop t)).modPw (fun x => { x with shedding := none })
  | none => m

/-- Shed one step (R400); a tile goes down through the drain-and-fence handshake of R230, and is shed once its stop is FENCED (R21). -/
def shedStep (m : Mach) : Mach :=
  let push := fun (m : Mach) (s : Shed) => m.modPw (fun x => { x with shed := s :: x.shed })
  match (if m.objD 0x2000 0x02 0 = 1 then m.shedTiles else []) with
  | t :: _ =>
    let die : BitVec 2 := t.extractLsb' 4 2
    let m := (m.fenceReq die (tileStop t)).fenceAck die (tileStop t)
    if 2 ≤ (m.stop die (tileStop t)).fence.toNat then push (m.modPw (fun x => { x with shedding := none })) (.tile t)
    else m.modPw (fun x => { x with shedding := some t })
  | [] =>
    if 1000 < m.clockMhz then push m .clock
    else if m.throttle < 3 then push m .throttle
    else m

/-- Power a tile up: its fence opens, and its SRAM is tested and zero-filled by steps 2 and 5 of Table 11-5, which leaves no error in it; one that fails is removed (R246, R400). Whether it fails is a free value (log entry 60). -/
def tileUp (m : Mach) (t : TileId) : Mach :=
  let m := m.modStop (t.extractLsb' 4 2) (tileStop t) (fun x => { x with req := false, fence := 0, isolated := false })
  let m := m.modMs (fun x => { x with sramFlaw := x.sramFlaw.filter (fun e =>
    !(e.1 / 2 ^ 32 == t.toNat / 16 && locTile (e.1 % 2 ^ 32) == t.toNat % 16)) })
  let bad := Config.tileFails t.toNat m.free
  let m := { m with free := m.free + 1 }
  if bad then m.dropTiles 3 (1#64 <<< t.toNat) else m

/-- Restore the last step shed. -/
def restoreStep (m : Mach) : Mach :=
  match m.pw.shed with
  | [] => m
  | s :: r =>
    let m := m.modPw (fun x => { x with shed := r })
    match s with
    | .tile t => m.tileUp t
    | _ => m

/-- Tiles of a set that shedding has powered down are powered up before a job takes them (R400). -/
def powerTiles (m : Mach) (v : BitVec 64) : Mach :=
  let m := if m.pw.shedding.any (fun t => v.getLsbD t.toNat) then m.shedCancel else m
  ((maskTiles v).filter (fun t => m.pw.shed.any (· == .tile t))).foldl (fun m t =>
    (m.tileUp t).modPw (fun x => { x with shed := x.shed.filter (· != .tile t) })) m

/-- An interval of 100 µs of the power controller, with the average input power: consecutive intervals at or below 0.95 of the cap are counted whatever the thermal rule says (R399). -/
def powerControl (m : Mach) (w : Nat) : Mach :=
  if !(m.pw.pgood && m.wallRun) then m
  else
    let cap := m.powerCap
    let low := decide (20 * w ≤ 19 * cap)
    let m := m.modPw (fun x => { x with powerW := w, quiet := if low then Nat.min 10 (x.quiet + 1) else 0 })
    if cap < w ∨ m.pw.thermal then m.shedStep
    else
      let m := if low then m.shedCancel else m
      if m.pw.quiet = 10 then m.restoreStep else m

/-- The input current: at 72 A every tile takes the droop response in this core cycle, and in each that follows until the current falls below 72 A (R401). -/
def currentLimit (m : Mach) (ma : Nat) : Mach :=
  if !m.awake then m
  else
    let m := m.modPw (fun x => { x with vinMa := ma, limit := decide (72000 ≤ ma) })
    if m.pw.limit && m.pw.pgood then m.goodTiles.foldl droop m else m

/-- TJ_MAX_C is measured. -/
def setTj (m : Mach) (tj : Int) : Mach := m.modPw (fun x => { x with tj := tj })

/-- TJ_MAX_C reaches 105 °C: the thermal rule becomes active and source 162 rises (R402). -/
def thermalAlert (m : Mach) (tj : Int) : Mach :=
  if !m.awake || decide (tj < 105) then m
  else
    let m := m.setTj tj
    if m.pw.thermal then m
    else
      let m := m.modPw (fun x => { x with thermal := true })
      if m.hubOn then m.raiseSource 162 else m

/-- TJ_MAX_C falls to 103 °C. -/
def thermalEnd (m : Mach) (tj : Int) : Mach :=
  if !m.awake || decide (103 < tj) then m else (m.setTj tj).modPw (fun x => { x with thermal := false })

/-- A junction reaches 115 °C: THERM_TRIP_N is driven low until VIN is removed, and the module is in FAULT (R402). -/
def thermalTrip (m : Mach) (tj : Int) : Mach :=
  if !m.awake || decide (tj < 115) then m
  else ((m.setTj tj).modPw (fun x => { x with trip := true })).powerFault

/-- A main rail leaves regulation, also in Snowdrop: PGOOD falls and the module enters FAULT (R403, R404). A rail that is down leaves nothing. -/
def railFault (m : Mach) (k : Nat) : Mach :=
  if !m.pw.rails.getLsbD k then m
  else
    let m := m.modPw (fun x => { x with rails := x.rails &&& ~~~(1#10 <<< k) })
    m.faultNow true 0x13 0 (BitVec.ofNat 64 m.pw.vinMv) (BitVec.ofNat 64 m.pw.vinMa) m.tjWord (BitVec.ofNat 64 m.resetHeldMs)

/-! JTAG (R436) -/

/-- Load a TAP instruction: nothing while PGOOD is low. -/
def tap (m : Mach) (f : Jtag → Jtag) : Mach := if m.pw.pgood then { m with jtag := f m.jtag } else m

/-- Whether EXTEST and HIGHZ act. -/
def scanActs (m : Mach) : Bool := m.mstate == 3 || m.mstate == 8

/-- What drives the main-domain pins: nothing while PGOOD is low, and the chain, or nothing, only while EXTEST or HIGHZ acts (R427, R436). -/
def pinDrive (m : Mach) : PinDrive :=
  if !m.pw.pgood then .highz else if m.scanActs then m.jtag.pins else .functional

/-- Levels of GPIO[7:0]: a pin stands at the level the module or the chain drives, or else at the level outside (R436, R437). -/
def gpioLevels (m : Mach) : Byte :=
  let out := Config.gpioOutside m.cycle
  let oe : Byte := m.pw.gpioCtl.extractLsb' 8 8
  match m.pinDrive with
  | .functional => ((m.pw.gpioCtl.truncate 8 : Byte) &&& oe) ||| (out &&& ~~~oe)
  | .scan d => Config.scanGpio d m.cycle
  | .highz => out

/-- SYNC_OUT is driven to 1 (R209, R427). -/
def syncOutPin (m : Mach) : Bool := m.pinDrive == .functional && m.pw.syncOut != 0

/-- A shift of the boundary-scan chain: what it captured of the pins is shifted out (R436). -/
def scanOut (m : Mach) : Mach :=
  ({ m with free := m.free + 1 }).send (.value (Config.scanChain m.gpioLevels m.free))

/-- IDCODE of stepping B0. -/
def idcode : Word := 0x1819254B

end Mach

/-! The commands -/

/-- VIN_RISE (R397). -/
def execVinRise (mv : BitVec 16) (node : BitVec 7) (s : State) : Res := s.on (fun m => m.vinRise mv.toNat node)
/-- VIN_LOSS: SIGN_LOCK, SIGNER_HASH and REQUIRE_SIGNED go with VIN, the one-time key slots stay (R270, R271, R397). -/
def execVinLoss (s : State) : Res :=
  .next { s with m := s.m.vinLoss, vault := { slots := s.vault.slots } }
/-- VIN_LEVEL_CROSSING (R397). -/
def execVinLevelCrossing (mv : BitVec 16) (s : State) : Res := s.on (fun m => m.vinLevel mv.toNat)
/-- BROWN_OUT (R397). -/
def execBrownOut (mv : BitVec 16) (s : State) : Res := s.on (fun m => m.brownOut mv.toNat)
/-- OVERVOLTAGE (R397). -/
def execOvervoltage (mv : BitVec 16) (s : State) : Res := s.on (fun m => m.overvoltage mv.toNat)
/-- REFCLK_START (R429). -/
def execRefclkStart (node : BitVec 7) (s : State) : Res := s.on (fun m => m.refclkStart node)
/-- REFCLK_LOSS (R429). -/
def execRefclkLoss (s : State) : Res := s.on Mach.refclkLoss
/-- BOOT_START (R407). -/
def execBootStart (s : State) : Res := s.on Mach.bootStart
/-- BOOT_STAGE (R409). -/
def execBootStage (r : StageEnd) (s : State) : Res := s.on (fun m => m.bootStage r)
/-- RESET_ASSERT (R411). -/
def execResetAssert (s : State) : Res := s.on Mach.resetAssert
/-- RESET_RELEASE (R411). -/
def execResetRelease (s : State) : Res := s.on Mach.resetRelease
/-- OVR_WINDOW_END (R413). -/
def execOvrWindowEnd (s : State) : Res := s.on (fun m => m.modPw (fun x => { x with ovrWin := false }))
/-- POWER_CONTROL (R399). -/
def execPowerControl (w : BitVec 16) (s : State) : Res := s.on (fun m => m.powerControl w.toNat)
/-- CURRENT_LIMIT (R401). -/
def execCurrentLimit (ma : BitVec 32) (s : State) : Res := s.on (fun m => m.currentLimit ma.toNat)
/-- THERMAL_ALERT (R402). -/
def execThermalAlert (tj : BitVec 32) (s : State) : Res := s.on (fun m => m.thermalAlert tj.toInt)
/-- THERMAL_RULE_END (R402). -/
def execThermalRuleEnd (tj : BitVec 32) (s : State) : Res := s.on (fun m => m.thermalEnd tj.toInt)
/-- THERMAL_TRIP (R402). -/
def execThermalTrip (tj : BitVec 32) (s : State) : Res := s.on (fun m => m.thermalTrip tj.toInt)
/-- RAIL_FAULT of a main rail, in the order of R403 (R404): which rail it is has no place in the entry of the log (Table 21-5). -/
def execRailFault (rail : Byte) (s : State) : Res := s.on (fun m => m.railFault (theRail rail))
/-- AVS_WINDOW of a tile (R419). -/
def execAvsWindow (t : TileId) (slack : BitVec 6) (s : State) : Res :=
  s.on (fun m => if m.pw.pgood then m.avsWindow t slack else m)
/-- DROOP_RESPONSE of a tile (R420). -/
def execDroopResponse (t : TileId) (s : State) : Res := s.on (fun m => if m.pw.pgood then m.droop t else m)
/-- AVS_STAT of a tile is read: its value is returned, and STRETCHES cleared (R10, R422). -/
def execAvsStat (t : TileId) (s : State) : Res := s.on (fun m => (m.send (.value (m.avsStat t))).avsRead t)
/-- EXTEST: what the chain captured is shifted out and it drives the scanned pins, in READY or FAULT; in any other state it acts as BYPASS, whose one bit delays what is shifted through it (R436). -/
def execExtest (d : Word) (s : State) : Res :=
  s.on (fun m =>
    if !m.pw.pgood then m
    else if m.scanActs then m.scanOut.tap (fun j => { j with ir := 0, chain := d, pins := .scan d })
    else (m.send (.value (d <<< 1))).tap (fun j => { j with ir := 0, pins := .functional }))
/-- SAMPLE/PRELOAD: what the chain captured is shifted out, it takes the value shifted in, and the pins stay functional (R436). -/
def execSamplePreload (d : Word) (s : State) : Res :=
  s.on (fun m => if !m.pw.pgood then m else m.scanOut.tap (fun j => { j with ir := 1, chain := d, pins := .functional }))
/-- IDCODE: the register's value is shifted out (R436). -/
def execIdcode (s : State) : Res :=
  s.on (fun m => if m.pw.pgood then (m.tap (fun j => { j with ir := 2, pins := .functional })).send (.value Mach.idcode) else m)
/-- HIGHZ: the scanned pins float, in READY or FAULT; in any other state it acts as BYPASS (R436). -/
def execHighz (s : State) : Res :=
  s.on (fun m => if !m.pw.pgood then m else
    (m.send (.value 0)).tap (fun j => { j with ir := 3, pins := if m.scanActs then .highz else .functional }))
/-- BYPASS: the bypass register captures 0 and shifts it out (R436; PRESUMED of IEEE 1149.1, log entry 63). -/
def execBypass (s : State) : Res :=
  s.on (fun m => if !m.pw.pgood then m else (m.send (.value 0)).tap (fun j => { j with ir := 0xFF, pins := .functional }))
/-- TEST_LOGIC_RESET: the pins return to functional control, and IDCODE is selected (R436). -/
def execTestLogicReset (s : State) : Res :=
  s.on (fun m => { m with jtag := { m.jtag with ir := 2, pins := .functional } })
/-- PCIE_PERST_RELEASE (R432). -/
def execPciePerstRelease (s : State) : Res := s.on (fun m => m.modPw (fun x => { x with perst := true }))
/-- PCIE_LINK_UP: no earlier than boot stage 2 and the release of PCIE_PERST_N, while the port has power, as it has in Snowdrop too (R414, R432). -/
def execPcieLinkUp (rate : BitVec 3) (width : BitVec 5) (s : State) : Res :=
  let rate := theRate rate
  let width := theWidth width
  s.on (fun m =>
    if m.pw.perst && m.pw.rails.getLsbD 9 && (m.mstate != 2 || decide (2 ≤ m.pw.stage)) && !m.pw.linkUp then
      m.modPw (fun x => { x with linkUp := true, linkRate := rate.toNat, linkWidth := width.toNat })
    else m)
/-- BUS_OFF of the field bus: the port sends and takes nothing until it has seen 128 occurrences of 11 recessive bits at 1 Mbit/s, how much later the bus decides (R384; PRESUMED of ISO 11898-1, log entry 49). -/
def execBusOff (s : State) : Res :=
  s.on (fun m =>
    if m.awake then
      { m.count 0x4100 0x03 with busOff := some (m.quanta + 39000 * 1408 + Config.busOffWait m.free), free := m.free + 1 }
    else m)
/-- QSPI_OPERATION_COMPLETE: the flash holds what the operation left there, and source 161 rises (R294, R298). -/
def execQspiOperationComplete (s : State) : Res := s.on (fun m => if m.hubOn then m.flashDone.raiseSource 161 else m)

end Sys2Proof.Machine
end

