-- ==== Sys2Proof/Machine/Clock.lean ====
section
/-! DEFINITION. What a hub cycle does when no command is given: time, the interrupt controller's past, lock ages, SYNC_OUT, full event rings, waiting posters and journal slices, and the receive buffers of the Fabric ports (R3, R9, R183, R207, R209, R290, R292, R300, R313, R360). -/

namespace Sys2Proof.Machine

namespace Mach

/-- Quanta of a hub cycle: 26 units of 1/39 ns. -/
def hubQuanta : Nat := 26

/-- WALLTIME after the hub cycle that begins at q quanta: it counts nanoseconds, one in a thousand left out while it is ahead (R207). -/
def tickWall (m : Mach) (q : Nat) : Mach :=
  if !m.wallRun then m
  else
    let d := (q + hubQuanta) / 39 - q / 39
    if m.wallAhead != 0 && (q + hubQuanta) / 39000 != q / 39000 then { m with wall := m.wall + d - 1, wallAhead := m.wallAhead - 1 }
    else { m with wall := m.wall + d }

/-- Rings for whose records a producer waits because they are full (R292). -/
def ringsFull (m : Mach) : Nat := (m.evr.filter (fun e => e.2.held != [] && e.2.full)).length

/-- A slice with no free entry counts the core cycles that passed (R183). -/
def tickJournals (m : Mach) (n : Nat) : Mach :=
  (m.tiles.filter (fun e => decide (512 ≤ e.2.journal.length))).foldl (fun m e => m.count 0x4702 (1 + e.1) n) m

/-- A held lock grows a hub cycle older; in Snowdrop the lease timers stop (R313). -/
def tickLocks (m : Mach) : Mach :=
  if m.mstate = 7 then m
  else { m with locks := m.locks.map (fun e => if e.2.owner = 0 then e else (e.1, { e.2 with age := e.2.age + 1 })) }

/-- While the input current stands at 72 A every tile takes the droop response in each core cycle (R401). -/
def tickLimit (m : Mach) (n : Nat) : Mach :=
  if m.pw.limit && m.pw.pgood then (List.range n).foldl (fun m _ => m.goodTiles.foldl droop m) m else m

/-- SYNC_OUT counts down, and the levels of GPIO pass through the two stages of their synchroniser (R209, R437). -/
def tickPins (m : Mach) : Mach :=
  let v := m.gpioLevels
  m.modPw (fun x => { x with syncOut := x.syncOut - 1, gpioIn := x.gpioMid, gpioMid := v })

/-- The hub drains the receive buffers of its ports. -/
def tickPorts (m : Mach) : Mach := (m.ports.map (fun e => BitVec.ofNat 3 e.1)).foldl drainPort m

/-- One hub cycle: nothing passes while the always-on domain is down, and the hub's own counts stand while its rails are down. -/
def tick (m : Mach) : Mach :=
  if !m.awake then m
  else
    let q := m.quanta
    let core := m.coreCycle
    let m := ({ m with quanta := q + hubQuanta, setNow := [], busOff := m.busOff.filter (fun t => decide (q + hubQuanta < t)) }).tickWall q
    if !m.hubOn then m
    else
      let m := if (m.cycle + 1) % 4096 = 0 then m.upWindow else m
      let m := m.tickPins.tickLimit (m.coreCycle - core)
      let m := { m with cycle := m.cycle + 1, ic := { m.ic with hist := m.ic.now :: m.ic.hist.take 6 } }
      let m := if m.ringsFull = 0 then m else m.count 0x4C00 0x04 m.ringsFull
      let m := if m.posters = [] then m else m.count 0x4C00 0x03 m.posters.length
      ((((m.tickJournals (m.coreCycle - core)).tickLocks).tickPorts).hubDrain).tickOutputs

end Mach

end Sys2Proof.Machine
end

