-- ==== Sys2Proof/Machine/Objects.lean ====
section
/-! DEFINITION. The object dictionary: its table, the value of each object, the checks of an access in the order of R380, and the effect of each write (chapter 18; Tables 3-6, 4-7, 5-12, 7-6, 8-6, 9-4, 10-12, 11-9, 12-10, 13-11, 14-8, 15-11, 16-5 and 17-10). -/

namespace Sys2Proof.Machine

/-- Object types (Table 18-1). -/
inductive ObjType where
  | bool | u8 | u16 | u32 | u64 | i32 | i64 | time64 | str | domain
deriving DecidableEq, Repr

/-- Access rights (R378). -/
inductive ObjAcc where
  | ro | rw | rws | wo | const
deriving DecidableEq, Repr

/-- Ranges (R379): any value of the type, lengths of a DOMAIN, an interval, 0 or an interval, a list. -/
inductive ObjRange where
  | any
  | len (l : List Nat)
  | iv (lo hi : Nat)
  | gap (lo hi : Nat)
  | list (l : List Nat)
deriving DecidableEq, Repr

/-- The indices a row stands for: one, one per job (0x3000 + 0x100·j), n in a row, one per stop (0x4900 + 0x20·d + s). -/
inductive ObjSpan where
  | one | job | run (n : Nat) | stop
deriving DecidableEq, Repr

/-- A row of the dictionary: first index, indices, first subindex and how many, type, access, default, range. -/
structure ObjRow where
  index : Nat
  span : ObjSpan
  sub : Nat
  count : Nat
  type : ObjType
  acc : ObjAcc
  dflt : Nat
  range : ObjRange
deriving DecidableEq, Repr

/-- Identity, communication, state control, keys and firmware (0x1000 to 0x1FFF). -/
def objIdent : List ObjRow := [
  ⟨0x1000, .one, 0x01, 1, .str, .const, 0, .any⟩, -- VENDOR
  ⟨0x1000, .one, 0x02, 1, .str, .const, 0, .any⟩, -- PART_NUMBER
  ⟨0x1000, .one, 0x03, 1, .str, .const, 0, .any⟩, -- STEPPING
  ⟨0x1000, .one, 0x04, 1, .domain, .const, 0, .len [16]⟩, -- SERIAL
  ⟨0x1000, .one, 0x05, 1, .u16, .const, 0, .any⟩, -- HBM_GIB
  ⟨0x1000, .one, 0x06, 1, .u16, .const, 0, .any⟩, -- CORE_MHZ
  ⟨0x1010, .one, 0x01, 1, .u8, .ro, 1, .iv 1 8⟩, -- MODULE_STATE
  ⟨0x1010, .one, 0x02, 1, .u8, .wo, 0, .iv 1 5⟩, -- MODULE_CMD
  ⟨0x1012, .one, 0x01, 1, .bool, .ro, 0, .list [0, 1]⟩, -- RESET_HELD
  ⟨0x1012, .one, 0x02, 1, .u32, .ro, 0, .any⟩, -- RESET_HELD_MS
  ⟨0x1012, .one, 0x03, 1, .u32, .wo, 0, .list [42435]⟩, -- OVR_UNLOCK
  ⟨0x1012, .one, 0x04, 1, .u8, .wo, 0, .list [1]⟩, -- OVR_RELEASE
  ⟨0x1012, .one, 0x05, 1, .bool, .ro, 0, .list [0, 1]⟩, -- OVR_ACTIVE
  ⟨0x1020, .one, 0x01, 1, .domain, .const, 0, .len [16]⟩, -- FEATURE_OFFER
  ⟨0x1021, .one, 0x01, 1, .domain, .rw, 0, .len [16]⟩, -- FEATURE_ACCEPT
  ⟨0x1030, .one, 0x01, 1, .u8, .rw, 0, .iv 0 1⟩, -- NODE_ID_SRC
  ⟨0x1030, .one, 0x02, 1, .u8, .rw, 1, .iv 1 127⟩, -- NODE_ID_CFG
  ⟨0x1030, .one, 0x03, 1, .u8, .ro, 0, .iv 0 127⟩, -- NODE_ID
  ⟨0x1030, .one, 0x04, 1, .u8, .rw, 0, .iv 0 4⟩, -- DATA_RATE
  ⟨0x1030, .one, 0x05, 1, .u16, .rw, 100, .gap 10 10000⟩, -- HB_PERIOD_MS
  ⟨0x1030, .one, 0x06, 1, .bool, .rw, 0, .list [0, 1]⟩, -- PEER_WRITE_EN
  ⟨0x1040, .one, 0x01, 8, .u8, .ro, 0, .iv 0 2⟩, -- KEY_SLOT_STATE
  ⟨0x1041, .one, 0x01, 1, .domain, .wo, 0, .len [41]⟩, -- KEY_SEAL
  ⟨0x1041, .one, 0x02, 1, .u8, .wo, 0, .iv 0 7⟩, -- KEY_REVOKE
  ⟨0x1042, .one, 0x01, 4, .domain, .rws, 0, .len [48]⟩, -- SIGNER_HASH
  ⟨0x1042, .one, 0x05, 1, .bool, .rws, 0, .list [0, 1]⟩, -- REQUIRE_SIGNED
  ⟨0x1042, .one, 0x06, 1, .u8, .wo, 0, .list [1]⟩, -- SIGN_LOCK
  ⟨0x1050, .one, 0x01, 1, .u8, .ro, 255, .list [0, 1, 255]⟩, -- FW_SLOT
  ⟨0x1050, .one, 0x02, 1, .u32, .ro, 0, .any⟩, -- FW_VERSION
  ⟨0x1050, .one, 0x03, 1, .u16, .ro, 0, .any⟩, -- FW_SVN
  ⟨0x1050, .one, 0x04, 1, .u16, .const, 0, .any⟩ ] -- FW_MIN_SVN

/-- Device configuration (0x2000 to 0x2FFF). -/
def objDevice : List ObjRow := [
  ⟨0x2000, .one, 0x01, 1, .u16, .rw, 864, .iv 100 864⟩, -- POWER_CAP_W
  ⟨0x2000, .one, 0x02, 1, .u8, .rw, 0, .iv 0 1⟩, -- SHED_POLICY
  ⟨0x2000, .one, 0x03, 1, .u16, .rws, 0, .iv 1000 (2 ^ 16 - 1)⟩, -- CLOCK_LIMIT_MHZ
  ⟨0x2010, .one, 0x01, 1, .u64, .rws, 0, .any⟩, -- TILE_MAP
  ⟨0x2400, .one, 0x01, 1, .u16, .rw, 16, .iv 1 256⟩, -- GOV_PERIOD
  ⟨0x2400, .one, 0x02, 1, .u16, .rw, 448, .iv 1 512⟩, -- OCC_HIGH
  ⟨0x2400, .one, 0x03, 1, .u16, .rw, 256, .iv 0 511⟩, -- OCC_LOW
  ⟨0x2400, .one, 0x04, 1, .u16, .rw, 250, .iv 1 1000⟩, -- RR_HIGH
  ⟨0x2400, .one, 0x05, 1, .u16, .rw, 50, .iv 0 999⟩, -- RR_LOW
  ⟨0x2500, .one, 0x01, 1, .u8, .rws, 0, .iv 0 2⟩, -- HZ_ROOT_MODE
  ⟨0x2500, .one, 0x02, 1, .u32, .rw, 0, .iv 0 1000000⟩, -- SYS_WAVE_MIN_NS
  ⟨0x2500, .one, 0x03, 1, .u8, .rws, 1, .iv 0 2⟩, -- SYNC_MODE
  ⟨0x2500, .one, 0x04, 1, .u64, .rw, 0, .any⟩, -- SYNC_IN_VALUE
  ⟨0x2500, .one, 0x05, 1, .u64, .rw, 0, .gap 1000 10000000000⟩, -- SYNC_OUT_PERIOD_NS
  ⟨0x2500, .one, 0x06, 1, .u8, .rws, 255, .list [0, 1, 2, 3, 4, 5, 6, 7, 255]⟩, -- TGT_JOB
  ⟨0x2500, .one, 0x07, 1, .u8, .rws, 1, .list [1, 2]⟩, -- TGT_EDGE
  ⟨0x2500, .one, 0x08, 1, .bool, .rw, 0, .list [0, 1]⟩, -- TGT_HOLD_EN
  ⟨0x2510, .one, 0x01, 16, .u64, .rw, 0, .any⟩, -- TGT_IN_MAP
  ⟨0x2511, .one, 0x01, 16, .u64, .rw, 0, .any⟩, -- TGT_OUT_MAP
  ⟨0x2600, .one, 0x01, 1, .u32, .rw, 65536, .iv 1024 16777216⟩, -- LKS_FENCE_TIMEOUT
  ⟨0x2700, .one, 0x01, 1, .u32, .rw, 100, .gap 10 100000⟩, -- SRAM_SCRUB_MS
  ⟨0x2700, .one, 0x02, 1, .u32, .rw, 3600, .gap 60 604800⟩, -- HBM_SCRUB_S
  ⟨0x2700, .one, 0x03, 1, .u8, .rws, 0, .iv 0 1⟩, -- HBM_BIST_MODE
  ⟨0x2700, .one, 0x04, 1, .u8, .rw, 3, .iv 1 255⟩, -- PATCH_CE_LIMIT
  ⟨0x2700, .one, 0x05, 1, .bool, .rws, 0, .list [0, 1]⟩, -- HPPR_ENABLE
  ⟨0x2800, .one, 0x01, 1, .u8, .rw, 0, .iv 0 1⟩ ] -- HOST_LOSS_ACTION

/-- Per-job configuration (0x3000 + 0x100 j). -/
def objJob : List ObjRow := [
  ⟨0x3000, .job, 0x01, 1, .u32, .rws, 1000, .iv 1 1000000⟩, -- TICK_FS
  ⟨0x3000, .job, 0x02, 1, .u64, .rws, 0, .any⟩, -- TILES
  ⟨0x3000, .job, 0x08, 1, .u16, .rws, 512, .iv 16 65535⟩, -- FIRE_BUDGET
  ⟨0x3000, .job, 0x09, 1, .u32, .rws, 0, .any⟩, -- FP_INIT
  ⟨0x3000, .job, 0x20, 1, .u32, .rw, 100000, .iv 100 60000000⟩, -- STALL_LIMIT_US
  ⟨0x3000, .job, 0x21, 1, .u8, .rw, 1, .iv 0 2⟩, -- STALL_ACTION
  ⟨0x3000, .job, 0x22, 1, .u8, .wo, 0, .list [1]⟩, -- ORPHAN_DISCARD
  ⟨0x3000, .job, 0x30, 1, .u64, .rw, 1000, .iv 1 549755813888⟩, -- WINDOW
  ⟨0x3000, .job, 0x31, 1, .u64, .rw, 1, .iv 1 (2 ^ 64 - 1)⟩, -- WINDOW_MIN
  ⟨0x3000, .job, 0x32, 1, .u8, .rws, 8, .iv 8 24⟩, -- JOURNAL_RESERVE
  ⟨0x3000, .job, 0x33, 1, .u8, .rw, 0, .iv 0 2⟩, -- GOV_MODE
  ⟨0x3000, .job, 0x40, 1, .u64, .rws, 70368744177664, .iv 0 70368744177664⟩, -- LOOKAHEAD_CAP
  ⟨0x3000, .job, 0x41, 1, .time64, .rw, 0, .iv 0 18446744073709551615⟩, -- PAUSE_TIME
  ⟨0x3000, .job, 0x42, 1, .u8, .wo, 0, .list [1]⟩, -- RESUME
  ⟨0x3000, .job, 0x43, 1, .bool, .rws, 0, .list [0, 1]⟩, -- PACED
  ⟨0x3000, .job, 0x44, 1, .u64, .rws, 1000, .iv 1 1099511627776⟩, -- TGT_PERIOD
  ⟨0x3000, .job, 0x50, 1, .u8, .rw, 0, .iv 0 100⟩, -- LKS_SHARE
  ⟨0x3000, .job, 0x51, 1, .u8, .rw, 0, .iv 0 100⟩, -- PCIE_SHARE
  ⟨0x3000, .job, 0x52, 1, .u8, .rw, 0, .iv 0 100⟩, -- FL_SHARE
  ⟨0x3000, .job, 0x60, 1, .u64, .rw, 0, .any⟩, -- IMAGE_ADDR
  ⟨0x3000, .job, 0x61, 1, .u64, .rw, 0, .iv 512 17179869184⟩, -- IMAGE_LENGTH
  ⟨0x3000, .job, 0x62, 1, .u8, .wo, 0, .list [1]⟩, -- LOAD
  ⟨0x3000, .job, 0x63, 1, .u32, .rw, 0, .gap 2 16384⟩, -- STAGING_MIB
  ⟨0x3000, .job, 0x70, 1, .u8, .wo, 0, .iv 1 3⟩ ] -- JOB_CMD

/-- Status objects of 0x4000 to 0x4FFF. -/
def objStatus : List ObjRow := [
  ⟨0x4000, .one, 0x01, 1, .u32, .ro, 0, .any⟩, -- VIN_MV
  ⟨0x4000, .one, 0x02, 1, .u32, .ro, 0, .any⟩, -- VIN_MA
  ⟨0x4000, .one, 0x03, 1, .u16, .ro, 0, .any⟩, -- POWER_W
  ⟨0x4000, .one, 0x04, 1, .i32, .ro, 0, .any⟩, -- TJ_MAX_C
  ⟨0x4200, .run 8, 0x01, 1, .u8, .ro, 0, .iv 0 6⟩, -- JOB_STATE
  ⟨0x4200, .run 8, 0x02, 1, .u16, .ro, 0, .any⟩, -- FAULT_REASON
  ⟨0x4300, .run 8, 0x10, 1, .domain, .ro, 0, .any⟩, -- STALL_REPORT
  ⟨0x4700, .one, 0x01, 64, .u16, .ro, 0, .iv 0 512⟩, -- JOURNAL_OCC
  ⟨0x4701, .one, 0x01, 64, .u16, .ro, 0, .iv 0 512⟩, -- JOURNAL_PEAK
  ⟨0x4800, .run 8, 0x01, 1, .time64, .ro, 0, .any⟩, -- GVT_TIME
  ⟨0x4800, .run 8, 0x02, 1, .u16, .ro, 0, .iv 0 4095⟩, -- GVT_DELTA
  ⟨0x4800, .run 8, 0x03, 1, .time64, .ro, 0, .any⟩, -- SH_TIME
  ⟨0x4800, .run 8, 0x04, 1, .u16, .ro, 0, .iv 0 4095⟩, -- SH_DELTA
  ⟨0x4800, .run 8, 0x05, 1, .time64, .ro, 0, .any⟩, -- PAUSED_AT_TIME
  ⟨0x4800, .run 8, 0x06, 1, .u16, .ro, 0, .iv 0 4095⟩, -- PAUSED_AT_DELTA
  ⟨0x4800, .run 8, 0x0A, 1, .u8, .ro, 0, .iv 0 15⟩, -- TGT_LAG
  ⟨0x4810, .one, 0x01, 1, .u8, .ro, 0, .iv 0 255⟩, -- HZ_ROOT_ID
  ⟨0x4810, .one, 0x04, 1, .u32, .ro, 0, .any⟩, -- SYS_WAVE_LAST_NS
  ⟨0x4A10, .one, 0x01, 4, .u8, .ro, 0, .iv 0 32⟩, -- PATCH_USED
  ⟨0x4A11, .one, 0x01, 4, .domain, .ro, 0, .any⟩, -- PATCH_LIST
  ⟨0x4A20, .one, 0x01, 1, .u8, .ro, 0, .iv 0 64⟩, -- REMAP_USED
  ⟨0x4A20, .one, 0x02, 1, .domain, .ro, 0, .any⟩, -- REMAP_LIST
  ⟨0x4A30, .one, 0x03, 1, .u32, .ro, 0, .any⟩, -- BIST_SOFT_REPAIRS
  ⟨0x4A30, .one, 0x04, 1, .u32, .ro, 0, .any⟩, -- BIST_TIME_MS
  ⟨0x4B00, .run 8, 0x01, 1, .u8, .ro, 255, .any⟩, -- LOAD_STATUS
  ⟨0x4B00, .run 8, 0x03, 1, .domain, .ro, 0, .any⟩, -- DESIGN_ID
  ⟨0x4B00, .run 8, 0x04, 1, .u32, .ro, 0, .iv 0 178956970⟩, -- NODE_COUNT
  ⟨0x4B00, .run 8, 0x05, 1, .u32, .ro, 0, .any⟩, -- LOAD_TIME_US
  ⟨0x4E00, .one, 0x01, 1, .u8, .ro, 0, .iv 0 6⟩, -- LINK_RATE
  ⟨0x4E00, .one, 0x02, 1, .u8, .ro, 0, .iv 0 16⟩, -- LINK_WIDTH
  ⟨0x4F40, .run 64, 0x02, 1, .time64, .ro, 0, .any⟩, -- LAST_TIME
  ⟨0x4F40, .run 64, 0x03, 1, .u16, .ro, 0, .iv 0 4095⟩, -- LAST_DELTA
  ⟨0x4F80, .run 8, 0x02, 1, .u64, .ro, 0, .iv 0 131072⟩ ] -- CB_PEAK

/-- Error log, Fabric and locked test objects. -/
def objOther : List ObjRow := [
  ⟨0x5000, .one, 0x01, 1, .u32, .ro, 0, .any⟩, -- ERRLOG_COUNT
  ⟨0x5000, .one, 0x03, 1, .u32, .rw, 0, .any⟩, -- ERRLOG_INDEX
  ⟨0x5000, .one, 0x04, 1, .domain, .ro, 0, .any⟩, -- ERRLOG_ENTRY
  ⟨0x5000, .one, 0x05, 1, .u8, .wo, 0, .list [1]⟩, -- ERRLOG_CLEAR
  ⟨0x6000, .one, 0x01, 1, .u8, .rws, 0, .iv 0 255⟩, -- MODULE_NUM
  ⟨0x6000, .one, 0x02, 1, .u64, .rws, 0, .any⟩, -- SYSTEM_ID
  ⟨0x6000, .one, 0x03, 1, .u32, .rw, 4000, .iv 500 100000⟩, -- FL_REPLAY_TIMEOUT_NS
  ⟨0x6000, .one, 0x04, 1, .u32, .rw, 600, .gap 10 86400⟩, -- FL_CAL_PERIOD_S
  ⟨0x6000, .one, 0x05, 1, .u32, .rw, 1000, .iv 1 100000000⟩, -- FL_CAL_SER
  ⟨0x6000, .one, 0x06, 1, .u16, .rw, 10, .iv 1 1000⟩, -- FL_RESYNC_TIMEOUT_MS
  ⟨0x6010, .run 8, 0x01, 1, .bool, .rw, 1, .list [0, 1]⟩, -- FL_ENABLE
  ⟨0x6010, .run 8, 0x02, 1, .u8, .rws, 0, .list [0, 1]⟩, -- FL_REACH
  ⟨0x6010, .run 8, 0x03, 1, .u8, .rw, 3, .iv 0 7⟩, -- FL_TX_PRESET
  ⟨0x6010, .run 8, 0x04, 1, .u8, .ro, 0, .iv 0 6⟩, -- FL_STATE
  ⟨0x6010, .run 8, 0x05, 1, .u8, .ro, 0, .iv 0 255⟩, -- PEER_MODULE
  ⟨0x6010, .run 8, 0x06, 1, .u8, .ro, 0, .iv 0 7⟩, -- PEER_PORT
  ⟨0x6010, .run 8, 0x07, 1, .domain, .ro, 0, .any⟩, -- PEER_SERIAL
  ⟨0x6010, .run 8, 0x08, 1, .u16, .ro, 0, .any⟩, -- PEER_CAPS
  ⟨0x6010, .run 8, 0x09, 1, .u32, .ro, 0, .any⟩, -- RTT_NS
  ⟨0x6200, .one, 0x01, 1, .domain, .ro, 0, .any⟩, -- SYSTEM_MAP
  ⟨0x6200, .one, 0x02, 1, .u16, .ro, 1, .iv 1 256⟩, -- MODULES_PRESENT
  ⟨0x6200, .one, 0x03, 1, .u32, .ro, 0, .any⟩, -- MAP_VERSION
  ⟨0x7000, .one, 0x01, 1, .u32, .wo, 0, .list [32343]⟩, -- TEST_UNLOCK
  ⟨0x7000, .one, 0x02, 1, .u8, .ro, 0, .iv 0 1⟩, -- TEST_STATE
  ⟨0x7100, .one, 0x01, 1, .u64, .wo, 0, .any⟩, -- ECC_INJECT_SRAM
  ⟨0x7100, .one, 0x02, 1, .u64, .wo, 0, .any⟩ ] -- ECC_INJECT_HBM

/-- Counters: U64, read only, default 0. -/
def objCounters : List ObjRow := [
  ⟨0x4100, .one, 0x01, 6, .u64, .ro, 0, .any⟩, -- SOP_REQUESTS, SOP_ERRORS, CAN_BUS_OFF, EVENTS_LOST, MBX_REQUESTS, PEER_REQUESTS
  ⟨0x4200, .run 8, 0x03, 3, .u64, .ro, 0, .any⟩, -- ABSORBED_TOKENS, NARROWED_VALUES, SATURATED_EMITS
  ⟨0x4300, .run 8, 0x01, 10, .u64, .ro, 0, .any⟩, -- ANNIHILATIONS, ANTI_STORED, MOB_MOVES, DEEP_MOVES, DUPLICATES, CONTESTS, SPACE_ROLLBACKS, WITHDRAWALS, STALL_EVENTS, ORPHANS_DISCARDED
  ⟨0x4400, .run 8, 0x01, 12, .u64, .ro, 0, .any⟩, -- FIRINGS_SAFE, FIRINGS_SPEC, UPDATES, CONTROL_DONE, CONTROL_BAD, JOURNAL_REFUSALS, PIN_SKIPS, SAFE_EVICTIONS, FAR_INSERTS, EMIT_TOKENS, INSTRUCTIONS, TRAPS_RAISED
  ⟨0x4410, .one, 0x01, 4, .u64, .ro, 0, .any⟩, -- SPILLS, BP_PE_CYCLES, EMIT_STALLS, FETCH_PAST
  ⟨0x4500, .run 8, 0x01, 8, .u64, .ro, 0, .any⟩, -- ROLLBACKS, ROLLBACKS_BY_ANTI, FIRINGS_ROLLED_BACK, ANTI_SENT, PINS, PENDING_RAISED, PENDING_DISCARDED, PENDING_FULL_RETRIES
  ⟨0x4600, .run 8, 0x01, 9, .u64, .ro, 0, .any⟩, -- JOURNAL_GRANTS, GRANTS_TWO, FOSSIL_FREED, ENTRIES_INVALIDATED, STORES_WRITTEN, SUMMARY_OVERFLOWS, STATE_DROPPED, GOV_SHRINKS, GOV_GROWS
  ⟨0x4600, .run 8, 0x10, 5, .u64, .ro, 0, .any⟩, -- GUAR_YIELDED, YIELD_RESERVE, YIELD_LARKSPUR, YIELD_PCIE, YIELD_FABRIC
  ⟨0x4702, .one, 0x01, 64, .u64, .ro, 0, .any⟩, -- JOURNAL_FULL_CYCLES
  ⟨0x4710, .run 8, 0x01, 64, .u64, .ro, 0, .any⟩, -- W_APPLIED
  ⟨0x4800, .run 8, 0x07, 3, .u64, .ro, 0, .any⟩, -- HZ_DELIVERIES, TGT_EDGES, TGT_LATE_EDGES
  ⟨0x4800, .run 8, 0x0B, 1, .u64, .ro, 0, .any⟩, -- GVT_WALL
  ⟨0x4810, .one, 0x02, 2, .u64, .ro, 0, .any⟩, -- WALLTIME, SYS_WAVES
  ⟨0x4810, .one, 0x05, 1, .u64, .ro, 0, .any⟩, -- SYNC_IN_EDGES
  ⟨0x4900, .stop, 0x01, 39, .u64, .ro, 0, .any⟩, -- INJ_PKTS, INJ_UNITS, EJ_UNITS, ABSORBED, ERR_SENT, FGL_SENT, REROUTED, ECC_CORRECTED, DISCARDED, RTT_BIN, AGE_BIN
  ⟨0x4A00, .one, 0x01, 10, .u64, .ro, 0, .any⟩, -- SRAM_CE, SRAM_UE, POISON_READ, HBM_CE, HBM_UE, CACHE_REFETCH, SRAM_RMW, HBM_RMW, SRAM_SCRUB_PASSES, HBM_SCRUB_PASSES
  ⟨0x4A30, .one, 0x01, 1, .u64, .ro, 0, .any⟩, -- BIST_FAIL_TILES
  ⟨0x4B00, .run 8, 0x02, 1, .u64, .ro, 0, .any⟩, -- LOAD_FAIL_OFFSET
  ⟨0x4B00, .run 8, 0x06, 1, .u64, .ro, 0, .any⟩, -- STAGING_BASE
  ⟨0x4C00, .one, 0x01, 6, .u64, .ro, 0, .any⟩, -- TASKS_DISPATCHED, POSTS_APPLIED, POST_STALL_CYCLES, EVR_FULL_CYCLES, RB_OVERFLOWS, SC_STORE_ERRORS
  ⟨0x4D00, .one, 0x01, 8, .u64, .ro, 0, .any⟩, -- IC_ENTRIES, IC_ABANDONED, IC_TAILCHAINS, IC_EDGES_MERGED, IC_MASKED_DELIVERIES, LOCK_EXPIRIES, LOCK_DEATH_FREES, LOCK_BAD_WRITES
  ⟨0x4E00, .one, 0x03, 6, .u64, .ro, 0, .any⟩, -- LINK_DOWNS, FLR_COUNT, AP_REJECTS, AP_FAULTS, POISONED_CPL, RING_ERRORS
  ⟨0x4E10, .run 8, 0x01, 3, .u64, .ro, 0, .any⟩, -- COMMANDS, UP_BYTES, DOWN_BYTES
  ⟨0x4F00, .run 64, 0x01, 4, .u64, .ro, 0, .any⟩, -- ITEMS, PACKETS, FULL_EVENTS, DISCARDED
  ⟨0x4F40, .run 64, 0x01, 1, .u64, .ro, 0, .any⟩, -- HITS
  ⟨0x4F80, .run 8, 0x01, 1, .u64, .ro, 0, .any⟩, -- ITEMS_CANCELLED
  ⟨0x5000, .one, 0x02, 1, .u64, .ro, 0, .any⟩, -- ERRLOG_TOTAL
  ⟨0x6020, .run 8, 0x01, 11, .u64, .ro, 0, .any⟩ ] -- FRAMES_TX, FRAMES_RX, REPLAYS, CRC_ERRORS, FEC_CORRECTED, FEC_UNCORRECTABLE, PAUSES_RX, CAL_WINDOWS, RETRAINS, DOWNS, HB_MISSED

/-- The dictionary (R392). -/
def objTable : List ObjRow := objIdent ++ objDevice ++ objJob ++ objStatus ++ objOther ++ objCounters

/-- Whether a row stands for an index. -/
def ObjRow.has (r : ObjRow) (idx : Nat) : Bool :=
  match r.span with
  | .one => idx == r.index
  | .job => decide (0x3000 ≤ idx ∧ idx < 0x3800) && idx % 0x100 == 0
  | .run n => decide (r.index ≤ idx ∧ idx < r.index + n)
  | .stop => decide (0x4900 ≤ idx ∧ idx < 0x4980 ∧ (idx - 0x4900) % 0x20 < 18)

/-- The row of an object: NO_OBJECT or NO_SUBINDEX where there is none (R380 steps 1 and 2). -/
def objRow (idx sub : Nat) : Except Err ObjRow :=
  match objTable.filter (·.has idx) with
  | [] => .error .noObject
  | l =>
    match l.find? (fun r => decide (r.sub ≤ sub ∧ sub < r.sub + r.count)) with
    | some r => .ok r
    | none => .error .noSubindex

/-- Length of a fixed-length type (Table 18-1). -/
def ObjType.len? : ObjType → Option Nat
  | .bool | .u8 => some 1
  | .u16 => some 2
  | .u32 | .i32 => some 4
  | .u64 | .i64 | .time64 => some 8
  | .str | .domain => none

/-- The always-on objects (R382). -/
def alwaysOnObj (idx : Nat) : Bool := idx ∈ [0x1000, 0x1010, 0x1012, 0x1030, 0x1040, 0x1041, 0x1042, 0x4000, 0x4100, 0x5000]

/-- The job an index belongs to, for the per-job objects and counters. -/
def objJobOf (idx : Nat) : Option JobId :=
  if 0x3000 ≤ idx ∧ idx < 0x3800 then some (BitVec.ofNat 3 ((idx - 0x3000) / 0x100))
  else
    ([0x4200, 0x4300, 0x4400, 0x4500, 0x4600, 0x4710, 0x4800, 0x4B00, 0x4E10, 0x4F80].find? (fun b => decide (b ≤ idx ∧ idx < b + 8))).map
      (fun b => BitVec.ofNat 3 (idx - b))

/-- ASCII bytes of a string. -/
def ascii (x : String) : List Byte := x.toList.map (fun c => BitVec.ofNat 8 c.toNat)

namespace Mach

/-! Values -/

/-- The node ID in use (R385). -/
def nodeId (m : Mach) : BitVec 7 :=
  if m.objD 0x1030 0x01 0 = 0 then m.pw.nodePins else BitVec.ofNat 7 (m.objD 0x1030 0x02 1)

/-- SYSTEM_MAP: 16 bytes per module (Table 17-10). -/
def systemMap (m : Mach) : List Byte :=
  m.map.flatMap (fun (e : Nat × MapEnt) =>
    let up := (e.2.ports.map (fun p => 2 ^ p.1)).foldl (· + ·) 0
    natBytes 1 e.1 ++ natBytes 1 up ++ ((List.range 8).map (fun k => SMap.getD e.2.ports k 0)) ++ List.replicate 6 0)

/-- ERRLOG_ENTRY: the selected entry, or the oldest where none was selected since the always-on domain started (R395). -/
def errlogEntry (m : Mach) : List Byte :=
  let e := if m.err.sel = 0 then m.err.log.head? else m.err.log.find? (fun e => e.seq.toNat == m.err.sel)
  match e with
  | some e => wordsBytes [e.seq, e.wall, e.w2, e.loc, e.d0, e.d1, e.d2, e.d3]
  | none => []

/-- The value of a STRING or DOMAIN object. -/
def objBytes (m : Mach) (v : Vault) (idx sub : Nat) : List Byte :=
  match idx, sub with
  | 0x1000, 1 => ascii "Stavboaro Microsystems"
  | 0x1000, 2 => ascii (match m.part with
      | .p9630 => "EZ8192-96-30"
      | .p9626 => "EZ8192-96-26"
      | .p4830 => "EZ8192-48-30")
  | 0x1000, 3 => ascii "B0"
  | 0x1000, 4 => natBytes 16 Config.serial.toNat
  | 0x1020, 1 => natBytes 16 featureOffer.toNat
  | 0x1021, 1 => natBytes 16 m.features.toNat
  | 0x1042, n => SMap.getD v.signers (n - 1) (List.replicate 48 0)
  | 0x4A11, n =>
    let die : BitVec 2 := BitVec.ofNat 2 (n - 1)
    (((List.range 32).map (fun e => m.ptLoc die e)).filter (·.getLsbD 32)).flatMap (fun w => natBytes 4 (bits w 31 0))
  | 0x4A20, _ => wordsBytes ((m.ms.remap.map (·.2)).filter (·.getLsbD 63))
  | 0x5000, _ => m.errlogEntry
  | 0x6200, _ => m.systemMap
  | i, _ =>
    if 0x4300 ≤ i ∧ i < 0x4308 then (m.job (BitVec.ofNat 3 (i - 0x4300))).stallReport
    else if 0x4B00 ≤ i ∧ i < 0x4B08 then (m.job (BitVec.ofNat 3 (i - 0x4B00))).designId
    else if 0x6010 ≤ i ∧ i < 0x6018 then
      match (m.port (BitVec.ofNat 3 (i - 0x6010))).peerSerial with
      | some x => natBytes 16 x.toNat
      | none => []
    else []

/-- Objects of one index whose value the machine holds elsewhere than among the stored objects. While no Horizon Root stands HZ_ROOT_ID reads the module's own number, for which the spec gives no value (the model's choice, log entry 85). -/
def objLive (m : Mach) (v : Vault) (idx sub : Nat) : Option Nat :=
  match idx, sub with
  | 0x1000, 5 => some (if m.part = .p4830 then 48 else 96)
  | 0x1000, 6 => some m.coreMhz
  | 0x1010, 1 => some m.mstate.toNat
  | 0x1012, 1 => some (b2n m.pw.held)
  | 0x1012, 2 => some (m.resetHeldMs % 2 ^ 32)
  | 0x1012, 5 => some (b2n m.pw.ovr)
  | 0x1030, 3 => some m.nodeId.toNat
  | 0x1040, n => some (match SMap.getD v.slots (n - 1) .empty with
      | .empty => 0
      | .sealed _ => 1
      | .revoked => 2)
  | 0x1042, 5 => some (b2n v.require)
  | 0x1050, 4 => some Config.fwMinSvn.toNat
  | 0x2000, 3 => some (m.objD 0x2000 0x03 m.coreMhz)
  | 0x2010, 1 => some m.tileMap.toNat
  | 0x4000, 1 => some m.pw.vinMv
  | 0x4000, 2 => some m.pw.vinMa
  | 0x4000, 3 => some m.pw.powerW
  | 0x4000, 4 => some (m.tjWord.toNat % 2 ^ 32)
  | 0x4700, n => some (m.tile (BitVec.ofNat 6 (n - 1))).journal.length
  | 0x4810, 1 => some (m.wave.root.getD m.number).toNat
  | 0x4810, 2 => some m.wallNow.toNat
  | 0x4A10, n => some ((List.range 32).filter (fun e => (m.ptLoc (BitVec.ofNat 2 (n - 1)) e).getLsbD 32)).length
  | 0x4A20, 1 => some (m.ms.remap.filter (fun e => e.2.getLsbD 63)).length
  | 0x4A30, 1 => some m.ms.failTiles.toNat
  | 0x4A30, 3 => some m.ms.softRepairs
  | 0x4A30, 4 => some m.ms.bistMs
  | 0x4E00, 1 => some m.pw.linkRate
  | 0x4E00, 2 => some m.pw.linkWidth
  | 0x5000, 1 => some m.err.log.length
  | 0x5000, 2 => some m.err.total
  | 0x6200, 2 => some (Nat.max 1 m.map.length)
  | 0x6200, 3 => some (m.mapVer % 2 ^ 32)
  | 0x7000, 2 => some (b2n m.testOpen)
  | _, _ => none

/-- Objects of a job or port whose value the machine holds elsewhere than among the stored objects. -/
def objLiveJ (m : Mach) (idx sub : Nat) : Option Nat :=
  let j := (objJobOf idx).getD 0
  let b := m.job j
  if 0x4200 ≤ idx ∧ idx < 0x4208 then
    match sub with
    | 1 => some (jobCode b.state)
    | 2 => some b.faultReason.toNat
    | _ => none
  else if 0x4710 ≤ idx ∧ idx < 0x4718 then
    let t : TileId := BitVec.ofNat 6 (sub - 1)
    some (if m.active j t then (SMap.getD (m.tile t).win j.toNat (BitVec.ofNat 64 (m.jobObj j 0x30 1000))).toNat else 0)
  else if 0x4800 ≤ idx ∧ idx < 0x4808 then
    match sub with
    | 1 => some b.gvt.time.toNat
    | 2 => some b.gvt.delta.toNat
    | 3 => some b.sh.time.toNat
    | 4 => some b.sh.delta.toNat
    | 5 => some b.pausedAt.time.toNat
    | 6 => some b.pausedAt.delta.toNat
    | 0x0A => some (Nat.min 15 (m.tgtLag j))
    | 0x0B => some b.gvtWall
    | _ => none
  else if 0x4B00 ≤ idx ∧ idx < 0x4B08 ∧ sub = 6 then some b.staging.base
  else if 0x6010 ≤ idx ∧ idx < 0x6018 then
    let x := m.port (BitVec.ofNat 3 (idx - 0x6010))
    match sub with
    | 4 => some x.state.toNat
    | 5 => some x.peer.toNat
    | 6 => some x.peerPort.toNat
    | 8 => some x.peerCaps.toNat
    | 9 => some (x.rtt % 2 ^ 32)
    | _ => none
  else none

/-- The value of an object as bytes, little-endian (R377). -/
def objValue (m : Mach) (v : Vault) (idx sub : Nat) (r : ObjRow) : List Byte :=
  match r.type.len? with
  | none => m.objBytes v idx sub
  | some n =>
    natBytes n (match m.objLive v idx sub with
      | some x => x
      | none =>
        match m.objLiveJ idx sub with
        | some x => x
        | none => m.objD idx sub r.dflt)

/-! The checks of R380 -/

/-- The agent identity that owns a ring pair (Table 15-5). -/
def pairOwner (m : Mach) (k : Nat) : Byte :=
  match (SMap.getD m.pairs k {}).owner with
  | some o => o
  | none => if k < 8 then 0x20 else BitVec.ofNat 8 (0x21 + (k - 8) / 7)

/-- The PCIe function on whose behalf a path acts: 0 the PF, 1 + j VF j. -/
def pathFn (m : Mach) (p : Path) : Option Nat :=
  match p with
  | .mbx fn => some fn.toNat
  | .ring k => some ((m.pairOwner k.toNat).toNat - 0x20)
  | .sop | .peer _ => none

/-- Step 3: whether a path may make an access (R317, R327, R391, R396, R413). -/
def pathMay (m : Mach) (p : Path) (wr : Bool) (idx : Nat) : Bool :=
  let own := match m.pathFn p with
    | some 0 => true
    | some f => (decide (0x1000 ≤ idx ∧ idx < 0x2000) && !wr) || objJobOf idx == some (BitVec.ofNat 3 (f - 1))
    | none => true
  let peer := match p with
    | .peer _ =>
      if wr then m.objD 0x1030 0x06 0 == 1 && !(idx ∈ [0x1012, 0x1041, 0x1042]) && decide (idx < 0x7000)
      else idx != 0x1041 && decide (idx < 0x7000)
    | _ => true
  let ovr := !(wr && idx == 0x1012) || p == .sop
  let feat := !(wr && idx == 0x1021) || p == .sop || m.pathFn p == some 0
  let test := !(wr && idx == 0x7000) || p == .sop || p == .mbx 0
  own && peer && ovr && feat && test

/-- Whether only the always-on column of Table 18-3 applies (R382, R413). -/
def onlyAlwaysOn (m : Mach) : Bool :=
  (m.mstate.toNat ∈ [0, 1, 2, 7, 8]) || (m.pw.held && !m.pw.ovr)

/-- Step 8 for the objects with conditions of their own; n is the value written. -/
def stateMay (m : Mach) (v : Vault) (idx sub n : Nat) (d : List Byte) : Bool :=
  let b := m.job ((objJobOf idx).getD 0)
  let st := b.state
  let still := fun (s : JobState) => s == .empty || s == .loaded || s == .paused
  if 0x3000 ≤ idx ∧ idx < 0x3800 then
    match sub with
    | 0x01 | 0x02 => st == .empty
    | 0x22 => st == .paused
    | 0x41 => st == .run
    | 0x42 => st == .paused || (st == .run && b.pause.isSome && b.stopWait.isEmpty && !b.stopObj)
    | 0x62 => st == .empty && (m.feature 3 || idx == 0x3000)
    | 0x70 =>
      match n with
      | 1 => st == .loaded
      | 2 => st != .empty && st != .loaded
      | 3 => st != .empty && st != .run
      | _ => true
    | _ => true
  else
    match idx, sub with
    | 0x1010, _ => m.moduleCmdMay n
    | 0x1012, 4 => m.ovrMay
    | 0x1021, _ => m.mstate == 3
    | 0x1041, 1 =>
      let k := (d.headD 0).toNat
      decide (8 ≤ k) || SMap.getD v.slots k .empty == .empty
    | 0x2500, 6 =>
      let old := m.objD 0x2500 0x06 0xFF
      let ok := fun (k : Nat) => decide (8 ≤ k) || still (m.job (BitVec.ofNat 3 k)).state
      ok old && ok n
    | 0x7000, _ => m.mstate == 3
    | _, _ => true

/-- Step 8: module state, job state and the conditions of the defining chapter (R381, R382). -/
def stateOk (m : Mach) (v : Vault) (wr : Bool) (idx sub n : Nat) (d : List Byte) (r : ObjRow) : Bool :=
  if m.onlyAlwaysOn && !(alwaysOnObj idx && (!wr || r.acc == .rw || r.acc == .wo)) then false
  else if !wr then true
  else
    let rws := if r.acc != .rws then true
      else match objJobOf idx with
        | some j => let s := (m.job j).state; s == .empty || s == .loaded || s == .paused
        | none => m.mstate == 3 || m.mstate == 6
    rws && m.stateMay v idx sub n d

/-- Step 9: whether a load holds the object (R273, R274). -/
def loadHolds (m : Mach) (idx sub : Nat) (r : ObjRow) : Bool :=
  if idx = 0x1021 then !m.loads.isEmpty
  else if 0x3000 ≤ idx ∧ idx < 0x3800 then
    m.loadQueued ((objJobOf idx).getD 0) && (r.acc == .rws || sub ∈ [0x60, 0x61, 0x62, 0x63])
  else false

/-- Step 10 (R379). -/
def rangeCheck (r : ObjRange) (n : Nat) : Except Err Unit :=
  match r with
  | .any | .len _ => .ok ()
  | .iv lo hi => if n < lo then .error .belowRange else if hi < n then .error .aboveRange else .ok ()
  | .gap lo hi => if n = 0 then .ok () else if n < lo then .error .badValue else if hi < n then .error .aboveRange else .ok ()
  | .list l => if n ∈ l then .ok () else .error .badValue

/-- Whether the shares of a subindex stay within 100 percent over the eight jobs when one job takes n (R232, R331, R376). -/
def sharesOk (m : Mach) (idx sub n : Nat) : Bool :=
  decide (((allJobs.map (fun j => if 0x3000 + 0x100 * j.toNat = idx then n else m.jobObj j sub 0)).foldl (· + ·) 0) ≤ 100)

/-- R206: whether an entry of TGT_IN_MAP may be written. -/
def inMapOk (m : Mach) (n : Nat) : Bool :=
  let w : Word := BitVec.ofNat 64 n
  let node : NodeId := w.truncate 40
  let port := bits w 42 40
  let owner := m.objD 0x2500 0x06 0xFF
  if !w.getLsbD 63 then true
  else if 8 ≤ owner then false
  else
    let r : NRef := ⟨BitVec.ofNat 3 owner, nodePe node, nodeLocal node⟩
    bits w 31 30 == 0 && nodeMod node == m.number && m.nodeExists r && !(m.nPmask r).getLsbD port

/-- Step 11: the other conditions of the defining chapters; each failure is BAD_VALUE. -/
def otherOk (m : Mach) (idx sub n : Nat) (d : List Byte) : Bool :=
  let g := fun (s : Nat) (df : Nat) => m.objD 0x2400 s df
  if 0x3000 ≤ idx ∧ idx < 0x3800 then
    let o := fun (s : Nat) (df : Nat) => m.objD idx s df
    match sub with
    | 0x02 => (BitVec.ofNat 64 n &&& ~~~m.tileMap) == 0
    | 0x09 => (BitVec.ofNat 64 n &&& ~~~0x00071F00) == 0 && decide (n / 2 ^ 16 < 5)
    | 0x30 => decide (o 0x31 1 ≤ n)
    | 0x31 => decide (n ≤ o 0x30 1000)
    | 0x43 => n == 0 || m.feature 2
    | 0x50 | 0x51 | 0x52 => m.sharesOk idx sub n
    | 0x60 => n % 64 == 0
    | 0x63 => n % 2 == 0
    | _ => true
  else
    match idx, sub with
    | 0x1021, _ => (BitVec.ofNat 128 (bytesNat d) &&& ~~~featureOffer) == 0
    | 0x1041, 1 => decide ((d.headD 0).toNat < 8) && (keyUnwrap Config.wrapKey (d.drop 1)).isSome
    | 0x2000, 3 => decide (n ≤ m.coreMhz)
    | 0x2010, _ =>
      let w : BitVec 64 := BitVec.ofNat 64 n
      (w &&& m.ms.failTiles) == 0 && allJobs.all (fun j => (BitVec.ofNat 64 (m.jobObj j 0x02 0) &&& ~~~w) == 0)
    | 0x2400, 2 => decide (g 3 256 < n)
    | 0x2400, 3 => decide (n < g 2 448)
    | 0x2400, 4 => decide (g 5 50 < n)
    | 0x2400, 5 => decide (n < g 4 250)
    | 0x2510, _ => m.inMapOk n
    | 0x5000, 3 => decide (n < m.err.log.length)
    | _, _ => true

/-- Steps 3 to 11 for a write of the bytes d. -/
def checkWrite (m : Mach) (v : Vault) (p : Path) (idx sub : Nat) (d : List Byte) (r : ObjRow) : Except Err Unit :=
  let n := bytesNat d
  let lenOk := match r.type.len?, r.range with
    | some k, _ => d.length == k
    | none, .len l => decide (d.length ∈ l)
    | none, _ => true
  if !m.pathMay p true idx then .error .access
  else if r.acc == .ro || r.acc == .const then .error .readOnly
  else if !lenOk then .error .length
  else if r.type == .bool && decide (1 < n) then .error .type
  else if (idx == 0x1042 && v.lock) || (idx == 0x7100 && !m.testOpen) then .error .locked
  else if !m.stateOk v true idx sub n d r then .error .state
  else if m.loadHolds idx sub r then .error .busy
  else
    match (match r.type.len? with
      | some _ => rangeCheck r.range n
      | none => .ok ()) with
    | .error e => .error e
    | .ok _ => if m.otherOk idx sub n d then .ok () else .error .badValue

/-- Steps 3 to 8 for a read. -/
def checkRead (m : Mach) (v : Vault) (p : Path) (idx sub : Nat) (r : ObjRow) : Except Err Unit :=
  if !m.pathMay p false idx then .error .access
  else if r.acc == .wo then .error .writeOnly
  else if !m.stateOk v false idx sub 0 [] r then .error .state
  else .ok ()

/-! Effects of writes -/

/-- LOOKAHEAD_CAP has changed: the least-tag registers of the job take the lookaheads as they now stand (R185, R186). -/
def capChanged (m : Mach) (j : JobId) : Mach :=
  let redo := fun (m : Mach) (deep : Bool) (u : ClusterId) (h : HReg) (set : Mach → (HReg → HReg) → Mach) =>
    let m := set m (fun x => { x with rescan := 1 })
    set (m.rescan deep u j) (fun x => { x with least := h.least, rescan := h.rescan })
  let m := m.clusters.foldl (fun m (e : Nat × Cluster) =>
    let u : ClusterId := BitVec.ofNat 10 e.1
    match SMap.get? e.2.hreg j.toNat with
    | some h => redo m false u h (fun m f => m.modCluster u (fun c => { c with hreg := SMap.modify c.hreg j.toNat {} f }))
    | none => m) m
  m.tiles.foldl (fun m (e : Nat × Tile) =>
    let t : TileId := BitVec.ofNat 6 e.1
    match SMap.get? e.2.hreg j.toNat with
    | some h => redo m true (t.zeroExtend 10) h (fun m f => m.modTile t (fun c => { c with hreg := SMap.modify c.hreg j.toNat {} f }))
    | none => m) m

/-- RUN: the job enters RUN at once, or a spanning job asks the other modules (Table 15-8, R278); whether the request still waits. -/
def runJob (m : Mach) (j : JobId) (pair : Option (BitVec 6)) : Err × Bool × Mach :=
  if (m.job j).state != .loaded then (.state, false, m)
  else if m.spanning j then
    match m.runSpanning j pair with
    | (false, m) => (.state, false, m)
    | (true, m) => (.ok, true, m)
  else (.ok, false, m.enterRun j)

/-- RESUME := v: a spanning job in PAUSED asks the other modules first (R199, R278). -/
def resumeJob (m : Mach) (j : JobId) (v : Nat) (pair : Option (BitVec 6)) : Err × Bool × Mach :=
  if (m.job j).state == .paused && v == 1 && m.spanning j then
    match m.runSpanning j pair with
    | (false, m) => (.state, false, m)
    | (true, m) => (.ok, true, m)
  else
    let (e, m) := m.resume j v
    (e, false, m)

/-- STOP: a job in RUN is paused at T = 0 first, or at the pause already pending where that is earlier; else its tokens go at once (Table 15-8). -/
def stopJob (m : Mach) (j : JobId) (pair : Option (BitVec 6)) : Err × Bool × Mach :=
  match (m.job j).state with
  | .empty | .loaded => (.state, false, m)
  | .run =>
    let m := (m.pauseAt j none).2
    (.ok, true, m.modJob j (fun x => { x with stopWait := x.stopWait ++ pair.toList, stopObj := x.stopObj || pair.isNone }))
  | _ => (.ok, false, m.stopDone j)

/-- JOB_CMD (R394). -/
def jobCmd (m : Mach) (j : JobId) (n : Nat) : Err × Mach :=
  match n with
  | 1 => let (e, _, m) := m.runJob j none; (e, m)
  | 2 => let (e, _, m) := m.stopJob j none; (e, m)
  | _ => m.unload j

/-- The effect of a write of a per-job object that is more than storing it. -/
def objEffectJ (m : Mach) (j : JobId) (sub n : Nat) : Err × Mach :=
  let m' := m.setObj (0x3000 + 0x100 * j.toNat) sub n
  match sub with
  | 0x02 => (.ok, m'.powerTiles (BitVec.ofNat 64 n))
  | 0x22 => m.orphanDiscard j n
  | 0x40 => (.ok, m'.capChanged j)
  | 0x41 => m.pauseTime j (BitVec.ofNat 64 n)
  | 0x42 => let (e, _, m) := m.resumeJob j n none; (e, m)
  | 0x62 => m.loadAsk j n none
  | 0x63 => m.stagingMib j n
  | 0x70 => m.jobCmd j n
  | _ => (.ok, m')

end Mach

/-- Change the module alone. -/
def State.lift (s : State) (x : Err × Mach) : Err × State := (x.1, { s with m := x.2 })

/-- The effect of a write that has passed its checks; a condition found only in carrying it out still refuses it. -/
def State.objEffect (s : State) (p : Path) (idx sub n : Nat) (d : List Byte) : Err × State :=
  let m := s.m
  let put := m.setObj idx sub n
  let ok := fun (m : Mach) => ((Err.ok, { s with m := m }) : Err × State)
  if 0x3000 ≤ idx ∧ idx < 0x3800 then s.lift (m.objEffectJ ((objJobOf idx).getD 0) sub n)
  else if 0x6010 ≤ idx ∧ idx < 0x6018 ∧ sub = 1 then ok (put.flEnable (BitVec.ofNat 3 (idx - 0x6010)) (n == 1))
  else
    match idx, sub with
    | 0x1010, _ => ok (m.moduleCmd n)
    | 0x1012, 3 => ok m.ovrUnlock
    | 0x1012, _ => ok m.ovrRelease
    | 0x1021, _ => ok { m with features := BitVec.ofNat 128 (bytesNat d) }
    | 0x1030, 1 => ok (if n = 0 then put.modPw (fun x => { x with nodePins := x.nodeLevel }) else put)
    | 0x1030, 5 => ok { put with evLost := false }
    | 0x1041, 1 =>
      match keyUnwrap Config.wrapKey (d.drop 1) with
      | some k => (.ok, { s with vault := { s.vault with slots := SMap.set s.vault.slots (d.headD 0).toNat (.sealed k) } })
      | none => (.badValue, s)
    | 0x1041, _ => (.ok, { s with vault := { s.vault with slots := SMap.set s.vault.slots n .revoked } })
    | 0x1042, 5 => (.ok, { s with vault := { s.vault with require := n == 1 } })
    | 0x1042, 6 => (.ok, { s with vault := { s.vault with lock := true } })
    | 0x1042, k => (.ok, { s with vault := { s.vault with signers := SMap.set s.vault.signers (k - 1) d } })
    | 0x2500, 5 => ok (put.modPw (fun x => { x with syncWall := m.wall, syncOut := if n = 0 then 0 else x.syncOut }))
    | 0x2510, _ => ok (m.setObj idx sub (BitVec.ofNat 64 n &&& 0x8001FFFFFFFFFFFF).toNat)
    | 0x2511, _ => ok { m.setObj idx sub (BitVec.ofNat 64 n &&& 0x8001FFFFFFFFFFFF).toNat with
        tgt := { m.tgt with vals := SMap.erase m.tgt.vals (sub - 1) } }
    | 0x5000, 3 =>
      ok { put with err := { m.err with sel := match m.err.log[n]? with
        | some e => e.seq.toNat
        | none => 0 } }
    | 0x5000, _ => ok { m with err := { m.err with log := m.err.log.filter (fun e => e.perm && !e.prior) } }
    | 0x7000, _ =>
      let (code, agent) := if p = .sop then (0x00, 0x30) else (0x02, 0x20)
      ok (({ m with testOpen := true }).logErr 0 0x15 0 none 0 code agent (perm := true))
    | 0x7100, 1 => ok (m.injectSram (BitVec.ofNat 64 n))
    | 0x7100, _ => ok (m.injectHbm (BitVec.ofNat 64 n))
    | _, _ => ok put

/-- A write refused: a refusal of OVR_RELEASE with STATE ends the unlock (R413). -/
def Mach.writeRefused (m : Mach) (idx sub : Nat) (e : Err) : Mach :=
  if idx = 0x1012 ∧ sub = 4 ∧ e = .state then m.modPw (fun x => { x with ovrWin := false }) else m

/-- A write of an object: checked in the order of R380 and carried out. -/
def State.objWrite (s : State) (p : Path) (idx sub : Nat) (d : List Byte) : Err × State :=
  match objRow idx sub with
  | .error e => (e, s)
  | .ok r =>
    match s.m.checkWrite s.vault p idx sub d r with
    | .error e => (e, { s with m := s.m.writeRefused idx sub e })
    | .ok _ => s.objEffect p idx sub (bytesNat d) d

/-- A read of an object: checked in the order of R380; its outcome and value. -/
def State.objRead (s : State) (p : Path) (idx sub : Nat) : Err × List Byte :=
  match objRow idx sub with
  | .error e => (e, [])
  | .ok r =>
    match s.m.checkRead s.vault p idx sub r with
    | .error e => (e, [])
    | .ok _ => (.ok, s.m.objValue s.vault idx sub r)

end Sys2Proof.Machine
end

