-- ==== Sys2Proof/Machine/Agent.lean ====
section
/-! DEFINITION. The object agent: accesses taken in order of arrival, served, passed to firmware and answered on their path (R383, R388 to R391). -/

namespace Sys2Proof.Machine

/-- Bytes as 16-byte units. -/
def bytesUnits (l : List Byte) : List (BitVec 128) :=
  (List.range ((l.length + 15) / 16)).map (fun i => BitVec.ofNat 128 (bytesNat ((l.drop (16 * i)).take 16)))

/-- Data lengths of CAN FD frames. -/
def canLengths : List Nat := [0, 1, 2, 3, 4, 5, 6, 7, 8, 12, 16, 20, 24, 32, 48, 64]

/-- A frame's data padded with 0x00 to the next CAN FD length (R386). -/
def canPad (b : List Byte) : List Byte :=
  b ++ List.replicate ((((canLengths.find? (fun n => decide (b.length ≤ n)))).getD 64) - b.length) 0

/-- The PATH code of ring-3 records (Table 18-4). -/
def pathCode : Path → Nat
  | .sop => 0x00
  | .ring _ => 0x01
  | .mbx fn => if fn = 0 then 0x02 else 0x10 + (fn.toNat - 1)
  | .peer _ => 0x20

namespace Mach

/-! Answers -/

/-- Send a frame on the field bus; with node ID 0 nothing is sent (R385), nor while the port is bus-off (R384). -/
def canSend (m : Mach) (func : Nat) (node : BitVec 7) (b : List Byte) : Mach :=
  if node = 0 ∨ m.busOff.isSome then m else m.send (.can ((BitVec.ofNat 4 func) ++ node) (canPad b))

/-- A response frame (Table 18-6), kept for repeats. -/
def sopReply (m : Mach) (node : BitVec 7) (cmd tseq : Byte) (idx : BitVec 16) (sub segno : Byte) (tlen : Nat) (status : BitVec 32)
    (data : List Byte) : Mach :=
  let b := [cmd + 0x80, tseq] ++ natBytes 2 idx.toNat ++ [sub, segno] ++ natBytes 2 tlen ++ natBytes 4 status.toNat
    ++ [0, 0, 0, 0] ++ data
  ({ m with sop := { m.sop with last := some (tseq, segno, b) } }).canSend 0x4 node b

/-- The answer of an access of the field bus: a read longer than 48 bytes leaves its transfer open (R387). -/
def sopAnswer (m : Mach) (node : BitVec 7) (a : Access) : Mach :=
  let tseq : Byte := a.tseq.truncate 8
  if a.wr then m.sopReply node (if a.off = 0 then 2 else 4) tseq a.idx a.sub (BitVec.ofNat 8 a.off) 0 a.status []
  else
    match m.sop.xfer with
    | some x =>
      if x.tseq == tseq && !x.wr && x.seg == 0 then
        let m := { m with sop := { m.sop with
          xfer := if a.status = 0 ∧ 48 < a.value.length then some { x with len := a.value.length, data := a.value, seg := 1 } else none } }
        m.sopReply node 1 tseq a.idx a.sub 0 a.value.length a.status (a.value.take 48)
      else m
    | none => m

/-- A function's mailbox. -/
def mailbox (m : Mach) (fn : Nat) : Mbx := SMap.getD m.mbx fn {}
def modMbx (m : Mach) (fn : Nat) (f : Mbx → Mbx) : Mach := { m with mbx := SMap.set m.mbx fn (f (m.mailbox fn)) }

/-- Bytes put at the start of a mailbox's data area. -/
def mbxFill (d : SMap Word) (b : List Byte) : SMap Word :=
  (List.range ((b.length + 7) / 8)).foldl (fun d i =>
    let part := (b.drop (8 * i)).take 8
    let old := natBytes 8 (SMap.getD d i 0).toNat
    SMap.set d i (BitVec.ofNat 64 (bytesNat (part ++ old.drop part.length)))) d

/-- The answer of a mailbox access, in an access still in progress there (R389). -/
def mbxAnswer (m : Mach) (fn : Nat) (a : Access) : Mach :=
  if !(m.mailbox fn).busy then m
  else
    (m.modMbx fn (fun x => { x with
      busy := false, done := true, status := a.status, tlen := BitVec.ofNat 16 a.value.length,
      data := mbxFill x.data ((a.value.drop a.off).take a.len) })).hwSet (.mbx fn) (1#64 <<< 62)

/-- A ring pair. -/
def pair (m : Mach) (k : Nat) : Pair := SMap.getD m.pairs k {}
def modPair (m : Mach) (k : Nat) (f : Pair → Pair) : Mach := { m with pairs := SMap.set m.pairs k (f (m.pair k)) }

/-- A ring pair's command waits in a new way. -/
def setWait (m : Mach) (k : Nat) (w : CmdWait) : Mach :=
  m.modPair k (fun p => { p with cur := p.cur.map (fun c => { c with wait := w }) })

/-- The job the command of a pair names. -/
def cmdJob (m : Mach) (k : Nat) : Option JobId := (m.pair k).cur.bind (fun c => c.job)

/-- The function that owns a pair. -/
def pairFn (m : Mach) (k : Nat) : Nat := (m.pairOwner k).toNat - 0x20

/-- Host memory of the pair's function is written for its command, which completes once the write has (R322). -/
def dmaOut (m : Mach) (k : Nat) (addr : Word) (data : List Byte) (result : BitVec 32) : Mach :=
  if data = [] then m.completeCmd k 0 result
  else (m.hostWrites (m.cmdJob k) (m.pairFn k) addr data (some k)).setWait k (.dma 0 result)

/-- The answer of an access of OBJ_READ or OBJ_WRITE, while its command waits for it (Table 15-8). -/
def ringAnswer (m : Mach) (k : Nat) (a : Access) : Mach :=
  match (m.pair k).cur with
  | some c =>
    match c.wait with
    | .obj host =>
      if a.status ≠ 0 then m.completeCmd k a.status 0
      else if a.wr then m.completeCmd k 0 0
      else
        let d := a.value.take a.len
        m.dmaOut k host d (BitVec.ofNat 32 d.length)
    | _ => m
  | none => m

/-- The PEER_RSP of an OBJECT message (R390). -/
def objPeerAnswer (m : Mach) (a : Access) : Mach :=
  let d := ((a.value.drop a.off).take (Nat.min a.len 112))
  let arg : BitVec 38 := BitVec.ofNat 38 (m.number.toNat + 2 ^ 8 + a.tseq.toNat * 2 ^ 16)
  let units := at128 (a.status.toNat + (if a.wr then 0 else a.value.length) * 2 ^ 32) 0 :: (if a.wr then [] else bytesUnits d)
  let h : Hdr := { vc := 3, len := BitVec.ofNat 4 units.length, cmd := 0x31, src := 0x8200, dstStop := 0, dstDie := 0, arg := arg }
  m.toFabric ⟨h.pack, units⟩ a.peer

/-- Answer an access on its path, unless the path has gone (R328, R389), under the node ID given for the field bus; a status other than OK is counted (Table 18-10). -/
def answer (m : Mach) (node : BitVec 7) (a : Access) : Mach :=
  if a.gone then m else
  let a := if a.status = 0 ∧ !a.wr ∧ pathCode a.path ∉ [0x00, 0x01, 0x20] ∧ a.value ≠ [] ∧ a.value.length ≤ a.off then
      { a with status := Err.badValue.code, value := [] }
    else if a.status ≠ 0 then { a with value := [] } else a
  let m := if a.status ≠ 0 then m.count 0x4100 0x02 else m
  match a.path with
  | .sop => m.sopAnswer node a
  | .mbx fn => m.mbxAnswer fn.toNat a
  | .ring k => m.ringAnswer k.toNat a
  | .peer _ => m.objPeerAnswer a

/-- The ring-3 record of an access (Table 18-4). -/
def objRecord (a : Access) : List Word :=
  [at64 (pathCode a.path) 56 ||| at64 (if a.wr then 2 else 1) 48 ||| at64 a.idx.toNat 32 ||| at64 a.sub.toNat 24,
   at64 a.len 32 ||| at64 a.off 0, BitVec.ofNat 64 (Config.objBuf % (hubSize - 4095)), at64 a.peer.toNat 32 ||| at64 a.tag.toNat 0]

/-- Module address of the 4 KiB buffer of ring-3 records. -/
def objBufAddr : Nat := hubBase + Config.objBuf % (hubSize - 4095)

/-- Pass an access to firmware: the write data in the buffer, or the bytes of the value it reads, as firmware leaves them there, its record on ring 3, and a new TAG (R383). -/
def passOn (m : Mach) (a : Access) : Mach :=
  let a := { a with tag := m.tag }
  let m := { m with agent := some a, tag := m.tag + 1, objEnd := none }
  let m := m.hubWrite objBufAddr (if a.wr then a.data.take 4096 else (((a.value.drop a.off).take a.len).take 4096))
  m.ringRecord 3 (objRecord a)

/-- The value of a read that firmware completes with a length: the bytes asked for are those the buffer holds then (R383). -/
def bufValue (m : Mach) (a : Access) : List Byte :=
  let len := m.objLen.toNat % 2 ^ 16
  let n := Nat.min 4096 (Nat.min a.len (len - a.off))
  let zeros := fun (l : List Byte) (k : Nat) => (l ++ List.replicate k 0).take k
  zeros (zeros a.value a.off ++ memBytes m.mem objBufAddr n ++ a.value.drop (a.off + n)) len

/-- Whether the job command that a write made has not completed, and the write with it: a STOP whose pause is not reached, or a RUN whose checks are out (R394). -/
def cmdOut (m : Mach) (a : Access) : Bool :=
  a.wr && a.sub == 0x70 && allJobs.any (fun j => a.idx == 0x3000 + (j.zeroExtend 16 <<< 8) && ((m.job j).stopObj || (m.job j).runObj))

end Mach

/-- Serve an access: refused or always-on accesses are answered at once, a Snowdrop entry not yet made keeps its access, any other is passed to firmware (R380, R383, R414). -/
def State.serve (a : Access) (s : State) : State :=
  let node := s.m.nodeId
  let (e, s, v) := if a.wr then
      let (e, s) := s.objWrite a.path a.idx.toNat a.sub.toNat a.data
      (e, s, [])
    else
      let (e, v) := s.objRead a.path a.idx.toNat a.sub.toNat
      (e, s, v)
  let a := { a with status := e.code, value := v }
  if e = .ok ∧ a.idx = 0x1010 ∧ a.wr ∧ s.m.pw.snow.isSome then { s with m := { s.m with agent := some a } }
  else if e = .ok ∧ !alwaysOnObj a.idx.toNat then { s with m := s.m.passOn a }
  else { s with m := s.m.answer node a }

/-- Serve the accesses that wait until one is under way. -/
def State.drain : List Access → State → State
  | [], s => { s with m := { s.m with agentQ := [] } }
  | a :: r, s => if s.m.agent.isSome then { s with m := { s.m with agentQ := a :: r } } else State.drain r (s.serve a)

/-- Order of the paths of accesses that arrive in one hub cycle: field bus, mailboxes, rings, peer (R383). -/
def pathRank : Path → Nat
  | .sop => 0
  | .mbx fn => 1 + fn.toNat
  | .ring k => 17 + k.toNat
  | .peer _ => 81

/-- The agent takes an access: served if it is free, else behind those that wait, but before one of the same hub cycle whose path comes after its own (R383). -/
def State.submit (s : State) (a : Access) : State :=
  let a := { a with since := s.m.quanta }
  let before := fun (b : Access) => b.since != a.since || decide (pathRank b.path ≤ pathRank a.path)
  if s.m.agent.isSome then
    let q := s.m.agentQ
    let k := (q.reverse.takeWhile (fun b => !before b)).length
    { s with m := { s.m with agentQ := q.take (q.length - k) ++ a :: q.drop (q.length - k) } }
  else s.serve a

/-- End the access under way with an outcome, and serve what waits. -/
def State.endAccess (s : State) (f : Access → Access) : State :=
  match s.m.agent with
  | none => s
  | some a =>
    let m := { s.m with agent := none }
    State.drain m.agentQ { s with m := m.answer m.nodeId (f a) }

/-- Firmware's store to OBJ_DONE completes the access whose TAG it names; any other is discarded. What the access does firmware has done by then; a write of JOB_CMD completes only with its command, and with the outcome of a run request that was refused (R383, R394). -/
def State.objDone (s : State) (v : Word) : State :=
  match s.m.agent with
  | some a =>
    if a.idx ≠ 0x1010 ∧ a.tag = v.truncate 32 ∧ !s.m.cmdOut a then
      s.endAccess (fun a => { a with status := s.m.objEnd.getD (v.extractLsb' 32 32), value := if a.wr then [] else s.m.bufValue a })
    else s
  | none => s

/-- An access of a path, before it is served. -/
def mkAccess (p : Path) (wr : Bool) (idx : BitVec 16) (sub : Byte) (data : List Byte) : Access :=
  { path := p, wr := wr, idx := idx, sub := sub, data := data, len := if wr then data.length else 65535, off := 0,
    tseq := 0, peer := 0, tag := 0, status := 0, value := [] }

/-- A write of an object on a path, as its own command; nothing is taken while the always-on domain is down. -/
def State.writeObj (s : State) (via : Path) (idx : BitVec 16) (sub : Byte) (data : List Byte) : State :=
  if s.m.awake then s.submit (mkAccess via true idx sub data) else s

/-- Index of the objects of a job. -/
def jobIdx (j : JobId) : BitVec 16 := 0x3000 + (j.zeroExtend 16 <<< 8)

/-- OBJECT: the oldest peer object request is taken to the agent (R390, R391). -/
def State.peerObject (s : State) : State :=
  match s.m.takePeer 0x01 with
  | none => s
  | some (f, p, m) =>
    let s := { s with m := m }
    if p.h.cmd ≠ 0x30 then s
    else
      let u := p.data.headD 0
      let len := bits u 47 32
      let a : Access := { mkAccess (.peer f) (bits u 7 0 == 2) (u.extractLsb' 8 16) (u.extractLsb' 24 8)
          (((p.data.drop 1).flatMap (fun x => natBytes 16 x.toNat)).take len) with
        len := len, off := bits u 63 48, tseq := p.h.arg.extractLsb' 16 16, peer := Mach.peerFrom p }
      let s := { s with m := m.count 0x4100 0x06 }
      if !(bits u 7 0 ∈ [1, 2]) || decide (bits u 127 64 ≠ 0) || (a.wr && decide (a.data.length ≠ len)) then
        { s with m := s.m.answer 0 { a with status := Err.badValue.code } }
      else s.submit a

/-! The commands -/

/-- OBJECT_WRITE (R380). -/
def execObjectWrite (path : Path) (idx : BitVec 16) (sub : Byte) (data : List Byte) (s : State) : Res :=
  let path := path.the
  .next (s.writeObj path idx sub data)
/-- OBJ_DONE: a store of firmware (R383). -/
def execObjDone (c : BitVec 4) (v : Word) (s : State) : Res :=
  .next (if coreLive (s.m.core c) then s.objDone v else s)
/-- OBJECT_TIMEOUT (R383). -/
def execObjectTimeout (s : State) : Res :=
  .next (match s.m.agent with
    | some a => if a.idx = 0x1010 ∧ s.m.pw.snow.isSome then s else s.endAccess (fun a => { a with status := Err.timeout.code, value := [] })
    | none => s)
/-- OBJECT: a peer access (R390). -/
def execObject (s : State) : Res := .next s.peerObject
/-- PAUSE_TIME of a job (R196). -/
def execPauseTime (via : Path) (j : JobId) (t : BitVec 64) (s : State) : Res :=
  let via := via.the
  .next (s.writeObj via (jobIdx j) 0x41 (natBytes 8 t.toNat))
/-- RESUME of a job (R199). -/
def execResume (via : Path) (j : JobId) (v : Byte) (s : State) : Res :=
  let via := via.the
  .next (s.writeObj via (jobIdx j) 0x42 [v])
/-- ORPHAN_DISCARD of a job (R73). -/
def execOrphanDiscard (via : Path) (j : JobId) (v : Byte) (s : State) : Res :=
  let via := via.the
  .next (s.writeObj via (jobIdx j) 0x22 [v])
/-- LOAD of a job (R273). -/
def execLoad (via : Path) (j : JobId) (v : Byte) (s : State) : Res :=
  let via := via.the
  .next (s.writeObj via (jobIdx j) 0x62 [v])
/-- STAGING_MIB of a job (R274). -/
def execStagingMib (via : Path) (j : JobId) (v : BitVec 32) (s : State) : Res :=
  let via := via.the
  .next (s.writeObj via (jobIdx j) 0x63 (natBytes 4 v.toNat))
/-- JOB_CMD := 1 (R394). -/
def execJobCmdRun (via : Path) (j : JobId) (s : State) : Res :=
  let via := via.the
  .next (s.writeObj via (jobIdx j) 0x70 [1])
/-- JOB_CMD := 2 (R394). -/
def execJobCmdStop (via : Path) (j : JobId) (s : State) : Res :=
  let via := via.the
  .next (s.writeObj via (jobIdx j) 0x70 [2])
/-- JOB_CMD := 3 (R394). -/
def execJobCmdUnload (via : Path) (j : JobId) (s : State) : Res :=
  let via := via.the
  .next (s.writeObj via (jobIdx j) 0x70 [3])
/-- KEY_SEAL (R270). -/
def execKeySeal (via : Path) (data : List Byte) (s : State) : Res :=
  let via := via.the
  .next (s.writeObj via 0x1041 0x01 data)
/-- KEY_REVOKE (R270). -/
def execKeyRevoke (via : Path) (v : Byte) (s : State) : Res :=
  let via := via.the
  .next (s.writeObj via 0x1041 0x02 [v])
/-- SIGN_LOCK (R271). -/
def execSignLock (via : Path) (v : Byte) (s : State) : Res :=
  let via := via.the
  .next (s.writeObj via 0x1042 0x06 [v])
/-- FEATURE_ACCEPT (R327). -/
def execFeatureAccept (via : Path) (v : BitVec 128) (s : State) : Res :=
  let via := via.the
  .next (s.writeObj via 0x1021 0x01 (natBytes 16 v.toNat))
/-- FL_ENABLE of a port (R363). -/
def execFlEnable (via : Path) (f : BitVec 3) (v : Byte) (s : State) : Res :=
  let via := via.the
  .next (s.writeObj via (0x6010 + f.zeroExtend 16) 0x01 [v])
/-- ECC_INJECT_SRAM (R256). -/
def execEccInjectSram (via : Path) (v : Word) (s : State) : Res :=
  let via := via.the
  .next (s.writeObj via 0x7100 0x01 (natBytes 8 v.toNat))
/-- ECC_INJECT_HBM (R256). -/
def execEccInjectHbm (via : Path) (v : Word) (s : State) : Res :=
  let via := via.the
  .next (s.writeObj via 0x7100 0x02 (natBytes 8 v.toNat))
/-- ERRLOG_INDEX (R395). -/
def execErrlogIndex (via : Path) (v : BitVec 32) (s : State) : Res :=
  let via := via.the
  .next (s.writeObj via 0x5000 0x03 (natBytes 4 v.toNat))
/-- ERRLOG_CLEAR (R449). -/
def execErrlogClear (via : Path) (v : Byte) (s : State) : Res :=
  let via := via.the
  .next (s.writeObj via 0x5000 0x05 [v])
/-- TEST_UNLOCK (R396). -/
def execTestUnlock (via : Path) (v : BitVec 32) (s : State) : Res :=
  let via := via.the
  .next (s.writeObj via 0x7000 0x01 (natBytes 4 v.toNat))
/-- OVR_UNLOCK (R413). -/
def execOvrUnlock (via : Path) (v : BitVec 32) (s : State) : Res :=
  let via := via.the
  .next (s.writeObj via 0x1012 0x03 (natBytes 4 v.toNat))
/-- OVR_RELEASE (R413). -/
def execOvrRelease (via : Path) (v : Byte) (s : State) : Res :=
  let via := via.the
  .next (s.writeObj via 0x1012 0x04 [v])
/-- NODE_ID_SRC, with the levels the NODEID pins stand at (R434). -/
def execNodeIdSrc (via : Path) (v : Byte) (pins : BitVec 7) (s : State) : Res :=
  let via := via.the
  .next ({ s with m := s.m.modPw (fun x => { x with nodeLevel := pins }) }.writeObj via 0x1030 0x01 [v])
/-- MODULE_CMD := 1 (R407). -/
def execModuleCmdBoot (via : Path) (s : State) : Res :=
  let via := via.the
  .next (s.writeObj via 0x1010 0x02 [1])
/-- MODULE_CMD := 2 (R414). -/
def execModuleCmdSnowdrop (via : Path) (s : State) : Res :=
  let via := via.the
  .next (s.writeObj via 0x1010 0x02 [2])
/-- MODULE_CMD := 3, and the wake it starts, with the tiles and the lines that fail in it (R416). -/
def execModuleCmdWake (via : Path) (found : WakeTest) (s : State) : Res :=
  let via := via.the
  let s := s.writeObj via 0x1010 0x02 [3]
  .next { s with m := s.m.wakeRun found.tiles found.lines }
/-- MODULE_CMD := 4 (R404). -/
def execModuleCmdReboot (via : Path) (s : State) : Res :=
  let via := via.the
  .next (s.writeObj via 0x1010 0x02 [4])
/-- MODULE_CMD := 5 (R404). -/
def execModuleCmdStandby (via : Path) (s : State) : Res :=
  let via := via.the
  .next (s.writeObj via 0x1010 0x02 [5])
/-- SNOWDROP_SAVE_RETRY: the save is tried again; once it is made or given up, the write of MODULE_CMD 2 completes (R414, R417). -/
def execSnowdropSaveRetry (s : State) : Res :=
  let (e, m) := s.m.snowRetry
  let s := { s with m := m }
  .next (match e with
    | some e => s.endAccess (fun a => { a with status := e.code })
    | none => s)

end Sys2Proof.Machine
end

