-- ==== Sys2Proof/Machine/Flags.lean ====
section
/-! DEFINITION. Floating-point values, rounding and every flag computation: exact results as dyadic numbers rounded once, with the exceptions of Table 6-12 (R135 to R146). -/

namespace Sys2Proof.Machine

/-- A rounding direction (RM of R102). -/
inductive Rm where
  | nearEven | zero | down | up | nearAway
deriving DecidableEq, Repr

/-- The direction an RM field names, with the direction of FPS for 0b111; reserved values name none. -/
def Rm.of (rm : BitVec 3) (fps : Word) : Option Rm :=
  let c := if rm = 7 then bits fps 18 16 else rm.toNat
  match c with
  | 0 => some .nearEven
  | 1 => some .zero
  | 2 => some .down
  | 3 => some .up
  | 4 => some .nearAway
  | _ => none

/-- A format: bits of its trailing significand and of its exponent (binary32, binary64). -/
structure Fmt where
  p : Nat
  w : Nat
deriving DecidableEq, Repr

/-- The format SZ selects. -/
def fmtOf (sz : Bool) : Fmt := if sz then ⟨52, 11⟩ else ⟨23, 8⟩

namespace Fmt
def bias (f : Fmt) : Int := 2 ^ (f.w - 1) - 1
/-- Exponent of the least bit of a subnormal. -/
def emin (f : Fmt) : Int := 1 - f.bias - f.p
def maxExp (f : Fmt) : Nat := 2 ^ f.w - 1
/-- The canonical quiet NaN: sign 0 and every other bit 1 (R137). -/
def qnan (f : Fmt) : Nat := 2 ^ (f.p + f.w) - 1
def inf (f : Fmt) : Nat := f.maxExp * 2 ^ f.p
/-- The largest finite magnitude MAX (R138). -/
def maxFin (f : Fmt) : Nat := f.inf - 1
def signBit (f : Fmt) (s : Bool) : Nat := b2n s * 2 ^ (f.p + f.w)
end Fmt

/-- An operand: a NaN, an infinity, or the finite value (-1)^s * c * 2^e. -/
inductive FVal where
  | nan (signalling : Bool)
  | inf (s : Bool)
  | fin (s : Bool) (c : Nat) (e : Int)
deriving DecidableEq, Repr

/-- Read an operand in a format; a binary32 operand ignores bits [63:32]. -/
def fRead (f : Fmt) (v : Word) : FVal :=
  let n := v.toNat % 2 ^ (f.p + f.w + 1)
  let s := n / 2 ^ (f.p + f.w) = 1
  let e := n / 2 ^ f.p % 2 ^ f.w
  let t := n % 2 ^ f.p
  if e = f.maxExp then (if t = 0 then .inf s else .nan (t / 2 ^ (f.p - 1) = 0))
  else if e = 0 then .fin s t f.emin
  else .fin s (t + 2 ^ f.p) (Int.ofNat e - f.bias - f.p)

/-- Exceptions signalled, in the order of FLAGS: [4] invalid, [3] division by zero, [2] overflow, [1] underflow, [0] inexact. -/
abbrev FFlags := BitVec 5

def fInvalid : FFlags := 0b10000
def fDivZero : FFlags := 0b01000
def fOverflow : FFlags := 0b00100
def fUnderflow : FFlags := 0b00010
def fInexact : FFlags := 0b00001

/-- Round a magnitude q + r/d, 0 ≤ r < d, to an integer by a direction and the sign. -/
def roundInt (rm : Rm) (s : Bool) (q r d : Nat) : Nat :=
  if r = 0 then q
  else
    match rm with
    | .zero => q
    | .down => if s then q + 1 else q
    | .up => if s then q else q + 1
    | .nearEven => if 2 * r < d then q else if d < 2 * r then q + 1 else if q % 2 = 0 then q else q + 1
    | .nearAway => if 2 * r < d then q else q + 1

/-- Round the exact magnitude n/d * 2^e to multiples of 2^g: the count of multiples and whether it is exact. -/
def roundAt (rm : Rm) (s : Bool) (n d : Nat) (e g : Int) : Nat × Bool :=
  let (n, d) := if g ≤ e then (n * 2 ^ (e - g).toNat, d) else (n, d * 2 ^ (g - e).toNat)
  (roundInt rm s (n / d) (n % d) d, n % d = 0)

/-- The exponent of the leading bit of the magnitude n/d * 2^e, n and d positive. -/
def leadExp (n d : Nat) (e : Int) : Int :=
  let k : Int := Int.ofNat n.log2 - Int.ofNat d.log2
  let ge := if 0 ≤ k then d * 2 ^ k.toNat ≤ n else d ≤ n * 2 ^ (-k).toNat
  (if ge then k else k - 1) + e

/-- The overflow result of Table 6-11. -/
def overflowBits (f : Fmt) (rm : Rm) (s : Bool) : Nat :=
  f.signBit s + (match rm with
    | .nearEven | .nearAway => f.inf
    | .zero => f.maxFin
    | .down => if s then f.inf else f.maxFin
    | .up => if s then f.maxFin else f.inf)

/-- Round the exact nonzero value (-1)^s * n/d * 2^e once to a format, with the exceptions it signals; tininess is detected after rounding to the format's precision with an unbounded exponent (R135, R136, Table 6-12). -/
def fRound (f : Fmt) (rm : Rm) (s : Bool) (n d : Nat) (e : Int) : Word × FFlags :=
  let l := leadExp n d e
  let g := if l - f.p < f.emin then f.emin else l - f.p
  let (c, ex) := roundAt rm s n d e g
  let (u, _) := roundAt rm s n d e (l - f.p)
  let tiny := l < 1 - f.bias - 1 || (l == 1 - f.bias - 1 && u < 2 ^ (f.p + 1))
  let overBit := if 2 ^ (f.p + 1) ≤ c then g + 1 else g
  if f.bias - f.p < overBit then
    (BitVec.ofNat 64 (overflowBits f rm s), fOverflow ||| fInexact)
  else
    let mag := if c < 2 ^ f.p then c
      else (g - f.emin).toNat * 2 ^ f.p + c
    let fl := (if ex then 0 else fInexact) ||| (if tiny && !ex then fUnderflow else 0)
    (BitVec.ofNat 64 (f.signBit s + mag), fl)

/-- A zero of a sign. -/
def fZero (f : Fmt) (s : Bool) : Word := BitVec.ofNat 64 (f.signBit s)
def fInfW (f : Fmt) (s : Bool) : Word := BitVec.ofNat 64 (f.signBit s + f.inf)
def fNan (f : Fmt) : Word := BitVec.ofNat 64 f.qnan

def FVal.isSnan : FVal → Bool
  | .nan s => s
  | _ => false
def FVal.isNan : FVal → Bool
  | .nan _ => true
  | _ => false
def FVal.neg : FVal → FVal
  | .nan s => .nan s
  | .inf s => .inf (!s)
  | .fin s c e => .fin (!s) c e

/-- The sign of an exact zero sum: +0 in every direction except toward minus infinity (R136). -/
def zeroSumSign (rm : Rm) : Bool := rm == .down

/-- The exact sum of two finite values, rounded once. -/
def addFin (f : Fmt) (rm : Rm) (s1 : Bool) (c1 : Nat) (e1 : Int) (s2 : Bool) (c2 : Nat) (e2 : Int) : Word × FFlags :=
  let e := if e1 ≤ e2 then e1 else e2
  let v := fun (s : Bool) (c : Nat) (x : Int) =>
    let k := Int.ofNat (c * 2 ^ (x - e).toNat)
    if s then -k else k
  let t := v s1 c1 e1 + v s2 c2 e2
  if t = 0 then (fZero f (zeroSumSign rm), 0)
  else fRound f rm (t < 0) t.natAbs 1 e

/-- Addition (R136, Table 6-12). -/
def fAdd (f : Fmt) (rm : Rm) (a b : FVal) : Word × FFlags :=
  match a, b with
  | .nan s, .nan t => (fNan f, if s || t then fInvalid else 0)
  | .nan s, _ => (fNan f, if s then fInvalid else 0)
  | _, .nan s => (fNan f, if s then fInvalid else 0)
  | .inf s, .inf t => if s = t then (fInfW f s, 0) else (fNan f, fInvalid)
  | .inf s, _ => (fInfW f s, 0)
  | _, .inf s => (fInfW f s, 0)
  | .fin s1 c1 e1, .fin s2 c2 e2 => addFin f rm s1 c1 e1 s2 c2 e2

/-- Multiplication. -/
def fMul (f : Fmt) (rm : Rm) (a b : FVal) : Word × FFlags :=
  match a, b with
  | .nan s, .nan t => (fNan f, if s || t then fInvalid else 0)
  | .nan s, _ => (fNan f, if s then fInvalid else 0)
  | _, .nan s => (fNan f, if s then fInvalid else 0)
  | .inf s, .inf t => (fInfW f (s != t), 0)
  | .inf s, .fin t c _ => if c = 0 then (fNan f, fInvalid) else (fInfW f (s != t), 0)
  | .fin t c _, .inf s => if c = 0 then (fNan f, fInvalid) else (fInfW f (s != t), 0)
  | .fin s1 c1 e1, .fin s2 c2 e2 =>
    if c1 * c2 = 0 then (fZero f (s1 != s2), 0) else fRound f rm (s1 != s2) (c1 * c2) 1 (e1 + e2)

/-- Division. -/
def fDiv (f : Fmt) (rm : Rm) (a b : FVal) : Word × FFlags :=
  match a, b with
  | .nan s, .nan t => (fNan f, if s || t then fInvalid else 0)
  | .nan s, _ => (fNan f, if s then fInvalid else 0)
  | _, .nan s => (fNan f, if s then fInvalid else 0)
  | .inf _, .inf _ => (fNan f, fInvalid)
  | .inf s, .fin t _ _ => (fInfW f (s != t), 0)
  | .fin s _ _, .inf t => (fZero f (s != t), 0)
  | .fin s1 c1 e1, .fin s2 c2 e2 =>
    if c2 = 0 then (if c1 = 0 then (fNan f, fInvalid) else (fInfW f (s1 != s2), fDivZero))
    else if c1 = 0 then (fZero f (s1 != s2), 0)
    else fRound f rm (s1 != s2) c1 c2 (e1 - e2)

/-- Integer square root by bisection on bits: the largest r with r * r ≤ n, bits from k down. -/
def isqrt (n : Nat) : Nat → Nat → Nat
  | 0, r => r
  | k + 1, r => let t := r + 2 ^ k; isqrt n k (if t * t ≤ n then t else r)

/-- Square root: the exact root lies at the integer root of the scaled operand, or strictly between it and the next, which one further half-bit of position stands for. -/
def fSqrt (f : Fmt) (rm : Rm) (a : FVal) : Word × FFlags :=
  match a with
  | .nan s => (fNan f, if s then fInvalid else 0)
  | .inf s => if s then (fNan f, fInvalid) else (fInfW f false, 0)
  | .fin s c e =>
    if c = 0 then (fZero f s, 0)
    else if s then (fNan f, fInvalid)
    else
      let k := 2 * (f.p + 4) + (if (e % 2 : Int) = 0 then 0 else 1)
      let n := c * 2 ^ k
      let r := isqrt n (n.log2 / 2 + 1) 0
      let q := 2 * r + (if r * r = n then 0 else 1)
      fRound f rm false q 1 ((e - k) / 2 - 1)

/-- Fused multiply-add of a * b + c with one rounding (R136). -/
def fFma (f : Fmt) (rm : Rm) (a b c : FVal) : Word × FFlags :=
  let prodInv := match a, b with
    | .inf _, .fin _ k _ => k = 0
    | .fin _ k _, .inf _ => k = 0
    | _, _ => false
  if a.isSnan || b.isSnan || c.isSnan || prodInv then (fNan f, fInvalid)
  else if a.isNan || b.isNan || c.isNan then (fNan f, 0)
  else
    match a, b, c with
    | .fin s1 c1 e1, .fin s2 c2 e2, .fin s3 c3 e3 => addFin f rm (s1 != s2) (c1 * c2) (e1 + e2) s3 c3 e3
    | .fin _ _ _, .fin _ _ _, .inf s => (fInfW f s, 0)
    | x, y, z =>
      let sg := fun (v : FVal) => match v with
        | .inf s => s
        | .fin s _ _ => s
        | .nan _ => false
      let ps := sg x != sg y
      match z with
      | .inf t => if ps = t then (fInfW f ps, 0) else (fNan f, fInvalid)
      | _ => (fInfW f ps, 0)

/-- The value of a finite operand as a comparison key: sign and scaled magnitude. -/
def fKey (f : Fmt) (v : FVal) : Int :=
  match v with
  | .nan _ => 0
  | .inf s => if s then -(2 ^ 2100) else 2 ^ 2100
  | .fin s c e => let k := Int.ofNat (c * 2 ^ (e - f.emin).toNat); if s then -k else k

/-- Minimum or maximum: -0 is less than +0; one NaN gives the other operand (R142). -/
def fMinMax (f : Fmt) (max : Bool) (a b : FVal) (wa wb : Word) : Word × FFlags :=
  let fl := if a.isSnan || b.isSnan then fInvalid else 0
  let lo := fun (w : Word) => BitVec.ofNat 64 (w.toNat % 2 ^ (f.p + f.w + 1))
  let neg := fun (v : FVal) => match v with
    | .fin s _ _ => s
    | .inf s => s
    | .nan _ => false
  match a.isNan, b.isNan with
  | true, true => (fNan f, fl)
  | true, false => (lo wb, fl)
  | false, true => (lo wa, fl)
  | false, false =>
    let ka := fKey f a
    let kb := fKey f b
    let aLess := ka < kb || (ka == kb && neg a && !neg b)
    (if max then (if aLess then lo wb else lo wa) else (if aLess then lo wa else
      if ka == kb && neg a == neg b then lo wa else lo wb), fl)

/-- Comparison: eq, lt or le, with invalid for a signalling NaN, or any NaN where signalling (R142). -/
def fCmp (f : Fmt) (signalling : Bool) (p : Int → Int → Bool) (a b : FVal) : Word × FFlags :=
  if a.isNan || b.isNan then
    (0, if signalling || a.isSnan || b.isSnan then fInvalid else 0)
  else (flag (p (fKey f a) (fKey f b)), 0)

/-- Class code and sign (R144). -/
def fClass (f : Fmt) (w : Word) : Word :=
  let c := match fRead f w with
    | .nan s => if s then 5 else 4
    | .inf _ => 3
    | .fin _ c _ => if c = 0 then 0 else if c < 2 ^ f.p then 1 else 2
  BitVec.ofNat 64 (c + 8 * b2n (w.getLsbD (f.p + f.w)))

/-- Conversion to an integer of 64 bits, signed or unsigned (Table 6-13). -/
def fToInt (rm : Rm) (signed : Bool) (v : FVal) : Word × FFlags :=
  let hi : Int := if signed then 2 ^ 63 - 1 else 2 ^ 64 - 1
  let lo : Int := if signed then -(2 ^ 63) else 0
  match v with
  | .nan _ => (BitVec.ofInt 64 hi, fInvalid)
  | .inf s => (BitVec.ofInt 64 (if s then lo else hi), fInvalid)
  | .fin s c e =>
    let (k, ex) := if 0 ≤ e then (c * 2 ^ e.toNat, true)
      else (let d := 2 ^ (-e).toNat; (roundInt rm s (c / d) (c % d) d, c % d = 0))
    let i : Int := if s then -(Int.ofNat k) else Int.ofNat k
    if hi < i then (BitVec.ofInt 64 hi, fInvalid)
    else if i < lo then (BitVec.ofInt 64 lo, fInvalid)
    else (BitVec.ofInt 64 i, if ex then 0 else fInexact)

/-- Conversion of an integer to a format (R146). -/
def fOfInt (f : Fmt) (rm : Rm) (i : Int) : Word × FFlags :=
  if i = 0 then (0, 0) else fRound f rm (i < 0) i.natAbs 1 0

/-- Conversion between formats; a NaN gives the canonical NaN (R146). -/
def fConv (f : Fmt) (rm : Rm) (v : FVal) : Word × FFlags :=
  match v with
  | .nan s => (fNan f, if s then fInvalid else 0)
  | .inf s => (fInfW f s, 0)
  | .fin s c e => if c = 0 then (fZero f s, 0) else fRound f rm s c 1 e

/-! FPS (Table 5-11) -/

/-- The fields of FPS a write keeps: RM, TEN and FLAGS; a reserved RM leaves RM as it was (R12, R13). -/
def fpsWrite (old v : Word) : Word :=
  let rm : Word := if bits v 18 16 < 5 then v &&& 0x70000 else old &&& 0x70000
  rm ||| (v &&& 0x1F1F)

/-- Add signalled exceptions to FLAGS. -/
def fpsFlag (fps : Word) (fl : FFlags) : Word := fps ||| fl.zeroExtend 64

/-- Whether a signalled exception has its trap enable set (R140). -/
def fpsTraps (fps : Word) (fl : FFlags) : Bool := ((fps.extractLsb' 8 5 : BitVec 5) &&& fl) != 0

end Sys2Proof.Machine
end

