-- ==== Sys2Proof/Machine/Fp.lean ====
section
/-! DEFINITION. Floating-point instructions (Table 5-7, R135 to R146): one meaning for each over the shared values of Flags. -/

namespace Sys2Proof.Machine

/-- What a floating-point instruction does to a thread: its result and flags, or the FP trap with every signalled exception set in FLAGS and no destination written; a reserved RM is illegal (R102, R139, R140). -/
def fpStep (rm : BitVec 3) (rd : BitVec 5) (f : Rm → Thread → Word × FFlags) (t : Thread) :
    Except (Trap × Word) Thread :=
  match Rm.of rm t.fps with
  | none => .error (illegal, t.fps)
  | some r =>
    let (v, fl) := f r t
    if fpsTraps t.fps fl then .error ({ code := 0x08, value := fl.zeroExtend 64 }, fpsFlag t.fps fl)
    else .ok { (t.put rd v).next with fps := fpsFlag t.fps fl }

/-- Issue a floating-point instruction: a trapped firing ends and its flags go with its context (R141); a trapped core keeps the flags it set. -/
def Mach.issueFp (m : Mach) (x : Exec) (rm : BitVec 3) (rd : BitVec 5) (f : Rm → Thread → Word × FFlags) : Mach :=
  match x with
  | .pe _ _ _ => m.issue x .both (fun t => (fpStep rm rd f t).mapError (·.1))
  | .parity p c ws => m.ctxParity p c ws
  | .core c =>
    let y := m.core c
    if !coreLive y then m
    else
      let (lost, m) := m.fetchLocal c
      if lost then m.coreTrap c { code := 0x09, value := y.th.pc.zeroExtend 64 }
      else
        match m.scBlock c .both false with
        | some tr => m.coreTrap c tr
        | none =>
          match fpStep rm rd f y.th with
          | .error (tr, fps) => (m.setCore c { y with th := { y.th with fps := fps } }).coreTrap c tr
          | .ok t => m.coreDone c { y with th := t }

/-- A low half word for binary32, the whole word for binary64 (R143). -/
def fLow (sz : Bool) (w : Word) : Word := if sz then w else w &&& 0xFFFFFFFF

/-- The sign bit of a format (R143). -/
def fSign (sz : Bool) : Word := if sz then 0x8000000000000000 else 0x80000000

/-- FADD: ra + rb (Table 5-7). -/
def execFadd (x : Exec) (sz : Bool) (rm : BitVec 3) (rd ra rb : BitVec 5) (s : State) : Res :=
  s.on (fun m => m.issueFp x rm rd (fun r t => fAdd (fmtOf sz) r (fRead (fmtOf sz) (t.get ra)) (fRead (fmtOf sz) (t.get rb))))

/-- FSUB: ra - rb (Table 5-7). -/
def execFsub (x : Exec) (sz : Bool) (rm : BitVec 3) (rd ra rb : BitVec 5) (s : State) : Res :=
  s.on (fun m => m.issueFp x rm rd (fun r t => fAdd (fmtOf sz) r (fRead (fmtOf sz) (t.get ra)) (fRead (fmtOf sz) (t.get rb)).neg))

/-- FMUL: ra times rb (Table 5-7). -/
def execFmul (x : Exec) (sz : Bool) (rm : BitVec 3) (rd ra rb : BitVec 5) (s : State) : Res :=
  s.on (fun m => m.issueFp x rm rd (fun r t => fMul (fmtOf sz) r (fRead (fmtOf sz) (t.get ra)) (fRead (fmtOf sz) (t.get rb))))

/-- FDIV: ra divided by rb (Table 5-7). -/
def execFdiv (x : Exec) (sz : Bool) (rm : BitVec 3) (rd ra rb : BitVec 5) (s : State) : Res :=
  s.on (fun m => m.issueFp x rm rd (fun r t => fDiv (fmtOf sz) r (fRead (fmtOf sz) (t.get ra)) (fRead (fmtOf sz) (t.get rb))))

/-- FSQRT: square root of ra (Table 5-7). -/
def execFsqrt (x : Exec) (sz : Bool) (rm : BitVec 3) (rd ra : BitVec 5) (s : State) : Res :=
  s.on (fun m => m.issueFp x rm rd (fun r t => fSqrt (fmtOf sz) r (fRead (fmtOf sz) (t.get ra))))

/-- FMIN: minimumNumber (R142) (Table 5-7). -/
def execFmin (x : Exec) (sz : Bool) (rm : BitVec 3) (rd ra rb : BitVec 5) (s : State) : Res :=
  s.on (fun m => m.issueFp x rm rd (fun _ t => fMinMax (fmtOf sz) false (fRead (fmtOf sz) (t.get ra)) (fRead (fmtOf sz) (t.get rb)) (t.get ra) (t.get rb)))

/-- FMAX: maximumNumber (R142) (Table 5-7). -/
def execFmax (x : Exec) (sz : Bool) (rm : BitVec 3) (rd ra rb : BitVec 5) (s : State) : Res :=
  s.on (fun m => m.issueFp x rm rd (fun _ t => fMinMax (fmtOf sz) true (fRead (fmtOf sz) (t.get ra)) (fRead (fmtOf sz) (t.get rb)) (t.get ra) (t.get rb)))

/-- FEQ: quiet equality (R142) (Table 5-7). -/
def execFeq (x : Exec) (sz : Bool) (rm : BitVec 3) (rd ra rb : BitVec 5) (s : State) : Res :=
  s.on (fun m => m.issueFp x rm rd (fun _ t => fCmp (fmtOf sz) false (fun a b => a == b) (fRead (fmtOf sz) (t.get ra)) (fRead (fmtOf sz) (t.get rb))))

/-- FLT: signalling less (R142) (Table 5-7). -/
def execFlt (x : Exec) (sz : Bool) (rm : BitVec 3) (rd ra rb : BitVec 5) (s : State) : Res :=
  s.on (fun m => m.issueFp x rm rd (fun _ t => fCmp (fmtOf sz) true (fun a b => decide (a < b)) (fRead (fmtOf sz) (t.get ra)) (fRead (fmtOf sz) (t.get rb))))

/-- FLE: signalling less or equal (R142) (Table 5-7). -/
def execFle (x : Exec) (sz : Bool) (rm : BitVec 3) (rd ra rb : BitVec 5) (s : State) : Res :=
  s.on (fun m => m.issueFp x rm rd (fun _ t => fCmp (fmtOf sz) true (fun a b => decide (a ≤ b)) (fRead (fmtOf sz) (t.get ra)) (fRead (fmtOf sz) (t.get rb))))

/-- FCLASS: class code and sign of ra (R144) (Table 5-7). -/
def execFclass (x : Exec) (sz : Bool) (rm : BitVec 3) (rd ra : BitVec 5) (s : State) : Res :=
  s.on (fun m => m.issueFp x rm rd (fun _ t => (fClass (fmtOf sz) (t.get ra), 0)))

/-- FCOPYSIGN: sign of rb with the other bits of ra (R143) (Table 5-7). -/
def execFcopysign (x : Exec) (sz : Bool) (rm : BitVec 3) (rd ra rb : BitVec 5) (s : State) : Res :=
  s.on (fun m => m.issueFp x rm rd (fun _ t => (fLow sz ((t.get ra &&& ~~~(fSign sz)) ||| (t.get rb &&& fSign sz)), 0)))

/-- FNEG: ra with its sign inverted (R143) (Table 5-7). -/
def execFneg (x : Exec) (sz : Bool) (rm : BitVec 3) (rd ra : BitVec 5) (s : State) : Res :=
  s.on (fun m => m.issueFp x rm rd (fun _ t => (fLow sz (t.get ra ^^^ fSign sz), 0)))

/-- FABS: ra with its sign cleared (R143) (Table 5-7). -/
def execFabs (x : Exec) (sz : Bool) (rm : BitVec 3) (rd ra : BitVec 5) (s : State) : Res :=
  s.on (fun m => m.issueFp x rm rd (fun _ t => (fLow sz (t.get ra &&& ~~~(fSign sz)), 0)))

/-- FCVT.I: ra to i64 under RM (R145) (Table 5-7). -/
def execFcvtI (x : Exec) (sz : Bool) (rm : BitVec 3) (rd ra : BitVec 5) (s : State) : Res :=
  s.on (fun m => m.issueFp x rm rd (fun r t => fToInt r true (fRead (fmtOf sz) (t.get ra))))

/-- FCVT.U: ra to u64 under RM (R145) (Table 5-7). -/
def execFcvtU (x : Exec) (sz : Bool) (rm : BitVec 3) (rd ra : BitVec 5) (s : State) : Res :=
  s.on (fun m => m.issueFp x rm rd (fun r t => fToInt r false (fRead (fmtOf sz) (t.get ra))))

/-- FCVT.FI: i64(ra) to the format SZ (R146) (Table 5-7). -/
def execFcvtFi (x : Exec) (sz : Bool) (rm : BitVec 3) (rd ra : BitVec 5) (s : State) : Res :=
  s.on (fun m => m.issueFp x rm rd (fun r t => fOfInt (fmtOf sz) r (t.get ra).toInt))

/-- FCVT.FU: u64(ra) to the format SZ (R146) (Table 5-7). -/
def execFcvtFu (x : Exec) (sz : Bool) (rm : BitVec 3) (rd ra : BitVec 5) (s : State) : Res :=
  s.on (fun m => m.issueFp x rm rd (fun r t => fOfInt (fmtOf sz) r (Int.ofNat (t.get ra).toNat)))

/-- FCVT.FF: ra from the other format to SZ (R146) (Table 5-7). -/
def execFcvtFf (x : Exec) (sz : Bool) (rm : BitVec 3) (rd ra : BitVec 5) (s : State) : Res :=
  s.on (fun m => m.issueFp x rm rd (fun r t => fConv (fmtOf sz) r (fRead (fmtOf (!sz)) (t.get ra))))

/-- FMADD: ra times rb plus rc, rounded once (R136). -/
def execFmadd (x : Exec) (sz : Bool) (rm : BitVec 3) (rd ra rb rc : BitVec 5) (s : State) : Res :=
  s.on (fun m => m.issueFp x rm rd (fun r t =>
    fFma (fmtOf sz) r (fRead (fmtOf sz) (t.get ra)) (fRead (fmtOf sz) (t.get rb)) (fRead (fmtOf sz) (t.get rc))))

/-- FMSUB: ra times rb minus rc, rounded once (R136). -/
def execFmsub (x : Exec) (sz : Bool) (rm : BitVec 3) (rd ra rb rc : BitVec 5) (s : State) : Res :=
  s.on (fun m => m.issueFp x rm rd (fun r t =>
    fFma (fmtOf sz) r (fRead (fmtOf sz) (t.get ra)) (fRead (fmtOf sz) (t.get rb)) (fRead (fmtOf sz) (t.get rc)).neg))

/-- FNMADD: minus ra times rb, minus rc, rounded once (R136). -/
def execFnmadd (x : Exec) (sz : Bool) (rm : BitVec 3) (rd ra rb rc : BitVec 5) (s : State) : Res :=
  s.on (fun m => m.issueFp x rm rd (fun r t =>
    fFma (fmtOf sz) r (fRead (fmtOf sz) (t.get ra)).neg (fRead (fmtOf sz) (t.get rb)) (fRead (fmtOf sz) (t.get rc)).neg))

/-- FNMSUB: minus ra times rb, plus rc, rounded once (R136). -/
def execFnmsub (x : Exec) (sz : Bool) (rm : BitVec 3) (rd ra rb rc : BitVec 5) (s : State) : Res :=
  s.on (fun m => m.issueFp x rm rd (fun r t =>
    fFma (fmtOf sz) r (fRead (fmtOf sz) (t.get ra)).neg (fRead (fmtOf sz) (t.get rb)) (fRead (fmtOf sz) (t.get rc))))

/-- FRFS: rd := FPS; RM and SZ are ignored. -/
def execFrfs (x : Exec) (_sz : Bool) (_rm : BitVec 3) (rd : BitVec 5) (s : State) : Res :=
  s.on (fun m => m.issueReg x rd (fun t => t.fps))

/-- FWFS: FPS := ra in the fields of Table 5-11. -/
def execFwfs (x : Exec) (_sz : Bool) (_rm : BitVec 3) (ra : BitVec 5) (s : State) : Res :=
  s.on (fun m => m.issue x .both (fun t => .ok { t.next with fps := fpsWrite t.fps (t.get ra) }))

/-- FCFS: rd := FPS, then FLAGS := 0. -/
def execFcfs (x : Exec) (_sz : Bool) (_rm : BitVec 3) (rd : BitVec 5) (s : State) : Res :=
  s.on (fun m => m.issue x .both (fun t => .ok { (t.put rd t.fps).next with fps := t.fps &&& ~~~0x1F }))

end Sys2Proof.Machine
end

