-- ==== Sys2Proof/Machine/Sop.lean ====
section
/-! DEFINITION. The Stavboaro Object Protocol over CAN FD: requests, segmented transfers, heartbeats and event frames (R385 to R388). -/

namespace Sys2Proof.Machine

/-- Byte k of a frame, 0 beyond its end. -/
def frameByte (b : List Byte) (k : Nat) : Byte := b.getD k 0

/-- Whether a frame carries the whole layout of its command with its reserved bytes 0 (R386, Table 18-6). -/
def sopWellFormed (b : List Byte) : Bool :=
  let n := b.length
  let z := fun (l : List Nat) => l.all (fun k => frameByte b k == 0)
  match (frameByte b 0).toNat with
  | 1 => decide (8 ≤ n) && z [5, 6, 7]
  | 2 => decide (8 + Nat.min 56 (bytesNat ((b.drop 6).take 2)) ≤ n) && decide (8 ≤ n) && z [5]
  | 3 => decide (4 ≤ n) && z [3]
  | 4 => decide (4 ≤ n) && z [3]
  | 5 => decide (4 ≤ n) && z [2, 3]
  | 6 => decide (4 ≤ n) && decide ((frameByte b 3).toNat ≤ 1)
  | _ => false

/-- An access of the field bus. -/
def sopAccess (wr : Bool) (tseq : Byte) (idx : BitVec 16) (sub : Byte) (data : List Byte) (seg : Nat) : Access :=
  { mkAccess .sop wr idx sub data with tseq := tseq.zeroExtend 16, off := if wr then seg else 0 }

namespace Mach

/-- Set the open transfer. -/
def setXfer (m : Mach) (x : Option Xfer) : Mach := { m with sop := { m.sop with xfer := x } }

/-- Whether an answer to a request with this TSEQ and SEGNO is on its way. -/
def sopWaiting (m : Mach) (tseq : Byte) (seg : Nat) : Bool :=
  (m.agent.toList ++ m.agentQ).any (fun a => a.path == .sop && a.tseq == tseq.zeroExtend 16 && a.off == seg)

end Mach

namespace State

/-- Answer a request in place, with a data part; a status other than OK is counted. -/
def sopLocal (s : State) (b : List Byte) (idx : BitVec 16) (sub seg : Byte) (tlen : Nat) (e : Err) (data : List Byte) : State :=
  let m := if e = .ok then s.m else s.m.count 0x4100 0x02
  { s with m := m.sopReply m.nodeId (frameByte b 0) (frameByte b 1) idx sub seg tlen e.code data }

/-- READ: a snapshot of the value is taken, and its first segment returned (R387). -/
def sopRead (s : State) (b : List Byte) (idx : BitVec 16) (sub : Byte) : State :=
  let t := frameByte b 1
  let m := (s.m.setXfer (some { tseq := t, wr := false, idx := idx, sub := sub, len := 0, data := [], seg := 0 }))
  { s with m := { m with sop := { m.sop with lapsed := none } } }.submit (sopAccess false t idx sub [] 0)

/-- WRITE: an expedited write is made at once, a longer one opens a transfer (R387). -/
def sopWrite (s : State) (b : List Byte) (idx : BitVec 16) (sub : Byte) : State :=
  let t := frameByte b 1
  let len := bytesNat ((b.drop 6).take 2)
  let s := { s with m := { s.m with sop := { s.m.sop with lapsed := none } } }
  if len ≤ 56 then s.submit (sopAccess true t idx sub ((b.drop 8).take len) 0)
  else
    let x : Xfer := { tseq := t, wr := true, idx := idx, sub := sub, len := len, data := (b.drop 8).take 56, seg := 1 }
    { s with m := s.m.setXfer (some x) }.sopLocal b idx sub 0 0 .ok []

/-- The open transfer a segment belongs to, by TSEQ and direction. -/
def segXfer (s : State) (b : List Byte) (wr : Bool) : Option Xfer :=
  s.m.sop.xfer.filter (fun x => x.tseq == frameByte b 1 && x.wr == wr && x.seg != 0)

/-- A segment that belongs to no open transfer: TIMEOUT where its transfer lapsed, else BAD_VALUE. -/
def segLost (s : State) (b : List Byte) : State :=
  s.sopLocal b 0 0 (frameByte b 2) 0 (if s.m.sop.lapsed = some (frameByte b 1) then .timeout else .badValue) []

/-- READ_SEG: the next 48 bytes of the snapshot (R387). -/
def sopReadSeg (s : State) (b : List Byte) : State :=
  match s.segXfer b false with
  | none => s.segLost b
  | some x =>
    let n := (frameByte b 2).toNat
    if n ≠ x.seg % 256 then { s with m := s.m.setXfer none }.sopLocal b x.idx x.sub (frameByte b 2) 0 .badValue []
    else
      let last := decide (x.len ≤ 48 * x.seg + 48)
      { s with m := s.m.setXfer (if last then none else some { x with seg := x.seg + 1 }) }.sopLocal b x.idx x.sub (frameByte b 2)
        x.len .ok ((x.data.drop (48 * x.seg)).take 48)

/-- WRITE_SEG: the next 60 bytes of the value; the last segment writes it (R387). -/
def sopWriteSeg (s : State) (b : List Byte) : State :=
  match s.segXfer b true with
  | none => s.segLost b
  | some x =>
    let n := (frameByte b 2).toNat
    let want := Nat.min 60 (x.len - x.data.length)
    if n ≠ x.seg % 256 then { s with m := s.m.setXfer none }.sopLocal b x.idx x.sub (frameByte b 2) 0 .badValue []
    else if b.length < 4 + want then s.sopLocal b x.idx x.sub (frameByte b 2) 0 .badValue []
    else
      let data := x.data ++ (b.drop 4).take want
      if x.len ≤ data.length then
        { s with m := s.m.setXfer none }.submit (sopAccess true x.tseq x.idx x.sub data n)
      else
        { s with m := s.m.setXfer (some { x with data := data, seg := x.seg + 1 }) }.sopLocal b x.idx x.sub (frameByte b 2) 0 .ok []

/-- ABORT: the open transfer ends without writing (R387). -/
def sopAbort (s : State) (b : List Byte) : State :=
  let (i, u) := match s.m.sop.xfer with
    | some x => (x.idx, x.sub)
    | none => (0, 0)
  { s with m := s.m.setXfer none }.sopLocal b i u 0 0 .ok []

/-- LOCK: the request of the management agent, identity 0x30, and the owner after it (R311, R387). -/
def sopLock (s : State) (b : List Byte) : State :=
  if s.m.onlyAlwaysOn then s.sopLocal b 0 0 0 0 .state []
  else
    let n := frameByte b 2
    let m := s.m.lockReq n 0x30 (if frameByte b 3 = 0 then 0x30 else 0)
    { s with m := m }.sopLocal b 0 0 0 0 .ok [(m.lock n).owner]

/-- A request frame: malformed, a repeat, one whose answer is on its way, one that meets an open transfer, or one to be carried out (R385 to R387). -/
def sopRequest (s : State) (b : List Byte) (act : State → State) : State :=
  let s := { s with m := s.m.count 0x4100 0x01 }
  let cmd := (frameByte b 0).toNat
  let t := frameByte b 1
  let seg : Byte := if cmd = 3 ∨ cmd = 4 then frameByte b 2 else 0
  let (i, u) : BitVec 16 × Byte := if cmd = 1 ∨ cmd = 2 then (BitVec.ofNat 16 (bytesNat ((b.drop 2).take 2)), frameByte b 4) else (0, 0)
  if !sopWellFormed b then s.sopLocal b i u seg 0 .badValue []
  else
    match s.m.sop.last.filter (fun l => l.1 == t && l.2.1 == seg) with
    | some l => { s with m := s.m.canSend 0x4 s.m.nodeId l.2.2 }
    | none =>
      if s.m.sopWaiting t seg.toNat then s
      else if (cmd = 1 ∨ cmd = 2 ∨ cmd = 6) ∧ s.m.sop.xfer.isSome then s.sopLocal b i u 0 0 .busy []
      else act s

/-- A frame received: a request of this command, or one with a reserved CMD, addressed to the module's node ID, while the port is not bus-off; it raises source 164 (R385, Table 14-1). -/
def sopFrame (s : State) (cmd : Nat) (ident : BitVec 11) (b : List Byte) (act : State → State) : State :=
  let c := (frameByte b 0).toNat
  let mine := s.m.awake && s.m.busOff.isNone && ident.extractLsb' 7 4 == 3 && ident.truncate 7 == s.m.nodeId && s.m.nodeId != 0
  if !mine || (c != cmd && decide (1 ≤ c ∧ c ≤ 6)) || decide (64 < b.length) then s
  else ({ s with m := if s.m.hubOn then s.m.raiseSource 164 else s.m }).sopRequest b act

end State

/-- Index and subindex of a READ or WRITE request. -/
def frameIdx (b : List Byte) : BitVec 16 := BitVec.ofNat 16 (bytesNat ((b.drop 2).take 2))

/-- READ request (R387). -/
def execRead (ident : BitVec 11) (b : List Byte) (s : State) : Res :=
  .next (s.sopFrame 1 ident b (fun s => s.sopRead b (frameIdx b) (frameByte b 4)))
/-- WRITE request (R387). -/
def execWrite (ident : BitVec 11) (b : List Byte) (s : State) : Res :=
  .next (s.sopFrame 2 ident b (fun s => s.sopWrite b (frameIdx b) (frameByte b 4)))
/-- READ_SEG request (R387). -/
def execReadSeg (ident : BitVec 11) (b : List Byte) (s : State) : Res :=
  .next (s.sopFrame 3 ident b (fun s => s.sopReadSeg b))
/-- WRITE_SEG request (R387). -/
def execWriteSeg (ident : BitVec 11) (b : List Byte) (s : State) : Res :=
  .next (s.sopFrame 4 ident b (fun s => s.sopWriteSeg b))
/-- ABORT request (R387). -/
def execAbort (ident : BitVec 11) (b : List Byte) (s : State) : Res :=
  .next (s.sopFrame 5 ident b (fun s => s.sopAbort b))
/-- LOCK request (R387). -/
def execLock (ident : BitVec 11) (b : List Byte) (s : State) : Res :=
  .next (s.sopFrame 6 ident b (fun s => s.sopLock b))
/-- TRANSFER_LAPSE: the open transfer, idle for 100 ms, lapses and writes nothing (R387). -/
def execTransferLapse (s : State) : Res :=
  s.on (fun m =>
    match m.sop.xfer with
    | some x => if x.seg = 0 then m else { m with sop := { m.sop with xfer := none, lapsed := some x.tseq } }
    | none => m)
/-- SOP_HEARTBEAT (R388). -/
def execSopHeartbeat (s : State) : Res :=
  s.on (fun m =>
    if !m.awake || m.objD 0x1030 0x05 100 == 0 then m
    else
      let flags := b2n m.pw.held + 2 * b2n m.pw.ovr + 4 * b2n (!m.err.log.isEmpty) + 8 * b2n m.evLost
      m.canSend 0x6 m.nodeId ([m.mstate.zeroExtend 8, BitVec.ofNat 8 flags, 0, 0] ++ natBytes 4 m.resetHeldMs))
/-- EVENT_FRAME: the oldest queued event frame is sent (R388). -/
def execEventFrame (s : State) : Res :=
  s.on (fun m =>
    match m.evFrames with
    | e :: r => if !m.awake || m.nodeId == 0 || m.busOff.isSome then m else { m with evFrames := r }.canSend 0x5 m.nodeId e
    | [] => m)

end Sys2Proof.Machine
end

