-- ==== Sys2Proof/Machine/HostIf.lean ====
section
/-! DEFINITION. The host interface: BARs, the aperture, command rings, the command set, MSI-X, bandwidth shares, and loss of the host (R316 to R331, R389). -/

namespace Sys2Proof.Machine

/-- The agent identity of a function (R310). -/
def fnIdentity (fn : Nat) : Byte := BitVec.ofNat 8 (0x20 + fn)

namespace Mach

/-! BAR access (R318, R330, R410) -/

/-- Whether a function's BARs answer: the link is up, the module serves, Memory Space Enable is set and the function is in D0. -/
def barOk (m : Mach) (fn : Nat) : Bool :=
  m.pw.linkUp && m.serving && (m.func fn).mse && !(m.func fn).d3 && (fn == 0 || (decide (fn ≤ 8) && m.vfOn.getLsbD (fn - 1)))

/-- An access to a BAR that does not answer completes with Unsupported Request. -/
def ifBar (m : Mach) (fn : Nat) (f : Mach → Mach) : Mach := if m.barOk fn then f m else m.send (.unsupported fn)

/-- Vectors of a function's MSI-X table, and its aperture entries (Table 15-3). -/
def fnVectors (fn : Nat) : Nat := if fn = 0 then 1024 else 128
def fnEntries (fn : Nat) : Nat := if fn = 0 then 32768 else 4096

/-! The aperture (R319, R320) -/

/-- The job whose host-staging or probe region holds an address. -/
def exchangeJob (m : Mach) (a : Nat) : Option JobId :=
  allJobs.find? (fun j => [(m.job j).staging, (m.job j).probe].any (fun r => decide (r.base ≤ a ∧ a < r.base + r.size)))

/-- Whether a page may be mapped by a function's entry e. -/
def pageOk (m : Mach) (fn e : Nat) (v : Word) : Bool :=
  let page := bits v 37 21
  (match m.exchangeJob (page * 2 ^ 21) with
    | some j => fn == 0 || j.toNat + 1 == fn
    | none => false)
  && !(m.func fn).ap.any (fun q => q.1 != e && q.2.getLsbD 63 && bits q.2 37 21 == page)

/-- A write of an aperture entry: V = 0 is always taken, V = 1 only for a page that may be mapped. -/
def writeAp (m : Mach) (fn e : Nat) (v : Word) : Mach :=
  if fnEntries fn ≤ e then m
  else if v.getLsbD 63 && !m.pageOk fn e v then m.count 0x4E00 0x05
  else m.modFunc fn (fun f => { f with ap := SMap.set f.ap e (v &&& 0xC000003FFFE00000) })

/-- The entry of a BAR2 offset, where it is valid. -/
def apEntry (m : Mach) (fn : Nat) (o : BitVec 36) : Option Word :=
  (SMap.get? (m.func fn).ap (o.toNat / 2 ^ 21)).filter (fun w => w.getLsbD 63 && decide (o.toNat / 2 ^ 21 < fnEntries fn))

/-- The module address of a BAR2 offset through an entry. -/
def apAddr (w : Word) (o : BitVec 36) : Nat := bits w 37 21 * 2 ^ 21 + o.toNat % 2 ^ 21

/-- Bytes of the BAR2 of a function (Table 15-2). -/
def bar2Size (m : Mach) (fn : Nat) : Nat := 2 ^ (30 + (if fn = 0 then m.bar2Pf else m.bar2Vf))

/-- Set the size of BAR2 of a function, of all the VFs for a VF; a size Table 15-2 does not give is not taken. -/
def setBar2 (m : Mach) (fn : Nat) (v : Nat) : Mach :=
  if fn = 0 then (if v ≤ 6 then { m with bar2Pf := v } else m)
  else if v ≤ 3 then { m with bar2Vf := v } else m

/-- A completion of n bytes of HBM at a: it is poisoned where some of them are lost (R242, R320). -/
def complete (m : Mach) (fn a n : Nat) : Mach :=
  let (lost, m) := m.hbmCheck (m.alias_ a) n
  let m := if lost then (m.rangeLost (m.alias_ a) n).count 0x4E00 0x07 else m
  m.upstream (m.exchangeJob a) n (.completion fn (memBytes m.mem (m.alias_ a) n) lost)

/-- Address and length of the completions of a read, at most c bytes each and none across a multiple of c (R315); a read of no byte has one completion. -/
def completions (c a n : Nat) : List (Nat × Nat) :=
  if n = 0 then [(a, 0)]
  else
    ((List.range (n / c + 2)).map (fun i => let lo := Nat.max a ((a / c + i) * c); (lo, Nat.min (a + n) ((a / c + i + 1) * c) - lo))).filter
      (fun r => r.2 != 0)

/-- A BAR2 read within one 4 KiB block: its completions carry the data. -/
def bar2Read (m : Mach) (fn : Nat) (o : BitVec 36) (n : Nat) : Mach :=
  match m.apEntry fn o with
  | none => (m.count 0x4E00 0x06).send (.unsupported fn)
  | some w =>
    let a := apAddr w o
    if m.copyWait a n then m else (completions m.mps a n).foldl (fun m r => m.complete fn r.1 r.2) m

/-- An access to a BAR2 that does not answer, beyond its size, or across a multiple of 4 KiB, which no request of PCI Express crosses, completes with Unsupported Request; so does a read of more than 4,096 bytes, which crosses one (R315; PRESUMED of PCI Express, log entry 51). -/
def ifBar2 (m : Mach) (fn : Nat) (o : BitVec 36) (n : Nat) (f : Mach → Mach) : Mach :=
  if o.toNat < m.bar2Size fn ∧ o.toNat % 4096 + n ≤ 4096 then m.ifBar fn f else m.send (.unsupported fn)

/-- A BAR2 write within one 4 KiB block: stored, or discarded with an advisory error, whose header AER logs; one that reaches HBM after the first reading of a queued load's image is held until then (R276). -/
def bar2Write (m : Mach) (fn : Nat) (o : BitVec 36) (d : HostWrite) : Mach :=
  match (m.apEntry fn o).filter (fun w => w.getLsbD 62) with
  | none => ((m.count 0x4E00 0x06).modFunc fn (fun f => { f with aer := some (f.aer.getD (o, d.bytes.length)) })).send (.advisory fn)
  | some w =>
    let a := apAddr w o
    if m.copyWait a d.bytes.length then m
    else
      let m := if d.late && !m.loads.isEmpty then { m with hostW := m.hostW ++ [(a, d.bytes)] } else m.hostStore a d.bytes
      match m.exchangeJob a with
      | some j => m.countJ 0x4E10 j 0x03 d.bytes.length
      | none => m

/-! Ring pairs (R321 to R323) -/

/-- Whether a function may write a pair's registers: the PF any, a VF its own. -/
def pairMine (m : Mach) (fn k : Nat) : Bool := fn == 0 || m.pairFn k == fn

/-- A pair enters ERROR and takes no further entry. -/
def pairError (m : Mach) (k err : Nat) : Mach :=
  if (m.pair k).stat ≠ 1 then m
  else ((m.modPair k (fun p => { p with stat := 2, err := BitVec.ofNat 8 err })).setEvt (m.pairFn k) 4).count 0x4E00 0x08

/-- The accesses of paths that have gone: those that wait are dropped, and nobody takes the answer of the one under way (R328, R389). -/
def dropAccess (m : Mach) (gone : Path → Bool) : Mach :=
  { m with
    agentQ := m.agentQ.filter (fun a => !gone a.path)
    agent := m.agent.map (fun a => { a with gone := a.gone || gone a.path }) }

/-- Whether a TLP that waits serves a pair. -/
def pairUp (m : Mach) (k : Nat) : Bool := m.up.any (fun t => t.pair == some k)

/-- A pair's command ends without a completion, and nothing waits for it; reads of host memory not sent yet are not sent. -/
def dropPair (m : Mach) (k : Nat) : Mach :=
  let no := fun (l : List (BitVec 6)) => l.filter (fun x => x.toNat != k)
  let m := (m.modPair k (fun p => { p with cur := none, fetched := false, reads := 0 })).dropAccess (fun (p : Path) => p == .ring (BitVec.ofNat 6 k))
  { m with
    up := (m.up.filter (fun t => !(t.pair == some k && (match t.msg with
      | .hostRead _ _ _ => true
      | _ => false)))).map (fun t => if t.pair = some k then { t with pair := none } else t)
    jobs := m.jobs.map (fun (e : Nat × Job) => (e.1, { e.2 with stopWait := no e.2.stopWait, runPair := no e.2.runPair })),
    loads := m.loads.map (fun (j, p, w) => (j, p.filter (fun x => x.toNat != k), w)) }

/-- Whether a number of entries is one the registers take. -/
def ringLogOk (v : BitVec 4) : Bool := decide (4 ≤ v.toNat ∧ v.toNat ≤ 12)

/-- A write of RING_CFG by a function: while EN is 1 only EN and VECTOR are taken; EN going to 1 clears the counts and starts the pair, EN going to 0 stops it. -/
def writeRingCfg (m : Mach) (fn k : Nat) (v : Word) : Mach :=
  if !m.pairMine fn k then m
  else
    let p := m.pair k
    let owner : Byte := v.extractLsb' 48 8
    let sq : BitVec 4 := v.extractLsb' 16 4
    let cq : BitVec 4 := v.extractLsb' 12 4
    let m := if p.en then m
      else m.modPair k (fun p => { p with
        owner := if fn = 0 ∧ 0x20 ≤ owner.toNat ∧ owner.toNat ≤ 0x28 then some owner else p.owner,
        sqLog := if ringLogOk sq then sq else p.sqLog, cqLog := if ringLogOk cq then cq else p.cqLog })
    let m := if bits v 10 0 < fnVectors (m.pairFn k) then m.modPair k (fun p => { p with vector := v.truncate 11 }) else m
    if v.getLsbD 63 && !p.en then
      m.modPair k (fun p => { p with en := true, stat := 1, err := 0, sqHead := 0, sqTail := 0, cqHead := 0, cqTail := 0 })
    else if !v.getLsbD 63 && p.en then (m.dropPair k).modPair k (fun p => { p with en := false, stat := 0 })
    else m

/-- A write of RING_SQ_BASE or RING_CQ_BASE, ignored while EN is 1. -/
def writeRingBase (m : Mach) (fn k : Nat) (cq : Bool) (v : Word) : Mach :=
  if !m.pairMine fn k || (m.pair k).en then m
  else m.modPair k (fun p => if cq then { p with cqBase := v &&& ~~~0xFFF } else { p with sqBase := v &&& ~~~0xFFF })

/-- The read of the next entry of a pair is asked for, once, where one stands and the command before it has completed; its TLP, like all that is not yet known to be a job's, is of the class of its own (R322, R326). -/
def fetchEntry (m : Mach) (k : Nat) : Mach :=
  let p := m.pair k
  if p.stat ≠ 1 ∨ p.sqHead = p.sqTail ∨ p.cur.isSome ∨ p.fetched then m
  else
    let addr := p.sqBase + BitVec.ofNat 64 (64 * (p.sqHead.toNat % 2 ^ p.sqLog.toNat))
    (m.modPair k (fun p => { p with fetched := true })).upstream none 0 (.hostRead (m.pairFn k) addr 64) (some k)

/-- A doorbell: SQ_TAIL takes the value and posts source 64 + k; a tail overrun puts the pair in ERROR, else the read of its next entry is asked for. -/
def writeSqTail (m : Mach) (fn k : Nat) (v : Word) : Mach :=
  if !m.pairMine fn k then m
  else
    let m := (m.modPair k (fun p => { p with sqTail := v.truncate 16 })).requestPost (64 + k)
    let p := m.pair k
    if 2 ^ p.sqLog.toNat < (p.sqTail - p.sqHead).toNat then m.pairError k 1 else m.fetchEntry k

/-- CQ_HEAD takes the value; a head overrun puts the pair in ERROR. -/
def writeCqHead (m : Mach) (fn k : Nat) (v : Word) : Mach :=
  if !m.pairMine fn k then m
  else
    let m := m.modPair k (fun p => { p with cqHead := v.truncate 16 })
    let p := m.pair k
    if 2 ^ p.cqLog.toNat < (p.cqTail - p.cqHead).toNat then m.pairError k 2 else m

/-- Whether a function may reach host memory (R330). -/
def dmaOk (m : Mach) (fn : Nat) : Bool := m.pw.linkUp && m.serving && (m.func fn).bme && !(m.func fn).d3

/-- COMPLETION_WRITE: the completion entry of a done command goes to the link's arbiter while the ring has room (R323). -/
def completionWrite (m : Mach) (k : Nat) : Mach :=
  let p := m.pair k
  let fn := m.pairFn k
  match p.cur with
  | none => m
  | some c =>
    match c.wait with
    | .done status result =>
      if 2 ^ p.cqLog.toNat ≤ (p.cqTail - p.cqHead).toNat ∨ !m.dmaOk fn then m
      else
        let phase := if p.cqTail.toNat / 2 ^ p.cqLog.toNat % 2 = 0 then 1 else 0
        let d := natBytes 2 c.cid.toNat ++ natBytes 2 p.sqHead.toNat ++ natBytes 4 status.toNat ++ natBytes 4 result.toNat
          ++ natBytes 4 phase
        let addr := p.cqBase + BitVec.ofNat 64 (16 * (p.cqTail.toNat % 2 ^ p.cqLog.toNat))
        let m := m.upstream c.job 16 (.hostWrite fn addr d) (some k)
        let m := (m.modPair k (fun p => { p with cqTail := p.cqTail + 1 })).setWait k .written
        match c.job with
        | some j => m.countJ 0x4E10 j 0x01
        | none => m
    | _ => m

/-- The completion entry of a pair's command has been written: its message follows, and the pair's next entry may start (R322, R323). -/
def completionSent (m : Mach) (k : Nat) : Mach :=
  match (m.pair k).cur with
  | some c =>
    if c.wait ≠ .written then m
    else
      let m := m.modPair k (fun p => { p with cur := none })
      (if c.noIrq then m else m.msi (m.pairFn k) (m.pair k).vector.toNat c.job).fetchEntry k
  | none => m

/-! Commands (R324, Table 15-8) -/

/-- The pair takes its next entry, where it may: its function reaches host memory, the pair runs, an entry stands and has been read, and the one before it has completed (R322). -/
def takeCmd (m : Mach) (k : Nat) (e : Sub) : Option Mach :=
  let p := m.pair k
  if p.stat ≠ 1 ∨ p.sqHead = p.sqTail ∨ p.cur.isSome ∨ m.pairUp k ∨ !m.dmaOk (m.pairFn k) then none
  else
    let job : Option JobId := if e.job.toNat < 8 then some (e.job.truncate 3) else none
    let m := m.modPair k (fun p => { p with
      sqHead := p.sqHead + 1, fetched := false, reads := 0, cur := some { cid := e.cid, noIrq := e.flags.getLsbD 0, job := job, wait := .done 0 0 } })
    some (match job with
      | some j => m.countJ 0x4E10 j 0x03 64
      | none => m)

/-- Steps 1 to 4 of R324; no states stands for any. -/
def cmdCheck (m : Mach) (k : Nat) (e : Sub) (states : List JobState) (plain : Bool) : Err :=
  let j : JobId := e.job.truncate 3
  let fn := m.pairFn k
  if e.unknown || e.reserved || bits e.flags 7 1 != 0 || decide (8 ≤ e.job.toNat) then .badValue
  else if fn != 0 && j.toNat + 1 != fn then .access
  else if states != [] && !states.contains (m.job j).state then .state
  else if plain && (m.job j).enc then .access
  else .ok

/-- Step 5 for the buffer of a command: 64 B aligned, at most 16 MiB. -/
def bufOk (e : Sub) : Bool := e.host.toNat % 64 == 0 && decide (e.len.toNat ≤ 2 ^ 24)

/-- A command of the host: taken, checked, and, where every check passes, carried out. -/
def hostCmd (m : Mach) (k : Nat) (e : Sub) (states : List JobState) (plain : Bool) (args : Mach → Bool) (eff : Mach → Mach) : Mach :=
  match m.takeCmd k e with
  | none => m
  | some m' =>
    match m'.cmdCheck k e states plain with
    | .ok => if args m' then eff m' else m'.completeCmd k Err.badValue.code 0
    | c => m'.completeCmd k c.code 0

/-- Complete a command with an outcome. -/
def cmdEnd (m : Mach) (k : Nat) (e : Err) (result : Nat := 0) : Mach :=
  m.completeCmd k e.code (if e = .ok then BitVec.ofNat 32 result else 0)

/-- A host memory error: the command completes with HARDWARE, and the pair enters ERROR (R322, R324). -/
def hostFail (m : Mach) (k : Nat) : Mach := (m.cmdEnd k .hardware).pairError k 3

/-- Addresses and lengths of the reads of some bytes of host memory: at most 512 B each (R315). -/
def readCuts (addr n : Nat) : List (Nat × Nat) := completions 512 addr n

/-- A command reads host memory: its read requests go to the arbiter, charged to its job, and it waits for what they bring; an access that fails ends it (R322, R324, R326). -/
def hostFetch (m : Mach) (k : Nat) (op : HostOp) (e : Sub) (n : Nat) (host : Option (List Byte)) : Mach :=
  match host with
  | none => m.hostFail k
  | some d =>
    ((readCuts e.host.toNat n).foldl (fun m x =>
      m.upstream (m.cmdJob k) 0 (.hostRead (m.pairFn k) (BitVec.ofNat 64 x.1) x.2) (some k)) m).setWait k (.fetch op e (d.take n))

/-- Bytes read from host memory for a command are counted for its job. -/
def hostGot (m : Mach) (k n : Nat) : Mach :=
  match m.cmdJob k with
  | some j => m.countJ 0x4E10 j 0x03 n
  | none => m

/-- A request that may still wait when it returns: its command waits, or completes. -/
def cmdWait (m : Mach) (k : Nat) (w : CmdWait) (f : Mach → Err × Bool × Mach) : Mach :=
  let (e, waits, m) := f (m.setWait k w)
  if waits then m else m.cmdEnd k e

/-- The node a command names, where it is a node of the job on this module (R189). -/
def cmdNode (m : Mach) (e : Sub) : Option NRef :=
  let n : NodeId := e.a0.truncate 40
  let r : NRef := ⟨e.job.truncate 3, nodePe n, nodeLocal n⟩
  if bits e.a0 63 40 = 0 ∧ nodeMod n = m.number ∧ bits n 31 30 = 0 ∧ m.nodeExists r then some r else none

/-- CONTROL: the control token is formed with plane B given, admitted at or above SH, and injected, after it returns a HALTED job to RUN; READ_NODE leaves the address its copy goes to (R40, R79, R189, R195). -/
def control (m : Mach) (k : Nat) (e : Sub) (b : Word) : Mach :=
  let j : JobId := e.job.truncate 3
  let node : NodeId := e.a0.truncate 40
  let tag : Tag := ⟨e.a1, e.a2.truncate 12⟩
  let port : BitVec 3 := e.a2.extractLsb' 16 3
  if tag.lt (m.job j).sh then m.cmdEnd k .belowRange
  else
    let m := if (m.job j).state = .halted then m.enterRun j else m
    let m := m.hubInject 0x8300 (Token.mk' ((e.a2.extractLsb' 20 3).zeroExtend 8) j true 2 port node tag.short tag.delta e.a3 b) tag
    let m := if port = 3 then
        m.modJob j (fun x => { x with readReqs := x.readReqs ++ [⟨m.pairFn k, e.host, node, tag⟩] })
      else m
    m.cmdEnd k .ok

/-- Copy HBM to host memory for a command; data that cannot be read completes it with HARDWARE. -/
def copyOut (m : Mach) (k : Nat) (e : Sub) (a n : Nat) : Mach :=
  let (lost, m) := m.hbmCheck (m.alias_ a) n
  if lost then (m.rangeLost (m.alias_ a) n).cmdEnd k .hardware else m.dmaOut k e.host (memBytes m.mem (m.alias_ a) n) (BitVec.ofNat 32 n)

/-- Copy bytes of host memory to HBM for a command. -/
def copyIn (m : Mach) (k : Nat) (e : Sub) (a : Nat) (d : List Byte) : Mach :=
  (m.hbmWrite (m.alias_ a) d).cmdEnd k .ok e.len.toNat

/-- Whether the range of DM_READ or DM_WRITE lies in the job's design memory. -/
def dmRange (m : Mach) (e : Sub) : Bool := bufOk e && decide (e.a0.toNat + e.len.toNat ≤ (m.job (e.job.truncate 3)).dmSize)

/-- Whether a command of design memory waits: a store of its job, in a state where none is speculative, has not been written (R162, R176). -/
def storesWait (m : Mach) (k : Nat) (e : Sub) : Bool :=
  let j : JobId := e.job.truncate 3
  (m.pair k).cur.isNone && [JobState.paused, .halted, .timeExhausted, .faulted].contains (m.job j).state
    && m.tiles.any (fun t => t.2.journal.any (fun q =>
      let r : NRef := ⟨j, (BitVec.ofNat 6 t.1) ++ q.2.node.extractLsb' 17 7, q.2.node.truncate 17⟩
      q.2.job == j && !q.2.tail && (q.2.undo1.getLsbD 31 || q.2.undo1.getLsbD 63) && m.nMode r == 3 && m.nJn r == 2))

/-- Whether a command's access to HBM waits because a unit it names is being copied: the command is not yet taken (R252). -/
def copyHolds (m : Mach) (k : Nat) (l : List (Nat × Nat)) : Bool :=
  (m.pair k).cur.isNone && l.any (fun r => m.copyWait r.1 r.2)

/-- Module address of the range of DM_READ or DM_WRITE. -/
def dmAddr (m : Mach) (e : Sub) : Nat := (m.job (e.job.truncate 3)).dmem.base + e.a0.toNat

/-- The held values and state of a node, as READ_STATE copies them. -/
def stateRanges (m : Mach) (r : NRef) : List (Nat × Nat) := [(m.recAddr r + 32, 32), (m.stAddr r, 128)]

/-- Whether the range of STAGE_IN or STAGE_OUT lies in a host-staging or probe region of the job. -/
def stageRange (m : Mach) (e : Sub) : Bool :=
  let b := m.job (e.job.truncate 3)
  bufOk e && [b.staging, b.probe].any (fun r => r.size != 0 && decide (r.base ≤ e.a0.toNat ∧ e.a0.toNat + e.len.toNat ≤ r.base + r.size))

/-! Arbitration of the link (R326) -/

/-- The class of a TLP: its job, or 8. -/
def Tlp.cls (t : Tlp) : Nat := match t.job with
  | some j => j.toNat
  | none => 8

/-- Bytes still owed to a class in the window. -/
def upOwed (m : Mach) (c : Nat) : Nat :=
  if 8 ≤ c then 0
  else SMap.getD m.upShare c 0 * Config.pcieWindowBytes m.pw.linkRate m.pw.linkWidth / 100 - SMap.getD m.upUsed c 0

/-- Whether a TLP may leave: a write, a read or a message of a function that may not master the bus waits (R330), and so does a read while 512 stand unanswered (R315). -/
def upMay (m : Mach) (t : Tlp) : Bool :=
  match t.msg with
  | .hostWrite fn _ _ | .msix fn _ => (m.func fn).bme && !(m.func fn).d3
  | .hostRead fn _ _ => (m.func fn).bme && !(m.func fn).d3 && decide ((m.pairs.map (fun e => e.2.reads)).foldl (· + ·) 0 < 512)
  | _ => true

/-- TLPs without the messages of functions one of whose writes waits before them: a message never passes a completion entry (R323). -/
def inOrder (wr : List Nat) : List Tlp → List Tlp
  | [] => []
  | t :: r =>
    match t.msg with
    | .hostWrite fn _ _ => t :: inOrder (fn :: wr) r
    | .msix fn _ => if fn ∈ wr then inOrder wr r else t :: inOrder wr r
    | _ => t :: inOrder wr r

/-- TLPs the arbiter may take. -/
def upReady (m : Mach) : List Tlp := (inOrder [] m.up).filter m.upMay

/-- The TLP the link sends next, and the jobs that yield to it. -/
def upPick (m : Mach) : Option Tlp × List JobId :=
  let up := m.upReady
  let owed := fun (t : Tlp) => m.upOwed (Tlp.cls t) != 0
  let turn := fun (t : Tlp) => (Tlp.cls t + 8 - m.upLast) % 9
  let rr := leastBy (fun a b => decide (turn a < turn b))
  match up.find? (fun t => decide (8192 ≤ m.cycle - t.since)) with
  | some t => (some t, (((up.filter (fun y => Tlp.cls y != Tlp.cls t && owed y)).map (fun y => BitVec.ofNat 3 (Tlp.cls y))).eraseDups))
  | none =>
    match rr (up.filter owed) with
    | some t => (some t, [])
    | none => (rr up, [])

/-- What a TLP that has left does to the pair it serves: a read stands unanswered, and a completion entry is written. -/
def tlpSent (m : Mach) (t : Tlp) : Mach :=
  match t.pair, t.msg with
  | some k, .hostRead _ _ _ => m.modPair k (fun p => { p with reads := p.reads + 1 })
  | some k, .hostWrite _ _ _ => m.completionSent k
  | _, _ => m

/-- TLP_ARBITRATION: the link sends the next TLP. -/
def sendTlp (m : Mach) : Mach :=
  if !m.pw.linkUp then m
  else
    match m.upPick with
    | (none, _) => m
    | (some t, ys) =>
      let m := ys.foldl (fun m j => m.yieldShare j 0x13) m
      let m := match t.job with
        | some j => m.countJ 0x4E10 j 0x02 t.bytes
        | none => m
      { m with up := removeFirst (fun y => y == t) m.up, upLast := Tlp.cls t,
               upUsed := SMap.modify m.upUsed (Tlp.cls t) 0 (· + t.bytes), sent := m.sent ++ [t.msg] }.tlpSent t

/-! Configuration bits and MSI-X (R325, R330) -/

/-- Send each pending message no mask holds back any more, and each held message once DMA is permitted. -/
def releaseMsgs (m : Mach) (fn : Nat) : Mach :=
  let f := m.func fn
  let open_ := fun (v : Nat × Option JobId) => f.msixEn && !f.fmask && decide (v.1 ∈ f.unmasked)
  let go := f.pendVec.filter open_
  let m := m.modFunc fn (fun f => { f with pendVec := f.pendVec.filter (fun v => !open_ v) })
  let m := go.foldl (fun m v => m.msi fn v.1 v.2) m
  if f.bme && !f.d3 then
    let held := (m.func fn).heldVec
    held.foldl (fun m v => m.msi fn v.1 v.2) (m.modFunc fn (fun f => { f with heldVec := [] }))
  else m

/-- A change of an MSI-X mask or enable. -/
def msixChange (m : Mach) (fn : Nat) (b : MsixBit) : Mach :=
  (m.modFunc fn (fun f => match b with
    | .enable v => { f with msixEn := v }
    | .function v => { f with fmask := v }
    | .vector n masked =>
      if fnVectors fn ≤ n.toNat then f
      else { f with unmasked := (f.unmasked.filter (· != n.toNat)) ++ (if masked then [] else [n.toNat]) })).releaseMsgs fn

/-! Loss of a function (R328, R329) -/

/-- The function a message leaves by. -/
def sentFn : Sent → Option Nat
  | .msix fn _ | .hostWrite fn _ _ | .hostRead fn _ _ | .completion fn _ _ | .unsupported fn | .advisory fn => some fn
  | _ => none

/-- What a function holds in the device goes: its pairs but for their owners, its aperture and vectors, its messages, its mailbox with the access it asked for, and its locks. -/
def clearFn (m : Mach) (fn : Nat) : Mach :=
  let ks := (List.range 64).filter (fun k => m.pairFn k = fn)
  let m := ks.foldl (fun m k => (m.dropPair k).modPair k (fun p => { ({} : Pair) with owner := p.owner })) m
  ({ m.dropAccess (fun (p : Path) => p == Path.mbx (BitVec.ofNat 4 fn)) with
    funcs := SMap.erase m.funcs fn, mbx := SMap.erase m.mbx fn,
    up := m.up.filter (fun t => sentFn t.msg != some fn), mps := if fn = 0 then 128 else m.mps,
    jobs := m.jobs.map (fun (e : Nat × Job) => (e.1, { e.2 with readReqs := e.2.readReqs.filter (fun q => q.fn != fn) })) }).ownerDeath
      (fnIdentity fn).toNat

/-- A job whose function is lost enters FAULTED, unless it is EMPTY or in TIME EXHAUSTED. -/
def loseJob (m : Mach) (j : JobId) (fn : Nat) : Mach :=
  if (m.job j).state = .timeExhausted then m else m.faultJob j 0x0301 0x0D fn

/-- The loss of VF j. -/
def loseVf (m : Mach) (j : JobId) : Mach :=
  ((m.loseJob j (1 + j.toNat)).abortLoads (fun x => x == j)).clearFn (1 + j.toNat)

/-- The loss of the PF: every VF is lost, and the jobs bound to the PF are handled by HOST_LOSS_ACTION. -/
def losePf (m : Mach) : Mach :=
  let vfs := allJobs.filter (fun j => m.vfOn.getLsbD j.toNat)
  let own := allJobs.filter (fun j => !m.vfOn.getLsbD j.toNat)
  let m := vfs.foldl loseVf { m with vfOn := 0 }
  let m := (m.abortLoads (fun x => own.contains x)).clearFn 0
  own.foldl (fun m j =>
    if m.objD 0x2800 0x01 0 = 0 then m.loseJob j 0
    else if (m.job j).state = .run then m.pauseInside j none 0x0D else m) m

/-- Loss of the PCIe link. -/
def linkLoss (m : Mach) : Mach :=
  if !m.pw.linkUp then m
  else (m.losePf.count 0x4E00 0x03).modPw (fun x => { x with linkUp := false, linkRate := 0, linkWidth := 0 })

/-- VF Enable and NumVFs leave n VFs enabled; those above are lost. -/
def setVfs (m : Mach) (n : Nat) : Mach :=
  let new : Byte := BitVec.ofNat 8 (2 ^ Nat.min n 8 - 1)
  let gone := allJobs.filter (fun j => m.vfOn.getLsbD j.toNat && !new.getLsbD j.toNat)
  gone.foldl loseVf { m with vfOn := new }

/-- The object access that MBX_REQ asks for, before its data is taken. -/
def mbxFields (old v : Word) : Word :=
  let op := if bits v 55 48 = 1 ∨ bits v 55 48 = 2 then bits v 55 48 else bits old 55 48
  let len := if bits v 23 12 ≤ 3840 then bits v 23 12 else bits old 23 12
  at64 op 48 ||| at64 (bits v 47 24) 24 ||| at64 len 12 ||| at64 (bits v 11 0) 0

end Mach

/-- A write of MBX_REQ: its fields are stored, and GO starts an access unless one is in progress (R389). -/
def State.mbxReq (s : State) (fn : BitVec 4) (v : Word) : State :=
  let x := s.m.mailbox fn.toNat
  if v.getLsbD 63 && x.busy then s
  else
    let w := Mach.mbxFields x.req v
    let m := s.m.modMbx fn.toNat (fun x => { x with req := w, busy := v.getLsbD 63 || x.busy })
    if !v.getLsbD 63 then { s with m := m }
    else
      let m := m.count 0x4100 0x05
      let len := bits w 23 12
      let data := ((List.range 480).flatMap (fun i => natBytes 8 (SMap.getD x.data i 0).toNat)).take len
      let a : Access := { mkAccess (.mbx fn) (bits w 55 48 == 2) (w.extractLsb' 32 16) (w.extractLsb' 24 8) data with
        len := len, off := if bits w 55 48 = 2 then 0 else bits w 11 0 }
      if bits w 55 48 = 0 then { s with m := m.answer 0 { a with status := Err.badValue.code } }
      else { s with m := m }.submit a

/-- A write of an object by the command of a pair, answered in place (R324). -/
def State.cmdObj (s : State) (k : BitVec 6) (idx : BitVec 16) (sub : Byte) (d : List Byte) : Err × State :=
  s.objWrite (.ring k) idx.toNat sub.toNat d

/-- LOAD: both objects are written, then the load is asked for; it completes at its end, or here with the first refusal (R273). -/
def State.cmdLoad (s : State) (k : BitVec 6) (e : Sub) : State :=
  let j : JobId := e.job.truncate 3
  let fail := fun (c : Err) => { s with m := s.m.cmdEnd k.toNat c }
  match s.cmdObj k (jobIdx j) 0x60 (natBytes 8 e.a0.toNat) with
  | (.ok, s1) =>
    match s1.cmdObj k (jobIdx j) 0x61 (natBytes 8 e.a1.toNat) with
    | (.ok, s2) =>
      match (s2.m.setWait k.toNat .load).loadAsk j 1 (some k) with
      | (.ok, m) => { s with m := m }
      | (c, _) => fail c
    | (c, _) => fail c
  | (c, _) => fail c

/-- Carry a command out on the whole state, after its checks. -/
def State.command (s : State) (k : BitVec 6) (e : Sub) (states : List JobState) (args : Bool) (eff : State → State) : State :=
  match s.m.takeCmd k.toNat e with
  | none => s
  | some m =>
    match m.cmdCheck k.toNat e states false with
    | .ok => if args then eff { s with m := m } else { s with m := m.cmdEnd k.toNat .badValue }
    | c => { s with m := m.cmdEnd k.toNat c }

/-- The states of a command that reads host memory, whether it refuses an encrypted image, and whether its operands pass (Table 15-8). -/
def Mach.hostSpec (m : Mach) (op : HostOp) (e : Sub) : List JobState × Bool × Bool :=
  match op with
  | .objWrite => ([], false, Mach.bufOk e)
  | .control => ([.loaded, .run, .paused, .halted], e.a2.extractLsb' 16 3 == (3#3), e.host.toNat % 64 == 0 && (m.cmdNode e).isSome)
  | .dmWrite => ([.loaded, .paused], true, m.dmRange e)
  | .stageIn => ([], false, m.stageRange e)

/-- Carry out a command of a pair, or the rest of it, where the checks of R324 pass. -/
def State.hostChecked (s : State) (k : BitVec 6) (e : Sub) (op : HostOp) (eff : State → State) : State :=
  let (states, plain, args) := s.m.hostSpec op e
  match s.m.cmdCheck k.toNat e states plain with
  | .ok => if args then eff s else { s with m := s.m.cmdEnd k.toNat .badValue }
  | c => { s with m := s.m.cmdEnd k.toNat c }

/-- What a command that reads host memory does with the bytes its reads brought, as the checks of R324 stand before it acts. -/
def State.hostData (s : State) (k : BitVec 6) (op : HostOp) (e : Sub) (d : List Byte) : State :=
  { s with m := s.m.hostGot k.toNat d.length }.hostChecked k e op (fun s =>
    match op with
    | .objWrite => { s with m := s.m.setWait k.toNat (.obj e.host) }.submit
        (mkAccess (.ring k) true (e.a0.extractLsb' 8 16) (e.a0.truncate 8) d)
    | .control => { s with m := s.m.control k.toNat e (BitVec.ofNat 64 (bytesNat d)) }
    | .dmWrite => { s with m := s.m.copyIn k.toNat e (s.m.dmAddr e) d }
    | .stageIn => { s with m := s.m.copyIn k.toNat e e.a0.toNat d })

/-- A command's n bytes of host memory: it waits for the reads that bring them, and with none to read it goes on. -/
def State.fetched (s : State) (k : BitVec 6) (op : HostOp) (e : Sub) (n : Nat) (host : Option (List Byte)) : State :=
  if n = 0 then s.hostData k op e [] else { s with m := s.m.hostFetch k.toNat op e n host }

/-- A command that may read host memory: taken, checked, and, where every check passes, carried out. -/
def State.hostCommand (s : State) (k : BitVec 6) (e : Sub) (op : HostOp) (eff : State → State) : State :=
  match s.m.takeCmd k.toNat e with
  | none => s
  | some m => { s with m := m }.hostChecked k e op eff

/-- HOST_DMA_COMPLETION of a pair: the requests sent so far are answered; while some wait to be sent the command waits on; else its writes have ended and it completes, or its reads have and it proceeds. An access that fails ends the command and puts the pair in ERROR (R322, R324). -/
def State.dmaDone (s : State) (k : BitVec 6) (ok : Bool) : State :=
  let m := s.m.modPair k.toNat (fun p => { p with reads := 0 })
  let busy := m.pairUp k.toNat
  match ((m.pair k.toNat).cur).map (fun (c : RingCmd) => c.wait) with
  | some (.dma st res) => { s with m := if !ok then m.hostFail k.toNat else if busy then m else m.completeCmd k.toNat st res }
  | some (.fetch op e d) =>
    if !ok then { s with m := m.hostFail k.toNat }
    else if busy then { s with m := m }
    else { s with m := m }.hostData k op e d
  | _ => { s with m := if ok then m else m.pairError k.toNat 3 }

/-! The commands -/

/-- BAR2_READ (R320). -/
def execBar2Read (fn : BitVec 4) (o : BitVec 36) (n : BitVec 13) (s : State) : Res :=
  let fn := theFn fn
  s.on (fun m => m.ifBar2 fn.toNat o n.toNat (fun m => m.bar2Read fn.toNat o n.toNat))
/-- BAR2_WRITE (R320). -/
def execBar2Write (fn : BitVec 4) (o : BitVec 36) (data : HostWrite) (s : State) : Res :=
  let fn := theFn fn
  s.on (fun m => m.ifBar2 fn.toNat o data.bytes.length (fun m => m.bar2Write fn.toNat o data))
/-- APERTURE_ENTRY (R319). -/
def execApertureEntry (fn : BitVec 4) (e : BitVec 15) (v : Word) (s : State) : Res :=
  let fn := theFn fn
  s.on (fun m => m.ifBar fn.toNat (fun m => m.writeAp fn.toNat e.toNat v))
/-- RING_CFG (R321). -/
def execRingCfg (fn : BitVec 4) (k : BitVec 6) (v : Word) (s : State) : Res :=
  let fn := theFn fn
  s.on (fun m => m.ifBar fn.toNat (fun m => m.writeRingCfg fn.toNat k.toNat v))
/-- RING_SQ_TAIL (R321). -/
def execRingSqTail (fn : BitVec 4) (k : BitVec 6) (v : Word) (s : State) : Res :=
  let fn := theFn fn
  s.on (fun m => m.ifBar fn.toNat (fun m => m.writeSqTail fn.toNat k.toNat v))
/-- COMPLETION_WRITE (R323). -/
def execCompletionWrite (k : BitVec 6) (s : State) : Res := s.on (fun m => m.completionWrite k.toNat)
/-- NOP. -/
def execCmdNop (k : BitVec 6) (e : Sub) (s : State) : Res :=
  s.on (fun m => m.hostCmd k.toNat e [] false (fun _ => true) (fun m => m.cmdEnd k.toNat .ok))
/-- OBJ_READ. -/
def execCmdObjRead (k : BitVec 6) (e : Sub) (s : State) : Res :=
  .next (s.command k e [] (Mach.bufOk e) (fun s =>
    { s with m := s.m.setWait k.toNat (.obj e.host) }.submit
      { mkAccess (.ring k) false (e.a0.extractLsb' 8 16) (e.a0.truncate 8) [] with len := e.len.toNat }))
/-- OBJ_WRITE: the value is read from host memory first. -/
def execCmdObjWrite (k : BitVec 6) (e : Sub) (host : Option (List Byte)) (s : State) : Res :=
  .next (s.command k e [] (Mach.bufOk e) (fun s => s.fetched k .objWrite e e.len.toNat host))
/-- LOAD. -/
def execCmdLoad (k : BitVec 6) (e : Sub) (s : State) : Res := .next (s.command k e [.empty] true (fun s => s.cmdLoad k e))
/-- UNLOAD. -/
def execCmdUnload (k : BitVec 6) (e : Sub) (s : State) : Res :=
  s.on (fun m => m.hostCmd k.toNat e [.loaded, .paused, .halted, .timeExhausted, .faulted] false (fun _ => true) (fun m =>
    let (c, m) := m.unload (e.job.truncate 3)
    m.cmdEnd k.toNat c))
/-- RUN. -/
def execCmdRun (k : BitVec 6) (e : Sub) (s : State) : Res :=
  s.on (fun m => m.hostCmd k.toNat e [.loaded] false (fun _ => true) (fun m =>
    m.cmdWait k.toNat .run (fun m => m.runJob (e.job.truncate 3) (some k))))
/-- PAUSE: a write of PAUSE_TIME. -/
def execCmdPause (k : BitVec 6) (e : Sub) (s : State) : Res :=
  .next (s.command k e [.run] true (fun s =>
    let (c, s) := s.cmdObj k (jobIdx (e.job.truncate 3)) 0x41 (natBytes 8 e.a0.toNat)
    { s with m := s.m.cmdEnd k.toNat c }))
/-- RESUME: a write of RESUME := 1. -/
def execCmdResume (k : BitVec 6) (e : Sub) (s : State) : Res :=
  s.on (fun m => m.hostCmd k.toNat e [.run, .paused] false (fun _ => true) (fun m =>
    m.cmdWait k.toNat .run (fun m => m.resumeJob (e.job.truncate 3) 1 (some k))))
/-- STOP. -/
def execCmdStop (k : BitVec 6) (e : Sub) (s : State) : Res :=
  s.on (fun m => m.hostCmd k.toNat e [.run, .paused, .halted, .timeExhausted, .faulted] false (fun _ => true) (fun m =>
    m.cmdWait k.toNat .stop (fun m => m.stopJob (e.job.truncate 3) (some k))))
/-- CONTROL, of which plane B is read from host memory first where HOST_ADDR is not 0. -/
def execCmdControl (k : BitVec 6) (e : Sub) (host : Option (List Byte)) (s : State) : Res :=
  let read := e.a2.extractLsb' 16 3 == (3#3)
  .next (s.hostCommand k e .control (fun s =>
    if read || e.host == 0 then { s with m := s.m.control k.toNat e 0 } else s.fetched k .control e 8 host))
/-- READ_STATE: a lost half of the node's record or state completes it with HARDWARE and faults the job (R242). -/
def execCmdReadState (k : BitVec 6) (e : Sub) (s : State) : Res :=
  s.on (fun m => if m.copyHolds k.toNat (((m.cmdNode e).map m.stateRanges).getD []) then m else
    m.hostCmd k.toNat e [.paused, .halted, .timeExhausted, .faulted] true
    (fun m => e.host.toNat % 64 == 0 && (m.cmdNode e).isSome) (fun m =>
      match m.cmdNode e with
      | none => m.cmdEnd k.toNat .badValue
      | some r =>
        let (lost, m) := m.regionFetch r.job (m.stateRanges r)
        if lost || (m.job r.job).undoLost.contains (r.pe, r.node) then m.cmdEnd k.toNat .hardware
        else m.dmaOut k.toNat e.host (memBytes m.mem (m.recAddr r + 32) 32 ++ memBytes m.mem (m.stAddr r) 128) 160))
/-- DM_READ; it waits for the committed stores of the job that are not yet written. -/
def execCmdDmRead (k : BitVec 6) (e : Sub) (s : State) : Res :=
  s.on (fun m => if m.storesWait k.toNat e || m.copyHolds k.toNat [(m.dmAddr e, e.len.toNat)] then m
    else m.hostCmd k.toNat e [.paused, .halted, .timeExhausted, .faulted] true (fun m => m.dmRange e) (fun m =>
      m.copyOut k.toNat e (m.dmAddr e) e.len.toNat))
/-- DM_WRITE; it waits for the committed stores of the job that are not yet written. -/
def execCmdDmWrite (k : BitVec 6) (e : Sub) (host : Option (List Byte)) (s : State) : Res :=
  .next (if s.m.storesWait k.toNat e || s.m.copyHolds k.toNat [(s.m.dmAddr e, e.len.toNat)] then s
    else s.hostCommand k e .dmWrite (fun s => s.fetched k .dmWrite e e.len.toNat host))
/-- STAGE_IN. -/
def execCmdStageIn (k : BitVec 6) (e : Sub) (host : Option (List Byte)) (s : State) : Res :=
  .next (if s.m.copyHolds k.toNat [(e.a0.toNat, e.len.toNat)] then s
    else s.hostCommand k e .stageIn (fun s => s.fetched k .stageIn e e.len.toNat host))
/-- STAGE_OUT. -/
def execCmdStageOut (k : BitVec 6) (e : Sub) (s : State) : Res :=
  s.on (fun m => if m.copyHolds k.toNat [(e.a0.toNat, e.len.toNat)] then m
    else m.hostCmd k.toNat e [] false (fun m => m.stageRange e) (fun m => m.copyOut k.toNat e e.a0.toNat e.len.toNat))
/-- TLP_ARBITRATION (R326). -/
def execTlpArbitration (s : State) : Res := s.on Mach.sendTlp
/-- FLR_VF (R328). -/
def execFlrVf (j : JobId) (s : State) : Res :=
  s.on (fun m => if m.pw.linkUp && m.vfOn.getLsbD j.toNat then (m.loseVf j).count 0x4E00 0x04 else m)
/-- FLR_PF (R329). -/
def execFlrPf (s : State) : Res := s.on (fun m => if m.pw.linkUp then m.losePf.count 0x4E00 0x04 else m)
/-- LINK_LOSS (R329). -/
def execLinkLoss (s : State) : Res := s.on Mach.linkLoss
/-- PERST_ASSERT: while the link is up, a link loss (R432). -/
def execPerstAssert (s : State) : Res := s.on (fun m => m.linkLoss.modPw (fun x => { x with perst := false }))
/-- VF_ENABLE_CHANGE (R328). -/
def execVfEnableChange (n : BitVec 4) (s : State) : Res := s.on (fun m => if m.pw.linkUp then m.setVfs n.toNat else m)
/-- BUS_MASTER_ENABLE (R325, R330). -/
def execBusMasterEnable (fn : BitVec 4) (on : Bool) (s : State) : Res :=
  let fn := theFn fn
  s.on (fun m => (m.modFunc fn.toNat (fun f => { f with bme := on })).releaseMsgs fn.toNat)
/-- MEMORY_SPACE_ENABLE, with the size of BAR2 and the PF's maximum payload size where the configuration access sets them; a size of BAR2 is taken while the bit is 0, and a payload size is one of 128, 256 and 512 B (R315, R318, R330). -/
def execMemorySpaceEnable (fn : BitVec 4) (v : MemSpace) (s : State) : Res :=
  let fn := theFn fn
  s.on (fun m =>
    let m := match v.bar2 with
      | some z => if (m.func fn.toNat).mse then m else m.setBar2 fn.toNat z.toNat
      | none => m
    let m := match v.payload with
      | some z => if fn = 0 ∧ z.toNat < 3 then { m with mps := 128 * 2 ^ z.toNat } else m
      | none => m
    m.modFunc fn.toNat (fun f => { f with mse := v.on }))
/-- POWER_STATE_CHANGE: the PF leaving D3hot asks for a wake (R330, R416). -/
def execPowerStateChange (fn : BitVec 4) (d3 : Bool) (s : State) : Res :=
  let fn := theFn fn
  s.on (fun m =>
    let was := (m.func fn.toNat).d3
    let m := (m.modFunc fn.toNat (fun f => { f with d3 := d3 })).releaseMsgs fn.toNat
    if fn == 0 && was && !d3 then m.wakeAsk else m)
/-- MBX_REQ (R389). -/
def execMbxReq (fn : BitVec 4) (v : Word) (s : State) : Res :=
  let fn := theFn fn
  .next (if s.m.barOk fn.toNat then s.mbxReq fn v else { s with m := s.m.send (.unsupported fn.toNat) })
/-- MSIX_MASK_CHANGE: the enable and the function's mask are configuration bits; a vector's mask lies in BAR0 (R325, R410). -/
def execMsixMaskChange (fn : BitVec 4) (b : MsixBit) (s : State) : Res :=
  let fn := theFn fn
  s.on (fun m => match b with
    | .vector _ _ => m.ifBar fn.toNat (fun m => m.msixChange fn.toNat b)
    | _ => m.msixChange fn.toNat b)
/-- HOST_DMA_COMPLETION: reads or writes of host memory have ended, or an access for the pair has failed (R322). -/
def execHostDmaCompletion (k : BitVec 6) (ok : Bool) (s : State) : Res := .next (s.dmaDone k ok)

end Sys2Proof.Machine
end

