-- ==== Sys2Proof/Machine/Irq.lean ====
section
/-! DEFINITION. The interrupt controller and the lock bank: edges, offers, entries, exits, masks, locks and leases (chapter 14). -/

namespace Sys2Proof.Machine

/-- RUNPRIO of a core, 16 when no frame stands; a frame that is exiting does not count (Tables 14-3 and 14-5). -/
def runPrio (x : Core) : Nat :=
  match (if x.entry.any (·.tail) then x.frames.drop 1 else x.frames) with
  | f :: _ => f.prio.toNat
  | [] => 16

/-- The best source a view offers to a core below a running priority: lowest PRIO, then lowest number (R300). -/
def bestOffer (v : IcView) (c run : Nat) : Option Nat :=
  leastBy (fun x y => decide (cfgPrio (icCfg v x) < cfgPrio (icCfg v y)))
    ((Mach.pendingFor v c).filter (fun s => decide (cfgPrio (icCfg v s) < run)))
where
  icCfg := Mach.icCfg
  cfgPrio := Mach.cfgPrio

namespace Mach

/-- The registers as they stood at the start of the k-th hub cycle before this one; before the first recorded cycle nothing was pending. -/
def icBefore (m : Mach) (k : Nat) : IcView := m.ic.hist.getD k {}

/-- Whether a core can begin an entry: IE is 1 and it is at an instruction boundary (R301). -/
def entryBoundary (x : Core) : Bool :=
  ieBit x && !x.fresh && (match x.run with
    | .running | .waiting | .posting _ => true
    | _ => false)

/-- The best eligible source is offered to a core: an entry in progress of a worse source is abandoned, otherwise an entry begins (R300, R301, R303). -/
def interruptOffer (m : Mach) (c : BitVec 4) : Mach :=
  let x := m.core c
  let begin_ := fun (m : Mach) (s : Nat) (tail : Bool) =>
    let x := m.core c
    let e : IrqEntry := ⟨BitVec.ofNat 9 s, BitVec.ofNat 4 (cfgPrio (icCfg (m.icBefore 6) s)), tail⟩
    let run := match x.run with
      | .waiting | .posting _ => CoreRun.running
      | r => r
    m.setCore c { x with entry := some e, run := run }
  match x.entry with
  | some e =>
    match bestOffer (m.icBefore 6) c.toNat e.prio.toNat with
    | some s => begin_ (m.count 0x4D00 0x02) s e.tail
    | none => m
  | none =>
    match bestOffer (m.icBefore 6) c.toNat (runPrio x) with
    | some s => if entryBoundary x then begin_ m s false else m
    | none => m

/-- The entry in progress commits in e4 and e5 (Table 14-4): frame pushed or reused, CSRs and pc written, pending cleared, unless an edge comes in the same hub cycle, and active set; offers see both six cycles on, as every change but the exit's (R299, R300, R307). -/
def interruptEntry (m : Mach) (c : BitVec 4) : Mach :=
  let x := m.core c
  match x.entry with
  | none => m
  | some e =>
    let s := e.src.toNat
    let f : Frame := { epc := x.epc, ecause := x.ecause, eval := x.eval, pie := x.status.getLsbD 3,
                       ppmode := x.status.getLsbD 1, src := e.src, prio := e.prio }
    let frames := if e.tail then
        match x.frames with
        | t :: r => { t with src := e.src, prio := e.prio } :: r
        | [] => [f]
      else f :: x.frames
    let st : Word := at64 (b2n (ieBit x)) 3 ||| 4 ||| at64 (b2n (pmode x)) 1 ||| 1
    let vec := SMap.getD m.ic.vec c.toNat 0
    let m := m.count 0x4D00 0x01
    let m := if cfgEn (icCfg m.ic.now s) then m else m.count 0x4D00 0x05
    let m := m.setCore c { x with
      entry := none, frames := frames, fresh := true, epc := x.th.pc.zeroExtend 64,
      ecause := at64 1 63 ||| e.src.zeroExtend 64, eval := 0, status := st,
      th := { x.th with pc := (vec.truncate 32 : BitVec 32) &&& 0x3FFFC } }
    let again := (m.setsOf (.pend (s / 64))).getLsbD (s % 64)
    let taken := fun (v : IcView) => { v with pend := if again then v.pend else v.pend &&& ~~~(1#512 <<< s), act := v.act ||| (1#512 <<< s) }
    (m.modIc taken).hwSet (.act (s / 64)) (1#64 <<< (s % 64))

/-- A source's active bit is cleared at the exit of its handler; the source can be offered in x1 (R304, R307). -/
def clearActive (m : Mach) (s : Nat) : Mach :=
  let f := fun (v : IcView) => { v with act := v.act &&& ~~~(1#512 <<< s) }
  let m := { m with ic := { m.ic with hist := m.ic.hist.map f } }
  m.modIc f

/-- RETI of a core: a trap return, or the exit of an interrupt with its frame restored in x1, or a tail-chain when a source is offered in x1 (R121, R304, R305). -/
def reti (m : Mach) (c : BitVec 4) : Mach :=
  let x := m.core c
  let st : Word := (x.status &&& ~~~5) ||| at64 (b2n (x.status.getLsbD 3)) 2 ||| at64 (b2n (x.status.getLsbD 1)) 0
  let x0 := { x with th := { x.th with pc := (x.epc.truncate 32 : BitVec 32) &&& 0xFFFFFFFC }, status := st }
  match x.frames with
  | [] => m.coreDone c x0
  | f :: below =>
    if !x.ecause.getLsbD 63 then m.coreDone c x0
    else
      let m := (m.coreDone c x0).clearActive f.src.toNat
      let x := m.core c
      let run := runPrio { x with frames := below }
      match bestOffer (m.icBefore 5) c.toNat run with
      | some s =>
        if ieBit x then
          let e : IrqEntry := ⟨BitVec.ofNat 9 s, BitVec.ofNat 4 (cfgPrio (icCfg (m.icBefore 5) s)), true⟩
          (m.setCore c { x with entry := some e }).count 0x4D00 0x03
        else exitFrame m x f below
      | none => exitFrame m x f below
where
  exitFrame (m : Mach) (x : Core) (f : Frame) (below : List Frame) : Mach :=
    let st : Word := (x.status &&& ~~~0xA) ||| at64 (b2n f.pie) 3 ||| at64 (b2n f.ppmode) 1
    m.setCore c { x with frames := below, epc := f.epc, ecause := f.ecause, eval := f.eval, status := st }

/-- A write of IC_CFG of a source (R12). -/
def writeIcCfg (m : Mach) (s : Nat) (v : Word) : Mach :=
  m.modIc (fun x => { x with cfg := SMap.set x.cfg s (v &&& 0xCF0F) })

/-- A write of IC_SWSET: an edge on each software source named (R298). -/
def writeSwset (m : Mach) (v : Word) : Mach :=
  (List.range 32).foldl (fun m k => if v.getLsbD k then m.raiseSource k else m) m

/-- LOCK_STAT of a lock (Table 14-7). -/
def lockStat (m : Mach) (n : Byte) : Word := at64 (m.lock n).expiries 32 ||| (m.lock n).waiters.zeroExtend 64

/-- A lease that reaches its limit, with the requests that reach the lock in that hub cycle: unless the owner requests in it, the lock is freed, source 32 raised and the expiry logged; the requests are decided with it (R311, R313). -/
def leaseExpiry (m : Mach) (n : Byte) (reqs : List (Nat × Nat)) : Mach :=
  let l := m.lock n
  if l.owner = 0 ∨ l.leaseNow = 0 ∨ l.age < l.leaseNow.toNat * 1500 ∨ reqs.any (fun q => q.1 == l.owner.toNat) then
    if reqs = [] then m else m.lockDecide n reqs false
  else
    let m := m.modLock n (fun l => { l with expiries := Nat.min 65535 (l.expiries + 1) })
    let m := (m.count 0x4D00 0x06).logErr 0 0x0C 0 none n.toNat (l.owner.zeroExtend 64) (m.lockStat n)
    (m.lockDecide n reqs true).raiseSource 32

/-- A write of LOCK_CFG. -/
def writeLockCfg (m : Mach) (n : Byte) (v : Word) : Mach := m.modLock n (fun l => { l with lease := v.truncate 16 })

/-- A parity error in the registers of an interrupt source: logged, and they take their reset values (R444). -/
def icParity (m : Mach) (n : Nat) : Mach :=
  (m.logErr 3 0x0C 0 none n 0 (icCfg m.ic.now n)).modIc (fun v =>
    { pend := v.pend &&& ~~~(1#512 <<< n), act := v.act &&& ~~~(1#512 <<< n), cfg := SMap.erase v.cfg n })

/-- A parity error in a lock's registers: logged, and they take their reset values; the Fabric peer proxy holds it no more, and wakes the peers that wait (R374, R444). -/
def lockParity (m : Mach) (n : Byte) : Mach :=
  ((m.logErr 3 0x0C 0 none n.toNat ((m.lock n).owner.zeroExtend 64) (m.lockStat n)).proxyFreed n).modLock n (fun _ => {})

end Mach

/-- INTERRUPT_EDGE: a rising edge of a source (R299); a parity error in its registers resets them first (R444). -/
def execInterruptEdge (n : BitVec 9) (bad : Bool) (s : State) : Res :=
  s.on (fun m => (if bad then m.icParity n.toNat else m).raiseSource n.toNat)
/-- INTERRUPT_OFFER to a core (R300 to R303). -/
def execInterruptOffer (c : BitVec 4) (s : State) : Res := s.on (fun m => m.interruptOffer c)
/-- INTERRUPT_ENTRY: the entry in progress on a core commits (R302). -/
def execInterruptEntry (c : BitVec 4) (s : State) : Res := s.on (fun m => m.interruptEntry c)
/-- IC_SWSET: a write of its register (R298). -/
def execIcSwset (v : Word) (s : State) : Res := s.on (fun m => m.writeSwset v)
/-- IC_CFG: a write of a source's register (R308). -/
def execIcCfg (n : BitVec 9) (v : Word) (s : State) : Res := s.on (fun m => m.writeIcCfg n.toNat v)
/-- Requests of a hub cycle as numbers. -/
def lockReqs (l : List LockAsk) : List (Nat × Nat) := l.map (fun q => (q.agent.toNat, q.value.toNat))
/-- LOCK_REQ: the writes of a lock's request register that reach it in one hub cycle, by agent and value (R310, R311); a parity error in the lock resets it first (R444). -/
def execLockReq (n : Byte) (first : LockAsk) (others : List LockAsk) (bad : Bool) (s : State) : Res :=
  s.on (fun m => (if bad then m.lockParity n else m).lockDecide n (lockReqs (first :: others)) false)
/-- LEASE_EXPIRY of a lock (R313). -/
def execLeaseExpiry (n : LockTurn) (s : State) : Res := s.on (fun m => m.leaseExpiry n.lock (lockReqs n.asks))

end Sys2Proof.Machine
end

