-- ==== Sys2Proof/Machine/Regs.lean ====
section
/-! DEFINITION. The register maps: the system address space of a service core (Table 13-1) with every register block of the hub, BAR0 of a PCIe function (Table 15-3), and REGISTER_WRITE (R10 to R13, R281, R282, R318). -/

namespace Sys2Proof.Machine

/-! The system address space (R281, Table 13-1) -/

/-- What an aligned system-space access of a service core names. -/
inductive SysPlace where
  /-- Memory, at a module address. -/
  | memory (a : Nat)
  /-- A register of a hub block. -/
  | register (a : Nat)
  /-- A register of a stop, in the stop window. -/
  | window (die : BitVec 2) (stop : BitVec 5) (off : Nat)
  /-- A reserved address, one the mode does not permit, or a width its block does not accept. -/
  | refused
deriving DecidableEq, Repr

/-- The place of an access of n bytes by core c, in privileged or task mode. -/
def sysPlace (p : Part) (c : BitVec 4) (priv : Bool) (a n : Nat) : SysPlace :=
  if a + n ≤ localSize then .memory (localBase + localSize * c.toNat + a)
  else if 0x4000000000 ≤ a ∧ a < 0x8000000000 then
    match modArea p (a - 0x4000000000) with
    | .hub => .memory (a - 0x4000000000)
    | .hbm | .localMem _ => if priv then .memory (a - 0x4000000000) else .refused
    | .reserved => .refused
  else if n ≠ 8 then .refused
  else if 0x10000000 ≤ a ∧ a < 0x20000000 then
    if priv || a == 0x10008000 || a == 0x10008008 then .register a else .refused
  else if 0x20000000 ≤ a ∧ a < 0x24000000 then
    if priv && decide (a / 0x1000 % 0x1000 ≤ 17) then
      .window (BitVec.ofNat 2 (a / 0x1000000)) (BitVec.ofNat 5 (a / 0x1000 % 0x1000)) (a % 0x1000)
    else .refused
  else .refused

namespace Mach

/-! Reads of hub registers by a core -/

/-- Task scheduler block (Tables 13-2 to 13-4). -/
def schedRead (m : Mach) (o : Nat) : Option Word :=
  if o < 0x8000 then
    let t := m.task (o / 0x20)
    match o % 0x20 with
    | 0x00 => some t.cfg
    | 0x08 => some (t.mask ++ t.flags)
    | 0x10 => some t.arg
    | _ => some t.stat
  else if o = 0x8000 ∨ o = 0x8008 then some 0
  else if o = 0x8010 then some (BitVec.ofNat 64 m.sched.postQ.length)
  else if 0x9000 ≤ o ∧ o < 0x9400 then some (SMap.getD m.sched.hwMap ((o - 0x9000) / 8) 0)
  else if 0xA000 ≤ o ∧ o < 0xA080 then
    let r := m.evRing ((o - 0xA000) / 0x20)
    match o % 0x20 with
    | 0x00 => some r.cfg
    | 0x08 => some (r.prod.zeroExtend 64)
    | 0x10 => some (r.cons.zeroExtend 64)
    | _ => none
  else none

/-- IC_CSTAT of a core (Table 14-3). -/
def icStat (m : Mach) (c : BitVec 4) : Word :=
  let x := m.core c
  at64 x.frames.length 21 ||| at64 ((x.frames.head?.map (fun f => f.src.toNat)).getD 0) 12 ||| at64 (runPrio x) 0

/-- Interrupt controller (Table 14-2). -/
def icRead (m : Mach) (o : Nat) : Option Word :=
  if o < 0x1000 then some (icCfg m.ic.now (o / 8))
  else if o < 0x1040 then some (m.ic.now.pend.extractLsb' (64 * ((o - 0x1000) / 8)) 64)
  else if o < 0x1080 then some (m.ic.now.act.extractLsb' (64 * ((o - 0x1040) / 8)) 64)
  else if o = 0x1080 then some 0
  else if 0x2000 ≤ o ∧ o < 0x2200 then
    match o % 0x20 with
    | 0x00 => some (SMap.getD m.ic.vec ((o - 0x2000) / 0x20) 0)
    | 0x08 => some (m.icStat (BitVec.ofNat 4 ((o - 0x2000) / 0x20)))
    | _ => none
  else none

/-- Lock bank (Table 14-7). -/
def lockRead (m : Mach) (o : Nat) : Option Word :=
  let n : Byte := BitVec.ofNat 8 (o / 8)
  if o < 0x800 then some ((m.lock n).owner.zeroExtend 64)
  else if o < 0x1000 then some ((m.lock n).lease.zeroExtend 64)
  else if o < 0x1800 then some (m.lockStat n)
  else if o < 0x1880 then some (SMap.getD m.lockWake ((o - 0x1800) / 8) 0)
  else none

/-- A read of a hub register at a system address; none for a reserved one. -/
def hubRegRead (m : Mach) (a : Nat) : Option Word :=
  let o := a % 0x10000
  match a / 0x10000 with
  | 0x1000 => m.schedRead o
  | 0x1001 => m.icRead o
  | 0x1002 => m.lockRead o
  | 0x1003 => if o < 0x200 then some (SMap.getD m.ms.remap (o / 8) 0) else none
  | 0x1010 => if o < 0x1000 then some (m.strReg (o / 0x40) (o % 0x40)) else none
  | 0x1011 => if o < 0x1000 then some (m.trgReg (o / 0x40) (o % 0x40)) else none
  | 0x1012 => if o < 0x800 then some (SMap.getD m.flRt (o / 8) 0) else none
  | 0x1013 => if o = 0 then some 0 else if o = 8 then some m.objLen else none
  | 0x1014 => if o = 0 then some (m.pw.gpioCtl.zeroExtend 64) else if o = 8 then some (m.pw.gpioIn.zeroExtend 64) else none
  | _ => none

/-! Writes of hub registers -/

/-- A write of the task scheduler block by core c. -/
def schedWrite (m : Mach) (c : BitVec 4) (o : Nat) (v : Word) : Option Mach :=
  if o < 0x8000 then
    let t := o / 0x20
    match o % 0x20 with
    | 0x00 => some (m.writeTskCfg t v)
    | 0x08 => some (m.writeTskEvt t v)
    | 0x10 => some (m.modTask t (fun x => { x with arg := v }))
    | _ => some m
  else if o = 0x8000 then some (m.storePost c v)
  else if o = 0x8008 then some (m.storeEnd c)
  else if o = 0x8010 then some m
  else if 0x9000 ≤ o ∧ o < 0x9400 then
    some (m.modSched (fun s => { s with hwMap := SMap.set s.hwMap ((o - 0x9000) / 8) (v &&& 0xFFFF) }))
  else if 0xA000 ≤ o ∧ o < 0xA080 then
    let r := (o - 0xA000) / 0x20
    match o % 0x20 with
    | 0x00 => some (m.writeEvrCfg r v)
    | 0x08 => some m
    | 0x10 => some (m.modEvr r (fun x => { x with cons := v.truncate 16 }))
    | _ => none
  else none

/-- A write of the interrupt controller: IC_PEND and IC_ACTIVE clear the bits written 1, but for those set in the same cycle (R11). -/
def icWrite (m : Mach) (o : Nat) (v : Word) : Option Mach :=
  let word := fun (f : Nat → EvField) (k : Nat) => (m.clears (f k) v).zeroExtend 512 <<< (64 * k)
  if o < 0x1000 then some (m.writeIcCfg (o / 8) v)
  else if o < 0x1040 then some (m.modIc (fun x => { x with pend := x.pend &&& ~~~(word .pend ((o - 0x1000) / 8)) }))
  else if o < 0x1080 then some (m.modIc (fun x => { x with act := x.act &&& ~~~(word .act ((o - 0x1040) / 8)) }))
  else if o = 0x1080 then some (m.writeSwset v)
  else if 0x2000 ≤ o ∧ o < 0x2200 then
    match o % 0x20 with
    | 0x00 => some { m with ic := { m.ic with vec := SMap.set m.ic.vec ((o - 0x2000) / 0x20) (v &&& 0x3FFFC) } }
    | 0x08 => some m
    | _ => none
  else none

/-- A write of the lock bank by an agent, within the window 0x0000 to 0x17FF that every path has. -/
def lockWrite (m : Mach) (ident : Nat) (o : Nat) (v : Word) : Option Mach :=
  let n : Byte := BitVec.ofNat 8 (o / 8)
  if o < 0x800 then some (m.lockReq n ident (bits v 7 0))
  else if o < 0x1000 then some (m.writeLockCfg n v)
  else if o < 0x1800 then some m
  else none

/-- Vectors of the function the owner of a stream or trigger is bound to. -/
def ownerVectors (m : Mach) (j : Option JobId) : Nat :=
  match j with
  | some j => fnVectors (m.jobFn j)
  | none => 0

/-- A write of a stream register (Table 16-3). -/
def streamWrite (m : Mach) (o : Nat) (v : Word) : Mach :=
  let s := o / 0x40
  match o % 0x40 with
  | 0x00 => m.strCfg s (m.ownerVectors (m.stream s).job) v
  | 0x18 => m.strRead s v
  | 0x30 => m.strCtl s v
  | _ => m

/-- A write of a trigger register (Table 16-4). -/
def triggerWrite (m : Mach) (o : Nat) (v : Word) : Mach :=
  let t := o / 0x40
  if o % 0x40 = 0x38 then m.trgCtl t (m.ownerVectors (m.trigger t).job) v else m

/-- A write of a hub register other than OBJ_DONE by core c; none for a reserved one. -/
def hubRegWrite (m : Mach) (c : BitVec 4) (a : Nat) (v : Word) : Option Mach :=
  let o := a % 0x10000
  match a / 0x10000 with
  | 0x1000 => m.schedWrite c o v
  | 0x1001 => m.icWrite o v
  | 0x1002 =>
    if 0x1800 ≤ o ∧ o < 0x1880 then some { m with lockWake := SMap.set m.lockWake ((o - 0x1800) / 8) (v &&& 0xFFFF) }
    else m.lockWrite (c.toNat + 1) o v
  | 0x1003 => if o < 0x200 then some (m.writeRemap (o / 8) v) else none
  | 0x1010 => if o < 0x1000 then some (m.streamWrite o v) else none
  | 0x1011 => if o < 0x1000 then some (m.triggerWrite o v) else none
  | 0x1012 => if o < 0x800 then some { m with flRt := SMap.set m.flRt (o / 8) (v &&& 0xFF) } else none
  | 0x1013 => if o = 8 then some { m with objLen := v } else none
  | 0x1014 =>
    if o = 0 then some (m.modPw (fun x => { x with gpioCtl := v.truncate 24 })) else if o = 8 then some m else none
  | _ => none

/-! BAR0 (R318, Table 15-3) -/

/-- A write of a ring pair's register (Table 15-5). -/
def ringWrite (m : Mach) (fn k o : Nat) (v : Word) : Mach :=
  match o with
  | 0x00 => m.writeRingBase fn k false v
  | 0x08 => m.writeRingBase fn k true v
  | 0x10 => m.writeRingCfg fn k v
  | 0x18 => m.writeSqTail fn k v
  | 0x28 => m.writeCqHead fn k v
  | _ => m

/-- A write of a word of the MSI-X table: address, or data with the mask of the vector. -/
def msixWrite (m : Mach) (fn o : Nat) (v : Word) : Mach :=
  let n := o / 16
  if o % 16 = 0 then m.modFunc fn (fun f => { f with tab := SMap.set f.tab (2 * n) (v &&& ~~~3) })
  else
    (m.modFunc fn (fun f => { f with tab := SMap.set f.tab (2 * n + 1) (v &&& 0xFFFFFFFF) })).msixChange fn
      (.vector (BitVec.ofNat 11 n) (v.getLsbD 32))

/-- Whether a function reaches the stream or trigger a job owns (R347). -/
def ownerReach (fn : Nat) (j : Option JobId) : Bool :=
  fn == 0 || (match j with
    | some j => j.toNat + 1 == fn
    | none => false)

/-- A write of a BAR0 register other than MBX_REQ; a reserved offset ignores it. -/
def bar0Write (m : Mach) (fn o : Nat) (v : Word) : Mach :=
  let pf := fn == 0
  let inR := fun (lo n : Nat) => decide (lo ≤ o ∧ o < lo + n)
  let sb := if pf then 0x80000 else 0x4000
  let tb := if pf then 0x90000 else 0x8000
  let ab := if pf then 0x40000 else 0x38000
  if o = 0 then { m with hifEvt := SMap.set m.hifEvt fn (SMap.getD m.hifEvt fn 0 &&& ~~~m.clears (.evt fn) v) }
  else if o = 0x1008 then if (m.clears (.mbx fn) v).getLsbD 62 then m.modMbx fn (fun x => { x with done := false }) else m
  else if inR 0x1100 0xF00 then m.modMbx fn (fun x => { x with data := SMap.set x.data ((o - 0x1100) / 8) v })
  else if inR 0x10000 0x4000 then m.ringWrite fn ((o - 0x10000) / 0x100) (o % 0x100) v
  else if inR 0x20000 (16 * fnVectors fn) then m.msixWrite fn (o - 0x20000) v
  else if inR 0x30000 0x1800 then
    if !pf && decide (0x30800 ≤ o ∧ o < 0x31000) then m
    else (m.lockWrite (fnIdentity fn).toNat (o - 0x30000) v).getD m
  else if inR ab (8 * fnEntries fn) then m.writeAp fn ((o - ab) / 8) v
  else if inR sb 0x1000 then if ownerReach fn (m.stream ((o - sb) / 0x40)).job then m.streamWrite (o - sb) v else m
  else if inR tb 0x1000 then if ownerReach fn (m.trigger ((o - tb) / 0x40)).job then m.triggerWrite (o - tb) v else m
  else m

/-- A read of a register of a ring pair (Table 15-5). -/
def ringRead (m : Mach) (k o : Nat) : Word :=
  let p := m.pair k
  match o with
  | 0x00 => p.sqBase
  | 0x08 => p.cqBase
  | 0x10 => at64 (b2n p.en) 63 ||| at64 (m.pairOwner k).toNat 48 ||| at64 p.sqLog.toNat 16 ||| at64 p.cqLog.toNat 12 ||| at64 p.vector.toNat 0
  | 0x18 => p.sqTail.zeroExtend 64
  | 0x20 => p.sqHead.zeroExtend 64
  | 0x28 => p.cqHead.zeroExtend 64
  | 0x30 => p.cqTail.zeroExtend 64
  | 0x38 => at64 p.err.toNat 8 ||| at64 p.stat.toNat 0
  | _ => 0

/-- A read of a word of the object mailbox of a function (Table 18-8). -/
def mbxRead (m : Mach) (fn o : Nat) : Word :=
  let x := m.mailbox fn
  if o = 0 then x.req
  else if o = 8 then at64 (b2n x.busy) 63 ||| at64 (b2n x.done) 62 ||| at64 x.tlen.toNat 32 ||| at64 x.status.toNat 0
  else if 0x100 ≤ o then SMap.getD x.data ((o - 0x100) / 8) 0
  else 0

/-- A read of a word of the MSI-X table: address, or data with the mask of the vector. -/
def msixRead (m : Mach) (fn o : Nat) : Word :=
  let f := m.func fn
  SMap.getD f.tab (o / 8) 0 ||| (if o % 16 = 0 ∨ o / 16 ∈ f.unmasked then 0 else at64 1 32)

/-- A read of a word of the MSI-X pending bit array: the bits of 64 vectors. -/
def pbaRead (m : Mach) (fn w : Nat) : Word :=
  (m.func fn).pendVec.foldl (fun (v : Word) x => if x.1 / 64 = w then v ||| at64 1 (x.1 % 64) else v) 0

/-- A read of a BAR0 register; a reserved offset, and a slot of a VF that its owner does not reach, reads as 0. -/
def bar0Read (m : Mach) (fn o : Nat) : Word :=
  let pf := fn == 0
  let inR := fun (lo n : Nat) => decide (lo ≤ o ∧ o < lo + n)
  let sb := if pf then 0x80000 else 0x4000
  let tb := if pf then 0x90000 else 0x8000
  let ab := if pf then 0x40000 else 0x38000
  if o = 0 then SMap.getD m.hifEvt fn 0
  else if inR 0x1000 0x1000 then m.mbxRead fn (o - 0x1000)
  else if inR 0x10000 0x4000 then
    if m.pairMine fn ((o - 0x10000) / 0x100) then m.ringRead ((o - 0x10000) / 0x100) (o % 0x100) else 0
  else if inR 0x20000 (16 * fnVectors fn) then m.msixRead fn (o - 0x20000)
  else if inR 0x28000 (fnVectors fn / 8) then m.pbaRead fn ((o - 0x28000) / 8)
  else if inR 0x30000 0x1800 then (m.lockRead (o - 0x30000)).getD 0
  else if inR ab (8 * fnEntries fn) then SMap.getD (m.func fn).ap ((o - ab) / 8) 0
  else if inR sb 0x1000 then
    if ownerReach fn (m.stream ((o - sb) / 0x40)).job then m.strReg ((o - sb) / 0x40) (o % 0x40) else 0
  else if inR tb 0x1000 then
    if ownerReach fn (m.trigger ((o - tb) / 0x40)).job then m.trgReg ((o - tb) / 0x40) (o % 0x40) else 0
  else 0

end Mach

/-- A write of a hub register by core c; OBJ_DONE completes an object access. -/
def State.hubRegWrite (s : State) (c : BitVec 4) (a : Nat) (v : Word) : Option State :=
  if a = 0x10130000 then some (s.objDone v) else (s.m.hubRegWrite c a v).map (fun m => { s with m := m })

/-- A register write of a service core at a system address, where the map permits it. -/
def State.coreRegWrite (s : State) (c : BitVec 4) (a : Nat) (v : Word) : State :=
  if a % 8 ≠ 0 then s
  else
    match sysPlace s.m.part c (Mach.pmode (s.m.core c)) a 8 with
    | .register a =>
      match s.hubRegWrite c a v with
      | some t => if a = 0x10008008 then { t with m := t.m.storeIssued c } else t
      | none => s
    | .window d n o => ((s.m.stopWrite d n o v).map (fun m => { s with m := m })).getD s
    | _ => s

/-- A register write of a PCIe function at an offset of its BAR0; an access that is not aligned completes with Unsupported Request. -/
def State.bar0Write (s : State) (fn : BitVec 4) (o : Nat) (v : Word) : State :=
  if !s.m.barOk fn.toNat || o % 8 != 0 then { s with m := s.m.send (.unsupported fn.toNat) }
  else if o = 0x1000 then s.mbxReq fn v
  else { s with m := s.m.bar0Write fn.toNat o v }

/-- A register read of a PCIe function: its completion carries the value; an access that is not aligned completes with Unsupported Request. -/
def Mach.bar0Get (m : Mach) (fn o : Nat) : Mach :=
  if !m.barOk fn || o % 8 != 0 then m.send (.unsupported fn)
  else m.send (.completion fn (natBytes 8 (m.bar0Read fn o).toNat) false)

/-- REGISTER_WRITE: an access of a register by its path: a write, a read of BAR0, one of a width BAR0 does not accept, a start of an operation of the QSPI controller, or a write of the die-to-die switch's table (R10 to R13, R225, R294, R318). -/
def execRegisterWrite (who : RegPath) (addr v : Word) (s : State) : Res :=
  let who := who.the
  .next (match who with
    | .core c => if coreLive (s.m.core c) then s.coreRegWrite c addr.toNat v else s
    | .qspi c op => if coreLive (s.m.core c) && Mach.pmode (s.m.core c) then { s with m := { s.m with flashOp := op } } else s
    | .switch c die stop => if coreLive (s.m.core c) && Mach.pmode (s.m.core c) then { s with m := s.m.writeSwitch die stop v } else s
    | .bar0 fn => s.bar0Write fn addr.toNat v
    | .bar0Read fn => { s with m := s.m.bar0Get fn.toNat addr.toNat }
    | .bar0Narrow fn => { s with m := s.m.send (.unsupported fn.toNat) })

/-- ERRLOG_WRITE: the oldest queued detection goes to the log (R448, R452). -/
def execErrlogWrite (s : State) : Res :=
  s.on (fun m => match m.err.queue with
    | [] => m
    | e :: r => ({ m with err := { m.err with queue := r } }).errWrite e)

end Sys2Proof.Machine
end

