-- ==== Sys2Proof/Machine/LoadStore.lean ====
section
/-! DEFINITION. Loads and stores: the four address spaces of Table 5-8 on a firing and on a service core, the store buffer, and what a design-memory load returns (R107 to R109, R151, R281, R282). -/

namespace Sys2Proof.Machine

/-- Lay a store over bytes that begin at an offset. -/
def overlay (a : Nat) (l : List (Option Byte)) (s : SRec) : List (Option Byte) :=
  l.zipIdx.map (fun (b, i) =>
    if s.off ≤ a + i ∧ a + i < s.off + Mach.wBytes s.w then some (s.data.extractLsb' (8 * (a + i - s.off)) 8) else b)

namespace Mach

/-! A firing -/

/-- Uncommitted journaled stores of a node below a tag, earliest tag first (R151). -/
def storesBelow (m : Mach) (r : NRef) (tag : Tag) : List SRec :=
  let t := peTile r.pe
  let heads := ((m.tile t).journal.filter (fun e =>
    e.2.job == r.job && e.2.node == node24 r.pe r.node && !e.2.tail && e.2.written && (m.tagOf r.job e.2.key).lt tag)).map (·.2)
  (sortBy (fun x y => (m.tagOf r.job x.key).lt (m.tagOf r.job y.key)) heads).flatMap (fun h =>
    m.entryStores t h ((m.tailOf t h).map (·.2)))

/-- Bytes of a node's design memory that stores of the firing, or else journaled stores, hold (R108, R151). -/
def dmOver (m : Mach) (r : NRef) (tag : Tag) (mine : List SRec) (a n : Nat) : List (Option Byte) :=
  (m.storesBelow r tag ++ mine).foldl (overlay a) (List.replicate n none)

/-- A load of design memory reads the journal entries of its node whose stores lie below its tag (R151, R237). -/
def journaledRead (m : Mach) (r : NRef) (tag : Tag) : Mach :=
  if m.storesBelow r tag = [] then m
  else m.journalRead (peTile r.pe) (((m.tile (peTile r.pe)).journal.filter (fun e =>
    e.2.job == r.job && e.2.node == node24 r.pe r.node && (m.tagOf r.job e.2.key).lt tag)).map (·.1))

/-- What an access of a firing meets before its data: MISALIGNED, MEM_SPACE and MEM_BOUNDS, in the order of R119. -/
def peCheck (m : Mach) (r : NRef) (store : Bool) (sp : BitVec 2) (ea : Word) (n : Nat) : Option Trap :=
  let a := ea.toNat
  let extent := if sp = 1 then 192 else if sp = 2 then (m.job r.job).constLen else m.nDmLen r
  if a % n ≠ 0 then some { code := 0x04, value := ea }
  else if sp = 0 ∨ (store ∧ sp ≠ 3) ∨ (sp = 3 ∧ m.nMode r ≠ 3) then some { code := 0x05, value := ea }
  else if extent < a + n then some { code := 0x06, value := ea }
  else none

/-- What a firing's read of HBM comes to: it waits while the unit is being copied (R252), its job is faulted for want of a way to the hub (R231), data is lost, or it has its data. -/
inductive HbmRead where
  | waits | cut (m : Mach) | lost (m : Mach) | ok (m : Mach)

/-- Read HBM for a firing. -/
def firingRead (m : Mach) (p : PeId) (j : JobId) (a n : Nat) : HbmRead :=
  if m.copyWait a n then .waits
  else
    match m.cutOff (peTile p) j with
    | (true, m) => .cut m
    | (false, m) =>
      match m.hbmCheck (m.alias_ a) n with
      | (true, m) => .lost m
      | (false, m) => .ok m

/-- The value a firing's load finds: none where it does not issue now, or where lost constants faulted its job. -/
def peLoad (m : Mach) (x : Ctx) (r : NRef) (sp : BitVec 2) (ea : Word) (n : Nat) : Mach × Option (Except Trap Word) :=
  let a := ea.toNat
  let word := fun (l : List Byte) => BitVec.ofNat 64 (bytesNat l)
  if sp = 1 then (m, some (.ok (x.nodeImg.getD (a / 8) 0)))
  else if sp = 2 then
    let b := (m.job x.job).code.base + (m.job x.job).codeLen + a
    match m.firingRead r.pe x.job b n with
    | .waits => (m, none)
    | .cut m => (m, none)
    | .lost m => (m.faultJob x.job 0x0206 0x09 (hbmLoc b), none)
    | .ok m => (m, some (.ok (word (memBytes m.mem (m.alias_ b) n))))
  else
    let b := (m.job x.job).dmem.base + m.nDmBase r + a
    let overBit := m.dmOver r x.tag x.stores a n
    let val := fun (m : Mach) => word ((overBit.zip (memBytes m.mem (m.alias_ b) n)).map (fun (o, c) => o.getD c))
    let s := (m.job x.job).state
    let m := m.journaledRead r x.tag
    if (m.job x.job).state ≠ s then (m, none)
    else if overBit.all Option.isSome then (m, some (.ok (val m)))
    else
      match m.firingRead r.pe x.job b n with
      | .waits => (m, none)
      | .cut m => (m, none)
      | .lost m => (m, some (.error { code := 0x09, value := ea }))
      | .ok m => (m, some (.ok (val m)))

/-- Where a node-space access of another width than 64 bits is ILLEGAL (Table 5-8). -/
def memSide (sp w : BitVec 2) : Side := if sp = 1 ∧ w ≠ 3 then .scOnly else .both

/-- A load of a firing. -/
def firingLoad (m : Mach) (p : PeId) (c : BitVec 4) (waits : BitVec 16) (rd ra : BitVec 5) (sp w : BitVec 2) (sx : Bool)
    (imm : BitVec 12) : Mach :=
  match m.turn p c waits with
  | none => m
  | some x =>
    let r : NRef := ⟨x.job, p, x.node⟩
    let ea := x.th.ea ra imm
    match m.fetchCode p x with
    | none => m
    | some (true, m) => m
    | some (false, m) =>
      match m.peBlock x (memSide sp w), m.peCheck r false sp ea (wBytes w) with
      | some tr, _ | none, some tr => m.firingTrap p c x tr
      | none, none =>
        match m.peLoad x r sp ea (wBytes w) with
        | (m, none) => m
        | (m, some (.error tr)) => m.firingTrap p c x tr
        | (m, some (.ok v)) => m.ctxDone p c { x with th := (x.th.put rd (loadExt w sx v)).next }

/-- Stores a firing of a node may hold: two, or none with JN = 1 (R108, R167). -/
def storeLimit (m : Mach) (r : NRef) : Nat := if m.nJn r = 1 then 0 else 2

/-- A store of a firing: an entry of its store buffer (R108). -/
def firingStore (m : Mach) (p : PeId) (c : BitVec 4) (waits : BitVec 16) (rd ra : BitVec 5) (sp w : BitVec 2) (imm : BitVec 12) : Mach :=
  m.issuePe p c waits (memSide sp w) (fun x =>
    let r : NRef := ⟨x.job, p, x.node⟩
    let ea := x.th.ea ra imm
    match m.peCheck r true sp ea (wBytes w) with
    | some tr => .error tr
    | none =>
      if m.storeLimit r ≤ x.stores.length then .error { code := 0x03, reason := 3 }
      else .ok { x with th := x.th.next, stores := x.stores ++ [⟨ea.toNat, w, x.th.get rd⟩] })

/-! A service core -/

/-- What an access of a core meets before its place: MISALIGNED, and MEM_SPACE outside the system space. -/
def scCheck (sp : BitVec 2) (ea : Word) (n : Nat) : Option Trap :=
  if ea.toNat % n ≠ 0 then some { code := 0x04, value := ea }
  else if sp ≠ 0 then some { code := 0x05, value := ea }
  else none

/-- A read of memory by a core: HBM, through the HBM Remap Table, or a word of hub SRAM; whether data is lost. A lost half of a region that a job owns faults that job, whoever reads it (Table 11-4). -/
def coreRead (m : Mach) (a n : Nat) : Bool × Mach :=
  if modArea m.part a = .hbm then
    let (lost, m) := m.hbmCheck (m.alias_ a) n
    (lost, if lost then m.rangeLost (m.alias_ a) n else m)
  else
    let (k, m) := m.hubWordRead (a / 8 * 8)
    (k == .poison || k == .bad, m)

/-- A write of memory by a core (R109); one to the deep-match region changes the entries Match finds there (R60, R235). -/
def coreWrite (m : Mach) (a : Nat) (d : List Byte) : Mach :=
  if modArea m.part a = .hbm then (m.hbmWrite (m.alias_ a) d).deepSync a d.length else m.hubWrite a d

/-- Whether an access of HBM waits for a unit copy (R252). -/
def coreWaits (m : Mach) (a n : Nat) : Bool := modArea m.part a == .hbm && m.copyWait a n

/-- A request of a core to a stop's registers: CFG_RD, or CFG_WR with its value; none while every transaction number is in use, or while an access of the core to the same location is outstanding, which completes first (R282). -/
def windowReq (m : Mach) (c : BitVec 4) (d : BitVec 2) (n : BitVec 5) (o : Nat) (a : Word) (v : Option Word) : Option Mach :=
  match (if m.net.hubReqs.any (fun e => e.2.core == c && e.2.addr == a) then none else SMap.freeKey m.net.hubReqs 4096 0) with
  | none => none
  | some k =>
    let h : Hdr := { vc := 2, len := if v.isSome then 1 else 0, cmd := if v.isSome then 0x13 else 0x12,
                     src := 0x8001 + c.zeroExtend 16, tid := BitVec.ofNat 12 k, dstStop := n, dstDie := d,
                     arg := BitVec.ofNat 38 o }
    let q : HubReq := { core := c, load := v.isNone, since := m.cycle, addr := a }
    some (({ m with net := { m.net with hubReqs := SMap.set m.net.hubReqs k q } }).intoDie
      ⟨h.pack, (v.map (fun (x : Word) => x.zeroExtend 128)).toList⟩)

/-- A load of a service core that issues. -/
def coreLoad (m : Mach) (c : BitVec 4) (rd : BitVec 5) (w : BitVec 2) (sx : Bool) (ea : Word) : Mach :=
  let x := m.core c
  let n := wBytes w
  let done := fun (m : Mach) (v : Word) => m.coreDone c { x with th := (x.th.put rd (loadExt w sx v)).next }
  match sysPlace m.part c (pmode x) ea.toNat n with
  | .refused => m.coreTrap c { code := 0x06, value := ea }
  | .register a =>
    match m.hubRegRead a with
    | some v => done m v
    | none => m.coreTrap c { code := 0x06, value := ea }
  | .window d s o =>
    match m.windowReq c d s o ea none with
    | some m => m.setCore c { x with run := .loading rd w sx, fresh := false }
    | none => m
  | .memory a =>
    if m.coreWaits a n then m
    else
      let (lost, m) := m.coreRead a n
      if lost then m.coreTrap c { code := 0x09, value := ea }
      else
        let b := if modArea m.part a = .hbm then m.alias_ a else a
        done m (BitVec.ofNat 64 (bytesNat (memBytes m.mem b n)))

end Mach

/-- A store of a service core that issues. -/
def State.coreStore (s : State) (c : BitVec 4) (w : BitVec 2) (ea v : Word) : State :=
  let x := s.m.core c
  let bounds := { s with m := s.m.coreTrap c { code := 0x06, value := ea } }
  match sysPlace s.m.part c (Mach.pmode x) ea.toNat (Mach.wBytes w) with
  | .refused => bounds
  | .register a =>
    match s.hubRegWrite c a v with
    | some t => { t with m := t.m.storeIssued c }
    | none => bounds
  | .window d n o =>
    match s.m.windowReq c d n o ea (some v) with
    | some m => { s with m := m.coreDone c { x with th := x.th.next, outst := x.outst + 1 } }
    | none => s
  | .memory a =>
    if s.m.coreWaits a (Mach.wBytes w) then s
    else { s with m := (s.m.coreWrite a (natBytes (Mach.wBytes w) v.toNat)).storeIssued c }

/-- Issue a load on either side. -/
def Mach.issueLoad (m : Mach) (x : Exec) (rd ra : BitVec 5) (sp w : BitVec 2) (sx : Bool) (imm : BitVec 12) : Mach :=
  match x with
  | .pe p c ws => m.firingLoad p c ws rd ra sp w sx imm
  | .parity p c ws => m.ctxParity p c ws
  | .core c =>
    let y := m.core c
    let ea := y.th.ea ra imm
    if !coreLive y then m
    else
      let (lost, m) := m.fetchLocal c
      if lost then m.coreTrap c { code := 0x09, value := y.th.pc.zeroExtend 64 }
      else
        match m.scBlock c .both false, Mach.scCheck sp ea (Mach.wBytes w) with
        | some tr, _ | none, some tr => m.coreTrap c tr
        | none, none => m.coreLoad c rd w sx ea

/-- Issue a store of a service core. -/
def State.issueStore (s : State) (c : BitVec 4) (rd ra : BitVec 5) (sp w : BitVec 2) (imm : BitVec 12) : State :=
  let y := s.m.core c
  let ea := y.th.ea ra imm
  if !coreLive y then s
  else
    let (lost, m) := s.m.fetchLocal c
    let s := { s with m := m }
    if lost then { s with m := m.coreTrap c { code := 0x09, value := y.th.pc.zeroExtend 64 } }
    else
      match m.scBlock c .both false, Mach.scCheck sp ea (Mach.wBytes w) with
      | some tr, _ | none, some tr => { s with m := m.coreTrap c tr }
      | none, none => s.coreStore c w ea (y.th.get rd)

/-- LD: a load, zero-extended. -/
def execLd (x : Exec) (rd ra : BitVec 5) (sp w : BitVec 2) (imm : BitVec 12) (s : State) : Res :=
  s.on (fun m => m.issueLoad x rd ra sp w false imm)
/-- LDS: a load, sign-extended. -/
def execLds (x : Exec) (rd ra : BitVec 5) (sp w : BitVec 2) (imm : BitVec 12) (s : State) : Res :=
  s.on (fun m => m.issueLoad x rd ra sp w true imm)
/-- ST: a store of rd. -/
def execSt (x : Exec) (rd ra : BitVec 5) (sp w : BitVec 2) (imm : BitVec 12) (s : State) : Res :=
  .next (match x with
    | .pe p c ws => { s with m := s.m.firingStore p c ws rd ra sp w imm }
    | .parity p c ws => { s with m := s.m.ctxParity p c ws }
    | .core c => s.issueStore c rd ra sp w imm)

end Sys2Proof.Machine
end

