-- ==== Sys2Proof/Machine/Logic4.lean ====
section
/-! DEFINITION. Four-state instructions (R113, R114, R132, R133; Tables 2-3 and 6-4 to 6-10). -/

namespace Sys2Proof.Machine

/-- A four-state bit (Table 2-3). -/
inductive V4 where
  | zero | one | z | x
deriving DecidableEq, Repr

/-- The value of plane bits A and B (Table 2-3). -/
def V4.of (a b : Bool) : V4 := if b then (if a then .x else .z) else (if a then .one else .zero)
/-- Plane A of a value. -/
def V4.a : V4 → Bool
  | .one | .x => true
  | .zero | .z => false
/-- Plane B of a value. -/
def V4.b : V4 → Bool
  | .z | .x => true
  | .zero | .one => false

/-- Table 6-4. -/
def V4.and : V4 → V4 → V4
  | .zero, _ | _, .zero => .zero
  | .one, .one => .one
  | _, _ => .x
/-- Table 6-5. -/
def V4.or : V4 → V4 → V4
  | .one, _ | _, .one => .one
  | .zero, .zero => .zero
  | _, _ => .x
/-- Table 6-6. -/
def V4.xor : V4 → V4 → V4
  | .zero, .zero | .one, .one => .zero
  | .zero, .one | .one, .zero => .one
  | _, _ => .x
/-- Table 6-7. -/
def V4.not : V4 → V4
  | .zero => .one
  | .one => .zero
  | _ => .x
/-- Table 6-8: the result where the select bit is Z or X. -/
def V4.muxX : V4 → V4 → V4
  | .zero, .zero => .zero
  | .one, .one => .one
  | _, _ => .x
/-- L4MUX of one position (R133). -/
def V4.mux (s a b : V4) : V4 :=
  match s with
  | .zero => a
  | .one => b
  | _ => V4.muxX a b
/-- Table 6-9: Z is the identity, X absorbs. -/
def V4.res : V4 → V4 → V4
  | .z, v => v
  | v, .z => v
  | .zero, .zero => .zero
  | .one, .one => .one
  | _, _ => .x
/-- Table 6-10. -/
def V4.eq : V4 → V4 → V4
  | .zero, .zero | .one, .one => .one
  | .zero, .one | .one, .zero => .zero
  | _, _ => .x

/-- Position i of a pair of planes. -/
def v4At (p : Word × Word) (i : Nat) : V4 := V4.of (p.1.getLsbD i) (p.2.getLsbD i)
/-- The planes of 64 positions. -/
def v4Planes (f : Nat → V4) : Word × Word := (ofBits64 (fun i => (f i).a), ofBits64 (fun i => (f i).b))
/-- A bitwise operation of two operands. -/
def map4 (f : V4 → V4 → V4) (p q : Word × Word) : Word × Word := v4Planes (fun i => f (v4At p i) (v4At q i))
/-- L4EQ: 0 if any position gives 0, else X if any gives X, else 1, in bit 0 (R114). -/
def eq4 (p q : Word × Word) : Word × Word :=
  let l := (List.range 64).map (fun i => V4.eq (v4At p i) (v4At q i))
  let v := if l.any (· == .zero) then V4.zero else if l.any (· == .x) then .x else .one
  (flag v.a, flag v.b)

/-- Issue a four-state instruction that writes pair PD; sources are read before it is written (R113). -/
def Mach.issueL4 (m : Mach) (x : Exec) (pd : BitVec 4) (f : Thread → Word × Word) : Mach :=
  m.issue x .both (fun t => .ok (t.putPair pd (f t)).next)

/-- L4AND (Table 6-4). -/
def execL4and (x : Exec) (pd pa pb : BitVec 4) (s : State) : Res :=
  s.on (fun m => m.issueL4 x pd (fun t => map4 V4.and (t.pair pa) (t.pair pb)))
/-- L4OR (Table 6-5). -/
def execL4or (x : Exec) (pd pa pb : BitVec 4) (s : State) : Res :=
  s.on (fun m => m.issueL4 x pd (fun t => map4 V4.or (t.pair pa) (t.pair pb)))
/-- L4XOR (Table 6-6). -/
def execL4xor (x : Exec) (pd pa pb : BitVec 4) (s : State) : Res :=
  s.on (fun m => m.issueL4 x pd (fun t => map4 V4.xor (t.pair pa) (t.pair pb)))
/-- L4NOT (Table 6-7). -/
def execL4not (x : Exec) (pd pa : BitVec 4) (s : State) : Res :=
  s.on (fun m => m.issueL4 x pd (fun t => map4 (fun a _ => V4.not a) (t.pair pa) (t.pair pa)))
/-- L4MUX (R133, Table 6-8). -/
def execL4mux (x : Exec) (pd pa pb ps : BitVec 4) (s : State) : Res :=
  s.on (fun m => m.issueL4 x pd (fun t =>
    v4Planes (fun i => V4.mux (v4At (t.pair ps) i) (v4At (t.pair pa) i) (v4At (t.pair pb) i))))
/-- L4RES (Table 6-9). -/
def execL4res (x : Exec) (pd pa pb : BitVec 4) (s : State) : Res :=
  s.on (fun m => m.issueL4 x pd (fun t => map4 V4.res (t.pair pa) (t.pair pb)))
/-- L4EQ (R114, Table 6-10). -/
def execL4eq (x : Exec) (pd pa pb : BitVec 4) (s : State) : Res :=
  s.on (fun m => m.issueL4 x pd (fun t => eq4 (t.pair pa) (t.pair pb)))

end Sys2Proof.Machine
end

