-- ==== Sys2Proof/Machine/System.lean ====
section
/-! DEFINITION. TRAP and the privileged extension of BIS: WAIT, RETI, FENCE, control and status registers, and the lock helpers (R118 to R125, Table 5-11). -/

namespace Sys2Proof.Machine

/-- TRAP: a USER trap with code IMM16, of a firing or a service core (R118, Table 5-3). -/
def execTrap (x : Exec) (imm : BitVec 16) (s : State) : Res :=
  s.on (fun m => m.issue x .both (fun _ => .error { code := 0x0C, value := imm.zeroExtend 64 }))

/-- Issue an instruction of the privileged extension; in a firing it is ILLEGAL. -/
def Mach.issueSys (m : Mach) (x : Exec) (priv : Bool) (f : Core → Except Trap Core) : Mach :=
  match x with
  | .core c => m.issueSc c .scOnly priv f
  | .pe p c ws => m.issuePe p c ws .scOnly (fun y => .ok y)
  | .parity p c ws => m.ctxParity p c ws

/-- Whether a system instruction would issue on a core. -/
def Mach.sysIssues (m : Mach) (c : BitVec 4) : Bool :=
  coreLive (m.core c) && m.fetchGood (.core c) && (m.scBlock c .scOnly true).isNone

/-- WAIT: the core stops until an interrupt is pending for it or a task is dispatched to it; an interrupt that is pending already completes it at once (R121). -/
def execWait (x : Exec) (s : State) : Res :=
  s.on (fun m => m.issueSys x true (fun y =>
    let c := match x with
      | .core c => c.toNat
      | .pe _ _ _ | .parity _ _ _ => 0
    .ok { y with th := y.th.next, run := if (Mach.pendingFor m.ic.now c).isEmpty then .waiting else .running }))

/-- RETI: return from a trap or an interrupt (R121, R304, R305). -/
def execReti (x : Exec) (s : State) : Res :=
  s.on (fun m => match x with
    | .core c => if m.sysIssues c then (m.fetchLocal c).2.reti c else m.issueSys x true (fun y => .ok y)
    | .pe _ _ _ | .parity _ _ _ => m.issueSys x true (fun y => .ok y))

/-- FENCE issues only when every earlier load and store of the core has completed; until then it has not issued (R121). -/
def execFence (x : Exec) (s : State) : Res :=
  s.on (fun m => match x with
    | .core c =>
      if m.sysIssues c && decide (0 < (m.core c).outst) then m
      else m.issueSys x true (fun y => .ok { y with th := y.th.next })
    | .pe _ _ _ | .parity _ _ _ => m.issueSys x true (fun y => .ok y))

/-! Control and status registers (Table 5-11) -/

/-- The value of a CSR; none for an unassigned address. -/
def Mach.csrRead (m : Mach) (c : BitVec 4) (a : BitVec 12) : Option Word :=
  let x := m.core c
  match a.toNat with
  | 0x000 => some x.th.fps
  | 0x001 => some (BitVec.ofNat 64 (c.toNat + 1))
  | 0x002 => some x.status
  | 0x003 => some x.epc
  | 0x004 => some x.ecause
  | 0x005 => some x.eval
  | 0x006 => some x.tvec
  | 0x007 => some x.scratch
  | 0x010 => some (BitVec.ofNat 64 m.cycle)
  | 0x011 => some (BitVec.ofNat 64 x.instret)
  | 0x012 => some (BitVec.ofNat 64 x.fetchPast)
  | 0x020 => some (x.task.zeroExtend 64)
  | _ => none

/-- A core with a CSR written in its writable fields (R12); none for a read-only or unassigned one. -/
def csrWrite (x : Core) (a : BitVec 12) (v : Word) : Option Core :=
  match a.toNat with
  | 0x000 => some { x with th := { x.th with fps := fpsWrite x.th.fps v } }
  | 0x002 => some { x with status := v &&& 0xF }
  | 0x003 => some { x with epc := v }
  | 0x004 => some { x with ecause := v &&& 0x8000000000FFFFFF }
  | 0x005 => some { x with eval := v }
  | 0x006 => some { x with tvec := v &&& ~~~3 }
  | 0x007 => some { x with scratch := v }
  | _ => none

/-- CSRs that task mode may read (R120). -/
def csrTask (a : BitVec 12) : Bool := a.toNat ∈ [0x000, 0x001, 0x010, 0x011, 0x012, 0x020]

/-- Issue a CSR access: rd, where the access writes one, and the new value of the CSR, where it writes it, both from the values before the access (R123). -/
def Mach.issueCsr (m : Mach) (x : Exec) (a : BitVec 12) (rd : Option (BitVec 5)) (w : Option (Word → Thread → Word)) : Mach :=
  match x with
  | .pe _ _ _ | .parity _ _ _ => m.issueSys x false (fun y => .ok y)
  | .core c => m.issueSys x false (fun y =>
    match m.csrRead c a with
    | none => .error illegal
    | some old =>
      if !Mach.pmode y && (w.isSome || !csrTask a) then .error illegal
      else
        let set := match w with
          | some f => csrWrite y a (f old y.th)
          | none => some y
        match set with
        | none => .error illegal
        | some z =>
          let th := match rd with
            | some r => z.th.put r old
            | none => z.th
          .ok { z with th := th.next })

/-- CSRGET: rd := csr. -/
def execCsrget (x : Exec) (rd : BitVec 5) (csr : BitVec 12) (s : State) : Res :=
  s.on (fun m => m.issueCsr x csr (some rd) none)
/-- CSRPUT: csr := ra. -/
def execCsrput (x : Exec) (ra : BitVec 5) (csr : BitVec 12) (s : State) : Res :=
  s.on (fun m => m.issueCsr x csr none (some (fun _ t => t.get ra)))
/-- CSRSWAP: rd := csr and csr := ra. -/
def execCsrswap (x : Exec) (rd ra : BitVec 5) (csr : BitVec 12) (s : State) : Res :=
  s.on (fun m => m.issueCsr x csr (some rd) (some (fun _ t => t.get ra)))
/-- CSRINS: the bits of the CSR that g[RD] masks are taken from ra. -/
def execCsrins (x : Exec) (rd ra : BitVec 5) (csr : BitVec 12) (s : State) : Res :=
  s.on (fun m => m.issueCsr x csr none (some (fun old t => (old &&& ~~~(t.get rd)) ||| (t.get ra &&& t.get rd))))

/-! Lock helpers (R125) -/

/-- Number of the lock a lock helper names. -/
def lockNo (t : Thread) (ra : BitVec 5) (imm : BitVec 12) : Byte := (t.ea ra imm).truncate 8

/-- Issue a lock helper: a request of the core to the lock, then rd from the lock as it stands after it. -/
def Mach.issueLock (m : Mach) (x : Exec) (rd ra : BitVec 5) (imm : BitVec 12) (take : Bool) : Mach :=
  match x with
  | .pe _ _ _ | .parity _ _ _ => m.issueSys x true (fun y => .ok y)
  | .core c =>
    if !m.sysIssues c then m.issueSys x true (fun y => .ok y)
    else
      let n := lockNo (m.core c).th ra imm
      let m := m.lockReq n (c.toNat + 1) (if take then c.toNat + 1 else 0)
      let v : Word := if take then (m.lock n).owner.zeroExtend 64 else 0
      m.issueSys x true (fun y => .ok { y with th := (y.th.put rd v).next })

/-- LKACQ: take or renew a lock; rd is its owner after the decision. -/
def execLkacq (x : Exec) (rd ra : BitVec 5) (imm : BitVec 12) (s : State) : Res :=
  s.on (fun m => m.issueLock x rd ra imm true)
/-- LKREL: release a lock the core owns; rd := 0. -/
def execLkrel (x : Exec) (rd ra : BitVec 5) (imm : BitVec 12) (s : State) : Res :=
  s.on (fun m => m.issueLock x rd ra imm false)

end Sys2Proof.Machine
end

