-- ==== Sys2Proof/Machine/Dispatch.lean ====
section
/-! DEFINITION. Dispatch: each command to its meaning. -/

namespace Sys2Proof.Machine

/-- The effect of a command on everything but the queue. -/
def exec (i : Instr) (s : State) : Host.Outcome State Fault Refusal :=
  match i with
  | .registerWrite who addr v => Sys2Proof.Machine.execRegisterWrite who addr v s
  | .objectWrite path idx sub data => Sys2Proof.Machine.execObjectWrite path idx sub data s
  | .add x rd ra rb => Sys2Proof.Machine.execAdd x rd ra rb s
  | .sub x rd ra rb => Sys2Proof.Machine.execSub x rd ra rb s
  | .and x rd ra rb => Sys2Proof.Machine.execAnd x rd ra rb s
  | .or x rd ra rb => Sys2Proof.Machine.execOr x rd ra rb s
  | .xor x rd ra rb => Sys2Proof.Machine.execXor x rd ra rb s
  | .andn x rd ra rb => Sys2Proof.Machine.execAndn x rd ra rb s
  | .orn x rd ra rb => Sys2Proof.Machine.execOrn x rd ra rb s
  | .xnor x rd ra rb => Sys2Proof.Machine.execXnor x rd ra rb s
  | .sll x rd ra rb => Sys2Proof.Machine.execSll x rd ra rb s
  | .srl x rd ra rb => Sys2Proof.Machine.execSrl x rd ra rb s
  | .sra x rd ra rb => Sys2Proof.Machine.execSra x rd ra rb s
  | .rol x rd ra rb => Sys2Proof.Machine.execRol x rd ra rb s
  | .ror x rd ra rb => Sys2Proof.Machine.execRor x rd ra rb s
  | .slt x rd ra rb => Sys2Proof.Machine.execSlt x rd ra rb s
  | .sltu x rd ra rb => Sys2Proof.Machine.execSltu x rd ra rb s
  | .min x rd ra rb => Sys2Proof.Machine.execMin x rd ra rb s
  | .max x rd ra rb => Sys2Proof.Machine.execMax x rd ra rb s
  | .minu x rd ra rb => Sys2Proof.Machine.execMinu x rd ra rb s
  | .maxu x rd ra rb => Sys2Proof.Machine.execMaxu x rd ra rb s
  | .mul x rd ra rb => Sys2Proof.Machine.execMul x rd ra rb s
  | .mulh x rd ra rb => Sys2Proof.Machine.execMulh x rd ra rb s
  | .mulhu x rd ra rb => Sys2Proof.Machine.execMulhu x rd ra rb s
  | .div x rd ra rb => Sys2Proof.Machine.execDiv x rd ra rb s
  | .divu x rd ra rb => Sys2Proof.Machine.execDivu x rd ra rb s
  | .rem x rd ra rb => Sys2Proof.Machine.execRem x rd ra rb s
  | .remu x rd ra rb => Sys2Proof.Machine.execRemu x rd ra rb s
  | .popc x rd ra => Sys2Proof.Machine.execPopc x rd ra s
  | .clz x rd ra => Sys2Proof.Machine.execClz x rd ra s
  | .ctz x rd ra => Sys2Proof.Machine.execCtz x rd ra s
  | .bext x rd ra rb => Sys2Proof.Machine.execBext x rd ra rb s
  | .bdep x rd ra rb => Sys2Proof.Machine.execBdep x rd ra rb s
  | .brev x rd ra => Sys2Proof.Machine.execBrev x rd ra s
  | .bswap x rd ra => Sys2Proof.Machine.execBswap x rd ra s
  | .addi x rd ra imm => Sys2Proof.Machine.execAddi x rd ra imm s
  | .andi x rd ra imm => Sys2Proof.Machine.execAndi x rd ra imm s
  | .ori x rd ra imm => Sys2Proof.Machine.execOri x rd ra imm s
  | .xori x rd ra imm => Sys2Proof.Machine.execXori x rd ra imm s
  | .slti x rd ra imm => Sys2Proof.Machine.execSlti x rd ra imm s
  | .sltiu x rd ra imm => Sys2Proof.Machine.execSltiu x rd ra imm s
  | .shiSll x rd ra n => Sys2Proof.Machine.execShiSll x rd ra n s
  | .shiSrl x rd ra n => Sys2Proof.Machine.execShiSrl x rd ra n s
  | .shiSra x rd ra n => Sys2Proof.Machine.execShiSra x rd ra n s
  | .shiRol x rd ra n => Sys2Proof.Machine.execShiRol x rd ra n s
  | .shiRor x rd ra n => Sys2Proof.Machine.execShiRor x rd ra n s
  | .lui x rd imm => Sys2Proof.Machine.execLui x rd imm s
  | .lut3 x rd ra rb tt => Sys2Proof.Machine.execLut3 x rd ra rb tt s
  | .l4and x pd pa pb => Sys2Proof.Machine.execL4and x pd pa pb s
  | .l4or x pd pa pb => Sys2Proof.Machine.execL4or x pd pa pb s
  | .l4xor x pd pa pb => Sys2Proof.Machine.execL4xor x pd pa pb s
  | .l4not x pd pa => Sys2Proof.Machine.execL4not x pd pa s
  | .l4mux x pd pa pb ps => Sys2Proof.Machine.execL4mux x pd pa pb ps s
  | .l4res x pd pa pb => Sys2Proof.Machine.execL4res x pd pa pb s
  | .l4eq x pd pa pb => Sys2Proof.Machine.execL4eq x pd pa pb s
  | .fadd x sz rm rd ra rb => Sys2Proof.Machine.execFadd x sz rm rd ra rb s
  | .fsub x sz rm rd ra rb => Sys2Proof.Machine.execFsub x sz rm rd ra rb s
  | .fmul x sz rm rd ra rb => Sys2Proof.Machine.execFmul x sz rm rd ra rb s
  | .fdiv x sz rm rd ra rb => Sys2Proof.Machine.execFdiv x sz rm rd ra rb s
  | .fsqrt x sz rm rd ra => Sys2Proof.Machine.execFsqrt x sz rm rd ra s
  | .fmin x sz rm rd ra rb => Sys2Proof.Machine.execFmin x sz rm rd ra rb s
  | .fmax x sz rm rd ra rb => Sys2Proof.Machine.execFmax x sz rm rd ra rb s
  | .feq x sz rm rd ra rb => Sys2Proof.Machine.execFeq x sz rm rd ra rb s
  | .flt x sz rm rd ra rb => Sys2Proof.Machine.execFlt x sz rm rd ra rb s
  | .fle x sz rm rd ra rb => Sys2Proof.Machine.execFle x sz rm rd ra rb s
  | .fclass x sz rm rd ra => Sys2Proof.Machine.execFclass x sz rm rd ra s
  | .fcopysign x sz rm rd ra rb => Sys2Proof.Machine.execFcopysign x sz rm rd ra rb s
  | .fneg x sz rm rd ra => Sys2Proof.Machine.execFneg x sz rm rd ra s
  | .fabs x sz rm rd ra => Sys2Proof.Machine.execFabs x sz rm rd ra s
  | .fcvtI x sz rm rd ra => Sys2Proof.Machine.execFcvtI x sz rm rd ra s
  | .fcvtU x sz rm rd ra => Sys2Proof.Machine.execFcvtU x sz rm rd ra s
  | .fcvtFi x sz rm rd ra => Sys2Proof.Machine.execFcvtFi x sz rm rd ra s
  | .fcvtFu x sz rm rd ra => Sys2Proof.Machine.execFcvtFu x sz rm rd ra s
  | .fcvtFf x sz rm rd ra => Sys2Proof.Machine.execFcvtFf x sz rm rd ra s
  | .frfs x sz rm rd => Sys2Proof.Machine.execFrfs x sz rm rd s
  | .fwfs x sz rm ra => Sys2Proof.Machine.execFwfs x sz rm ra s
  | .fcfs x sz rm rd => Sys2Proof.Machine.execFcfs x sz rm rd s
  | .fmadd x sz rm rd ra rb rc => Sys2Proof.Machine.execFmadd x sz rm rd ra rb rc s
  | .fmsub x sz rm rd ra rb rc => Sys2Proof.Machine.execFmsub x sz rm rd ra rb rc s
  | .fnmadd x sz rm rd ra rb rc => Sys2Proof.Machine.execFnmadd x sz rm rd ra rb rc s
  | .fnmsub x sz rm rd ra rb rc => Sys2Proof.Machine.execFnmsub x sz rm rd ra rb rc s
  | .ld x rd ra sp w imm => Sys2Proof.Machine.execLd x rd ra sp w imm s
  | .lds x rd ra sp w imm => Sys2Proof.Machine.execLds x rd ra sp w imm s
  | .st x rd ra sp w imm => Sys2Proof.Machine.execSt x rd ra sp w imm s
  | .beq x ra rb off => Sys2Proof.Machine.execBeq x ra rb off s
  | .bne x ra rb off => Sys2Proof.Machine.execBne x ra rb off s
  | .blt x ra rb off => Sys2Proof.Machine.execBlt x ra rb off s
  | .bge x ra rb off => Sys2Proof.Machine.execBge x ra rb off s
  | .bltu x ra rb off => Sys2Proof.Machine.execBltu x ra rb off s
  | .bgeu x ra rb off => Sys2Proof.Machine.execBgeu x ra rb off s
  | .bset x ra rb off => Sys2Proof.Machine.execBset x ra rb off s
  | .bclr x ra rb off => Sys2Proof.Machine.execBclr x ra rb off s
  | .jal x rd off => Sys2Proof.Machine.execJal x rd off s
  | .jalr x rd ra imm => Sys2Proof.Machine.execJalr x rd ra imm s
  | .emit x pv ro t mask => Sys2Proof.Machine.execEmit x pv ro t mask s
  | .emitd x pv t mask => Sys2Proof.Machine.execEmitd x pv t mask s
  | .state x smask => Sys2Proof.Machine.execState x smask s
  | .done x => Sys2Proof.Machine.execDone x s
  | .trap x imm => Sys2Proof.Machine.execTrap x imm s
  | .wait x => Sys2Proof.Machine.execWait x s
  | .reti x => Sys2Proof.Machine.execReti x s
  | .fence x => Sys2Proof.Machine.execFence x s
  | .csrget x rd csr => Sys2Proof.Machine.execCsrget x rd csr s
  | .csrput x ra csr => Sys2Proof.Machine.execCsrput x ra csr s
  | .csrswap x rd ra csr => Sys2Proof.Machine.execCsrswap x rd ra csr s
  | .csrins x rd ra csr => Sys2Proof.Machine.execCsrins x rd ra csr s
  | .lkacq x rd ra imm => Sys2Proof.Machine.execLkacq x rd ra imm s
  | .lkrel x rd ra imm => Sys2Proof.Machine.execLkrel x rd ra imm s
  | .token die stop => Sys2Proof.Machine.execToken die stop s
  | .tokenMc die stop => Sys2Proof.Machine.execTokenMc die stop s
  | .anti die stop => Sys2Proof.Machine.execAnti die stop s
  | .antiMc die stop => Sys2Proof.Machine.execAntiMc die stop s
  | .control die stop => Sys2Proof.Machine.execControl die stop s
  | .slotRel dst => Sys2Proof.Machine.execSlotRel dst s
  | .rd die br => Sys2Proof.Machine.execRd die br s
  | .wr die br => Sys2Proof.Machine.execWr die br s
  | .cfgRd die stop => Sys2Proof.Machine.execCfgRd die stop s
  | .cfgWr die stop => Sys2Proof.Machine.execCfgWr die stop s
  | .rdRsp dst => Sys2Proof.Machine.execRdRsp dst s
  | .wrAck dst => Sys2Proof.Machine.execWrAck dst s
  | .cfgRsp dst => Sys2Proof.Machine.execCfgRsp dst s
  | .errRsp dst => Sys2Proof.Machine.execErrRsp dst s
  | .matchArrival p par => Sys2Proof.Machine.execMatchArrival p par s
  | .mobProbeComplete p slot => Sys2Proof.Machine.execMobProbeComplete p slot s
  | .deepMatchProbeComplete p slot => Sys2Proof.Machine.execDeepMatchProbeComplete p slot s
  | .deepMatchWrite t => Sys2Proof.Machine.execDeepMatchWrite t s
  | .arming p => Sys2Proof.Machine.execArming p s
  | .descriptorInsert p => Sys2Proof.Machine.execDescriptorInsert p s
  | .spill p => Sys2Proof.Machine.execSpill p s
  | .dispatch p par => Sys2Proof.Machine.execDispatch p par s
  | .journalGrant t => Sys2Proof.Machine.execJournalGrant t s
  | .emitFiring p par => Sys2Proof.Machine.execEmitFiring p par s
  | .kick p => Sys2Proof.Machine.execKick p s
  | .depositHeld p => Sys2Proof.Machine.execDepositHeld p s
  | .depositState p => Sys2Proof.Machine.execDepositState p s
  | .readNode p => Sys2Proof.Machine.execReadNode p s
  | .route p => Sys2Proof.Machine.execRoute p s
  | .stopInject die stop => Sys2Proof.Machine.execStopInject die stop s
  | .ringHop die stop ring ecc => Sys2Proof.Machine.execRingHop die stop ring ecc s
  | .foxgloveTraversal die link back vc ecc => Sys2Proof.Machine.execFoxgloveTraversal die link back vc ecc s
  | .bridgeCrossing die br toHub vc ecc => Sys2Proof.Machine.execBridgeCrossing die br toHub vc ecc s
  | .lksRt die stop d v => Sys2Proof.Machine.execLksRt die stop d v s
  | .lksStopCfg die stop v => Sys2Proof.Machine.execLksStopCfg die stop v s
  | .fenceReq die stop => Sys2Proof.Machine.execFenceReq die stop s
  | .fenceOpen die stop => Sys2Proof.Machine.execFenceOpen die stop s
  | .force die stop => Sys2Proof.Machine.execForce die stop s
  | .fenceAck die stop => Sys2Proof.Machine.execFenceAck die stop s
  | .fenceTimeout die stop => Sys2Proof.Machine.execFenceTimeout die stop s
  | .horizonSnapshot => Sys2Proof.Machine.execHorizonSnapshot s
  | .horizonDelivery void => Sys2Proof.Machine.execHorizonDelivery void s
  | .commitSweep p => Sys2Proof.Machine.execCommitSweep p s
  | .fossilCollection t j => Sys2Proof.Machine.execFossilCollection t j s
  | .descriptorSweep p j => Sys2Proof.Machine.execDescriptorSweep p j s
  | .mobRescan deep unit j => Sys2Proof.Machine.execMobRescan deep unit j s
  | .rollback t => Sys2Proof.Machine.execRollback t s
  | .storeWrite t => Sys2Proof.Machine.execStoreWrite t s
  | .storeAck t => Sys2Proof.Machine.execStoreAck t s
  | .governorPeriod => Sys2Proof.Machine.execGovernorPeriod s
  | .stallEvent j => Sys2Proof.Machine.execStallEvent j s
  | .pauseTime via j t => Sys2Proof.Machine.execPauseTime via j t s
  | .resume via j v => Sys2Proof.Machine.execResume via j v s
  | .orphanDiscard via j v => Sys2Proof.Machine.execOrphanDiscard via j v s
  | .waveStart => Sys2Proof.Machine.execWaveStart s
  | .hzReq f u => Sys2Proof.Machine.execHzReq f u s
  | .hzUp f u => Sys2Proof.Machine.execHzUp f u s
  | .hzDown f u => Sys2Proof.Machine.execHzDown f u s
  | .hzPause f u => Sys2Proof.Machine.execHzPause f u s
  | .hzAck f u => Sys2Proof.Machine.execHzAck f u s
  | .hzRepeat f => Sys2Proof.Machine.execHzRepeat f s
  | .hzFrameAck f u => Sys2Proof.Machine.execHzFrameAck f u s
  | .time f u => Sys2Proof.Machine.execTime f u s
  | .targetEdge rising ins => Sys2Proof.Machine.execTargetEdge rising ins s
  | .syncInEdge => Sys2Proof.Machine.execSyncInEdge s
  | .syncOutPulse => Sys2Proof.Machine.execSyncOutPulse s
  | .correctedWriteback => Sys2Proof.Machine.execCorrectedWriteback s
  | .sramScrub => Sys2Proof.Machine.execSramScrub s
  | .hbmScrub => Sys2Proof.Machine.execHbmScrub s
  | .patchInstall die e v => Sys2Proof.Machine.execPatchInstall die e v s
  | .patchEnd die e v => Sys2Proof.Machine.execPatchEnd die e v s
  | .remapEnable e v => Sys2Proof.Machine.execRemapEnable e v s
  | .remapCopyComplete e => Sys2Proof.Machine.execRemapCopyComplete e s
  | .remapEnd e v => Sys2Proof.Machine.execRemapEnd e v s
  | .eccInjectSram via v => Sys2Proof.Machine.execEccInjectSram via v s
  | .eccInjectHbm via v => Sys2Proof.Machine.execEccInjectHbm via v s
  | .load via j v => Sys2Proof.Machine.execLoad via j v s
  | .loadStart => Sys2Proof.Machine.execLoadStart s
  | .stagingMib via j v => Sys2Proof.Machine.execStagingMib via j v s
  | .keySeal via data => Sys2Proof.Machine.execKeySeal via data s
  | .keyRevoke via v => Sys2Proof.Machine.execKeyRevoke via v s
  | .signLock via v => Sys2Proof.Machine.execSignLock via v s
  | .tskPost c v => Sys2Proof.Machine.execTskPost c v s
  | .postAdmission => Sys2Proof.Machine.execPostAdmission s
  | .postApply bad => Sys2Proof.Machine.execPostApply bad s
  | .taskDispatch => Sys2Proof.Machine.execTaskDispatch s
  | .tskEnd c => Sys2Proof.Machine.execTskEnd c s
  | .tskCfg t v => Sys2Proof.Machine.execTskCfg t v s
  | .eventRingWrite r => Sys2Proof.Machine.execEventRingWrite r s
  | .evrCfg r v => Sys2Proof.Machine.execEvrCfg r v s
  | .tileRbqKey t v => Sys2Proof.Machine.execTileRbqKey t v s
  | .objDone c v => Sys2Proof.Machine.execObjDone c v s
  | .interruptEdge n bad => Sys2Proof.Machine.execInterruptEdge n bad s
  | .interruptOffer c => Sys2Proof.Machine.execInterruptOffer c s
  | .interruptEntry c => Sys2Proof.Machine.execInterruptEntry c s
  | .icSwset v => Sys2Proof.Machine.execIcSwset v s
  | .icCfg n v => Sys2Proof.Machine.execIcCfg n v s
  | .lockReq n first others bad => Sys2Proof.Machine.execLockReq n first others bad s
  | .leaseExpiry n => Sys2Proof.Machine.execLeaseExpiry n s
  | .bar2Read fn o n => Sys2Proof.Machine.execBar2Read fn o n s
  | .bar2Write fn o data => Sys2Proof.Machine.execBar2Write fn o data s
  | .apertureEntry fn e v => Sys2Proof.Machine.execApertureEntry fn e v s
  | .ringCfg fn k v => Sys2Proof.Machine.execRingCfg fn k v s
  | .ringSqTail fn k v => Sys2Proof.Machine.execRingSqTail fn k v s
  | .completionWrite k => Sys2Proof.Machine.execCompletionWrite k s
  | .cmdNop k e => Sys2Proof.Machine.execCmdNop k e s
  | .cmdObjRead k e => Sys2Proof.Machine.execCmdObjRead k e s
  | .cmdObjWrite k e host => Sys2Proof.Machine.execCmdObjWrite k e host s
  | .cmdLoad k e => Sys2Proof.Machine.execCmdLoad k e s
  | .cmdUnload k e => Sys2Proof.Machine.execCmdUnload k e s
  | .cmdRun k e => Sys2Proof.Machine.execCmdRun k e s
  | .cmdPause k e => Sys2Proof.Machine.execCmdPause k e s
  | .cmdResume k e => Sys2Proof.Machine.execCmdResume k e s
  | .cmdStop k e => Sys2Proof.Machine.execCmdStop k e s
  | .cmdControl k e host => Sys2Proof.Machine.execCmdControl k e host s
  | .cmdReadState k e => Sys2Proof.Machine.execCmdReadState k e s
  | .cmdDmRead k e => Sys2Proof.Machine.execCmdDmRead k e s
  | .cmdDmWrite k e host => Sys2Proof.Machine.execCmdDmWrite k e host s
  | .cmdStageIn k e host => Sys2Proof.Machine.execCmdStageIn k e host s
  | .cmdStageOut k e => Sys2Proof.Machine.execCmdStageOut k e s
  | .tlpArbitration => Sys2Proof.Machine.execTlpArbitration s
  | .flrVf j => Sys2Proof.Machine.execFlrVf j s
  | .flrPf => Sys2Proof.Machine.execFlrPf s
  | .linkLoss => Sys2Proof.Machine.execLinkLoss s
  | .perstAssert => Sys2Proof.Machine.execPerstAssert s
  | .vfEnableChange n => Sys2Proof.Machine.execVfEnableChange n s
  | .busMasterEnable fn on => Sys2Proof.Machine.execBusMasterEnable fn on s
  | .memorySpaceEnable fn v => Sys2Proof.Machine.execMemorySpaceEnable fn v s
  | .powerStateChange fn d3 => Sys2Proof.Machine.execPowerStateChange fn d3 s
  | .featureAccept via v => Sys2Proof.Machine.execFeatureAccept via v s
  | .mbxReq fn v => Sys2Proof.Machine.execMbxReq fn v s
  | .probeItem t => Sys2Proof.Machine.execProbeItem t s
  | .probeCancel t => Sys2Proof.Machine.execProbeCancel t s
  | .frontEndPush n => Sys2Proof.Machine.execFrontEndPush n s
  | .itemWrite n => Sys2Proof.Machine.execItemWrite n s
  | .packetCommit n => Sys2Proof.Machine.execPacketCommit n s
  | .strRead n v => Sys2Proof.Machine.execStrRead n v s
  | .mark n => Sys2Proof.Machine.execMark n s
  | .rewind n => Sys2Proof.Machine.execRewind n s
  | .release n => Sys2Proof.Machine.execRelease n s
  | .disableFlush n => Sys2Proof.Machine.execDisableFlush n s
  | .disableDiscard n => Sys2Proof.Machine.execDisableDiscard n s
  | .close n => Sys2Proof.Machine.execClose n s
  | .flEnable via f v => Sys2Proof.Machine.execFlEnable via f v s
  | .trainingComplete f => Sys2Proof.Machine.execTrainingComplete f s
  | .trainingAbandon f => Sys2Proof.Machine.execTrainingAbandon f s
  | .downTimeout f => Sys2Proof.Machine.execDownTimeout f s
  | .identityFrameTimer f => Sys2Proof.Machine.execIdentityFrameTimer f s
  | .identityFrame f u => Sys2Proof.Machine.execIdentityFrame f u s
  | .identAck f u => Sys2Proof.Machine.execIdentAck f u s
  | .frameSend f => Sys2Proof.Machine.execFrameSend f s
  | .dataFrame f u => Sys2Proof.Machine.execDataFrame f u s
  | .ack f u => Sys2Proof.Machine.execAck f u s
  | .ackTimer f => Sys2Proof.Machine.execAckTimer f s
  | .nak f u => Sys2Proof.Machine.execNak f u s
  | .credit f u => Sys2Proof.Machine.execCredit f u s
  | .creditTimer f => Sys2Proof.Machine.execCreditTimer f s
  | .pause f u => Sys2Proof.Machine.execPause f u s
  | .pauseExpiry f vc => Sys2Proof.Machine.execPauseExpiry f vc s
  | .replayTimeout f => Sys2Proof.Machine.execReplayTimeout f s
  | .retrainComplete f => Sys2Proof.Machine.execRetrainComplete f s
  | .heartbeatSend f => Sys2Proof.Machine.execHeartbeatSend f s
  | .heartbeat f u => Sys2Proof.Machine.execHeartbeat f u s
  | .heartbeatExpiry f => Sys2Proof.Machine.execHeartbeatExpiry f s
  | .calibrationTrigger f => Sys2Proof.Machine.execCalibrationTrigger f s
  | .calReq f u => Sys2Proof.Machine.execCalReq f u s
  | .calibrationWindowEnd f => Sys2Proof.Machine.execCalibrationWindowEnd f s
  | .linkState => Sys2Proof.Machine.execLinkState s
  | .resync => Sys2Proof.Machine.execResync s
  | .resyncTimeout f => Sys2Proof.Machine.execResyncTimeout f s
  | .frameAckRelay => Sys2Proof.Machine.execFrameAckRelay s
  | .object => Sys2Proof.Machine.execObject s
  | .peerLock => Sys2Proof.Machine.execPeerLock s
  | .lockWake => Sys2Proof.Machine.execLockWake s
  | .jobCheck => Sys2Proof.Machine.execJobCheck s
  | .flRt k v => Sys2Proof.Machine.execFlRt k v s
  | .read ident b => Sys2Proof.Machine.execRead ident b s
  | .write ident b => Sys2Proof.Machine.execWrite ident b s
  | .readSeg ident b => Sys2Proof.Machine.execReadSeg ident b s
  | .writeSeg ident b => Sys2Proof.Machine.execWriteSeg ident b s
  | .abort ident b => Sys2Proof.Machine.execAbort ident b s
  | .lock ident b => Sys2Proof.Machine.execLock ident b s
  | .transferLapse => Sys2Proof.Machine.execTransferLapse s
  | .objectTimeout => Sys2Proof.Machine.execObjectTimeout s
  | .sopHeartbeat => Sys2Proof.Machine.execSopHeartbeat s
  | .eventFrame => Sys2Proof.Machine.execEventFrame s
  | .errlogIndex via v => Sys2Proof.Machine.execErrlogIndex via v s
  | .errlogClear via v => Sys2Proof.Machine.execErrlogClear via v s
  | .testUnlock via v => Sys2Proof.Machine.execTestUnlock via v s
  | .ovrUnlock via v => Sys2Proof.Machine.execOvrUnlock via v s
  | .ovrRelease via v => Sys2Proof.Machine.execOvrRelease via v s
  | .nodeIdSrc via v pins => Sys2Proof.Machine.execNodeIdSrc via v pins s
  | .moduleCmdBoot via => Sys2Proof.Machine.execModuleCmdBoot via s
  | .moduleCmdSnowdrop via => Sys2Proof.Machine.execModuleCmdSnowdrop via s
  | .snowdropSaveRetry => Sys2Proof.Machine.execSnowdropSaveRetry s
  | .moduleCmdWake via found => Sys2Proof.Machine.execModuleCmdWake via found s
  | .moduleCmdReboot via => Sys2Proof.Machine.execModuleCmdReboot via s
  | .moduleCmdStandby via => Sys2Proof.Machine.execModuleCmdStandby via s
  | .jobCmdRun via j => Sys2Proof.Machine.execJobCmdRun via j s
  | .jobCmdStop via j => Sys2Proof.Machine.execJobCmdStop via j s
  | .jobCmdUnload via j => Sys2Proof.Machine.execJobCmdUnload via j s
  | .vinRise mv node => Sys2Proof.Machine.execVinRise mv node s
  | .vinLoss => Sys2Proof.Machine.execVinLoss s
  | .vinLevelCrossing mv => Sys2Proof.Machine.execVinLevelCrossing mv s
  | .brownOut mv => Sys2Proof.Machine.execBrownOut mv s
  | .overvoltage mv => Sys2Proof.Machine.execOvervoltage mv s
  | .refclkStart node => Sys2Proof.Machine.execRefclkStart node s
  | .bootStart => Sys2Proof.Machine.execBootStart s
  | .bootStage r => Sys2Proof.Machine.execBootStage r s
  | .resetAssert => Sys2Proof.Machine.execResetAssert s
  | .resetRelease => Sys2Proof.Machine.execResetRelease s
  | .powerControl w => Sys2Proof.Machine.execPowerControl w s
  | .currentLimit ma => Sys2Proof.Machine.execCurrentLimit ma s
  | .thermalAlert tj => Sys2Proof.Machine.execThermalAlert tj s
  | .thermalRuleEnd tj => Sys2Proof.Machine.execThermalRuleEnd tj s
  | .thermalTrip tj => Sys2Proof.Machine.execThermalTrip tj s
  | .railFault rail => Sys2Proof.Machine.execRailFault rail s
  | .avsWindow t slack => Sys2Proof.Machine.execAvsWindow t slack s
  | .droopResponse t => Sys2Proof.Machine.execDroopResponse t s
  | .avsStat t => Sys2Proof.Machine.execAvsStat t s
  | .extest d => Sys2Proof.Machine.execExtest d s
  | .samplePreload d => Sys2Proof.Machine.execSamplePreload d s
  | .idcode => Sys2Proof.Machine.execIdcode s
  | .highz => Sys2Proof.Machine.execHighz s
  | .bypass => Sys2Proof.Machine.execBypass s
  | .requestTimeout dst tid => Sys2Proof.Machine.execRequestTimeout dst tid s
  | .errlogWrite => Sys2Proof.Machine.execErrlogWrite s
  | .refclkLoss => Sys2Proof.Machine.execRefclkLoss s
  | .pciePerstRelease => Sys2Proof.Machine.execPciePerstRelease s
  | .pcieLinkUp rate width => Sys2Proof.Machine.execPcieLinkUp rate width s
  | .msixMaskChange fn b => Sys2Proof.Machine.execMsixMaskChange fn b s
  | .hostDmaCompletion k ok => Sys2Proof.Machine.execHostDmaCompletion k ok s
  | .busOff => Sys2Proof.Machine.execBusOff s
  | .qspiOperationComplete => Sys2Proof.Machine.execQspiOperationComplete s
  | .ovrWindowEnd => Sys2Proof.Machine.execOvrWindowEnd s
  | .testLogicReset => Sys2Proof.Machine.execTestLogicReset s
  | .uncorrectableCodeword f => Sys2Proof.Machine.execUncorrectableCodeword f s

end Sys2Proof.Machine
end

