-- ==== Sys2Proof/Safety.lean ====
section
/-! DEFINITION. What claims speak of: where a command completes, what an issued instruction leaves, the word an executor stands at, the bounds of the queues, and safe runs. -/

namespace Sys2Proof.Machine

/-- A command completes from a state with a next state of which P holds. -/
def Completes (c : Instr) (s : State) (P : State → Prop) : Prop := ∃ t, exec c s = .next t ∧ P t

/-- The module after an executor has issued an instruction that leaves its thread as given: the instruction is counted (R117, Table 5-11, Table 5-12). -/
def Mach.issued (m : Mach) (x : Exec) (th : Thread) : Mach :=
  match x with
  | .pe p c _ =>
    match SMap.get? (m.pe p).ctxs c.toNat with
    | some y => m.ctxDone p c { y with th := th }
    | none => m
  | .parity _ _ _ => m
  | .core c => m.coreDone c { m.core c with th := th }

/-- The module after an instruction of an executor has trapped (R118, R122). -/
def Mach.trapped (m : Mach) (x : Exec) (tr : Trap) : Mach :=
  match x with
  | .pe p c _ =>
    match SMap.get? (m.pe p).ctxs c.toNat with
    | some y => m.firingTrap p c y tr
    | none => m
  | .parity _ _ _ => m
  | .core c => m.coreTrap c tr

/-- The register g of an executor. -/
def State.reg (s : State) (x : Exec) (r : BitVec 5) : Word := (s.m.thread x).get r

/-- The state after an executor has issued an instruction that leaves its thread as given. -/
def State.ran (s : State) (x : Exec) (th : Thread) : State := { s with m := s.m.issued x th }

/-- The state after an executor has issued an instruction that writes v to rd and goes on to the next word. -/
def State.sets (s : State) (x : Exec) (rd : BitVec 5) (v : Word) : State := s.ran x ((s.m.thread x).put rd v).next

/-- The state after an executor has issued an instruction that writes both planes of a pair and goes on. -/
def State.setsPair (s : State) (x : Exec) (pd : BitVec 4) (v : Word × Word) : State :=
  s.ran x ((s.m.thread x).putPair pd v).next

/-- The state after an instruction of an executor has trapped. -/
def State.traps (s : State) (x : Exec) (tr : Trap) : State := { s with m := s.m.trapped x tr }

/-- The state after a branch of an executor: to an exact target when it is taken, with the words past it read and discarded (R112), else to the next word. -/
def State.goes (s : State) (x : Exec) (taken : Bool) (target : Int) : State :=
  if taken then { s with m := (s.m.issued x { s.m.thread x with pc := BitVec.ofInt 32 target }).fetchedPast x (s.m.thread x).pc }
  else s.ran x (s.m.thread x).next

/-- The state after a floating-point instruction that writes v with the exceptions it signals added to FLAGS. -/
def State.setsFp (s : State) (x : Exec) (rd : BitVec 5) (v : Word × FFlags) : State :=
  s.ran x { ((s.m.thread x).put rd v.1).next with fps := fpsFlag (s.m.thread x).fps v.2 }

/-- A completed firing as the Emit queue takes it from its context (R92, R93). -/
def Ctx.emitted (y : Ctx) : EmitJob :=
  { kind := if y.kick then .kick else .firing, job := y.job, node := y.node, tag := y.tag, safe := y.safe, gen := y.gen,
    arrived := y.arrived, emits := y.emits, stores := y.stores, stw := y.stw, jents := y.jents, arcs := 0 }

/-- The firing in a context of a PE. -/
def State.ctxAt (s : State) (p : PeId) (c : BitVec 4) : Option Ctx := SMap.get? (s.m.pe p).ctxs c.toNat

/-- A context of a PE holds the firing y, it is the one to issue, and the word at its pc reads without error (R91, R112). -/
abbrev State.turns (s : State) (p : PeId) (c : BitVec 4) (ws : BitVec 16) (y : Ctx) : Prop :=
  s.m.turn p c ws = some y ∧ s.m.fetchClean (.pe p c ws) = true

/-- A service core runs, and the word at its pc reads without error. -/
abbrev State.runs (s : State) (c : BitVec 4) : Prop := coreLive (s.m.core c) = true ∧ s.m.fetchClean (.core c) = true

/-- The state after an instruction of a firing leaves its context as given. -/
def State.leaves (s : State) (p : PeId) (c : BitVec 4) (y : Ctx) : State := { s with m := s.m.ctxDone p c y }

/-- The state after an instruction of a service core leaves its registers as given. -/
def State.coreLeaves (s : State) (c : BitVec 4) (y : Core) : State := { s with m := s.m.coreDone c y }

/-- A service core in privileged mode that issues an instruction of the privileged extension. -/
abbrev State.privileged (s : State) (c : BitVec 4) : Prop :=
  s.runs c ∧ s.m.sysIssues c = true ∧ Mach.pmode (s.m.core c) = true

/-- No HBM half, no hub SRAM word and no SRAM word of a compute die has an error or an error injection pending, no unit is remapped, none is being copied, and the memory stands in canonical form. -/
abbrev Mach.cleanMemory (m : Mach) : Prop :=
  m.ms.sramFlaw = [] ∧ m.ms.hbmFlaw = [] ∧ m.ms.hbmPoison = [] ∧ m.ms.hbmMisaddr = [] ∧ m.ms.hubFlaw = [] ∧ m.ms.remap = [] ∧ m.ms.copying = []
    ∧ m.ms.hbmInj = [] ∧ m.ms.hbmInjMis = [] ∧ m.ms.sramInj = [] ∧ Memory.wf m.mem = true

/-- The word at the pc of an executor, in the job's code segment or the core's local memory (R112). -/
def Mach.wordAt (m : Mach) (x : Exec) : BitVec 32 :=
  match x with
  | .pe p c _ => ((SMap.get? (m.pe p).ctxs c.toNat).map m.codeWord).getD 0
  | .parity _ _ _ => 0
  | .core c => m.localWord c

/-- An instruction stands at the pc of an executor. -/
def Mach.standsAt (m : Mach) (x : Exec) (i : Instr) : Prop := decodeBis x (m.wordAt x) = some i

/-- The object agent is free to take a write of an object on a path, and the write passes every check of R380. -/
def State.takesWrite (s : State) (via : Path) (idx : BitVec 16) (sub : Byte) (d : List Byte) : Prop :=
  s.m.awake = true ∧ s.m.agent = none ∧ s.m.agentQ = [] ∧ via.ok = true ∧
    ∃ r, objRow idx.toNat sub.toNat = .ok r ∧ s.m.checkWrite s.vault via idx.toNat sub.toNat d r = .ok ()

/-- The object agent is free to take a write of KEY_SEAL of the right length for an empty slot (R270, R380). -/
def State.takesSeal (s : State) (via : Path) (d : List Byte) : Prop :=
  s.m.awake = true ∧ s.m.agent = none ∧ s.m.agentQ = [] ∧ via.ok = true ∧ s.m.pathMay via true 0x1041 = true ∧ d.length = 41 ∧
    (d.headD 0).toNat < 8 ∧ SMap.getD s.vault.slots (d.headD 0).toNat .empty = .empty

/-- The module hears a frame of the field bus as a well-formed request of a command that repeats none, with the port not bus-off and the object agent free (R384 to R387). -/
def State.hears (s : State) (cmd : Nat) (ident : BitVec 11) (b : List Byte) : Prop :=
  s.m.awake = true ∧ s.m.busOff = none ∧ ident.extractLsb' 7 4 = 3 ∧ ident.truncate 7 = s.m.nodeId ∧ s.m.nodeId ≠ 0 ∧ (frameByte b 0).toNat = cmd ∧
    b.length ≤ 64 ∧ sopWellFormed b = true ∧ s.m.agent = none ∧ s.m.agentQ = [] ∧
    ∀ l, s.m.sop.last = some l → ¬ (l.1 = frameByte b 1 ∧ l.2.1 = if cmd = 3 ∨ cmd = 4 then frameByte b 2 else 0)

/-- The object agent has no access under way and none waiting. -/
abbrev State.agentIdle (s : State) : Prop := s.m.awake = true ∧ s.m.agent = none ∧ s.m.agentQ = []

/-- A ring pair takes a command whose form, job, rights and state are as they must be: the pair is READY with an entry, no command under way and no TLP of it waiting, its function may use memory, the entry is well formed, the function may name the job, and the job is in one of the states given, not encrypted where the command reads it plain (R322, R324). -/
abbrev State.takesCmd (s : State) (k : BitVec 6) (e : Sub) (states : List JobState) (plain : Bool) : Prop :=
  (s.m.pair k.toNat).stat = 1 ∧ (s.m.pair k.toNat).sqHead ≠ (s.m.pair k.toNat).sqTail ∧ (s.m.pair k.toNat).cur = none ∧
    s.m.pairUp k.toNat = false ∧ s.m.dmaOk (s.m.pairFn k.toNat) = true ∧ e.unknown = false ∧ e.reserved = false ∧ bits e.flags 7 1 = 0 ∧ e.job.toNat < 8 ∧
    (s.m.pairFn k.toNat = 0 ∨ e.job.toNat + 1 = s.m.pairFn k.toNat) ∧
    (states = [] ∨ (s.m.job (e.job.truncate 3)).state ∈ states) ∧ (plain = true → (s.m.job (e.job.truncate 3)).enc = false)

/-- The command of a ring pair is done with a status and a result, and awaits its completion entry. -/
def State.cmdDone (s : State) (k : BitVec 6) (status result : BitVec 32) : Prop :=
  ∃ c, (s.m.pair k.toNat).cur = some c ∧ c.wait = .done status result

/-- The bounds the spec sets to queues and stores (R157, R165, R169, R290, R293, R388, R448); the entries of a slice's journal are numbered below 512, each once. -/
def Mach.bounded (m : Mach) : Bool :=
  decide (m.err.queue.length ≤ 32) && decide (m.sched.postQ.length ≤ 64) && decide (m.evFrames.length ≤ 32)
    && m.tiles.all (fun e => decide ((e.2.journal.map (·.1)).Pairwise (· < ·)) && e.2.journal.all (fun q => decide (q.1 < 512)) && decide (e.2.rbq.length ≤ 32) && decide (e.2.holds.length ≤ 16)
      && decide (e.2.pend.length ≤ 64))

/-- The memories of the module are in canonical form. -/
def Mach.memOk (m : Mach) : Bool := Memory.wf m.mem && Memory.wf m.flash

/-- A run of commands is safe when every command named units that exist. -/
def safeRun (l : List Instr) : Bool := l.all Instr.wf

end Sys2Proof.Machine
end

