-- ==== Sys2Proof/Certificates/Slice0/Obligations.lean ====
section
/-! DEFINITION. The statements about the block: what each family of commands does when it completes, what it leaves alone, and what holds of every step. -/

open Sys2Proof Sys2Proof.Machine

/-! Terms of the statements -/

/-- A finite operand stands for the real number x. -/
def Sys2Proof.Claim.Stands (v : FVal) (x : ℝ) : Prop :=
  ∃ (s : Bool) (c : Nat) (e : Int), v = .fin s c e ∧ x = (if s then -1 else 1) * (c : ℝ) * (2 : ℝ) ^ e

/-- A value of at most p + 1 significant bits at an exponent that ok admits. -/
def Sys2Proof.Claim.OnGrid (p : Nat) (ok : Int → Prop) (y : ℝ) : Prop :=
  ∃ k e : Int, k.natAbs < 2 ^ (p + 1) ∧ ok e ∧ y = (k : ℝ) * (2 : ℝ) ^ e

/-- Such a value whose significand, in its least admitted exponent, is even. -/
def Sys2Proof.Claim.EvenOnGrid (p : Nat) (ok : Int → Prop) (y : ℝ) : Prop :=
  ∃ k e : Int, k % 2 = 0 ∧ k.natAbs < 2 ^ (p + 1) ∧ ok e ∧ (2 ^ p ≤ k.natAbs ∨ ¬ ok (e - 1)) ∧ y = (k : ℝ) * (2 : ℝ) ^ e

/-- The value y of a grid is x rounded by a direction (R102, Table 6-11); a tie to nearest goes to the even one, or away from zero. -/
def Sys2Proof.Claim.Rounds (on even : ℝ → Prop) (r : Rm) (x y : ℝ) : Prop :=
  let low := y ≤ x ∧ ∀ z, on z → z ≤ x → z ≤ y
  let high := x ≤ y ∧ ∀ z, on z → x ≤ z → y ≤ z
  on y ∧ match r with
    | .down => low
    | .up => high
    | .zero => (0 ≤ x → low) ∧ (x < 0 → high)
    | .nearEven => ∀ z, on z → |x - y| ≤ |x - z| ∧ (|x - z| = |x - y| → z = y ∨ even y)
    | .nearAway => ∀ z, on z → |x - y| ≤ |x - z| ∧ (|x - z| = |x - y| → |z| ≤ |y|)

/-- A result delivers the exact nonzero value x, rounded once to a format with the exceptions of Table 6-12: with y the value rounded in the format and u the value rounded with an unbounded exponent, past MAX it is the result of Table 6-11 with overflow and inexact, else y with x's sign, with inexact where y is not x and underflow where besides u is below the smallest normal magnitude. -/
def Sys2Proof.Claim.Delivers (f : Fmt) (r : Rm) (x : ℝ) (v : Word × FFlags) : Prop :=
  let fits := fun e : Int => f.emin ≤ e
  let MAX : ℝ := ((2 : ℝ) ^ (f.p + 1) - 1) * (2 : ℝ) ^ (f.bias - f.p)
  ∃ (y u : ℝ) (s : Bool), (s = true ↔ x < 0) ∧
    Claim.Rounds (Claim.OnGrid f.p fits) (Claim.EvenOnGrid f.p fits) r x y ∧
    Claim.Rounds (Claim.OnGrid f.p (fun _ => True)) (Claim.EvenOnGrid f.p (fun _ => True)) r x u ∧
    (MAX < |y| → v.2 = 0b00101 ∧
      (r = .nearEven ∨ r = .nearAway ∨ (r = .up ∧ s = false) ∨ (r = .down ∧ s = true) → v.1 = fInfW f s) ∧
      (r = .zero ∨ (r = .up ∧ s = true) ∨ (r = .down ∧ s = false) → v.1.toNat + 1 = (fInfW f s).toNat)) ∧
    (|y| ≤ MAX → v.1.toNat < 2 ^ (f.p + f.w + 1) ∧ (∃ c e, fRead f v.1 = .fin s c e) ∧ Claim.Stands (fRead f v.1) y ∧
      (y = x → v.2 = 0) ∧ (y ≠ x → |u| < (2 : ℝ) ^ (1 - f.bias) → v.2 = 0b00011) ∧
      (y ≠ x → (2 : ℝ) ^ (1 - f.bias) ≤ |u| → v.2 = 0b00001))

/-- A result of a conversion to an integer: out of range it is the bound with invalid, else the rounded integer, with inexact where rounding changed the value (Table 6-13). -/
def Sys2Proof.Claim.DeliversInt (r : Rm) (signed : Bool) (x : ℝ) (v : Word × FFlags) : Prop :=
  let lo : Int := if signed then -(2 ^ 63) else 0
  let hi : Int := if signed then 2 ^ 63 - 1 else 2 ^ 64 - 1
  ∃ k : Int, Claim.Rounds (fun y => ∃ n : Int, y = n) (fun y => ∃ n : Int, y = 2 * (n : ℝ)) r x k ∧
    (hi < k → v = (BitVec.ofInt 64 hi, 0b10000)) ∧ (k < lo → v = (BitVec.ofInt 64 lo, 0b10000)) ∧
    (lo ≤ k → k ≤ hi → v.1 = BitVec.ofInt 64 k ∧ ((k : ℝ) = x → v.2 = 0) ∧ ((k : ℝ) ≠ x → v.2 = 0b00001))


/-- A term of the reduction of a job with its GVT value, or with its SH value, as the rows of Table 9-1 list them: groups of Iris not FIRED, firings and updates in Fire or Emit, rollbacks in progress, rollback requests not started, the registers of MOBs and deep match, tokens and probe messages in transit, what the hub has injected or holds for want of a slot, and the ceiling of a paced job. -/
def Sys2Proof.Claim.Term (m : Mach) (j : JobId) (sh : Bool) (v : Tag) : Prop :=
  let at_ := fun (p : PeId) (x : Tag) => v = if sh then plusLa x (m.lookahead j p) else x
  let reg := fun (h : SMap HReg) => (if sh then (SMap.getD h j.toNat {}).leastL else (SMap.getD h j.toNat {}).least) = some v
  (∃ p ∈ m.jobPes j, ∃ e ∈ (m.pe p).iris, e.2.head = true ∧ e.2.job = j ∧ e.2.gstate ≠ .fired ∧ at_ p (m.tagOf j e.2.key)) ∨
  (∃ p ∈ m.jobPes j, ∃ c ∈ (m.pe p).ctxs, c.2.job = j ∧ at_ p c.2.tag) ∨
  (∃ p ∈ m.jobPes j, ∃ e ∈ (m.pe p).emitQ, e.job = j ∧ at_ p e.tag) ∨
  (∃ p ∈ m.jobPes j, ∃ g, Sweep.rollback g ∈ (m.pe p).sweeps ∧ g.job = j ∧ at_ p (m.tagOf j g.key)) ∨
  (∃ t ∈ m.tiles, ∃ q ∈ t.2.rbq ++ t.2.rbOut, q.job = j ∧ at_ (nodePe q.node) (m.tagOf j q.key)) ∨
  (∃ t ∈ m.tiles, ∃ q, SMap.get? t.2.rbOvfMin j.toNat = some q ∧ at_ q.2 q.1) ∨
  (∃ c ∈ m.clusters, reg c.2.hreg) ∨ (∃ t ∈ m.tiles, reg t.2.hreg) ∨
  (∃ t ∈ m.tiles, ∃ l ∈ t.2.transit, l.2.job = j ∧ v = l.2.tag) ∨
  (∃ x ∈ m.pmsgs, (∃ t i, x.msg = .item t i ∧ i.job = j ∧ v = i.ctag) ∨ (∃ t n g, x.msg = .cancel t j n v g)) ∨
  (∃ l ∈ m.hubTerms, l.2.job = j ∧ v = l.2.tag) ∨ (∃ x ∈ m.hubWait, x.2.1.job = j ∧ v = x.2.2) ∨
  ((m.job j).paced = true ∧ v = m.ceiling j (m.job j).edge)

/-- No sweep of a job stands at a PE that holds a node of it. -/
def Sys2Proof.Claim.Swept (m : Mach) (j : JobId) : Prop := ∀ p ∈ m.jobPes j, ∀ x ∈ (m.pe p).sweeps, Mach.sweepJob x ≠ j

/-- An access joins those that wait for the object agent: behind those that came before it, and before those of the same hub cycle whose path comes after its own (R383). -/
def Sys2Proof.Claim.Joins (m m' : Mach) (a : Access) : Prop :=
  a.since = m.quanta ∧ ∃ q r, m.agentQ = q ++ r ∧ m'.agentQ = q ++ a :: r ∧
    (∀ b ∈ r, b.since = m.quanta ∧ pathRank a.path < pathRank b.path) ∧
    (∀ b, q.getLast? = some b → b.since = m.quanta → pathRank b.path ≤ pathRank a.path)

/-! The step and the commands -/

/-- With a command at the front of the queue, a step is that command's effect on the state with the rest of the queue. -/
def Obligations.StepCarriesOutTheFrontCommand : Prop :=
  ∀ (c : Instr) (rest : List Instr) (s : State), step { s with pending := c :: rest } = exec c { s with pending := rest }

/-- With no command waiting, a step is one hub cycle: 26 quanta pass, the hub's cycle counter counts one while the hub runs, the key store stands, and nothing passes while the always-on domain is down (the model's choice of what an idle step is, log entry 2). -/
def Obligations.IdleStepIsOneHubCycle : Prop :=
  ∀ s : State, s.pending = [] →
    (s.m.awake = false → step s = .next s) ∧
    (s.m.awake = true → ∃ t, step s = .next t ∧ t.m.quanta = s.m.quanta + 26 ∧ t.vault = s.vault ∧ t.pending = [] ∧
      t.m.cycle = s.m.cycle + (if s.m.hubOn then 1 else 0))

/-- Every command in every state answers a next state, whatever its operands hold, and so does every step (a number past the last unit of its kind acts on the unit a free value names: the model's choice, log entry 3). -/
def Sys2Proof.Claim.EveryCommandCompletes : Prop :=
  (∀ (c : Instr) (s : State), ∃ t, exec c s = .next t) ∧ (∀ s : State, ∃ t, step s = .next t)

/-- No command adds to the queue of waiting commands or takes from it. -/
def Sys2Proof.Claim.CommandsLeaveTheQueue : Prop :=
  ∀ (c : Instr) (s t : State), exec c s = .next t → t.pending = s.pending

/-- Every command completes in every state (a missing unit names a free one, log entry 3), and none changes the queue of waiting commands: the statements above, together. -/
def Obligations.EveryCommandCompletes : Prop := Claim.EveryCommandCompletes ∧ Claim.CommandsLeaveTheQueue

/-! Words, reset and what every step keeps -/

/-- Every step that answers a next state keeps the memories in canonical form, and every queue and store within the bounds the spec sets it: the error queue 32, the post queue 64, event frames 32, and in each tile 512 journal entries, 32 rollback requests, 16 held groups and 64 pending traps. -/
def Obligations.MemoriesAndQueuesStayInBounds : Prop :=
  ∀ s t : State, step s = .next t → s.m.memOk = true → s.m.bounded = true → t.m.memOk = true ∧ t.m.bounded = true

/-! BIS: integer and bit instructions (chapter 5 and 6) -/

/-- Results of the add, logic, compare, minimum and maximum instructions: rd takes the value and the executor goes on to the next word, counted. -/
def Sys2Proof.Claim.ArithmeticAndLogicResults : Prop :=
  ∀ (s : State) (x : Exec) (rd ra rb : BitVec 5), s.m.issues x = true →
    exec (.add x rd ra rb) s = .next (s.sets x rd (BitVec.ofNat 64 ((s.reg x ra).toNat + (s.reg x rb).toNat))) ∧
    exec (.sub x rd ra rb) s = .next (s.sets x rd (BitVec.ofInt 64 (Int.ofNat (s.reg x ra).toNat - Int.ofNat (s.reg x rb).toNat))) ∧
    exec (.and x rd ra rb) s = .next (s.sets x rd (s.reg x ra &&& s.reg x rb)) ∧
    exec (.or x rd ra rb) s = .next (s.sets x rd (s.reg x ra ||| s.reg x rb)) ∧
    exec (.xor x rd ra rb) s = .next (s.sets x rd (s.reg x ra ^^^ s.reg x rb)) ∧
    exec (.andn x rd ra rb) s = .next (s.sets x rd (s.reg x ra &&& ~~~(s.reg x rb))) ∧
    exec (.orn x rd ra rb) s = .next (s.sets x rd (s.reg x ra ||| ~~~(s.reg x rb))) ∧
    exec (.xnor x rd ra rb) s = .next (s.sets x rd (~~~(s.reg x ra ^^^ s.reg x rb))) ∧
    exec (.slt x rd ra rb) s = .next (s.sets x rd (if (s.reg x ra).toInt < (s.reg x rb).toInt then 1 else 0)) ∧
    exec (.sltu x rd ra rb) s = .next (s.sets x rd (if (s.reg x ra).toNat < (s.reg x rb).toNat then 1 else 0)) ∧
    exec (.min x rd ra rb) s = .next (s.sets x rd (BitVec.ofInt 64 (min (s.reg x ra).toInt (s.reg x rb).toInt))) ∧
    exec (.max x rd ra rb) s = .next (s.sets x rd (BitVec.ofInt 64 (max (s.reg x ra).toInt (s.reg x rb).toInt))) ∧
    exec (.minu x rd ra rb) s = .next (s.sets x rd (BitVec.ofNat 64 (min (s.reg x ra).toNat (s.reg x rb).toNat))) ∧
    exec (.maxu x rd ra rb) s = .next (s.sets x rd (BitVec.ofNat 64 (max (s.reg x ra).toNat (s.reg x rb).toNat)))

/-- Results of the multiplications, and of the divisions by a divisor that is not 0: signed quotients round toward zero and remainders take the sign of the dividend. -/
def Sys2Proof.Claim.MultiplyAndDivideResults : Prop :=
  ∀ (s : State) (x : Exec) (rd ra rb : BitVec 5), s.m.issues x = true →
    exec (.mul x rd ra rb) s = .next (s.sets x rd (BitVec.ofNat 64 ((s.reg x ra).toNat * (s.reg x rb).toNat))) ∧
    exec (.mulh x rd ra rb) s = .next (s.sets x rd (BitVec.ofInt 64 ((s.reg x ra).toInt * (s.reg x rb).toInt / 2 ^ 64))) ∧
    exec (.mulhu x rd ra rb) s = .next (s.sets x rd (BitVec.ofNat 64 ((s.reg x ra).toNat * (s.reg x rb).toNat / 2 ^ 64))) ∧
    (s.reg x rb ≠ 0 →
      exec (.div x rd ra rb) s = .next (s.sets x rd (BitVec.ofInt 64 ((s.reg x ra).toInt.tdiv (s.reg x rb).toInt))) ∧
      exec (.divu x rd ra rb) s = .next (s.sets x rd (BitVec.ofNat 64 ((s.reg x ra).toNat / (s.reg x rb).toNat))) ∧
      exec (.rem x rd ra rb) s = .next (s.sets x rd (BitVec.ofInt 64 ((s.reg x ra).toInt.tmod (s.reg x rb).toInt))) ∧
      exec (.remu x rd ra rb) s = .next (s.sets x rd (BitVec.ofNat 64 ((s.reg x ra).toNat % (s.reg x rb).toNat))))

/-- A division by 0 raises DIV_ZERO, code 0x07, and writes no register. -/
def Sys2Proof.Claim.DivisionByZeroTraps : Prop :=
  ∀ (s : State) (x : Exec) (rd ra rb : BitVec 5), s.m.issues x = true → s.reg x rb = 0 →
    exec (.div x rd ra rb) s = .next (s.traps x { code := 0x07 }) ∧
    exec (.divu x rd ra rb) s = .next (s.traps x { code := 0x07 }) ∧
    exec (.rem x rd ra rb) s = .next (s.traps x { code := 0x07 }) ∧
    exec (.remu x rd ra rb) s = .next (s.traps x { code := 0x07 })

/-- The immediate instructions, LUI, and the ternary operation by its table. -/
def Sys2Proof.Claim.ImmediateAndTernaryResults : Prop :=
  ∀ (s : State) (x : Exec) (rd ra rb : BitVec 5) (imm : BitVec 16) (tt : BitVec 8), s.m.issues x = true →
    exec (.addi x rd ra imm) s = .next (s.sets x rd (BitVec.ofInt 64 ((s.reg x ra).toInt + imm.toInt))) ∧
    exec (.andi x rd ra imm) s = .next (s.sets x rd (s.reg x ra &&& BitVec.ofNat 64 imm.toNat)) ∧
    exec (.ori x rd ra imm) s = .next (s.sets x rd (s.reg x ra ||| BitVec.ofNat 64 imm.toNat)) ∧
    exec (.xori x rd ra imm) s = .next (s.sets x rd (s.reg x ra ^^^ BitVec.ofNat 64 imm.toNat)) ∧
    exec (.slti x rd ra imm) s = .next (s.sets x rd (if (s.reg x ra).toInt < imm.toInt then 1 else 0)) ∧
    exec (.sltiu x rd ra imm) s
      = .next (s.sets x rd (if (s.reg x ra).toNat < (BitVec.ofInt 64 imm.toInt).toNat then 1 else 0)) ∧
    exec (.lui x rd imm) s = .next (s.sets x rd (BitVec.ofInt 64 (imm.toInt * 65536))) ∧
    (∃ v : Word, exec (.lut3 x rd ra rb tt) s = .next (s.sets x rd v) ∧
      ∀ i < 64, v.getLsbD i = tt.getLsbD (4 * ((s.reg x ra).getLsbD i).toNat + 2 * ((s.reg x rb).getLsbD i).toNat
        + ((s.reg x rd).getLsbD i).toNat))

/-- Integer, immediate and ternary instructions write their exact results, and division by 0 traps: the statements above, together. -/
def Obligations.IntegerResults : Prop := Claim.ArithmeticAndLogicResults ∧ Claim.MultiplyAndDivideResults ∧ Claim.DivisionByZeroTraps ∧ Claim.ImmediateAndTernaryResults

/-- Shifts use the whole 64-bit count, rotates the count modulo 64: each bit of the result. -/
def Sys2Proof.Claim.ShiftAndRotateResults : Prop :=
  ∀ (s : State) (x : Exec) (rd ra rb : BitVec 5), s.m.issues x = true →
    (∃ v : Word, exec (.sll x rd ra rb) s = .next (s.sets x rd v) ∧
      ∀ i < 64, v.getLsbD i = (decide ((s.reg x rb).toNat ≤ i) && (s.reg x ra).getLsbD (i - (s.reg x rb).toNat))) ∧
    (∃ v : Word, exec (.srl x rd ra rb) s = .next (s.sets x rd v) ∧
      ∀ i < 64, v.getLsbD i = (s.reg x ra).getLsbD (i + (s.reg x rb).toNat)) ∧
    (∃ v : Word, exec (.sra x rd ra rb) s = .next (s.sets x rd v) ∧
      ∀ i < 64, v.getLsbD i = (s.reg x ra).getLsbD (min 63 (i + (s.reg x rb).toNat))) ∧
    (∃ v : Word, exec (.rol x rd ra rb) s = .next (s.sets x rd v) ∧
      ∀ i < 64, v.getLsbD ((i + (s.reg x rb).toNat) % 64) = (s.reg x ra).getLsbD i) ∧
    (∃ v : Word, exec (.ror x rd ra rb) s = .next (s.sets x rd v) ∧
      ∀ i < 64, v.getLsbD i = (s.reg x ra).getLsbD ((i + (s.reg x rb).toNat) % 64))

/-- The immediate shifts and rotates, by their 6-bit count: each bit of the result. -/
def Sys2Proof.Claim.ImmediateShiftResults : Prop :=
  ∀ (s : State) (x : Exec) (rd ra : BitVec 5) (n : BitVec 6), s.m.issues x = true →
    (∃ v : Word, exec (.shiSll x rd ra n) s = .next (s.sets x rd v) ∧
      ∀ i < 64, v.getLsbD i = (decide (n.toNat ≤ i) && (s.reg x ra).getLsbD (i - n.toNat))) ∧
    (∃ v : Word, exec (.shiSrl x rd ra n) s = .next (s.sets x rd v) ∧
      ∀ i < 64, v.getLsbD i = (s.reg x ra).getLsbD (i + n.toNat)) ∧
    (∃ v : Word, exec (.shiSra x rd ra n) s = .next (s.sets x rd v) ∧
      ∀ i < 64, v.getLsbD i = (s.reg x ra).getLsbD (min 63 (i + n.toNat))) ∧
    (∃ v : Word, exec (.shiRol x rd ra n) s = .next (s.sets x rd v) ∧
      ∀ i < 64, v.getLsbD ((i + n.toNat) % 64) = (s.reg x ra).getLsbD i) ∧
    (∃ v : Word, exec (.shiRor x rd ra n) s = .next (s.sets x rd v) ∧
      ∀ i < 64, v.getLsbD i = (s.reg x ra).getLsbD ((i + n.toNat) % 64))

/-- Shifts use the whole count, rotates the count modulo 64, bit by bit: the statements above, together. -/
def Obligations.ShiftResults : Prop := Claim.ShiftAndRotateResults ∧ Claim.ImmediateShiftResults

/-- Bit counts, bit extract and deposit, and the reversals. -/
def Obligations.BitManipulationResults : Prop :=
  ∀ (s : State) (x : Exec) (rd ra rb : BitVec 5), s.m.issues x = true →
    exec (.popc x rd ra) s
      = .next (s.sets x rd (BitVec.ofNat 64 ((List.range 64).countP (fun i => (s.reg x ra).getLsbD i)))) ∧
    (∃ v : Word, exec (.clz x rd ra) s = .next (s.sets x rd v) ∧ v.toNat ≤ 64 ∧
      (∀ i < v.toNat, (s.reg x ra).getLsbD (63 - i) = false) ∧ (v.toNat < 64 → (s.reg x ra).getLsbD (63 - v.toNat) = true)) ∧
    (∃ v : Word, exec (.ctz x rd ra) s = .next (s.sets x rd v) ∧ v.toNat ≤ 64 ∧
      (∀ i < v.toNat, (s.reg x ra).getLsbD i = false) ∧ (v.toNat < 64 → (s.reg x ra).getLsbD v.toNat = true)) ∧
    (∃ v : Word, exec (.bext x rd ra rb) s = .next (s.sets x rd v) ∧
      (∀ i < 64, (s.reg x rb).getLsbD i = true →
        v.getLsbD ((List.range i).countP (fun k => (s.reg x rb).getLsbD k)) = (s.reg x ra).getLsbD i) ∧
      (∀ k < 64, (List.range 64).countP (fun i => (s.reg x rb).getLsbD i) ≤ k → v.getLsbD k = false)) ∧
    (∃ v : Word, exec (.bdep x rd ra rb) s = .next (s.sets x rd v) ∧
      ∀ i < 64, v.getLsbD i = ((s.reg x rb).getLsbD i
        && (s.reg x ra).getLsbD ((List.range i).countP (fun k => (s.reg x rb).getLsbD k)))) ∧
    (∃ v : Word, exec (.brev x rd ra) s = .next (s.sets x rd v) ∧ ∀ i < 64, v.getLsbD i = (s.reg x ra).getLsbD (63 - i)) ∧
    (∃ v : Word, exec (.bswap x rd ra) s = .next (s.sets x rd v) ∧
      ∀ i < 64, v.getLsbD i = (s.reg x ra).getLsbD (8 * (7 - i / 8) + i % 8))

/-- Register g0 reads as 0 and a write to it is discarded; a write to another register changes it alone. -/
def Sys2Proof.Claim.RegisterZeroReadsZero : Prop :=
  ∀ (t : Thread) (rd r : BitVec 5) (v : Word),
    t.get 0 = 0 ∧ t.put 0 v = t ∧ (rd ≠ 0 → (t.put rd v).get rd = v) ∧ (r ≠ rd → (t.put rd v).get r = t.get r) ∧
    (t.put rd v).pc = t.pc ∧ (t.put rd v).fps = t.fps

/-- What an issued instruction leaves alone: memory, jobs, networks, stores, journals, event rings, interrupts and the key store; every other context or core; and every object but the two counters of issued instructions. -/
def Sys2Proof.Claim.IssuedInstructionFrame : Prop :=
  ∀ (s : State) (x : Exec) (th : Thread),
    (s.ran x th).pending = s.pending ∧ (s.ran x th).vault = s.vault ∧ (s.ran x th).m.mem = s.m.mem ∧
    (s.ran x th).m.jobs = s.m.jobs ∧ (s.ran x th).m.net = s.m.net ∧ (s.ran x th).m.clusters = s.m.clusters ∧
    (s.ran x th).m.tiles = s.m.tiles ∧ (s.ran x th).m.evr = s.m.evr ∧ (s.ran x th).m.ic = s.m.ic ∧
    (s.ran x th).m.sched = s.m.sched ∧ (s.ran x th).m.locks = s.m.locks ∧ (s.ran x th).m.flash = s.m.flash ∧
    (∀ c, x ≠ .core c → (s.ran x th).m.core c = s.m.core c) ∧
    (∀ p, (∀ c ws, x ≠ .pe p c ws) → (s.ran x th).m.pe p = s.m.pe p) ∧
    (∀ i k, ¬ (0x4400 ≤ i ∧ i ≤ 0x4407 ∧ k = 0x0B) → k < 256 → (s.ran x th).m.obj? i k = s.m.obj? i k)

/-- Register g0 reads 0 and discards writes; what an issued instruction leaves alone: the statements above, together. -/
def Obligations.RegisterZeroAndInstructionFrame : Prop := Claim.RegisterZeroReadsZero ∧ Claim.IssuedInstructionFrame

/-! BIS: four-state instructions -/

/-- Four-state results, position by position, by Tables 6-4 to 6-10; sources are read before the pair is written. -/
def Obligations.FourStateResults : Prop :=
  ∀ (s : State) (x : Exec) (pd pa pb ps : BitVec 4), s.m.issues x = true →
    let A := fun i => v4At ((s.m.thread x).pair pa) i
    let B := fun i => v4At ((s.m.thread x).pair pb) i
    let S := fun i => v4At ((s.m.thread x).pair ps) i
    (∃ v, exec (.l4and x pd pa pb) s = .next (s.setsPair x pd v) ∧ ∀ i < 64, v4At v i = V4.and (A i) (B i)) ∧
    (∃ v, exec (.l4or x pd pa pb) s = .next (s.setsPair x pd v) ∧ ∀ i < 64, v4At v i = V4.or (A i) (B i)) ∧
    (∃ v, exec (.l4xor x pd pa pb) s = .next (s.setsPair x pd v) ∧ ∀ i < 64, v4At v i = V4.xor (A i) (B i)) ∧
    (∃ v, exec (.l4not x pd pa) s = .next (s.setsPair x pd v) ∧ ∀ i < 64, v4At v i = V4.not (A i)) ∧
    (∃ v, exec (.l4res x pd pa pb) s = .next (s.setsPair x pd v) ∧ ∀ i < 64, v4At v i = V4.res (A i) (B i)) ∧
    (∃ v, exec (.l4mux x pd pa pb ps) s = .next (s.setsPair x pd v) ∧
      ∀ i < 64, v4At v i = (match S i with
        | .zero => A i
        | .one => B i
        | _ => V4.muxX (A i) (B i))) ∧
    (∃ v, exec (.l4eq x pd pa pb) s = .next (s.setsPair x pd v) ∧ v.1.toNat ≤ 1 ∧ v.2.toNat ≤ 1 ∧
      ((∃ i < 64, V4.eq (A i) (B i) = V4.zero) → v4At v 0 = V4.zero) ∧
      ((∀ i < 64, V4.eq (A i) (B i) ≠ V4.zero) → (∃ i < 64, V4.eq (A i) (B i) = V4.x) → v4At v 0 = V4.x) ∧
      ((∀ i < 64, V4.eq (A i) (B i) = V4.one) → v4At v 0 = V4.one))

/-! BIS: floating point -/

/-- What the arithmetic and the conversions give of operands read in their format: of finite ones the exact result rounded once, a zero of the sign R136 gives, or what Table 6-12 gives of a division by zero and an invalid root; of infinities an infinity or invalid; of a NaN the canonical one, with invalid for a signalling one. Log entries 14 and 15 name what the model reads or chooses in it. -/
def Sys2Proof.Claim.FloatingPointValues : Prop :=
  ∀ (sz : Bool) (r : Rm) (wa wb wc : Word) (i : Int),
    let f := fmtOf sz
    let a := fRead f wa
    let b := fRead f wb
    let c := fRead f wc
    let d := fRead (fmtOf (!sz)) wa
    let nan : Bool → Word × FFlags := fun q => (BitVec.ofNat 64 (2 ^ (f.p + f.w) - 1), if q then 0b10000 else 0)
    let zero : Bool → Word × FFlags := fun s => (BitVec.ofNat 64 (if s then 2 ^ (f.p + f.w) else 0), 0)
    let sg : FVal → Bool := fun v => match v with
      | .fin s _ _ => s
      | .inf s => s
      | .nan _ => false
    let inf : FVal → Prop := fun v => v = .inf (sg v)
    let sum : Bool := r == .down
    (∀ x y, Claim.Stands a x → Claim.Stands b y →
      (x + y ≠ 0 → Claim.Delivers f r (x + y) (fAdd f r a b)) ∧ (x + y = 0 → fAdd f r a b = zero sum) ∧
      (x - y ≠ 0 → Claim.Delivers f r (x - y) (fAdd f r a b.neg)) ∧ (x - y = 0 → fAdd f r a b.neg = zero sum) ∧
      (x * y ≠ 0 → Claim.Delivers f r (x * y) (fMul f r a b)) ∧ (x * y = 0 → fMul f r a b = zero (sg a != sg b)) ∧
      (y ≠ 0 → x ≠ 0 → Claim.Delivers f r (x / y) (fDiv f r a b)) ∧ (y ≠ 0 → x = 0 → fDiv f r a b = zero (sg a != sg b)) ∧
      (y = 0 → x ≠ 0 → fDiv f r a b = (fInfW f (sg a != sg b), 0b01000)) ∧ (y = 0 → x = 0 → fDiv f r a b = nan true) ∧
      ∀ z, Claim.Stands c z →
        (x * y + z ≠ 0 → Claim.Delivers f r (x * y + z) (fFma f r a b c)) ∧ (x * y + z = 0 → fFma f r a b c = zero sum) ∧
        (x * y - z ≠ 0 → Claim.Delivers f r (x * y - z) (fFma f r a b c.neg)) ∧ (x * y - z = 0 → fFma f r a b c.neg = zero sum) ∧
        (-(x * y) - z ≠ 0 → Claim.Delivers f r (-(x * y) - z) (fFma f r a.neg b c.neg)) ∧
        (-(x * y) - z = 0 → fFma f r a.neg b c.neg = zero sum) ∧
        (-(x * y) + z ≠ 0 → Claim.Delivers f r (-(x * y) + z) (fFma f r a.neg b c)) ∧
        (-(x * y) + z = 0 → fFma f r a.neg b c = zero sum)) ∧
    (∀ x, Claim.Stands a x →
      (0 < x → Claim.Delivers f r (Real.sqrt x) (fSqrt f r a)) ∧ (x = 0 → fSqrt f r a = zero (sg a)) ∧ (x < 0 → fSqrt f r a = nan true) ∧
      Claim.DeliversInt r true x (fToInt r true a) ∧ Claim.DeliversInt r false x (fToInt r false a) ∧
      (inf b → fAdd f r a b = (fInfW f (sg b), 0) ∧ fAdd f r b a = (fInfW f (sg b), 0) ∧ fDiv f r a b = zero (sg a != sg b) ∧
        fDiv f r b a = (fInfW f (sg a != sg b), 0) ∧
        (x ≠ 0 → fMul f r a b = (fInfW f (sg a != sg b), 0) ∧ fMul f r b a = (fInfW f (sg a != sg b), 0)) ∧
        (x = 0 → fMul f r a b = nan true ∧ fMul f r b a = nan true ∧ fFma f r a b c = nan true ∧ fFma f r b a c = nan true))) ∧
    (inf a → fSqrt f r a = (if sg a then nan true else (fInfW f false, 0)) ∧
      fToInt r true a = (BitVec.ofInt 64 (if sg a then -(2 ^ 63) else 2 ^ 63 - 1), 0b10000) ∧
      fToInt r false a = (BitVec.ofInt 64 (if sg a then 0 else 2 ^ 64 - 1), 0b10000) ∧
      (inf b → fAdd f r a b = (if sg a = sg b then (fInfW f (sg a), 0) else nan true) ∧ fMul f r a b = (fInfW f (sg a != sg b), 0) ∧
        fDiv f r a b = nan true) ∧
      (∀ x, Claim.Stands b x ∧ x ≠ 0 ∨ inf b →
        (inf c → fFma f r a b c = (if (sg a != sg b) = sg c then (fInfW f (sg c), 0) else nan true)) ∧
        (∀ z, Claim.Stands c z → fFma f r a b c = (fInfW f (sg a != sg b), 0)))) ∧
    (∀ x y, Claim.Stands a x → Claim.Stands b y → inf c → fFma f r a b c = (fInfW f (sg c), 0)) ∧
    (a.isNan = true ∨ b.isNan = true → fAdd f r a b = nan (a.isSnan || b.isSnan) ∧ fMul f r a b = nan (a.isSnan || b.isSnan) ∧
      fDiv f r a b = nan (a.isSnan || b.isSnan)) ∧
    (a.isNan = true → fSqrt f r a = nan a.isSnan ∧ fToInt r true a = (BitVec.ofNat 64 (2 ^ 63 - 1), 0b10000) ∧
      fToInt r false a = (BitVec.ofNat 64 (2 ^ 64 - 1), 0b10000)) ∧
    (a.isNan = true ∨ b.isNan = true ∨ c.isNan = true →
      ¬ (∃ x, (inf a ∧ Claim.Stands b x ∨ inf b ∧ Claim.Stands a x) ∧ x = 0) →
      fFma f r a b c = nan (a.isSnan || b.isSnan || c.isSnan)) ∧
    (i ≠ 0 → -(2 ^ 63) ≤ i → i < 2 ^ 64 → Claim.Delivers f r i (fOfInt f r i)) ∧ (fOfInt f r 0 = zero false) ∧
    (∀ x, Claim.Stands d x → (x ≠ 0 → Claim.Delivers f r x (fConv f r d)) ∧ (x = 0 → fConv f r d = zero (sg d))) ∧
    (inf d → fConv f r d = (fInfW f (sg d), 0)) ∧ (d.isNan = true → fConv f r d = nan d.isSnan)

/-- Floating-point arithmetic and conversions, where RM names a direction and no enabled exception is signalled: rd takes the value, FLAGS gain what was signalled, and the next instruction follows. -/
def Sys2Proof.Claim.FloatingPointResults : Prop :=
  ∀ (s : State) (x : Exec) (sz : Bool) (rm : BitVec 3) (rd ra rb rc : BitVec 5) (r : Rm), s.m.issues x = true →
    Rm.of rm (s.m.thread x).fps = some r →
    let f := fmtOf sz
    let a := fRead f (s.reg x ra)
    let b := fRead f (s.reg x rb)
    let c := fRead f (s.reg x rc)
    let ok := fun (v : Word × FFlags) => fpsTraps (s.m.thread x).fps v.2 = false
    (ok (fAdd f r a b) → exec (.fadd x sz rm rd ra rb) s = .next (s.setsFp x rd (fAdd f r a b))) ∧
    (ok (fAdd f r a b.neg) → exec (.fsub x sz rm rd ra rb) s = .next (s.setsFp x rd (fAdd f r a b.neg))) ∧
    (ok (fMul f r a b) → exec (.fmul x sz rm rd ra rb) s = .next (s.setsFp x rd (fMul f r a b))) ∧
    (ok (fDiv f r a b) → exec (.fdiv x sz rm rd ra rb) s = .next (s.setsFp x rd (fDiv f r a b))) ∧
    (ok (fSqrt f r a) → exec (.fsqrt x sz rm rd ra) s = .next (s.setsFp x rd (fSqrt f r a))) ∧
    (ok (fFma f r a b c) → exec (.fmadd x sz rm rd ra rb rc) s = .next (s.setsFp x rd (fFma f r a b c))) ∧
    (ok (fFma f r a b c.neg) → exec (.fmsub x sz rm rd ra rb rc) s = .next (s.setsFp x rd (fFma f r a b c.neg))) ∧
    (ok (fFma f r a.neg b c.neg) → exec (.fnmadd x sz rm rd ra rb rc) s = .next (s.setsFp x rd (fFma f r a.neg b c.neg))) ∧
    (ok (fFma f r a.neg b c) → exec (.fnmsub x sz rm rd ra rb rc) s = .next (s.setsFp x rd (fFma f r a.neg b c))) ∧
    (ok (fToInt r true a) → exec (.fcvtI x sz rm rd ra) s = .next (s.setsFp x rd (fToInt r true a))) ∧
    (ok (fToInt r false a) → exec (.fcvtU x sz rm rd ra) s = .next (s.setsFp x rd (fToInt r false a))) ∧
    (ok (fOfInt f r (s.reg x ra).toInt) →
      exec (.fcvtFi x sz rm rd ra) s = .next (s.setsFp x rd (fOfInt f r (s.reg x ra).toInt))) ∧
    (ok (fOfInt f r (Int.ofNat (s.reg x ra).toNat)) →
      exec (.fcvtFu x sz rm rd ra) s = .next (s.setsFp x rd (fOfInt f r (Int.ofNat (s.reg x ra).toNat)))) ∧
    (ok (fConv f r (fRead (fmtOf (!sz)) (s.reg x ra))) →
      exec (.fcvtFf x sz rm rd ra) s = .next (s.setsFp x rd (fConv f r (fRead (fmtOf (!sz)) (s.reg x ra)))))

/-- With every exception's trap disabled and RM naming a direction, every instruction that can signal an exception completes, in both formats, whatever its operands: it writes rd, adds what it signals to FLAGS and goes on. Log entry 13 names what the model reads or chooses in it. -/
def Sys2Proof.Claim.FloatingPointCompletes : Prop :=
  ∀ (s : State) (x : Exec) (sz : Bool) (rm : BitVec 3) (rd ra rb rc : BitVec 5), s.m.issues x = true →
    (Rm.of rm (s.m.thread x).fps).isSome = true → (s.m.thread x).fps.extractLsb' 8 5 = (0 : BitVec 5) →
    let done := fun (i : Instr) => ∃ v : Word × FFlags, exec i s = .next (s.setsFp x rd v)
    done (.fadd x sz rm rd ra rb) ∧ done (.fsub x sz rm rd ra rb) ∧ done (.fmul x sz rm rd ra rb) ∧
    done (.fdiv x sz rm rd ra rb) ∧ done (.fsqrt x sz rm rd ra) ∧ done (.fmin x sz rm rd ra rb) ∧
    done (.fmax x sz rm rd ra rb) ∧ done (.feq x sz rm rd ra rb) ∧ done (.flt x sz rm rd ra rb) ∧
    done (.fle x sz rm rd ra rb) ∧ done (.fcvtI x sz rm rd ra) ∧ done (.fcvtU x sz rm rd ra) ∧
    done (.fcvtFi x sz rm rd ra) ∧ done (.fcvtFu x sz rm rd ra) ∧ done (.fcvtFf x sz rm rd ra) ∧
    done (.fmadd x sz rm rd ra rb rc) ∧ done (.fmsub x sz rm rd ra rb rc) ∧ done (.fnmadd x sz rm rd ra rb rc) ∧
    done (.fnmsub x sz rm rd ra rb rc)

/-- Floating-point arithmetic and conversions are rounded once, with the flags signalled, and with no trap enabled every one completes: the statements above, together. -/
def Obligations.FloatingPointResults : Prop := Claim.FloatingPointValues ∧ Claim.FloatingPointResults ∧ Claim.FloatingPointCompletes

/-- Minimum, maximum and the comparisons, where no enabled exception is signalled: with a NaN a comparison gives 0, the minimum or maximum of a NaN and another operand is that operand, and −0 is less than +0 for both; FLT and FLE signal invalid for every NaN, FEQ, FMIN and FMAX for a signalling one. -/
def Obligations.FloatingPointCompareResults : Prop :=
  ∀ (s : State) (x : Exec) (sz : Bool) (rm : BitVec 3) (rd ra rb : BitVec 5) (r : Rm), s.m.issues x = true →
    Rm.of rm (s.m.thread x).fps = some r →
    let f := fmtOf sz
    let a := fRead f (s.reg x ra)
    let b := fRead f (s.reg x rb)
    let low := fun (w : Word) => BitVec.ofNat 64 (w.toNat % 2 ^ (f.p + f.w + 1))
    let snan := a.isSnan || b.isSnan
    let inv := fun (q : Bool) => if q then (0b10000 : FFlags) else 0
    let neg := fun (w : Word) => w.getLsbD (f.p + f.w)
    let quiet := fun (q : Bool) => fpsTraps (s.m.thread x).fps (inv q) = false
    (quiet snan → ∃ v, exec (.feq x sz rm rd ra rb) s = .next (s.setsFp x rd (v, inv snan)) ∧
      v = (if a.isNan || b.isNan then 0 else if fKey f a = fKey f b then 1 else 0)) ∧
    (quiet (a.isNan || b.isNan) → ∃ v, exec (.flt x sz rm rd ra rb) s = .next (s.setsFp x rd (v, inv (a.isNan || b.isNan))) ∧
      v = (if a.isNan || b.isNan then 0 else if fKey f a < fKey f b then 1 else 0)) ∧
    (quiet (a.isNan || b.isNan) → ∃ v, exec (.fle x sz rm rd ra rb) s = .next (s.setsFp x rd (v, inv (a.isNan || b.isNan))) ∧
      v = (if a.isNan || b.isNan then 0 else if fKey f a ≤ fKey f b then 1 else 0)) ∧
    (quiet snan → ∃ v, exec (.fmin x sz rm rd ra rb) s = .next (s.setsFp x rd (v, inv snan)) ∧
      (a.isNan = true → b.isNan = true → v = BitVec.ofNat 64 f.qnan) ∧
      (a.isNan = true → b.isNan = false → v = low (s.reg x rb)) ∧
      (a.isNan = false → b.isNan = true → v = low (s.reg x ra)) ∧
      (a.isNan = false → b.isNan = false → fKey f a < fKey f b → v = low (s.reg x ra)) ∧
      (a.isNan = false → b.isNan = false → fKey f b < fKey f a → v = low (s.reg x rb)) ∧
      (a.isNan = false → b.isNan = false → fKey f a = fKey f b →
        v = low (if neg (s.reg x ra) = false ∧ neg (s.reg x rb) = true then s.reg x rb else s.reg x ra))) ∧
    (quiet snan → ∃ v, exec (.fmax x sz rm rd ra rb) s = .next (s.setsFp x rd (v, inv snan)) ∧
      (a.isNan = true → b.isNan = true → v = BitVec.ofNat 64 f.qnan) ∧
      (a.isNan = true → b.isNan = false → v = low (s.reg x rb)) ∧
      (a.isNan = false → b.isNan = true → v = low (s.reg x ra)) ∧
      (a.isNan = false → b.isNan = false → fKey f a < fKey f b → v = low (s.reg x rb)) ∧
      (a.isNan = false → b.isNan = false → fKey f b < fKey f a → v = low (s.reg x ra)) ∧
      (a.isNan = false → b.isNan = false → fKey f a = fKey f b →
        v = low (if neg (s.reg x ra) = true ∧ neg (s.reg x rb) = false then s.reg x rb else s.reg x ra)))

/-- The sign operations move bits and signal nothing; FCLASS writes the class code and the sign; in binary32 bits 63 to 32 of the result are 0. -/
def Sys2Proof.Claim.FloatingPointSignAndClassResults : Prop :=
  ∀ (s : State) (x : Exec) (sz : Bool) (rm : BitVec 3) (rd ra rb : BitVec 5) (r : Rm), s.m.issues x = true →
    Rm.of rm (s.m.thread x).fps = some r →
    let top := if sz then 63 else 31
    (∃ v : Word, exec (.fneg x sz rm rd ra) s = .next (s.sets x rd v) ∧
      ∀ i < 64, v.getLsbD i = (decide (i ≤ top) && ((s.reg x ra).getLsbD i != decide (i = top)))) ∧
    (∃ v : Word, exec (.fabs x sz rm rd ra) s = .next (s.sets x rd v) ∧
      ∀ i < 64, v.getLsbD i = (decide (i < top) && (s.reg x ra).getLsbD i)) ∧
    (∃ v : Word, exec (.fcopysign x sz rm rd ra rb) s = .next (s.sets x rd v) ∧
      ∀ i < 64, v.getLsbD i = (if i < top then (s.reg x ra).getLsbD i else decide (i = top) && (s.reg x rb).getLsbD i)) ∧
    (∃ v : Word, exec (.fclass x sz rm rd ra) s = .next (s.sets x rd v) ∧ v.toNat < 16 ∧
      v.getLsbD 3 = (s.reg x ra).getLsbD top ∧
      v.toNat % 8 = (match fRead (fmtOf sz) (s.reg x ra) with
        | .nan true => 5
        | .nan false => 4
        | .inf _ => 3
        | .fin _ c _ => if c = 0 then 0 else if c < 2 ^ (fmtOf sz).p then 1 else 2))

/-- FRFS, FWFS and FCFS on FPS: read, written in its fields RM, TEN and FLAGS (a reserved RM leaves RM), and read with FLAGS cleared; their own RM field is ignored, so that they run with RM 5 and 6 too (log entry 13). -/
def Sys2Proof.Claim.FloatingPointStatusAccess : Prop :=
  ∀ (s : State) (x : Exec) (sz : Bool) (rm : BitVec 3) (rd ra : BitVec 5), s.m.issues x = true →
    exec (.frfs x sz rm rd) s = .next (s.sets x rd (s.m.thread x).fps) ∧
    exec (.fcfs x sz rm rd) s = .next (s.ran x { ((s.m.thread x).put rd (s.m.thread x).fps).next with
      fps := (s.m.thread x).fps &&& ~~~0x1F }) ∧
    (∃ v : Word, exec (.fwfs x sz rm ra) s = .next (s.ran x { (s.m.thread x).next with fps := v }) ∧
      v &&& 0x1F1F = s.reg x ra &&& 0x1F1F ∧ v &&& ~~~0x71F1F = 0 ∧
      bits v 18 16 = (if bits (s.reg x ra) 18 16 < 5 then bits (s.reg x ra) 18 16 else bits (s.m.thread x).fps 18 16))

/-- Sign operations, classification and accesses of FPS, which look at no rounding mode (log entry 13): the statements above, together. -/
def Obligations.FloatingPointSignAndStatus : Prop := Claim.FloatingPointSignAndClassResults ∧ Claim.FloatingPointStatusAccess

/-- An enabled exception of any instruction that can signal one traps: a firing's FP trap has code 0x08 and the signalled exceptions as its value; a core sets FLAGS first and writes no destination. -/
def Sys2Proof.Claim.FloatingPointTraps : Prop :=
  ∀ (s : State) (x : Exec) (sz : Bool) (rm : BitVec 3) (rd ra rb rc : BitVec 5) (r : Rm), s.m.issues x = true →
    Rm.of rm (s.m.thread x).fps = some r →
    let f := fmtOf sz
    let a := fRead f (s.reg x ra)
    let b := fRead f (s.reg x rb)
    let c := fRead f (s.reg x rc)
    let inv : Bool → FFlags := fun q => if q then 0b10000 else 0
    ∀ e ∈ ([(.fadd x sz rm rd ra rb, (fAdd f r a b).2), (.fsub x sz rm rd ra rb, (fAdd f r a b.neg).2),
        (.fmul x sz rm rd ra rb, (fMul f r a b).2), (.fdiv x sz rm rd ra rb, (fDiv f r a b).2),
        (.fsqrt x sz rm rd ra, (fSqrt f r a).2),
        (.fmadd x sz rm rd ra rb rc, (fFma f r a b c).2), (.fmsub x sz rm rd ra rb rc, (fFma f r a b c.neg).2),
        (.fnmadd x sz rm rd ra rb rc, (fFma f r a.neg b c.neg).2), (.fnmsub x sz rm rd ra rb rc, (fFma f r a.neg b c).2),
        (.fcvtI x sz rm rd ra, (fToInt r true a).2), (.fcvtU x sz rm rd ra, (fToInt r false a).2),
        (.fcvtFi x sz rm rd ra, (fOfInt f r (s.reg x ra).toInt).2),
        (.fcvtFu x sz rm rd ra, (fOfInt f r (Int.ofNat (s.reg x ra).toNat)).2),
        (.fcvtFf x sz rm rd ra, (fConv f r (fRead (fmtOf (!sz)) (s.reg x ra))).2),
        (.feq x sz rm rd ra rb, inv (a.isSnan || b.isSnan)), (.flt x sz rm rd ra rb, inv (a.isNan || b.isNan)),
        (.fle x sz rm rd ra rb, inv (a.isNan || b.isNan)), (.fmin x sz rm rd ra rb, inv (a.isSnan || b.isSnan)),
        (.fmax x sz rm rd ra rb, inv (a.isSnan || b.isSnan))] : List (Instr × FFlags)),
      fpsTraps (s.m.thread x).fps e.2 = true →
      (∀ p k ws, x = .pe p k ws →
        exec e.1 s = .next (s.traps x { code := 0x08, value := e.2.zeroExtend 64 })) ∧
      (∀ k, x = .core k → exec e.1 s = .next { s with
        m := (s.m.setCore k { s.m.core k with th := { (s.m.core k).th with fps := fpsFlag (s.m.core k).th.fps e.2 } }).coreTrap k
          { code := 0x08, value := e.2.zeroExtend 64 } })

/-- A reserved rounding mode makes every floating-point instruction but FRFS, FWFS and FCFS ILLEGAL (of those that round nothing too: the model's reading, log entry 13). -/
def Sys2Proof.Claim.ReservedRoundingModeIsIllegal : Prop :=
  ∀ (s : State) (x : Exec) (sz : Bool) (rm : BitVec 3) (rd ra rb rc : BitVec 5), s.m.issues x = true →
    (rm = 5 ∨ rm = 6) →
    ∀ i ∈ ([.fadd x sz rm rd ra rb, .fsub x sz rm rd ra rb, .fmul x sz rm rd ra rb, .fdiv x sz rm rd ra rb, .fsqrt x sz rm rd ra,
        .fmin x sz rm rd ra rb, .fmax x sz rm rd ra rb, .feq x sz rm rd ra rb, .flt x sz rm rd ra rb, .fle x sz rm rd ra rb,
        .fclass x sz rm rd ra, .fcopysign x sz rm rd ra rb, .fneg x sz rm rd ra, .fabs x sz rm rd ra, .fcvtI x sz rm rd ra,
        .fcvtU x sz rm rd ra, .fcvtFi x sz rm rd ra, .fcvtFu x sz rm rd ra, .fcvtFf x sz rm rd ra, .fmadd x sz rm rd ra rb rc,
        .fmsub x sz rm rd ra rb rc, .fnmadd x sz rm rd ra rb rc, .fnmsub x sz rm rd ra rb rc] : List Instr),
      exec i s = .next (s.traps x { code := 0x02 })

/-- An enabled exception traps with what was signalled, and a reserved rounding mode of FPA and FMA is ILLEGAL (log entry 13): the statements above, together. -/
def Obligations.FloatingPointTrapsAndModes : Prop := Claim.FloatingPointTraps ∧ Claim.ReservedRoundingModeIsIllegal

/-! BIS: loads and stores -/

/-- Loads of a service core from its local memory: the little-endian bytes at the effective address, zero- or sign-extended. -/
def Sys2Proof.Claim.LocalMemoryLoads : Prop :=
  ∀ (s : State) (c : BitVec 4) (rd ra : BitVec 5) (w : BitVec 2) (imm : BitVec 12), s.m.issues (.core c) = true →
    s.m.ms.hubFlaw = [] →
    let ea := ((s.reg (.core c) ra) + imm.signExtend 64).toNat
    let n := bytesNat (memBytes s.m.mem (0x3C00000000 + 0x40000 * c.toNat + ea) (2 ^ w.toNat))
    ea % 2 ^ w.toNat = 0 → ea + 2 ^ w.toNat ≤ 0x40000 →
    exec (.ld (.core c) rd ra 0 w imm) s = .next (s.sets (.core c) rd (BitVec.ofNat 64 n)) ∧
    exec (.lds (.core c) rd ra 0 w imm) s
      = .next (s.sets (.core c) rd (BitVec.ofInt 64 (BitVec.ofNat (8 * 2 ^ w.toNat) n).toInt))

/-- A store of a service core to its local memory writes the low bytes of g[RD] at the effective address and no other byte, and leaves the rest of the block but the core's pc and counts. -/
def Sys2Proof.Claim.LocalMemoryStores : Prop :=
  ∀ (s : State) (c : BitVec 4) (rd ra : BitVec 5) (w : BitVec 2) (imm : BitVec 12), s.m.issues (.core c) = true →
    s.m.ms.hubFlaw = [] → Memory.wf s.m.mem = true →
    let ea := ((s.reg (.core c) ra) + imm.signExtend 64).toNat
    let at_ := 0x3C00000000 + 0x40000 * c.toNat + ea
    ea % 2 ^ w.toNat = 0 → ea + 2 ^ w.toNat ≤ 0x40000 →
    ∃ t, exec (.st (.core c) rd ra 0 w imm) s = .next t ∧
      (∀ i < 2 ^ w.toNat, memGet t.m.mem (at_ + i) = (s.reg (.core c) rd).extractLsb' (8 * i) 8) ∧
      (∀ a, a < at_ ∨ at_ + 2 ^ w.toNat ≤ a → memGet t.m.mem a = memGet s.m.mem a) ∧
      t.m.core c = { s.m.core c with th := (s.m.core c).th.next, instret := (s.m.core c).instret + 1, fresh := false } ∧
      (∀ d, d ≠ c → t.m.core d = s.m.core d) ∧
      t.m.pes = s.m.pes ∧ t.m.jobs = s.m.jobs ∧ t.m.tiles = s.m.tiles ∧ t.m.sched = s.m.sched ∧ t.m.ic = s.m.ic ∧
      t.m.locks = s.m.locks ∧ t.vault = s.vault ∧ t.pending = s.pending

/-- Loads and stores of a service core in its local memory: the statements above, together. -/
def Obligations.LocalMemoryAccesses : Prop := Claim.LocalMemoryLoads ∧ Claim.LocalMemoryStores

/-- Loads of a firing: its node space as it stood at entry, the constants of its job, and its node's design memory, each byte from the latest of its own earlier stores that holds it, else from the latest journaled store of the node below its tag, else from HBM. -/
def Obligations.FiringLoads : Prop :=
  ∀ (s : State) (p : PeId) (c : BitVec 4) (ws : BitVec 16) (y : Ctx) (rd ra : BitVec 5) (w : BitVec 2) (imm : BitVec 12),
    s.turns p c ws y → s.m.peBlock y .both = none → s.m.cleanMemory →
    let ea := (y.th.get ra + imm.signExtend 64).toNat
    let n := 2 ^ w.toNat
    let r : NRef := ⟨y.job, p, y.node⟩
    let done := fun (v : Word) => Host.Outcome.next (s.leaves p c { y with th := (y.th.put rd v).next })
    (w = 3 → ea % 8 = 0 → ea + 8 ≤ 192 →
      exec (.ld (.pe p c ws) rd ra 1 w imm) s = done (y.nodeImg.getD (ea / 8) 0)) ∧
    (ea % n = 0 → ea + n ≤ (s.m.job y.job).constLen →
      exec (.ld (.pe p c ws) rd ra 2 w imm) s
        = done (BitVec.ofNat 64 (bytesNat (memBytes s.m.mem ((s.m.job y.job).code.base + (s.m.job y.job).codeLen + ea) n)))) ∧
    (ea % n = 0 → s.m.nMode r = 3 → ea + n ≤ s.m.nDmLen r →
      ∃ v : BitVec (8 * n),
        (∀ i < n, v.extractLsb' (8 * i) 8
          = (match (s.m.storesBelow r y.tag ++ y.stores).reverse.find?
                (fun st => decide (st.off ≤ ea + i ∧ ea + i < st.off + 2 ^ st.w.toNat)) with
            | some st => st.data.extractLsb' (8 * (ea + i - st.off)) 8
            | none => memGet s.m.mem ((s.m.job y.job).dmem.base + s.m.nDmBase r + ea + i))) ∧
        exec (.ld (.pe p c ws) rd ra 3 w imm) s = done (BitVec.ofNat 64 v.toNat) ∧
        exec (.lds (.pe p c ws) rd ra 3 w imm) s = done (BitVec.ofInt 64 v.toInt))

/-- A store of a firing takes an entry of its store buffer and changes no byte of memory; a load of the same bytes by the same firing then returns it; a third store overruns. -/
def Sys2Proof.Claim.FiringStores : Prop :=
  ∀ (s : State) (p : PeId) (c : BitVec 4) (ws : BitVec 16) (y : Ctx) (rd ra : BitVec 5) (w : BitVec 2) (imm : BitVec 12),
    s.turns p c ws y → s.m.peBlock y .both = none →
    let ea := y.th.get ra + imm.signExtend 64
    let r : NRef := ⟨y.job, p, y.node⟩
    ea.toNat % 2 ^ w.toNat = 0 → s.m.nMode r = 3 → ea.toNat + 2 ^ w.toNat ≤ s.m.nDmLen r → s.m.nJn r ≠ 1 →
    (y.stores.length < 2 → exec (.st (.pe p c ws) rd ra 3 w imm) s
      = .next (s.leaves p c { y with th := y.th.next, stores := y.stores ++ [⟨ea.toNat, w, y.th.get rd⟩] }) ∧
      ∀ z, (s.leaves p c z).m.mem = s.m.mem) ∧
    (∀ (l : List SRec) (v : Word), y.stores = l ++ [⟨ea.toNat, w, v⟩] → s.m.cleanMemory →
      exec (.ld (.pe p c ws) rd ra 3 w imm) s = .next (s.leaves p c { y with
        th := (y.th.put rd (BitVec.ofNat 64 (v.toNat % 2 ^ (8 * 2 ^ w.toNat)))).next }) ∧
      exec (.lds (.pe p c ws) rd ra 3 w imm) s = .next (s.leaves p c { y with
        th := (y.th.put rd (BitVec.ofInt 64 (BitVec.ofNat (8 * 2 ^ w.toNat) v.toNat).toInt)).next })) ∧
    (2 ≤ y.stores.length → exec (.st (.pe p c ws) rd ra 3 w imm) s = .next (s.traps (.pe p c ws) { code := 0x03, reason := 3 }))

/-- The order of the access checks of a firing: an address that is not a multiple of the width is MISALIGNED, a space it may not use is MEM_SPACE, one past the extent is MEM_BOUNDS, each with the address as its value. Log entry 11 names what the model reads or chooses in it. -/
def Sys2Proof.Claim.FiringAccessTraps : Prop :=
  ∀ (s : State) (p : PeId) (c : BitVec 4) (ws : BitVec 16) (y : Ctx) (rd ra : BitVec 5) (sp w : BitVec 2) (imm : BitVec 12),
    s.turns p c ws y → s.m.peBlock y .both = none → (sp = 1 → w = 3) →
    let ea := y.th.get ra + imm.signExtend 64
    let trap := fun (k : BitVec 8) => Host.Outcome.next (s.traps (.pe p c ws) { code := k, value := ea })
    (ea.toNat % 2 ^ w.toNat ≠ 0 →
      exec (.ld (.pe p c ws) rd ra sp w imm) s = trap 0x04 ∧ exec (.st (.pe p c ws) rd ra sp w imm) s = trap 0x04) ∧
    (ea.toNat % 2 ^ w.toNat = 0 →
      (sp = 0 → exec (.ld (.pe p c ws) rd ra sp w imm) s = trap 0x05) ∧
      (sp ≠ 3 → exec (.st (.pe p c ws) rd ra sp w imm) s = trap 0x05) ∧
      (sp = 3 → s.m.nMode ⟨y.job, p, y.node⟩ ≠ 3 → exec (.ld (.pe p c ws) rd ra sp w imm) s = trap 0x05) ∧
      (sp = 1 → 192 < ea.toNat + 8 → exec (.ld (.pe p c ws) rd ra sp w imm) s = trap 0x06) ∧
      (sp = 2 → (s.m.job y.job).constLen < ea.toNat + 2 ^ w.toNat → exec (.ld (.pe p c ws) rd ra sp w imm) s = trap 0x06))

/-- Stores of a firing wait in its store buffer, where its own loads find them; the access checks of a firing in their order: the statements above, together. -/
def Obligations.FiringStoresAndAccessTraps : Prop := Claim.FiringStores ∧ Claim.FiringAccessTraps

/-! BIS: branches, jumps and emissions -/

/-- A conditional branch goes to pc + 4 sext(OFF13) exactly when its condition holds, else to the next word, whatever its target; taken to a target below 0 or at or above 2^32 it is a FETCH trap, with the low 64 bits of the target. -/
def Sys2Proof.Claim.BranchTargets : Prop :=
  ∀ (s : State) (x : Exec) (ra rb : BitVec 5) (off : BitVec 13), s.m.issues x = true →
    (s.m.thread x).pc.toNat % 4 = 0 →
    let target : Int := Int.ofNat (s.m.thread x).pc.toNat + 4 * off.toInt
    let a := s.reg x ra
    let b := s.reg x rb
    (0 ≤ target → target < 2 ^ 32 →
      exec (.beq x ra rb off) s = .next (s.goes x (decide (a = b)) target) ∧
      exec (.bne x ra rb off) s = .next (s.goes x (decide (a ≠ b)) target) ∧
      exec (.blt x ra rb off) s = .next (s.goes x (decide (a.toInt < b.toInt)) target) ∧
      exec (.bge x ra rb off) s = .next (s.goes x (decide (b.toInt ≤ a.toInt)) target) ∧
      exec (.bltu x ra rb off) s = .next (s.goes x (decide (a.toNat < b.toNat)) target) ∧
      exec (.bgeu x ra rb off) s = .next (s.goes x (decide (b.toNat ≤ a.toNat)) target) ∧
      exec (.bset x ra rb off) s = .next (s.goes x (decide (a &&& b ≠ 0)) target) ∧
      exec (.bclr x ra rb off) s = .next (s.goes x (decide (a &&& b = 0)) target)) ∧
    (target < 0 ∨ 2 ^ 32 ≤ target →
      ∀ e ∈ ([(.beq x ra rb off, decide (a = b)), (.bne x ra rb off, decide (a ≠ b)), (.blt x ra rb off, decide (a.toInt < b.toInt)),
          (.bge x ra rb off, decide (b.toInt ≤ a.toInt)), (.bltu x ra rb off, decide (a.toNat < b.toNat)),
          (.bgeu x ra rb off, decide (b.toNat ≤ a.toNat)), (.bset x ra rb off, decide (a &&& b ≠ 0)),
          (.bclr x ra rb off, decide (a &&& b = 0))] : List (Instr × Bool)),
        exec e.1 s = .next (if e.2 then s.traps x { code := 0x01, value := BitVec.ofInt 64 target } else s.goes x false target))

/-- JAL and JALR write pc + 4 to rd, in 32 bits (at pc 2^32 − 4 the link is 0: log entry 12), and go to their target; the base of JALR is read first. -/
def Sys2Proof.Claim.JumpAndLink : Prop :=
  ∀ (s : State) (x : Exec) (rd ra : BitVec 5) (off : BitVec 21) (imm : BitVec 16), s.m.issues x = true →
    let th := s.m.thread x
    let link : Word := (th.pc + 4).zeroExtend 64
    let go := fun (target : Int) => Host.Outcome.next ({ s with
      m := (s.m.issued x (({ th with pc := BitVec.ofInt 32 target }).put rd link)).fetchedPast x th.pc } : State)
    let j : Int := Int.ofNat th.pc.toNat + 4 * off.toInt
    let k : Int := Int.ofNat (s.reg x ra).toNat + imm.toInt
    (0 ≤ j → j < 2 ^ 32 → j % 4 = 0 → exec (.jal x rd off) s = go j) ∧
    (0 ≤ k → k < 2 ^ 32 → k % 4 = 0 → exec (.jalr x rd ra imm) s = go k)

/-- A jump target below 0 or at or above 2^32 is a FETCH trap and one that is not a multiple of 4 MISALIGNED, at the jump, with the low 64 bits of the target; rd is not written. -/
def Sys2Proof.Claim.JumpTargetTraps : Prop :=
  ∀ (s : State) (x : Exec) (rd ra : BitVec 5) (off : BitVec 21) (imm : BitVec 16), s.m.issues x = true →
    let j : Int := Int.ofNat (s.m.thread x).pc.toNat + 4 * off.toInt
    let k : Int := Int.ofNat (s.reg x ra).toNat + imm.toInt
    (j < 0 ∨ 2 ^ 32 ≤ j → exec (.jal x rd off) s = .next (s.traps x { code := 0x01, value := BitVec.ofInt 64 j })) ∧
    (k < 0 ∨ 2 ^ 32 ≤ k → exec (.jalr x rd ra imm) s = .next (s.traps x { code := 0x01, value := BitVec.ofInt 64 k })) ∧
    (0 ≤ k → k < 2 ^ 32 → k % 4 ≠ 0 →
      exec (.jalr x rd ra imm) s = .next (s.traps x { code := 0x04, value := BitVec.ofInt 64 k }))

/-- Branches and jumps go to their exact targets, and a target out of range traps (the link of a pc at 2^32 - 4 is log entry 12): the statements above, together. -/
def Obligations.BranchesAndJumps : Prop := Claim.BranchTargets ∧ Claim.JumpAndLink ∧ Claim.JumpTargetTraps

/-- EMIT and EMITD append one record with the target tag: time plus the offset with delta 0, or the same time with the next delta, which an offset of 0 gives too; a time past 2^64 − 1 saturates there, marked; a mask of 0 appends nothing. -/
def Sys2Proof.Claim.EmissionRecords : Prop :=
  ∀ (s : State) (p : PeId) (c : BitVec 4) (ws : BitVec 16) (y : Ctx) (pv : BitVec 4) (ro : BitVec 5) (t2 : Bool) (mask : BitVec 8),
    s.turns p c ws y → s.m.peBlock y .peOnly = none → y.emits.length < 16 →
    let o := (y.th.get ro).toNat
    let gvt := (s.m.job y.job).gvt.time.toNat
    let a := y.th.get (pairA pv)
    let b := if t2 then 0 else y.th.get (pairB pv)
    let app := fun (l : List ERec) => Host.Outcome.next (s.leaves p c { y with th := y.th.next, emits := y.emits ++ l })
    (mask = 0 → exec (.emit (.pe p c ws) pv ro t2 mask) s = app [] ∧ exec (.emitd (.pe p c ws) pv t2 mask) s = app []) ∧
    (mask ≠ 0 → 0 < o → y.tag.time.toNat + o ≤ gvt + 2 ^ 46 → y.tag.time.toNat + o < 2 ^ 64 →
      exec (.emit (.pe p c ws) pv ro t2 mask) s = app [⟨mask, ⟨BitVec.ofNat 64 (y.tag.time.toNat + o), 0⟩, false, a, b, t2,
        if o < 2 ^ 23 then some (BitVec.ofNat 23 o) else none⟩]) ∧
    (mask ≠ 0 → y.tag.time.toNat + o ≤ gvt + 2 ^ 46 → 2 ^ 64 ≤ y.tag.time.toNat + o →
      exec (.emit (.pe p c ws) pv ro t2 mask) s = app [⟨mask, ⟨BitVec.ofNat 64 (2 ^ 64 - 1), 0⟩, true, a, b, t2,
        if o < 2 ^ 23 then some (BitVec.ofNat 23 o) else none⟩]) ∧
    (mask ≠ 0 → o = 0 → y.tag.time.toNat ≤ gvt + 2 ^ 46 → y.tag.delta ≠ 4095 →
      exec (.emit (.pe p c ws) pv ro t2 mask) s = app [⟨mask, ⟨y.tag.time, y.tag.delta + 1⟩, false, a, b, t2, some 0⟩]) ∧
    (mask ≠ 0 → y.tag.time.toNat ≤ gvt + 2 ^ 46 → y.tag.delta ≠ 4095 →
      exec (.emitd (.pe p c ws) pv t2 mask) s = app [⟨mask, ⟨y.tag.time, y.tag.delta + 1⟩, false, a, b, t2, some 0⟩])

/-- An emission beyond GVT + 2^46 traps with code 0x0A, one at the last delta with 0x0B, and a seventeenth record overruns. -/
def Sys2Proof.Claim.EmissionTraps : Prop :=
  ∀ (s : State) (p : PeId) (c : BitVec 4) (ws : BitVec 16) (y : Ctx) (pv : BitVec 4) (ro : BitVec 5) (t2 : Bool) (mask : BitVec 8),
    s.turns p c ws y → s.m.peBlock y .peOnly = none → mask ≠ 0 →
    let o := (y.th.get ro).toNat
    let gvt := (s.m.job y.job).gvt.time.toNat
    let trap := fun (tr : Trap) => Host.Outcome.next (s.traps (.pe p c ws) tr)
    (16 ≤ y.emits.length → exec (.emit (.pe p c ws) pv ro t2 mask) s = trap { code := 0x03, reason := 2 } ∧
      exec (.emitd (.pe p c ws) pv t2 mask) s = trap { code := 0x03, reason := 2 }) ∧
    (y.emits.length < 16 → gvt + 2 ^ 46 < y.tag.time.toNat → exec (.emitd (.pe p c ws) pv t2 mask) s = trap { code := 0x0A }) ∧
    (y.emits.length < 16 → o = 0 → y.tag.time.toNat ≤ gvt + 2 ^ 46 → y.tag.delta = 4095 →
      exec (.emit (.pe p c ws) pv ro t2 mask) s = trap { code := 0x0B }) ∧
    (y.emits.length < 16 → gvt + 2 ^ 46 < y.tag.time.toNat + o →
      exec (.emit (.pe p c ws) pv ro t2 mask) s = trap { code := 0x0A, value := BitVec.ofNat 64 o }) ∧
    (y.emits.length < 16 → y.tag.time.toNat ≤ gvt + 2 ^ 46 → y.tag.delta = 4095 →
      exec (.emitd (.pe p c ws) pv t2 mask) s = trap { code := 0x0B })

/-- Emission records, and the traps of an emission: the statements above, together. -/
def Obligations.Emissions : Prop := Claim.EmissionRecords ∧ Claim.EmissionTraps

/-- STATE records g12 to g15 for the words its mask names, and DONE of a safe firing, and of a speculative one whose records fit its summary slots, moves it to the Emit queue and frees its context; a speculative one whose records do not fit ends with nothing emitted, no pending trap and no rollback count, counted in SUMMARY_OVERFLOWS. -/
def Sys2Proof.Claim.StateAndDone : Prop :=
  ∀ (s : State) (p : PeId) (c : BitVec 4) (ws : BitVec 16) (y : Ctx) (smask : BitVec 4),
    s.turns p c ws y → s.m.peBlock y .peOnly = none →
    (∃ z : Ctx, exec (.state (.pe p c ws) smask) s = .next (s.leaves p c z) ∧ z.th = y.th.next ∧ z.emits = y.emits ∧
      z.stores = y.stores ∧
      ∀ i < 4, SMap.get? z.stw i = if smask.getLsbD i then some (y.th.get (BitVec.ofNat 5 (12 + i))) else SMap.get? y.stw i) ∧
    let fits := (∀ e ∈ y.emits, e.eoff.isSome = true) ∧ (y.emits.map (fun e => e.target)).dedup.length ≤ (s.m.nJn ⟨y.job, p, y.node⟩).toNat
    ((y.safe = true ∨ fits) → (s.m.pe p).emitRecs + y.emits.length ≤ 64 →
      ∃ t, exec (.done (.pe p c ws)) s = .next t ∧ t.ctxAt p c = none ∧ (t.m.pe p).lastCtx = c ∧
        (t.m.pe p).emitQ = (s.m.pe p).emitQ ++ [y.emitted] ∧
        t.m.mem = s.m.mem ∧ t.m.jobs = s.m.jobs ∧ t.m.tiles = s.m.tiles) ∧
    (y.safe = false → ¬ fits → (s.m.pe p).emitRecs + y.emits.length ≤ 64 → (s.m.job y.job).state ≠ .empty →
      ∃ t, exec (.done (.pe p c ws)) s = .next t ∧ t.ctxAt p c = none ∧ (t.m.pe p).emitQ = (s.m.pe p).emitQ ∧
        (t.m.tile (peTile p)).pend = (s.m.tile (peTile p)).pend ∧ t.m.jobs = s.m.jobs ∧
        t.m.objD (0x4600 + y.job.toNat) 0x06 0 = (s.m.objD (0x4600 + y.job.toNat) 0x06 0 + 1) % 2 ^ 64 ∧
        t.m.objD (0x4500 + y.job.toNat) 0x01 0 = s.m.objD (0x4500 + y.job.toNat) 0x01 0)

/-- TRAP raises the USER trap, code 0x0C, with IMM16 as its value, on both sides. -/
def Sys2Proof.Claim.UserTrap : Prop :=
  ∀ (s : State) (x : Exec) (imm : BitVec 16), s.m.issues x = true →
    exec (.trap x imm) s = .next (s.traps x { code := 0x0C, value := imm.zeroExtend 64 })

/-- STATE records node words, DONE ends the firing, TRAP raises the USER trap: the statements above, together. -/
def Obligations.StateDoneAndUserTrap : Prop := Claim.StateAndDone ∧ Claim.UserTrap

/-! BIS: the privileged extension and traps -/

/-- WAIT stops the core unless an interrupt is pending for it, FENCE goes on when no store is outstanding, and RETI returns to EPC, whose two low bits it drops (the model's reading, log entry 12), with PMODE from PPMODE and IE from PIE; with ECAUSE.INT and a frame it also ends the handler: the source's active bit is cleared, and the top frame is popped, with EPC, ECAUSE, EVAL, PIE and PPMODE restored from it, unless a source is offered in x1, which tail-chains. -/
def Sys2Proof.Claim.WaitFenceAndTrapReturn : Prop :=
  ∀ (s : State) (c : BitVec 4), s.privileged c →
    exec (.wait (.core c)) s = .next (s.coreLeaves c { s.m.core c with
      th := (s.m.core c).th.next, run := if Mach.pendingFor s.m.ic.now c.toNat = [] then .waiting else .running }) ∧
    ((s.m.core c).outst = 0 →
      exec (.fence (.core c)) s = .next (s.coreLeaves c { s.m.core c with th := (s.m.core c).th.next })) ∧
    ((s.m.core c).frames = [] ∨ (s.m.core c).ecause.getLsbD 63 = false →
      ∃ y : Core, exec (.reti (.core c)) s = .next (s.coreLeaves c y) ∧
        y.th.pc = (s.m.core c).epc.truncate 32 &&& 0xFFFFFFFC ∧ y.th.regs = (s.m.core c).th.regs ∧
        y.status.getLsbD 0 = (s.m.core c).status.getLsbD 1 ∧ y.status.getLsbD 2 = (s.m.core c).status.getLsbD 3 ∧
        (∀ i, i ≠ 0 → i ≠ 2 → y.status.getLsbD i = (s.m.core c).status.getLsbD i) ∧
        y.epc = (s.m.core c).epc ∧ y.ecause = (s.m.core c).ecause ∧ y.eval = (s.m.core c).eval ∧
        y.frames = (s.m.core c).frames ∧ y.entry = none) ∧
    (∀ f below, (s.m.core c).frames = f :: below → (s.m.core c).ecause.getLsbD 63 = true →
      let x := s.m.core c
      let v : IcView := { s.m.icBefore 5 with act := (s.m.icBefore 5).act &&& ~~~(1#512 <<< f.src.toNat) }
      let offer := bestOffer v c.toNat ((below.map (fun g => g.prio.toNat)).headD 16)
      ∃ t, exec (.reti (.core c)) s = .next t ∧
        (t.m.core c).th.pc = x.epc.truncate 32 &&& 0xFFFFFFFC ∧ (t.m.core c).th.regs = x.th.regs ∧
        (t.m.core c).status.getLsbD 0 = x.status.getLsbD 1 ∧ (t.m.core c).status.getLsbD 2 = x.status.getLsbD 3 ∧
        t.m.ic.now.act = s.m.ic.now.act &&& ~~~(1#512 <<< f.src.toNat) ∧ t.m.ic.now.pend = s.m.ic.now.pend ∧
        (offer = none ∨ x.status.getLsbD 3 = false → (t.m.core c).frames = below ∧ (t.m.core c).entry = none ∧
          (t.m.core c).epc = f.epc ∧ (t.m.core c).ecause = f.ecause ∧ (t.m.core c).eval = f.eval ∧
          (t.m.core c).status.getLsbD 3 = f.pie ∧ (t.m.core c).status.getLsbD 1 = f.ppmode) ∧
        (∀ n, offer = some n → x.status.getLsbD 3 = true → (t.m.core c).frames = f :: below ∧
          (t.m.core c).entry = some ⟨BitVec.ofNat 9 n, BitVec.ofNat 4 (Mach.cfgPrio (Mach.icCfg v n)), true⟩ ∧
          (t.m.core c).epc = x.epc ∧ (t.m.core c).ecause = x.ecause ∧
          t.m.objD 0x4D00 0x03 0 = (s.m.objD 0x4D00 0x03 0 + 1) % 2 ^ 64))

/-- LKACQ of a free lock takes it and reads back the core's identity, as it does of a lock the core owns, whose lease it renews; of a lock another agent owns it reads that owner and enters the core among the waiters; LKREL by the owner frees the lock, by another changes neither owner nor waiters, and rd is 0. A result for g0 is discarded. -/
def Sys2Proof.Claim.LockHelpers : Prop :=
  ∀ (s : State) (c : BitVec 4) (rd ra : BitVec 5) (imm : BitVec 12), s.privileged c →
    let gives := fun (t : State) (v : Word) => (rd ≠ 0 → t.reg (.core c) rd = v) ∧ (∀ r, r ≠ rd ∨ rd = 0 → t.reg (.core c) r = s.reg (.core c) r)
    let n : Byte := ((s.reg (.core c) ra) + imm.signExtend 64).truncate 8
    ((s.m.lock n).owner = 0 ∨ (s.m.lock n).owner.toNat = c.toNat + 1 → ∃ t, exec (.lkacq (.core c) rd ra imm) s = .next t ∧
      (t.m.lock n).owner.toNat = c.toNat + 1 ∧ (t.m.lock n).age = 0 ∧ (t.m.lock n).leaseNow = (s.m.lock n).lease ∧
      gives t (BitVec.ofNat 64 (c.toNat + 1))) ∧
    ((s.m.lock n).owner ≠ 0 → (s.m.lock n).owner.toNat ≠ c.toNat + 1 → ∃ t, exec (.lkacq (.core c) rd ra imm) s = .next t ∧
      (t.m.lock n).owner = (s.m.lock n).owner ∧ (t.m.lock n).waiters.getLsbD c.toNat = true ∧
      gives t ((s.m.lock n).owner.zeroExtend 64)) ∧
    ((s.m.lock n).owner.toNat = c.toNat + 1 → ∃ t, exec (.lkrel (.core c) rd ra imm) s = .next t ∧
      (t.m.lock n).owner = 0 ∧ (t.m.lock n).waiters = 0 ∧ gives t 0) ∧
    ((s.m.lock n).owner.toNat ≠ c.toNat + 1 → ∃ t, exec (.lkrel (.core c) rd ra imm) s = .next t ∧
      (t.m.lock n).owner = (s.m.lock n).owner ∧ (t.m.lock n).waiters = (s.m.lock n).waiters ∧ gives t 0)

/-- WAIT, FENCE, RETI with and without a frame, and the lock helpers of a service core (log entry 12): the statements above, together. -/
def Obligations.PrivilegedInstructions : Prop := Claim.WaitFenceAndTrapReturn ∧ Claim.LockHelpers

/-- CSR accesses in privileged mode: rd takes the old value and the CSR the new one, both from the values before the access; CSRINS inserts the bits g[RD] masks; an access of an unassigned address, and a write of a read-only CSR, is ILLEGAL. -/
def Sys2Proof.Claim.CsrAccess : Prop :=
  ∀ (s : State) (c : BitVec 4) (rd ra : BitVec 5) (a : BitVec 12), s.privileged c →
    let illegal := Host.Outcome.next (s.traps (.core c) { code := 0x02 })
    (s.m.csrRead c a = none → exec (.csrget (.core c) rd a) s = illegal ∧ exec (.csrput (.core c) ra a) s = illegal ∧
      exec (.csrswap (.core c) rd ra a) s = illegal ∧ exec (.csrins (.core c) rd ra a) s = illegal) ∧
    ((∀ v, csrWrite (s.m.core c) a v = none) → exec (.csrput (.core c) ra a) s = illegal ∧
      exec (.csrswap (.core c) rd ra a) s = illegal ∧ exec (.csrins (.core c) rd ra a) s = illegal) ∧
    ∀ old : Word, s.m.csrRead c a = some old →
    let x := s.m.core c
    exec (.csrget (.core c) rd a) s = .next (s.coreLeaves c { x with th := (x.th.put rd old).next }) ∧
    (∀ z, csrWrite x a (x.th.get ra) = some z →
      exec (.csrput (.core c) ra a) s = .next (s.coreLeaves c { z with th := z.th.next }) ∧
      exec (.csrswap (.core c) rd ra a) s = .next (s.coreLeaves c { z with th := (z.th.put rd old).next })) ∧
    (∀ z, csrWrite x a ((old &&& ~~~(x.th.get rd)) ||| (x.th.get ra &&& x.th.get rd)) = some z →
      exec (.csrins (.core c) rd ra a) s = .next (s.coreLeaves c { z with th := z.th.next })) ∧
    (a = 0x007 → let w := x.scratch
      exec (.csrget (.core c) rd a) s = .next (s.coreLeaves c { x with th := (x.th.put rd w).next }) ∧
      exec (.csrput (.core c) ra a) s = .next (s.coreLeaves c { x with scratch := x.th.get ra, th := x.th.next }) ∧
      exec (.csrswap (.core c) rd ra a) s = .next (s.coreLeaves c { x with scratch := x.th.get ra, th := (x.th.put rd w).next }) ∧
      exec (.csrins (.core c) rd ra a) s = .next (s.coreLeaves c { x with
        scratch := (w &&& ~~~(x.th.get rd)) ||| (x.th.get ra &&& x.th.get rd), th := x.th.next }))

/-- What each CSR reads, and what a write keeps: FPS its fields (a reserved RM leaves RM), STATUS its four bits, TVEC a word address, ECAUSE INT and the 24 bits of reason and code, EPC, EVAL and SCRATCH all bits; the identity, cycle, counts and task are read-only, and every other address is unassigned. -/
def Sys2Proof.Claim.CsrFields : Prop :=
  ∀ (m : Mach) (c : BitVec 4) (v : Word),
    let x := m.core c
    m.csrRead c 0x000 = some x.th.fps ∧ m.csrRead c 0x001 = some (BitVec.ofNat 64 (c.toNat + 1)) ∧ m.csrRead c 0x002 = some x.status ∧
    m.csrRead c 0x003 = some x.epc ∧ m.csrRead c 0x004 = some x.ecause ∧ m.csrRead c 0x005 = some x.eval ∧
    m.csrRead c 0x006 = some x.tvec ∧ m.csrRead c 0x007 = some x.scratch ∧ m.csrRead c 0x010 = some (BitVec.ofNat 64 m.cycle) ∧
    m.csrRead c 0x011 = some (BitVec.ofNat 64 x.instret) ∧ m.csrRead c 0x012 = some (BitVec.ofNat 64 x.fetchPast) ∧
    m.csrRead c 0x020 = some (x.task.zeroExtend 64) ∧
    (∀ a : BitVec 12, 0x007 < a.toNat → a ≠ 0x010 → a ≠ 0x011 → a ≠ 0x012 → a ≠ 0x020 → m.csrRead c a = none) ∧
    (∃ y, csrWrite x 0x000 v = some y ∧ y.th.fps &&& 0x1F1F = v &&& 0x1F1F ∧ y.th.fps &&& ~~~0x71F1F = 0 ∧
      bits y.th.fps 18 16 = (if bits v 18 16 < 5 then bits v 18 16 else bits x.th.fps 18 16) ∧ y.th.regs = x.th.regs) ∧
    (∃ y, csrWrite x 0x004 v = some y ∧ y.ecause.getLsbD 63 = v.getLsbD 63 ∧ y.ecause.toNat % 2 ^ 24 = v.toNat % 2 ^ 24 ∧
      ∀ i, 24 ≤ i → i < 63 → y.ecause.getLsbD i = false) ∧
    (∃ y, csrWrite x 0x002 v = some y ∧ y.status.toNat = v.toNat % 16) ∧
    (∃ y, csrWrite x 0x003 v = some y ∧ y.epc = v) ∧ (∃ y, csrWrite x 0x005 v = some y ∧ y.eval = v) ∧
    (∃ y, csrWrite x 0x006 v = some y ∧ y.tvec.toNat = v.toNat / 4 * 4) ∧ (∃ y, csrWrite x 0x007 v = some y ∧ y.scratch = v) ∧
    (∀ a : BitVec 12, a = 0x001 ∨ a = 0x010 ∨ a = 0x011 ∨ a = 0x012 ∨ a = 0x020 → csrWrite x a v = none)

/-- CSR accesses take the old value, and the fields a CSR keeps: the statements above, together. -/
def Obligations.ControlAndStatusRegisters : Prop := Claim.CsrAccess ∧ Claim.CsrFields

/-- In task mode the privileged instructions and writes of a CSR are ILLEGAL, as is a read of a CSR that task mode may not read. -/
def Sys2Proof.Claim.TaskModeIsIllegal : Prop :=
  ∀ (s : State) (c : BitVec 4) (rd ra : BitVec 5) (a : BitVec 12) (imm : BitVec 12), s.runs c →
    Mach.pmode (s.m.core c) = false → (s.m.core c).th.pc.toNat < 0x40000 →
    let trap := Host.Outcome.next (s.traps (.core c) { code := 0x02 })
    exec (.wait (.core c)) s = trap ∧ exec (.reti (.core c)) s = trap ∧ exec (.fence (.core c)) s = trap ∧
    exec (.lkacq (.core c) rd ra imm) s = trap ∧ exec (.lkrel (.core c) rd ra imm) s = trap ∧
    exec (.csrput (.core c) ra a) s = trap ∧ exec (.csrswap (.core c) rd ra a) s = trap ∧
    exec (.csrins (.core c) rd ra a) s = trap ∧ (csrTask a = false → exec (.csrget (.core c) rd a) s = trap)

/-- An instruction on the side it does not belong to is ILLEGAL: the emission group on a service core, the privileged extension in a firing. -/
def Sys2Proof.Claim.WrongSideIsIllegal : Prop :=
  (∀ (s : State) (c : BitVec 4) (pv : BitVec 4) (ro : BitVec 5) (t2 : Bool) (mask : BitVec 8) (sm : BitVec 4),
    s.runs c → (s.m.core c).th.pc.toNat < 0x40000 →
    let trap := Host.Outcome.next (s.traps (.core c) { code := 0x02 })
    exec (.emit (.core c) pv ro t2 mask) s = trap ∧ exec (.emitd (.core c) pv t2 mask) s = trap ∧
    exec (.state (.core c) sm) s = trap ∧ exec (.done (.core c)) s = trap) ∧
  (∀ (s : State) (p : PeId) (c : BitVec 4) (ws : BitVec 16) (y : Ctx) (rd ra : BitVec 5) (a imm : BitVec 12),
    s.turns p c ws y → y.th.pc.toNat < (s.m.job y.job).codeLen →
    let trap := Host.Outcome.next (s.traps (.pe p c ws) { code := 0x02 })
    exec (.wait (.pe p c ws)) s = trap ∧ exec (.reti (.pe p c ws)) s = trap ∧ exec (.fence (.pe p c ws)) s = trap ∧
    exec (.csrget (.pe p c ws) rd a) s = trap ∧ exec (.csrput (.pe p c ws) ra a) s = trap ∧
    exec (.csrswap (.pe p c ws) rd ra a) s = trap ∧ exec (.csrins (.pe p c ws) rd ra a) s = trap ∧
    exec (.lkacq (.pe p c ws) rd ra imm) s = trap ∧ exec (.lkrel (.pe p c ws) rd ra imm) s = trap)

/-- Instructions of the other side, and privileged ones in task mode, are ILLEGAL: the statements above, together. -/
def Obligations.IllegalByModeAndSide : Prop := Claim.TaskModeIsIllegal ∧ Claim.WrongSideIsIllegal

/-- A trap on a service core: EPC takes the pc, ECAUSE the code and reason, EVAL the value, PIE the IE bit, PPMODE the PMODE bit; PMODE is 1, IE 0, and the pc is TVEC. A trap in privileged mode with IE 0 stops the core instead. -/
def Obligations.ServiceCoreTrapEntry : Prop :=
  ∀ (s : State) (c : BitVec 4) (tr : Trap),
    let x := s.m.core c
    let t := s.traps (.core c) tr
    (¬ (x.status.getLsbD 0 = true ∧ x.status.getLsbD 2 = false) →
      (t.m.core c).epc = x.th.pc.zeroExtend 64 ∧
      (t.m.core c).ecause.toNat = tr.code.toNat + 65536 * tr.reason.toNat ∧ (t.m.core c).eval = tr.value ∧
      (t.m.core c).status.getLsbD 0 = true ∧ (t.m.core c).status.getLsbD 2 = false ∧
      (t.m.core c).status.getLsbD 1 = x.status.getLsbD 0 ∧ (t.m.core c).status.getLsbD 3 = x.status.getLsbD 2 ∧
      (t.m.core c).th.pc = x.tvec.truncate 32 ∧ (t.m.core c).th.regs = x.th.regs ∧ (t.m.core c).frames = x.frames ∧
      (∀ d, d ≠ c → t.m.core d = s.m.core d) ∧ t.m.mem = s.m.mem ∧ t.m.jobs = s.m.jobs ∧ t.m.locks = s.m.locks) ∧
    (x.status.getLsbD 0 = true → x.status.getLsbD 2 = false → (t.m.core c).run = .stopped ∧ (t.m.core c).epc = x.epc)

/-- What stops an instruction of a firing before it issues: a pc outside the code segment is FETCH with the pc as its value, a reserved word is ILLEGAL, on a service core too, and a firing that has used its budget overruns. Log entry 11 names what the model reads or chooses in it. -/
def Sys2Proof.Claim.FetchAndBudgetTraps : Prop :=
  (∀ (s : State) (c : BitVec 4) (rd ra rb : BitVec 5), s.runs c → (s.m.core c).th.pc.toNat < 0x40000 →
    reservedWord (s.m.localWord c) = true →
    exec (.add (.core c) rd ra rb) s = .next (s.traps (.core c) { code := 0x02 })) ∧
  (reservedWord 0 = true) ∧
  ∀ (s : State) (p : PeId) (c : BitVec 4) (ws : BitVec 16) (y : Ctx) (rd ra rb : BitVec 5), s.turns p c ws y →
    ((s.m.job y.job).codeLen ≤ y.th.pc.toNat →
      exec (.add (.pe p c ws) rd ra rb) s = .next (s.traps (.pe p c ws) { code := 0x01, value := y.th.pc.zeroExtend 64 })) ∧
    (y.th.pc.toNat < (s.m.job y.job).codeLen → reservedWord (s.m.codeWord y) = true →
      exec (.add (.pe p c ws) rd ra rb) s = .next (s.traps (.pe p c ws) { code := 0x02 })) ∧
    (y.th.pc.toNat < (s.m.job y.job).codeLen → reservedWord (s.m.codeWord y) = false → s.m.budget y.job ≤ y.count →
      exec (.add (.pe p c ws) rd ra rb) s = .next (s.traps (.pe p c ws) { code := 0x03, reason := 1 }))

/-- A firing trap of a safe firing ends it, hands its record to event ring 0 and faults its job with FAULT_REASON 0x0100 plus the code (the fault of code 0x0C too, where the USER value has bit 15 clear: Table 21-3, log entry 45), where a USER trap with bit 15 set pauses the job instead, at its tag or later; of a speculative firing it takes a pending-trap record, and the job runs on; with none free the firing ends with no record, counted. Log entry 11 names what the model reads or chooses in it. -/
def Sys2Proof.Claim.FiringTrapEffects : Prop :=
  ∀ (s : State) (p : PeId) (c : BitVec 4) (ws : BitVec 16) (y : Ctx) (tr : Trap), s.turns p c ws y → (s.m.job y.job).state = .run →
    let t := s.traps (.pe p c ws) tr
    let rcd := Mach.trapWords (!y.safe) y.job (mkNode s.m.number p y.node) y.tag y.th.pc tr
    (y.safe = true → t.ctxAt p c = none ∧
      (SMap.getD t.m.evr 0 {}).held = (SMap.getD s.m.evr 0 {}).held ++ [rcd] ∧
      (tr.code ≠ 0x0C ∨ tr.value.getLsbD 15 = false →
        (t.m.job y.job).state = .faulted ∧ (t.m.job y.job).faultReason.toNat = 0x100 + tr.code.toNat) ∧
      (tr.code = 0x0C → tr.value.getLsbD 15 = true → (t.m.job y.job).state = .run ∧
        ((s.m.job y.job).pause = none → ∃ g, (t.m.job y.job).pause = some g ∧ g.lt y.tag = false))) ∧
    (y.safe = false → 64 ≤ (s.m.tile (peTile p)).pend.length → t.ctxAt p c = none ∧
      (t.m.tile (peTile p)).pend = (s.m.tile (peTile p)).pend ∧ t.m.evr = s.m.evr ∧
      t.m.objD (0x4500 + y.job.toNat) 0x08 0 = (s.m.objD (0x4500 + y.job.toNat) 0x08 0 + 1) % 2 ^ 64) ∧
    (y.safe = false → (s.m.tile (peTile p)).pend.length < 64 → t.ctxAt p c = none ∧ (t.m.job y.job).state = .run ∧ t.m.evr = s.m.evr ∧
      (t.m.tile (peTile p)).pend = (s.m.tile (peTile p)).pend ++ [⟨y.job, mkNode s.m.number p y.node, y.tag, rcd.getD 0 0,
        rcd.getD 1 0, rcd.getD 2 0, rcd.getD 3 0⟩])

/-- Fetch and budget traps of a firing, and what a firing trap does (log entries 11 and 45): the statements above, together. -/
def Obligations.FiringTraps : Prop := Claim.FetchAndBudgetTraps ∧ Claim.FiringTrapEffects

/-! Larkspur, the bridges and Foxglove (chapter 10) -/

/-- A packet of one token at the head of a stop's ejection queue is pushed into the Receive FIFO of its PE, when that has a credit, and leaves the queue. Log entry 36 names what the model reads or chooses in it. -/
def Sys2Proof.Claim.TokenPacketsReachTheReceiveFifo : Prop :=
  ∀ (s : State) (die : BitVec 2) (stop : BitVec 5) (vc : BitVec 2) (cmd : BitVec 6) (x : QPkt) (rest : List QPkt),
    stop.toNat < 18 → s.m.queue (qEj die stop vc) = x :: rest → x.pkt.h.cmd = cmd → x.pkt.h.mc = false →
    (s.m.pe (pktToken x.pkt).pe).fifo.length < 8 → (s.m.pe (pktToken x.pkt).pe).ringWins ≠ 3 →
    let reaches := fun (r : Res) => ∃ t, r = .next t ∧ t.m.queue (qEj die stop vc) = rest ∧
      (t.m.pe (pktToken x.pkt).pe).fifo = (s.m.pe (pktToken x.pkt).pe).fifo
        ++ [⟨pktToken x.pkt, x.pkt.h.src, x.pkt.h.arg.truncate 14⟩]
    (vc = 0 → cmd = 0x01 → reaches (exec (.token die stop) s)) ∧
    (vc = 1 → cmd = 0x03 → reaches (exec (.anti die stop) s)) ∧
    (vc = 1 → cmd = 0x05 → reaches (exec (.control die stop) s))

/-- A multicast packet with one destination entry for the tile delivers that entry's token to its PE and leaves the queue. Log entries 35 and 36 name what the model reads or chooses in it. -/
def Sys2Proof.Claim.MulticastPacketsReachTheReceiveFifo : Prop :=
  ∀ (s : State) (die : BitVec 2) (stop : BitVec 5) (vc : BitVec 2) (cmd : BitVec 6) (x : QPkt) (rest : List QPkt) (e : Word),
    stop.toNat < 18 → s.m.queue (qEj die stop vc) = x :: rest → x.pkt.h.cmd = cmd → x.pkt.h.mc = true →
    (mcEntries x.pkt).filter (fun w => peDie (mcToken x.pkt w).pe == die && Mach.peStop (mcToken x.pkt w).pe == stop) = [e] →
    (s.m.pe (mcToken x.pkt e).pe).fifo.length < 8 → (s.m.pe (mcToken x.pkt e).pe).ringWins ≠ 3 →
    let reaches := fun (r : Res) => ∃ t, r = .next t ∧ t.m.queue (qEj die stop vc) = rest ∧
      (t.m.pe (mcToken x.pkt e).pe).fifo = (s.m.pe (mcToken x.pkt e).pe).fifo
        ++ [⟨mcToken x.pkt e, x.pkt.h.src, e.extractLsb' 43 14⟩]
    (vc = 0 → cmd = 0x02 → reaches (exec (.tokenMc die stop) s)) ∧
    (vc = 1 → cmd = 0x04 → reaches (exec (.antiMc die stop) s))

/-- Token packets reach the Receive FIFO of their PE, at once (log entry 36): the statements above, together. -/
def Obligations.TokenPacketsReachTheReceiveFifo : Prop := Claim.TokenPacketsReachTheReceiveFifo ∧ Claim.MulticastPacketsReachTheReceiveFifo

/-- Memory requests at the hub: a read is answered with the data units of its range, a write stores its units and no other byte and is acknowledged; a range the initiator may not reach is answered with status 3, and an access whose parity error the retry has not mended with status 2 and a count. A write of tile control is left to the probe collector, and what the write of a tile's own agent stores is the agent's (log entry 19). -/
def Obligations.MemoryRequestsAreServed : Prop :=
  ∀ (s : State) (die : BitVec 2) (br : Bool) (x : QPkt) (rest : List QPkt),
    s.m.queue (qHub die br 2) = x :: rest → s.m.cleanMemory →
    let h := x.pkt.h
    let a := h.arg.toNat
    a % 16 = 0 →
    (h.cmd = 0x10 → 1 ≤ h.xst.toNat → h.xst.toNat ≤ 8 → s.m.mayReach h a (16 * h.xst.toNat) = true →
      (∃ t, exec (.rd die ⟨br, .lost⟩) s = .next t ∧ t.m.mem = s.m.mem ∧
        t.m.objD 0x4A00 0x05 0 = (s.m.objD 0x4A00 0x05 0 + 1) % 2 ^ 64) ∧
      ∃ data, exec (.rd die ⟨br, .good⟩) s = .next { s with
          m := (s.m.deq (qHub die br 2)).hubRespond (Mach.hbmSrc a) h 0x20 0 data } ∧
        data.length = h.xst.toNat ∧
        ∀ i < h.xst.toNat, data[i]? = some (BitVec.ofNat 128 (bytesNat (memBytes s.m.mem (a + 16 * i) 16)))) ∧
    (h.cmd = 0x10 → s.m.mayReach h a (16 * h.xst.toNat) = false → exec (.rd die ⟨br, .good⟩) s = .next { s with
      m := (s.m.deq (qHub die br 2)).hubRespond (Mach.hbmSrc a) h 0x23 3 [] }) ∧
    (h.cmd = 0x11 → (Mach.srcHub h.src = true ∨ (h.src.truncate 8 ≠ (0x81 : Byte) ∧ s.m.reqOf (Mach.srcTile h.src) h.tid = none)) →
      s.m.mayReach h a (16 * x.pkt.data.length) = true →
      ∃ t, exec (.wr die ⟨br, .good⟩) s = .next t ∧
        (∀ i < x.pkt.data.length, ∀ k < 16,
          memGet t.m.mem (a + 16 * i + k) = ((x.pkt.data.getD i 0).extractLsb' (8 * k) 8)) ∧
        (∀ b, b < a ∨ a + 16 * x.pkt.data.length ≤ b → memGet t.m.mem b = memGet s.m.mem b) ∧
        t.m.jobs = s.m.jobs ∧ t.m.pes = s.m.pes ∧ t.m.cores = s.m.cores)

/-- Stop register requests, where the injection queue has room for the response: CFG_RD is answered with the register's value, CFG_WR takes effect and is answered, and an unassigned offset is answered with status 3; at offset 0, LKS_STOP_CFG, both complete. Log entry 37 names what the model reads or chooses in it. -/
def Sys2Proof.Claim.StopRegisterRequestsAreServed : Prop :=
  ∀ (s : State) (die : BitVec 2) (stop : BitVec 5) (x : QPkt) (rest : List QPkt), stop.toNat < 18 →
    s.m.queue (qEj die stop 2) = x :: rest → x.pkt.h.dstHub = false → x.pkt.h.dstDie = die → s.m.canAnswer die stop = true →
    let h := x.pkt.h
    let off := bits h.arg 11 0
    let m' := s.m.deq (qEj die stop 2)
    (h.cmd = 0x12 → off ≠ 0x900 → ∀ v, s.m.stopRead die stop off = some v →
      exec (.cfgRd die stop) s = .next { s with m := m'.respond die stop h 0x22 0 [v.zeroExtend 128] }) ∧
    (h.cmd = 0x12 → s.m.stopRead die stop off = none →
      exec (.cfgRd die stop) s = .next { s with m := m'.respond die stop h 0x23 3 [] }) ∧
    (h.cmd = 0x13 → ∀ n, m'.stopWrite die stop off ((x.pkt.data.getD 0 0).truncate 64) = some n →
      exec (.cfgWr die stop) s = .next { s with m := n.respond die stop h 0x22 0 [0] }) ∧
    (off = 0 → (h.cmd = 0x12 → exec (.cfgRd die stop) s = .next { s with
        m := m'.respond die stop h 0x22 0 [(s.m.stop die stop).cfg.zeroExtend 128] }) ∧
      (h.cmd = 0x13 → ∃ t, exec (.cfgWr die stop) s = .next t ∧
        (t.m.stop die stop).cfg = (x.pkt.data.getD 0 0).truncate 64 &&& 0x3F3F01))

/-- Responses at a tile end the request they answer, and one that no request awaits is logged; SLOT_REL frees the in-transit slot it names. -/
def Sys2Proof.Claim.ResponsesEndTheirRequests : Prop :=
  ∀ (s : State) (die : BitVec 2) (stop : BitVec 5) (vc : BitVec 2) (x : QPkt) (rest : List QPkt),
    stop.toNat < 16 → s.m.queue (qEj die stop vc) = x :: rest →
    let h := x.pkt.h
    let tl : TileId := die ++ (stop.truncate 4 : BitVec 4)
    let ends := fun (r : Res) => ∃ t, r = .next t ∧ t.m.queue (qEj die stop vc) = rest ∧ t.m.reqOf tl h.tid = none
    let job := if h.jv then some h.job else none
    let logged := (s.m.deq (qEj die stop vc)).logErr 0 0x04 0 job (Mach.stopLoc die stop) (x.pkt.hdr.truncate 64) (x.pkt.hdr.extractLsb' 64 64)
    let stray := fun (r : Res) => r = .next { s with m := logged }
    (vc = 3 → (s.m.reqOf tl h.tid).isSome = true →
      (h.cmd = 0x20 → ends (exec (.rdRsp (.stop die stop)) s)) ∧
      (h.cmd = 0x21 → ends (exec (.wrAck (.stop die stop)) s)) ∧
      (h.cmd = 0x22 → ends (exec (.cfgRsp (.stop die stop)) s)) ∧
      (h.cmd = 0x23 → ∀ r, s.m.reqOf tl h.tid = some r → s.m.live r.job = true →
        ∃ t, exec (.errRsp (.stop die stop)) s = .next t ∧ (t.m.job r.job).state = .faulted)) ∧
    (vc = 3 → s.m.reqOf tl h.tid = none → s.m.pmsgs = [] →
      (h.cmd = 0x20 → stray (exec (.rdRsp (.stop die stop)) s)) ∧
      (h.cmd = 0x21 → stray (exec (.wrAck (.stop die stop)) s)) ∧
      (h.cmd = 0x22 → stray (exec (.cfgRsp (.stop die stop)) s)) ∧
      (h.cmd = 0x23 → stray (exec (.errRsp (.stop die stop)) s))) ∧
    (vc = 1 → h.cmd = 0x06 → h.arg.getLsbD 28 = false → ∃ t, exec (.slotRel (.stop die stop)) s = .next t ∧
      t.m.queue (qEj die stop vc) = rest ∧
      SMap.get? (t.m.tile (die ++ (stop.truncate 4 : BitVec 4))).transit (h.arg.truncate 14 : BitVec 14).toNat = none)

/-- Stop register requests are answered, and responses end the requests they answer: the statements above, together. -/
def Obligations.StopRegistersAndResponses : Prop := Claim.StopRegisterRequestsAreServed ∧ Claim.ResponsesEndTheirRequests

/-- A service core's stop-window requests: CFG_RSP gives a load its register and lets the core go on; an ERR_RSP to a store completes the store with a count; a request unanswered for 2^19 hub cycles completes as one with status 1, a store with its count and a load with a trap 0x06 at its address; a request of a tile's agent unanswered for 2^20 core cycles faults the job it served. Log entry 37 names what the model reads or chooses in it. -/
def Obligations.CoreRequestsComplete : Prop :=
  ∀ (s : State) (die : BitVec 2) (br : Bool) (x : QPkt) (rest : List QPkt) (q : HubReq) (tid : BitVec 12),
    let h := x.pkt.h
    let c := q.core
    (s.m.queue (qHub die br 3) = x :: rest → SMap.get? s.m.net.hubReqs h.tid.toNat = some q →
      (h.cmd = 0x22 → q.load = true → ∀ rd w sx, (s.m.core c).run = .loading rd w sx →
        ∃ t, exec (.cfgRsp (.hub die br)) s = .next t ∧ (t.m.core c).run = .running ∧
          (t.m.core c).th = ((s.m.core c).th.put rd (Mach.loadExt w sx ((x.pkt.data.getD 0 0).truncate 64))).next ∧
          SMap.get? t.m.net.hubReqs h.tid.toNat = none) ∧
      (h.cmd = 0x23 → q.load = false → h.xst ≠ 0 →
        ∃ t, exec (.errRsp (.hub die br)) s = .next t ∧ (t.m.core c).outst = (s.m.core c).outst - 1 ∧
          t.m.objD 0x4C00 0x06 0 = (s.m.objD 0x4C00 0x06 0 + 1) % 2 ^ 64)) ∧
    (SMap.get? s.m.net.hubReqs tid.toNat = some q → 2 ^ 19 ≤ s.m.cycle - q.since → s.m.answered Mach.hubRspQs tid = false →
      (q.load = false → ∃ t, exec (.requestTimeout (.hub die br) tid) s = .next t ∧ (t.m.core c).outst = (s.m.core c).outst - 1 ∧
        SMap.get? t.m.net.hubReqs tid.toNat = none ∧ t.m.objD 0x4C00 0x06 0 = (s.m.objD 0x4C00 0x06 0 + 1) % 2 ^ 64) ∧
      (q.load = true → (∃ rd w sx, (s.m.core c).run = .loading rd w sx) → (Mach.pmode (s.m.core c) = false ∨ Mach.ieBit (s.m.core c) = true) →
        ∃ t, exec (.requestTimeout (.hub die br) tid) s = .next t ∧ SMap.get? t.m.net.hubReqs tid.toNat = none ∧
          (t.m.core c).run = .running ∧ (t.m.core c).ecause = 0x06 ∧ (t.m.core c).eval = q.addr ∧
          (t.m.core c).epc = (s.m.core c).th.pc.zeroExtend 64 ∧ (t.m.core c).th.pc = (s.m.core c).tvec.truncate 32)) ∧
    (∀ (stop : BitVec 5) (r : TReq), stop.toNat < 16 → s.m.answered [qEj die stop 3] tid = false →
      s.m.reqOf (die ++ (stop.truncate 4 : BitVec 4)) tid = some r → 2 ^ 20 ≤ s.m.coreCycle - r.since → s.m.live r.job = true →
      ∃ t, exec (.requestTimeout (.stop die stop) tid) s = .next t ∧ (t.m.job r.job).state = .faulted)

/-- Injection and hops: a selected candidate stands at its stop; a candidate with credits enters its ring and stands in the next stop's input queue; a packet off a Foxglove link or a bridge is taken on at the far side with its data unchanged. Log entries 36 and 87 name what the model reads or chooses in it. -/
def Obligations.PacketsMoveOn : Prop :=
  (∀ (s : State) (die : BitVec 2) (stop : BitVec 5) (vc : BitVec 2) (i : Nat) (x : QPkt) (k : Nat) (ccw : Bool),
    stop.toNat < 18 → (s.m.stop die stop).rels = [] → s.m.pmsgs = [] →
    (s.m.stop die stop).cand = [] →
    (∀ r ∈ (s.m.tile (die ++ (stop.truncate 4 : BitVec 4))).reqs, r.tid ≠ none) →
    (∀ y ∈ s.m.injWaiting die stop, y.1 = vc) →
    (s.m.pickInjection die stop = (some (vc, i, x), []) ∨ s.m.injWaiting die stop = [(vc, i, x)]) →
    s.m.routeAt die stop (s.m.ringTarget die stop (s.m.aged x).h) (s.m.aged x) = .ring k ccw →
    ∃ t, exec (.stopInject die stop) s = .next t ∧ (t.m.stop die stop).cand = [(vc, i)] ∧ t.m.net.queues = s.m.net.queues) ∧
  (∀ (s : State) (die : BitVec 2) (stop : BitVec 5) (ring : BitVec 4) (vc : BitVec 2) (i : Nat) (x : QPkt),
    stop.toNat < 18 → ring.toNat < 12 →
    let nx := nextStop stop ring.toNat
    let p := Mach.onRing (s.m.aged x) (ring.toNat / 2) (decide (ring.toNat % 2 = 1))
    let dest := s.m.ringTarget die stop x.pkt.h
    (∀ v, s.m.queue (qThr die stop ring.toNat v) = [] ∧ s.m.queue (qRe die stop v) = []) →
    (s.m.stop die stop).cand = [(vc, i)] → (s.m.queue (qInj die stop vc))[i]? = some x →
    s.m.routeAt die stop dest x.pkt = .ring (ring.toNat / 2) (decide (ring.toNat % 2 = 1)) →
    s.m.credits die stop ring.toNat x.pkt true = true → badForm p = false → (isTok p.h.cmd && !s.m.live p.h.job) = false →
    dest ≠ nx → p.h.mc = false → s.m.queue (qThr die nx ring.toNat p.h.vc) = [] →
    ∃ t, exec (.ringHop die stop ring .clean) s = .next t ∧ t.m.queue (qInj die stop vc) = (s.m.queue (qInj die stop vc)).eraseIdx i ∧
      (t.m.queue (qThr die nx ring.toNat p.h.vc)).map (fun y => (y.pkt, y.dest)) = [(p, dest)]) ∧
  (∀ (s : State) (die : BitVec 2) (link : BitVec 4) (back : Bool) (vc : BitVec 2) (x : QPkt) (rest : List QPkt),
    link.toNat < 12 →
    let far := if back then (fglEnds link.toNat).1 else (fglEnds link.toNat).2
    let p := (s.m.aged x).setH (fun h => { h with detour := true })
    s.m.queue (qFgl die link.toNat back vc) = x :: rest →
    (x.pkt.h.mc = false → s.m.ringTarget die far p.h = far) →
    (x.pkt.h.mc = true → x.pkt.h.smask &&& ~~~(1#18 <<< far.toNat) = 0) → badForm p = false →
    (isTok p.h.cmd && !s.m.live p.h.job) = false → Mach.leavesAt die p.h = false → s.m.absorbing die far = false →
    s.m.room (qEj die far p.h.vc) p.units = true →
    ∃ t, exec (.foxgloveTraversal die link back vc .clean) s = .next t ∧
      t.m.queue (qFgl die link.toNat back vc) = rest ∧
      (t.m.queue (qEj die far p.h.vc)).map (·.pkt) = (s.m.queue (qEj die far p.h.vc)).map (·.pkt) ++ [p] ∧
      (p.h.vc = 3 → ∀ f, (s.m.stop die far).flight = [f] → f.tid = p.h.tid → (t.m.stop die far).flight = [])) ∧
  (∀ (s : State) (die : BitVec 2) (br : Bool) (vc : BitVec 2) (x : QPkt) (rest : List QPkt),
    s.m.queue (qEj die (brStop br) vc) = x :: rest → x.pkt.h.dstHub = true → badForm (s.m.aged x) = false →
    isTok (s.m.aged x).h.cmd = false → isTok x.pkt.h.cmd = false →
    ∃ t, exec (.bridgeCrossing die br true vc .clean) s = .next t ∧ t.m.queue (qEj die (brStop br) vc) = rest ∧
      (t.m.queue (qHub die br vc)).map (·.pkt) = (s.m.queue (qHub die br vc)).map (·.pkt) ++ [s.m.aged x]) ∧
  (∀ (s : State) (p : PeId) (o : Out) (rest : List Out), (s.m.pe p).routeQ = o :: rest → s.m.live o.tok.job = true →
    o.tok.modNo = s.m.number → peTile o.tok.pe = peTile p → o.tok.pe ≠ p → (s.m.pe o.tok.pe).fifo.length < 8 →
    (s.m.pe o.tok.pe).ringWins ≠ 3 →
    ∃ t, exec (.route p) s = .next t ∧ (t.m.pe p).routeQ = rest ∧
      (t.m.pe o.tok.pe).fifo = (s.m.pe o.tok.pe).fifo
        ++ [⟨o.tok, Mach.srcOf (peDie p) (Mach.peStop p) ((p.truncate 7 : BitVec 7).zeroExtend 8), o.slot⟩])

/-- Routing and stop configuration writes: an entry keeps its enable, direction and a mask that is not 0, an entry for the stop itself keeps its value; LKS_STOP_CFG keeps its assigned fields. -/
def Sys2Proof.Claim.StopConfigurationWrites : Prop :=
  ∀ (s : State) (die : BitVec 2) (stop d : BitVec 5) (v : Word), stop.toNat < 18 → d.toNat ≤ 18 →
    (d ≠ stop → ∃ t, exec (.lksRt die stop d v) s = .next t ∧
      (t.m.rtWord die stop d.toNat).getLsbD 15 = v.getLsbD 15 ∧ (t.m.rtWord die stop d.toNat).getLsbD 10 = v.getLsbD 10 ∧
      (bits v 9 4 ≠ 0 → bits (t.m.rtWord die stop d.toNat) 9 4 = bits v 9 4) ∧
      (bits v 9 4 = 0 → bits (t.m.rtWord die stop d.toNat) 9 4 = bits (s.m.rtWord die stop d.toNat) 9 4)) ∧
    (d = stop → exec (.lksRt die stop d v) s = .next s) ∧
    (∃ t, exec (.lksStopCfg die stop v) s = .next t ∧ (t.m.stop die stop).cfg = v &&& 0x3F3F01)

/-- The fence of a stop: REQ starts DRAINING, REQ 0 opens it, FORCE isolates a draining stop, an empty draining stop with nothing outstanding becomes FENCED, and one that drains for its limit sets TIMEOUT and raises its interrupt source. -/
def Sys2Proof.Claim.FenceTransitions : Prop :=
  ∀ (s : State) (die : BitVec 2) (stop : BitVec 5), stop.toNat < 18 →
    let x := s.m.stop die stop
    (x.req = false → x.fence = 0 → ∃ t, exec (.fenceReq die stop) s = .next t ∧
      t.m.stop die stop = { x with req := true, fence := 1, drainFrom := s.m.coreCycle, late := false }) ∧
    (x.req = true → x.rels = [] → ∃ t, exec (.fenceOpen die stop) s = .next t ∧
      t.m.stop die stop = { x with req := false, fence := 0, isolated := false }) ∧
    (x.fence = 1 → (∀ vc, s.m.queue (qInj die stop vc) = [] ∧ s.m.queue (qEj die stop vc) = []) →
      (∃ t, exec (.force die stop) s = .next t ∧ (t.m.stop die stop).fence = 3 ∧ (t.m.stop die stop).isolated = true) ∧
      (x.flight = [] → x.rels = [] → ∃ t, exec (.fenceAck die stop) s = .next t ∧ (t.m.stop die stop).fence = 2 ∧
        (t.m.stop die stop).isolated = true)) ∧
    (x.fence = 1 → x.late = false → s.m.objD 0x2600 0x01 65536 ≤ s.m.coreCycle - x.drainFrom → s.m.ic.kept = none →
      ∃ t, exec (.fenceTimeout die stop) s = .next t ∧ (t.m.stop die stop).timeout = true ∧
        t.m.ic.now.pend.getLsbD (64 + 18 * die.toNat + stop.toNat) = true)

/-- Writes of stop configuration, and fences closing and opening: the statements above, together. -/
def Obligations.StopConfigurationAndFences : Prop := Claim.StopConfigurationWrites ∧ Claim.FenceTransitions

/-! The PE: Receive, Match, Ready, Emit (chapters 3 and 4) -/

/-- An arrival at an empty matching store forms a group of one ARMING head entry that holds its planes, and goes to Gather; an arrival whose MOB probe misses goes on to deep match where its set has overflowed, whose reads of HBM then have to be answered, and one whose probes miss everywhere forms its group. Log entries 19 and 77 name what the model reads or chooses in it. -/
def Sys2Proof.Claim.ArrivalsFormGroups : Prop :=
  ∀ (s : State) (p : PeId) (it : Item) (rest : List Item),
    it.tok.kind = 0 → it.tok.malformed = false → s.m.live it.tok.job = true → s.m.cleanMemory →
    (s.m.pe p).iris = [] →
    let tk := it.tok
    let g : GRef := { job := tk.job, node := tk.node, key := tk.key }
    let forms := fun (t : State) => ∃ i e, (t.m.pe p).iris = [(i, e)] ∧ e.head = true ∧ e.gstate = .arming ∧
      e.job = tk.job ∧ e.node = tk.node ∧ e.key = tk.key ∧ e.port = tk.port ∧ e.gen = tk.gen ∧ e.a = tk.w2 ∧
      (tk.fs = true → e.b = tk.w3) ∧ (tk.fs = false → e.b = 0) ∧
      (t.m.pe p).gatherQ = (s.m.pe p).gatherQ ++ [⟨g, .arm⟩]
    ((s.m.pe p).fifo = it :: rest → (s.m.pe p).readyQ = [] → (s.m.pe p).miss = [] → (s.m.pe p).ovf = [] →
      s.m.ringHeld (.matching p) = false → ∃ t, exec (.matchArrival p .good) s = .next t ∧ (t.m.pe p).fifo = rest ∧ forms t) ∧
    (∀ (k : BitVec 3) (ms : Miss), (s.m.pe p).miss = [(k.toNat, ms)] → ms.item = it → s.m.ents p .mob g = [] →
      (ms.stage = .mob → SMap.getD (s.m.cluster (peCluster p)).dovf (g.hash p).2.2.1 0 ≠ 0 →
        ∃ t, exec (.mobProbeComplete p k) s = .next t ∧ (t.m.pe p).miss = [(k.toNat, { ms with stage := .deep })] ∧
          (t.m.tile (peTile p)).reqs.length = (s.m.tile (peTile p)).reqs.length + 32 ∧ t.m.probeOut p k.toNat = true) ∧
      (ms.stage = .mob → SMap.getD (s.m.cluster (peCluster p)).dovf (g.hash p).2.2.1 0 = 0 →
        ∃ t, exec (.mobProbeComplete p k) s = .next t ∧ (t.m.pe p).miss = [] ∧ forms t) ∧
      (ms.stage = .deep → s.m.probeOut p k.toNat = true → exec (.deepMatchProbeComplete p k) s = .next s) ∧
      (ms.stage = .deep → s.m.probeOut p k.toNat = false → s.m.ents p .deep g = [] →
        ∃ t, exec (.deepMatchProbeComplete p k) s = .next t ∧ (t.m.pe p).miss = [] ∧ forms t))

/-- An arrival that meets its group, of one entry in Iris: a token and an anti-token of one port and generation annihilate; an anti-token without its token is kept; a token of the same port and generation leaves the greater planes; one of another generation makes the port contested; one of another port joins. A FIRED group's node is asked to roll back to the tag, but for a token that annihilates or an anti-token that is kept. Log entry 77 names what the model reads or chooses in it. -/
def Sys2Proof.Claim.ArrivalsMeetTheirGroup : Prop :=
  ∀ (s : State) (p : PeId) (it : Item) (rest : List Item) (i : Nat) (e : Entry),
    let tk := it.tok
    let g : GRef := { job := tk.job, node := tk.node, key := tk.key }
    let same := e.port = tk.port ∧ e.gen = tk.gen
    it.tok.malformed = false → s.m.live tk.job = true → s.m.cleanMemory → (s.m.pe p).fifo = it :: rest →
    (s.m.pe p).readyQ = [] → (s.m.pe p).miss = [] → s.m.ringHeld (.matching p) = false →
    (s.m.pe p).iris = [(i, e)] → e.inGroup p g = true → e.head = true → e.gstate ≠ .presented → e.kind.toNat ≤ 1 →
    let asks := fun (anti : Bool) (t : State) => e.gstate = .fired → (s.m.tile (peTile p)).rbOvf = 0 →
      (s.m.tile (peTile p)).rbq.length < 32 → s.m.rbInProgress ⟨tk.job, p, tk.node⟩ = none →
      (t.m.tile (peTile p)).rbq = (s.m.tile (peTile p)).rbq ++ [⟨tk.job, mkNode s.m.number p tk.node, tk.key, anti⟩]
    let meets := fun (what : State → Prop) =>
      ∃ t, exec (.matchArrival p .good) s = .next t ∧ (t.m.pe p).fifo = rest ∧ what t
    let joins := fun (t : State) => ∃ w n, w ≠ i ∧ SMap.get? (t.m.pe p).iris w = some n ∧ n.head = false ∧ n.kind = tk.kind ∧
      n.port = tk.port ∧ n.gen = tk.gen ∧ (tk.kind = 1 → n.a = 0 ∧ n.b = 0) ∧ (tk.kind = 0 → n.a = tk.w2 ∧ n.b = tk.planeB)
    (tk.kind = 1 → e.kind = 0 → same → meets (fun t => (t.m.pe p).iris = [] ∧ asks true t)) ∧
    (tk.kind = 0 → e.kind = 1 → same → meets (fun t => (t.m.pe p).iris = [])) ∧
    (tk.kind = 1 → ¬ (e.kind = 0 ∧ same) → meets (fun t => SMap.get? (t.m.pe p).iris i = some e ∧ joins t)) ∧
    (tk.kind = 0 → e.kind = 0 → same → meets (fun t => asks false t ∧ SMap.get? (t.m.pe p).iris i = some
      (if (e.b ++ e.a).toNat < (tk.planeB ++ tk.w2).toNat then { e with a := tk.w2, b := tk.planeB, fs := tk.fs } else e))) ∧
    (tk.kind = 0 → e.kind = 0 → e.port = tk.port → e.gen ≠ tk.gen → meets (fun t => joins t ∧ asks false t ∧
      ∃ n, SMap.get? (t.m.pe p).iris i = some n ∧ n.contest = true ∧ n.a = e.a ∧ n.b = e.b ∧ n.gen = e.gen)) ∧
    (tk.kind = 0 → e.kind = 0 → e.port ≠ tk.port → meets (fun t => joins t ∧ asks false t ∧
      ∃ n, SMap.get? (t.m.pe p).iris i = some n ∧ n.contest = false ∧
        n.arrived = (1#8 <<< e.port.toNat) ||| (1#8 <<< tk.port.toNat)))

/-- A token that matches no group forms one, at once or after its probes, and one that matches a group joins, contests or annihilates: the statements above, together. -/
def Obligations.ArrivalsFormGroups : Prop := Claim.ArrivalsFormGroups ∧ Claim.ArrivalsMeetTheirGroup

/-- The write-behind queue writes its oldest group into a free place of its home bucket; Gather arms a group from its node record; a PE back-pressed for 1,024 cycles enters spill. Log entries 19 and 77 name what the model reads or chooses in it. -/
def Obligations.GatherSpillAndDeepWrites : Prop :=
  (∀ (s : State) (t : TileId) (e : Entry) (rest : List (List Entry)), (s.m.tile t).deepQ = [e] :: rest →
    (s.m.tile t).deep = [] → s.m.cleanMemory → ∃ u, exec (.deepMatchWrite t) s = .next u ∧ (u.m.tile t).deepQ = rest ∧
      (u.m.tile t).deep = [((e.ref.hash (t ++ e.locPe)).2.2.2 * 8, e)]) ∧
  (∀ (s : State) (p : PeId) (g : GRef) (rest : List GatherReq) (i : Nat) (h : Entry),
    (s.m.pe p).gatherQ = ⟨g, .arm⟩ :: rest → (s.m.pe p).readyQ = [] → s.m.findGroup p g = some .iris →
    s.m.headOf p .iris g = some (i, h) → h.gstate = .arming → h.kind ≠ 2 → s.m.cleanMemory → s.m.hubPath (peTile p) = true →
    s.m.ringHeld (.gather p) = false →
    ∃ t, exec (.arming p) s = .next t ∧ SMap.get? (t.m.pe p).iris i
      = some { h with rmask := s.m.nRmask (g.nref p), mode := s.m.nMode (g.nref p), gstate := .waiting }) ∧
  (∀ (s : State) (p : PeId), 1024 ≤ (s.m.pe p).bpCycles → (s.m.pe p).spill = false →
    ∃ t, exec (.spill p) s = .next t ∧ (t.m.pe p).spill = true ∧ (t.m.pe p).bpCycles = 0)

/-- Ready: a presented group gets a descriptor with the level of its tag and the next sequence stamp, and a sweep gives every descriptor of its job the level of its tag. -/
def Sys2Proof.Claim.DescriptorsTakeTheirLevels : Prop :=
  (∀ (s : State) (p : PeId) (g : GRef) (rest : List GRef) (pl : Place) (i k : Nat) (h : Entry),
    (s.m.pe p).readyQ = g :: rest → s.m.findGroup p g = some pl → s.m.headOf p pl g = some (i, h) → h.gstate = .waiting →
    s.m.groupReady p pl g = true → Mach.generalPos (s.m.pe p) = some k →
    ∃ t d, exec (.descriptorInsert p) s = .next t ∧ (t.m.pe p).readyQ = rest ∧ (t.m.pe p).seq = (s.m.pe p).seq + 1 ∧
      SMap.get? (t.m.pe p).pool k = some d ∧ Mach.descRef d = g ∧ d.seq = (s.m.pe p).seq ∧
      (d.level, d.far) = Mach.readyLevel (s.m.tagOf g.job g.key) (s.m.job g.job).sh (s.m.wApplied (peTile p) g.job)) ∧
  (∀ (s : State) (p : PeId) (j : JobId), ∃ t, exec (.descriptorSweep p j) s = .next t ∧
    (t.m.pe p).pool = (s.m.pe p).pool.map (fun (k, d) => if d.job = j then
      (k, { d with level := (Mach.readyLevel (s.m.tagOf j d.key) (s.m.job j).sh (s.m.wApplied (peTile p) j)).1,
                   far := (Mach.readyLevel (s.m.tagOf j d.key) (s.m.job j).sh (s.m.wApplied (peTile p) j)).2 })
      else (k, d)))

/-- The level of a tag: 0 below the Safe Horizon, and at or above it the first k with distance below (2^k - 1) W, or FAR beyond (2^7 - 1) W. -/
def Sys2Proof.Claim.LevelOfATag : Prop :=
  ∀ (tag sh : Tag) (w : Nat),
    (tag.lt sh = true → Mach.readyLevel tag sh w = (0, false)) ∧
    (tag.lt sh = false → ∀ k, 1 ≤ k → k ≤ 7 → tag.time.toNat - sh.time.toNat < (2 ^ k - 1) * w →
      (∀ i, 1 ≤ i → i < k → (2 ^ i - 1) * w ≤ tag.time.toNat - sh.time.toNat) →
      Mach.readyLevel tag sh w = (BitVec.ofNat 3 k, false)) ∧
    (tag.lt sh = false → 127 * w ≤ tag.time.toNat - sh.time.toNat → Mach.readyLevel tag sh w = (7, true))

/-- Descriptors take the level of their tag, and what that level is: the statements above, together. -/
def Obligations.DescriptorsTakeTheirLevels : Prop := Claim.DescriptorsTakeTheirLevels ∧ Claim.LevelOfATag

/-- Dispatch of a safe firing and of a KICK, and the grant of a speculative firing's journal entries: the context holds the firing with its tag in g1 and g2 at the node's code. Log entry 21 names what the model reads or chooses in it. -/
def Obligations.DispatchEntersAContext : Prop :=
  (∀ (s : State) (p : PeId) (pos : Nat) (d : Desc) (pl : Place) (c : Nat),
    (s.m.nextDesc p = some (pos, d) ∨ ((s.m.pe p).pool = [(pos, d)] ∧ s.m.eligible p pos d = true)) → d.level = 0 →
    s.m.findGroup p (Mach.descRef d) = some pl → Mach.freeContext (s.m.pe p) = some c → s.m.cleanMemory →
    s.m.hubPath (peTile p) = true → (pl = .deep → s.m.recAddr ⟨d.job, p, d.node⟩ + 64 ≤ Mach.deepBase) →
    let tag := s.m.tagOf d.job d.key
    let enters := fun (t : State) (kick : Bool) => ∃ y, SMap.get? (t.m.pe p).ctxs c = some y ∧ y.job = d.job ∧ y.node = d.node ∧
      y.tag = tag ∧ y.safe = true ∧ y.kick = kick ∧ y.count = 0 ∧ y.emits = [] ∧ y.stores = [] ∧ y.jents = [] ∧
      y.th.get 1 = tag.short.zeroExtend 64 ∧ y.th.get 2 = tag.delta.zeroExtend 64 ∧
      y.th.get 3 = (mkNode s.m.number p d.node).zeroExtend 64 ∧ (kick = true → y.th.get 4 = 0) ∧
      y.th.pc = s.m.nCodeOff ⟨d.job, p, d.node⟩
    (s.m.outcome p pl (Mach.descRef d) = .firing → ∃ t, exec (.dispatch p .good) s = .next t ∧ enters t false) ∧
    (s.m.outcome p pl (Mach.descRef d) = .control →
      ∀ i h, s.m.headOf p pl (Mach.descRef d) = some (i, h) → h.port = 0 →
        ∃ t, exec (.kick p) s = .next t ∧ enters t true)) ∧
  (∀ (s : State) (p : PeId) (pos c e : Nat) (d : Desc) (pl : Place),
    let r : NRef := ⟨d.job, p, d.node⟩
    s.m.cleanMemory → s.m.hubPath (peTile p) = true → (s.m.tile (peTile p)).jacc = [] → (s.m.tile (peTile p)).jreqs = [(p, pos)] → SMap.get? (s.m.pe p).pool pos = some d → d.level ≠ 0 →
    s.m.findGroup p (Mach.descRef d) = some pl → s.m.outcome p pl (Mach.descRef d) = .firing → s.m.nJn r = 1 →
    Mach.freeContext (s.m.pe p) = some c →
    (s.m.modTile (peTile p) (fun x => { x with jreqs := [] })).eligible p pos d = true →
    s.m.grantOk (peTile p) d.job 1 = true → s.m.jFreeIdx (peTile p) = some e →
    ∃ t y j, exec (.journalGrant (peTile p)) s = .next t ∧ SMap.get? (t.m.pe p).ctxs c = some y ∧ y.safe = false ∧
      y.job = d.job ∧ y.node = d.node ∧ y.tag = s.m.tagOf d.job d.key ∧
      y.th.get 1 = (s.m.tagOf d.job d.key).short.zeroExtend 64 ∧ y.th.get 2 = (s.m.tagOf d.job d.key).delta.zeroExtend 64 ∧
      y.th.pc = s.m.nCodeOff r ∧ y.jents = [e] ∧ SMap.get? (t.m.tile (peTile p)).journal e = some j ∧ j.job = d.job ∧ j.key = d.key ∧ j.node = node24 p d.node ∧
      j.tail = false ∧ (t.m.tile (peTile p)).jreqs = [])

/-- Emit carries out what stands at the front of its queue: a safe update writes the held and the settled value of its port, a deposit writes the held value or the masked bits of a state word, READ_NODE copies the node's state; each leaves the queue. Log entry 79 names what the model reads or chooses in it. -/
def Obligations.EmitWritesNodeState : Prop :=
  ∀ (s : State) (p : PeId) (e : EmitJob) (rest : List EmitJob), (s.m.pe p).emitQ = e :: rest → e.begun = false →
    e.emits = [] → e.arcs = 0 → s.m.cleanMemory → s.m.hubPath (peTile p) = true →
    let r : NRef := ⟨e.job, p, e.node⟩
    (s.m.stAddr r + 384 ≤ s.m.recAddr r ∨ s.m.recAddr r + 64 ≤ s.m.stAddr r) →
    (e.kind = .update → e.safe = true → ∀ v, e.arrived = [v] → ∃ t, exec (.emitFiring p .good) s = .next t ∧
      (t.m.pe p).emitQ = rest ∧ t.m.held r v.port.toNat = (v.a, v.b) ∧ t.m.settled r v.port.toNat = (v.a, v.b, e.tag) ∧
      t.m.sft r = e.tag) ∧
    (∀ tok, e.kind = .command tok →
      (tok.port = 1 → ∃ t, exec (.depositHeld p) s = .next t ∧ (t.m.pe p).emitQ = rest ∧
        t.m.held r (bits tok.gen 2 0) = (tok.w2, tok.w3)) ∧
      (tok.port = 2 → ∃ t, exec (.depositState p) s = .next t ∧ (t.m.pe p).emitQ = rest ∧
        t.m.recW r (4 + bits tok.gen 1 0) = (s.m.recW r (4 + bits tok.gen 1 0) &&& ~~~tok.w3) ||| (tok.w2 &&& tok.w3)) ∧
      (tok.port = 3 → ∃ t, exec (.readNode p) s = .next t ∧ (t.m.pe p).emitQ = rest ∧
        (t.m.job e.job).reads = (s.m.job e.job).reads ++ [⟨e.tag, mkNode s.m.number p e.node,
          memBytes s.m.mem (s.m.recAddr r + 32) 32 ++ memBytes s.m.mem (s.m.stAddr r) 128⟩]))

/-! The hub: tasks, event rings, interrupts, locks (chapters 13 and 14) -/

/-- Tasks: a store of a running core to TSK_POST waits; an admitted post joins the queue and lets its core go on; an applied post sets the task's flags; a dispatch starts the task on an idle core in its entry state with the flags captured, and a post applied in the same hub cycle stays; a store of a running core to TSK_END frees the core. Log entry 54 names what the model reads or chooses in it. -/
def Obligations.TaskScheduling : Prop :=
  (∀ (s : State) (c : BitVec 4) (v : Word), coreLive (s.m.core c) = true →
    ∃ t, exec (.tskPost c v) s = .next t ∧ (t.m.core c).run = .posting v) ∧
  (∀ (s : State) (i : Nat) (q : BitVec 10 × BitVec 32), s.m.posters = [i] → s.m.poster i = some q →
    s.m.sched.postQ.length < 64 → ∃ t, exec .postAdmission s = .next t ∧
      t.m.sched.postQ = s.m.sched.postQ ++ [q] ∧ t.m.sched.rr = i ∧
      (i < 16 → ∀ v, (s.m.core (BitVec.ofNat 4 i)).run = .posting v → (t.m.core (BitVec.ofNat 4 i)).run = .running ∧
        (t.m.core (BitVec.ofNat 4 i)).th.pc = (s.m.core (BitVec.ofNat 4 i)).th.pc + 4)) ∧
  (∀ (s : State) (n : BitVec 10) (f : BitVec 32) (rest : List (BitVec 10 × BitVec 32)), s.m.sched.postQ = (n, f) :: rest →
    ∃ t, exec (.postApply false) s = .next t ∧ t.m.sched.postQ = rest ∧
      (t.m.task n.toNat).flags = (s.m.task n.toNat).flags ||| f ∧ (t.m.task n.toNat).mask = (s.m.task n.toNat).mask ∧
      ∀ k, k ≠ n.toNat → t.m.task k = s.m.task k) ∧
  (∀ (s : State) (n : Nat) (c : BitVec 4),
    (s.m.dispatchOrder = [n] ∨ ∃ h < s.m.cycle, s.m.sched.ready = [(n, h)]) → s.m.idleFor n = some c → n < 1024 →
    let k := s.m.task n
    let got := k.flags &&& k.mask &&& ~~~((s.m.setsOf (.newFlags n)).truncate 32 : BitVec 32)
    ∃ t, exec .taskDispatch s = .next t ∧ (t.m.task n).running = some c ∧
      (t.m.task n).flags = k.flags &&& ~~~(got &&& ~~~((s.m.setsOf (.flags n)).truncate 32 : BitVec 32)) ∧ (t.m.core c).run = .running ∧
      (t.m.core c).task.toNat = n ∧ (t.m.core c).th.get 1 = BitVec.ofNat 64 n ∧
      (t.m.core c).th.get 2 = got.zeroExtend 64 ∧ (t.m.core c).th.get 3 = k.arg ∧
      (t.m.core c).th.pc = (k.cfg.truncate 32 : BitVec 32) &&& 0x3FFFC ∧
      (t.m.core c).status.getLsbD 0 = k.cfg.getLsbD 53 ∧ (t.m.core c).status.getLsbD 2 = true) ∧
  (∀ (s : State) (c : BitVec 4), coreLive (s.m.core c) = true → (s.m.core c).task ≠ 0x3FF → ∃ t, exec (.tskEnd c) s = .next t ∧
    (t.m.core c).task = 0x3FF ∧ (t.m.task (s.m.core c).task.toNat).running = none) ∧
  (∀ (s : State) (n : BitVec 10) (v : Word), bits v 47 32 ≠ 0 → ∃ t, exec (.tskCfg n v) s = .next t ∧
    (t.m.task n.toNat).cfg = ((s.m.task n.toNat).cfg &&& ~~~0x803FFFFF0003FFFC) ||| (v &&& 0x803FFFFF0003FFFC) ∧
    (t.m.task n.toNat).flags = (s.m.task n.toNat).flags)

/-- Event rings: a record is written at the producer's slot when the ring has room, with WALLTIME in its third word on rings 1 and 2, and EN = 1 sets both counts to 0; TILE_RBQ_KEY enqueues the named request. -/
def Obligations.EventRingsAndRollbackQueue : Prop :=
  (∀ (s : State) (r : BitVec 2) (w0 w1 w2 w3 : Word) (who : List Word) (rest : List (List Word)),
    (s.m.evRing r.toNat).held = (w0 :: w1 :: w2 :: w3 :: who) :: rest → (s.m.evRing r.toNat).full = false →
    SMap.get? s.m.sched.hwPost r.toNat = none → Memory.wf s.m.mem = true →
    ∃ t, exec (.eventRingWrite r) s = .next t ∧ (t.m.evRing r.toNat).held = rest ∧
      (t.m.evRing r.toNat).prod = (s.m.evRing r.toNat).prod + 1 ∧
      memWord t.m.mem (Mach.evrSlot (s.m.evRing r.toNat)) = w0 ∧
      memWord t.m.mem (Mach.evrSlot (s.m.evRing r.toNat) + 8) = w1 ∧
      memWord t.m.mem (Mach.evrSlot (s.m.evRing r.toNat) + 16) = (if r = 1 ∨ r = 2 then s.m.wallNow else w2) ∧
      memWord t.m.mem (Mach.evrSlot (s.m.evRing r.toNat) + 24) = w3 ∧
      (∀ a, a < Mach.evrSlot (s.m.evRing r.toNat) ∨ Mach.evrSlot (s.m.evRing r.toNat) + 32 ≤ a →
        memGet t.m.mem a = memGet s.m.mem a)) ∧
  (∀ (s : State) (r : BitVec 2) (v : Word), v.getLsbD 63 = true → ∃ t, exec (.evrCfg r v) s = .next t ∧
    (t.m.evRing r.toNat).prod = 0 ∧ (t.m.evRing r.toNat).cons = 0 ∧ (t.m.evRing r.toNat).cfg.getLsbD 63 = true ∧
    ((s.m.evRing r.toNat).cfg.getLsbD 63 = true → (t.m.evRing r.toNat).cfg = (s.m.evRing r.toNat).cfg)) ∧
  (∀ (s : State) (t : TileId) (v : Word), (s.m.tile t).rbq.length < 32 → ∃ u a, exec (.tileRbqKey t v) s = .next u ∧
    (u.m.tile t).rbq = (s.m.tile t).rbq ++ [⟨(s.m.tile t).rbNode.extractLsb' 56 3, (s.m.tile t).rbNode.truncate 40,
      v.truncate 60, a⟩] ∧ (u.m.tile t).rbOvf = (s.m.tile t).rbOvf - 1)

/-- Interrupts: an edge of an existing source sets its pending bit, as a bit of IC_SWSET does; IC_CFG keeps its fields; the best offer begins an entry; a committed entry saves pc and status, enters the handler and moves the source from pending to active, unless an edge came in the same hub cycle, which stays pending. Log entry 53 names what the model reads or chooses in it. -/
def Obligations.InterruptSequence : Prop :=
  (∀ (s : State) (n : BitVec 9), Mach.sourceExists n.toNat = true → s.m.ic.kept = none →
    ∃ t, exec (.interruptEdge n false) s = .next t ∧ t.m.ic.now.pend.getLsbD n.toNat = true ∧
      ∀ k, k ≠ n.toNat → t.m.ic.now.pend.getLsbD k = s.m.ic.now.pend.getLsbD k) ∧
  (∀ (s : State) (v : Word), s.m.ic.kept = none → ∃ t, exec (.icSwset v) s = .next t ∧
    ∀ k < 512, t.m.ic.now.pend.getLsbD k = (s.m.ic.now.pend.getLsbD k || (decide (k < 32) && v.getLsbD k))) ∧
  (∀ (s : State) (n : BitVec 9) (v : Word), ∃ t, exec (.icCfg n v) s = .next t ∧
    Mach.icCfg t.m.ic.now n.toNat = v &&& 0xCF0F) ∧
  (∀ (s : State) (c : BitVec 4) (n : Nat), (s.m.core c).entry = none → Mach.entryBoundary (s.m.core c) = true → n < 192 →
    (bestOffer (s.m.icBefore 6) c.toNat (runPrio (s.m.core c)) = some n ∨
      (Mach.pendingFor (s.m.icBefore 6) c.toNat = [n] ∧ Mach.cfgPrio (Mach.icCfg (s.m.icBefore 6) n) < runPrio (s.m.core c))) →
    ∃ t e, exec (.interruptOffer c) s = .next t ∧ (t.m.core c).entry = some e ∧ e.src.toNat = n ∧ e.tail = false) ∧
  (∀ (s : State) (c : BitVec 4) (e : IrqEntry), (s.m.core c).entry = some e → e.tail = false →
    let x := s.m.core c
    ∃ t, exec (.interruptEntry c) s = .next t ∧ (t.m.core c).entry = none ∧ (t.m.core c).epc = x.th.pc.zeroExtend 64 ∧
      (t.m.core c).ecause = at64 1 63 ||| e.src.zeroExtend 64 ∧ (t.m.core c).frames.length = x.frames.length + 1 ∧
      (t.m.core c).status.getLsbD 0 = true ∧ (t.m.core c).status.getLsbD 1 = x.status.getLsbD 0 ∧
      (t.m.core c).status.getLsbD 3 = x.status.getLsbD 2 ∧
      (t.m.core c).th.pc = ((SMap.getD s.m.ic.vec c.toNat 0).truncate 32 : BitVec 32) &&& 0x3FFFC ∧
      t.m.ic.now.pend.getLsbD e.src.toNat = (s.m.ic.now.pend.getLsbD e.src.toNat &&
        (s.m.setsOf (.pend (e.src.toNat / 64))).getLsbD (e.src.toNat % 64)) ∧ t.m.ic.now.act.getLsbD e.src.toNat = true)

/-- Locks: a request of an agent's own identity takes a free lock, the lowest of those of one hub cycle, and enters the agent among the waiters of a lock another owns; a 0 from the owner frees it; a lease that reaches its limit frees the lock and counts. Log entry 55 names what the model reads or chooses in it. -/
def Obligations.LockBank : Prop :=
  ∀ (s : State) (n ident : Byte), 
    ((s.m.lock n).owner = 0 → ident ≠ 0 → ∃ t, exec (.lockReq n ⟨ident, ident⟩ [] false) s = .next t ∧
      (t.m.lock n).owner = ident ∧ (t.m.lock n).age = 0 ∧ (t.m.lock n).leaseNow = (s.m.lock n).lease ∧
      ∀ k, k ≠ n → t.m.lock k = s.m.lock k) ∧
    ((s.m.lock n).owner = 0 → ∀ a b : Byte, a ≠ 0 → a.toNat < b.toNat →
      ∃ t, exec (.lockReq n ⟨b, b⟩ [⟨a, a⟩] false) s = .next t ∧ (t.m.lock n).owner = a) ∧
    ((s.m.lock n).owner ≠ 0 → (s.m.lock n).owner ≠ ident → ident ≠ 0 → ∀ b, Mach.waiterBit ident.toNat = some b → b < 27 →
      ∃ t, exec (.lockReq n ⟨ident, ident⟩ [] false) s = .next t ∧ (t.m.lock n).owner = (s.m.lock n).owner ∧
        (t.m.lock n).waiters.getLsbD b = true) ∧
    ((s.m.lock n).owner = ident → ∃ t, exec (.lockReq n ⟨ident, 0⟩ [] false) s = .next t ∧ (t.m.lock n).owner = 0 ∧
      (t.m.lock n).waiters = 0) ∧
    ((s.m.lock n).owner ≠ 0 → (s.m.lock n).leaseNow ≠ 0 → (s.m.lock n).leaseNow.toNat * 1500 ≤ (s.m.lock n).age →
      ∃ t, exec (.leaseExpiry ⟨n, []⟩) s = .next t ∧ (t.m.lock n).owner = 0 ∧
        (t.m.lock n).expiries = min 65535 ((s.m.lock n).expiries + 1))

/-! Rollback, the journal, the horizon and paced mode (chapters 7 to 9) -/

/-- A rollback that starts for a node with uncommitted speculative firings at or after its key leaves the tile's queue, advances the node's generation, counts, gives held values and last firing tag what the settled record and the earlier FIRED groups hold, restores the state words of the firing undone, forms an anti-token of the recorded generation for every arc of every emission undone, frees their journal entries and asks for the rollback sweep of the PE. Log entries 31 and 32 name what the model reads or chooses in it. -/
def Sys2Proof.Claim.RollbackUndoesFirings : Prop :=
  ∀ (s : State) (t : TileId) (q : RbReq) (rest : List RbReq),
    let r : NRef := ⟨q.job, nodePe q.node, nodeLocal q.node⟩
    (s.m.tile t).rbq = q :: rest → s.m.rbReady q = true → s.m.live q.job = true → peTile r.pe = t → s.m.inFire r = none →
    s.m.cleanMemory → s.m.hubPath t = true → s.m.sft r = noTag → s.m.rbc r < 127 → s.m.filtered r = false →
    s.m.specHeads r q.key ≠ [] → (s.m.stAddr r + 384 ≤ s.m.recAddr r ∨ s.m.recAddr r + 64 ≤ s.m.stAddr r) →
    let earlier := (s.m.groupsOf r).filter (fun x => x.2.gstate == .fired && (s.m.tagOf q.job x.2.key).lt (s.m.tagOf q.job q.key))
    ∃ u, exec (.rollback t) s = .next u ∧ (u.m.tile t).rbq = rest ∧
      (u.m.pe r.pe).sweeps = (s.m.pe r.pe).sweeps ++ [.rollback { job := q.job, node := r.node, key := q.key }] ∧
      (∀ e ∈ (u.m.tile t).journal, ¬(e.2.job = q.job ∧ e.2.fossil = false ∧ e.2.node = node24 r.pe r.node ∧
        keyLe q.key e.2.key = true)) ∧
      (u.m.pe r.pe).ctxs = (s.m.pe r.pe).ctxs ∧ u.m.nGen r = s.m.nGen r + 1 ∧ u.m.rbc r = s.m.rbc r + 1 ∧
      (earlier = [] → u.m.nLast r = noTag ∧ ∀ k < 8, u.m.held r k = ((s.m.settled r k).1, (s.m.settled r k).2.1)) ∧
      (∀ i h, s.m.specHeads r q.key = [(i, h)] → s.m.jOf r h.key = [(i, h)] → h.written = true →
        (∀ w, (Mach.swWords (s.m.nSwmask r))[0]? = some w → u.m.recW r (4 + w) = h.undo0) ∧
        (∀ w, (Mach.swWords (s.m.nSwmask r))[1]? = some w → u.m.recW r (4 + w) = h.undo1)) ∧
      (∀ h ∈ s.m.specHeads r q.key, ∀ x ∈ s.m.jOf r h.2.key, ∀ k < 8, x.2.emask.getLsbD k = true → ∀ w ∈ s.m.arcs r k,
        ∃ e ∈ (u.m.pe r.pe).emitQ, ∃ l, e.kind = .antis l ∧ e.job = q.job ∧ e.node = r.node ∧
          ∃ y ∈ l, y.1.kind = 1 ∧ y.1.gen = x.2.gen ∧ y.1.job = q.job ∧ y.1.port = w.extractLsb' 40 3 ∧
            y.1.nodeId = w.truncate 40 ∧ y.1.w2 = 0 ∧ y.1.w3 = 0 ∧ y.2 = Mach.slotTarget (s.m.tagOf q.job h.2.key) x.2.eoff)

/-- Sweeps: a rollback sweep returns a FIRED group of its node at or after its tag to WAITING; a commit sweep frees a FIRED group of Iris below GVT and the summary holds below it. -/
def Sys2Proof.Claim.SweepsFreeOrReturnGroups : Prop :=
  (∀ (s : State) (p : PeId) (g : GRef) (rest : List Sweep) (pl : Place) (h : Entry),
    (s.m.pe p).sweeps = .rollback g :: rest → s.m.groupsOf (g.nref p) = [(pl, h)] → h.gstate = .fired →
    (s.m.tagOf g.job g.key).le (s.m.tagOf g.job h.key) = true → pl ≠ .deep → s.m.cleanMemory →
    ∃ t, exec (.commitSweep ⟨p, .good⟩) s = .next t ∧ (t.m.pe p).sweeps = rest ∧
      (∀ i e, t.m.headOf p pl h.ref = some (i, e) → e.gstate = .waiting)) ∧
  (∀ (s : State) (p : PeId) (j : JobId) (g : Tag) (rest : List Sweep) (h : Entry),
    (s.m.pe p).sweeps = .commit j g :: rest → s.m.firedBelow p j g = [(.iris, h)] → s.m.live j = true → s.m.cleanMemory →
    (∀ e ∈ s.m.tiles, e.2.pend = []) → s.m.hubPath (peTile p) = true →
    ∃ t, exec (.commitSweep ⟨p, .good⟩) s = .next t ∧ (t.m.pe p).sweeps = rest ∧
      (∀ e ∈ (t.m.pe p).iris, e.2.inGroup p h.ref = false) ∧
      (t.m.tile (peTile p)).holds = (s.m.tile (peTile p)).holds.filter
        (fun x => !(x.job == j && nodePe x.node == p && (s.m.tagOf j x.key).lt g)))

/-- Fossil collection frees every entry of the job below GVT where none of them holds a store; the store writer asks for the write of the next store of its firing, the hub writes its bytes and no others, the acknowledgement counts, and when all are acknowledged the firing's two entries are freed. Log entry 19 names what the model reads or chooses in it. -/
def Sys2Proof.Claim.FossilsAndTheStoreWriter : Prop :=
  (∀ (s : State) (t : TileId) (j : JobId),
    (∀ e ∈ (s.m.tile t).journal, ∀ x, s.m.entryStores t e.2 x = []) →
    ∃ u, exec (.fossilCollection t j) s = .next u ∧ (u.m.tile t).storeQ = (s.m.tile t).storeQ ∧
      ∀ e, e ∈ (u.m.tile t).journal → e ∈ (s.m.tile t).journal ∧
        ¬(e.2.job = j ∧ e.2.fossil = false ∧ (s.m.tagOf j e.2.key).lt (s.m.job j).gvt = true)) ∧
  (∀ (s : State) (t : TileId) (q : StoreJob) (r : NRef) (l : List SRec) (x : SRec),
    (s.m.tile t).storeQ = [q] → s.m.jobStores t q = some (r, l) → l[q.issued]? = some x → s.m.cleanMemory →
    let a := (s.m.job r.job).dmem.base + s.m.nDmBase r + x.off
    ∃ u, exec (.storeWrite t) s = .next u ∧ (u.m.tile t).storeQ = [{ q with issued := q.issued + 1 }] ∧
      (∃ y, (u.m.tile t).reqs = (s.m.tile t).reqs ++ [y] ∧ y.agent = 0x80 ∧ y.wr = true ∧ y.addr = a / 16 * 16 ∧ y.units = 1 ∧
        y.job = r.job ∧ y.what = .store q.head q.issued false ∧ y.since = s.m.coreCycle ∧ y.tid = none) ∧
      u.m.mem = s.m.mem) ∧
  (∀ (s : State) (d : BitVec 2) (br : Bool) (y : QPkt) (rest : List QPkt) (k head : Nat) (v : TReq) (r : NRef) (x : SRec),
    s.m.queue (qHub d br 2) = y :: rest → y.pkt.h.cmd = 0x11 → Mach.srcHub y.pkt.h.src = false → y.pkt.h.src.truncate 8 = (0x80 : Byte) →
    let t := Mach.srcTile y.pkt.h.src
    s.m.reqOf t y.pkt.h.tid = some v → v.what = .store head k false → s.m.storeRec t head k = some (r, x) → s.m.cleanMemory →
    y.pkt.h.arg.toNat % 16 = 0 →
    let a := (s.m.job r.job).dmem.base + s.m.nDmBase r + x.off
    ∃ u, exec (.wr d ⟨br, .good⟩) s = .next u ∧
      memBytes u.m.mem a (Mach.wBytes x.w) = natBytes (Mach.wBytes x.w) x.data.toNat ∧
      ∀ b, b < a ∨ a + Mach.wBytes x.w ≤ b → memGet u.m.mem b = memGet s.m.mem b) ∧
  (∀ (s : State) (d : BitVec 2) (stop : BitVec 5) (y : QPkt) (rest : List QPkt) (q : StoreJob) (k : Nat) (lost : Bool) (v : TReq),
    stop.toNat < 16 → s.m.queue (qEj d stop 3) = y :: rest → y.pkt.h.cmd = 0x21 →
    let t : TileId := d ++ (stop.truncate 4 : BitVec 4)
    s.m.reqOf t y.pkt.h.tid = some v → v.what = .store q.head k lost → (s.m.tile t).storeQ = [q] →
    ∃ u, exec (.wrAck (.stop d stop)) s = .next u ∧ (u.m.tile t).storeQ = [{ q with acked := q.acked + 1 }]) ∧
  (∀ (s : State) (t : TileId) (q : StoreJob) (rest : List StoreJob) (r : NRef) (l : List SRec),
    (s.m.tile t).storeQ = q :: rest → s.m.jobStores t q = some (r, l) → l.length ≤ q.acked →
    ∃ u, exec (.storeAck t) s = .next u ∧ (u.m.tile t).storeQ = rest ∧
      (u.m.tile t).journal = (s.m.tile t).journal.filter (fun e => !(e.1 ∈ [q.head, q.tail])))

/-- A rescan that runs sets the registers of a MOB for the job to the least tag, with and without lookahead, over its groups that are not FIRED and those of the groups added since it started. Log entry 30 names what the model reads or chooses in it. -/
def Sys2Proof.Claim.RescanTakesLeastTags : Prop :=
  ∀ (s : State) (c : ClusterId) (j : JobId), (SMap.getD (s.m.cluster c).hreg j.toNat {}).rescan ≠ 0 → s.m.ms.sramFlaw = [] →
    let l := (s.m.cluster c).mob.filter (fun e => e.2.head && e.2.job == j && e.2.gstate != .fired)
    let h := SMap.getD (s.m.cluster c).hreg j.toNat {}
    ∃ t, exec (.mobRescan false c j) s = .next t ∧
      SMap.getD (t.m.cluster c).hreg j.toNat {} =
        { least := minTag ((minTag (l.map (fun e => s.m.tagOf j e.2.key))).toList ++ h.added.toList),
          leastL := minTag ((minTag (l.map (fun e => plusLa (s.m.tagOf j e.2.key)
            (s.m.lookahead j ((c.extractLsb' 4 6 : BitVec 6) ++ e.2.locPe))))).toList ++ h.addedL.toList),
          rescan := h.rescan - 1, added := none, addedL := none } ∧
      (t.m.cluster c).mob = (s.m.cluster c).mob

/-- Rollbacks, sweeps, fossil collection, store writes and rescans: the statements above, together. -/
def Obligations.RollbackAndSweeps : Prop := Claim.RollbackUndoesFirings ∧ Claim.SweepsFreeOrReturnGroups ∧ Claim.FossilsAndTheStoreWriter ∧ Claim.RescanTakesLeastTags

/-- A snapshot samples, for every live job, the least of the terms of Table 9-1 for GVT and for SH, changes neither, begins the injection windows anew and counts the governor period down. Log entry 24 names what the model reads or chooses in it. -/
def Sys2Proof.Claim.SnapshotsSampleTheTerms : Prop :=
  ∀ (s : State), s.m.serving = true → ∃ t, exec .horizonSnapshot s = .next t ∧
    (∀ j, s.m.live j = true → (t.m.job j).sampled = true ∧ (t.m.job j).sampG = minTag (s.m.horizonTerms j).1 ∧
      (t.m.job j).sampS = minTag (s.m.horizonTerms j).2 ∧
      (∀ v, Claim.Term s.m j false v → ∃ g, (t.m.job j).sampG = some g ∧ g.le v = true) ∧
      (∀ g, (t.m.job j).sampG = some g → Claim.Term s.m j false g) ∧
      (∀ v, Claim.Term s.m j true v → ∃ g, (t.m.job j).sampS = some g ∧ g.le v = true) ∧
      (∀ g, (t.m.job j).sampS = some g → Claim.Term s.m j true g)) ∧
    (∀ j, (t.m.job j).gvt = (s.m.job j).gvt ∧ (t.m.job j).sh = (s.m.job j).sh ∧ (t.m.job j).state = (s.m.job j).state) ∧
    (∀ d k, (t.m.stop d k).used = []) ∧ t.m.govLeft = s.m.govLeft - 1

/-- A delivery to a running job that no pause holds: GVT and SH rise to the reduced values and never fall, and every PE with nodes of the job has the commit sweep for the new GVT. A void reduction delivers nothing. Log entries 24, 26 and 83 name what the model reads or chooses in it. -/
def Sys2Proof.Claim.DeliveriesRaiseTheHorizon : Prop :=
  (∀ (s : State) (j : JobId) (g h : Tag), (s.m.job j).sampled = true → (∀ k, k ≠ j → (s.m.job k).sampled = false) →
    (s.m.job j).sampG = some g → (s.m.job j).sampS = some h → (s.m.job j).state = .run → (s.m.job j).pause = none →
    s.m.spanning j = false → s.m.wave.snap = false → s.m.wave.active = false → s.m.coll = [] → (s.m.job j).gvt.lt g = true →
    g.time ≠ BitVec.allOnes 64 →
    ∃ t, exec (.horizonDelivery none) s = .next t ∧ (t.m.job j).gvt = g ∧ (t.m.job j).sh = (s.m.job j).sh.max h ∧
      (t.m.job j).state = .run ∧ ∀ p ∈ s.m.jobPes j, Sweep.commit j g ∈ (t.m.pe p).sweeps) ∧
  (∀ (s : State) (v : BitVec 3), s.m.serving = true → v.toNat < 4 → s.m.dieOut.getLsbD v.toNat = false →
    SMap.getD s.m.voidRun v.toNat 0 + 1 < 256 → s.m.wave.active = false →
    ∃ t, exec (.horizonDelivery (some v)) s = .next t ∧ (∀ j, (t.m.job j).sampled = false ∧ (t.m.job j).gvt = (s.m.job j).gvt
      ∧ (t.m.job j).sh = (s.m.job j).sh) ∧ t.m.voidRun = [(v.toNat, SMap.getD s.m.voidRun v.toNat 0 + 1)])

/-- At the end of a governor period every tile's W for an active job is at most the job's WINDOW, its measurements start anew, and the next period begins. Log entry 29 names what the model reads or chooses in it. -/
def Sys2Proof.Claim.GovernorPeriodsBoundTheWindow : Prop :=
  ∀ (s : State), s.m.serving = true → s.m.govLeft = 0 → ∃ t, exec .governorPeriod s = .next t ∧
    t.m.govLeft = s.m.objD 0x2400 0x01 16 ∧
    (∀ k, (t.m.tile k).peak = (t.m.tile k).journal.length ∧ (t.m.tile k).pSpec = [] ∧ (t.m.tile k).pRb = []) ∧
    (∀ j k, s.m.active j k = true → (SMap.getD (t.m.tile k).win j.toNat 0).toNat ≤ s.m.window j) ∧
    (∀ k, (t.m.tile k).journal = (s.m.tile k).journal)

/-- The stall watchdog: when GVT of a running job has stood for STALL_LIMIT_US and STALL_ACTION is 0, the holders of the GVT tag are reported, once for this GVT, and nothing else of the job changes. Log entries 62 and 72 name what the model reads or chooses in it. -/
def Sys2Proof.Claim.StallsAreReported : Prop :=
  ∀ (s : State) (j : JobId), (s.m.job j).state = .run → (s.m.job j).stallRaised = false →
    (s.m.job j).stallFrom + s.m.jobObj j 0x20 100000 * 1000 ≤ s.m.wall → s.m.jobObj j 0x21 1 = 0 →
    ∃ t, exec (.stallEvent j) s = .next t ∧
      t.m.job j = { s.m.job j with stallRaised := true, stallReport := (s.m.holders j).flatMap wordsBytes }

/-- Snapshots of the terms of Table 9-1, horizon deliveries, the window governor and the stall watchdog (log entries 24, 29, 62): the statements above, together. -/
def Obligations.Horizons : Prop := Claim.SnapshotsSampleTheTerms ∧ Claim.DeliveriesRaiseTheHorizon ∧ Claim.GovernorPeriodsBoundTheWindow ∧ Claim.StallsAreReported

/-- Paced mode: the selected edge of TGT_CLK of a running paced job counts, stores the inputs, advances the ceiling by one and says whether GVT was late. Log entry 34 names what the model reads or chooses in it. -/
def Sys2Proof.Claim.TargetEdges : Prop :=
  ∀ (s : State) (rising : Bool) (ins : BitVec 16) (j : JobId), s.m.objD 0x2500 0x06 0xFF = j.toNat →
    (s.m.objD 0x2500 0x07 1 == 1) = rising → (s.m.job j).paced = true → (s.m.job j).state = .run →
    (s.m.modJob j (fun x => { x with edge := x.edge + 1 })).tgtLag j < 16 → s.m.cleanMemory → (∀ k, s.m.hubPath k = true) →
    ∃ t, exec (.targetEdge rising ins) s = .next t ∧ (t.m.job j).edge = (s.m.job j).edge + 1 ∧ t.m.tgt.ins = ins ∧
      t.m.tgt.late = (s.m.job j).gvt.lt (s.m.ceiling j (s.m.job j).edge)

/-- SYNC_IN raises source 166 and in SYNC_MODE 2 steps WALLTIME up to SYNC_IN_VALUE; SYNC_OUT is driven for 64 hub cycles when WALLTIME has crossed a multiple of its period. -/
def Sys2Proof.Claim.SyncPins : Prop :=
  ∀ (s : State),
    (s.m.ic.kept = none → ∃ t, exec .syncInEdge s = .next t ∧ t.m.ic.now.pend.getLsbD 166 = true ∧
      (s.m.wallRun = true → s.m.objD 0x2500 0x03 1 = 2 → s.m.wall ≤ s.m.objD 0x2500 0x04 0 →
        t.m.wall = s.m.objD 0x2500 0x04 0)) ∧
    (s.m.pw.pgood = true → s.m.objD 0x2500 0x05 0 ≠ 0 → s.m.wall / s.m.objD 0x2500 0x05 0 ≠ s.m.pw.syncWall / s.m.objD 0x2500 0x05 0 →
      ∃ t, exec .syncOutPulse s = .next t ∧ t.m.pw.syncOut = 64 ∧ t.m.wall = s.m.wall)

/-- Target edges (log entry 34) and the SYNC pins: the statements above, together. -/
def Obligations.TargetPortAndSyncPins : Prop := Claim.TargetEdges ∧ Claim.SyncPins

/-! Scrubbing, patches and the remap table (chapter 11) -/

/-- The scrubbers: a waiting write-back clears its word's flaw; the SRAM scrubber goes on to the next word and corrects a hub SRAM word that can be corrected; the HBM scrubber does the same for halves. Log entries 40 and 41 name what the model reads or chooses in it. -/
def Sys2Proof.Claim.ScrubbersCorrectAndAdvance : Prop :=
  (∀ (s : State) (d loc : Nat) (rest : List (Nat × Nat)), s.m.ms.wbQ = (d, loc) :: rest →
    ∃ t, exec .correctedWriteback s = .next t ∧ t.m.ms.wbQ = rest ∧ SMap.get? t.m.ms.sramFlaw (d * 2 ^ 32 + loc) = none ∧
      t.m.mem = s.m.mem) ∧
  (∀ (s : State), s.m.pw.pgood = true → s.m.ms.sramPos ≠ 0 → ∃ t, exec .sramScrub s = .next t ∧
    t.m.ms.sramPos = (if s.m.ms.sramPos + 1 < sramTotal then s.m.ms.sramPos + 1 else 0) ∧
    (∀ a, scrubWord s.m.ms.sramPos = .hub a → Mach.sramCheck (SMap.getD s.m.ms.hubFlaw a 0) = .corrected →
      SMap.get? t.m.ms.hubFlaw a = none)) ∧
  (∀ (s : State), s.m.pw.pgood = true → s.m.ms.hbmPos ≠ 0 → ∃ t, exec .hbmScrub s = .next t ∧
    t.m.ms.hbmPos = (if 32 * s.m.ms.hbmPos + 32 < hbmSize s.m.part then s.m.ms.hbmPos + 1 else 0) ∧
    (s.m.halfCheck (32 * s.m.ms.hbmPos) = .corrected → t.m.halfCheck (32 * s.m.ms.hbmPos) = .clean) ∧
    (s.m.halfCheck (32 * s.m.ms.hbmPos) = .bad → (∀ j, (s.m.job j).state = .empty) →
      t.m.halfCheck (32 * s.m.ms.hbmPos) = .poison))

/-- The Patch Table: an entry not in use that takes a free word of a structure serves it from then on, PT_DATA holding the content of a word without errors; an entry written with V = 0 keeps the word's content in PT_DATA and serves nothing. Log entry 42 names what the model reads or chooses in it. -/
def Sys2Proof.Claim.PatchesServeTheirWord : Prop :=
  ∀ (s : State) (die : BitVec 2) (e : BitVec 5) (loc : BitVec 32),
    let v : Word := loc.zeroExtend 64
    Mach.locKind loc.toNat < 5 → v &&& 0xFFFC1FFF = v → Mach.locWord loc.toNat < Mach.locWords (Mach.locKind loc.toNat) →
    s.m.ptNamed die e.toNat loc.toNat = false →
    (s.m.ptLoc die e.toNat = 0 → ∃ t, exec (.patchInstall die e v) s = .next t ∧
      (t.m.ptLoc die e.toNat).getLsbD 32 = true ∧ bits (t.m.ptLoc die e.toNat) 31 0 = loc.toNat ∧
      ¬((die.toNat, loc.toNat) ∈ t.m.ms.wbQ) ∧
      (SMap.getD s.m.ms.sramFlaw (die.toNat * 2 ^ 32 + loc.toNat) 0 = 0 → t.m.ptData die e.toNat = s.m.sramContent die loc.toNat)) ∧
    (s.m.ptLoc die e.toNat = at64 1 32 ||| v → ∃ t, exec (.patchEnd die e v) s = .next t ∧
      (t.m.ptLoc die e.toNat).getLsbD 32 = false ∧ t.m.ptData die e.toNat = s.m.sramContent die loc.toNat)

/-- The HBM Remap Table: enabling an entry starts its copy, the copy's end leaves the source's addresses with the bytes they had, and ending a remap gives the source's addresses the bytes of the source unit itself. Log entry 40 names what the model reads or chooses in it. -/
def Sys2Proof.Claim.RemapsMoveUnits : Prop :=
  (∀ (s : State) (e : BitVec 6) (v : Word), s.m.ms.remap = [] → s.m.ms.zeroW = [] →
    let w := (v ||| 0x8000000000000000) &&& 0x807FFFFFF7FFFFFF
    (Mach.remapSrc w).2.2 < s.m.unitsPerPc → (Mach.remapSpr w).2.2 < s.m.unitsPerPc →
    ∃ t, exec (.remapEnable e v) s = .next t ∧ t.m.ms.remap = [(e.toNat, w)] ∧ e.toNat ∈ t.m.ms.copying ∧
      t.m.mem = s.m.mem) ∧
  (∀ (s : State) (e : BitVec 6), e.toNat ∈ s.m.ms.copying → Memory.wf s.m.mem = true → s.m.ms.zeroW = [] →
    let src := Mach.remapSrc (SMap.getD s.m.ms.remap e.toNat 0)
    ∃ t, exec (.remapCopyComplete e) s = .next t ∧ ¬(e.toNat ∈ t.m.ms.copying) ∧ t.m.unitBytes src = s.m.unitBytes src) ∧
  (∀ (s : State) (e : BitVec 6) (w : Word), s.m.ms.remap = [(e.toNat, w)] → w.getLsbD 63 = true →
    w &&& 0x807FFFFFF7FFFFFF = w → s.m.ms.copying = [] → Mach.remapSrc w ≠ Mach.remapSpr w → Memory.wf s.m.mem = true → s.m.ms.zeroW = [] →
    (Mach.remapSrc w).2.2 < s.m.unitsPerPc → (Mach.remapSpr w).2.2 < s.m.unitsPerPc →
    ∃ t, exec (.remapEnd e w) s = .next t ∧ t.m.ms.remap = [(e.toNat, w &&& ~~~0x8000000000000000)] ∧
      t.m.unitBytes (Mach.remapSrc w) = s.m.unitBytes (Mach.remapSpr w) ∧ t.m.unitBytes (Mach.remapSpr w) = s.m.unitBytes (Mach.remapSrc w))

/-- Scrubbers, patches and remaps (log entries 40 to 42): the statements above, together. -/
def Obligations.RepairOfMemory : Prop := Claim.ScrubbersCorrectAndAdvance ∧ Claim.PatchesServeTheirWord ∧ Claim.RemapsMoveUnits

/-! Probe streams (chapter 16) -/

/-- The collector takes the message whose packet heads a bridge link's queue at the hub die, and acknowledges it: it holds an item, unless a cancel that came first drops it, and a cancel drops the items of the undone firings. Log entries 19 and 71 name what the model reads or chooses in it. -/
def Sys2Proof.Claim.CollectorHoldsItems : Prop :=
  ∀ (s : State) (t : TileId) (br : Bool) (y : QPkt) (rest : List QPkt),
    let h := y.pkt.h
    let back := qToDie (Mach.tileDie t) (s.m.switchFor (Mach.tileDie t) (Mach.tileStop t)) 3
    let acked := fun (u : State) => u.m.queue (qHub (Mach.tileDie t) br 2) = rest ∧
      (u.m.queue back).map (fun z => (z.pkt.h.cmd, z.pkt.h.tid))
        = (s.m.queue back).map (fun z => (z.pkt.h.cmd, z.pkt.h.tid)) ++ [(0x21, h.tid)]
    s.m.queue (qHub (Mach.tileDie t) br 2) = y :: rest → (br = true → s.m.queue (qHub (Mach.tileDie t) false 2) = []) →
    h.cmd = 0x11 → h.src = Mach.srcOf (Mach.tileDie t) (Mach.tileStop t) 0x81 →
    (∀ (x : PItem) (c : Nat), s.m.pmsgs = [⟨.item t x, some h.tid, c⟩] → (s.m.job x.job).state ≠ .empty →
      s.m.probeOvf.getLsbD x.job.toNat = false → s.m.itemsHeld x.job < 131072 →
      ∃ u, exec (.probeItem t) s = .next u ∧ acked u ∧ u.m.coll = s.m.coll ++ (if s.m.cancelled x then [] else [(t, x)])) ∧
    (∀ (j : JobId) (node : NodeId) (tag : Tag) (g : Byte) (c : Nat), s.m.pmsgs = [⟨.cancel t j node tag g, some h.tid, c⟩] →
      ∃ u, exec (.probeCancel t) s = .next u ∧ acked u ∧
        u.m.coll = s.m.coll.filter (fun x => !Mach.cancels j node tag g x.2))

/-- The writer of a stream: an offered item enters a front end with room, is written into the open packet when space allows, a closed packet joins those HBM has not acknowledged, and an acknowledgement advances STR_WRITE by the packet's length. Log entry 71 names what the model reads or chooses in it. -/
def Sys2Proof.Claim.StreamsWriteItems : Prop :=
  ∀ (s : State) (n : BitVec 6),
    let x := s.m.stream n.toNat
    (∀ i rest, x.offered = i :: rest → x.front.length < 16 → ∃ t, exec (.frontEndPush n) s = .next t ∧
      (t.m.stream n.toNat).offered = rest ∧ (t.m.stream n.toNat).front = x.front ++ [i]) ∧
    (∀ i j rest o, x.front = i :: j :: rest → x.canPop = true → x.openPkt = some o → o.items + 1 < x.maxItems.toNat →
      i.last = false → s.m.ms.remap = [] → Memory.wf s.m.mem = true → ∃ t, exec (.itemWrite n) s = .next t ∧ (t.m.stream n.toNat).front = j :: rest ∧
        (t.m.stream n.toNat).openPkt = some { o with items := o.items + 1 } ∧
        memBytes t.m.mem (x.addr (o.at_ + 32 + 32 * o.items)) 32 = wordsBytes [i.i0, i.i1, i.i2, i.i3]) ∧
    (∀ len rest, x.unacked = len :: rest → s.m.ms.copying = [] → ∃ t, exec (.packetCommit n) s = .next t ∧
      (t.m.stream n.toNat).write = x.write + len ∧ (t.m.stream n.toNat).unacked = rest) ∧
    (∀ o, x.openPkt = some o → x.job.isSome = true → x.finalWait = none → s.m.ms.remap = [] → Memory.wf s.m.mem = true → ∃ t, exec (.close n) s = .next t ∧
      (t.m.stream n.toNat).openPkt = none ∧ (t.m.stream n.toNat).unacked = x.unacked ++ [32 + 32 * o.items] ∧
      (t.m.stream n.toNat).seq = x.seq + 1 ∧
      memWord t.m.mem (x.addr o.at_) = at64 1 56 ||| at64 o.items 32 ||| at64 (32 + 32 * o.items) 0)

/-- The counts of an owned stream: STR_READ is taken between mark and write at multiples of 32, MARK, REWIND and RELEASE copy one count to the next, and a disable drops what has not entered the front end, with the front end kept or dropped. -/
def Sys2Proof.Claim.StreamCounts : Prop :=
  ∀ (s : State) (n : BitVec 6), (s.m.stream n.toNat).job.isSome = true →
    let x := s.m.stream n.toNat
    (∀ v : Word, v.toNat % 32 = 0 → x.mark ≤ v.toNat → v.toNat ≤ x.write → ∃ t, exec (.strRead n v) s = .next t ∧
      t.m.stream n.toNat = { x with read := v.toNat }) ∧
    (∃ t, exec (.mark n) s = .next t ∧ t.m.stream n.toNat = { x with mark := x.read }) ∧
    (∃ t, exec (.rewind n) s = .next t ∧ t.m.stream n.toNat = { x with read := x.mark }) ∧
    (∃ t, exec (.release n) s = .next t ∧ (t.m.stream n.toNat).release = x.mark) ∧
    (x.disabled = false → (∃ t, exec (.disableFlush n) s = .next t ∧ (t.m.stream n.toNat).disabled = true ∧
        (t.m.stream n.toNat).offered = [] ∧ (t.m.stream n.toNat).front = x.front) ∧
      (∃ t, exec (.disableDiscard n) s = .next t ∧ (t.m.stream n.toNat).disabled = true ∧
        (t.m.stream n.toNat).offered = [] ∧ (t.m.stream n.toNat).front = []))

/-- Probe items (log entries 19 and 71) are collected, written to streams and read: the statements above, together. -/
def Obligations.Probes : Prop := Claim.CollectorHoldsItems ∧ Claim.StreamsWriteItems ∧ Claim.StreamCounts

/-! Fabric Links and system waves (chapters 9 and 17) -/

/-- Port states: a trained port enters IDENT and sends its Identity Frame, an abandoned attempt ends in DOWN and counts, DOWN returns to TRAINING, HELD repeats the Identity Frame, an accepted identity of both sides brings the port UP with every count at 0, those of units sent and freed too, and a refused one holds it. Sent units leave at the port in the order of sending (log entry 69). -/
def Sys2Proof.Claim.PortsTrainAndIdentify : Prop :=
  ∀ (s : State) (f : BitVec 3),
    let x := s.m.port f
    (x.state = 2 → (∃ t, exec (.trainingComplete f) s = .next t ∧ (t.m.port f).state = 3 ∧
        t.m.sent = s.m.sent ++ [.link f (s.m.identity f)]) ∧
      (∃ t, exec (.trainingAbandon f) s = .next t ∧ (t.m.port f).state = 1 ∧
        t.m.objD (0x6020 + f.toNat) 0x0A 0 = (s.m.objD (0x6020 + f.toNat) 0x0A 0 + 1) % 2 ^ 64)) ∧
    (x.state = 1 → ∃ t, exec (.downTimeout f) s = .next t ∧ t.m.port f = { x with state := 2 }) ∧
    (x.state = 6 → ∃ t, exec (.identityFrameTimer f) s = .next t ∧ t.m.port f = x ∧
      t.m.sent = s.m.sent ++ [.link f (s.m.identity f)]) ∧
    (∀ u : List (BitVec 128), x.state = 3 → bits (u.headD 0) 127 126 = 3 →
      (s.m.identityReason u = 0 → x.gotAccept = false → (∀ e ∈ s.m.map, e.2.serial ≠ some (u.getD 1 0)) →
        ∃ t, exec (.identityFrame f u) s = .next t ∧ (t.m.port f).sentAccept = true ∧
          (t.m.port f).peer.toNat = ubits u 0 119 112 ∧
          t.m.sent = s.m.sent ++ [.link f (Mach.identAckSym (BitVec.ofNat 8 (ubits u 0 119 112)) true 0)]) ∧
      (s.m.identityReason u = 1 → ∃ t, exec (.identityFrame f u) s = .next t ∧ (t.m.port f).state = 6 ∧
        t.m.sent = s.m.sent ++ [.link f (Mach.identAckSym (BitVec.ofNat 8 (ubits u 0 119 112)) false 1)])) ∧
    (∀ u : List (BitVec 128), symOk u = true → symCode u = 0x05 → x.state = 3 → ubits u 0 117 110 = s.m.number.toNat →
      ((u.headD 0).getLsbD 109 = true → x.sentAccept = true → s.m.lost = [] → ∃ t, exec (.identAck f u) s = .next t ∧
        (t.m.port f).state = 4 ∧ (t.m.port f).txSeq = 0 ∧ (t.m.port f).rxSeq = 0 ∧ (t.m.port f).replay = [] ∧
        (t.m.port f).sent = [] ∧ (t.m.port f).freed = [] ∧ (t.m.port f).rxFreed = [] ∧ (t.m.port f).rxTold = [] ∧
        (t.m.port f).ledger = [] ∧ (t.m.port f).replays = 0) ∧
      ((u.headD 0).getLsbD 109 = false → ∃ t, exec (.identAck f u) s = .next t ∧ (t.m.port f).state = 6))

/-- Heartbeats of a port from IDENT on: each sent carries the next number, one received clears the missed beats, and the third missed beat in a row puts the port DOWN. Log entry 69 names what the model reads or chooses in it. -/
def Sys2Proof.Claim.HeartbeatsKeepThePort : Prop :=
  ∀ (s : State) (f : BitVec 3), 3 ≤ (s.m.port f).state.toNat →
    let x := s.m.port f
    (x.hbWall = none → ∃ t, exec (.heartbeatSend f) s = .next t ∧ (t.m.port f).beat = x.beat + 1 ∧
      t.m.sent = s.m.sent ++ [.link f (symbol 0x06 [at128 x.beat.toNat 102 ||| at128 (s.m.wall % 2 ^ 64) 32,
        at128 0 64 ||| at128 0 32])]) ∧
    (∀ u, symOk u = true → symCode u = 0x06 → ∃ t, exec (.heartbeat f u) s = .next t ∧ (t.m.port f).missed = 0 ∧
      (t.m.port f).hbWall = some (BitVec.ofNat 64 (ubits u 0 95 32), s.m.wall)) ∧
    (x.missed + 1 < 3 → ∃ t, exec (.heartbeatExpiry f) s = .next t ∧ t.m.port f = { x with missed := x.missed + 1 }) ∧
    (3 ≤ x.missed + 1 → ∃ t, exec (.heartbeatExpiry f) s = .next t ∧ (t.m.port f).state = 1)

/-- Fabric ports train, identify themselves and keep their heartbeat (log entry 69): the statements above, together. -/
def Obligations.FabricPorts : Prop := Claim.PortsTrainAndIdentify ∧ Claim.HeartbeatsKeepThePort

/-- Sending on a port in UP: a frame to be resent goes first, a new frame takes the next SEQ and joins the replay buffer, an ACK frees what it covers, a NAK and a replay timeout resend, the fifth timeout retrains, and a calibration window, which holds the transmitter, and a RETRAIN end in a replay from the oldest frame. A frame carries one packet (log entry 67). -/
def Sys2Proof.Claim.FramesAreSentAndReplayed : Prop :=
  ∀ (s : State) (f : BitVec 3),
    let x := s.m.port f
    let replays := fun (t : State) => (t.m.port f).replay = x.replay ∧ ∀ y r, x.replay = y :: r →
      (t.m.port f).resend = (x.replay.filter (fun z => seqLe y.seq z.seq)).map (·.seq)
    (x.state = 4 → x.window = false →
      (∀ q r fr, x.resend = q :: r → x.replay.find? (fun y => y.seq == q) = some fr →
        ∃ t, exec (.frameSend f) s = .next t ∧ (t.m.port f).resend = r ∧ t.m.sent = s.m.sent ++ [.link f (frameUnits fr)]) ∧
      (∀ vc c q, x.resend = [] → s.m.cycle / 4096 = x.win → s.m.portPick x = (some (vc, c, q), []) →
        (isTok q.pkt.h.cmd && !s.m.live q.pkt.h.job) = false →
        let fr : LinkFrame := { seq := x.txSeq, vc := BitVec.ofNat 2 vc, units := q.pkt.hdr :: q.pkt.data }
        ∃ t, exec (.frameSend f) s = .next t ∧ (t.m.port f).txSeq = x.txSeq + 1 ∧ (t.m.port f).replay = x.replay ++ [fr] ∧
          t.m.sent = s.m.sent ++ [.link f (frameUnits fr)]) ∧
      (∀ y r, x.replay = y :: r → (x.replays < 4 → ∃ t, exec (.replayTimeout f) s = .next t ∧
          (t.m.port f).resend = (x.replay.filter (fun z => seqLe y.seq z.seq)).map (·.seq) ∧
          (t.m.port f).replays = x.replays + 1) ∧
        (4 ≤ x.replays → ∃ t, exec (.replayTimeout f) s = .next t ∧ (t.m.port f).state = 5)) ∧
      (x.calRx = none → ∃ t, exec (.calibrationTrigger f) s = .next t ∧ (t.m.port f).calRx = some s.m.wall ∧
        t.m.sent = s.m.sent ++ [.link f (symbol 0x07 [0])]) ∧
      (∀ u, symOk u = true → symCode u = 0x07 → x.calTx = none → ∃ t, exec (.calReq f u) s = .next t ∧
        (t.m.port f).window = true ∧ (t.m.port f).calTx = some s.m.wall)) ∧
    (x.window = true → ∃ t, exec (.calibrationWindowEnd f) s = .next t ∧ (t.m.port f).window = false ∧ replays t) ∧
    (x.state = 5 → ∃ t, exec (.retrainComplete f) s = .next t ∧ (t.m.port f).state = 4 ∧ replays t) ∧
    (∀ u, s.m.linked f = true → symOk u = true →
      let q : BitVec 12 := BitVec.ofNat 12 (ubits u 0 117 106)
      (symCode u = 0x01 → ∃ t, exec (.ack f u) s = .next t ∧
        (t.m.port f).replay = x.replay.filter (fun y => !seqLe y.seq q) ∧
        (t.m.port f).resend = x.resend.filter (fun y => !seqLe y q)) ∧
      (symCode u = 0x02 → ∃ t, exec (.nak f u) s = .next t ∧
        (t.m.port f).resend = (x.replay.filter (fun y => seqLe q y.seq)).map (·.seq)))

/-- Receiving on a port in UP: a frame in order advances the expected SEQ and its peer message goes to the hub, a duplicate is acknowledged again, a gap is answered with one NAK, and symbols corrected on the way are counted; ACK, CREDIT and PAUSE follow their timers and symbols. Log entry 67 names what the model reads or chooses in it. -/
def Sys2Proof.Claim.FramesAreReceived : Prop :=
  ∀ (s : State) (f : BitVec 3),
    let x := s.m.port f
    (∀ (u : List (BitVec 128)) (n : BitVec 16) (fr : LinkFrame), x.state = 4 → bits (u.headD 0) 127 126 = 1 → frameOf u = some fr →
      (∀ p, fr.seq = x.rxSeq → framePackets 16 fr.units = [p] → isTok p.h.cmd = false → fabricBad p fr.vc = false →
        dstModule p = s.m.number → (∀ vc, SMap.getD x.rxq vc [] = []) → s.m.hubTerms.length ≤ 16384 →
        ∃ t, exec (.dataFrame f ⟨u, n⟩) s = .next t ∧ (t.m.port f).rxSeq = x.rxSeq + 1 ∧ t.m.peerQ = s.m.peerQ ++ [(f, p)]) ∧
      (fr.seq ≠ x.rxSeq → seqLe fr.seq x.rxSeq = true → ∃ t, exec (.dataFrame f ⟨u, n⟩) s = .next t ∧
        (t.m.port f).rxSeq = x.rxSeq ∧ t.m.sent = s.m.sent ++ [.link f (symbol 0x01 [at128 (x.rxSeq - 1).toNat 106])]) ∧
      (seqLe fr.seq x.rxSeq = false → x.nakked = false → ∃ t, exec (.dataFrame f ⟨u, n⟩) s = .next t ∧
        t.m.objD (0x6020 + f.toNat) 0x05 0 = (s.m.objD (0x6020 + f.toNat) 0x05 0 + n.toNat) % 2 ^ 64 ∧
        (t.m.port f).rxSeq = x.rxSeq ∧ (t.m.port f).nakked = true ∧
        t.m.sent = s.m.sent ++ [.link f (symbol 0x02 [at128 x.rxSeq.toNat 106])])) ∧
    (s.m.linked f = true → x.ackOwed ≠ 0 → ∃ t, exec (.ackTimer f) s = .next t ∧ (t.m.port f).ackOwed = 0 ∧
      t.m.sent = s.m.sent ++ [.link f (symbol 0x01 [at128 (x.rxSeq - 1).toNat 106])]) ∧
    (s.m.linked f = true → (∀ vc, SMap.getD x.rxq vc [] = []) → ∃ t, exec (.creditTimer f) s = .next t ∧
      (t.m.port f).rxTold = x.rxFreed) ∧
    (∀ u, s.m.linked f = true → symOk u = true → symCode u = 0x03 → ∃ t, exec (.credit f u) s = .next t ∧
      SMap.getD (t.m.port f).freed 0 0 = BitVec.ofNat 16 (ubits u 0 111 96) ∧
      SMap.getD (t.m.port f).freed 3 0 = BitVec.ofNat 16 (ubits u 0 63 48)) ∧
    (∀ u, x.state = 4 → symOk u = true → symCode u = 0x04 → ∃ t, exec (.pause f u) s = .next t ∧
      ∀ vc < 3, SMap.getD (t.m.port f).paused vc 0
        = if (u.headD 0).getLsbD (99 + vc) then ubits u 0 117 102 else SMap.getD x.paused vc 0) ∧
    (∀ vc : BitVec 2, ∃ t, exec (.pauseExpiry f vc) s = .next t ∧ SMap.getD (t.m.port f).paused vc.toNat 0 = 0) ∧
    (2 ≤ x.state.toNat → s.m.ic.kept = none → ∃ t, exec (.uncorrectableCodeword f) s = .next t ∧
      t.m.ic.now.pend.getLsbD (152 + f.toNat) = true ∧
      t.m.objD (0x6020 + f.toNat) 0x06 0 = (s.m.objD (0x6020 + f.toNat) 0x06 0 + 1) % 2 ^ 64)

/-- Data frames are sent, acknowledged, replayed and received (log entry 67): the statements above, together. -/
def Obligations.FabricFrames : Prop := Claim.FramesAreSentAndReplayed ∧ Claim.FramesAreReceived

/-- Peer messages: a newer LINK_STATE of a neighbour changes the map, RESYNC settles a lost link's frames and its absence gives them up, a relayed acknowledgement releases ledger records, a peer takes a free lock through the proxy, wakes are passed on, and a JOB_CHECK that matches is remembered; a routing entry takes the value written. Log entries 68 and 69 name what the model reads or chooses in it. -/
def Obligations.PeerMessagesActOnce : Prop :=
  ∀ (s : State) (f : BitVec 3) (p : Packet),
    let u := p.data.headD 0
    (s.m.peerQ = [(f, p)] → Mach.peerType p = 0x04 → p.h.cmd = 0x30 → bits u 127 120 ≠ s.m.number.toNat →
      SMap.get? s.m.map (bits u 127 120) = none → bits u 127 120 ∈ (mapPorts s.m.map s.m.number.toNat).map (·.2) →
      ∃ t, exec .linkState s = .next t ∧ t.m.peerQ = [] ∧
        (SMap.getD t.m.map (bits u 127 120) {}).version = u.extractLsb' 104 16) ∧
    (∀ x, s.m.lost = [x] → x.synced = false →
      (s.m.peerQ = [(f, p)] → Mach.peerType p = 0x05 → p.h.cmd = 0x30 → x.peer = Mach.peerFrom p → x.peerPort.toNat = bits u 103 101 →
        ∃ t, exec .resync s = .next t ∧ t.m.peerQ = [] ∧
          ∀ y ∈ t.m.lost, y.synced = true ∧ y.replay = [] ∧ y.wait = [] ∧ y.ledger = x.ledger.filter
            (fun r => !seqLe r.seq (u.extractLsb' 104 12) && seqLe r.seq (u.extractLsb' 116 12))) ∧
      (∃ t, exec (.resyncTimeout x.port) s = .next t ∧ t.m.lost = [])) ∧
    (∀ x, s.m.lost = [x] → s.m.peerQ = [(f, p)] → Mach.peerType p = 0x07 → p.h.cmd = 0x30 → x.peer = Mach.peerFrom p →
      x.peerPort.toNat = bits u 115 113 → ∃ t, exec .frameAckRelay s = .next t ∧ t.m.peerQ = [] ∧
        ∀ y ∈ t.m.lost, y.ledger = x.ledger.filter (fun r => !seqLe r.seq (u.extractLsb' 116 12))) ∧
    (s.m.peerQ = [(f, p)] → Mach.peerType p = 0x02 → p.h.cmd = 0x30 → u.getLsbD 8 = false →
      (s.m.lock (u.truncate 8)).owner = 0 → SMap.get? s.m.peerHold (u.truncate 8 : Byte).toNat = none →
      ∃ t, exec .peerLock s = .next t ∧ t.m.peerQ = [] ∧ (t.m.lock (u.truncate 8)).owner = 0x40 ∧
        SMap.get? t.m.peerHold (u.truncate 8 : Byte).toNat = some (Mach.peerFrom p)) ∧
    (∀ n r, s.m.peerWakes = n :: r → ∃ t, exec .lockWake s = .next t ∧ t.m.peerWakes = r ∧
      ∀ e ∈ t.m.peerWait, e.1 ≠ n) ∧
    (∀ j : JobId, s.m.peerQ = [(f, p)] → Mach.peerType p = 0x06 → p.h.cmd = 0x30 → (u.truncate 3 : BitVec 3) = j →
      (s.m.job j).state = .loaded → p.data = s.m.jobCheckData j → (s.m.job j).runPair = [] → (s.m.job j).runObj = false →
      ∃ t, exec .jobCheck s = .next t ∧ t.m.peerQ = [] ∧ Mach.peerFrom p ∈ (t.m.job j).checked) ∧
    (∀ (k : Byte) (v : Word), ∃ t, exec (.flRt k v) s = .next t ∧ SMap.getD t.m.flRt k.toNat 0 = v &&& 0xFF)

/-- System waves: the root starts one over all eight job numbers once the least interval has passed, a request from the parent begins it here and is acknowledged, a child's minima are kept, a whole result ends it, a child's pause tag reaches the root, and an acknowledgement ends the repeats of its set. Log entry 70 names what the model reads or chooses in it. -/
def Obligations.WavesGatherMinima : Prop :=
  ∀ (s : State),
    let w := s.m.wave
    (s.m.serving = true → w.root = some s.m.number → w.running = false →
        (∀ b, w.began = some b → b + s.m.objD 0x2500 0x02 0 ≤ s.m.wall) → ∃ t, exec .waveStart s = .next t ∧
        t.m.wave.num = w.num + 1 ∧ t.m.wave.running = true ∧ t.m.wave.active = true ∧ t.m.wave.began = some s.m.wall ∧
        t.m.wave.mask = 0xFF) ∧
    (∀ (f : BitVec 3) (u : List (BitVec 128)), s.m.linked f = true → symOk u = true →
      let num : BitVec 16 := BitVec.ofNat 16 (ubits u 0 117 102)
      (symCode u = 0x10 → w.parent = some f → w.children = [] → (w.taken = false ∨ num ≠ w.num) → ∃ t, exec (.hzReq f u) s = .next t ∧
        t.m.wave.num = num ∧ t.m.wave.active = true ∧ t.m.wave.mask = BitVec.ofNat 8 (ubits u 0 101 94) ∧
        t.m.sent = s.m.sent ++ [.link f (symbol 0x14 [at128 num.toNat 102 ||| at128 0 100 ||| at128 0 97])]) ∧
      (symCode u = 0x11 → f ∈ w.children → num = w.num → w.active = true → w.own = [] → ∃ t, exec (.hzUp f u) s = .next t ∧
        SMap.get? t.m.wave.kids (f.toNat * 8 + ubits u 0 101 99) = some (hzTags u)) ∧
      (symCode u = 0x12 → w.parent = some f → num = w.num → w.done ≠ some num → maskJobs w.mask = [ubits u 0 101 99] →
        ∃ t, exec (.hzDown f u) s = .next t ∧ t.m.wave.done = some num ∧ t.m.wave.active = false ∧ t.m.wave.down = []) ∧
      (symCode u = 0x13 → f ∈ w.children → w.root = some s.m.number → SMap.get? w.pauses (ubits u 0 117 115) = none →
        ∃ t, exec (.hzPause f u) s = .next t ∧ SMap.get? t.m.wave.pauses (ubits u 0 117 115)
          = some ⟨BitVec.ofNat 64 (ubits u 0 95 32), BitVec.ofNat 12 (ubits u 0 114 103)⟩) ∧
      (symCode u = 0x14 → ubits u 0 101 100 ≠ 3 → ∃ t, exec (.hzAck f u) s = .next t ∧ t.m.wave.out = w.out.filter
        (fun o => !(o.port == f && o.kind.toNat == ubits u 0 101 100 && o.wave.toNat == ubits u 0 117 102))) ∧
      (symCode u = 0x15 → ∃ t, exec (.hzFrameAck f u) s = .next t ∧ (t.m.port f).ledger = (s.m.port f).ledger.filter
        (fun r => !seqLe r.seq (BitVec.ofNat 12 (ubits u 0 117 106)))) ∧
      (symCode u = 0x16 → w.parent = some f → s.m.objD 0x2500 0x03 1 = 1 → s.m.wallRun = true →
        s.m.wall ≤ ubits u 0 95 32 + (s.m.port f).rtt / 2 → ∃ t, exec (.time f u) s = .next t ∧
          t.m.wall = ubits u 0 95 32 + (s.m.port f).rtt / 2 ∧ t.m.wallAhead = 0)) ∧
    (∀ (f : BitVec 3) (o : HzOut), s.m.linked f = true → w.out = [o] → o.port = f → ∃ t, exec (.hzRepeat f) s = .next t ∧
      t.m.sent = s.m.sent ++ o.units.map (fun u => .link f u) ∧ t.m.wave.out = [o])

/-! The object dictionary and the field bus (chapters 12 and 18) -/

/-- Writes of job objects that pass their checks: RUN, RESUME, STOP and UNLOAD move the job, PAUSE_TIME sets the pause at the later of its tag and SH, LOAD joins the queue of loads, STAGING_MIB holds the lowest place that fits, and ORPHAN_DISCARD leaves no orphaned group in Iris. Log entries 48 and 65 name what the model reads or chooses in it. -/
def Sys2Proof.Claim.JobObjectWrites : Prop :=
  ∀ (s : State) (via : Path) (j : JobId),
    let b := s.m.job j
    (s.takesWrite via (jobIdx j) 0x70 [1] → s.m.spanning j = false → ∃ t, exec (.jobCmdRun via j) s = .next t ∧
      (t.m.job j).state = .run) ∧
    (s.takesWrite via (jobIdx j) 0x70 [2] → b.state = .paused → Claim.Swept s.m j → ∃ t, exec (.jobCmdStop via j) s = .next t ∧
      (t.m.job j).state = .halted) ∧
    (s.takesWrite via (jobIdx j) 0x70 [3] → ∃ t, exec (.jobCmdUnload via j) s = .next t ∧ (t.m.job j).state = .empty ∧
      (t.m.job j).staging = b.staging ∧ (t.m.job j).nodeRec = {}) ∧
    (s.takesWrite via (jobIdx j) 0x42 [1] → b.state = .paused → s.m.spanning j = false → ∃ t,
      exec (.resume via j 1) s = .next t ∧ (t.m.job j).state = .run ∧ (t.m.job j).pause = none) ∧
    (∀ v : BitVec 64, s.takesWrite via (jobIdx j) 0x41 (natBytes 8 v.toNat) → v ≠ 0 → Tag.lt ⟨v, 0⟩ b.gvt = false →
      b.pause = none → ∃ t, exec (.pauseTime via j v) s = .next t ∧ (t.m.job j).pause = some (Tag.max ⟨v, 0⟩ b.sh)) ∧
    (s.takesWrite via (jobIdx j) 0x22 [1] → ∃ t, exec (.orphanDiscard via j 1) s = .next t ∧
      ∀ p ∈ s.m.jobPes j, ∀ e ∈ t.m.liveHeads p .iris j, t.m.orphaned e = false) ∧
    (s.takesWrite via (jobIdx j) 0x62 [1] → 512 ≤ s.m.jobObj j 0x61 0 → b.staging.base ≤ s.m.jobObj j 0x60 0 →
      s.m.jobObj j 0x60 0 + s.m.jobObj j 0x61 0 ≤ b.staging.base + b.staging.size → ∃ t, exec (.load via j 1) s = .next t ∧
        t.m.loads = s.m.loads ++ [(j, none, s.m.wall)]) ∧
    (∀ (v : BitVec 32) (a : Nat), s.takesWrite via (jobIdx j) 0x63 (natBytes 4 v.toNat) → v ≠ 0 → b.staging = {} →
      s.m.heldKind (·.staging) + v.toNat * 2 ^ 20 ≤ (if s.m.part = .p4830 then 2 ^ 33 else 2 ^ 34) →
      s.m.poolPlace (v.toNat * 2 ^ 20) = some a → ∃ t, exec (.stagingMib via j v) s = .next t ∧
        (t.m.job j).staging = ⟨a, v.toNat * 2 ^ 20⟩)

/-- A queued load that passes every step of Table 12-8, with the image read a second time after what the host wrote meanwhile, leaves its job LOADED; one that fails in steps 1 to 10, or in the second reading, leaves every job as it was and gives its status and offset; either way the load has left the queue. That a load is one step, between whose two readings the host's writes stand, is the model's choice (log entries 65 and 66); no unit of HBM is being copied. -/
def Sys2Proof.Claim.LoadsRunToTheirEnd : Prop :=
  ∀ (s : State) (j : JobId) (pair : Option (BitVec 6)) (since : Nat) (rest : List (JobId × Option (BitVec 6) × Nat)),
    s.m.loads = (j, pair, since) :: rest → s.m.ms.copying = [] →
    let m := (({ s.m with loads := rest }).loadStatus j 2).readImage j false
    ∃ t, exec .loadStart s = .next t ∧ t.m.loads = rest ∧ t.m.hostW = [] ∧
      let ends := fun (e : LoadErr) => t.m.jobs = s.m.jobs ∧ t.m.objD (0x4B00 + j.toNat) 0x01 0 = e.status ∧
        t.m.objD (0x4B00 + j.toNat) 0x02 0 = e.off
      (match m.loadFirst s.vault j with
        | .error e => ends e
        | .ok (raw, g, z, p) =>
          let a := m.allocate j (m.regionAsks g z p)
          let m2 := a.1.lateWrites
          (∀ e, a.2 = some e → ends e) ∧
          (a.2 = none → (∀ e, m2.loadAgain s.vault j raw z = .error e → ends e) ∧
            ∀ g2 m', m2.loadAgain s.vault j raw z = .ok g2 → m2.loadRest j g2 z p = .ok m' →
              (t.m.job j).state = .loaded ∧ t.m.objD (0x4B00 + j.toNat) 0x01 0 = 0))

/-- Steps of Table 12-8 as a load runs them. An image accepted by steps 1 to 10 has the magic number, version and header length, the header CRC and every section CRC right, a trusted signature where it is signed and none only where none is required, no feature that is not accepted, the job's tick, the module's own number, a sealed key where it is encrypted, and tiles and stream sizes within their bounds. One that can be read and fails a step first gives that step's status and the offset of the failing field. The second reading fails with CHANGED where the header or the section table differs. A region that does not fit fails with CAPACITY. A load without initial tokens sets both horizon registers to (0, 0). -/
def Sys2Proof.Claim.LoadStepsAreTableTwelveEight : Prop :=
  ∀ (m : Mach) (v : Vault) (j : JobId),
    let n := m.jobObj j 0x61 0
    let img : Img := (memBytes m.mem (m.jobObj j 0x60 0) n).toArray
    let unaccepted := fun (g : Img) => BitVec.ofNat 128 (g.num 0x20 16) &&& ~~~m.features
    (∀ raw g z p, m.loadFirst v j = .ok (raw, g, z, p) →
      raw = img ∧ raw.num 0 4 = 0x1A495A45 ∧ raw.num 4 2 = 0x0100 ∧ raw.num 6 2 = 256 ∧
      crc32 (raw.slice 0 0xFC) = BitVec.ofNat 32 (raw.num 0xFC 4) ∧ z.len = raw.num 8 8 ∧ 512 ≤ z.len ∧ z.len ≤ n ∧
      (∀ s ∈ z.secs, crc32 (raw.slice s.off s.len) = s.crc) ∧
      (if z.signed then (∃ e ∈ v.signers, e.2 = sha384 (raw.slice z.sigOff 96)) ∧ signatureOk raw z.sigOff = true else v.require = false) ∧
      unaccepted raw = 0 ∧ (z.enc = true → m.feature 4 = true) ∧ raw.num 0x30 4 = m.jobObj j 0x01 1000 ∧
      raw.num 0x34 1 = m.number.toNat ∧ (z.enc = true → ∃ k, SMap.getD v.slots z.slot .empty = .sealed k) ∧
      p.mask.getLsbD m.number.toNat = true ∧ (m.feature 6 = false → p.mask = 1#256 <<< m.number.toNat) ∧
      p.tiles &&& ~~~(BitVec.ofNat 64 (m.jobObj j 0x02 0) &&& ~~~m.ms.failTiles) = 0 ∧ (∀ e ∈ streamSizes g z, e.2 ≤ 1024)) ∧
    (m.ms.hbmFlaw = [] → m.ms.hbmPoison = [] → m.ms.hbmMisaddr = [] →
      let fails := fun (st off : Nat) => m.loadFirst v j = .error ⟨st, off⟩
      (img.num 0 4 ≠ 0x1A495A45 → fails 0x10 0) ∧
      (∀ e, imageHeader img n = .error e → e.status = 0x10 ∧ fails 0x10 e.off) ∧
      ∀ z, imageHeader img n = .ok z →
        ((∃ s ∈ z.secs, crc32 (img.slice s.off s.len) ≠ s.crc) → ∃ s ∈ z.secs, fails 0x11 (s.at_ + 4)) ∧
        ((∀ s ∈ z.secs, crc32 (img.slice s.off s.len) = s.crc) →
          (z.signed = true → (∀ e ∈ v.signers, e.2 ≠ sha384 (img.slice z.sigOff 96)) → fails 0x13 z.sigOff) ∧
          (z.signed = false → v.require = true → fails 0x13 0x35) ∧
          (imageSigned img z v = .ok () →
            (unaccepted img ≠ 0 → fails 0x16 0x20) ∧
            (unaccepted img = 0 →
              (z.enc = true → m.feature 4 = false → fails 0x16 0x35) ∧
              ((z.enc = true → m.feature 4 = true) →
                (img.num 0x30 4 ≠ m.jobObj j 0x01 1000 → fails 0x17 0x30) ∧
                (img.num 0x30 4 = m.jobObj j 0x01 1000 →
                  (img.num 0x34 1 ≠ m.number.toNat → fails 0x18 0x34) ∧
                  (img.num 0x34 1 = m.number.toNat → z.enc = true →
                    (∀ k, SMap.getD v.slots z.slot .empty ≠ .sealed k) → fails 0x14 0x36)))))) ∧
      (∀ raw z, img.slice 0 (256 + 32 * z.secs.length) ≠ raw.slice 0 (256 + 32 * z.secs.length) →
        m.loadAgain v j raw z = .error ⟨0x20, 0⟩)) ∧
    (∀ (q : Mach.RegionAsk) r, q.size ≠ 0 → q.ok = false ∨ q.top < m.heldKind q.kind + granule q.size ∨ m.poolPlace (granule q.size) = none →
      m.allocate j (q :: r) = (m, some ⟨0x1A, q.off⟩)) ∧
    (∀ g z p m', initialTokens g z p m.number = .ok [] → m.loadRest j g z p = .ok m' →
      (m'.job j).state = .loaded ∧ (m'.job j).gvt = {} ∧ (m'.job j).sh = {} ∧ (m'.job j).designId = g.slice 0x10 16 ∧
      (m'.job j).ncount = p.ncount ∧ (m'.job j).look = p.look ∧ m'.objD (0x4B00 + j.toNat) 0x04 0 = p.total)

/-- Jobs are loaded by the steps of Table 12-8, and run, paused, resumed, stopped and unloaded by their objects (log entries 48, 65, 66): the statements above, together. -/
def Obligations.JobsByObjects : Prop := Claim.JobObjectWrites ∧ Claim.LoadsRunToTheirEnd ∧ Claim.LoadStepsAreTableTwelveEight

/-- Writes of the key and signing objects that pass their checks: a key that unwraps is sealed in its empty slot and one that does not changes no slot, a slot is revoked, and the signing rules are locked. Log entry 48 names what the model reads or chooses in it. -/
def Sys2Proof.Claim.KeyObjectWrites : Prop :=
  ∀ (s : State) (via : Path),
    (∀ d, s.takesSeal via d → ∃ t, exec (.keySeal via d) s = .next t ∧
      (∀ k, keyUnwrap Config.wrapKey (d.drop 1) = some k → SMap.get? t.vault.slots (d.headD 0).toNat = some (.sealed k)) ∧
      (keyUnwrap Config.wrapKey (d.drop 1) = none → t.vault = s.vault)) ∧
    (∀ v : Byte, s.takesWrite via 0x1041 0x02 [v] → ∃ t, exec (.keyRevoke via v) s = .next t ∧
      SMap.get? t.vault.slots v.toNat = some .revoked) ∧
    (∀ v : Byte, s.takesWrite via 0x1042 0x06 [v] → ∃ t, exec (.signLock via v) s = .next t ∧ t.vault.lock = true ∧
      t.vault.slots = s.vault.slots)

/-- Writes of other objects with an effect of their own that pass their checks. Log entry 48 names what the model reads or chooses in it. -/
def Sys2Proof.Claim.ModuleObjectWrites : Prop :=
  ∀ (s : State) (via : Path),
    (∀ (i : BitVec 16 × Byte) (d : List Byte), i ∈ [(0x2000, 1), (0x2400, 1), (0x2600, 1), (0x2700, 1), (0x2700, 2)] →
      s.takesWrite via i.1 i.2 d → ∃ t, exec (.objectWrite via i.1 i.2 d) s = .next t ∧
        t.m.objD i.1.toNat i.2.toNat 0 = bytesNat d ∧ ∃ a, t.m.agent = some a ∧ a.tag = s.m.tag ∧ t.m.tag = s.m.tag + 1) ∧
    (∀ v : BitVec 128, s.takesWrite via 0x1021 0x01 (natBytes 16 v.toNat) → ∃ t, exec (.featureAccept via v) s = .next t ∧
      t.m.features = v) ∧
    (∀ f : BitVec 3, s.takesWrite via (0x6010 + f.zeroExtend 16) 0x01 [1] → (s.m.port f).state = 0 →
      ∃ t, exec (.flEnable via f 1) s = .next t ∧ (t.m.port f).state = 2) ∧
    (∀ v : Word, s.takesWrite via 0x7100 0x01 (natBytes 8 v.toNat) → v.getLsbD 58 = false → ∃ t,
      exec (.eccInjectSram via v) s = .next t ∧
      SMap.get? t.m.ms.sramInj ((v.extractLsb' 32 2 : BitVec 2).toNat * 2 ^ 32 + bits v 31 0) = some (1#72 <<< bits v 50 44)) ∧
    (∀ v : Word, s.takesWrite via 0x7100 0x02 (natBytes 8 v.toNat) → v.getLsbD 38 = false → v.getLsbD 51 = false → ∃ t,
      exec (.eccInjectHbm via v) s = .next t ∧ SMap.get? t.m.ms.hbmInj (bits v 37 5 * 32) = some (1#36 <<< bits v 44 39)) ∧
    (∀ (v : BitVec 32) (e : ErrEntry), s.takesWrite via 0x5000 0x03 (natBytes 4 v.toNat) → s.m.err.log[v.toNat]? = some e →
      ∃ t, exec (.errlogIndex via v) s = .next t ∧ t.m.err.sel = e.seq.toNat ∧ t.m.err.log = s.m.err.log) ∧
    (∀ v : Byte, s.takesWrite via 0x5000 0x05 [v] → ∃ t, exec (.errlogClear via v) s = .next t ∧
      t.m.err.log = s.m.err.log.filter (fun e => e.perm && !e.prior) ∧ t.m.err.total = s.m.err.total) ∧
    (∀ v : BitVec 32, s.takesWrite via 0x7000 0x01 (natBytes 4 v.toNat) → ∃ t, exec (.testUnlock via v) s = .next t ∧
      t.m.testOpen = true) ∧
    (∀ (v : Byte) (pins : BitVec 7), s.takesWrite via 0x1030 0x01 [v] → v = 0 → ∃ t, exec (.nodeIdSrc via v pins) s = .next t ∧
      t.m.pw.nodePins = pins ∧ t.m.nodeId = pins)

/-- The answers of the object agent: firmware's OBJ_DONE with the TAG of the access under way ends the access, unless the job command it wrote has not completed, and answers the mailbox that waits for it with the status firmware gave, or with that of a run request that was refused (log entry 48); its timeout ends it with TIMEOUT. -/
def Sys2Proof.Claim.AccessesAreAnswered : Prop :=
  ∀ (s : State) (a : Access) (fn : BitVec 4), s.m.agent = some a → s.m.agentQ = [] → a.path = .mbx fn → a.idx ≠ 0x1010 →
    (s.m.mailbox fn.toNat).busy = true → a.gone = false →
    (∀ (c : BitVec 4) (v : Word), coreLive (s.m.core c) = true → a.tag = v.truncate 32 → a.wr = true →
      (s.m.cmdOut a = false → ∃ t, exec (.objDone c v) s = .next t ∧ t.m.agent = none ∧ (t.m.mailbox fn.toNat).busy = false ∧
        (t.m.mailbox fn.toNat).done = true ∧ (t.m.mailbox fn.toNat).status = s.m.objEnd.getD (v.extractLsb' 32 32)) ∧
      (s.m.cmdOut a = true → exec (.objDone c v) s = .next s)) ∧
    (∃ t, exec .objectTimeout s = .next t ∧ t.m.agent = none ∧ (t.m.mailbox fn.toNat).busy = false ∧
      (t.m.mailbox fn.toNat).done = true ∧ (t.m.mailbox fn.toNat).status = Err.timeout.code)

/-- Writes of key, module and test objects, and the answers of the object agent (log entry 48): the statements above, together. -/
def Obligations.ObjectsOfTheModule : Prop := Claim.KeyObjectWrites ∧ Claim.ModuleObjectWrites ∧ Claim.AccessesAreAnswered

/-- Writes over the field bus, with the agent idle, of every object that a command of its own writes: each completes with its effect under the conditions of module, job and value that the object's rule states. Log entries 48, 61 and 65 name what the model reads or chooses in it. -/
def Obligations.ObjectWritesComplete : Prop :=
  ∀ (s : State), s.agentIdle →
    let ready := s.m.mstate = 3 ∧ s.m.pw.held = false
    (∀ v : BitVec 128, ready → s.m.loads = [] → v &&& ~~~Mach.featureOffer = 0 → ∃ t, exec (.featureAccept .sop v) s = .next t ∧
      t.m.features = v) ∧
    (∀ f : BitVec 3, ready → (s.m.port f).state = 0 → ∃ t, exec (.flEnable .sop f 1) s = .next t ∧ (t.m.port f).state = 2) ∧
    (∀ v : Word, ready → s.m.testOpen = true →
      (v.getLsbD 58 = false → ∃ t, exec (.eccInjectSram .sop v) s = .next t ∧
        SMap.get? t.m.ms.sramInj ((v.extractLsb' 32 2 : BitVec 2).toNat * 2 ^ 32 + bits v 31 0) = some (1#72 <<< bits v 50 44)) ∧
      (v.getLsbD 38 = false → v.getLsbD 51 = false → ∃ t, exec (.eccInjectHbm .sop v) s = .next t ∧
        SMap.get? t.m.ms.hbmInj (bits v 37 5 * 32) = some (1#36 <<< bits v 44 39))) ∧
    (∀ (v : BitVec 32) (e : ErrEntry), s.m.err.log[v.toNat]? = some e → ∃ t, exec (.errlogIndex .sop v) s = .next t ∧
      t.m.err.sel = e.seq.toNat) ∧
    (∃ t, exec (.errlogClear .sop 1) s = .next t ∧ t.m.err.log = s.m.err.log.filter (fun e => e.perm && !e.prior)) ∧
    (ready → ∃ t, exec (.testUnlock .sop 32343) s = .next t ∧ t.m.testOpen = true) ∧
    (∀ pins : BitVec 7, ∃ t, exec (.nodeIdSrc .sop 0 pins) s = .next t ∧ t.m.pw.nodePins = pins) ∧
    (∀ j : JobId, ready → let b := s.m.job j
      (b.state = .loaded → s.m.spanning j = false → ∃ t, exec (.jobCmdRun .sop j) s = .next t ∧ (t.m.job j).state = .run) ∧
      (b.state = .paused → Claim.Swept s.m j → ∃ t, exec (.jobCmdStop .sop j) s = .next t ∧ (t.m.job j).state = .halted) ∧
      (b.state ≠ .empty → b.state ≠ .run → ∃ t, exec (.jobCmdUnload .sop j) s = .next t ∧ (t.m.job j).state = .empty) ∧
      (b.state = .paused → s.m.spanning j = false → ∃ t, exec (.resume .sop j 1) s = .next t ∧ (t.m.job j).state = .run) ∧
      (∀ v : BitVec 64, b.state = .run → v ≠ 0 → Tag.lt ⟨v, 0⟩ b.gvt = false → b.pause = none → ∃ t,
        exec (.pauseTime .sop j v) s = .next t ∧ (t.m.job j).pause = some (Tag.max ⟨v, 0⟩ b.sh)) ∧
      (b.state = .paused → ∃ t, exec (.orphanDiscard .sop j 1) s = .next t ∧
        ∀ p ∈ s.m.jobPes j, ∀ e ∈ t.m.liveHeads p .iris j, t.m.orphaned e = false) ∧
      (b.state = .empty → s.m.loadQueued j = false → (s.m.feature 3 = true ∨ j = 0) → 512 ≤ s.m.jobObj j 0x61 0 →
        b.staging.base ≤ s.m.jobObj j 0x60 0 → s.m.jobObj j 0x60 0 + s.m.jobObj j 0x61 0 ≤ b.staging.base + b.staging.size →
        ∃ t, exec (.load .sop j 1) s = .next t ∧ t.m.loads = s.m.loads ++ [(j, none, s.m.wall)]) ∧
      (∀ (v : BitVec 32) (a : Nat), s.m.loadQueued j = false → v.toNat % 2 = 0 → 2 ≤ v.toNat → v.toNat ≤ 16384 → b.staging = {} →
        s.m.heldKind (·.staging) + v.toNat * 2 ^ 20 ≤ (if s.m.part = .p4830 then 2 ^ 33 else 2 ^ 34) →
        s.m.poolPlace (v.toNat * 2 ^ 20) = some a → ∃ t, exec (.stagingMib .sop j v) s = .next t ∧
          (t.m.job j).staging = ⟨a, v.toNat * 2 ^ 20⟩)) ∧
    (∀ (k : Byte) (d : List Byte), k.toNat < 8 →
      (SMap.getD s.vault.slots k.toNat .empty = .empty → d.length = 40 → ∃ t, exec (.keySeal .sop (k :: d)) s = .next t ∧
        ∀ key, keyUnwrap Config.wrapKey d = some key → SMap.get? t.vault.slots k.toNat = some (.sealed key)) ∧
      (∃ t, exec (.keyRevoke .sop k) s = .next t ∧ SMap.get? t.vault.slots k.toNat = some .revoked)) ∧
    (s.vault.lock = false → ∃ t, exec (.signLock .sop 1) s = .next t ∧ t.vault.lock = true) ∧
    (∃ t, exec (.ovrUnlock .sop 42435) s = .next t ∧ t.m.pw.ovrWin = true) ∧
    (s.m.pw.ovrWin = true → s.m.pw.held = true → s.m.pw.ovr = false → s.m.mstate = 1 → 7000 ≤ s.m.pw.vinMv → ∃ t,
      exec (.ovrRelease .sop 1) s = .next t ∧ t.m.pw.ovr = true ∧ t.m.mstate = 2) ∧
    (s.m.mstate = 1 → s.m.pw.held = false → 7000 ≤ s.m.pw.vinMv → ∃ t, exec (.moduleCmdBoot .sop) s = .next t ∧ t.m.mstate = 2) ∧
    (s.m.mstate = 3 → s.m.pw.linkUp = false → s.m.pw.snow = none → s.m.snowReady = true → (∀ f, (s.m.port f).state = 0) → ∃ t,
      exec (.moduleCmdSnowdrop .sop) s = .next t ∧ t.m.mstate = 7) ∧
    (∀ (found : WakeTest), s.m.mstate = 7 → s.m.pw.stage ≠ 8 → ∃ t, exec (.moduleCmdWake .sop found) s = .next t ∧ t.m.ic.kept = none ∧
      (found = {} → s.m.diesOut ≠ 15 →
        if ∃ f : BitVec 3, s.m.objD (0x6010 + f.toNat) 0x01 1 = 1 then t.m.mstate = 7 ∧ t.m.pw.stage = 8 else t.m.mstate = 3)) ∧
    (3 ≤ s.m.mstate.toNat → s.m.pw.trip = false → (7000 ≤ s.m.pw.vinMv → ∃ t, exec (.moduleCmdReboot .sop) s = .next t ∧ t.m.mstate = 2) ∧
      (∃ t, exec (.moduleCmdStandby .sop) s = .next t ∧ t.m.mstate = 1))

/-- Requests of the field bus addressed to the module: an expedited read is answered with the value, an expedited write is made, a longer one opens a transfer whose segments extend it, a transfer read advances segment by segment, ABORT and a lapse end it, and LOCK takes a free lock for the management agent; a bus-off is counted, and the port sends nothing from then on. Log entry 49 names what the model reads or chooses in it. -/
def Obligations.FieldBusRequests : Prop :=
  (∀ (s : State) (ident : BitVec 11) (b : List Byte), s.m.sop.xfer = none →
    (∀ v, s.hears 1 ident b → s.objRead .sop (frameIdx b).toNat (frameByte b 4).toNat = (.ok, v) →
      alwaysOnObj (frameIdx b).toNat = true → frameIdx b ≠ 0x4100 → v.length ≤ 48 → ∃ t f, exec (.read ident b) s = .next t ∧
        t.m.sop.last = some (frameByte b 1, 0, f) ∧ f.drop 16 = v ∧ t.m.sop.xfer = none) ∧
    (s.hears 2 ident b → bytesNat ((b.drop 6).take 2) ≤ 56 → frameIdx b = 0x2400 → frameByte b 4 = 1 →
      s.takesWrite .sop 0x2400 1 ((b.drop 8).take (bytesNat ((b.drop 6).take 2))) → ∃ t, exec (.write ident b) s = .next t ∧
        t.m.objD 0x2400 1 0 = bytesNat ((b.drop 8).take (bytesNat ((b.drop 6).take 2))) ∧ t.m.agent.isSome = true) ∧
    (s.hears 2 ident b → 56 < bytesNat ((b.drop 6).take 2) → ∃ t x, exec (.write ident b) s = .next t ∧
      t.m.sop.xfer = some x ∧ x.tseq = frameByte b 1 ∧ x.wr = true ∧ x.data = (b.drop 8).take 56 ∧ x.seg = 1 ∧
      t.m.agent = none) ∧
    (s.hears 6 ident b → s.m.onlyAlwaysOn = false → (s.m.lock (frameByte b 2)).owner = 0 → frameByte b 3 = 0 →
      ∃ t, exec (.lock ident b) s = .next t ∧ (t.m.lock (frameByte b 2)).owner = 0x30)) ∧
  (∀ (s : State) (ident : BitVec 11) (b : List Byte) (x : Xfer), s.m.sop.xfer = some x → x.tseq = frameByte b 1 → x.seg ≠ 0 →
    (s.hears 3 ident b → x.wr = false → (frameByte b 2).toNat = x.seg % 256 → ∃ t, exec (.readSeg ident b) s = .next t ∧
      t.m.sop.xfer = if x.len ≤ 48 * x.seg + 48 then none else some { x with seg := x.seg + 1 }) ∧
    (s.hears 4 ident b → x.wr = true → (frameByte b 2).toNat = x.seg % 256 → x.data.length + 60 < x.len → 64 ≤ b.length →
      ∃ t, exec (.writeSeg ident b) s = .next t ∧
        t.m.sop.xfer = some { x with data := x.data ++ (b.drop 4).take 60, seg := x.seg + 1 }) ∧
    (s.hears 5 ident b → ∃ t, exec (.abort ident b) s = .next t ∧ t.m.sop.xfer = none ∧ t.m.jobs = s.m.jobs ∧
      t.m.mem = s.m.mem) ∧
    (∃ t, exec .transferLapse s = .next t ∧ t.m.sop.xfer = none ∧ t.m.sop.lapsed = some x.tseq)) ∧
  (∀ (s : State), s.m.awake = true → s.m.busOff = none → s.m.nodeId ≠ 0 →
    (s.m.objD 0x1030 0x05 100 ≠ 0 → ∃ t f, exec .sopHeartbeat s = .next t ∧
      t.m.sent = s.m.sent ++ [.can ((6#4) ++ s.m.nodeId) f] ∧ f.head? = some (s.m.mstate.zeroExtend 8)) ∧
    (∀ e r, s.m.evFrames = e :: r → ∃ t, exec .eventFrame s = .next t ∧ t.m.evFrames = r ∧
      t.m.sent = s.m.sent ++ [.can ((5#4) ++ s.m.nodeId) (canPad e)]) ∧
    (∃ t, exec .busOff s = .next t ∧ t.m.objD 0x4100 0x03 0 = (s.m.objD 0x4100 0x03 0 + 1) % 2 ^ 64 ∧ t.m.busOff.isSome = true ∧
      ∀ (n : Nat) (node : BitVec 7) (b : List Byte), t.m.canSend n node b = t.m))

/-! The host interface (chapters 13 and 15) -/

/-- Writes of registers by their paths: a privileged service core sets GPIO_CTL and OBJ_LEN; starts an operation of the QSPI controller, and writes the entry of the die-to-die switch's table for a stop, neither of which the maps give an address (log entries 86 and 90); in task mode a register outside TSK_POST and TSK_END does not change; a function clears the bits of HIF_EVT it writes 1 that are not set in the same cycle, and reads a register by a completion of 8 bytes; a BAR that does not answer, and an access that is not of 64 bits, completes with Unsupported Request. -/
def Sys2Proof.Claim.RegistersTakeWrites : Prop :=
  ∀ (s : State) (v : Word),
    (∀ c : BitVec 4, coreLive (s.m.core c) = true →
      (Mach.pmode (s.m.core c) = true →
        (∃ t, exec (.registerWrite (.core c) 0x10140000 v) s = .next t ∧ t.m.pw.gpioCtl = v.truncate 24 ∧ t.m.mem = s.m.mem) ∧
        (∃ t, exec (.registerWrite (.core c) 0x10130008 v) s = .next t ∧ t.m.objLen = v ∧ t.m.mem = s.m.mem) ∧
        (∀ op a, ∃ t, exec (.registerWrite (.qspi c op) a v) s = .next t ∧ t.m.flashOp = op ∧ t.m.flash = s.m.flash) ∧
        (∀ (die : BitVec 2) (stop : BitVec 5) (a : Word), stop.toNat < 18 → ∃ t, exec (.registerWrite (.switch c die stop) a v) s = .next t ∧
          SMap.get? t.m.net.switch (die.toNat * 32 + stop.toNat) = some (v.getLsbD 0) ∧ t.m.flash = s.m.flash)) ∧
      (∀ a : Word, Mach.pmode (s.m.core c) = false → 0x10010000 ≤ a.toNat → a.toNat < 0x20000000 →
        exec (.registerWrite (.core c) a v) s = .next s)) ∧
    (∀ fn : BitVec 4, fn.toNat ≤ 8 →
      (s.m.barOk fn.toNat = true → s.m.setNow = [] → ∃ t, exec (.registerWrite (.bar0 fn) 0 v) s = .next t ∧
        SMap.getD t.m.hifEvt fn.toNat 0 = SMap.getD s.m.hifEvt fn.toNat 0 &&& ~~~v ∧ t.m.mem = s.m.mem) ∧
      (s.m.barOk fn.toNat = true → ∀ a : Word, a.toNat % 8 = 0 → ∃ t, exec (.registerWrite (.bar0Read fn) a v) s = .next t ∧
        t.m.sent = s.m.sent ++ [.completion fn.toNat (natBytes 8 (s.m.bar0Read fn.toNat a.toNat).toNat) false] ∧
        t.m.hifEvt = s.m.hifEvt ∧ t.m.mem = s.m.mem) ∧
      (∀ a : Word, ∃ t, exec (.registerWrite (.bar0Narrow fn) a v) s = .next t ∧
        t.m.sent = s.m.sent ++ [.unsupported fn.toNat] ∧ t.m.mem = s.m.mem) ∧
      (s.m.barOk fn.toNat = false → ∀ a : Word, ∃ t, exec (.registerWrite (.bar0 fn) a v) s = .next t ∧
        t.m.sent = s.m.sent ++ [.unsupported fn.toNat] ∧ t.m.mem = s.m.mem))

/-- Accesses through the aperture: a read through a valid entry returns the bytes of module memory in completions of at most the PF's payload setting, one through none, and an access beyond the size of the BAR or across a multiple of 4,096 bytes, completes with Unsupported Request (the last PRESUMED of PCI Express, log entry 51), a write through a writable entry stores its bytes, and an entry takes the bits the table gives it. -/
def Sys2Proof.Claim.ApertureAccesses : Prop :=
  ∀ (s : State) (fn : BitVec 4) (o : BitVec 36), fn.toNat ≤ 8 → s.m.barOk fn.toNat = true → s.m.cleanMemory →
    let inside := fun (n : Nat) => decide (o.toNat < s.m.bar2Size fn.toNat ∧ o.toNat % 4096 + n ≤ 4096)
    (∀ (n : BitVec 13) (w : Word), inside n.toNat = true → s.m.apEntry fn.toNat o = some w → ∃ t, exec (.bar2Read fn o n) s = .next t ∧
      t.m.up = s.m.up ++ (Mach.completions s.m.mps (Mach.apAddr w o) n.toNat).map (fun r =>
        ⟨s.m.exchangeJob r.1, s.m.cycle, r.2, .completion fn.toNat (memBytes s.m.mem (s.m.alias_ r.1) r.2) false, none⟩) ∧
      t.m.mem = s.m.mem) ∧
    (∀ n : BitVec 13, inside n.toNat = false ∨ s.m.apEntry fn.toNat o = none → ∃ t, exec (.bar2Read fn o n) s = .next t ∧
      t.m.sent = s.m.sent ++ [.unsupported fn.toNat] ∧ t.m.up = s.m.up) ∧
    (∀ (d : List Byte) (late : Bool), inside d.length = false → ∃ t, exec (.bar2Write fn o ⟨d, late⟩) s = .next t ∧
      t.m.sent = s.m.sent ++ [.unsupported fn.toNat] ∧ t.m.mem = s.m.mem) ∧
    (∀ (d : List Byte) (w : Word), inside d.length = true → s.m.apEntry fn.toNat o = some w → w.getLsbD 62 = true → ∃ t,
      exec (.bar2Write fn o ⟨d, false⟩) s = .next t ∧ memBytes t.m.mem (s.m.alias_ (Mach.apAddr w o)) d.length = d) ∧
    (∀ (d : List Byte) (w : Word), inside d.length = true → s.m.apEntry fn.toNat o = some w → w.getLsbD 62 = true → s.m.loads ≠ [] → ∃ t,
      exec (.bar2Write fn o ⟨d, true⟩) s = .next t ∧ t.m.mem = s.m.mem ∧ t.m.hostW = s.m.hostW ++ [(Mach.apAddr w o, d)]) ∧
    (∀ (e : BitVec 15) (v : Word), e.toNat < Mach.fnEntries fn.toNat → v.getLsbD 63 = false ∨ s.m.pageOk fn.toNat e.toNat v = true →
      ∃ t, exec (.apertureEntry fn e v) s = .next t ∧
        SMap.get? (t.m.func fn.toNat).ap e.toNat = some (v &&& 0xC000003FFFE00000))

/-- Register writes by their paths, and accesses through the aperture (log entries 51, 86, 90): the statements above, together. -/
def Obligations.RegistersAndAperture : Prop := Claim.RegistersTakeWrites ∧ Claim.ApertureAccesses

/-- Ring pairs: EN going to 1 clears the counts and starts the pair, EN going to 0 stops it, a doorbell moves the tail or finds an overrun, and a done command has its completion entry of 16 bytes handed to the link, and awaits its leaving. Log entries 50 and 51 name what the model reads or chooses in it. -/
def Sys2Proof.Claim.RingPairs : Prop :=
  ∀ (s : State) (fn : BitVec 4) (k : BitVec 6) (v : Word),
    let p := s.m.pair k.toNat
    (fn.toNat ≤ 8 → s.m.barOk fn.toNat = true → s.m.pairMine fn.toNat k.toNat = true →
      (p.en = false → v.getLsbD 63 = true → ∃ t, exec (.ringCfg fn k v) s = .next t ∧
        let q := t.m.pair k.toNat
        q.en = true ∧ q.stat = 1 ∧ q.err = 0 ∧ q.sqHead = 0 ∧ q.sqTail = 0 ∧ q.cqHead = 0 ∧ q.cqTail = 0) ∧
      (p.en = true → v.getLsbD 63 = false → ∃ t, exec (.ringCfg fn k v) s = .next t ∧
        (t.m.pair k.toNat).en = false ∧ (t.m.pair k.toNat).stat = 0 ∧ (t.m.pair k.toNat).cur = none) ∧
      ((v.truncate 16 - p.sqHead).toNat ≤ 2 ^ p.sqLog.toNat → ∃ t, exec (.ringSqTail fn k v) s = .next t ∧
        (t.m.pair k.toNat).sqTail = v.truncate 16 ∧ (t.m.pair k.toNat).stat = p.stat) ∧
      (2 ^ p.sqLog.toNat < (v.truncate 16 - p.sqHead).toNat → p.stat = 1 → ∃ t, exec (.ringSqTail fn k v) s = .next t ∧
        (t.m.pair k.toNat).stat = 2 ∧ (t.m.pair k.toNat).err = 1)) ∧
    (∀ (c : RingCmd) (st res : BitVec 32), p.cur = some c → c.wait = .done st res →
      (p.cqTail - p.cqHead).toNat < 2 ^ p.cqLog.toNat → s.m.dmaOk (s.m.pairFn k.toNat) = true →
      ∃ t, exec (.completionWrite k) s = .next t ∧ (t.m.pair k.toNat).cur = some { c with wait := .written } ∧ (t.m.pair k.toNat).cqTail = p.cqTail + 1 ∧
        t.m.up = s.m.up ++ [⟨c.job, s.m.cycle, 16, .hostWrite (s.m.pairFn k.toNat)
          (p.cqBase + BitVec.ofNat 64 (16 * (p.cqTail.toNat % 2 ^ p.cqLog.toNat)))
          (natBytes 2 c.cid.toNat ++ natBytes 2 p.sqHead.toNat ++ natBytes 4 st.toNat ++ natBytes 4 res.toNat
            ++ natBytes 4 (if p.cqTail.toNat / 2 ^ p.cqLog.toNat % 2 = 0 then 1 else 0)), some k.toNat⟩])

/-- Host commands on jobs that pass their checks: NOP completes with OK, and an opcode of no command with BAD_VALUE; UNLOAD, RUN, PAUSE, RESUME and STOP change the job as the writes of its objects do, a STOP of a running job waits on its pause, and LOAD joins the queue of loads. Log entry 50 names what the model reads or chooses in it. -/
def Sys2Proof.Claim.HostJobCommands : Prop :=
  ∀ (s : State) (k : BitVec 6) (e : Sub),
    let j : JobId := e.job.truncate 3
    let b := s.m.job j
    (s.takesCmd k e [] false → ∃ t, exec (.cmdNop k e) s = .next t ∧ t.cmdDone k 0 0 ∧
      (t.m.pair k.toNat).sqHead = (s.m.pair k.toNat).sqHead + 1 ∧ t.m.jobs = s.m.jobs) ∧
    ((s.m.takeCmd k.toNat e).isSome = true → e.unknown = true → ∃ t, exec (.cmdNop k e) s = .next t ∧ t.cmdDone k Err.badValue.code 0 ∧
      t.m.jobs = s.m.jobs) ∧
    (s.takesCmd k e [.empty] false → e.a0.toNat % 64 = 0 → 512 ≤ e.a1.toNat → e.a1.toNat ≤ 17179869184 →
      b.staging.base ≤ e.a0.toNat → e.a0.toNat + e.a1.toNat ≤ b.staging.base + b.staging.size →
      (s.m.feature 3 = true ∨ j = 0) → s.m.loadQueued j = false → s.m.onlyAlwaysOn = false →
      ∃ t, exec (.cmdLoad k e) s = .next t ∧ t.m.loads = s.m.loads ++ [(j, some k, s.m.wall)] ∧
        t.m.jobObj j 0x60 0 = e.a0.toNat ∧ t.m.jobObj j 0x61 0 = e.a1.toNat) ∧
    (s.takesCmd k e [.loaded, .paused, .halted, .timeExhausted, .faulted] false → ∃ t, exec (.cmdUnload k e) s = .next t ∧
      t.cmdDone k 0 0 ∧ (t.m.job j).state = .empty) ∧
    (s.takesCmd k e [.loaded] false → s.m.spanning j = false → ∃ t, exec (.cmdRun k e) s = .next t ∧
      t.cmdDone k 0 0 ∧ (t.m.job j).state = .run) ∧
    (s.takesCmd k e [.run] false → e.a0 ≠ 0 → Tag.lt ⟨e.a0, 0⟩ b.gvt = false → b.pause = none → s.m.onlyAlwaysOn = false →
      ∃ t, exec (.cmdPause k e) s = .next t ∧ t.cmdDone k 0 0 ∧ (t.m.job j).pause = some (Tag.max ⟨e.a0, 0⟩ b.sh)) ∧
    (s.takesCmd k e [.run, .paused] false → b.state = .paused → s.m.spanning j = false →
      ∃ t, exec (.cmdResume k e) s = .next t ∧ t.cmdDone k 0 0 ∧ (t.m.job j).state = .run ∧ (t.m.job j).pause = none) ∧
    (s.takesCmd k e [.run, .paused, .halted, .timeExhausted, .faulted] false →
      (b.state = .paused → Claim.Swept s.m j → ∃ t, exec (.cmdStop k e) s = .next t ∧ t.cmdDone k 0 0 ∧ (t.m.job j).state = .halted) ∧
      (b.state = .run → ∃ t, exec (.cmdStop k e) s = .next t ∧ k ∈ (t.m.job j).stopWait ∧ (t.m.job j).state = .run ∧
        ∃ c, (t.m.pair k.toNat).cur = some c ∧ c.wait = .stop))

/-- Host commands that move data, and pass their checks: objects read and written, a control token admitted, a node's state, design memory and staging read to the host, and for a command that reads host memory, the read requests that it hands to the link and waits for. Log entries 50 and 51 name what the model reads or chooses in it. -/
def Sys2Proof.Claim.HostDataCommands : Prop :=
  ∀ (s : State) (k : BitVec 6) (e : Sub), s.m.cleanMemory →
    let j : JobId := e.job.truncate 3
    let fn := s.m.pairFn k.toNat
    let idx : BitVec 16 := e.a0.extractLsb' 8 16
    let writes := fun (d : List Byte) => ((Mach.tlps s.m.mps e.host.toNat d.length d).map (fun x =>
      (⟨some j, s.m.cycle, x.2.length, .hostWrite fn (BitVec.ofNat 64 x.1) x.2, some k.toNat⟩ : Tlp)))
    let asks := fun (op : HostOp) (d : List Byte) (t : State) =>
      t.m.up = s.m.up ++ ((Mach.readCuts e.host.toNat d.length).map (fun x =>
        (⟨some j, s.m.cycle, 0, .hostRead fn (BitVec.ofNat 64 x.1) x.2, some k.toNat⟩ : Tlp))) ∧ t.m.mem = s.m.mem ∧
      ∃ c, (t.m.pair k.toNat).cur = some c ∧ c.wait = .fetch op e d
    let out := fun (a : Nat) (t : State) =>
      t.m.up = s.m.up ++ writes (memBytes s.m.mem (s.m.alias_ a) e.len.toNat) ∧
      ∃ c, (t.m.pair k.toNat).cur = some c ∧ c.wait = .dma 0 e.len
    let dm := (s.m.job j).dmem.base + e.a0.toNat
    (s.takesCmd k e [] false → Mach.bufOk e = true → s.m.agent.isSome = true → ∃ t a, exec (.cmdObjRead k e) s = .next t ∧
      Claim.Joins s.m t.m a ∧ a.path = .ring k ∧ a.wr = false ∧ a.idx = idx ∧ a.sub = e.a0.truncate 8 ∧
      a.len = e.len.toNat ∧ ∃ c, (t.m.pair k.toNat).cur = some c ∧ c.wait = .obj e.host) ∧
    (∀ d : List Byte, s.takesCmd k e [] false → Mach.bufOk e = true → d.length = e.len.toNat → d ≠ [] →
      ∃ t, exec (.cmdObjWrite k e (some d)) s = .next t ∧ asks .objWrite d t ∧ t.m.agent = s.m.agent) ∧
    (∀ d : List Byte, s.takesCmd k e [.loaded, .run, .paused, .halted] false → e.host ≠ 0 → e.host.toNat % 64 = 0 → d.length = 8 →
      (s.m.cmdNode e).isSome = true → e.a2.extractLsb' 16 3 ≠ (3#3) →
      ∃ t, exec (.cmdControl k e (some d)) s = .next t ∧ asks .control d t ∧ t.m.hubTerms = s.m.hubTerms) ∧
    (s.takesCmd k e [.loaded, .run, .paused, .halted] false → s.m.freeHubSlot.isSome = true → s.m.hubWait = [] → e.host = 0 →
      (s.m.cmdNode e).isSome = true → e.a2.extractLsb' 16 3 ≠ (3#3) →
      Tag.lt ⟨e.a1, e.a2.truncate 12⟩ (s.m.job j).sh = false →
      ∃ t x l, exec (.cmdControl k e none) s = .next t ∧ t.cmdDone k 0 0 ∧ SMap.get? t.m.hubTerms x = some l ∧
        SMap.get? s.m.hubTerms x = none ∧ l.job = j ∧ l.tag = ⟨e.a1, e.a2.truncate 12⟩) ∧
    (∀ r, s.takesCmd k e [.paused, .halted, .timeExhausted, .faulted] true → e.host.toNat % 64 = 0 → s.m.cmdNode e = some r →
      (r.pe, r.node) ∉ (s.m.job r.job).undoLost →
      ∃ t, exec (.cmdReadState k e) s = .next t ∧ t.m.mem = s.m.mem ∧
        t.m.up = s.m.up ++ writes (memBytes s.m.mem (s.m.recAddr r + 32) 32 ++ memBytes s.m.mem (s.m.stAddr r) 128) ∧
        ∃ c, (t.m.pair k.toNat).cur = some c ∧ c.wait = .dma 0 160) ∧
    (s.takesCmd k e [.paused, .halted, .timeExhausted, .faulted] true → s.m.storesWait k.toNat e = false → s.m.dmRange e = true → e.len ≠ 0 →
      ∃ t, exec (.cmdDmRead k e) s = .next t ∧ out dm t ∧ t.m.mem = s.m.mem) ∧
    (∀ d : List Byte, s.takesCmd k e [.loaded, .paused] true → s.m.storesWait k.toNat e = false → s.m.dmRange e = true → d.length = e.len.toNat → d ≠ [] →
      ∃ t, exec (.cmdDmWrite k e (some d)) s = .next t ∧ asks .dmWrite d t) ∧
    (∀ d : List Byte, s.takesCmd k e [] false → s.m.stageRange e = true → d.length = e.len.toNat → d ≠ [] →
      ∃ t, exec (.cmdStageIn k e (some d)) s = .next t ∧ asks .stageIn d t) ∧
    (s.takesCmd k e [] false → s.m.stageRange e = true → e.len ≠ 0 →
      ∃ t, exec (.cmdStageOut k e) s = .next t ∧ out e.a0.toNat t ∧ t.m.mem = s.m.mem)

/-- A command that reads host memory proceeds when HOST_DMA_COMPLETION ends its reads, as the checks of R324 stand then: a write of an object is made by the agent, a control token is injected with plane B as read, design memory and staging take the bytes read; an access that fails completes the command with HARDWARE and puts its pair in ERROR. Log entry 50 names what the model reads or chooses in it. -/
def Sys2Proof.Claim.HostReadsProceed : Prop :=
  ∀ (s : State) (k : BitVec 6) (e : Sub) (op : HostOp) (d : List Byte) (c : RingCmd) (states : List JobState) (plain : Bool),
    (s.m.pair k.toNat).cur = some c → c.wait = .fetch op e d → s.m.pairUp k.toNat = false → s.m.hostSpec op e = (states, plain, true) →
    s.m.cmdCheck k.toNat e states plain = .ok →
    let j : JobId := e.job.truncate 3
    (op = .objWrite → e.a0.extractLsb' 8 16 = (0x2400#16) → e.a0.truncate 8 = (1#8) → s.takesWrite (.ring k) 0x2400 1 d → ∃ t,
      exec (.hostDmaCompletion k true) s = .next t ∧ t.m.objD 0x2400 1 0 = bytesNat d ∧ ∃ a, t.m.agent = some a ∧ a.path = .ring k) ∧
    (op = .control → s.m.freeHubSlot.isSome = true → s.m.hubWait = [] → e.a2.extractLsb' 16 3 ≠ (3#3) →
      Tag.lt ⟨e.a1, e.a2.truncate 12⟩ (s.m.job j).sh = false → ∃ t x l, exec (.hostDmaCompletion k true) s = .next t ∧ t.cmdDone k 0 0 ∧
        SMap.get? s.m.hubTerms x = none ∧ SMap.get? t.m.hubTerms x = some l ∧ l.job = j ∧ l.tag = ⟨e.a1, e.a2.truncate 12⟩) ∧
    (op = .dmWrite → s.m.cleanMemory → d.length = e.len.toNat → ∃ t, exec (.hostDmaCompletion k true) s = .next t ∧
      t.cmdDone k 0 e.len ∧ memBytes t.m.mem (s.m.alias_ (s.m.dmAddr e)) d.length = d) ∧
    (op = .stageIn → s.m.cleanMemory → d.length = e.len.toNat → ∃ t, exec (.hostDmaCompletion k true) s = .next t ∧
      t.cmdDone k 0 e.len ∧ memBytes t.m.mem (s.m.alias_ e.a0.toNat) d.length = d) ∧
    ((s.m.pair k.toNat).stat = 1 → ∃ t, exec (.hostDmaCompletion k false) s = .next t ∧ t.cmdDone k Err.hardware.code 0 ∧
      (t.m.pair k.toNat).stat = 2 ∧ (t.m.pair k.toNat).err = 3)

/-- Ring pairs and the commands of the host (log entries 50 and 51): the statements above, together. -/
def Obligations.HostRingsAndCommands : Prop := Claim.RingPairs ∧ Claim.HostJobCommands ∧ Claim.HostDataCommands ∧ Claim.HostReadsProceed

/-- The PCIe link and its functions: a waiting TLP is sent, and a completion entry that leaves ends its command, a lost function faults its job and loses its pairs and its table, losing the PF or the link disables every VF, the enables of a function take their values, and a message whose vector opens is sent. Log entries 50 and 51 name what the model reads or chooses in it. -/
def Sys2Proof.Claim.FunctionsAndTheLink : Prop :=
  ∀ (s : State),
    (∀ x : Tlp, s.m.pw.linkUp = true → s.m.up = [x] → s.m.upMay x = true →
      (x.pair = none → ∃ t, exec .tlpArbitration s = .next t ∧ t.m.up = [] ∧ t.m.sent = s.m.sent ++ [x.msg]) ∧
      (∀ k fn a n, x.pair = some k → x.msg = .hostRead fn a n → ∃ t, exec .tlpArbitration s = .next t ∧ t.m.up = [] ∧
        t.m.sent = s.m.sent ++ [x.msg] ∧ (t.m.pair k).reads = (s.m.pair k).reads + 1) ∧
      (∀ k fn a d c, x.pair = some k → x.msg = .hostWrite fn a d → (s.m.pair k).cur = some c → c.wait = .written → c.noIrq = true →
        (s.m.pair k).sqHead = (s.m.pair k).sqTail → ∃ t, exec .tlpArbitration s = .next t ∧ t.m.up = [] ∧
          t.m.sent = s.m.sent ++ [x.msg] ∧ (t.m.pair k).cur = none)) ∧
    (∀ j : JobId, s.m.pw.linkUp = true → s.m.vfOn.getLsbD j.toNat = true → (s.m.job j).state = .run →
      ∃ t, exec (.flrVf j) s = .next t ∧ (t.m.job j).state = .faulted ∧ (t.m.func (1 + j.toNat)).ap = [] ∧ (t.m.func (1 + j.toNat)).bme = false ∧
        ∀ k : BitVec 6, s.m.pairFn k.toNat = 1 + j.toNat → (t.m.pair k.toNat).en = false) ∧
    (s.m.pw.linkUp = true → ∃ t, exec .flrPf s = .next t ∧ t.m.vfOn = 0 ∧ t.m.pw.linkUp = true) ∧
    (s.m.pw.linkUp = true → ∃ t, exec .linkLoss s = .next t ∧ t.m.vfOn = 0 ∧ t.m.pw.linkUp = false) ∧
    (∃ t, exec .perstAssert s = .next t ∧ t.m.pw.perst = false ∧ t.m.pw.linkUp = false) ∧
    (∀ n : BitVec 4, s.m.pw.linkUp = true → ∃ t, exec (.vfEnableChange n) s = .next t ∧
      t.m.vfOn = BitVec.ofNat 8 (2 ^ Nat.min n.toNat 8 - 1)) ∧
    (∀ (fn : BitVec 4) (on : Bool), fn.toNat ≤ 8 →
      (∃ t, exec (.busMasterEnable fn on) s = .next t ∧ (t.m.func fn.toNat).bme = on) ∧
      (∀ size pay : Option (BitVec 3), ∃ t, exec (.memorySpaceEnable fn ⟨on, size, pay⟩) s = .next t ∧ (t.m.func fn.toNat).mse = on ∧
        (∀ z : BitVec 3, pay = some z → fn = 0 → z.toNat < 3 → t.m.mps = 128 * 2 ^ z.toNat) ∧ (pay = none → t.m.mps = s.m.mps) ∧
        ((s.m.func fn.toNat).mse = true ∨ size = none → t.m.bar2Pf = s.m.bar2Pf ∧ t.m.bar2Vf = s.m.bar2Vf) ∧
        (∀ v, size = some v → (s.m.func fn.toNat).mse = false → v.toNat ≤ (if fn = 0 then 6 else 3) →
          t.m.bar2Size fn.toNat = 2 ^ (30 + v.toNat))) ∧
      (∃ t, exec (.powerStateChange fn on) s = .next t ∧ (t.m.func fn.toNat).d3 = on ∧
        (fn = 0 → on = false → (s.m.func 0).d3 = true → s.m.mstate = 7 → t.m.pw.waking = true)) ∧
      (∀ v : Nat, let f := s.m.func fn.toNat
        f.msixEn = false → f.fmask = false → v ∈ f.unmasked → f.pendVec = [(v, none)] → f.bme = true → f.d3 = false → f.heldVec = [] →
        ∃ t, exec (.msixMaskChange fn (.enable true)) s = .next t ∧ (t.m.func fn.toNat).pendVec = [] ∧
          t.m.up = s.m.up ++ [⟨none, s.m.cycle, 4, .msix fn.toNat v, none⟩]))

/-- Accesses that wait on others: a mailbox request is stored and one with GO waits for the object agent, the host's answer to a command's write completes it or puts its pair in ERROR, and a peer's object request is taken to the agent; an access waits behind those that came before it, but before one of the same hub cycle whose path comes later (R383). Log entries 50 and 51 name what the model reads or chooses in it. -/
def Sys2Proof.Claim.MailboxesAndPeers : Prop :=
  ∀ (s : State),
    (∀ (fn : BitVec 4) (v : Word), fn.toNat ≤ 8 → s.m.barOk fn.toNat = true →
      let x := s.m.mailbox fn.toNat
      (v.getLsbD 63 = false → ∃ t, exec (.mbxReq fn v) s = .next t ∧ (t.m.mailbox fn.toNat).req = Mach.mbxFields x.req v ∧
        (t.m.mailbox fn.toNat).busy = x.busy ∧ t.m.agentQ = s.m.agentQ) ∧
      (v.getLsbD 63 = true → x.busy = false → s.m.agent.isSome = true → v.extractLsb' 48 8 = 1 →
        ∃ t a, exec (.mbxReq fn v) s = .next t ∧ (t.m.mailbox fn.toNat).busy = true ∧ Claim.Joins s.m t.m a ∧
          a.path = .mbx fn ∧ a.wr = false ∧ a.idx = v.extractLsb' 32 16 ∧ a.sub = v.extractLsb' 24 8)) ∧
    (∀ (k : BitVec 6) (c : RingCmd) (st res : BitVec 32), (s.m.pair k.toNat).cur = some c → c.wait = .dma st res →
      (s.m.pairUp k.toNat = false → ∃ t, exec (.hostDmaCompletion k true) s = .next t ∧ t.cmdDone k st res) ∧
      ((s.m.pair k.toNat).stat = 1 → ∃ t, exec (.hostDmaCompletion k false) s = .next t ∧ t.cmdDone k Err.hardware.code 0 ∧
        (t.m.pair k.toNat).stat = 2 ∧ (t.m.pair k.toNat).err = 3)) ∧
    (∀ (f : BitVec 3) (p : Packet), s.m.peerQ = [(f, p)] → Mach.peerType p = 0x01 → p.h.cmd = 0x30 → s.m.agent.isSome = true →
      bits (p.data.headD 0) 7 0 = 1 → bits (p.data.headD 0) 127 64 = 0 →
      ∃ t a, exec .object s = .next t ∧ t.m.peerQ = [] ∧ Claim.Joins s.m t.m a ∧ a.path = .peer f ∧ a.wr = false ∧
        a.idx = (p.data.headD 0).extractLsb' 8 16 ∧ a.sub = (p.data.headD 0).extractLsb' 24 8)

/-- PCIe functions, their messages and their mailboxes (log entries 50 and 51): the statements above, together. -/
def Obligations.FunctionsAndMailboxes : Prop := Claim.FunctionsAndTheLink ∧ Claim.MailboxesAndPeers

/-! Power, boot and pins (chapters 19 and 20) -/

/-- Writes of the state-control objects that pass their checks: the override window opens and the override boots the module, and MODULE_CMD boots, enters Snowdrop or waits for the save, wakes, with the ports' training before READY where one is enabled, reboots and goes to STANDBY; a save tried again is made, given up for a wake request, for a module that has left READY or after 100 ms, or waits on. That a wake whose tests find nothing runs as one step to the ports' training is the model's choice (log entry 61). -/
def Sys2Proof.Claim.StateControl : Prop :=
  ∀ (s : State) (via : Path),
    (∀ v : BitVec 32, s.takesWrite via 0x1012 0x03 (natBytes 4 v.toNat) → ∃ t, exec (.ovrUnlock via v) s = .next t ∧
      t.m.pw.ovrWin = true ∧ t.m.pw.ovr = s.m.pw.ovr) ∧
    (∀ v : Byte, s.takesWrite via 0x1012 0x04 [v] → s.m.mstate = 1 → 7000 ≤ s.m.pw.vinMv → ∃ t,
      exec (.ovrRelease via v) s = .next t ∧ t.m.pw.ovr = true ∧ t.m.pw.ovrWin = false ∧ t.m.pw.held = true ∧ t.m.mstate = 2) ∧
    (s.takesWrite via 0x1010 0x02 [1] → s.m.pw.held = false → ∃ t, exec (.moduleCmdBoot via) s = .next t ∧ t.m.mstate = 2 ∧
      t.m.pw.stage = 1 ∧ t.m.epoch = s.m.epoch + 1) ∧
    (s.takesWrite via 0x1010 0x02 [2] → (∀ f, (s.m.port f).state = 0) →
      (s.m.snowReady = true → ∃ t, exec (.moduleCmdSnowdrop via) s = .next t ∧ t.m.mstate = 7 ∧ t.m.pw.pgood = false ∧
        t.m.ic.kept = some (s.m.ic.now, s.m.ic.vec) ∧ t.m.agent = none) ∧
      (s.m.snowReady = false → ∃ t, exec (.moduleCmdSnowdrop via) s = .next t ∧ t.m.mstate = s.m.mstate ∧
        t.m.pw.snow = some 0 ∧ t.m.agent.isSome = true)) ∧
    (∀ v vec, s.takesWrite via 0x1010 0x02 [3] → s.m.pw.stage ≠ 8 → s.m.diesOut ≠ 15 → s.m.ic.kept = some (v, vec) → ∃ t,
      exec (.moduleCmdWake via {}) s = .next t ∧ t.m.pw.pgood = true ∧ t.m.ic.kept = none ∧ t.m.ic.vec = vec ∧
      if ∃ f : BitVec 3, s.m.objD (0x6010 + f.toNat) 0x01 1 = 1 then t.m.mstate = 7 ∧ t.m.pw.stage = 8
      else t.m.mstate = 3 ∧ t.m.pw.waking = false) ∧
    (s.takesWrite via 0x1010 0x02 [4] → ∃ t, exec (.moduleCmdReboot via) s = .next t ∧ t.m.mstate = 2 ∧ t.m.pw.stage = 1 ∧
      t.m.jobs = []) ∧
    (s.takesWrite via 0x1010 0x02 [5] → ∃ t, exec (.moduleCmdStandby via) s = .next t ∧ t.m.mstate = 1 ∧ t.m.pw.pgood = false ∧
      t.m.jobs = []) ∧
    (∀ n, s.m.pw.snow = some n → s.m.ic.wake = false → s.m.agentQ = [] →
      (s.m.pw.waking = true → ∃ t, exec .snowdropSaveRetry s = .next t ∧ t.m.mstate = s.m.mstate ∧ t.m.pw.snow = none ∧
        t.m.pw.waking = false ∧ t.m.agent = none) ∧
      (s.m.pw.waking = false → s.m.mstate ≠ 3 → ∃ t, exec .snowdropSaveRetry s = .next t ∧ t.m.mstate = s.m.mstate ∧ t.m.pw.snow = none ∧
        t.m.agent = none) ∧
      (s.m.pw.waking = false → s.m.mstate = 3 → s.m.snowReady = true → ∃ t, exec .snowdropSaveRetry s = .next t ∧ t.m.mstate = 7 ∧
        t.m.pw.snow = none ∧ t.m.agent = none) ∧
      (s.m.pw.waking = false → s.m.mstate = 3 → s.m.snowReady = false → 100 ≤ n + 1 → ∃ t, exec .snowdropSaveRetry s = .next t ∧
        t.m.mstate = 3 ∧ t.m.pw.snow = none ∧ t.m.agent = none) ∧
      (s.m.pw.waking = false → s.m.mstate = 3 → s.m.snowReady = false → n + 1 < 100 → ∃ t, exec .snowdropSaveRetry s = .next t ∧
        t.m.pw.snow = some (n + 1) ∧ t.m.mstate = s.m.mstate ∧ t.m.agent = s.m.agent))

/-- Supply and reference clock: VIN rising with REFCLK running enters STANDBY with the node-ID pins sampled; losing VIN empties the module but for its one-time key slots; a level crossed is told to firmware; VIN out of its range from BOOT on ends in FAULT with the main rails down; REFCLK starting enters STANDBY, but for a module that a thermal trip keeps in FAULT, and losing it ends the field bus's transfer and the access under way, and every job is lost (that it is lost then and not at the next reset is log entry 57). -/
def Sys2Proof.Claim.SupplyAndClock : Prop :=
  ∀ (s : State),
    (∀ (mv : BitVec 16) (node : BitVec 7), s.m.pw.vinUp = false → 4500 < mv.toNat → s.m.pw.refclk = true → s.m.pw.trip = false → ∃ t,
      exec (.vinRise mv node) s = .next t ∧ t.m.mstate = 1 ∧ t.m.pw.vinUp = true ∧ t.m.pw.vinMv = mv.toNat ∧
      t.m.pw.nodePins = node ∧ t.m.pw.bootReq = true) ∧
    (∃ t, exec .vinLoss s = .next t ∧ t.m.mstate = 0 ∧ t.m.pw.vinUp = false ∧ t.m.jobs = [] ∧ t.m.mem = [] ∧
      t.m.flash = s.m.flash ∧ t.vault.slots = s.vault.slots ∧ t.vault.lock = false ∧ t.vault.require = false ∧ t.vault.signers = []) ∧
    (∀ mv : BitVec 16, s.m.awake = true → s.m.hubOn = true → s.m.ic.kept = none → 7000 ≤ s.m.pw.vinMv → mv.toNat < 7000 → ∃ t,
      exec (.vinLevelCrossing mv) s = .next t ∧ t.m.pw.vinMv = mv.toNat ∧ t.m.ic.now.pend.getLsbD 163 = true) ∧
    (∀ mv : BitVec 16, s.m.awake = true → 2 ≤ s.m.mstate.toNat →
      (mv.toNat < 6500 → ∃ t, exec (.brownOut mv) s = .next t ∧ t.m.mstate = 8 ∧ t.m.pw.pgood = false ∧ t.m.jobs = []) ∧
      (18500 < mv.toNat → ∃ t, exec (.overvoltage mv) s = .next t ∧ t.m.mstate = 8 ∧ t.m.pw.pgood = false ∧ t.m.jobs = [])) ∧
    (∀ node : BitVec 7, s.m.pw.refclk = false → s.m.pw.vinUp = true → ∃ t, exec (.refclkStart node) s = .next t ∧
      t.m.mstate = (if s.m.pw.trip then s.m.mstate else 1) ∧ t.m.pw.refclk = true ∧ t.m.pw.nodePins = node) ∧
    (s.m.pw.refclk = true → ∃ t, exec .refclkLoss s = .next t ∧ t.m.pw.refclk = false ∧ t.m.sop = {} ∧ t.m.evFrames = [] ∧
      t.m.agent = none ∧ t.m.jobs = [] ∧ t.m.pw.held = false ∧ t.m.mstate = (if s.m.pw.trip then s.m.mstate else 0) ∧
      t.m.err.log = s.m.err.log)

/-- Boot and reset: a boot starts from STANDBY with a cause and VIN above 7.0 V, its stages follow each other to READY or fail to FAULT, but for stages 6, 8 and 9, which cannot fail, a failing line of the hub die taking a spare or failing its stage, firmware taken from a good slot, HBM ending zero-filled with valid line code, and stage 8 lasting until every enabled port has reached UP, HELD or DOWN, RESET_N low enters STANDBY unless it is overridden or a thermal trip keeps the module in FAULT, RESET_N high boots, and the override window closes. Log entries 57, 61 and 90 name what the model reads or chooses in it. -/
def Sys2Proof.Claim.BootAndReset : Prop :=
  ∀ (s : State),
    (s.m.awake = true → s.m.mstate = 1 → s.m.pw.held = false → 7000 ≤ s.m.pw.vinMv → s.m.pw.bootReq = true → ∃ t,
      exec .bootStart s = .next t ∧ t.m.mstate = 2 ∧ t.m.pw.stage = 1 ∧ t.m.epoch = s.m.epoch + 1 ∧ t.m.pw.bootReq = false) ∧
    (s.m.mstate = 2 →
      (∀ r l u ms, s.m.pw.stage = 1 → ∃ t, exec (.bootStage (.ok r l u ms)) s = .next t ∧ t.m.pw.pgood = true ∧ t.m.pw.stage = 2) ∧
      (∀ r l u ms, s.m.pw.stage = 2 → ∃ t, exec (.bootStage (.ok r l u ms)) s = .next t ∧ t.m.wall = 0 ∧ t.m.wallRun = true ∧
        t.m.pw.stage = 3) ∧
      (∀ r u ms, s.m.pw.stage = 3 → ∃ t, exec (.bootStage (.ok r [] u ms)) s = .next t ∧ t.m.pw.stage = 4 ∧
        t.m.ms.soft = s.m.ms.soft) ∧
      (∀ r u ms (b : BadLine), s.m.pw.stage = 3 → b.tile = none →
        ∃ t, exec (.bootStage (.ok r [b] u ms)) s = .next t ∧
          if s.m.spareFree b then t.m.pw.stage = 4 ∧ t.m.ms.soft = s.m.ms.soft ++ [b] else t.m.mstate = 8) ∧
      (∀ r l ms, s.m.pw.stage = 5 → ∃ t, exec (.bootStage (.ok r l [] ms)) s = .next t ∧ t.m.pw.stage = 6 ∧
        t.m.ms.hbmFlaw = [] ∧ t.m.ms.hbmPoison = [] ∧ t.m.ms.hbmMisaddr = [] ∧ ∀ a, a < hbmSize s.m.part → memGet t.m.mem a = 0) ∧
      (∀ r l u ms, s.m.pw.stage = 4 →
        (∀ n, n = 0 ∧ s.m.slotFault 0 = none ∨ n = 1 ∧ s.m.slotFault 0 ≠ none ∧ s.m.slotFault (2 ^ 23) = none →
          ∃ t, exec (.bootStage (.ok r l u ms)) s = .next t ∧ t.m.pw.stage = 5 ∧ t.m.objD 0x1050 0x01 0xFF = n ∧
            ∀ c, (t.m.core c).run = .running ∧ (t.m.core c).th.pc = 0) ∧
        (s.m.slotFault 0 ≠ none → s.m.slotFault (2 ^ 23) ≠ none →
          ∃ t, exec (.bootStage (.ok r l u ms)) s = .next t ∧ t.m.mstate = 8 ∧ t.m.jobs = [])) ∧
      (∀ r l u ms, s.m.pw.stage = 6 → ∃ t, exec (.bootStage (.ok r l u ms)) s = .next t ∧ t.m.pw.stage = 7 ∧
        t.m.ms.failTiles = s.m.ms.failTiles ||| r) ∧
      (∀ r l u ms, s.m.pw.stage = 7 → ∃ t, exec (.bootStage (.ok r l u ms)) s = .next t ∧
        (r ||| s.m.ms.failTiles = BitVec.allOnes 64 → t.m.mstate = 8) ∧
        (r ||| s.m.ms.failTiles ≠ BitVec.allOnes 64 → t.m.pw.stage = 8 ∧ t.m.ms.failTiles = s.m.ms.failTiles ||| r)) ∧
      (∀ r l u ms, s.m.pw.stage = 8 →
        ((∀ f : BitVec 3, s.m.objD (0x6010 + f.toNat) 0x01 1 = 1 → (s.m.port f).seen = true) →
          ∃ t, exec (.bootStage (.ok r l u ms)) s = .next t ∧ t.m.pw.stage = 9 ∧ t.m.mapVer = s.m.mapVer + 1) ∧
        (∀ f : BitVec 3, s.m.objD (0x6010 + f.toNat) 0x01 1 = 1 → (s.m.port f).seen = false →
          exec (.bootStage (.ok r l u ms)) s = .next s)) ∧
      (∀ r l u ms, s.m.pw.stage = 9 → ∃ t, exec (.bootStage (.ok r l u ms)) s = .next t ∧ t.m.mstate = 3 ∧ t.m.pw.stage = 0) ∧
      (∀ why, (s.m.pw.stage ∈ [6, 8, 9] → exec (.bootStage (.failed why)) s = .next s) ∧
        (s.m.pw.stage ∈ [1, 2, 3, 4, 5, 7] → ∃ t, exec (.bootStage (.failed why)) s = .next t ∧ t.m.mstate = 8 ∧ t.m.jobs = []))) ∧
    (s.m.awake = true → s.m.pw.held = false →
      (s.m.pw.ovr = false → s.m.pw.trip = false → ∃ t, exec .resetAssert s = .next t ∧ t.m.mstate = 1 ∧ t.m.pw.held = true ∧
        t.m.pw.pgood = false ∧ t.m.jobs = []) ∧
      (s.m.pw.ovr = true ∨ s.m.pw.trip = true → ∃ t, exec .resetAssert s = .next t ∧ t.m.pw.held = true ∧ t.m.mstate = s.m.mstate ∧
        t.m.jobs = s.m.jobs)) ∧
    (s.m.awake = true → s.m.pw.held = true → s.m.pw.ovr = false → s.m.mstate = 1 → 7000 ≤ s.m.pw.vinMv → ∃ t,
      exec .resetRelease s = .next t ∧ t.m.pw.held = false ∧ t.m.pw.heldMs = s.m.resetHeldMs ∧ t.m.mstate = 2) ∧
    (∃ t, exec .ovrWindowEnd s = .next t ∧ t.m.pw = { s.m.pw with ovrWin := false } ∧ t.m.jobs = s.m.jobs)

/-- State control, supply, reference clock, boot and reset (log entries 57, 61, 90): the statements above, together. -/
def Obligations.StateControlSupplyAndBoot : Prop := Claim.StateControl ∧ Claim.SupplyAndClock ∧ Claim.BootAndReset

/-- The power controller: over the cap, or under the thermal rule, a step is shed, after ten quiet intervals the last one is restored; the current limit answers in every tile; the thermal rule begins at 105 °C, ends at 103 °C and trips at 115 °C; a failing rail that is up ends in FAULT with every main rail down; and a tile's voltage follows its slack. Log entries 57 and 60 name what the model reads or chooses in it. -/
def Sys2Proof.Claim.PowerAndHeat : Prop :=
  ∀ (s : State),
    (∀ w : BitVec 16, s.m.pw.pgood = true → s.m.wallRun = true → s.m.objD 0x2000 0x02 0 = 0 →
      (s.m.powerCap < w.toNat → 1000 < s.m.clockMhz → ∃ t, exec (.powerControl w) s = .next t ∧
        t.m.pw.shed = .clock :: s.m.pw.shed ∧ t.m.pw.quiet = 0 ∧ t.m.pw.powerW = w.toNat) ∧
      (s.m.powerCap < w.toNat → s.m.clockMhz ≤ 1000 → s.m.throttle < 3 → ∃ t, exec (.powerControl w) s = .next t ∧
        t.m.pw.shed = .throttle :: s.m.pw.shed ∧ t.m.pw.powerW = w.toNat) ∧
      (∀ r, 20 * w.toNat ≤ 19 * s.m.powerCap → s.m.pw.thermal = false → 9 ≤ s.m.pw.quiet → s.m.pw.shed = .clock :: r → ∃ t,
        exec (.powerControl w) s = .next t ∧ t.m.pw.shed = r ∧ t.m.pw.powerW = w.toNat) ∧
      (20 * w.toNat ≤ 19 * s.m.powerCap → s.m.pw.thermal = true → 1000 < s.m.clockMhz → ∃ t, exec (.powerControl w) s = .next t ∧
        t.m.pw.shed = .clock :: s.m.pw.shed ∧ t.m.pw.quiet = Nat.min 10 (s.m.pw.quiet + 1))) ∧
    (∀ ma : BitVec 32, s.m.awake = true →
      (ma.toNat < 72000 → ∃ t, exec (.currentLimit ma) s = .next t ∧ t.m.pw.limit = false ∧ t.m.pw.vinMa = ma.toNat ∧
        t.m.pw.avs = s.m.pw.avs) ∧
      (72000 ≤ ma.toNat → s.m.pw.pgood = true → ∃ t, exec (.currentLimit ma) s = .next t ∧ t.m.pw.limit = true ∧
        ∀ x : TileId, s.m.ms.failTiles.getLsbD x.toNat = false → (t.m.avs x).drop = (s.m.avs x).drop - 10 ∧
          (t.m.avs x).stretches = Nat.min 65535 ((s.m.avs x).stretches + 1))) ∧
    (∀ tj : BitVec 32, s.m.awake = true →
      (105 ≤ tj.toInt → s.m.pw.thermal = false → s.m.hubOn = true → s.m.ic.kept = none → ∃ t, exec (.thermalAlert tj) s = .next t ∧
        t.m.pw.thermal = true ∧ t.m.pw.tj = tj.toInt ∧ t.m.ic.now.pend.getLsbD 162 = true) ∧
      (tj.toInt ≤ 103 → ∃ t, exec (.thermalRuleEnd tj) s = .next t ∧ t.m.pw.thermal = false ∧ t.m.pw.tj = tj.toInt) ∧
      (115 ≤ tj.toInt → 2 ≤ s.m.mstate.toNat → ∃ t, exec (.thermalTrip tj) s = .next t ∧ t.m.pw.trip = true ∧ t.m.mstate = 8 ∧
        t.m.pw.pgood = false)) ∧
    (∀ rail : Byte, rail.toNat < 10 →
      (s.m.pw.rails.getLsbD rail.toNat = true → ∃ t, exec (.railFault rail) s = .next t ∧ t.m.mstate = 8 ∧ t.m.pw.rails = 0) ∧
      (s.m.pw.rails.getLsbD rail.toNat = false → exec (.railFault rail) s = .next s)) ∧
    (∀ (x : TileId) (k : BitVec 6), s.m.pw.pgood = true → let a := s.m.avs x
      (k.toNat < 3 → ∃ t, exec (.avsWindow x k) s = .next t ∧ (t.m.avs x).drop = a.drop - 5 ∧ (t.m.avs x).slack = k) ∧
      (3 ≤ k.toNat → k.toNat ≤ 8 → ∃ t, exec (.avsWindow x k) s = .next t ∧ (t.m.avs x).drop = a.drop ∧ (t.m.avs x).high = 0) ∧
      (8 < k.toNat → a.high + 1 < 100 → ∃ t, exec (.avsWindow x k) s = .next t ∧ (t.m.avs x).drop = a.drop ∧
        (t.m.avs x).high = a.high + 1) ∧
      (8 < k.toNat → 100 ≤ a.high + 1 → ∃ t, exec (.avsWindow x k) s = .next t ∧
        (t.m.avs x).drop = Nat.min (a.drop + 5) (vmaxMv x - vminMv x) ∧ (t.m.avs x).high = 0) ∧
      (∃ t, exec (.droopResponse x) s = .next t ∧ (t.m.avs x).drop = a.drop - 10 ∧
        (t.m.avs x).stretches = Nat.min 65535 (a.stretches + 1))) ∧
    (∀ x : TileId, s.m.setNow = [] → ∃ t, exec (.avsStat x) s = .next t ∧ t.m.sent = s.m.sent ++ [.value (s.m.avsStat x)] ∧
      (t.m.avs x).stretches = 0 ∧ (t.m.avs x).drop = (s.m.avs x).drop)

/-- JTAG, the PCIe pins, the flash and the error log: EXTEST drives the scanned pins and HIGHZ floats them in READY and FAULT alone, the other instructions leave the pins functional, IDCODE shifts its word out, EXTEST and SAMPLE/PRELOAD what the chain captured, a free value of the pins' levels (log entry 63), the link comes up once PERST_N is released, an operation of the flash leaves its bytes and tells its end by source 161, and the oldest detection goes to the log. Log entry 90 names what the model reads or chooses in it. -/
def Sys2Proof.Claim.PinsAndTheLog : Prop :=
  ∀ (s : State),
    (∀ d : Word, s.m.pw.pgood = true →
      (s.m.mstate = 3 ∨ s.m.mstate = 8 → ∃ t, exec (.extest d) s = .next t ∧ t.m.jtag.pins = .scan d ∧ t.m.jtag.chain = d ∧
        t.m.sent = s.m.sent ++ [.value (Config.scanChain s.m.gpioLevels s.m.free)]) ∧
      (s.m.mstate ≠ 3 → s.m.mstate ≠ 8 → ∃ t, exec (.extest d) s = .next t ∧ t.m.jtag.pins = .functional ∧
        t.m.sent = s.m.sent ++ [.value (d <<< 1)]) ∧
      (∃ t, exec (.samplePreload d) s = .next t ∧ t.m.jtag.pins = .functional ∧ t.m.jtag.chain = d ∧
        t.m.sent = s.m.sent ++ [.value (Config.scanChain s.m.gpioLevels s.m.free)])) ∧
    (s.m.pw.pgood = true →
      (s.m.mstate = 3 ∨ s.m.mstate = 8 → ∃ t, exec .highz s = .next t ∧ t.m.jtag.pins = .highz) ∧
      (s.m.mstate ≠ 3 → s.m.mstate ≠ 8 → ∃ t, exec .highz s = .next t ∧ t.m.jtag.pins = .functional) ∧
      (∃ t, exec .idcode s = .next t ∧ t.m.jtag.pins = .functional ∧ t.m.sent = s.m.sent ++ [.value 0x1819254B]) ∧
      (∃ t, exec .bypass s = .next t ∧ t.m.jtag.pins = .functional ∧ t.m.jtag.ir = 0xFF)) ∧
    (∃ t, exec .testLogicReset s = .next t ∧ t.m.jtag.pins = .functional ∧ t.m.jtag.ir = 2) ∧
    (∃ t, exec .pciePerstRelease s = .next t ∧ t.m.pw = { s.m.pw with perst := true }) ∧
    (∀ (r : BitVec 3) (w : BitVec 5), rateOk r = true → widthOk w = true → s.m.pw.perst = true → s.m.pw.rails.getLsbD 9 = true → s.m.pw.linkUp = false →
      (s.m.mstate = 2 → 2 ≤ s.m.pw.stage) → ∃ t, exec (.pcieLinkUp r w) s = .next t ∧ t.m.pw.linkUp = true ∧
        t.m.pw.linkRate = r.toNat ∧ t.m.pw.linkWidth = w.toNat) ∧
    (s.m.hubOn = true → s.m.ic.kept = none →
      ∃ t, exec .qspiOperationComplete s = .next t ∧ t.m.ic.now.pend.getLsbD 161 = true ∧ t.m.flashOp = .keep ∧
        (s.m.flashOp = .keep → t.m.flash = s.m.flash ∧ t.m.repairLog = s.m.repairLog) ∧
        (∀ off d, s.m.flashOp = .write off d → t.m.flash = memWrite s.m.flash off.toNat (d.take (2 ^ 25 - off.toNat)) ∧
          (off.toNat + d.length ≤ 0x1000000 → t.m.repairLog = s.m.repairLog ∧ t.m.objs = (s.m.raiseSource 161).objs)) ∧
        (∀ l, s.m.flashOp = .repairs l → t.m.repairLog = l ∧ t.m.flash = s.m.flash)) ∧
    (∀ e r, s.m.err.queue = e :: r → SMap.get? s.m.err.lastByBlock e.block = none → e.perm = false → s.m.err.log.length < 1024 →
      ∃ t, exec .errlogWrite s = .next t ∧ t.m.err.queue = r ∧ t.m.err.total = s.m.err.total + 1 ∧
        t.m.err.log = s.m.err.log ++ [{ e with seq := BitVec.ofNat 64 (s.m.err.total + 1),
                                               w2 := e.w2 ||| at64 (Nat.min (SMap.getD s.m.err.supp e.block 0) 255) 8 }])

/-- The power controller, heat, margins, JTAG, pins and the error log (log entries 57, 60, 63, 90): the statements above, together. -/
def Obligations.PowerPinsAndTheLog : Prop := Claim.PowerAndHeat ∧ Claim.PinsAndTheLog

/-! Words, reset and what every step keeps -/

/-- Every instruction word decodes to the instruction it encodes, with every operand at every value; and every word that decodes is the word of an instruction of BIS. -/
def Obligations.EncodedInstructionsDecode : Prop :=
  (∀ (i : Instr) (w : BitVec 32), encodeBis i = some w → ∃ x, decodeBis x w = some i) ∧
  (∀ (x : Exec) (w : BitVec 32) (i : Instr), decodeBis x w = some i → ∃ w', encodeBis i = some w' ∧ decodeBis x w' = some i)

/-- Words written out in the spec: those of its worked firing decode to L4AND, EMIT and DONE, and the word 0 is illegal on both sides. -/
def Sys2Proof.Claim.WordsOfTheSpecDecode : Prop :=
  ∀ x : Exec, decodeBis x 0x2CA24000 = some (.l4and x 2 8 9) ∧ decodeBis x 0x60980100 = some (.emit x 2 12 false 1) ∧
    decodeBis x 0x6C000000 = some (.done x) ∧ decodeBis x 0 = none ∧ (∀ w : BitVec 32, w.toNat < 0x04000000 → decodeBis x w = none)

/-- Right after reset no command waits, no key slot is sealed or revoked and the signing rules are open, every job is EMPTY, no interrupt is pending or active, every lock is free with a lease of 1,000 µs, every GPIO pin is an input, no port is in service, and the memories stand in canonical form. -/
def Sys2Proof.Claim.ResetState : Prop :=
  State.reset.pending = [] ∧ State.reset.vault.lock = false ∧ (∀ k, SMap.get? State.reset.vault.slots k = none) ∧
  (∀ j, (State.reset.m.job j).state = .empty) ∧ State.reset.m.ic.now.pend = 0 ∧ State.reset.m.ic.now.act = 0 ∧
  (∀ n, (State.reset.m.lock n).owner = 0 ∧ (State.reset.m.lock n).lease = 1000) ∧
  State.reset.m.pw.gpioCtl.extractLsb' 8 8 = (0 : BitVec 8) ∧ (∀ f, (State.reset.m.port f).state = 0) ∧
  State.reset.m.memOk = true ∧ State.reset.m.bounded = true

/-- Words of the spec decode, and what reset leaves: the statements above, together. -/
def Obligations.WordsAndReset : Prop := Claim.WordsOfTheSpecDecode ∧ Claim.ResetState

/-- A key slot moves only from empty to sealed to revoked in any step, and while the signing rules are locked no step but the loss of VIN changes them or opens them. -/
def Obligations.KeySlotsOnlyMoveForward : Prop :=
  ∀ s t : State, step s = .next t →
    (∀ k x, SMap.get? s.vault.slots k = some x → x ≠ .empty →
      SMap.get? t.vault.slots k = some x ∨ SMap.get? t.vault.slots k = some .revoked) ∧
    (s.vault.lock = true → s.pending.head? ≠ some .vinLoss →
      t.vault.lock = true ∧ t.vault.signers = s.vault.signers ∧ t.vault.require = s.vault.require)
end

