-- ==== Sys2Proof/Laws/Map.lean ====
section
/-! SUPPORT. Laws of the sparse maps: what reading a map after a write gives. -/

namespace Sys2Proof.Machine.SMap

variable {α : Type} (m : SMap α) (k j : Nat) (v d : α)

@[simp] theorem get?_nil : SMap.get? ([] : SMap α) k = none := rfl

@[simp] theorem get?_set_self : SMap.get? (SMap.set m k v) k = some v := by
  induction m with
  | nil => simp [SMap.set, SMap.get?]
  | cons e r ih =>
    obtain ⟨k', v'⟩ := e
    unfold SMap.set
    split
    · simp [SMap.get?]
    · split
      · simp [SMap.get?]
      · next h1 h2 => simp [SMap.get?, Ne.symm h2, ih]

theorem get?_set_ne (h : j ≠ k) : SMap.get? (SMap.set m k v) j = SMap.get? m j := by
  induction m with
  | nil => simp [SMap.set, SMap.get?, Ne.symm h]
  | cons e r ih =>
    obtain ⟨k', v'⟩ := e
    unfold SMap.set
    split
    · simp [SMap.get?, Ne.symm h]
    · split
      · next _ h2 => subst h2; simp [SMap.get?, Ne.symm h]
      · simp only [SMap.get?, ih]

@[simp] theorem getD_set_self : SMap.getD (SMap.set m k v) k d = v := by simp [SMap.getD]

theorem getD_set_ne (h : j ≠ k) : SMap.getD (SMap.set m k v) j d = SMap.getD m j d := by
  simp [SMap.getD, get?_set_ne m k j v h]

/-- Reading a map after a write at any key. -/
theorem getD_set : SMap.getD (SMap.set m k v) j d = if j = k then v else SMap.getD m j d := by
  split
  · next h => subst h; simp
  · next h => exact getD_set_ne m k j v d h

@[simp] theorem getD_modify_self (f : α → α) : SMap.getD (SMap.modify m k d f) k d = f (SMap.getD m k d) := by
  simp [SMap.modify]

@[simp] theorem get?_erase_self : SMap.get? (SMap.erase m k) k = none := by
  induction m with
  | nil => rfl
  | cons e r ih =>
    obtain ⟨k', v'⟩ := e
    by_cases h : k' = k
    · simpa [SMap.erase, h] using ih
    · have : SMap.erase ((k', v') :: r) k = (k', v') :: SMap.erase r k := by simp [SMap.erase, h]
      rw [this]; simpa [SMap.get?, h] using ih

theorem get?_erase_ne (h : j ≠ k) : SMap.get? (SMap.erase m k) j = SMap.get? m j := by
  induction m with
  | nil => rfl
  | cons e r ih =>
    obtain ⟨k', v'⟩ := e
    by_cases hk : k' = k
    · have : SMap.erase ((k', v') :: r) k = SMap.erase r k := by simp [SMap.erase, hk]
      rw [this, ih, hk]; simp [SMap.get?, Ne.symm h]
    · have : SMap.erase ((k', v') :: r) k = (k', v') :: SMap.erase r k := by simp [SMap.erase, hk]
      rw [this]; simp only [SMap.get?, ih]

end Sys2Proof.Machine.SMap
end

