-- ==== Sys2Proof/Laws/State.lean ====
section
/-! SUPPORT. Laws of the module's updates: each field an update leaves alone, and each part read after it is changed. -/

namespace Sys2Proof.Machine.Mach

variable (m : Mach)

/-! setPe -/

@[simp] theorem setPe_clusters (p : PeId) (x : Pe) : (m.setPe p x).clusters = m.clusters := rfl
@[simp] theorem setPe_tiles (p : PeId) (x : Pe) : (m.setPe p x).tiles = m.tiles := rfl
@[simp] theorem setPe_jobs (p : PeId) (x : Pe) : (m.setPe p x).jobs = m.jobs := rfl
@[simp] theorem setPe_net (p : PeId) (x : Pe) : (m.setPe p x).net = m.net := rfl
@[simp] theorem setPe_mem (p : PeId) (x : Pe) : (m.setPe p x).mem = m.mem := rfl
@[simp] theorem setPe_ms (p : PeId) (x : Pe) : (m.setPe p x).ms = m.ms := rfl
@[simp] theorem setPe_cores (p : PeId) (x : Pe) : (m.setPe p x).cores = m.cores := rfl
@[simp] theorem setPe_err (p : PeId) (x : Pe) : (m.setPe p x).err = m.err := rfl
@[simp] theorem setPe_objs (p : PeId) (x : Pe) : (m.setPe p x).objs = m.objs := rfl
@[simp] theorem setPe_quanta (p : PeId) (x : Pe) : (m.setPe p x).quanta = m.quanta := rfl
@[simp] theorem setPe_wall (p : PeId) (x : Pe) : (m.setPe p x).wall = m.wall := rfl
@[simp] theorem setPe_cycle (p : PeId) (x : Pe) : (m.setPe p x).cycle = m.cycle := rfl
@[simp] theorem setPe_hubTerms (p : PeId) (x : Pe) : (m.setPe p x).hubTerms = m.hubTerms := rfl
@[simp] theorem setPe_evr (p : PeId) (x : Pe) : (m.setPe p x).evr = m.evr := rfl
@[simp] theorem setPe_ic (p : PeId) (x : Pe) : (m.setPe p x).ic = m.ic := rfl
@[simp] theorem setPe_sched (p : PeId) (x : Pe) : (m.setPe p x).sched = m.sched := rfl
@[simp] theorem setPe_pairs (p : PeId) (x : Pe) : (m.setPe p x).pairs = m.pairs := rfl
@[simp] theorem setPe_mbx (p : PeId) (x : Pe) : (m.setPe p x).mbx = m.mbx := rfl
@[simp] theorem setPe_streams (p : PeId) (x : Pe) : (m.setPe p x).streams = m.streams := rfl
@[simp] theorem setPe_triggers (p : PeId) (x : Pe) : (m.setPe p x).triggers = m.triggers := rfl
@[simp] theorem setPe_ports (p : PeId) (x : Pe) : (m.setPe p x).ports = m.ports := rfl
@[simp] theorem setPe_locks (p : PeId) (x : Pe) : (m.setPe p x).locks = m.locks := rfl
@[simp] theorem setPe_funcs (p : PeId) (x : Pe) : (m.setPe p x).funcs = m.funcs := rfl
@[simp] theorem setPe_mstate (p : PeId) (x : Pe) : (m.setPe p x).mstate = m.mstate := rfl
@[simp] theorem setPe_pw (p : PeId) (x : Pe) : (m.setPe p x).pw = m.pw := rfl
@[simp] theorem setPe_sent (p : PeId) (x : Pe) : (m.setPe p x).sent = m.sent := rfl
@[simp] theorem setPe_up (p : PeId) (x : Pe) : (m.setPe p x).up = m.up := rfl
@[simp] theorem setPe_flash (p : PeId) (x : Pe) : (m.setPe p x).flash = m.flash := rfl
@[simp] theorem setPe_features (p : PeId) (x : Pe) : (m.setPe p x).features = m.features := rfl
@[simp] theorem setPe_repairLog (p : PeId) (x : Pe) : (m.setPe p x).repairLog = m.repairLog := rfl
@[simp] theorem setPe_hardRows (p : PeId) (x : Pe) : (m.setPe p x).hardRows = m.hardRows := rfl
@[simp] theorem setPe_setNow (p : PeId) (x : Pe) : (m.setPe p x).setNow = m.setNow := rfl
@[simp] theorem setPe_agent (p : PeId) (x : Pe) : (m.setPe p x).agent = m.agent := rfl
@[simp] theorem setPe_agentQ (p : PeId) (x : Pe) : (m.setPe p x).agentQ = m.agentQ := rfl
@[simp] theorem setPe_loads (p : PeId) (x : Pe) : (m.setPe p x).loads = m.loads := rfl
@[simp] theorem setPe_tgt (p : PeId) (x : Pe) : (m.setPe p x).tgt = m.tgt := rfl
@[simp] theorem setPe_wave (p : PeId) (x : Pe) : (m.setPe p x).wave = m.wave := rfl
@[simp] theorem setPe_coll (p : PeId) (x : Pe) : (m.setPe p x).coll = m.coll := rfl
@[simp] theorem setPe_pmsgs (p : PeId) (x : Pe) : (m.setPe p x).pmsgs = m.pmsgs := rfl

/-! modPe -/

@[simp] theorem modPe_clusters (p : PeId) (f : Pe → Pe) : (m.modPe p f).clusters = m.clusters := rfl
@[simp] theorem modPe_tiles (p : PeId) (f : Pe → Pe) : (m.modPe p f).tiles = m.tiles := rfl
@[simp] theorem modPe_jobs (p : PeId) (f : Pe → Pe) : (m.modPe p f).jobs = m.jobs := rfl
@[simp] theorem modPe_net (p : PeId) (f : Pe → Pe) : (m.modPe p f).net = m.net := rfl
@[simp] theorem modPe_mem (p : PeId) (f : Pe → Pe) : (m.modPe p f).mem = m.mem := rfl
@[simp] theorem modPe_ms (p : PeId) (f : Pe → Pe) : (m.modPe p f).ms = m.ms := rfl
@[simp] theorem modPe_cores (p : PeId) (f : Pe → Pe) : (m.modPe p f).cores = m.cores := rfl
@[simp] theorem modPe_err (p : PeId) (f : Pe → Pe) : (m.modPe p f).err = m.err := rfl
@[simp] theorem modPe_objs (p : PeId) (f : Pe → Pe) : (m.modPe p f).objs = m.objs := rfl
@[simp] theorem modPe_quanta (p : PeId) (f : Pe → Pe) : (m.modPe p f).quanta = m.quanta := rfl
@[simp] theorem modPe_wall (p : PeId) (f : Pe → Pe) : (m.modPe p f).wall = m.wall := rfl
@[simp] theorem modPe_cycle (p : PeId) (f : Pe → Pe) : (m.modPe p f).cycle = m.cycle := rfl
@[simp] theorem modPe_hubTerms (p : PeId) (f : Pe → Pe) : (m.modPe p f).hubTerms = m.hubTerms := rfl
@[simp] theorem modPe_evr (p : PeId) (f : Pe → Pe) : (m.modPe p f).evr = m.evr := rfl
@[simp] theorem modPe_ic (p : PeId) (f : Pe → Pe) : (m.modPe p f).ic = m.ic := rfl
@[simp] theorem modPe_sched (p : PeId) (f : Pe → Pe) : (m.modPe p f).sched = m.sched := rfl
@[simp] theorem modPe_pairs (p : PeId) (f : Pe → Pe) : (m.modPe p f).pairs = m.pairs := rfl
@[simp] theorem modPe_mbx (p : PeId) (f : Pe → Pe) : (m.modPe p f).mbx = m.mbx := rfl
@[simp] theorem modPe_streams (p : PeId) (f : Pe → Pe) : (m.modPe p f).streams = m.streams := rfl
@[simp] theorem modPe_triggers (p : PeId) (f : Pe → Pe) : (m.modPe p f).triggers = m.triggers := rfl
@[simp] theorem modPe_ports (p : PeId) (f : Pe → Pe) : (m.modPe p f).ports = m.ports := rfl
@[simp] theorem modPe_locks (p : PeId) (f : Pe → Pe) : (m.modPe p f).locks = m.locks := rfl
@[simp] theorem modPe_funcs (p : PeId) (f : Pe → Pe) : (m.modPe p f).funcs = m.funcs := rfl
@[simp] theorem modPe_mstate (p : PeId) (f : Pe → Pe) : (m.modPe p f).mstate = m.mstate := rfl
@[simp] theorem modPe_pw (p : PeId) (f : Pe → Pe) : (m.modPe p f).pw = m.pw := rfl
@[simp] theorem modPe_sent (p : PeId) (f : Pe → Pe) : (m.modPe p f).sent = m.sent := rfl
@[simp] theorem modPe_up (p : PeId) (f : Pe → Pe) : (m.modPe p f).up = m.up := rfl
@[simp] theorem modPe_flash (p : PeId) (f : Pe → Pe) : (m.modPe p f).flash = m.flash := rfl
@[simp] theorem modPe_features (p : PeId) (f : Pe → Pe) : (m.modPe p f).features = m.features := rfl
@[simp] theorem modPe_repairLog (p : PeId) (f : Pe → Pe) : (m.modPe p f).repairLog = m.repairLog := rfl
@[simp] theorem modPe_hardRows (p : PeId) (f : Pe → Pe) : (m.modPe p f).hardRows = m.hardRows := rfl
@[simp] theorem modPe_setNow (p : PeId) (f : Pe → Pe) : (m.modPe p f).setNow = m.setNow := rfl
@[simp] theorem modPe_agent (p : PeId) (f : Pe → Pe) : (m.modPe p f).agent = m.agent := rfl
@[simp] theorem modPe_agentQ (p : PeId) (f : Pe → Pe) : (m.modPe p f).agentQ = m.agentQ := rfl
@[simp] theorem modPe_loads (p : PeId) (f : Pe → Pe) : (m.modPe p f).loads = m.loads := rfl
@[simp] theorem modPe_tgt (p : PeId) (f : Pe → Pe) : (m.modPe p f).tgt = m.tgt := rfl
@[simp] theorem modPe_wave (p : PeId) (f : Pe → Pe) : (m.modPe p f).wave = m.wave := rfl
@[simp] theorem modPe_coll (p : PeId) (f : Pe → Pe) : (m.modPe p f).coll = m.coll := rfl
@[simp] theorem modPe_pmsgs (p : PeId) (f : Pe → Pe) : (m.modPe p f).pmsgs = m.pmsgs := rfl

/-! setTile -/

@[simp] theorem setTile_pes (t : TileId) (x : Tile) : (m.setTile t x).pes = m.pes := rfl
@[simp] theorem setTile_clusters (t : TileId) (x : Tile) : (m.setTile t x).clusters = m.clusters := rfl
@[simp] theorem setTile_jobs (t : TileId) (x : Tile) : (m.setTile t x).jobs = m.jobs := rfl
@[simp] theorem setTile_net (t : TileId) (x : Tile) : (m.setTile t x).net = m.net := rfl
@[simp] theorem setTile_mem (t : TileId) (x : Tile) : (m.setTile t x).mem = m.mem := rfl
@[simp] theorem setTile_ms (t : TileId) (x : Tile) : (m.setTile t x).ms = m.ms := rfl
@[simp] theorem setTile_cores (t : TileId) (x : Tile) : (m.setTile t x).cores = m.cores := rfl
@[simp] theorem setTile_err (t : TileId) (x : Tile) : (m.setTile t x).err = m.err := rfl
@[simp] theorem setTile_objs (t : TileId) (x : Tile) : (m.setTile t x).objs = m.objs := rfl
@[simp] theorem setTile_quanta (t : TileId) (x : Tile) : (m.setTile t x).quanta = m.quanta := rfl
@[simp] theorem setTile_wall (t : TileId) (x : Tile) : (m.setTile t x).wall = m.wall := rfl
@[simp] theorem setTile_cycle (t : TileId) (x : Tile) : (m.setTile t x).cycle = m.cycle := rfl
@[simp] theorem setTile_hubTerms (t : TileId) (x : Tile) : (m.setTile t x).hubTerms = m.hubTerms := rfl
@[simp] theorem setTile_evr (t : TileId) (x : Tile) : (m.setTile t x).evr = m.evr := rfl
@[simp] theorem setTile_ic (t : TileId) (x : Tile) : (m.setTile t x).ic = m.ic := rfl
@[simp] theorem setTile_sched (t : TileId) (x : Tile) : (m.setTile t x).sched = m.sched := rfl
@[simp] theorem setTile_pairs (t : TileId) (x : Tile) : (m.setTile t x).pairs = m.pairs := rfl
@[simp] theorem setTile_mbx (t : TileId) (x : Tile) : (m.setTile t x).mbx = m.mbx := rfl
@[simp] theorem setTile_streams (t : TileId) (x : Tile) : (m.setTile t x).streams = m.streams := rfl
@[simp] theorem setTile_triggers (t : TileId) (x : Tile) : (m.setTile t x).triggers = m.triggers := rfl
@[simp] theorem setTile_ports (t : TileId) (x : Tile) : (m.setTile t x).ports = m.ports := rfl
@[simp] theorem setTile_locks (t : TileId) (x : Tile) : (m.setTile t x).locks = m.locks := rfl
@[simp] theorem setTile_funcs (t : TileId) (x : Tile) : (m.setTile t x).funcs = m.funcs := rfl
@[simp] theorem setTile_mstate (t : TileId) (x : Tile) : (m.setTile t x).mstate = m.mstate := rfl
@[simp] theorem setTile_pw (t : TileId) (x : Tile) : (m.setTile t x).pw = m.pw := rfl
@[simp] theorem setTile_sent (t : TileId) (x : Tile) : (m.setTile t x).sent = m.sent := rfl
@[simp] theorem setTile_up (t : TileId) (x : Tile) : (m.setTile t x).up = m.up := rfl
@[simp] theorem setTile_flash (t : TileId) (x : Tile) : (m.setTile t x).flash = m.flash := rfl
@[simp] theorem setTile_features (t : TileId) (x : Tile) : (m.setTile t x).features = m.features := rfl
@[simp] theorem setTile_repairLog (t : TileId) (x : Tile) : (m.setTile t x).repairLog = m.repairLog := rfl
@[simp] theorem setTile_hardRows (t : TileId) (x : Tile) : (m.setTile t x).hardRows = m.hardRows := rfl
@[simp] theorem setTile_setNow (t : TileId) (x : Tile) : (m.setTile t x).setNow = m.setNow := rfl
@[simp] theorem setTile_agent (t : TileId) (x : Tile) : (m.setTile t x).agent = m.agent := rfl
@[simp] theorem setTile_agentQ (t : TileId) (x : Tile) : (m.setTile t x).agentQ = m.agentQ := rfl
@[simp] theorem setTile_loads (t : TileId) (x : Tile) : (m.setTile t x).loads = m.loads := rfl
@[simp] theorem setTile_tgt (t : TileId) (x : Tile) : (m.setTile t x).tgt = m.tgt := rfl
@[simp] theorem setTile_wave (t : TileId) (x : Tile) : (m.setTile t x).wave = m.wave := rfl
@[simp] theorem setTile_coll (t : TileId) (x : Tile) : (m.setTile t x).coll = m.coll := rfl
@[simp] theorem setTile_pmsgs (t : TileId) (x : Tile) : (m.setTile t x).pmsgs = m.pmsgs := rfl

/-! modTile -/

@[simp] theorem modTile_pes (t : TileId) (f : Tile → Tile) : (m.modTile t f).pes = m.pes := rfl
@[simp] theorem modTile_clusters (t : TileId) (f : Tile → Tile) : (m.modTile t f).clusters = m.clusters := rfl
@[simp] theorem modTile_jobs (t : TileId) (f : Tile → Tile) : (m.modTile t f).jobs = m.jobs := rfl
@[simp] theorem modTile_net (t : TileId) (f : Tile → Tile) : (m.modTile t f).net = m.net := rfl
@[simp] theorem modTile_mem (t : TileId) (f : Tile → Tile) : (m.modTile t f).mem = m.mem := rfl
@[simp] theorem modTile_ms (t : TileId) (f : Tile → Tile) : (m.modTile t f).ms = m.ms := rfl
@[simp] theorem modTile_cores (t : TileId) (f : Tile → Tile) : (m.modTile t f).cores = m.cores := rfl
@[simp] theorem modTile_err (t : TileId) (f : Tile → Tile) : (m.modTile t f).err = m.err := rfl
@[simp] theorem modTile_objs (t : TileId) (f : Tile → Tile) : (m.modTile t f).objs = m.objs := rfl
@[simp] theorem modTile_quanta (t : TileId) (f : Tile → Tile) : (m.modTile t f).quanta = m.quanta := rfl
@[simp] theorem modTile_wall (t : TileId) (f : Tile → Tile) : (m.modTile t f).wall = m.wall := rfl
@[simp] theorem modTile_cycle (t : TileId) (f : Tile → Tile) : (m.modTile t f).cycle = m.cycle := rfl
@[simp] theorem modTile_hubTerms (t : TileId) (f : Tile → Tile) : (m.modTile t f).hubTerms = m.hubTerms := rfl
@[simp] theorem modTile_evr (t : TileId) (f : Tile → Tile) : (m.modTile t f).evr = m.evr := rfl
@[simp] theorem modTile_ic (t : TileId) (f : Tile → Tile) : (m.modTile t f).ic = m.ic := rfl
@[simp] theorem modTile_sched (t : TileId) (f : Tile → Tile) : (m.modTile t f).sched = m.sched := rfl
@[simp] theorem modTile_pairs (t : TileId) (f : Tile → Tile) : (m.modTile t f).pairs = m.pairs := rfl
@[simp] theorem modTile_mbx (t : TileId) (f : Tile → Tile) : (m.modTile t f).mbx = m.mbx := rfl
@[simp] theorem modTile_streams (t : TileId) (f : Tile → Tile) : (m.modTile t f).streams = m.streams := rfl
@[simp] theorem modTile_triggers (t : TileId) (f : Tile → Tile) : (m.modTile t f).triggers = m.triggers := rfl
@[simp] theorem modTile_ports (t : TileId) (f : Tile → Tile) : (m.modTile t f).ports = m.ports := rfl
@[simp] theorem modTile_locks (t : TileId) (f : Tile → Tile) : (m.modTile t f).locks = m.locks := rfl
@[simp] theorem modTile_funcs (t : TileId) (f : Tile → Tile) : (m.modTile t f).funcs = m.funcs := rfl
@[simp] theorem modTile_mstate (t : TileId) (f : Tile → Tile) : (m.modTile t f).mstate = m.mstate := rfl
@[simp] theorem modTile_pw (t : TileId) (f : Tile → Tile) : (m.modTile t f).pw = m.pw := rfl
@[simp] theorem modTile_sent (t : TileId) (f : Tile → Tile) : (m.modTile t f).sent = m.sent := rfl
@[simp] theorem modTile_up (t : TileId) (f : Tile → Tile) : (m.modTile t f).up = m.up := rfl
@[simp] theorem modTile_flash (t : TileId) (f : Tile → Tile) : (m.modTile t f).flash = m.flash := rfl
@[simp] theorem modTile_features (t : TileId) (f : Tile → Tile) : (m.modTile t f).features = m.features := rfl
@[simp] theorem modTile_repairLog (t : TileId) (f : Tile → Tile) : (m.modTile t f).repairLog = m.repairLog := rfl
@[simp] theorem modTile_hardRows (t : TileId) (f : Tile → Tile) : (m.modTile t f).hardRows = m.hardRows := rfl
@[simp] theorem modTile_setNow (t : TileId) (f : Tile → Tile) : (m.modTile t f).setNow = m.setNow := rfl
@[simp] theorem modTile_agent (t : TileId) (f : Tile → Tile) : (m.modTile t f).agent = m.agent := rfl
@[simp] theorem modTile_agentQ (t : TileId) (f : Tile → Tile) : (m.modTile t f).agentQ = m.agentQ := rfl
@[simp] theorem modTile_loads (t : TileId) (f : Tile → Tile) : (m.modTile t f).loads = m.loads := rfl
@[simp] theorem modTile_tgt (t : TileId) (f : Tile → Tile) : (m.modTile t f).tgt = m.tgt := rfl
@[simp] theorem modTile_wave (t : TileId) (f : Tile → Tile) : (m.modTile t f).wave = m.wave := rfl
@[simp] theorem modTile_coll (t : TileId) (f : Tile → Tile) : (m.modTile t f).coll = m.coll := rfl
@[simp] theorem modTile_pmsgs (t : TileId) (f : Tile → Tile) : (m.modTile t f).pmsgs = m.pmsgs := rfl

/-! modCluster -/

@[simp] theorem modCluster_pes (c : ClusterId) (f : Cluster → Cluster) : (m.modCluster c f).pes = m.pes := rfl
@[simp] theorem modCluster_tiles (c : ClusterId) (f : Cluster → Cluster) : (m.modCluster c f).tiles = m.tiles := rfl
@[simp] theorem modCluster_jobs (c : ClusterId) (f : Cluster → Cluster) : (m.modCluster c f).jobs = m.jobs := rfl
@[simp] theorem modCluster_net (c : ClusterId) (f : Cluster → Cluster) : (m.modCluster c f).net = m.net := rfl
@[simp] theorem modCluster_mem (c : ClusterId) (f : Cluster → Cluster) : (m.modCluster c f).mem = m.mem := rfl
@[simp] theorem modCluster_ms (c : ClusterId) (f : Cluster → Cluster) : (m.modCluster c f).ms = m.ms := rfl
@[simp] theorem modCluster_cores (c : ClusterId) (f : Cluster → Cluster) : (m.modCluster c f).cores = m.cores := rfl
@[simp] theorem modCluster_err (c : ClusterId) (f : Cluster → Cluster) : (m.modCluster c f).err = m.err := rfl
@[simp] theorem modCluster_objs (c : ClusterId) (f : Cluster → Cluster) : (m.modCluster c f).objs = m.objs := rfl
@[simp] theorem modCluster_quanta (c : ClusterId) (f : Cluster → Cluster) : (m.modCluster c f).quanta = m.quanta := rfl
@[simp] theorem modCluster_wall (c : ClusterId) (f : Cluster → Cluster) : (m.modCluster c f).wall = m.wall := rfl
@[simp] theorem modCluster_cycle (c : ClusterId) (f : Cluster → Cluster) : (m.modCluster c f).cycle = m.cycle := rfl
@[simp] theorem modCluster_hubTerms (c : ClusterId) (f : Cluster → Cluster) : (m.modCluster c f).hubTerms = m.hubTerms := rfl
@[simp] theorem modCluster_evr (c : ClusterId) (f : Cluster → Cluster) : (m.modCluster c f).evr = m.evr := rfl
@[simp] theorem modCluster_ic (c : ClusterId) (f : Cluster → Cluster) : (m.modCluster c f).ic = m.ic := rfl
@[simp] theorem modCluster_sched (c : ClusterId) (f : Cluster → Cluster) : (m.modCluster c f).sched = m.sched := rfl
@[simp] theorem modCluster_pairs (c : ClusterId) (f : Cluster → Cluster) : (m.modCluster c f).pairs = m.pairs := rfl
@[simp] theorem modCluster_mbx (c : ClusterId) (f : Cluster → Cluster) : (m.modCluster c f).mbx = m.mbx := rfl
@[simp] theorem modCluster_streams (c : ClusterId) (f : Cluster → Cluster) : (m.modCluster c f).streams = m.streams := rfl
@[simp] theorem modCluster_triggers (c : ClusterId) (f : Cluster → Cluster) : (m.modCluster c f).triggers = m.triggers := rfl
@[simp] theorem modCluster_ports (c : ClusterId) (f : Cluster → Cluster) : (m.modCluster c f).ports = m.ports := rfl
@[simp] theorem modCluster_locks (c : ClusterId) (f : Cluster → Cluster) : (m.modCluster c f).locks = m.locks := rfl
@[simp] theorem modCluster_funcs (c : ClusterId) (f : Cluster → Cluster) : (m.modCluster c f).funcs = m.funcs := rfl
@[simp] theorem modCluster_mstate (c : ClusterId) (f : Cluster → Cluster) : (m.modCluster c f).mstate = m.mstate := rfl
@[simp] theorem modCluster_pw (c : ClusterId) (f : Cluster → Cluster) : (m.modCluster c f).pw = m.pw := rfl
@[simp] theorem modCluster_sent (c : ClusterId) (f : Cluster → Cluster) : (m.modCluster c f).sent = m.sent := rfl
@[simp] theorem modCluster_up (c : ClusterId) (f : Cluster → Cluster) : (m.modCluster c f).up = m.up := rfl
@[simp] theorem modCluster_flash (c : ClusterId) (f : Cluster → Cluster) : (m.modCluster c f).flash = m.flash := rfl
@[simp] theorem modCluster_features (c : ClusterId) (f : Cluster → Cluster) : (m.modCluster c f).features = m.features := rfl
@[simp] theorem modCluster_repairLog (c : ClusterId) (f : Cluster → Cluster) : (m.modCluster c f).repairLog = m.repairLog := rfl
@[simp] theorem modCluster_hardRows (c : ClusterId) (f : Cluster → Cluster) : (m.modCluster c f).hardRows = m.hardRows := rfl
@[simp] theorem modCluster_setNow (c : ClusterId) (f : Cluster → Cluster) : (m.modCluster c f).setNow = m.setNow := rfl
@[simp] theorem modCluster_agent (c : ClusterId) (f : Cluster → Cluster) : (m.modCluster c f).agent = m.agent := rfl
@[simp] theorem modCluster_agentQ (c : ClusterId) (f : Cluster → Cluster) : (m.modCluster c f).agentQ = m.agentQ := rfl
@[simp] theorem modCluster_loads (c : ClusterId) (f : Cluster → Cluster) : (m.modCluster c f).loads = m.loads := rfl
@[simp] theorem modCluster_tgt (c : ClusterId) (f : Cluster → Cluster) : (m.modCluster c f).tgt = m.tgt := rfl
@[simp] theorem modCluster_wave (c : ClusterId) (f : Cluster → Cluster) : (m.modCluster c f).wave = m.wave := rfl
@[simp] theorem modCluster_coll (c : ClusterId) (f : Cluster → Cluster) : (m.modCluster c f).coll = m.coll := rfl
@[simp] theorem modCluster_pmsgs (c : ClusterId) (f : Cluster → Cluster) : (m.modCluster c f).pmsgs = m.pmsgs := rfl

/-! modJob -/

@[simp] theorem modJob_pes (j : JobId) (f : Job → Job) : (m.modJob j f).pes = m.pes := rfl
@[simp] theorem modJob_clusters (j : JobId) (f : Job → Job) : (m.modJob j f).clusters = m.clusters := rfl
@[simp] theorem modJob_tiles (j : JobId) (f : Job → Job) : (m.modJob j f).tiles = m.tiles := rfl
@[simp] theorem modJob_net (j : JobId) (f : Job → Job) : (m.modJob j f).net = m.net := rfl
@[simp] theorem modJob_mem (j : JobId) (f : Job → Job) : (m.modJob j f).mem = m.mem := rfl
@[simp] theorem modJob_ms (j : JobId) (f : Job → Job) : (m.modJob j f).ms = m.ms := rfl
@[simp] theorem modJob_cores (j : JobId) (f : Job → Job) : (m.modJob j f).cores = m.cores := rfl
@[simp] theorem modJob_err (j : JobId) (f : Job → Job) : (m.modJob j f).err = m.err := rfl
@[simp] theorem modJob_objs (j : JobId) (f : Job → Job) : (m.modJob j f).objs = m.objs := rfl
@[simp] theorem modJob_quanta (j : JobId) (f : Job → Job) : (m.modJob j f).quanta = m.quanta := rfl
@[simp] theorem modJob_wall (j : JobId) (f : Job → Job) : (m.modJob j f).wall = m.wall := rfl
@[simp] theorem modJob_cycle (j : JobId) (f : Job → Job) : (m.modJob j f).cycle = m.cycle := rfl
@[simp] theorem modJob_hubTerms (j : JobId) (f : Job → Job) : (m.modJob j f).hubTerms = m.hubTerms := rfl
@[simp] theorem modJob_evr (j : JobId) (f : Job → Job) : (m.modJob j f).evr = m.evr := rfl
@[simp] theorem modJob_ic (j : JobId) (f : Job → Job) : (m.modJob j f).ic = m.ic := rfl
@[simp] theorem modJob_sched (j : JobId) (f : Job → Job) : (m.modJob j f).sched = m.sched := rfl
@[simp] theorem modJob_pairs (j : JobId) (f : Job → Job) : (m.modJob j f).pairs = m.pairs := rfl
@[simp] theorem modJob_mbx (j : JobId) (f : Job → Job) : (m.modJob j f).mbx = m.mbx := rfl
@[simp] theorem modJob_streams (j : JobId) (f : Job → Job) : (m.modJob j f).streams = m.streams := rfl
@[simp] theorem modJob_triggers (j : JobId) (f : Job → Job) : (m.modJob j f).triggers = m.triggers := rfl
@[simp] theorem modJob_ports (j : JobId) (f : Job → Job) : (m.modJob j f).ports = m.ports := rfl
@[simp] theorem modJob_locks (j : JobId) (f : Job → Job) : (m.modJob j f).locks = m.locks := rfl
@[simp] theorem modJob_funcs (j : JobId) (f : Job → Job) : (m.modJob j f).funcs = m.funcs := rfl
@[simp] theorem modJob_mstate (j : JobId) (f : Job → Job) : (m.modJob j f).mstate = m.mstate := rfl
@[simp] theorem modJob_pw (j : JobId) (f : Job → Job) : (m.modJob j f).pw = m.pw := rfl
@[simp] theorem modJob_sent (j : JobId) (f : Job → Job) : (m.modJob j f).sent = m.sent := rfl
@[simp] theorem modJob_up (j : JobId) (f : Job → Job) : (m.modJob j f).up = m.up := rfl
@[simp] theorem modJob_flash (j : JobId) (f : Job → Job) : (m.modJob j f).flash = m.flash := rfl
@[simp] theorem modJob_features (j : JobId) (f : Job → Job) : (m.modJob j f).features = m.features := rfl
@[simp] theorem modJob_repairLog (j : JobId) (f : Job → Job) : (m.modJob j f).repairLog = m.repairLog := rfl
@[simp] theorem modJob_hardRows (j : JobId) (f : Job → Job) : (m.modJob j f).hardRows = m.hardRows := rfl
@[simp] theorem modJob_setNow (j : JobId) (f : Job → Job) : (m.modJob j f).setNow = m.setNow := rfl
@[simp] theorem modJob_agent (j : JobId) (f : Job → Job) : (m.modJob j f).agent = m.agent := rfl
@[simp] theorem modJob_agentQ (j : JobId) (f : Job → Job) : (m.modJob j f).agentQ = m.agentQ := rfl
@[simp] theorem modJob_loads (j : JobId) (f : Job → Job) : (m.modJob j f).loads = m.loads := rfl
@[simp] theorem modJob_tgt (j : JobId) (f : Job → Job) : (m.modJob j f).tgt = m.tgt := rfl
@[simp] theorem modJob_wave (j : JobId) (f : Job → Job) : (m.modJob j f).wave = m.wave := rfl
@[simp] theorem modJob_coll (j : JobId) (f : Job → Job) : (m.modJob j f).coll = m.coll := rfl
@[simp] theorem modJob_pmsgs (j : JobId) (f : Job → Job) : (m.modJob j f).pmsgs = m.pmsgs := rfl

/-! setCore -/

@[simp] theorem setCore_pes (c : BitVec 4) (x : Core) : (m.setCore c x).pes = m.pes := rfl
@[simp] theorem setCore_clusters (c : BitVec 4) (x : Core) : (m.setCore c x).clusters = m.clusters := rfl
@[simp] theorem setCore_tiles (c : BitVec 4) (x : Core) : (m.setCore c x).tiles = m.tiles := rfl
@[simp] theorem setCore_jobs (c : BitVec 4) (x : Core) : (m.setCore c x).jobs = m.jobs := rfl
@[simp] theorem setCore_net (c : BitVec 4) (x : Core) : (m.setCore c x).net = m.net := rfl
@[simp] theorem setCore_mem (c : BitVec 4) (x : Core) : (m.setCore c x).mem = m.mem := rfl
@[simp] theorem setCore_ms (c : BitVec 4) (x : Core) : (m.setCore c x).ms = m.ms := rfl
@[simp] theorem setCore_err (c : BitVec 4) (x : Core) : (m.setCore c x).err = m.err := rfl
@[simp] theorem setCore_objs (c : BitVec 4) (x : Core) : (m.setCore c x).objs = m.objs := rfl
@[simp] theorem setCore_quanta (c : BitVec 4) (x : Core) : (m.setCore c x).quanta = m.quanta := rfl
@[simp] theorem setCore_wall (c : BitVec 4) (x : Core) : (m.setCore c x).wall = m.wall := rfl
@[simp] theorem setCore_cycle (c : BitVec 4) (x : Core) : (m.setCore c x).cycle = m.cycle := rfl
@[simp] theorem setCore_hubTerms (c : BitVec 4) (x : Core) : (m.setCore c x).hubTerms = m.hubTerms := rfl
@[simp] theorem setCore_evr (c : BitVec 4) (x : Core) : (m.setCore c x).evr = m.evr := rfl
@[simp] theorem setCore_ic (c : BitVec 4) (x : Core) : (m.setCore c x).ic = m.ic := rfl
@[simp] theorem setCore_sched (c : BitVec 4) (x : Core) : (m.setCore c x).sched = m.sched := rfl
@[simp] theorem setCore_pairs (c : BitVec 4) (x : Core) : (m.setCore c x).pairs = m.pairs := rfl
@[simp] theorem setCore_mbx (c : BitVec 4) (x : Core) : (m.setCore c x).mbx = m.mbx := rfl
@[simp] theorem setCore_streams (c : BitVec 4) (x : Core) : (m.setCore c x).streams = m.streams := rfl
@[simp] theorem setCore_triggers (c : BitVec 4) (x : Core) : (m.setCore c x).triggers = m.triggers := rfl
@[simp] theorem setCore_ports (c : BitVec 4) (x : Core) : (m.setCore c x).ports = m.ports := rfl
@[simp] theorem setCore_locks (c : BitVec 4) (x : Core) : (m.setCore c x).locks = m.locks := rfl
@[simp] theorem setCore_funcs (c : BitVec 4) (x : Core) : (m.setCore c x).funcs = m.funcs := rfl
@[simp] theorem setCore_mstate (c : BitVec 4) (x : Core) : (m.setCore c x).mstate = m.mstate := rfl
@[simp] theorem setCore_pw (c : BitVec 4) (x : Core) : (m.setCore c x).pw = m.pw := rfl
@[simp] theorem setCore_sent (c : BitVec 4) (x : Core) : (m.setCore c x).sent = m.sent := rfl
@[simp] theorem setCore_up (c : BitVec 4) (x : Core) : (m.setCore c x).up = m.up := rfl
@[simp] theorem setCore_flash (c : BitVec 4) (x : Core) : (m.setCore c x).flash = m.flash := rfl
@[simp] theorem setCore_features (c : BitVec 4) (x : Core) : (m.setCore c x).features = m.features := rfl
@[simp] theorem setCore_repairLog (c : BitVec 4) (x : Core) : (m.setCore c x).repairLog = m.repairLog := rfl
@[simp] theorem setCore_hardRows (c : BitVec 4) (x : Core) : (m.setCore c x).hardRows = m.hardRows := rfl
@[simp] theorem setCore_setNow (c : BitVec 4) (x : Core) : (m.setCore c x).setNow = m.setNow := rfl
@[simp] theorem setCore_agent (c : BitVec 4) (x : Core) : (m.setCore c x).agent = m.agent := rfl
@[simp] theorem setCore_agentQ (c : BitVec 4) (x : Core) : (m.setCore c x).agentQ = m.agentQ := rfl
@[simp] theorem setCore_loads (c : BitVec 4) (x : Core) : (m.setCore c x).loads = m.loads := rfl
@[simp] theorem setCore_tgt (c : BitVec 4) (x : Core) : (m.setCore c x).tgt = m.tgt := rfl
@[simp] theorem setCore_wave (c : BitVec 4) (x : Core) : (m.setCore c x).wave = m.wave := rfl
@[simp] theorem setCore_coll (c : BitVec 4) (x : Core) : (m.setCore c x).coll = m.coll := rfl
@[simp] theorem setCore_pmsgs (c : BitVec 4) (x : Core) : (m.setCore c x).pmsgs = m.pmsgs := rfl

/-! setObj -/

@[simp] theorem setObj_pes (i k v : Nat) : (m.setObj i k v).pes = m.pes := rfl
@[simp] theorem setObj_clusters (i k v : Nat) : (m.setObj i k v).clusters = m.clusters := rfl
@[simp] theorem setObj_tiles (i k v : Nat) : (m.setObj i k v).tiles = m.tiles := rfl
@[simp] theorem setObj_jobs (i k v : Nat) : (m.setObj i k v).jobs = m.jobs := rfl
@[simp] theorem setObj_net (i k v : Nat) : (m.setObj i k v).net = m.net := rfl
@[simp] theorem setObj_mem (i k v : Nat) : (m.setObj i k v).mem = m.mem := rfl
@[simp] theorem setObj_ms (i k v : Nat) : (m.setObj i k v).ms = m.ms := rfl
@[simp] theorem setObj_cores (i k v : Nat) : (m.setObj i k v).cores = m.cores := rfl
@[simp] theorem setObj_err (i k v : Nat) : (m.setObj i k v).err = m.err := rfl
@[simp] theorem setObj_quanta (i k v : Nat) : (m.setObj i k v).quanta = m.quanta := rfl
@[simp] theorem setObj_wall (i k v : Nat) : (m.setObj i k v).wall = m.wall := rfl
@[simp] theorem setObj_cycle (i k v : Nat) : (m.setObj i k v).cycle = m.cycle := rfl
@[simp] theorem setObj_hubTerms (i k v : Nat) : (m.setObj i k v).hubTerms = m.hubTerms := rfl
@[simp] theorem setObj_evr (i k v : Nat) : (m.setObj i k v).evr = m.evr := rfl
@[simp] theorem setObj_ic (i k v : Nat) : (m.setObj i k v).ic = m.ic := rfl
@[simp] theorem setObj_sched (i k v : Nat) : (m.setObj i k v).sched = m.sched := rfl
@[simp] theorem setObj_pairs (i k v : Nat) : (m.setObj i k v).pairs = m.pairs := rfl
@[simp] theorem setObj_mbx (i k v : Nat) : (m.setObj i k v).mbx = m.mbx := rfl
@[simp] theorem setObj_streams (i k v : Nat) : (m.setObj i k v).streams = m.streams := rfl
@[simp] theorem setObj_triggers (i k v : Nat) : (m.setObj i k v).triggers = m.triggers := rfl
@[simp] theorem setObj_ports (i k v : Nat) : (m.setObj i k v).ports = m.ports := rfl
@[simp] theorem setObj_locks (i k v : Nat) : (m.setObj i k v).locks = m.locks := rfl
@[simp] theorem setObj_funcs (i k v : Nat) : (m.setObj i k v).funcs = m.funcs := rfl
@[simp] theorem setObj_mstate (i k v : Nat) : (m.setObj i k v).mstate = m.mstate := rfl
@[simp] theorem setObj_pw (i k v : Nat) : (m.setObj i k v).pw = m.pw := rfl
@[simp] theorem setObj_sent (i k v : Nat) : (m.setObj i k v).sent = m.sent := rfl
@[simp] theorem setObj_up (i k v : Nat) : (m.setObj i k v).up = m.up := rfl
@[simp] theorem setObj_flash (i k v : Nat) : (m.setObj i k v).flash = m.flash := rfl
@[simp] theorem setObj_features (i k v : Nat) : (m.setObj i k v).features = m.features := rfl
@[simp] theorem setObj_repairLog (i k v : Nat) : (m.setObj i k v).repairLog = m.repairLog := rfl
@[simp] theorem setObj_hardRows (i k v : Nat) : (m.setObj i k v).hardRows = m.hardRows := rfl
@[simp] theorem setObj_setNow (i k v : Nat) : (m.setObj i k v).setNow = m.setNow := rfl
@[simp] theorem setObj_agent (i k v : Nat) : (m.setObj i k v).agent = m.agent := rfl
@[simp] theorem setObj_agentQ (i k v : Nat) : (m.setObj i k v).agentQ = m.agentQ := rfl
@[simp] theorem setObj_loads (i k v : Nat) : (m.setObj i k v).loads = m.loads := rfl
@[simp] theorem setObj_tgt (i k v : Nat) : (m.setObj i k v).tgt = m.tgt := rfl
@[simp] theorem setObj_wave (i k v : Nat) : (m.setObj i k v).wave = m.wave := rfl
@[simp] theorem setObj_coll (i k v : Nat) : (m.setObj i k v).coll = m.coll := rfl
@[simp] theorem setObj_pmsgs (i k v : Nat) : (m.setObj i k v).pmsgs = m.pmsgs := rfl

/-! count -/

@[simp] theorem count_pes (i k n : Nat) : (m.count i k n).pes = m.pes := rfl
@[simp] theorem count_clusters (i k n : Nat) : (m.count i k n).clusters = m.clusters := rfl
@[simp] theorem count_tiles (i k n : Nat) : (m.count i k n).tiles = m.tiles := rfl
@[simp] theorem count_jobs (i k n : Nat) : (m.count i k n).jobs = m.jobs := rfl
@[simp] theorem count_net (i k n : Nat) : (m.count i k n).net = m.net := rfl
@[simp] theorem count_mem (i k n : Nat) : (m.count i k n).mem = m.mem := rfl
@[simp] theorem count_ms (i k n : Nat) : (m.count i k n).ms = m.ms := rfl
@[simp] theorem count_cores (i k n : Nat) : (m.count i k n).cores = m.cores := rfl
@[simp] theorem count_err (i k n : Nat) : (m.count i k n).err = m.err := rfl
@[simp] theorem count_quanta (i k n : Nat) : (m.count i k n).quanta = m.quanta := rfl
@[simp] theorem count_wall (i k n : Nat) : (m.count i k n).wall = m.wall := rfl
@[simp] theorem count_cycle (i k n : Nat) : (m.count i k n).cycle = m.cycle := rfl
@[simp] theorem count_hubTerms (i k n : Nat) : (m.count i k n).hubTerms = m.hubTerms := rfl
@[simp] theorem count_evr (i k n : Nat) : (m.count i k n).evr = m.evr := rfl
@[simp] theorem count_ic (i k n : Nat) : (m.count i k n).ic = m.ic := rfl
@[simp] theorem count_sched (i k n : Nat) : (m.count i k n).sched = m.sched := rfl
@[simp] theorem count_pairs (i k n : Nat) : (m.count i k n).pairs = m.pairs := rfl
@[simp] theorem count_mbx (i k n : Nat) : (m.count i k n).mbx = m.mbx := rfl
@[simp] theorem count_streams (i k n : Nat) : (m.count i k n).streams = m.streams := rfl
@[simp] theorem count_triggers (i k n : Nat) : (m.count i k n).triggers = m.triggers := rfl
@[simp] theorem count_ports (i k n : Nat) : (m.count i k n).ports = m.ports := rfl
@[simp] theorem count_locks (i k n : Nat) : (m.count i k n).locks = m.locks := rfl
@[simp] theorem count_funcs (i k n : Nat) : (m.count i k n).funcs = m.funcs := rfl
@[simp] theorem count_mstate (i k n : Nat) : (m.count i k n).mstate = m.mstate := rfl
@[simp] theorem count_pw (i k n : Nat) : (m.count i k n).pw = m.pw := rfl
@[simp] theorem count_sent (i k n : Nat) : (m.count i k n).sent = m.sent := rfl
@[simp] theorem count_up (i k n : Nat) : (m.count i k n).up = m.up := rfl
@[simp] theorem count_flash (i k n : Nat) : (m.count i k n).flash = m.flash := rfl
@[simp] theorem count_features (i k n : Nat) : (m.count i k n).features = m.features := rfl
@[simp] theorem count_repairLog (i k n : Nat) : (m.count i k n).repairLog = m.repairLog := rfl
@[simp] theorem count_hardRows (i k n : Nat) : (m.count i k n).hardRows = m.hardRows := rfl
@[simp] theorem count_setNow (i k n : Nat) : (m.count i k n).setNow = m.setNow := rfl
@[simp] theorem count_agent (i k n : Nat) : (m.count i k n).agent = m.agent := rfl
@[simp] theorem count_agentQ (i k n : Nat) : (m.count i k n).agentQ = m.agentQ := rfl
@[simp] theorem count_loads (i k n : Nat) : (m.count i k n).loads = m.loads := rfl
@[simp] theorem count_tgt (i k n : Nat) : (m.count i k n).tgt = m.tgt := rfl
@[simp] theorem count_wave (i k n : Nat) : (m.count i k n).wave = m.wave := rfl
@[simp] theorem count_coll (i k n : Nat) : (m.count i k n).coll = m.coll := rfl
@[simp] theorem count_pmsgs (i k n : Nat) : (m.count i k n).pmsgs = m.pmsgs := rfl

/-! countJ -/

@[simp] theorem countJ_pes (b : Nat) (j : JobId) (k n : Nat) : (m.countJ b j k n).pes = m.pes := by unfold countJ; split <;> rfl
@[simp] theorem countJ_clusters (b : Nat) (j : JobId) (k n : Nat) : (m.countJ b j k n).clusters = m.clusters := by unfold countJ; split <;> rfl
@[simp] theorem countJ_tiles (b : Nat) (j : JobId) (k n : Nat) : (m.countJ b j k n).tiles = m.tiles := by unfold countJ; split <;> rfl
@[simp] theorem countJ_jobs (b : Nat) (j : JobId) (k n : Nat) : (m.countJ b j k n).jobs = m.jobs := by unfold countJ; split <;> rfl
@[simp] theorem countJ_net (b : Nat) (j : JobId) (k n : Nat) : (m.countJ b j k n).net = m.net := by unfold countJ; split <;> rfl
@[simp] theorem countJ_mem (b : Nat) (j : JobId) (k n : Nat) : (m.countJ b j k n).mem = m.mem := by unfold countJ; split <;> rfl
@[simp] theorem countJ_ms (b : Nat) (j : JobId) (k n : Nat) : (m.countJ b j k n).ms = m.ms := by unfold countJ; split <;> rfl
@[simp] theorem countJ_cores (b : Nat) (j : JobId) (k n : Nat) : (m.countJ b j k n).cores = m.cores := by unfold countJ; split <;> rfl
@[simp] theorem countJ_err (b : Nat) (j : JobId) (k n : Nat) : (m.countJ b j k n).err = m.err := by unfold countJ; split <;> rfl
@[simp] theorem countJ_quanta (b : Nat) (j : JobId) (k n : Nat) : (m.countJ b j k n).quanta = m.quanta := by unfold countJ; split <;> rfl
@[simp] theorem countJ_wall (b : Nat) (j : JobId) (k n : Nat) : (m.countJ b j k n).wall = m.wall := by unfold countJ; split <;> rfl
@[simp] theorem countJ_cycle (b : Nat) (j : JobId) (k n : Nat) : (m.countJ b j k n).cycle = m.cycle := by unfold countJ; split <;> rfl
@[simp] theorem countJ_hubTerms (b : Nat) (j : JobId) (k n : Nat) : (m.countJ b j k n).hubTerms = m.hubTerms := by unfold countJ; split <;> rfl
@[simp] theorem countJ_evr (b : Nat) (j : JobId) (k n : Nat) : (m.countJ b j k n).evr = m.evr := by unfold countJ; split <;> rfl
@[simp] theorem countJ_ic (b : Nat) (j : JobId) (k n : Nat) : (m.countJ b j k n).ic = m.ic := by unfold countJ; split <;> rfl
@[simp] theorem countJ_sched (b : Nat) (j : JobId) (k n : Nat) : (m.countJ b j k n).sched = m.sched := by unfold countJ; split <;> rfl
@[simp] theorem countJ_pairs (b : Nat) (j : JobId) (k n : Nat) : (m.countJ b j k n).pairs = m.pairs := by unfold countJ; split <;> rfl
@[simp] theorem countJ_mbx (b : Nat) (j : JobId) (k n : Nat) : (m.countJ b j k n).mbx = m.mbx := by unfold countJ; split <;> rfl
@[simp] theorem countJ_streams (b : Nat) (j : JobId) (k n : Nat) : (m.countJ b j k n).streams = m.streams := by unfold countJ; split <;> rfl
@[simp] theorem countJ_triggers (b : Nat) (j : JobId) (k n : Nat) : (m.countJ b j k n).triggers = m.triggers := by unfold countJ; split <;> rfl
@[simp] theorem countJ_ports (b : Nat) (j : JobId) (k n : Nat) : (m.countJ b j k n).ports = m.ports := by unfold countJ; split <;> rfl
@[simp] theorem countJ_locks (b : Nat) (j : JobId) (k n : Nat) : (m.countJ b j k n).locks = m.locks := by unfold countJ; split <;> rfl
@[simp] theorem countJ_funcs (b : Nat) (j : JobId) (k n : Nat) : (m.countJ b j k n).funcs = m.funcs := by unfold countJ; split <;> rfl
@[simp] theorem countJ_mstate (b : Nat) (j : JobId) (k n : Nat) : (m.countJ b j k n).mstate = m.mstate := by unfold countJ; split <;> rfl
@[simp] theorem countJ_pw (b : Nat) (j : JobId) (k n : Nat) : (m.countJ b j k n).pw = m.pw := by unfold countJ; split <;> rfl
@[simp] theorem countJ_sent (b : Nat) (j : JobId) (k n : Nat) : (m.countJ b j k n).sent = m.sent := by unfold countJ; split <;> rfl
@[simp] theorem countJ_up (b : Nat) (j : JobId) (k n : Nat) : (m.countJ b j k n).up = m.up := by unfold countJ; split <;> rfl
@[simp] theorem countJ_flash (b : Nat) (j : JobId) (k n : Nat) : (m.countJ b j k n).flash = m.flash := by unfold countJ; split <;> rfl
@[simp] theorem countJ_features (b : Nat) (j : JobId) (k n : Nat) : (m.countJ b j k n).features = m.features := by unfold countJ; split <;> rfl
@[simp] theorem countJ_repairLog (b : Nat) (j : JobId) (k n : Nat) : (m.countJ b j k n).repairLog = m.repairLog := by unfold countJ; split <;> rfl
@[simp] theorem countJ_hardRows (b : Nat) (j : JobId) (k n : Nat) : (m.countJ b j k n).hardRows = m.hardRows := by unfold countJ; split <;> rfl
@[simp] theorem countJ_setNow (b : Nat) (j : JobId) (k n : Nat) : (m.countJ b j k n).setNow = m.setNow := by unfold countJ; split <;> rfl
@[simp] theorem countJ_agent (b : Nat) (j : JobId) (k n : Nat) : (m.countJ b j k n).agent = m.agent := by unfold countJ; split <;> rfl
@[simp] theorem countJ_agentQ (b : Nat) (j : JobId) (k n : Nat) : (m.countJ b j k n).agentQ = m.agentQ := by unfold countJ; split <;> rfl
@[simp] theorem countJ_loads (b : Nat) (j : JobId) (k n : Nat) : (m.countJ b j k n).loads = m.loads := by unfold countJ; split <;> rfl
@[simp] theorem countJ_tgt (b : Nat) (j : JobId) (k n : Nat) : (m.countJ b j k n).tgt = m.tgt := by unfold countJ; split <;> rfl
@[simp] theorem countJ_wave (b : Nat) (j : JobId) (k n : Nat) : (m.countJ b j k n).wave = m.wave := by unfold countJ; split <;> rfl
@[simp] theorem countJ_coll (b : Nat) (j : JobId) (k n : Nat) : (m.countJ b j k n).coll = m.coll := by unfold countJ; split <;> rfl
@[simp] theorem countJ_pmsgs (b : Nat) (j : JobId) (k n : Nat) : (m.countJ b j k n).pmsgs = m.pmsgs := by unfold countJ; split <;> rfl

/-! modMs -/

@[simp] theorem modMs_pes (f : MemSys → MemSys) : (m.modMs f).pes = m.pes := rfl
@[simp] theorem modMs_clusters (f : MemSys → MemSys) : (m.modMs f).clusters = m.clusters := rfl
@[simp] theorem modMs_tiles (f : MemSys → MemSys) : (m.modMs f).tiles = m.tiles := rfl
@[simp] theorem modMs_jobs (f : MemSys → MemSys) : (m.modMs f).jobs = m.jobs := rfl
@[simp] theorem modMs_net (f : MemSys → MemSys) : (m.modMs f).net = m.net := rfl
@[simp] theorem modMs_mem (f : MemSys → MemSys) : (m.modMs f).mem = m.mem := rfl
@[simp] theorem modMs_cores (f : MemSys → MemSys) : (m.modMs f).cores = m.cores := rfl
@[simp] theorem modMs_err (f : MemSys → MemSys) : (m.modMs f).err = m.err := rfl
@[simp] theorem modMs_objs (f : MemSys → MemSys) : (m.modMs f).objs = m.objs := rfl
@[simp] theorem modMs_quanta (f : MemSys → MemSys) : (m.modMs f).quanta = m.quanta := rfl
@[simp] theorem modMs_wall (f : MemSys → MemSys) : (m.modMs f).wall = m.wall := rfl
@[simp] theorem modMs_cycle (f : MemSys → MemSys) : (m.modMs f).cycle = m.cycle := rfl
@[simp] theorem modMs_hubTerms (f : MemSys → MemSys) : (m.modMs f).hubTerms = m.hubTerms := rfl
@[simp] theorem modMs_evr (f : MemSys → MemSys) : (m.modMs f).evr = m.evr := rfl
@[simp] theorem modMs_ic (f : MemSys → MemSys) : (m.modMs f).ic = m.ic := rfl
@[simp] theorem modMs_sched (f : MemSys → MemSys) : (m.modMs f).sched = m.sched := rfl
@[simp] theorem modMs_pairs (f : MemSys → MemSys) : (m.modMs f).pairs = m.pairs := rfl
@[simp] theorem modMs_mbx (f : MemSys → MemSys) : (m.modMs f).mbx = m.mbx := rfl
@[simp] theorem modMs_streams (f : MemSys → MemSys) : (m.modMs f).streams = m.streams := rfl
@[simp] theorem modMs_triggers (f : MemSys → MemSys) : (m.modMs f).triggers = m.triggers := rfl
@[simp] theorem modMs_ports (f : MemSys → MemSys) : (m.modMs f).ports = m.ports := rfl
@[simp] theorem modMs_locks (f : MemSys → MemSys) : (m.modMs f).locks = m.locks := rfl
@[simp] theorem modMs_funcs (f : MemSys → MemSys) : (m.modMs f).funcs = m.funcs := rfl
@[simp] theorem modMs_mstate (f : MemSys → MemSys) : (m.modMs f).mstate = m.mstate := rfl
@[simp] theorem modMs_pw (f : MemSys → MemSys) : (m.modMs f).pw = m.pw := rfl
@[simp] theorem modMs_sent (f : MemSys → MemSys) : (m.modMs f).sent = m.sent := rfl
@[simp] theorem modMs_up (f : MemSys → MemSys) : (m.modMs f).up = m.up := rfl
@[simp] theorem modMs_flash (f : MemSys → MemSys) : (m.modMs f).flash = m.flash := rfl
@[simp] theorem modMs_features (f : MemSys → MemSys) : (m.modMs f).features = m.features := rfl
@[simp] theorem modMs_repairLog (f : MemSys → MemSys) : (m.modMs f).repairLog = m.repairLog := rfl
@[simp] theorem modMs_hardRows (f : MemSys → MemSys) : (m.modMs f).hardRows = m.hardRows := rfl
@[simp] theorem modMs_setNow (f : MemSys → MemSys) : (m.modMs f).setNow = m.setNow := rfl
@[simp] theorem modMs_agent (f : MemSys → MemSys) : (m.modMs f).agent = m.agent := rfl
@[simp] theorem modMs_agentQ (f : MemSys → MemSys) : (m.modMs f).agentQ = m.agentQ := rfl
@[simp] theorem modMs_loads (f : MemSys → MemSys) : (m.modMs f).loads = m.loads := rfl
@[simp] theorem modMs_tgt (f : MemSys → MemSys) : (m.modMs f).tgt = m.tgt := rfl
@[simp] theorem modMs_wave (f : MemSys → MemSys) : (m.modMs f).wave = m.wave := rfl
@[simp] theorem modMs_coll (f : MemSys → MemSys) : (m.modMs f).coll = m.coll := rfl
@[simp] theorem modMs_pmsgs (f : MemSys → MemSys) : (m.modMs f).pmsgs = m.pmsgs := rfl

/-! modSched -/

@[simp] theorem modSched_pes (f : Sched → Sched) : (m.modSched f).pes = m.pes := rfl
@[simp] theorem modSched_clusters (f : Sched → Sched) : (m.modSched f).clusters = m.clusters := rfl
@[simp] theorem modSched_tiles (f : Sched → Sched) : (m.modSched f).tiles = m.tiles := rfl
@[simp] theorem modSched_jobs (f : Sched → Sched) : (m.modSched f).jobs = m.jobs := rfl
@[simp] theorem modSched_net (f : Sched → Sched) : (m.modSched f).net = m.net := rfl
@[simp] theorem modSched_mem (f : Sched → Sched) : (m.modSched f).mem = m.mem := rfl
@[simp] theorem modSched_ms (f : Sched → Sched) : (m.modSched f).ms = m.ms := rfl
@[simp] theorem modSched_cores (f : Sched → Sched) : (m.modSched f).cores = m.cores := rfl
@[simp] theorem modSched_err (f : Sched → Sched) : (m.modSched f).err = m.err := rfl
@[simp] theorem modSched_objs (f : Sched → Sched) : (m.modSched f).objs = m.objs := rfl
@[simp] theorem modSched_quanta (f : Sched → Sched) : (m.modSched f).quanta = m.quanta := rfl
@[simp] theorem modSched_wall (f : Sched → Sched) : (m.modSched f).wall = m.wall := rfl
@[simp] theorem modSched_cycle (f : Sched → Sched) : (m.modSched f).cycle = m.cycle := rfl
@[simp] theorem modSched_hubTerms (f : Sched → Sched) : (m.modSched f).hubTerms = m.hubTerms := rfl
@[simp] theorem modSched_evr (f : Sched → Sched) : (m.modSched f).evr = m.evr := rfl
@[simp] theorem modSched_ic (f : Sched → Sched) : (m.modSched f).ic = m.ic := rfl
@[simp] theorem modSched_pairs (f : Sched → Sched) : (m.modSched f).pairs = m.pairs := rfl
@[simp] theorem modSched_mbx (f : Sched → Sched) : (m.modSched f).mbx = m.mbx := rfl
@[simp] theorem modSched_streams (f : Sched → Sched) : (m.modSched f).streams = m.streams := rfl
@[simp] theorem modSched_triggers (f : Sched → Sched) : (m.modSched f).triggers = m.triggers := rfl
@[simp] theorem modSched_ports (f : Sched → Sched) : (m.modSched f).ports = m.ports := rfl
@[simp] theorem modSched_locks (f : Sched → Sched) : (m.modSched f).locks = m.locks := rfl
@[simp] theorem modSched_funcs (f : Sched → Sched) : (m.modSched f).funcs = m.funcs := rfl
@[simp] theorem modSched_mstate (f : Sched → Sched) : (m.modSched f).mstate = m.mstate := rfl
@[simp] theorem modSched_pw (f : Sched → Sched) : (m.modSched f).pw = m.pw := rfl
@[simp] theorem modSched_sent (f : Sched → Sched) : (m.modSched f).sent = m.sent := rfl
@[simp] theorem modSched_up (f : Sched → Sched) : (m.modSched f).up = m.up := rfl
@[simp] theorem modSched_flash (f : Sched → Sched) : (m.modSched f).flash = m.flash := rfl
@[simp] theorem modSched_features (f : Sched → Sched) : (m.modSched f).features = m.features := rfl
@[simp] theorem modSched_repairLog (f : Sched → Sched) : (m.modSched f).repairLog = m.repairLog := rfl
@[simp] theorem modSched_hardRows (f : Sched → Sched) : (m.modSched f).hardRows = m.hardRows := rfl
@[simp] theorem modSched_setNow (f : Sched → Sched) : (m.modSched f).setNow = m.setNow := rfl
@[simp] theorem modSched_agent (f : Sched → Sched) : (m.modSched f).agent = m.agent := rfl
@[simp] theorem modSched_agentQ (f : Sched → Sched) : (m.modSched f).agentQ = m.agentQ := rfl
@[simp] theorem modSched_loads (f : Sched → Sched) : (m.modSched f).loads = m.loads := rfl
@[simp] theorem modSched_tgt (f : Sched → Sched) : (m.modSched f).tgt = m.tgt := rfl
@[simp] theorem modSched_wave (f : Sched → Sched) : (m.modSched f).wave = m.wave := rfl
@[simp] theorem modSched_coll (f : Sched → Sched) : (m.modSched f).coll = m.coll := rfl
@[simp] theorem modSched_pmsgs (f : Sched → Sched) : (m.modSched f).pmsgs = m.pmsgs := rfl

/-! modPw -/

@[simp] theorem modPw_pes (f : Power → Power) : (m.modPw f).pes = m.pes := rfl
@[simp] theorem modPw_clusters (f : Power → Power) : (m.modPw f).clusters = m.clusters := rfl
@[simp] theorem modPw_tiles (f : Power → Power) : (m.modPw f).tiles = m.tiles := rfl
@[simp] theorem modPw_jobs (f : Power → Power) : (m.modPw f).jobs = m.jobs := rfl
@[simp] theorem modPw_net (f : Power → Power) : (m.modPw f).net = m.net := rfl
@[simp] theorem modPw_mem (f : Power → Power) : (m.modPw f).mem = m.mem := rfl
@[simp] theorem modPw_ms (f : Power → Power) : (m.modPw f).ms = m.ms := rfl
@[simp] theorem modPw_cores (f : Power → Power) : (m.modPw f).cores = m.cores := rfl
@[simp] theorem modPw_err (f : Power → Power) : (m.modPw f).err = m.err := rfl
@[simp] theorem modPw_objs (f : Power → Power) : (m.modPw f).objs = m.objs := rfl
@[simp] theorem modPw_quanta (f : Power → Power) : (m.modPw f).quanta = m.quanta := rfl
@[simp] theorem modPw_wall (f : Power → Power) : (m.modPw f).wall = m.wall := rfl
@[simp] theorem modPw_cycle (f : Power → Power) : (m.modPw f).cycle = m.cycle := rfl
@[simp] theorem modPw_hubTerms (f : Power → Power) : (m.modPw f).hubTerms = m.hubTerms := rfl
@[simp] theorem modPw_evr (f : Power → Power) : (m.modPw f).evr = m.evr := rfl
@[simp] theorem modPw_ic (f : Power → Power) : (m.modPw f).ic = m.ic := rfl
@[simp] theorem modPw_sched (f : Power → Power) : (m.modPw f).sched = m.sched := rfl
@[simp] theorem modPw_pairs (f : Power → Power) : (m.modPw f).pairs = m.pairs := rfl
@[simp] theorem modPw_mbx (f : Power → Power) : (m.modPw f).mbx = m.mbx := rfl
@[simp] theorem modPw_streams (f : Power → Power) : (m.modPw f).streams = m.streams := rfl
@[simp] theorem modPw_triggers (f : Power → Power) : (m.modPw f).triggers = m.triggers := rfl
@[simp] theorem modPw_ports (f : Power → Power) : (m.modPw f).ports = m.ports := rfl
@[simp] theorem modPw_locks (f : Power → Power) : (m.modPw f).locks = m.locks := rfl
@[simp] theorem modPw_funcs (f : Power → Power) : (m.modPw f).funcs = m.funcs := rfl
@[simp] theorem modPw_mstate (f : Power → Power) : (m.modPw f).mstate = m.mstate := rfl
@[simp] theorem modPw_sent (f : Power → Power) : (m.modPw f).sent = m.sent := rfl
@[simp] theorem modPw_up (f : Power → Power) : (m.modPw f).up = m.up := rfl
@[simp] theorem modPw_flash (f : Power → Power) : (m.modPw f).flash = m.flash := rfl
@[simp] theorem modPw_features (f : Power → Power) : (m.modPw f).features = m.features := rfl
@[simp] theorem modPw_repairLog (f : Power → Power) : (m.modPw f).repairLog = m.repairLog := rfl
@[simp] theorem modPw_hardRows (f : Power → Power) : (m.modPw f).hardRows = m.hardRows := rfl
@[simp] theorem modPw_setNow (f : Power → Power) : (m.modPw f).setNow = m.setNow := rfl
@[simp] theorem modPw_agent (f : Power → Power) : (m.modPw f).agent = m.agent := rfl
@[simp] theorem modPw_agentQ (f : Power → Power) : (m.modPw f).agentQ = m.agentQ := rfl
@[simp] theorem modPw_loads (f : Power → Power) : (m.modPw f).loads = m.loads := rfl
@[simp] theorem modPw_tgt (f : Power → Power) : (m.modPw f).tgt = m.tgt := rfl
@[simp] theorem modPw_wave (f : Power → Power) : (m.modPw f).wave = m.wave := rfl
@[simp] theorem modPw_coll (f : Power → Power) : (m.modPw f).coll = m.coll := rfl
@[simp] theorem modPw_pmsgs (f : Power → Power) : (m.modPw f).pmsgs = m.pmsgs := rfl

/-! modEvr -/

@[simp] theorem modEvr_pes (r : Nat) (f : Evr → Evr) : (m.modEvr r f).pes = m.pes := rfl
@[simp] theorem modEvr_clusters (r : Nat) (f : Evr → Evr) : (m.modEvr r f).clusters = m.clusters := rfl
@[simp] theorem modEvr_tiles (r : Nat) (f : Evr → Evr) : (m.modEvr r f).tiles = m.tiles := rfl
@[simp] theorem modEvr_jobs (r : Nat) (f : Evr → Evr) : (m.modEvr r f).jobs = m.jobs := rfl
@[simp] theorem modEvr_net (r : Nat) (f : Evr → Evr) : (m.modEvr r f).net = m.net := rfl
@[simp] theorem modEvr_mem (r : Nat) (f : Evr → Evr) : (m.modEvr r f).mem = m.mem := rfl
@[simp] theorem modEvr_ms (r : Nat) (f : Evr → Evr) : (m.modEvr r f).ms = m.ms := rfl
@[simp] theorem modEvr_cores (r : Nat) (f : Evr → Evr) : (m.modEvr r f).cores = m.cores := rfl
@[simp] theorem modEvr_err (r : Nat) (f : Evr → Evr) : (m.modEvr r f).err = m.err := rfl
@[simp] theorem modEvr_objs (r : Nat) (f : Evr → Evr) : (m.modEvr r f).objs = m.objs := rfl
@[simp] theorem modEvr_quanta (r : Nat) (f : Evr → Evr) : (m.modEvr r f).quanta = m.quanta := rfl
@[simp] theorem modEvr_wall (r : Nat) (f : Evr → Evr) : (m.modEvr r f).wall = m.wall := rfl
@[simp] theorem modEvr_cycle (r : Nat) (f : Evr → Evr) : (m.modEvr r f).cycle = m.cycle := rfl
@[simp] theorem modEvr_hubTerms (r : Nat) (f : Evr → Evr) : (m.modEvr r f).hubTerms = m.hubTerms := rfl
@[simp] theorem modEvr_ic (r : Nat) (f : Evr → Evr) : (m.modEvr r f).ic = m.ic := rfl
@[simp] theorem modEvr_sched (r : Nat) (f : Evr → Evr) : (m.modEvr r f).sched = m.sched := rfl
@[simp] theorem modEvr_pairs (r : Nat) (f : Evr → Evr) : (m.modEvr r f).pairs = m.pairs := rfl
@[simp] theorem modEvr_mbx (r : Nat) (f : Evr → Evr) : (m.modEvr r f).mbx = m.mbx := rfl
@[simp] theorem modEvr_streams (r : Nat) (f : Evr → Evr) : (m.modEvr r f).streams = m.streams := rfl
@[simp] theorem modEvr_triggers (r : Nat) (f : Evr → Evr) : (m.modEvr r f).triggers = m.triggers := rfl
@[simp] theorem modEvr_ports (r : Nat) (f : Evr → Evr) : (m.modEvr r f).ports = m.ports := rfl
@[simp] theorem modEvr_locks (r : Nat) (f : Evr → Evr) : (m.modEvr r f).locks = m.locks := rfl
@[simp] theorem modEvr_funcs (r : Nat) (f : Evr → Evr) : (m.modEvr r f).funcs = m.funcs := rfl
@[simp] theorem modEvr_mstate (r : Nat) (f : Evr → Evr) : (m.modEvr r f).mstate = m.mstate := rfl
@[simp] theorem modEvr_pw (r : Nat) (f : Evr → Evr) : (m.modEvr r f).pw = m.pw := rfl
@[simp] theorem modEvr_sent (r : Nat) (f : Evr → Evr) : (m.modEvr r f).sent = m.sent := rfl
@[simp] theorem modEvr_up (r : Nat) (f : Evr → Evr) : (m.modEvr r f).up = m.up := rfl
@[simp] theorem modEvr_flash (r : Nat) (f : Evr → Evr) : (m.modEvr r f).flash = m.flash := rfl
@[simp] theorem modEvr_features (r : Nat) (f : Evr → Evr) : (m.modEvr r f).features = m.features := rfl
@[simp] theorem modEvr_repairLog (r : Nat) (f : Evr → Evr) : (m.modEvr r f).repairLog = m.repairLog := rfl
@[simp] theorem modEvr_hardRows (r : Nat) (f : Evr → Evr) : (m.modEvr r f).hardRows = m.hardRows := rfl
@[simp] theorem modEvr_setNow (r : Nat) (f : Evr → Evr) : (m.modEvr r f).setNow = m.setNow := rfl
@[simp] theorem modEvr_agent (r : Nat) (f : Evr → Evr) : (m.modEvr r f).agent = m.agent := rfl
@[simp] theorem modEvr_agentQ (r : Nat) (f : Evr → Evr) : (m.modEvr r f).agentQ = m.agentQ := rfl
@[simp] theorem modEvr_loads (r : Nat) (f : Evr → Evr) : (m.modEvr r f).loads = m.loads := rfl
@[simp] theorem modEvr_tgt (r : Nat) (f : Evr → Evr) : (m.modEvr r f).tgt = m.tgt := rfl
@[simp] theorem modEvr_wave (r : Nat) (f : Evr → Evr) : (m.modEvr r f).wave = m.wave := rfl
@[simp] theorem modEvr_coll (r : Nat) (f : Evr → Evr) : (m.modEvr r f).coll = m.coll := rfl
@[simp] theorem modEvr_pmsgs (r : Nat) (f : Evr → Evr) : (m.modEvr r f).pmsgs = m.pmsgs := rfl

/-! setQueue -/

@[simp] theorem setQueue_pes (q : Nat) (l : List QPkt) : (m.setQueue q l).pes = m.pes := rfl
@[simp] theorem setQueue_clusters (q : Nat) (l : List QPkt) : (m.setQueue q l).clusters = m.clusters := rfl
@[simp] theorem setQueue_tiles (q : Nat) (l : List QPkt) : (m.setQueue q l).tiles = m.tiles := rfl
@[simp] theorem setQueue_jobs (q : Nat) (l : List QPkt) : (m.setQueue q l).jobs = m.jobs := rfl
@[simp] theorem setQueue_mem (q : Nat) (l : List QPkt) : (m.setQueue q l).mem = m.mem := rfl
@[simp] theorem setQueue_ms (q : Nat) (l : List QPkt) : (m.setQueue q l).ms = m.ms := rfl
@[simp] theorem setQueue_cores (q : Nat) (l : List QPkt) : (m.setQueue q l).cores = m.cores := rfl
@[simp] theorem setQueue_err (q : Nat) (l : List QPkt) : (m.setQueue q l).err = m.err := rfl
@[simp] theorem setQueue_objs (q : Nat) (l : List QPkt) : (m.setQueue q l).objs = m.objs := rfl
@[simp] theorem setQueue_quanta (q : Nat) (l : List QPkt) : (m.setQueue q l).quanta = m.quanta := rfl
@[simp] theorem setQueue_wall (q : Nat) (l : List QPkt) : (m.setQueue q l).wall = m.wall := rfl
@[simp] theorem setQueue_cycle (q : Nat) (l : List QPkt) : (m.setQueue q l).cycle = m.cycle := rfl
@[simp] theorem setQueue_hubTerms (q : Nat) (l : List QPkt) : (m.setQueue q l).hubTerms = m.hubTerms := rfl
@[simp] theorem setQueue_evr (q : Nat) (l : List QPkt) : (m.setQueue q l).evr = m.evr := rfl
@[simp] theorem setQueue_ic (q : Nat) (l : List QPkt) : (m.setQueue q l).ic = m.ic := rfl
@[simp] theorem setQueue_sched (q : Nat) (l : List QPkt) : (m.setQueue q l).sched = m.sched := rfl
@[simp] theorem setQueue_pairs (q : Nat) (l : List QPkt) : (m.setQueue q l).pairs = m.pairs := rfl
@[simp] theorem setQueue_mbx (q : Nat) (l : List QPkt) : (m.setQueue q l).mbx = m.mbx := rfl
@[simp] theorem setQueue_streams (q : Nat) (l : List QPkt) : (m.setQueue q l).streams = m.streams := rfl
@[simp] theorem setQueue_triggers (q : Nat) (l : List QPkt) : (m.setQueue q l).triggers = m.triggers := rfl
@[simp] theorem setQueue_ports (q : Nat) (l : List QPkt) : (m.setQueue q l).ports = m.ports := rfl
@[simp] theorem setQueue_locks (q : Nat) (l : List QPkt) : (m.setQueue q l).locks = m.locks := rfl
@[simp] theorem setQueue_funcs (q : Nat) (l : List QPkt) : (m.setQueue q l).funcs = m.funcs := rfl
@[simp] theorem setQueue_mstate (q : Nat) (l : List QPkt) : (m.setQueue q l).mstate = m.mstate := rfl
@[simp] theorem setQueue_pw (q : Nat) (l : List QPkt) : (m.setQueue q l).pw = m.pw := rfl
@[simp] theorem setQueue_sent (q : Nat) (l : List QPkt) : (m.setQueue q l).sent = m.sent := rfl
@[simp] theorem setQueue_up (q : Nat) (l : List QPkt) : (m.setQueue q l).up = m.up := rfl
@[simp] theorem setQueue_flash (q : Nat) (l : List QPkt) : (m.setQueue q l).flash = m.flash := rfl
@[simp] theorem setQueue_features (q : Nat) (l : List QPkt) : (m.setQueue q l).features = m.features := rfl
@[simp] theorem setQueue_repairLog (q : Nat) (l : List QPkt) : (m.setQueue q l).repairLog = m.repairLog := rfl
@[simp] theorem setQueue_hardRows (q : Nat) (l : List QPkt) : (m.setQueue q l).hardRows = m.hardRows := rfl
@[simp] theorem setQueue_setNow (q : Nat) (l : List QPkt) : (m.setQueue q l).setNow = m.setNow := rfl
@[simp] theorem setQueue_agent (q : Nat) (l : List QPkt) : (m.setQueue q l).agent = m.agent := rfl
@[simp] theorem setQueue_agentQ (q : Nat) (l : List QPkt) : (m.setQueue q l).agentQ = m.agentQ := rfl
@[simp] theorem setQueue_loads (q : Nat) (l : List QPkt) : (m.setQueue q l).loads = m.loads := rfl
@[simp] theorem setQueue_tgt (q : Nat) (l : List QPkt) : (m.setQueue q l).tgt = m.tgt := rfl
@[simp] theorem setQueue_wave (q : Nat) (l : List QPkt) : (m.setQueue q l).wave = m.wave := rfl
@[simp] theorem setQueue_coll (q : Nat) (l : List QPkt) : (m.setQueue q l).coll = m.coll := rfl
@[simp] theorem setQueue_pmsgs (q : Nat) (l : List QPkt) : (m.setQueue q l).pmsgs = m.pmsgs := rfl

/-! modStop -/

@[simp] theorem modStop_pes (d : BitVec 2) (n : BitVec 5) (f : Stop → Stop) : (m.modStop d n f).pes = m.pes := rfl
@[simp] theorem modStop_clusters (d : BitVec 2) (n : BitVec 5) (f : Stop → Stop) : (m.modStop d n f).clusters = m.clusters := rfl
@[simp] theorem modStop_tiles (d : BitVec 2) (n : BitVec 5) (f : Stop → Stop) : (m.modStop d n f).tiles = m.tiles := rfl
@[simp] theorem modStop_jobs (d : BitVec 2) (n : BitVec 5) (f : Stop → Stop) : (m.modStop d n f).jobs = m.jobs := rfl
@[simp] theorem modStop_mem (d : BitVec 2) (n : BitVec 5) (f : Stop → Stop) : (m.modStop d n f).mem = m.mem := rfl
@[simp] theorem modStop_ms (d : BitVec 2) (n : BitVec 5) (f : Stop → Stop) : (m.modStop d n f).ms = m.ms := rfl
@[simp] theorem modStop_cores (d : BitVec 2) (n : BitVec 5) (f : Stop → Stop) : (m.modStop d n f).cores = m.cores := rfl
@[simp] theorem modStop_err (d : BitVec 2) (n : BitVec 5) (f : Stop → Stop) : (m.modStop d n f).err = m.err := rfl
@[simp] theorem modStop_objs (d : BitVec 2) (n : BitVec 5) (f : Stop → Stop) : (m.modStop d n f).objs = m.objs := rfl
@[simp] theorem modStop_quanta (d : BitVec 2) (n : BitVec 5) (f : Stop → Stop) : (m.modStop d n f).quanta = m.quanta := rfl
@[simp] theorem modStop_wall (d : BitVec 2) (n : BitVec 5) (f : Stop → Stop) : (m.modStop d n f).wall = m.wall := rfl
@[simp] theorem modStop_cycle (d : BitVec 2) (n : BitVec 5) (f : Stop → Stop) : (m.modStop d n f).cycle = m.cycle := rfl
@[simp] theorem modStop_hubTerms (d : BitVec 2) (n : BitVec 5) (f : Stop → Stop) : (m.modStop d n f).hubTerms = m.hubTerms := rfl
@[simp] theorem modStop_evr (d : BitVec 2) (n : BitVec 5) (f : Stop → Stop) : (m.modStop d n f).evr = m.evr := rfl
@[simp] theorem modStop_ic (d : BitVec 2) (n : BitVec 5) (f : Stop → Stop) : (m.modStop d n f).ic = m.ic := rfl
@[simp] theorem modStop_sched (d : BitVec 2) (n : BitVec 5) (f : Stop → Stop) : (m.modStop d n f).sched = m.sched := rfl
@[simp] theorem modStop_pairs (d : BitVec 2) (n : BitVec 5) (f : Stop → Stop) : (m.modStop d n f).pairs = m.pairs := rfl
@[simp] theorem modStop_mbx (d : BitVec 2) (n : BitVec 5) (f : Stop → Stop) : (m.modStop d n f).mbx = m.mbx := rfl
@[simp] theorem modStop_streams (d : BitVec 2) (n : BitVec 5) (f : Stop → Stop) : (m.modStop d n f).streams = m.streams := rfl
@[simp] theorem modStop_triggers (d : BitVec 2) (n : BitVec 5) (f : Stop → Stop) : (m.modStop d n f).triggers = m.triggers := rfl
@[simp] theorem modStop_ports (d : BitVec 2) (n : BitVec 5) (f : Stop → Stop) : (m.modStop d n f).ports = m.ports := rfl
@[simp] theorem modStop_locks (d : BitVec 2) (n : BitVec 5) (f : Stop → Stop) : (m.modStop d n f).locks = m.locks := rfl
@[simp] theorem modStop_funcs (d : BitVec 2) (n : BitVec 5) (f : Stop → Stop) : (m.modStop d n f).funcs = m.funcs := rfl
@[simp] theorem modStop_mstate (d : BitVec 2) (n : BitVec 5) (f : Stop → Stop) : (m.modStop d n f).mstate = m.mstate := rfl
@[simp] theorem modStop_pw (d : BitVec 2) (n : BitVec 5) (f : Stop → Stop) : (m.modStop d n f).pw = m.pw := rfl
@[simp] theorem modStop_sent (d : BitVec 2) (n : BitVec 5) (f : Stop → Stop) : (m.modStop d n f).sent = m.sent := rfl
@[simp] theorem modStop_up (d : BitVec 2) (n : BitVec 5) (f : Stop → Stop) : (m.modStop d n f).up = m.up := rfl
@[simp] theorem modStop_flash (d : BitVec 2) (n : BitVec 5) (f : Stop → Stop) : (m.modStop d n f).flash = m.flash := rfl
@[simp] theorem modStop_features (d : BitVec 2) (n : BitVec 5) (f : Stop → Stop) : (m.modStop d n f).features = m.features := rfl
@[simp] theorem modStop_repairLog (d : BitVec 2) (n : BitVec 5) (f : Stop → Stop) : (m.modStop d n f).repairLog = m.repairLog := rfl
@[simp] theorem modStop_hardRows (d : BitVec 2) (n : BitVec 5) (f : Stop → Stop) : (m.modStop d n f).hardRows = m.hardRows := rfl
@[simp] theorem modStop_setNow (d : BitVec 2) (n : BitVec 5) (f : Stop → Stop) : (m.modStop d n f).setNow = m.setNow := rfl
@[simp] theorem modStop_agent (d : BitVec 2) (n : BitVec 5) (f : Stop → Stop) : (m.modStop d n f).agent = m.agent := rfl
@[simp] theorem modStop_agentQ (d : BitVec 2) (n : BitVec 5) (f : Stop → Stop) : (m.modStop d n f).agentQ = m.agentQ := rfl
@[simp] theorem modStop_loads (d : BitVec 2) (n : BitVec 5) (f : Stop → Stop) : (m.modStop d n f).loads = m.loads := rfl
@[simp] theorem modStop_tgt (d : BitVec 2) (n : BitVec 5) (f : Stop → Stop) : (m.modStop d n f).tgt = m.tgt := rfl
@[simp] theorem modStop_wave (d : BitVec 2) (n : BitVec 5) (f : Stop → Stop) : (m.modStop d n f).wave = m.wave := rfl
@[simp] theorem modStop_coll (d : BitVec 2) (n : BitVec 5) (f : Stop → Stop) : (m.modStop d n f).coll = m.coll := rfl
@[simp] theorem modStop_pmsgs (d : BitVec 2) (n : BitVec 5) (f : Stop → Stop) : (m.modStop d n f).pmsgs = m.pmsgs := rfl

/-! modStream -/

@[simp] theorem modStream_pes (n : Nat) (f : Stream → Stream) : (m.modStream n f).pes = m.pes := rfl
@[simp] theorem modStream_clusters (n : Nat) (f : Stream → Stream) : (m.modStream n f).clusters = m.clusters := rfl
@[simp] theorem modStream_tiles (n : Nat) (f : Stream → Stream) : (m.modStream n f).tiles = m.tiles := rfl
@[simp] theorem modStream_jobs (n : Nat) (f : Stream → Stream) : (m.modStream n f).jobs = m.jobs := rfl
@[simp] theorem modStream_net (n : Nat) (f : Stream → Stream) : (m.modStream n f).net = m.net := rfl
@[simp] theorem modStream_mem (n : Nat) (f : Stream → Stream) : (m.modStream n f).mem = m.mem := rfl
@[simp] theorem modStream_ms (n : Nat) (f : Stream → Stream) : (m.modStream n f).ms = m.ms := rfl
@[simp] theorem modStream_cores (n : Nat) (f : Stream → Stream) : (m.modStream n f).cores = m.cores := rfl
@[simp] theorem modStream_err (n : Nat) (f : Stream → Stream) : (m.modStream n f).err = m.err := rfl
@[simp] theorem modStream_objs (n : Nat) (f : Stream → Stream) : (m.modStream n f).objs = m.objs := rfl
@[simp] theorem modStream_quanta (n : Nat) (f : Stream → Stream) : (m.modStream n f).quanta = m.quanta := rfl
@[simp] theorem modStream_wall (n : Nat) (f : Stream → Stream) : (m.modStream n f).wall = m.wall := rfl
@[simp] theorem modStream_cycle (n : Nat) (f : Stream → Stream) : (m.modStream n f).cycle = m.cycle := rfl
@[simp] theorem modStream_hubTerms (n : Nat) (f : Stream → Stream) : (m.modStream n f).hubTerms = m.hubTerms := rfl
@[simp] theorem modStream_evr (n : Nat) (f : Stream → Stream) : (m.modStream n f).evr = m.evr := rfl
@[simp] theorem modStream_ic (n : Nat) (f : Stream → Stream) : (m.modStream n f).ic = m.ic := rfl
@[simp] theorem modStream_sched (n : Nat) (f : Stream → Stream) : (m.modStream n f).sched = m.sched := rfl
@[simp] theorem modStream_pairs (n : Nat) (f : Stream → Stream) : (m.modStream n f).pairs = m.pairs := rfl
@[simp] theorem modStream_mbx (n : Nat) (f : Stream → Stream) : (m.modStream n f).mbx = m.mbx := rfl
@[simp] theorem modStream_triggers (n : Nat) (f : Stream → Stream) : (m.modStream n f).triggers = m.triggers := rfl
@[simp] theorem modStream_ports (n : Nat) (f : Stream → Stream) : (m.modStream n f).ports = m.ports := rfl
@[simp] theorem modStream_locks (n : Nat) (f : Stream → Stream) : (m.modStream n f).locks = m.locks := rfl
@[simp] theorem modStream_funcs (n : Nat) (f : Stream → Stream) : (m.modStream n f).funcs = m.funcs := rfl
@[simp] theorem modStream_mstate (n : Nat) (f : Stream → Stream) : (m.modStream n f).mstate = m.mstate := rfl
@[simp] theorem modStream_pw (n : Nat) (f : Stream → Stream) : (m.modStream n f).pw = m.pw := rfl
@[simp] theorem modStream_sent (n : Nat) (f : Stream → Stream) : (m.modStream n f).sent = m.sent := rfl
@[simp] theorem modStream_up (n : Nat) (f : Stream → Stream) : (m.modStream n f).up = m.up := rfl
@[simp] theorem modStream_flash (n : Nat) (f : Stream → Stream) : (m.modStream n f).flash = m.flash := rfl
@[simp] theorem modStream_features (n : Nat) (f : Stream → Stream) : (m.modStream n f).features = m.features := rfl
@[simp] theorem modStream_repairLog (n : Nat) (f : Stream → Stream) : (m.modStream n f).repairLog = m.repairLog := rfl
@[simp] theorem modStream_hardRows (n : Nat) (f : Stream → Stream) : (m.modStream n f).hardRows = m.hardRows := rfl
@[simp] theorem modStream_setNow (n : Nat) (f : Stream → Stream) : (m.modStream n f).setNow = m.setNow := rfl
@[simp] theorem modStream_agent (n : Nat) (f : Stream → Stream) : (m.modStream n f).agent = m.agent := rfl
@[simp] theorem modStream_agentQ (n : Nat) (f : Stream → Stream) : (m.modStream n f).agentQ = m.agentQ := rfl
@[simp] theorem modStream_loads (n : Nat) (f : Stream → Stream) : (m.modStream n f).loads = m.loads := rfl
@[simp] theorem modStream_tgt (n : Nat) (f : Stream → Stream) : (m.modStream n f).tgt = m.tgt := rfl
@[simp] theorem modStream_wave (n : Nat) (f : Stream → Stream) : (m.modStream n f).wave = m.wave := rfl
@[simp] theorem modStream_coll (n : Nat) (f : Stream → Stream) : (m.modStream n f).coll = m.coll := rfl
@[simp] theorem modStream_pmsgs (n : Nat) (f : Stream → Stream) : (m.modStream n f).pmsgs = m.pmsgs := rfl

/-! modTrigger -/

@[simp] theorem modTrigger_pes (n : Nat) (f : Trigger → Trigger) : (m.modTrigger n f).pes = m.pes := rfl
@[simp] theorem modTrigger_clusters (n : Nat) (f : Trigger → Trigger) : (m.modTrigger n f).clusters = m.clusters := rfl
@[simp] theorem modTrigger_tiles (n : Nat) (f : Trigger → Trigger) : (m.modTrigger n f).tiles = m.tiles := rfl
@[simp] theorem modTrigger_jobs (n : Nat) (f : Trigger → Trigger) : (m.modTrigger n f).jobs = m.jobs := rfl
@[simp] theorem modTrigger_net (n : Nat) (f : Trigger → Trigger) : (m.modTrigger n f).net = m.net := rfl
@[simp] theorem modTrigger_mem (n : Nat) (f : Trigger → Trigger) : (m.modTrigger n f).mem = m.mem := rfl
@[simp] theorem modTrigger_ms (n : Nat) (f : Trigger → Trigger) : (m.modTrigger n f).ms = m.ms := rfl
@[simp] theorem modTrigger_cores (n : Nat) (f : Trigger → Trigger) : (m.modTrigger n f).cores = m.cores := rfl
@[simp] theorem modTrigger_err (n : Nat) (f : Trigger → Trigger) : (m.modTrigger n f).err = m.err := rfl
@[simp] theorem modTrigger_objs (n : Nat) (f : Trigger → Trigger) : (m.modTrigger n f).objs = m.objs := rfl
@[simp] theorem modTrigger_quanta (n : Nat) (f : Trigger → Trigger) : (m.modTrigger n f).quanta = m.quanta := rfl
@[simp] theorem modTrigger_wall (n : Nat) (f : Trigger → Trigger) : (m.modTrigger n f).wall = m.wall := rfl
@[simp] theorem modTrigger_cycle (n : Nat) (f : Trigger → Trigger) : (m.modTrigger n f).cycle = m.cycle := rfl
@[simp] theorem modTrigger_hubTerms (n : Nat) (f : Trigger → Trigger) : (m.modTrigger n f).hubTerms = m.hubTerms := rfl
@[simp] theorem modTrigger_evr (n : Nat) (f : Trigger → Trigger) : (m.modTrigger n f).evr = m.evr := rfl
@[simp] theorem modTrigger_ic (n : Nat) (f : Trigger → Trigger) : (m.modTrigger n f).ic = m.ic := rfl
@[simp] theorem modTrigger_sched (n : Nat) (f : Trigger → Trigger) : (m.modTrigger n f).sched = m.sched := rfl
@[simp] theorem modTrigger_pairs (n : Nat) (f : Trigger → Trigger) : (m.modTrigger n f).pairs = m.pairs := rfl
@[simp] theorem modTrigger_mbx (n : Nat) (f : Trigger → Trigger) : (m.modTrigger n f).mbx = m.mbx := rfl
@[simp] theorem modTrigger_streams (n : Nat) (f : Trigger → Trigger) : (m.modTrigger n f).streams = m.streams := rfl
@[simp] theorem modTrigger_ports (n : Nat) (f : Trigger → Trigger) : (m.modTrigger n f).ports = m.ports := rfl
@[simp] theorem modTrigger_locks (n : Nat) (f : Trigger → Trigger) : (m.modTrigger n f).locks = m.locks := rfl
@[simp] theorem modTrigger_funcs (n : Nat) (f : Trigger → Trigger) : (m.modTrigger n f).funcs = m.funcs := rfl
@[simp] theorem modTrigger_mstate (n : Nat) (f : Trigger → Trigger) : (m.modTrigger n f).mstate = m.mstate := rfl
@[simp] theorem modTrigger_pw (n : Nat) (f : Trigger → Trigger) : (m.modTrigger n f).pw = m.pw := rfl
@[simp] theorem modTrigger_sent (n : Nat) (f : Trigger → Trigger) : (m.modTrigger n f).sent = m.sent := rfl
@[simp] theorem modTrigger_up (n : Nat) (f : Trigger → Trigger) : (m.modTrigger n f).up = m.up := rfl
@[simp] theorem modTrigger_flash (n : Nat) (f : Trigger → Trigger) : (m.modTrigger n f).flash = m.flash := rfl
@[simp] theorem modTrigger_features (n : Nat) (f : Trigger → Trigger) : (m.modTrigger n f).features = m.features := rfl
@[simp] theorem modTrigger_repairLog (n : Nat) (f : Trigger → Trigger) : (m.modTrigger n f).repairLog = m.repairLog := rfl
@[simp] theorem modTrigger_hardRows (n : Nat) (f : Trigger → Trigger) : (m.modTrigger n f).hardRows = m.hardRows := rfl
@[simp] theorem modTrigger_setNow (n : Nat) (f : Trigger → Trigger) : (m.modTrigger n f).setNow = m.setNow := rfl
@[simp] theorem modTrigger_agent (n : Nat) (f : Trigger → Trigger) : (m.modTrigger n f).agent = m.agent := rfl
@[simp] theorem modTrigger_agentQ (n : Nat) (f : Trigger → Trigger) : (m.modTrigger n f).agentQ = m.agentQ := rfl
@[simp] theorem modTrigger_loads (n : Nat) (f : Trigger → Trigger) : (m.modTrigger n f).loads = m.loads := rfl
@[simp] theorem modTrigger_tgt (n : Nat) (f : Trigger → Trigger) : (m.modTrigger n f).tgt = m.tgt := rfl
@[simp] theorem modTrigger_wave (n : Nat) (f : Trigger → Trigger) : (m.modTrigger n f).wave = m.wave := rfl
@[simp] theorem modTrigger_coll (n : Nat) (f : Trigger → Trigger) : (m.modTrigger n f).coll = m.coll := rfl
@[simp] theorem modTrigger_pmsgs (n : Nat) (f : Trigger → Trigger) : (m.modTrigger n f).pmsgs = m.pmsgs := rfl

/-! modPort -/

@[simp] theorem modPort_pes (q : BitVec 3) (f : FlPort → FlPort) : (m.modPort q f).pes = m.pes := rfl
@[simp] theorem modPort_clusters (q : BitVec 3) (f : FlPort → FlPort) : (m.modPort q f).clusters = m.clusters := rfl
@[simp] theorem modPort_tiles (q : BitVec 3) (f : FlPort → FlPort) : (m.modPort q f).tiles = m.tiles := rfl
@[simp] theorem modPort_jobs (q : BitVec 3) (f : FlPort → FlPort) : (m.modPort q f).jobs = m.jobs := rfl
@[simp] theorem modPort_net (q : BitVec 3) (f : FlPort → FlPort) : (m.modPort q f).net = m.net := rfl
@[simp] theorem modPort_mem (q : BitVec 3) (f : FlPort → FlPort) : (m.modPort q f).mem = m.mem := rfl
@[simp] theorem modPort_ms (q : BitVec 3) (f : FlPort → FlPort) : (m.modPort q f).ms = m.ms := rfl
@[simp] theorem modPort_cores (q : BitVec 3) (f : FlPort → FlPort) : (m.modPort q f).cores = m.cores := rfl
@[simp] theorem modPort_err (q : BitVec 3) (f : FlPort → FlPort) : (m.modPort q f).err = m.err := rfl
@[simp] theorem modPort_objs (q : BitVec 3) (f : FlPort → FlPort) : (m.modPort q f).objs = m.objs := rfl
@[simp] theorem modPort_quanta (q : BitVec 3) (f : FlPort → FlPort) : (m.modPort q f).quanta = m.quanta := rfl
@[simp] theorem modPort_wall (q : BitVec 3) (f : FlPort → FlPort) : (m.modPort q f).wall = m.wall := rfl
@[simp] theorem modPort_cycle (q : BitVec 3) (f : FlPort → FlPort) : (m.modPort q f).cycle = m.cycle := rfl
@[simp] theorem modPort_hubTerms (q : BitVec 3) (f : FlPort → FlPort) : (m.modPort q f).hubTerms = m.hubTerms := rfl
@[simp] theorem modPort_evr (q : BitVec 3) (f : FlPort → FlPort) : (m.modPort q f).evr = m.evr := rfl
@[simp] theorem modPort_ic (q : BitVec 3) (f : FlPort → FlPort) : (m.modPort q f).ic = m.ic := rfl
@[simp] theorem modPort_sched (q : BitVec 3) (f : FlPort → FlPort) : (m.modPort q f).sched = m.sched := rfl
@[simp] theorem modPort_pairs (q : BitVec 3) (f : FlPort → FlPort) : (m.modPort q f).pairs = m.pairs := rfl
@[simp] theorem modPort_mbx (q : BitVec 3) (f : FlPort → FlPort) : (m.modPort q f).mbx = m.mbx := rfl
@[simp] theorem modPort_streams (q : BitVec 3) (f : FlPort → FlPort) : (m.modPort q f).streams = m.streams := rfl
@[simp] theorem modPort_triggers (q : BitVec 3) (f : FlPort → FlPort) : (m.modPort q f).triggers = m.triggers := rfl
@[simp] theorem modPort_locks (q : BitVec 3) (f : FlPort → FlPort) : (m.modPort q f).locks = m.locks := rfl
@[simp] theorem modPort_funcs (q : BitVec 3) (f : FlPort → FlPort) : (m.modPort q f).funcs = m.funcs := rfl
@[simp] theorem modPort_mstate (q : BitVec 3) (f : FlPort → FlPort) : (m.modPort q f).mstate = m.mstate := rfl
@[simp] theorem modPort_pw (q : BitVec 3) (f : FlPort → FlPort) : (m.modPort q f).pw = m.pw := rfl
@[simp] theorem modPort_sent (q : BitVec 3) (f : FlPort → FlPort) : (m.modPort q f).sent = m.sent := rfl
@[simp] theorem modPort_up (q : BitVec 3) (f : FlPort → FlPort) : (m.modPort q f).up = m.up := rfl
@[simp] theorem modPort_flash (q : BitVec 3) (f : FlPort → FlPort) : (m.modPort q f).flash = m.flash := rfl
@[simp] theorem modPort_features (q : BitVec 3) (f : FlPort → FlPort) : (m.modPort q f).features = m.features := rfl
@[simp] theorem modPort_repairLog (q : BitVec 3) (f : FlPort → FlPort) : (m.modPort q f).repairLog = m.repairLog := rfl
@[simp] theorem modPort_hardRows (q : BitVec 3) (f : FlPort → FlPort) : (m.modPort q f).hardRows = m.hardRows := rfl
@[simp] theorem modPort_setNow (q : BitVec 3) (f : FlPort → FlPort) : (m.modPort q f).setNow = m.setNow := rfl
@[simp] theorem modPort_agent (q : BitVec 3) (f : FlPort → FlPort) : (m.modPort q f).agent = m.agent := rfl
@[simp] theorem modPort_agentQ (q : BitVec 3) (f : FlPort → FlPort) : (m.modPort q f).agentQ = m.agentQ := rfl
@[simp] theorem modPort_loads (q : BitVec 3) (f : FlPort → FlPort) : (m.modPort q f).loads = m.loads := rfl
@[simp] theorem modPort_tgt (q : BitVec 3) (f : FlPort → FlPort) : (m.modPort q f).tgt = m.tgt := rfl
@[simp] theorem modPort_wave (q : BitVec 3) (f : FlPort → FlPort) : (m.modPort q f).wave = m.wave := rfl
@[simp] theorem modPort_coll (q : BitVec 3) (f : FlPort → FlPort) : (m.modPort q f).coll = m.coll := rfl
@[simp] theorem modPort_pmsgs (q : BitVec 3) (f : FlPort → FlPort) : (m.modPort q f).pmsgs = m.pmsgs := rfl

/-! modLock -/

@[simp] theorem modLock_pes (n : Byte) (f : Lock → Lock) : (m.modLock n f).pes = m.pes := rfl
@[simp] theorem modLock_clusters (n : Byte) (f : Lock → Lock) : (m.modLock n f).clusters = m.clusters := rfl
@[simp] theorem modLock_tiles (n : Byte) (f : Lock → Lock) : (m.modLock n f).tiles = m.tiles := rfl
@[simp] theorem modLock_jobs (n : Byte) (f : Lock → Lock) : (m.modLock n f).jobs = m.jobs := rfl
@[simp] theorem modLock_net (n : Byte) (f : Lock → Lock) : (m.modLock n f).net = m.net := rfl
@[simp] theorem modLock_mem (n : Byte) (f : Lock → Lock) : (m.modLock n f).mem = m.mem := rfl
@[simp] theorem modLock_ms (n : Byte) (f : Lock → Lock) : (m.modLock n f).ms = m.ms := rfl
@[simp] theorem modLock_cores (n : Byte) (f : Lock → Lock) : (m.modLock n f).cores = m.cores := rfl
@[simp] theorem modLock_err (n : Byte) (f : Lock → Lock) : (m.modLock n f).err = m.err := rfl
@[simp] theorem modLock_objs (n : Byte) (f : Lock → Lock) : (m.modLock n f).objs = m.objs := rfl
@[simp] theorem modLock_quanta (n : Byte) (f : Lock → Lock) : (m.modLock n f).quanta = m.quanta := rfl
@[simp] theorem modLock_wall (n : Byte) (f : Lock → Lock) : (m.modLock n f).wall = m.wall := rfl
@[simp] theorem modLock_cycle (n : Byte) (f : Lock → Lock) : (m.modLock n f).cycle = m.cycle := rfl
@[simp] theorem modLock_hubTerms (n : Byte) (f : Lock → Lock) : (m.modLock n f).hubTerms = m.hubTerms := rfl
@[simp] theorem modLock_evr (n : Byte) (f : Lock → Lock) : (m.modLock n f).evr = m.evr := rfl
@[simp] theorem modLock_ic (n : Byte) (f : Lock → Lock) : (m.modLock n f).ic = m.ic := rfl
@[simp] theorem modLock_sched (n : Byte) (f : Lock → Lock) : (m.modLock n f).sched = m.sched := rfl
@[simp] theorem modLock_pairs (n : Byte) (f : Lock → Lock) : (m.modLock n f).pairs = m.pairs := rfl
@[simp] theorem modLock_mbx (n : Byte) (f : Lock → Lock) : (m.modLock n f).mbx = m.mbx := rfl
@[simp] theorem modLock_streams (n : Byte) (f : Lock → Lock) : (m.modLock n f).streams = m.streams := rfl
@[simp] theorem modLock_triggers (n : Byte) (f : Lock → Lock) : (m.modLock n f).triggers = m.triggers := rfl
@[simp] theorem modLock_ports (n : Byte) (f : Lock → Lock) : (m.modLock n f).ports = m.ports := rfl
@[simp] theorem modLock_funcs (n : Byte) (f : Lock → Lock) : (m.modLock n f).funcs = m.funcs := rfl
@[simp] theorem modLock_mstate (n : Byte) (f : Lock → Lock) : (m.modLock n f).mstate = m.mstate := rfl
@[simp] theorem modLock_pw (n : Byte) (f : Lock → Lock) : (m.modLock n f).pw = m.pw := rfl
@[simp] theorem modLock_sent (n : Byte) (f : Lock → Lock) : (m.modLock n f).sent = m.sent := rfl
@[simp] theorem modLock_up (n : Byte) (f : Lock → Lock) : (m.modLock n f).up = m.up := rfl
@[simp] theorem modLock_flash (n : Byte) (f : Lock → Lock) : (m.modLock n f).flash = m.flash := rfl
@[simp] theorem modLock_features (n : Byte) (f : Lock → Lock) : (m.modLock n f).features = m.features := rfl
@[simp] theorem modLock_repairLog (n : Byte) (f : Lock → Lock) : (m.modLock n f).repairLog = m.repairLog := rfl
@[simp] theorem modLock_hardRows (n : Byte) (f : Lock → Lock) : (m.modLock n f).hardRows = m.hardRows := rfl
@[simp] theorem modLock_setNow (n : Byte) (f : Lock → Lock) : (m.modLock n f).setNow = m.setNow := rfl
@[simp] theorem modLock_agent (n : Byte) (f : Lock → Lock) : (m.modLock n f).agent = m.agent := rfl
@[simp] theorem modLock_agentQ (n : Byte) (f : Lock → Lock) : (m.modLock n f).agentQ = m.agentQ := rfl
@[simp] theorem modLock_loads (n : Byte) (f : Lock → Lock) : (m.modLock n f).loads = m.loads := rfl
@[simp] theorem modLock_tgt (n : Byte) (f : Lock → Lock) : (m.modLock n f).tgt = m.tgt := rfl
@[simp] theorem modLock_wave (n : Byte) (f : Lock → Lock) : (m.modLock n f).wave = m.wave := rfl
@[simp] theorem modLock_coll (n : Byte) (f : Lock → Lock) : (m.modLock n f).coll = m.coll := rfl
@[simp] theorem modLock_pmsgs (n : Byte) (f : Lock → Lock) : (m.modLock n f).pmsgs = m.pmsgs := rfl

/-! modFunc -/

@[simp] theorem modFunc_pes (n : Nat) (f : Func → Func) : (m.modFunc n f).pes = m.pes := rfl
@[simp] theorem modFunc_clusters (n : Nat) (f : Func → Func) : (m.modFunc n f).clusters = m.clusters := rfl
@[simp] theorem modFunc_tiles (n : Nat) (f : Func → Func) : (m.modFunc n f).tiles = m.tiles := rfl
@[simp] theorem modFunc_jobs (n : Nat) (f : Func → Func) : (m.modFunc n f).jobs = m.jobs := rfl
@[simp] theorem modFunc_net (n : Nat) (f : Func → Func) : (m.modFunc n f).net = m.net := rfl
@[simp] theorem modFunc_mem (n : Nat) (f : Func → Func) : (m.modFunc n f).mem = m.mem := rfl
@[simp] theorem modFunc_ms (n : Nat) (f : Func → Func) : (m.modFunc n f).ms = m.ms := rfl
@[simp] theorem modFunc_cores (n : Nat) (f : Func → Func) : (m.modFunc n f).cores = m.cores := rfl
@[simp] theorem modFunc_err (n : Nat) (f : Func → Func) : (m.modFunc n f).err = m.err := rfl
@[simp] theorem modFunc_objs (n : Nat) (f : Func → Func) : (m.modFunc n f).objs = m.objs := rfl
@[simp] theorem modFunc_quanta (n : Nat) (f : Func → Func) : (m.modFunc n f).quanta = m.quanta := rfl
@[simp] theorem modFunc_wall (n : Nat) (f : Func → Func) : (m.modFunc n f).wall = m.wall := rfl
@[simp] theorem modFunc_cycle (n : Nat) (f : Func → Func) : (m.modFunc n f).cycle = m.cycle := rfl
@[simp] theorem modFunc_hubTerms (n : Nat) (f : Func → Func) : (m.modFunc n f).hubTerms = m.hubTerms := rfl
@[simp] theorem modFunc_evr (n : Nat) (f : Func → Func) : (m.modFunc n f).evr = m.evr := rfl
@[simp] theorem modFunc_ic (n : Nat) (f : Func → Func) : (m.modFunc n f).ic = m.ic := rfl
@[simp] theorem modFunc_sched (n : Nat) (f : Func → Func) : (m.modFunc n f).sched = m.sched := rfl
@[simp] theorem modFunc_pairs (n : Nat) (f : Func → Func) : (m.modFunc n f).pairs = m.pairs := rfl
@[simp] theorem modFunc_mbx (n : Nat) (f : Func → Func) : (m.modFunc n f).mbx = m.mbx := rfl
@[simp] theorem modFunc_streams (n : Nat) (f : Func → Func) : (m.modFunc n f).streams = m.streams := rfl
@[simp] theorem modFunc_triggers (n : Nat) (f : Func → Func) : (m.modFunc n f).triggers = m.triggers := rfl
@[simp] theorem modFunc_ports (n : Nat) (f : Func → Func) : (m.modFunc n f).ports = m.ports := rfl
@[simp] theorem modFunc_locks (n : Nat) (f : Func → Func) : (m.modFunc n f).locks = m.locks := rfl
@[simp] theorem modFunc_mstate (n : Nat) (f : Func → Func) : (m.modFunc n f).mstate = m.mstate := rfl
@[simp] theorem modFunc_pw (n : Nat) (f : Func → Func) : (m.modFunc n f).pw = m.pw := rfl
@[simp] theorem modFunc_sent (n : Nat) (f : Func → Func) : (m.modFunc n f).sent = m.sent := rfl
@[simp] theorem modFunc_up (n : Nat) (f : Func → Func) : (m.modFunc n f).up = m.up := rfl
@[simp] theorem modFunc_flash (n : Nat) (f : Func → Func) : (m.modFunc n f).flash = m.flash := rfl
@[simp] theorem modFunc_features (n : Nat) (f : Func → Func) : (m.modFunc n f).features = m.features := rfl
@[simp] theorem modFunc_repairLog (n : Nat) (f : Func → Func) : (m.modFunc n f).repairLog = m.repairLog := rfl
@[simp] theorem modFunc_hardRows (n : Nat) (f : Func → Func) : (m.modFunc n f).hardRows = m.hardRows := rfl
@[simp] theorem modFunc_setNow (n : Nat) (f : Func → Func) : (m.modFunc n f).setNow = m.setNow := rfl
@[simp] theorem modFunc_agent (n : Nat) (f : Func → Func) : (m.modFunc n f).agent = m.agent := rfl
@[simp] theorem modFunc_agentQ (n : Nat) (f : Func → Func) : (m.modFunc n f).agentQ = m.agentQ := rfl
@[simp] theorem modFunc_loads (n : Nat) (f : Func → Func) : (m.modFunc n f).loads = m.loads := rfl
@[simp] theorem modFunc_tgt (n : Nat) (f : Func → Func) : (m.modFunc n f).tgt = m.tgt := rfl
@[simp] theorem modFunc_wave (n : Nat) (f : Func → Func) : (m.modFunc n f).wave = m.wave := rfl
@[simp] theorem modFunc_coll (n : Nat) (f : Func → Func) : (m.modFunc n f).coll = m.coll := rfl
@[simp] theorem modFunc_pmsgs (n : Nat) (f : Func → Func) : (m.modFunc n f).pmsgs = m.pmsgs := rfl

/-! modPair -/

@[simp] theorem modPair_pes (k : Nat) (f : Pair → Pair) : (m.modPair k f).pes = m.pes := rfl
@[simp] theorem modPair_clusters (k : Nat) (f : Pair → Pair) : (m.modPair k f).clusters = m.clusters := rfl
@[simp] theorem modPair_tiles (k : Nat) (f : Pair → Pair) : (m.modPair k f).tiles = m.tiles := rfl
@[simp] theorem modPair_jobs (k : Nat) (f : Pair → Pair) : (m.modPair k f).jobs = m.jobs := rfl
@[simp] theorem modPair_net (k : Nat) (f : Pair → Pair) : (m.modPair k f).net = m.net := rfl
@[simp] theorem modPair_mem (k : Nat) (f : Pair → Pair) : (m.modPair k f).mem = m.mem := rfl
@[simp] theorem modPair_ms (k : Nat) (f : Pair → Pair) : (m.modPair k f).ms = m.ms := rfl
@[simp] theorem modPair_cores (k : Nat) (f : Pair → Pair) : (m.modPair k f).cores = m.cores := rfl
@[simp] theorem modPair_err (k : Nat) (f : Pair → Pair) : (m.modPair k f).err = m.err := rfl
@[simp] theorem modPair_objs (k : Nat) (f : Pair → Pair) : (m.modPair k f).objs = m.objs := rfl
@[simp] theorem modPair_quanta (k : Nat) (f : Pair → Pair) : (m.modPair k f).quanta = m.quanta := rfl
@[simp] theorem modPair_wall (k : Nat) (f : Pair → Pair) : (m.modPair k f).wall = m.wall := rfl
@[simp] theorem modPair_cycle (k : Nat) (f : Pair → Pair) : (m.modPair k f).cycle = m.cycle := rfl
@[simp] theorem modPair_hubTerms (k : Nat) (f : Pair → Pair) : (m.modPair k f).hubTerms = m.hubTerms := rfl
@[simp] theorem modPair_evr (k : Nat) (f : Pair → Pair) : (m.modPair k f).evr = m.evr := rfl
@[simp] theorem modPair_ic (k : Nat) (f : Pair → Pair) : (m.modPair k f).ic = m.ic := rfl
@[simp] theorem modPair_sched (k : Nat) (f : Pair → Pair) : (m.modPair k f).sched = m.sched := rfl
@[simp] theorem modPair_mbx (k : Nat) (f : Pair → Pair) : (m.modPair k f).mbx = m.mbx := rfl
@[simp] theorem modPair_streams (k : Nat) (f : Pair → Pair) : (m.modPair k f).streams = m.streams := rfl
@[simp] theorem modPair_triggers (k : Nat) (f : Pair → Pair) : (m.modPair k f).triggers = m.triggers := rfl
@[simp] theorem modPair_ports (k : Nat) (f : Pair → Pair) : (m.modPair k f).ports = m.ports := rfl
@[simp] theorem modPair_locks (k : Nat) (f : Pair → Pair) : (m.modPair k f).locks = m.locks := rfl
@[simp] theorem modPair_funcs (k : Nat) (f : Pair → Pair) : (m.modPair k f).funcs = m.funcs := rfl
@[simp] theorem modPair_mstate (k : Nat) (f : Pair → Pair) : (m.modPair k f).mstate = m.mstate := rfl
@[simp] theorem modPair_pw (k : Nat) (f : Pair → Pair) : (m.modPair k f).pw = m.pw := rfl
@[simp] theorem modPair_sent (k : Nat) (f : Pair → Pair) : (m.modPair k f).sent = m.sent := rfl
@[simp] theorem modPair_up (k : Nat) (f : Pair → Pair) : (m.modPair k f).up = m.up := rfl
@[simp] theorem modPair_flash (k : Nat) (f : Pair → Pair) : (m.modPair k f).flash = m.flash := rfl
@[simp] theorem modPair_features (k : Nat) (f : Pair → Pair) : (m.modPair k f).features = m.features := rfl
@[simp] theorem modPair_repairLog (k : Nat) (f : Pair → Pair) : (m.modPair k f).repairLog = m.repairLog := rfl
@[simp] theorem modPair_hardRows (k : Nat) (f : Pair → Pair) : (m.modPair k f).hardRows = m.hardRows := rfl
@[simp] theorem modPair_setNow (k : Nat) (f : Pair → Pair) : (m.modPair k f).setNow = m.setNow := rfl
@[simp] theorem modPair_agent (k : Nat) (f : Pair → Pair) : (m.modPair k f).agent = m.agent := rfl
@[simp] theorem modPair_agentQ (k : Nat) (f : Pair → Pair) : (m.modPair k f).agentQ = m.agentQ := rfl
@[simp] theorem modPair_loads (k : Nat) (f : Pair → Pair) : (m.modPair k f).loads = m.loads := rfl
@[simp] theorem modPair_tgt (k : Nat) (f : Pair → Pair) : (m.modPair k f).tgt = m.tgt := rfl
@[simp] theorem modPair_wave (k : Nat) (f : Pair → Pair) : (m.modPair k f).wave = m.wave := rfl
@[simp] theorem modPair_coll (k : Nat) (f : Pair → Pair) : (m.modPair k f).coll = m.coll := rfl
@[simp] theorem modPair_pmsgs (k : Nat) (f : Pair → Pair) : (m.modPair k f).pmsgs = m.pmsgs := rfl

/-! modMbx -/

@[simp] theorem modMbx_pes (n : Nat) (f : Mbx → Mbx) : (m.modMbx n f).pes = m.pes := rfl
@[simp] theorem modMbx_clusters (n : Nat) (f : Mbx → Mbx) : (m.modMbx n f).clusters = m.clusters := rfl
@[simp] theorem modMbx_tiles (n : Nat) (f : Mbx → Mbx) : (m.modMbx n f).tiles = m.tiles := rfl
@[simp] theorem modMbx_jobs (n : Nat) (f : Mbx → Mbx) : (m.modMbx n f).jobs = m.jobs := rfl
@[simp] theorem modMbx_net (n : Nat) (f : Mbx → Mbx) : (m.modMbx n f).net = m.net := rfl
@[simp] theorem modMbx_mem (n : Nat) (f : Mbx → Mbx) : (m.modMbx n f).mem = m.mem := rfl
@[simp] theorem modMbx_ms (n : Nat) (f : Mbx → Mbx) : (m.modMbx n f).ms = m.ms := rfl
@[simp] theorem modMbx_cores (n : Nat) (f : Mbx → Mbx) : (m.modMbx n f).cores = m.cores := rfl
@[simp] theorem modMbx_err (n : Nat) (f : Mbx → Mbx) : (m.modMbx n f).err = m.err := rfl
@[simp] theorem modMbx_objs (n : Nat) (f : Mbx → Mbx) : (m.modMbx n f).objs = m.objs := rfl
@[simp] theorem modMbx_quanta (n : Nat) (f : Mbx → Mbx) : (m.modMbx n f).quanta = m.quanta := rfl
@[simp] theorem modMbx_wall (n : Nat) (f : Mbx → Mbx) : (m.modMbx n f).wall = m.wall := rfl
@[simp] theorem modMbx_cycle (n : Nat) (f : Mbx → Mbx) : (m.modMbx n f).cycle = m.cycle := rfl
@[simp] theorem modMbx_hubTerms (n : Nat) (f : Mbx → Mbx) : (m.modMbx n f).hubTerms = m.hubTerms := rfl
@[simp] theorem modMbx_evr (n : Nat) (f : Mbx → Mbx) : (m.modMbx n f).evr = m.evr := rfl
@[simp] theorem modMbx_ic (n : Nat) (f : Mbx → Mbx) : (m.modMbx n f).ic = m.ic := rfl
@[simp] theorem modMbx_sched (n : Nat) (f : Mbx → Mbx) : (m.modMbx n f).sched = m.sched := rfl
@[simp] theorem modMbx_pairs (n : Nat) (f : Mbx → Mbx) : (m.modMbx n f).pairs = m.pairs := rfl
@[simp] theorem modMbx_streams (n : Nat) (f : Mbx → Mbx) : (m.modMbx n f).streams = m.streams := rfl
@[simp] theorem modMbx_triggers (n : Nat) (f : Mbx → Mbx) : (m.modMbx n f).triggers = m.triggers := rfl
@[simp] theorem modMbx_ports (n : Nat) (f : Mbx → Mbx) : (m.modMbx n f).ports = m.ports := rfl
@[simp] theorem modMbx_locks (n : Nat) (f : Mbx → Mbx) : (m.modMbx n f).locks = m.locks := rfl
@[simp] theorem modMbx_funcs (n : Nat) (f : Mbx → Mbx) : (m.modMbx n f).funcs = m.funcs := rfl
@[simp] theorem modMbx_mstate (n : Nat) (f : Mbx → Mbx) : (m.modMbx n f).mstate = m.mstate := rfl
@[simp] theorem modMbx_pw (n : Nat) (f : Mbx → Mbx) : (m.modMbx n f).pw = m.pw := rfl
@[simp] theorem modMbx_sent (n : Nat) (f : Mbx → Mbx) : (m.modMbx n f).sent = m.sent := rfl
@[simp] theorem modMbx_up (n : Nat) (f : Mbx → Mbx) : (m.modMbx n f).up = m.up := rfl
@[simp] theorem modMbx_flash (n : Nat) (f : Mbx → Mbx) : (m.modMbx n f).flash = m.flash := rfl
@[simp] theorem modMbx_features (n : Nat) (f : Mbx → Mbx) : (m.modMbx n f).features = m.features := rfl
@[simp] theorem modMbx_repairLog (n : Nat) (f : Mbx → Mbx) : (m.modMbx n f).repairLog = m.repairLog := rfl
@[simp] theorem modMbx_hardRows (n : Nat) (f : Mbx → Mbx) : (m.modMbx n f).hardRows = m.hardRows := rfl
@[simp] theorem modMbx_setNow (n : Nat) (f : Mbx → Mbx) : (m.modMbx n f).setNow = m.setNow := rfl
@[simp] theorem modMbx_agent (n : Nat) (f : Mbx → Mbx) : (m.modMbx n f).agent = m.agent := rfl
@[simp] theorem modMbx_agentQ (n : Nat) (f : Mbx → Mbx) : (m.modMbx n f).agentQ = m.agentQ := rfl
@[simp] theorem modMbx_loads (n : Nat) (f : Mbx → Mbx) : (m.modMbx n f).loads = m.loads := rfl
@[simp] theorem modMbx_tgt (n : Nat) (f : Mbx → Mbx) : (m.modMbx n f).tgt = m.tgt := rfl
@[simp] theorem modMbx_wave (n : Nat) (f : Mbx → Mbx) : (m.modMbx n f).wave = m.wave := rfl
@[simp] theorem modMbx_coll (n : Nat) (f : Mbx → Mbx) : (m.modMbx n f).coll = m.coll := rfl
@[simp] theorem modMbx_pmsgs (n : Nat) (f : Mbx → Mbx) : (m.modMbx n f).pmsgs = m.pmsgs := rfl

/-! send -/

@[simp] theorem send_pes (x : Sent) : (m.send x).pes = m.pes := rfl
@[simp] theorem send_clusters (x : Sent) : (m.send x).clusters = m.clusters := rfl
@[simp] theorem send_tiles (x : Sent) : (m.send x).tiles = m.tiles := rfl
@[simp] theorem send_jobs (x : Sent) : (m.send x).jobs = m.jobs := rfl
@[simp] theorem send_net (x : Sent) : (m.send x).net = m.net := rfl
@[simp] theorem send_mem (x : Sent) : (m.send x).mem = m.mem := rfl
@[simp] theorem send_ms (x : Sent) : (m.send x).ms = m.ms := rfl
@[simp] theorem send_cores (x : Sent) : (m.send x).cores = m.cores := rfl
@[simp] theorem send_err (x : Sent) : (m.send x).err = m.err := rfl
@[simp] theorem send_objs (x : Sent) : (m.send x).objs = m.objs := rfl
@[simp] theorem send_quanta (x : Sent) : (m.send x).quanta = m.quanta := rfl
@[simp] theorem send_wall (x : Sent) : (m.send x).wall = m.wall := rfl
@[simp] theorem send_cycle (x : Sent) : (m.send x).cycle = m.cycle := rfl
@[simp] theorem send_hubTerms (x : Sent) : (m.send x).hubTerms = m.hubTerms := rfl
@[simp] theorem send_evr (x : Sent) : (m.send x).evr = m.evr := rfl
@[simp] theorem send_ic (x : Sent) : (m.send x).ic = m.ic := rfl
@[simp] theorem send_sched (x : Sent) : (m.send x).sched = m.sched := rfl
@[simp] theorem send_pairs (x : Sent) : (m.send x).pairs = m.pairs := rfl
@[simp] theorem send_mbx (x : Sent) : (m.send x).mbx = m.mbx := rfl
@[simp] theorem send_streams (x : Sent) : (m.send x).streams = m.streams := rfl
@[simp] theorem send_triggers (x : Sent) : (m.send x).triggers = m.triggers := rfl
@[simp] theorem send_ports (x : Sent) : (m.send x).ports = m.ports := rfl
@[simp] theorem send_locks (x : Sent) : (m.send x).locks = m.locks := rfl
@[simp] theorem send_funcs (x : Sent) : (m.send x).funcs = m.funcs := rfl
@[simp] theorem send_mstate (x : Sent) : (m.send x).mstate = m.mstate := rfl
@[simp] theorem send_pw (x : Sent) : (m.send x).pw = m.pw := rfl
@[simp] theorem send_up (x : Sent) : (m.send x).up = m.up := rfl
@[simp] theorem send_flash (x : Sent) : (m.send x).flash = m.flash := rfl
@[simp] theorem send_features (x : Sent) : (m.send x).features = m.features := rfl
@[simp] theorem send_repairLog (x : Sent) : (m.send x).repairLog = m.repairLog := rfl
@[simp] theorem send_hardRows (x : Sent) : (m.send x).hardRows = m.hardRows := rfl
@[simp] theorem send_setNow (x : Sent) : (m.send x).setNow = m.setNow := rfl
@[simp] theorem send_agent (x : Sent) : (m.send x).agent = m.agent := rfl
@[simp] theorem send_agentQ (x : Sent) : (m.send x).agentQ = m.agentQ := rfl
@[simp] theorem send_loads (x : Sent) : (m.send x).loads = m.loads := rfl
@[simp] theorem send_tgt (x : Sent) : (m.send x).tgt = m.tgt := rfl
@[simp] theorem send_wave (x : Sent) : (m.send x).wave = m.wave := rfl
@[simp] theorem send_coll (x : Sent) : (m.send x).coll = m.coll := rfl
@[simp] theorem send_pmsgs (x : Sent) : (m.send x).pmsgs = m.pmsgs := rfl

/-! A part read after it is changed -/

@[simp] theorem pe_modPe (p : PeId) (f : Pe → Pe) : (m.modPe p f).pe p = f (m.pe p) := by
  simp [modPe, pe, setPe]
@[simp] theorem tile_modTile (p : TileId) (f : Tile → Tile) : (m.modTile p f).tile p = f (m.tile p) := by
  simp [modTile, tile, setTile]
@[simp] theorem job_modJob (p : JobId) (f : Job → Job) : (m.modJob p f).job p = f (m.job p) := by
  simp [modJob, job]
@[simp] theorem cluster_modCluster (p : ClusterId) (f : Cluster → Cluster) : (m.modCluster p f).cluster p = f (m.cluster p) := by
  simp [modCluster, cluster]
@[simp] theorem evRing_modEvr (p : Nat) (f : Evr → Evr) : (m.modEvr p f).evRing p = f (m.evRing p) := by
  simp [modEvr, evRing]
@[simp] theorem stream_modStream (p : Nat) (f : Stream → Stream) : (m.modStream p f).stream p = f (m.stream p) := by
  simp [modStream, stream]
@[simp] theorem trigger_modTrigger (p : Nat) (f : Trigger → Trigger) : (m.modTrigger p f).trigger p = f (m.trigger p) := by
  simp [modTrigger, trigger]
@[simp] theorem port_modPort (p : BitVec 3) (f : FlPort → FlPort) : (m.modPort p f).port p = f (m.port p) := by
  simp [modPort, port]
@[simp] theorem lock_modLock (p : Byte) (f : Lock → Lock) : (m.modLock p f).lock p = f (m.lock p) := by
  simp [modLock, lock]
@[simp] theorem func_modFunc (p : Nat) (f : Func → Func) : (m.modFunc p f).func p = f (m.func p) := by
  simp [modFunc, func]
@[simp] theorem pair_modPair (p : Nat) (f : Pair → Pair) : (m.modPair p f).pair p = f (m.pair p) := by
  simp [modPair, pair]
@[simp] theorem mailbox_modMbx (p : Nat) (f : Mbx → Mbx) : (m.modMbx p f).mailbox p = f (m.mailbox p) := by
  simp [modMbx, mailbox]
@[simp] theorem core_setCore (c : BitVec 4) (x : Core) : (m.setCore c x).core c = x := by simp [setCore, core]
@[simp] theorem pe_setPe (p : PeId) (x : Pe) : (m.setPe p x).pe p = x := by simp [setPe, pe]
@[simp] theorem tile_setTile (t : TileId) (x : Tile) : (m.setTile t x).tile t = x := by simp [setTile, tile]
@[simp] theorem objD_setObj (i k v d : Nat) : (m.setObj i k v).objD i k d = v := by simp [setObj, objD, obj?]
@[simp] theorem stop_modStop (d : BitVec 2) (n : BitVec 5) (f : Stop → Stop) : (m.modStop d n f).stop d n = f (m.stop d n) := by
  simp [modStop, stop]

/-! Another part read after one is changed -/

theorem job_modJob_ne (j k : JobId) (f : Job → Job) (h : k ≠ j) : (m.modJob j f).job k = m.job k := by
  have : k.toNat ≠ j.toNat := fun e => h (BitVec.eq_of_toNat_eq e)
  simp [modJob, job, SMap.getD_set_ne, this]

theorem core_setCore_ne (c e : BitVec 4) (x : Core) (h : e ≠ c) : (m.setCore c x).core e = m.core e := by
  have : e.toNat ≠ c.toNat := fun q => h (BitVec.eq_of_toNat_eq q)
  simp [setCore, core, SMap.getD_set_ne, this]

theorem pe_setPe_ne (p q : PeId) (x : Pe) (h : q ≠ p) : (m.setPe p x).pe q = m.pe q := by
  have : q.toNat ≠ p.toNat := fun e => h (BitVec.eq_of_toNat_eq e)
  simp [setPe, pe, SMap.getD_set_ne, this]

theorem tile_setTile_ne (t u : TileId) (x : Tile) (h : u ≠ t) : (m.setTile t x).tile u = m.tile u := by
  have : u.toNat ≠ t.toNat := fun e => h (BitVec.eq_of_toNat_eq e)
  simp [setTile, tile, SMap.getD_set_ne, this]

end Sys2Proof.Machine.Mach
end

