-- ==== Sys2Proof/Laws/Reads.lean ====
section
/-! SUPPORT. Reads of memory that find no error: they lose nothing and change nothing. -/

namespace Sys2Proof.Machine

/-- A read of an HBM half without error changes nothing. -/
theorem halfRead_clean {m : Mach} {h : Nat} (hc : m.halfCheck h = .clean) : m.halfRead h = (.clean, m) := by
  simp [Mach.halfRead, hc]

/-- A check of halves without error finds none lost and changes nothing. -/
theorem hbmCheck_clean {m : Mach} {a n : Nat} (h : ((Mach.halvesOf a n).map m.halfCheck).all (· == .clean) = true) :
    m.hbmCheck a n = (false, m) := by
  unfold Mach.hbmCheck
  split
  · rfl
  · generalize Mach.halvesOf a n = l at h
    induction l with
    | nil => rfl
    | cons x r ih =>
      simp only [List.map_cons, List.all_cons, Bool.and_eq_true, beq_iff_eq] at h
      simp only [List.foldl_cons, halfRead_clean h.1]
      exact ih h.2

/-- A check of HBM finds nothing lost and changes nothing where no half has an error. -/
theorem hbmCheck_cleanMemory {m : Mach} (h : m.cleanMemory) (a n : Nat) : m.hbmCheck a n = (false, m) := by
  unfold Mach.hbmCheck
  rw [if_pos ⟨h.2.1, h.2.2.1, h.2.2.2.1⟩]

/-- A fetch of ranges of a job's memory finds nothing lost and changes nothing where no half has an error. -/
theorem regionFetch_cleanMemory {m : Mach} (h : m.cleanMemory) (j : JobId) (l : List (Nat × Nat)) :
    m.regionFetch j l = (false, m) := by
  induction l with
  | nil => rfl
  | cons x r ih =>
    unfold Mach.regionFetch
    simpa [hbmCheck_cleanMemory h] using ih

/-- A read of a word of hub SRAM without error changes nothing. -/
theorem hubWordRead_clean {m : Mach} {a : Nat} (h : Mach.sramCheck (SMap.getD m.ms.hubFlaw a 0) = .clean) :
    m.hubWordRead a = (.clean, m) := by
  unfold Mach.hubWordRead
  simp only [h]

/-- A read of an SRAM word without error changes nothing. -/
theorem sramRead_clean {m : Mach} {die : BitVec 2} {l : Nat}
    (h : Mach.sramCheck (SMap.getD m.ms.sramFlaw (Mach.sramKey die l) 0) = .clean) : m.sramRead die l = m := by
  unfold Mach.sramRead
  simp only [h]

/-- An access to HBM waits for no copy where none is under way. -/
theorem copyWait_cleanMemory {m : Mach} (h : m.cleanMemory) (a n : Nat) : m.copyWait a n = false := by
  simp [Mach.copyWait, h.2.2.2.2.2.2.1]

/-- Reads of SRAM words without error change nothing. -/
theorem sramReads_clean {m : Mach} {die : BitVec 2} {l : List Nat}
    (h : l.all (fun x => Mach.sramCheck (SMap.getD m.ms.sramFlaw (Mach.sramKey die x) 0) == .clean) = true) :
    l.foldl (fun m x => m.sramRead die x) m = m := by
  induction l with
  | nil => rfl
  | cons x r ih =>
    simp only [List.all_cons, Bool.and_eq_true, beq_iff_eq] at h
    simp only [List.foldl_cons, sramRead_clean h.1]
    exact ih h.2

end Sys2Proof.Machine
end

