-- ==== Sys2Proof/Laws/Issue.lean ====
section
/-! SUPPORT. What issuing an instruction does: the one outcome of each kind of issue on an executor nothing stops. -/

namespace Sys2Proof.Machine

@[simp] theorem on_eq (s : State) (f : Mach → Mach) : s.on f = .next { s with m := f s.m } := rfl

/-- A context that issues holds a firing, which is the one to issue. -/
theorem turn_some {m : Mach} {p : PeId} {c : BitVec 4} {ws : BitVec 16} {y : Ctx} (h : m.turn p c ws = some y) :
    SMap.get? (m.pe p).ctxs c.toNat = some y := by
  unfold Mach.turn at h
  split at h
  · exact h
  · cases h

/-- SRAM words free of errors and of injections are free of errors. -/
theorem locClean_all {m : Mach} {die : BitVec 2} {l : List Nat} (h : l.all (m.locClean die) = true) :
    l.all (fun x => Mach.sramCheck (SMap.getD m.ms.sramFlaw (Mach.sramKey die x) 0) == .clean) = true := by
  simp only [List.all_eq_true, Mach.locClean, Bool.and_eq_true] at h ⊢
  exact fun x hx => (h x hx).1

/-- A line free of errors and of injections is as it is after a fill. -/
theorem codeFill_clean {m : Mach} {p : PeId} {y : Ctx}
    (h : (m.codeLocs p y).all (m.locClean (Mach.peDieOf p)) = true) : m.codeFill p y = m := if_pos h

/-- A tile that reaches the hub is not cut off. -/
theorem cutOff_path {m : Mach} {t : TileId} {j : JobId} (h : m.hubPath t = true) : m.cutOff t j = (false, m) := if_pos h

/-- The fetch of a firing whose word reads without error finds it and changes nothing. -/
theorem fetchCode_clean {m : Mach} {p : PeId} {c : BitVec 4} {ws : BitVec 16} {y : Ctx}
    (hy : SMap.get? (m.pe p).ctxs c.toNat = some y) (h : m.fetchClean (.pe p c ws) = true) :
    m.fetchCode p y = some (false, m) := by
  simp only [Mach.fetchClean, Mach.lineClean, Mach.fetchFinds, hy, Option.all_some, Bool.and_eq_true, Bool.or_eq_true] at h
  unfold Mach.fetchCode
  cases hi : m.inCode y with
  | false => rfl
  | true =>
    simp only [hi, Bool.not_true, Bool.false_eq_true, if_false, false_or] at h ⊢
    cases hw : m.copyWait (m.codeAt y) 4 with
    | true => simp [hw] at h
    | false =>
      simp only [hw, Bool.false_eq_true, if_false, Option.any_some] at h ⊢
      rw [cutOff_path h.1.1]
      simp only [codeFill_clean h.1.2]
      simp only [sramReads_clean (locClean_all h.1.2), hbmCheck_clean h.2]

/-- The fetch of a core whose word reads without error finds it and changes nothing. -/
theorem fetchLocal_clean {m : Mach} {c : BitVec 4} (h : m.fetchClean (.core c) = true) : m.fetchLocal c = (false, m) := by
  simp only [Mach.fetchClean, Mach.lineClean, Mach.fetchFinds, Bool.true_and] at h
  unfold Mach.fetchLocal
  split at h
  · rename_i hp
    rw [if_pos hp]
  · rename_i hp
    rw [if_neg hp]
    simp only [Option.any_some, List.all_cons, List.all_nil, Bool.and_true, beq_iff_eq] at h
    simp [hubWordRead_clean h]

/-- What issues on a context. -/
theorem issues_pe {m : Mach} {p : PeId} {c : BitVec 4} {ws : BitVec 16} (h : m.issues (.pe p c ws) = true) :
    ∃ y, m.turn p c ws = some y ∧ SMap.get? (m.pe p).ctxs c.toNat = some y ∧ m.fetchCode p y = some (false, m) ∧
      m.peBlock y .both = none := by
  simp only [Mach.issues, Mach.unblocked, Bool.and_eq_true] at h
  cases hy : m.turn p c ws with
  | none => simp [hy] at h
  | some y => exact ⟨y, rfl, turn_some hy, fetchCode_clean (turn_some hy) h.1, by simpa [hy] using h.2⟩

/-- An issue whose operands fail their parity check is none that issues. -/
theorem not_issues_parity (m : Mach) (p : PeId) (c : BitVec 4) (ws : BitVec 16) : ¬ m.issues (.parity p c ws) = true := by
  simp [Mach.issues, Mach.fetchClean, Mach.lineClean]

/-- What issues on a service core. -/
theorem issues_core {m : Mach} {c : BitVec 4} (h : m.issues (.core c) = true) :
    coreLive (m.core c) = true ∧ m.fetchLocal c = (false, m) ∧ m.scBlock c .both false = none := by
  simp only [Mach.issues, Mach.unblocked, Bool.and_eq_true, Option.isNone_iff_eq_none] at h
  exact ⟨h.2.1, fetchLocal_clean h.1, h.2.2⟩

/-- Where nothing of R119 stops an instruction, it comes to what it gives. -/
theorem peIssue_clear {m : Mach} {y : Ctx} {side : Side} (h : m.peBlock y side = none) (r : Except Trap Ctx) :
    m.peIssue y side r = r := by
  unfold Mach.peBlock at h
  unfold Mach.peIssue
  split at h
  · cases h
  · rename_i h1
    split at h
    · cases h
    · rename_i h2
      split at h
      · cases h
      · rename_i h3
        rw [if_neg h1, if_neg h2]
        cases r with
        | error tr => simp [Nat.not_le.mp h3]
        | ok z => simp [h3]

/-- An instruction that does not trap leaves its thread as it computes it. -/
theorem issue_ok {m : Mach} {x : Exec} {f : Thread → Except Trap Thread} {t : Thread}
    (h : m.issues x = true) (hf : f (m.thread x) = .ok t) : m.issue x .both f = m.issued x t := by
  cases x with
  | parity p c ws => exact absurd h (not_issues_parity m p c ws)
  | pe p c ws =>
    obtain ⟨y, hy, hg, hc, hb⟩ := issues_pe h
    simp only [Mach.thread, hg] at hf
    simp [Mach.issue, Mach.issuePe, Mach.issued, hy, hg, hc, peIssue_clear hb, hf, Except.map]
  | core c =>
    obtain ⟨hl, hc, hb⟩ := issues_core h
    simp only [Mach.thread] at hf
    simp [Mach.issue, Mach.issueSc, Mach.issued, hl, hc, hb, hf, Except.map]

/-- An instruction that traps is taken as that trap. -/
theorem issue_error {m : Mach} {x : Exec} {f : Thread → Except Trap Thread} {tr : Trap}
    (h : m.issues x = true) (hf : f (m.thread x) = .error tr) : m.issue x .both f = m.trapped x tr := by
  cases x with
  | parity p c ws => exact absurd h (not_issues_parity m p c ws)
  | pe p c ws =>
    obtain ⟨y, hy, hg, hc, hb⟩ := issues_pe h
    simp only [Mach.thread, hg] at hf
    simp [Mach.issue, Mach.issuePe, Mach.trapped, hy, hg, hc, peIssue_clear hb, hf, Except.map]
  | core c =>
    obtain ⟨hl, hc, hb⟩ := issues_core h
    simp only [Mach.thread] at hf
    simp [Mach.issue, Mach.issueSc, Mach.trapped, hl, hc, hb, hf, Except.map]

/-- An instruction that computes one register writes it and goes on. -/
theorem issueReg_eq {m : Mach} {x : Exec} (h : m.issues x = true) (rd : BitVec 5) (f : Thread → Word) :
    m.issueReg x rd f = m.issued x ((m.thread x).put rd (f (m.thread x))).next :=
  issue_ok h rfl

/-- A four-state instruction writes its pair and goes on. -/
theorem issueL4_eq {m : Mach} {x : Exec} (h : m.issues x = true) (pd : BitVec 4) (f : Thread → Word × Word) :
    m.issueL4 x pd f = m.issued x ((m.thread x).putPair pd (f (m.thread x))).next :=
  issue_ok h rfl

/-- A division by a divisor that is not 0. -/
theorem issueDiv_eq {m : Mach} {x : Exec} (h : m.issues x = true) {rd ra rb : BitVec 5} {f : Word → Word → Word}
    (hb : (m.thread x).get rb ≠ 0) :
    m.issueDiv x rd ra rb f
      = m.issued x ((m.thread x).put rd (f ((m.thread x).get ra) ((m.thread x).get rb))).next :=
  issue_ok h (if_neg hb)

/-- A division by 0 is the DIV_ZERO trap. -/
theorem issueDiv_zero {m : Mach} {x : Exec} (h : m.issues x = true) {rd ra rb : BitVec 5} {f : Word → Word → Word}
    (hb : (m.thread x).get rb = 0) : m.issueDiv x rd ra rb f = m.trapped x divZero :=
  issue_error h (if_pos hb)

/-- A floating-point instruction that signals no enabled exception writes its result and adds its flags. -/
theorem issueFp_eq {m : Mach} {x : Exec} (h : m.issues x = true) {rm : BitVec 3} {rd : BitVec 5}
    {f : Rm → Thread → Word × FFlags} {r : Rm} (hr : Rm.of rm (m.thread x).fps = some r)
    (ht : fpsTraps (m.thread x).fps (f r (m.thread x)).2 = false) :
    m.issueFp x rm rd f = m.issued x { ((m.thread x).put rd (f r (m.thread x)).1).next with
      fps := fpsFlag (m.thread x).fps (f r (m.thread x)).2 } := by
  cases x with
  | parity p c ws => exact absurd h (not_issues_parity m p c ws)
  | pe p c ws =>
    show m.issue (.pe p c ws) .both (fun t => (fpStep rm rd f t).mapError (·.1)) = _
    refine issue_ok h ?_
    simp [fpStep, hr, ht, Except.mapError]
  | core c =>
    obtain ⟨hl, hc, hb⟩ := issues_core h
    simp only [Mach.thread] at hr ht
    simp [Mach.issueFp, fpStep, Mach.issued, Mach.thread, hl, hc, hb, hr, ht]

/-- The next state of an instruction that computes one register. -/
theorem issueReg_sets {s : State} {x : Exec} (h : s.m.issues x = true) {rd : BitVec 5} {f : Thread → Word} {v : Word}
    (hv : f (s.m.thread x) = v) : s.on (fun m => m.issueReg x rd f) = .next (s.sets x rd v) := by
  subst hv
  exact congrArg (fun m => Host.Outcome.next ({ s with m := m } : State)) (issueReg_eq h rd f)

/-- The next state of a four-state instruction. -/
theorem issueL4_sets {s : State} {x : Exec} (h : s.m.issues x = true) {pd : BitVec 4} {f : Thread → Word × Word}
    {v : Word × Word} (hv : f (s.m.thread x) = v) :
    s.on (fun m => m.issueL4 x pd f) = .next (s.setsPair x pd v) := by
  subst hv
  exact congrArg (fun m => Host.Outcome.next ({ s with m := m } : State)) (issueL4_eq h pd f)

/-- The next state of a floating-point instruction that does not trap. -/
theorem issueFp_sets {s : State} {x : Exec} (h : s.m.issues x = true) {rm : BitVec 3} {rd : BitVec 5}
    {f : Rm → Thread → Word × FFlags} {r : Rm} {v : Word × FFlags} (hr : Rm.of rm (s.m.thread x).fps = some r)
    (hv : f r (s.m.thread x) = v) (ht : fpsTraps (s.m.thread x).fps v.2 = false) :
    s.on (fun m => m.issueFp x rm rd f) = .next (s.setsFp x rd v) := by
  subst hv
  exact congrArg (fun m => Host.Outcome.next ({ s with m := m } : State)) (issueFp_eq h hr ht)

/-- The next state of an instruction on both sides that traps. -/
theorem issue_traps {s : State} {x : Exec} (h : s.m.issues x = true) {f : Thread → Except Trap Thread} {tr : Trap}
    (hf : f (s.m.thread x) = .error tr) : s.on (fun m => m.issue x .both f) = .next (s.traps x tr) :=
  congrArg (fun m => Host.Outcome.next ({ s with m := m } : State)) (issue_error h hf)

/-- What an executor's issue leaves of memory, jobs and networks: everything (frame). -/
theorem issued_frame (m : Mach) (x : Exec) (th : Thread) :
    (m.issued x th).mem = m.mem ∧ (m.issued x th).jobs = m.jobs ∧ (m.issued x th).net = m.net ∧
    (m.issued x th).clusters = m.clusters ∧ (m.issued x th).tiles = m.tiles := by
  cases x with
  | parity p c ws => exact ⟨rfl, rfl, rfl, rfl, rfl⟩
  | pe p c ws =>
    cases h : SMap.get? (m.pe p).ctxs c.toNat <;> simp [Mach.issued, h, Mach.ctxDone]
  | core c => simp [Mach.issued, Mach.coreDone]

end Sys2Proof.Machine
end

