-- ==== Sys2Proof/Laws/Memory.lean ====
section
/-! SUPPORT. Laws of memory: every memory operation keeps the canonical form, and a read after a write gives what was written or what stood there. -/

namespace Sys2Proof.Machine

theorem Mem.wfFrom_mono : ∀ (m : Mem) {lo lo' : Nat}, lo' ≤ lo → Mem.wfFrom lo m = true → Mem.wfFrom lo' m = true
  | [], _, _, _, _ => rfl
  | (a, v) :: r, lo, lo', h, hw => by
    simp only [Mem.wfFrom, Bool.and_eq_true, decide_eq_true_eq] at hw ⊢
    exact ⟨⟨by omega, hw.1.2⟩, hw.2⟩

theorem memSet_wfFrom : ∀ (m : Mem) {lo a : Nat} (v : Byte), lo ≤ a → Mem.wfFrom lo m = true → Mem.wfFrom lo (memSet m a v) = true
  | [], lo, a, v, h, _ => by
    unfold memSet; split
    · rfl
    · next hv => simp only [Mem.wfFrom, Bool.and_eq_true, decide_eq_true_eq, bne_iff_ne, ne_eq]; exact ⟨⟨h, hv⟩, trivial⟩
  | (a', v') :: r, lo, a, v, h, hw => by
    have hw0 := hw
    simp only [Mem.wfFrom, Bool.and_eq_true, decide_eq_true_eq, bne_iff_ne, ne_eq] at hw
    unfold memSet; split
    · split
      · exact hw0
      · next hlt hv =>
        simp only [Mem.wfFrom, Bool.and_eq_true, decide_eq_true_eq, bne_iff_ne, ne_eq]
        exact ⟨⟨h, hv⟩, ⟨by omega, hw.1.2⟩, hw.2⟩
    · split
      · next _ he =>
        split
        · exact Mem.wfFrom_mono r (by omega) hw.2
        · next hv =>
          simp only [Mem.wfFrom, Bool.and_eq_true, decide_eq_true_eq, bne_iff_ne, ne_eq]
          exact ⟨⟨h, hv⟩, by rw [he]; exact hw.2⟩
      · next h1 h2 =>
        simp only [Mem.wfFrom, Bool.and_eq_true, decide_eq_true_eq, bne_iff_ne, ne_eq]
        exact ⟨⟨hw.1.1, hw.1.2⟩, memSet_wfFrom r v (by omega) hw.2⟩

/-- Writing a byte keeps the canonical form. -/
theorem memSet_wf (m : Mem) (a : Nat) (v : Byte) (h : Memory.wf m = true) : Memory.wf (memSet m a v) = true :=
  memSet_wfFrom m v (Nat.zero_le a) h

/-- Writing bytes keeps the canonical form. -/
theorem memWrite_wf : ∀ (d : List Byte) (m : Mem) (a : Nat), Memory.wf m = true → Memory.wf (memWrite m a d) = true
  | [], _, _, h => h
  | b :: r, m, a, h => memWrite_wf r (memSet m a b) (a + 1) (memSet_wf m a b h)

/-- Writing a word keeps the canonical form. -/
theorem memSetWord_wf (m : Mem) (a : Nat) (v : Word) (h : Memory.wf m = true) : Memory.wf (memSetWord m a v) = true :=
  memWrite_wf _ m a h

theorem Mem.filter_wfFrom (p : Host.Cell → Bool) :
    ∀ (m : Mem) {lo : Nat}, Mem.wfFrom lo m = true → Mem.wfFrom lo (m.filter p) = true
  | [], _, _ => rfl
  | (a, v) :: r, lo, h => by
    simp only [Mem.wfFrom, Bool.and_eq_true, decide_eq_true_eq] at h
    have ih := Mem.filter_wfFrom p r h.2
    by_cases hp : p (a, v)
    · simp only [List.filter_cons, hp, if_true, Mem.wfFrom, Bool.and_eq_true, decide_eq_true_eq]
      exact ⟨h.1, ih⟩
    · simp only [List.filter_cons, hp, Bool.false_eq_true, if_false]
      exact Mem.wfFrom_mono _ (by omega) ih

/-- Zero-filling a range keeps the canonical form. -/
theorem memZero_wf (m : Mem) (a n : Nat) (h : Memory.wf m = true) : Memory.wf (memZero m a n) = true :=
  Mem.filter_wfFrom _ m h

theorem memGet_below : ∀ (m : Mem) {lo a : Nat}, a < lo → Mem.wfFrom lo m = true → memGet m a = 0
  | [], _, _, _, _ => rfl
  | (a', v) :: r, lo, a, h, hw => by
    simp only [Mem.wfFrom, Bool.and_eq_true, decide_eq_true_eq] at hw
    have h1 : ¬ a' = a := by omega
    have h2 : a < a' := by omega
    simp [memGet, h1, h2]

theorem memGet_memSet_from : ∀ (m : Mem) {lo a : Nat} (v : Byte), lo ≤ a → Mem.wfFrom lo m = true → memGet (memSet m a v) a = v
  | [], _, a, v, _, _ => by
    unfold memSet; split
    · next h => simp [memGet, h]
    · simp [memGet]
  | (a', v') :: r, lo, a, v, h, hw => by
    simp only [Mem.wfFrom, Bool.and_eq_true, decide_eq_true_eq] at hw
    unfold memSet; split
    · next hlt =>
      split
      · next hv => have : ¬ a' = a := by omega
                   simp [memGet, this, hlt, hv]
      · simp [memGet]
    · split
      · next _ he =>
        split
        · next hv => rw [hv]; exact memGet_below r (by omega) hw.2
        · simp [memGet]
      · next h1 h2 =>
        have h3 : ¬ a' = a := fun h => h2 h.symm
        have h4 : ¬ a < a' := h1
        simp only [memGet, h3, h4, if_false]
        exact memGet_memSet_from r v (by omega) hw.2

/-- A byte read after it is written is the byte written. -/
theorem memGet_memSet_self (m : Mem) (a : Nat) (v : Byte) (h : Memory.wf m = true) : memGet (memSet m a v) a = v :=
  memGet_memSet_from m v (Nat.zero_le a) h

theorem memGet_memSet_from_ne : ∀ (m : Mem) {lo a b : Nat} (v : Byte), lo ≤ a → b ≠ a → Mem.wfFrom lo m = true →
    memGet (memSet m a v) b = memGet m b
  | [], _, a, b, v, _, hb, _ => by
    unfold memSet; split
    · rfl
    · have : ¬ a = b := fun h => hb h.symm
      simp [memGet, this]
  | (a', v') :: r, lo, a, b, v, h, hb, hw => by
    simp only [Mem.wfFrom, Bool.and_eq_true, decide_eq_true_eq] at hw
    have hab : ¬ a = b := fun h => hb h.symm
    unfold memSet; split
    · next hlt =>
      split
      · rfl
      · simp only [memGet, hab, if_false]
        split
        · have h1 : ¬ a' = b := by omega
          have h2 : b < a' := by omega
          simp [h1, h2]
        · rfl
    · split
      · next _ he =>
        split
        · simp only [memGet]
          have h1 : ¬ a' = b := by omega
          simp only [h1, if_false]
          split
          · next hlt => exact memGet_below r (by omega) hw.2
          · rfl
        · have h1 : ¬ a' = b := by omega
          simp only [memGet, h1, if_false, he]
      · next h1 h2 =>
        simp only [memGet]
        rw [memGet_memSet_from_ne r v (by omega : a' + 1 ≤ a) hb hw.2]

/-- A byte read after another is written is as it was. -/
theorem memGet_memSet_ne (m : Mem) (a b : Nat) (v : Byte) (hb : b ≠ a) (h : Memory.wf m = true) :
    memGet (memSet m a v) b = memGet m b :=
  memGet_memSet_from_ne m v (Nat.zero_le a) hb h

/-- A byte outside a written range reads as before. -/
theorem memGet_memWrite_outside : ∀ (d : List Byte) (m : Mem) (a b : Nat), Memory.wf m = true → (b < a ∨ a + d.length ≤ b) →
    memGet (memWrite m a d) b = memGet m b
  | [], _, _, _, _, _ => rfl
  | x :: r, m, a, b, h, hb => by
    simp only [List.length_cons] at hb
    unfold memWrite
    rw [memGet_memWrite_outside r (memSet m a x) (a + 1) b (memSet_wf m a x h) (by omega)]
    exact memGet_memSet_ne m a b x (by omega) h

/-- A byte of a written range reads as written. -/
theorem memGet_memWrite_inside : ∀ (d : List Byte) (m : Mem) (a i : Nat), Memory.wf m = true → (hi : i < d.length) →
    memGet (memWrite m a d) (a + i) = d[i]
  | [], _, _, _, _, hi => absurd hi (by simp)
  | x :: r, m, a, 0, h, _ => by
    unfold memWrite
    show memGet (memWrite (memSet m a x) (a + 1) r) a = x
    rw [memGet_memWrite_outside r (memSet m a x) (a + 1) a (memSet_wf m a x h) (Or.inl (by omega))]
    exact memGet_memSet_self m a x h
  | x :: r, m, a, i + 1, h, hi => by
    unfold memWrite
    have e : a + (i + 1) = a + 1 + i := by omega
    rw [e, memGet_memWrite_inside r (memSet m a x) (a + 1) i (memSet_wf m a x h) (by simpa using hi)]
    simp

end Sys2Proof.Machine
end

