-- ==== Sys2Proof/Laws/Packet.lean ====
section
/-! SUPPORT. Laws of packet headers: the fields of a packed header unit are the fields it was packed from. -/

namespace Sys2Proof.Machine

/-- Bits above the low part of a join are bits of its high part. -/
theorem extract_append_above {n k s w : Nat} (a : BitVec n) (b : BitVec k) (h : k ≤ s) :
    (a ++ b).extractLsb' s w = a.extractLsb' (s - k) w := by
  ext i hi
  have h1 : ¬ s + i < k := by omega
  have h2 : s + i - k = s - k + i := by omega
  simp [BitVec.getElem_extractLsb', BitVec.getLsbD_append, h1, h2]

/-- The low part of a join. -/
theorem extract_append_low {n k : Nat} (a : BitVec n) (b : BitVec k) : (a ++ b).extractLsb' 0 k = b := by
  ext i hi
  simp [BitVec.getElem_extractLsb', BitVec.getLsbD_append, hi]

/-- A bit above the low part of a join. -/
theorem bit_append_above {n k i : Nat} (a : BitVec n) (b : BitVec k) (h : k ≤ i) : (a ++ b).getLsbD i = a.getLsbD (i - k) := by
  have h1 : ¬ i < k := by omega
  simp [BitVec.getLsbD_append, h1]

/-- The lowest bit of a join with one bit. -/
theorem bit_append_low {n : Nat} (a : BitVec n) (b : Bool) : (a ++ BitVec.ofBool b).getLsbD 0 = b := by
  rw [BitVec.getLsbD_append]; cases b <;> rfl

/-- The fields of a packed header are those it was packed from. -/
theorem Hdr.ofBits_pack (h : Hdr) : Hdr.ofBits h.pack = h := by
  cases h with
  | mk age vc len cmd jv job src tid xst smask mc dir pair detour dstStop dstDie dstHub arg =>
    simp only [Hdr.ofBits, Hdr.pack, Hdr.mk.injEq]
    and_intros <;>
      first
        | (repeat rw [extract_append_above _ _ (by decide)]); exact extract_append_low _ _
        | (repeat rw [bit_append_above _ _ (by decide)]); exact bit_append_low _ _

/-- The header of a packet whose header was changed. -/
@[simp] theorem Packet.setH_h (p : Packet) (f : Hdr → Hdr) : (p.setH f).h = f p.h := Hdr.ofBits_pack _
@[simp] theorem Packet.setH_data (p : Packet) (f : Hdr → Hdr) : (p.setH f).data = p.data := rfl
@[simp] theorem Packet.setH_units (p : Packet) (f : Hdr → Hdr) : (p.setH f).units = p.units := rfl

end Sys2Proof.Machine
end

