-- ==== Sys2Proof/Laws/Report.lean ====
section
/-! SUPPORT. Laws of what the module reports: an event frame, an interrupt edge, a host event, a record, an entry of the error log and a change of a job's state, each with the parts of the module it can change. -/

namespace Sys2Proof.Machine
namespace Mach

variable (m : Mach)

/-- An event frame changes the queue of frames, the mark of a loss, and the count of losses. -/
theorem evFrame_eq (b : List Byte) : ∃ f l o, m.evFrame b = { m with evFrames := f, evLost := l, objs := o } := by
  unfold evFrame
  split
  · exact ⟨_, _, _, rfl⟩
  · exact ⟨_, _, _, rfl⟩

/-- A wake of cores that wait changes cores. -/
theorem wakeCores_eq : ∃ c, m.wakeCores = { m with cores := c } := ⟨_, rfl⟩

/-- A change of the interrupt controller's registers changes it and the cores it wakes. -/
theorem modIc_eq (f : IcView → IcView) : ∃ i c, m.modIc f = { m with ic := i, cores := c } := ⟨_, _, rfl⟩

/-- An edge of an interrupt source changes the interrupt controller, the cores it wakes, the count of merged edges and the record of this cycle's sets. -/
theorem raiseSource_eq (n : Nat) : ∃ i c o z, m.raiseSource n = { m with ic := i, cores := c, objs := o, setNow := z } := by
  unfold raiseSource
  split
  · exact ⟨_, _, _, _, rfl⟩
  · split
    · split
      · dsimp only
        split <;> exact ⟨_, _, _, _, rfl⟩
      · exact ⟨_, _, _, _, rfl⟩
    · dsimp only
      split <;> split <;> exact ⟨_, _, _, _, rfl⟩

/-- A message changes a function's vectors, or what waits for the link. -/
theorem msi_eq (fn vec : Nat) (j : Option JobId) : ∃ f u, m.msi fn vec j = { m with funcs := f, up := u } := by
  unfold msi
  dsimp only
  split
  · exact ⟨_, _, rfl⟩
  · split <;> exact ⟨_, _, rfl⟩

/-- Messages for a list of vectors change functions and what waits for the link. -/
theorem msi_fold_eq (l : List Nat) (p : Nat → Bool) : ∀ m : Mach,
    ∃ f u, l.foldl (fun m j => if p j then m.msi 0 (2 + j) else m) m = { m with funcs := f, up := u } := by
  induction l with
  | nil => exact fun m => ⟨_, _, rfl⟩
  | cons j r ih =>
    intro m
    simp only [List.foldl_cons]
    split
    · obtain ⟨f, u, h⟩ := m.msi_eq 0 (2 + j) none
      obtain ⟨f', u', h'⟩ := ih (m.msi 0 (2 + j))
      exact ⟨f', u', by rw [h', h]⟩
    · exact ih m

/-- A set of bits by hardware is recorded for the present cycle. -/
theorem hwSet_eq (f : EvField) (b : Word) : ∃ z, m.hwSet f b = { m with setNow := z } := ⟨_, rfl⟩

/-- A write of a field no bit of which is set in this cycle clears the bits written 1. -/
theorem clears_nil (h : m.setNow = []) (f : EvField) (v : Word) : m.clears f v = v := by
  unfold clears setsOf
  rw [h]
  show v &&& ~~~(0#64) = v
  rw [BitVec.not_zero, BitVec.and_allOnes]

/-- A host event changes HIF_EVT, functions, what waits for the link and the record of this cycle's sets. -/
theorem setEvt_eq (fn : Nat) (v : Word) : ∃ h f u z, m.setEvt fn v = { m with hifEvt := h, funcs := f, up := u, setNow := z } := by
  unfold setEvt
  dsimp only
  generalize SMap.set m.hifEvt fn (SMap.getD m.hifEvt fn 0 ||| v) = h0
  generalize v &&& ~~~(SMap.getD m.hifEvt fn 0) = new
  obtain ⟨z, hz⟩ := ({ m with hifEvt := h0 } : Mach).hwSet_eq (.evt fn) v
  generalize ({ m with hifEvt := h0 } : Mach).hwSet (.evt fn) v = m1 at hz ⊢
  split
  · split
    · obtain ⟨f, u, h⟩ := m1.msi_eq 0 0 none
      obtain ⟨f', u', h'⟩ := msi_fold_eq (List.range 8) (fun j => new.getLsbD (8 + j)) (m1.msi 0 0)
      exact ⟨h0, f', u', z, by rw [h', h, hz]⟩
    · obtain ⟨f', u', h'⟩ := msi_fold_eq (List.range 8) (fun j => new.getLsbD (8 + j)) m1
      exact ⟨h0, f', u', z, by rw [h', hz]⟩
  · split
    · obtain ⟨f, u, h⟩ := m1.msi_eq fn 0 none
      exact ⟨h0, f, u, z, by rw [h, hz]⟩
    · exact ⟨h0, m1.funcs, m1.up, z, by rw [hz]⟩

/-- A record handed to an event ring changes the rings, and what an edge of source 34 changes. -/
theorem ringRecord_eq (r : Nat) (w : List Word) :
    ∃ e i c o z, m.ringRecord r w = { m with evr := e, ic := i, cores := c, objs := o, setNow := z } := by
  unfold ringRecord
  dsimp only
  split
  · obtain ⟨i, c, o, z, h⟩ := ({ m with evr := SMap.modify m.evr r {} (fun x => { x with held := x.held ++ [w] }) } : Mach).raiseSource_eq 34
    exact ⟨_, i, c, o, z, h⟩
  · exact ⟨_, _, _, _, _, rfl⟩

/-- An entry written to the error log, or merged there, changes the log and what its reports change. -/
theorem errWrite_eq (e : ErrEntry) : ∃ l i c o h f u q s z, m.errWrite e = { m with
    err := l, ic := i, cores := c, objs := o, hifEvt := h, funcs := f, up := u, evFrames := q, evLost := s, setNow := z } := by
  unfold errWrite
  dsimp only
  split
  · exact ⟨_, _, _, _, _, _, _, _, _, _, rfl⟩
  · rename_i x
    generalize hm : ({ m with err := _ } : Mach) = m1
    generalize hb : ([3, 0, 0, 0] ++ natBytes 4 (m.err.total + 1) : List Byte) = b
    obtain ⟨i, c, o, z, h1⟩ := m1.raiseSource_eq 33
    obtain ⟨h, f, u, z2, h2⟩ := (m1.raiseSource 33).setEvt_eq 0 2
    obtain ⟨q, s, o2, h3⟩ := ((m1.raiseSource 33).setEvt 0 2).evFrame_eq b
    refine ⟨m1.err, i, c, o2, h, f, u, q, s, z2, ?_⟩
    rw [h3, h2, h1, ← hm]

/-- A detection below SEV 4 changes the queue of the error log alone. -/
theorem logErr_low {sev : Nat} (hs : sev ≠ 4) (block reason : Nat) (j : Option JobId) (loc : Nat) (d0 d1 d2 d3 : Word) (perm : Bool) :
    ∃ l, m.logErr sev block reason j loc d0 d1 d2 d3 perm = { m with err := l } := by
  unfold logErr
  dsimp only
  rw [if_neg hs]
  split <;> exact ⟨_, rfl⟩

/-- A detection changes the error log and what its reports change. -/
theorem logErr_eq (sev block reason : Nat) (j : Option JobId) (loc : Nat) (d0 d1 d2 d3 : Word) (perm : Bool) :
    ∃ l i c o h f u q s z, m.logErr sev block reason j loc d0 d1 d2 d3 perm = { m with
      err := l, ic := i, cores := c, objs := o, hifEvt := h, funcs := f, up := u, evFrames := q, evLost := s, setNow := z } := by
  unfold logErr
  dsimp only
  split
  · exact m.errWrite_eq _
  · split <;> exact ⟨_, _, _, _, _, _, _, _, _, _, rfl⟩

/-- The record of lost jobs changes the error log alone. -/
theorem recordLost_eq : ∃ l, m.recordLost = { m with err := l } := by
  unfold recordLost
  generalize List.filter _ allJobs = l
  induction l generalizing m with
  | nil => exact ⟨_, rfl⟩
  | cons j r ih =>
    simp only [List.foldl_cons]
    obtain ⟨l1, h1⟩ := m.logErr_low (sev := 0) (by decide) 0x11 0 (some j) 0 (BitVec.ofNat 64 (m.objD (0x4B00 + j.toNat) 0x01 255))
      (BitVec.ofNat 64 (m.objD (0x4B00 + j.toNat) 0x02 0)) (m.designWords j).1 (m.designWords j).2 false
    obtain ⟨l2, h2⟩ := ih (m.logErr 0 0x11 0 (some j) 0 (BitVec.ofNat 64 (m.objD (0x4B00 + j.toNat) 0x01 255))
      (BitVec.ofNat 64 (m.objD (0x4B00 + j.toNat) 0x02 0)) (m.designWords j).1 (m.designWords j).2)
    exact ⟨l2, by rw [h2, h1]⟩

/-- A change of the module's state changes MODULE_STATE and its reports. -/
theorem setMState_eq (v : BitVec 4) : ∃ t h f u q l o z, m.setMState v = { m with
    mstate := t, hifEvt := h, funcs := f, up := u, evFrames := q, evLost := l, objs := o, setNow := z } := by
  unfold setMState
  split
  · exact ⟨_, _, _, _, _, _, _, _, rfl⟩
  · generalize hm : ({ m with mstate := v } : Mach) = m1
    obtain ⟨h, f, u, z, h1⟩ := m1.setEvt_eq 0 1
    obtain ⟨q, l, o, h2⟩ := (m1.setEvt 0 1).evFrame_eq [1, v.zeroExtend 8]
    exact ⟨_, h, f, u, q, l, o, z, by rw [h2, h1, ← hm]⟩

/-- A change of a job's state changes that, MODULE_STATE where it follows the jobs, and the reports of both. -/
theorem setJobState_eq (j : JobId) (s : JobState) : ∃ t h f u q l o z,
    m.setJobState j s = { (if (m.job j).state = s then m else m.modJob j (fun x => { x with state := s, stateAt := m.quanta })) with
      mstate := t, hifEvt := h, funcs := f, up := u, evFrames := q, evLost := l, objs := o, setNow := z } := by
  unfold setJobState
  dsimp only
  split
  · exact ⟨_, _, _, _, _, _, _, _, rfl⟩
  · generalize m.modJob j (fun x => { x with state := s, stateAt := m.quanta }) = m1
    obtain ⟨h, f, u, z, h1⟩ := m1.setEvt_eq (m1.jobFn j) (at64 (2 ^ j.toNat) 8)
    generalize hb : ([2, j.zeroExtend 8, BitVec.ofNat 8 (jobCode s)] : List Byte) = b
    obtain ⟨q, l, o, h2⟩ := (m1.setEvt (m1.jobFn j) (at64 (2 ^ j.toNat) 8)).evFrame_eq b
    split
    · generalize hk : (m1.setEvt (m1.jobFn j) (at64 (2 ^ j.toNat) 8)).evFrame b = m2 at h2 ⊢
      obtain ⟨t, h', f', u', q', l', o', z', h3⟩ := m2.setMState_eq m2.followState
      exact ⟨t, h', f', u', q', l', o', z', by rw [h3, h2, h1]⟩
    · exact ⟨_, h, f, u, q, l, o, z, by rw [h2, h1]⟩

end Mach
end Sys2Proof.Machine
end

