-- ==== Sys2Proof/Tests/Slice0.lean ====
section
/-! SUPPORT. Tests: ill-formed commands, words of the spec, single steps, and a witness of the hypotheses of every statement that has some. -/

set_option Elab.async false

namespace Sys2Proof.Tests

open Sys2Proof Sys2Proof.Machine

/-! Ill-formed commands: one for each check (R16, R211, R316, Table 15-1) -/

theorem test_wf_stop : Instr.wf (.token 0 18) = false := by decide
theorem test_wf_ring : Instr.wf (.ringHop 0 17 12 .clean) = false := by decide
theorem test_wf_foxglove : Instr.wf (.foxgloveTraversal 0 12 false 0 .clean) = false := by decide
theorem test_wf_route : Instr.wf (.lksRt 0 17 19 0) = false := by decide
theorem test_wf_function : Instr.wf (.bar2Read 9 0 4) = false := by decide
theorem test_wf_link : Instr.wf (.pcieLinkUp 7 16) = false ∧ Instr.wf (.pcieLinkUp 5 3) = false := by decide
theorem test_wf_endpoint : Instr.wf (.rdRsp (.stop 0 18)) = false := by decide
theorem test_wf_path : Instr.wf (.load (.mbx 9) 0 1) = false := by decide
theorem test_wf_register_path : Instr.wf (.registerWrite (.bar0 9) 0 0) = false := by decide

/-! Words of BIS, one or more of each format, written out from Tables 5-2 to 5-9 -/

theorem test_word_l4and (x : Exec) : decodeBis x 0x2CA24000 = some (.l4and x 2 8 9) := by rfl
theorem test_word_emit (x : Exec) : decodeBis x 0x60980100 = some (.emit x 2 12 false 1) := by rfl
theorem test_word_done (x : Exec) : decodeBis x 0x6C000000 = some (.done x) := by rfl
theorem test_word_zero (x : Exec) : decodeBis x 0 = none := by rfl
theorem test_word_sub (x : Exec) : decodeBis x 0b000001_00011_00100_00101_00000000001 = some (.sub x 3 4 5) := by rfl
theorem test_word_popc (x : Exec) : decodeBis x 0b000001_00011_00100_00000_00000100000 = some (.popc x 3 4) := by rfl
theorem test_word_popc_reserved (x : Exec) : decodeBis x 0b000001_00011_00100_00001_00000100000 = none := by rfl
theorem test_word_addi (x : Exec) : decodeBis x 0b000010_00001_00010_1111111111111111 = some (.addi x 1 2 0xFFFF) := by rfl
theorem test_word_shi_rol (x : Exec) : decodeBis x 0b001000_00001_00010_0000000_011_111111 = some (.shiRol x 1 2 63) := by rfl
theorem test_word_lui (x : Exec) : decodeBis x 0b001001_11111_00000_1000000000000001 = some (.lui x 31 0x8001) := by rfl
theorem test_word_lut3 (x : Exec) : decodeBis x 0b001010_00001_00010_00011_11001010_000 = some (.lut3 x 1 2 3 0xCA) := by rfl
theorem test_word_fma (x : Exec) : decodeBis x 0b001101_00001_00010_00011_00100_10_011_1 = some (.fnmadd x true 3 1 2 3 4) := by rfl
theorem test_word_fsqrt (x : Exec) : decodeBis x 0b001100_00001_00010_00000_000100_111_0_1 = some (.fsqrt x true 7 1 2) := by rfl
theorem test_word_fpa_reserved (x : Exec) : decodeBis x 0b001100_00001_00010_00000_000100_111_1_1 = none := by rfl
theorem test_word_lds (x : Exec) : decodeBis x 0b010001_00111_01000_11_10_111111111100 = some (.lds x 7 8 3 2 0xFFC) := by rfl
theorem test_word_bltu (x : Exec) : decodeBis x 0b010100_00001_00010_100_1111111111111 = some (.bltu x 1 2 0x1FFF) := by rfl
theorem test_word_jal (x : Exec) : decodeBis x 0b010101_00001_100000000000000000001 = some (.jal x 1 0x100001) := by rfl
theorem test_word_emitd (x : Exec) : decodeBis x 0b011001_0101_00000_1_10000001_00000000 = some (.emitd x 5 true 0x81) := by rfl
theorem test_word_state (x : Exec) : decodeBis x 0b011010_0000000000000000000000_1010 = some (.state x 10) := by rfl
theorem test_word_trap (x : Exec) : decodeBis x 0b011100_00000_00000_1000000000000111 = some (.trap x 0x8007) := by rfl
theorem test_word_reti (x : Exec) : decodeBis x 0b100000_00000_00000_00000_00000000001 = some (.reti x) := by rfl
theorem test_word_csrins (x : Exec) : decodeBis x 0b100001_00001_00010_0011_000000000110 = some (.csrins x 1 2 6) := by rfl
theorem test_word_lkrel (x : Exec) : decodeBis x 0b100010_00001_00010_0001_000000000111 = some (.lkrel x 1 2 7) := by rfl

/-! Single steps -/

/-- A block whose service core 0 runs in privileged mode with some registers set, the word of an ADD at its pc and some bytes of memory above it. -/
def onCore (regs : List (BitVec 5 × Word)) (mem : Mem := []) (status : Word := 1) : State :=
  let th : Thread := regs.foldl (fun t e => t.put e.1 e.2) {}
  { m := { mem := (0x3C00000003, 4) :: mem, cores := [(0, { run := .running, th := th, status := status })] } }

/-- The value of a register of core 0 after a command; 0 where the block stops. -/
def after (c : Instr) (s : State) (r : BitVec 5) : Word :=
  match exec c s with
  | .next t => t.reg (.core 0) r
  | _ => 0

/-- Something of the module after a command, where it goes on. -/
def seen {α : Type} (c : Instr) (s : State) (f : Mach → α) : Option α :=
  match exec c s with
  | .next t => some (f t.m)
  | _ => none

theorem test_add_wraps : after (.add (.core 0) 3 1 2) (onCore [(1, 0xFFFFFFFFFFFFFFFF), (2, 2)]) 3 = 1 := by decide +kernel
theorem test_div_mneg : after (.div (.core 0) 3 1 2) (onCore [(1, 0x8000000000000000), (2, 0xFFFFFFFFFFFFFFFF)]) 3
    = 0x8000000000000000 := by decide +kernel
theorem test_rem_sign : after (.rem (.core 0) 3 1 2) (onCore [(1, 0xFFFFFFFFFFFFFFF9), (2, 2)]) 3 = 0xFFFFFFFFFFFFFFFF := by decide +kernel
theorem test_sra_64 : after (.sra (.core 0) 3 1 2) (onCore [(1, 0x8000000000000000), (2, 64)]) 3 = 0xFFFFFFFFFFFFFFFF := by decide +kernel
theorem test_write_g0 : after (.addi (.core 0) 0 1 5) (onCore [(1, 7)]) 0 = 0 := by decide +kernel
theorem test_fclass_minus_zero : after (.fclass (.core 0) true 0 3 1) (onCore [(1, 0x8000000000000000)]) 3 = 8 := by decide +kernel
theorem test_fadd_half : after (.fadd (.core 0) true 0 3 1 2) (onCore [(1, 0x3FF0000000000000), (2, 0x3CA0000000000000)]) 3
    = 0x3FF0000000000000 := by decide +kernel
theorem test_lds_sign : after (.lds (.core 0) 3 1 0 0 0) (onCore [(1, 16)] [(0x3C00000010, 0x80)]) 3
    = 0xFFFFFFFFFFFFFF80 := by decide +kernel
theorem test_trap_entry : seen (.trap (.core 0) 0x1234) (onCore [] [] 5) (fun m => ((m.core 0).ecause, (m.core 0).eval, (m.core 0).status))
    = some (0x0C, 0x1234, 0xB) := by decide +kernel
theorem test_double_trap : seen (.trap (.core 0) 0x1234) (onCore []) (fun m => (m.core 0).run) = some .stopped := by decide +kernel
theorem test_wait : seen (.wait (.core 0)) (onCore []) (fun m => (m.core 0).run) = some .waiting := by decide +kernel
theorem test_wait_in_task_mode : seen (.wait (.core 0)) (onCore [] [] 0) (fun m => (m.core 0).ecause) = some 2 := by decide +kernel
theorem test_lock_taken : seen (.lockReq 5 ⟨0x30, 0x30⟩ [] false) State.reset (fun m => (m.lock 5).owner) = some 0x30 := by decide +kernel
theorem test_idcode : seen .idcode { m := { pw := { rails := 0x3FF } } } (fun m => m.sent) = some [.value 0x1819254B] := by decide +kernel
theorem test_boot_start : seen .bootStart { m := { pw := { vinMv := 12000 } } } (fun m => (m.mstate, m.pw.stage)) = some (2, 1) := by decide +kernel
theorem test_idle_step : (match step State.reset with
    | .next t => t.m.quanta
    | _ => 0) = 26 := by decide +kernel
theorem test_front_command : (match step { State.reset with pending := [.ovrWindowEnd, .linkLoss] } with
    | .next t => t.pending
    | _ => []) = [.linkLoss] := by decide +kernel

/-! Witnesses: for each statement with hypotheses, a state and operands that meet them -/

/-- A firing at time 100 of local node 0 in context 1 of PE 0x105, with some registers set. -/
def firing (regs : List (BitVec 5 × Word)) (safe : Bool := true) : Ctx :=
  { th := regs.foldl (fun t e => t.put e.1 e.2) {}, job := 0, node := 0, tag := ⟨100, 0⟩, safe := safe, kick := false, gen := 0,
    arrived := [], count := 0, emits := [], stores := [], stw := [], nodeImg := List.replicate 24 7, jents := [] }

/-- A running job 0 with one node of PE 0x105, of mode 3 with 64 bytes of design memory. -/
def runJob : Job :=
  { state := .run, codeLen := 4096, constLen := 64, ncount := [(0x105, 1)], nodeRec := ⟨0, 2 ^ 20⟩, nodeState := ⟨2 ^ 21, 2 ^ 20⟩,
    fanout := ⟨2 ^ 22, 2 ^ 20⟩, code := ⟨2 ^ 23, 2 ^ 20⟩, dmem := ⟨2 ^ 24, 2 ^ 20⟩ }

/-- That job with a firing in its context, and the word of an ADD at the start of its code. -/
def onPe (y : Ctx) : State :=
  { m := { mem := [(3, 0xC0), (24, 1), (2 ^ 23 + 3, 4)], pes := [(0x105, { ctxs := [(1, y)] })], jobs := [(0, runJob)] } }

theorem witness_idle_step : State.reset.pending = [] ∧ State.reset.m.awake = true ∧
    { State.reset.m with pw := { vinUp := false } }.awake = false := by decide
theorem witness_commands_complete : Instr.wf .bootStart = true ∧ Instr.wf (.token 0 18) = false := by decide
theorem witness_commands_leave_the_queue : exec .ovrWindowEnd State.reset = .next State.reset := by rfl
theorem witness_issues : (onCore []).m.issues (.core 0) = true ∧ (onPe (firing [])).m.issues (.pe 0x105 1 0) = true := by
  decide +kernel
theorem witness_divide : let s := onCore [(1, 9), (2, 0xFFFFFFFFFFFFFFFF)]
    s.m.issues (.core 0) = true ∧ s.reg (.core 0) 2 ≠ 0 ∧ s.reg (.core 0) 3 = 0 := by decide +kernel
theorem witness_register_zero : (0 : BitVec 5) ≠ 1 ∧ (1 : BitVec 5) ≠ 0 := by decide
theorem witness_frame : Exec.core 0 ≠ .core 1 ∧ (∀ c ws, Exec.core 0 ≠ .pe 0x105 c ws) ∧
    ¬ (0x4400 ≤ 0x43FF ∧ 0x43FF ≤ 0x4407 ∧ 0x0B = 0x0B) := by
  refine ⟨by decide, fun c ws h => ?_, by decide⟩
  exact Exec.noConfusion h
theorem witness_floating_point : let s := onCore [(1, 0x3FF0000000000000), (2, 0x7FF0000000000000)]
    s.m.issues (.core 0) = true ∧ Rm.of 0 (s.m.thread (.core 0)).fps = some .nearEven ∧
      (s.m.thread (.core 0)).fps.extractLsb' 8 5 = (0 : BitVec 5) ∧
      fpsTraps (s.m.thread (.core 0)).fps (fAdd (fmtOf true) .nearEven (fRead (fmtOf true) (s.reg (.core 0) 1))
        (fRead (fmtOf true) (s.reg (.core 0) 2))).2 = false := by decide +kernel
/-- 1 and 0 as finite operands, infinities, and NaNs of both kinds, in binary64. -/
theorem witness_floating_point_values : Claim.Stands (fRead (fmtOf true) 0x3FF0000000000000) 1 ∧ Claim.Stands (fRead (fmtOf true) 0) 0 ∧
    Claim.Stands (fRead (fmtOf true) 0xBFF0000000000000) (-1) ∧ Claim.Stands (fRead (fmtOf (!false)) 0x3FF0000000000000) 1 ∧
    (fRead (fmtOf true) 0x7FF0000000000000 = .inf false ∧ fRead (fmtOf true) 0xFFF0000000000000 = .inf true ∧
      fRead (fmtOf true) 0x7FF8000000000000 = .nan false ∧ fRead (fmtOf true) 0x7FF0000000000001 = .nan true) := by
  refine ⟨⟨false, 2 ^ 52, -52, by decide +kernel, by norm_num⟩, ⟨false, 0, -1074, by decide +kernel, by norm_num⟩,
    ⟨true, 2 ^ 52, -52, by decide +kernel, by norm_num⟩, ⟨false, 2 ^ 52, -52, by decide +kernel, by norm_num⟩, by decide +kernel⟩
/-- Equal keys with different signs, and a NaN beside a number. -/
theorem witness_floating_point_compare : let s := onCore [(1, 0), (2, 0x8000000000000000), (4, 0x7FF8000000000000)]
    s.m.issues (.core 0) = true ∧ Rm.of 0 (s.m.thread (.core 0)).fps = some .nearEven ∧
      fKey (fmtOf true) (fRead (fmtOf true) (s.reg (.core 0) 1)) = fKey (fmtOf true) (fRead (fmtOf true) (s.reg (.core 0) 2)) ∧
      (fRead (fmtOf true) (s.reg (.core 0) 4)).isNan = true ∧ (fRead (fmtOf true) (s.reg (.core 0) 1)).isNan = false ∧
      fpsTraps (s.m.thread (.core 0)).fps 0b10000 = false := by decide +kernel
theorem witness_floating_point_traps : let y := firing [(1, 0x3FF0000000000000)]
    let s := onPe { y with th := { y.th with fps := 0x1F00 } }
    s.m.issues (.pe 0x105 1 0) = true ∧ Rm.of 0 (s.m.thread (.pe 0x105 1 0)).fps = some .nearEven ∧
      fpsTraps (s.m.thread (.pe 0x105 1 0)).fps (fDiv (fmtOf true) .nearEven (fRead (fmtOf true) (s.reg (.pe 0x105 1 0) 1))
        (fRead (fmtOf true) (s.reg (.pe 0x105 1 0) 2))).2 = true := by decide +kernel
theorem witness_local_memory : let s := onCore [(1, 0x3FFF8)]
    s.m.issues (.core 0) = true ∧ s.m.ms.hubFlaw = [] ∧ Memory.wf s.m.mem = true ∧
      ((s.reg (.core 0) 1) + (0 : BitVec 12).signExtend 64).toNat % 2 ^ 3 = 0 ∧
      ((s.reg (.core 0) 1) + (0 : BitVec 12).signExtend 64).toNat + 2 ^ 3 ≤ 0x40000 := by decide +kernel
theorem witness_clean_memory : (onPe (firing [])).m.cleanMemory := by decide +kernel
/-- The extents of the spaces of a firing at their last places: node space, constants, design memory. -/
theorem witness_firing_loads : let y := firing [(1, 184), (2, 60), (4, 63)]
    let s := onPe y
    s.turns 0x105 1 0 y ∧ s.m.peBlock y .both = none ∧
      (y.th.get 1).toNat % 8 = 0 ∧ (y.th.get 1).toNat + 8 ≤ 192 ∧
      (y.th.get 2).toNat % 2 ^ 2 = 0 ∧ (y.th.get 2).toNat + 2 ^ 2 ≤ (s.m.job y.job).constLen ∧
      s.m.nMode ⟨0, 0x105, 0⟩ = 3 ∧ (y.th.get 4).toNat + 2 ^ 0 ≤ s.m.nDmLen ⟨0, 0x105, 0⟩ ∧ y.stores = [] ∧
      s.m.storesBelow ⟨0, 0x105, 0⟩ y.tag = [] := by decide +kernel
theorem witness_firing_stores : let y := firing [(1, 56)]
    let z := { y with stores := [⟨0, 0, 1⟩, ⟨1, 0, 1⟩] }
    (onPe y).turns 0x105 1 0 y ∧ (onPe y).m.peBlock y .both = none ∧ (onPe z).turns 0x105 1 0 z ∧
      (onPe z).m.peBlock z .both = none ∧ (y.th.get 1).toNat % 2 ^ 3 = 0 ∧ (onPe y).m.nMode ⟨0, 0x105, 0⟩ = 3 ∧
      (y.th.get 1).toNat + 2 ^ 3 ≤ (onPe y).m.nDmLen ⟨0, 0x105, 0⟩ ∧ (onPe y).m.nJn ⟨0, 0x105, 0⟩ ≠ 1 ∧
      y.stores.length < 2 ∧ 2 ≤ z.stores.length := by decide +kernel
/-- A firing that loads what it stored. -/
theorem witness_firing_reloads : let y := { firing [(1, 56)] with stores := [⟨0, 0, 1⟩] ++ [⟨56, 3, 9⟩] }
    (onPe y).turns 0x105 1 0 y ∧ (onPe y).m.peBlock y .both = none ∧ (onPe y).m.cleanMemory ∧ (y.th.get 1).toNat = 56 ∧
      y.stores = [⟨0, 0, 1⟩] ++ [⟨56, (3 : BitVec 2), 9⟩] := by decide +kernel
/-- Addresses at which the checks of an access begin to fail: 1 and 192 in node space, 64 in the constants. -/
theorem witness_firing_access_traps : let y := firing [(1, 1), (2, 192), (4, 64)]
    (onPe y).turns 0x105 1 0 y ∧ (onPe y).m.peBlock y .both = none ∧ (y.th.get 1).toNat % 2 ^ 1 ≠ 0 ∧
      192 < (y.th.get 2).toNat + 8 ∧ ((onPe y).m.job y.job).constLen < (y.th.get 4).toNat + 2 ^ 2 ∧
      { (onPe y).m with mem := [] }.nMode ⟨0, 0x105, 0⟩ ≠ 3 := by decide +kernel
theorem witness_branch : let s := onCore [(1, 1)]
    s.m.issues (.core 0) = true ∧ (s.m.thread (.core 0)).pc.toNat % 4 = 0 ∧
      (0 : Int) ≤ Int.ofNat (s.m.thread (.core 0)).pc.toNat + 4 * (0 : BitVec 13).toInt ∧
      Int.ofNat (s.m.thread (.core 0)).pc.toNat + 4 * (0xFFF : BitVec 13).toInt < 2 ^ 32 := by decide +kernel
/-- Targets of a branch and of JAL below 0, and at 2^32 from the last word. -/
theorem witness_branch_out_of_range : (onCore []).m.issues (.core 0) = true ∧ ((onCore []).m.thread (.core 0)).pc.toNat % 4 = 0 ∧
    Int.ofNat ((onCore []).m.thread (.core 0)).pc.toNat + 4 * (0x1FFF : BitVec 13).toInt < 0 ∧
    Int.ofNat ((onCore []).m.thread (.core 0)).pc.toNat + 4 * (0x1FFFFF : BitVec 21).toInt < 0 := by decide +kernel
/-- Targets of JALR: the last word, the first past it, one below 0, and one that is no multiple of 4. -/
theorem witness_jump_targets : let s := onCore [(1, 0xFFFFFFFC), (2, 0x100000000), (4, 2)]
    s.m.issues (.core 0) = true ∧ Int.ofNat (s.reg (.core 0) 1).toNat + (0 : BitVec 16).toInt < 2 ^ 32 ∧
      (Int.ofNat (s.reg (.core 0) 1).toNat + (0 : BitVec 16).toInt) % 4 = 0 ∧
      2 ^ 32 ≤ Int.ofNat (s.reg (.core 0) 2).toNat + (0 : BitVec 16).toInt ∧
      Int.ofNat (s.reg (.core 0) 3).toNat + (0xFFFF : BitVec 16).toInt < 0 ∧
      (Int.ofNat (s.reg (.core 0) 4).toNat + (0 : BitVec 16).toInt) % 4 ≠ 0 := by decide +kernel
/-- Emissions: the last offset within GVT + 2^46 and the first beyond, the last delta and the one before, 15 records and 16. -/
theorem witness_emissions : let y := firing [(1, 0x3FFFFFFFFF9C), (2, 0x3FFFFFFFFF9D)]
    let l : List ERec := List.replicate 15 ⟨1, ⟨101, 0⟩, false, 0, 0, false, some 1⟩
    (onPe y).turns 0x105 1 0 y ∧ (onPe y).m.peBlock y .peOnly = none ∧ y.emits.length < 16 ∧ (1 : Byte) ≠ 0 ∧
      0 < (y.th.get 1).toNat ∧ y.tag.time.toNat + (y.th.get 1).toNat = ((onPe y).m.job 0).gvt.time.toNat + 2 ^ 46 ∧
      ((onPe y).m.job 0).gvt.time.toNat + 2 ^ 46 < y.tag.time.toNat + (y.th.get 2).toNat ∧
      (onPe { y with emits := l ++ l.take 1, tag := ⟨100, 4095⟩ }).turns 0x105 1 0 { y with emits := l ++ l.take 1, tag := ⟨100, 4095⟩ } ∧
      l.length < 16 ∧ 16 ≤ (l ++ l.take 1).length ∧ (4094 : BitVec 12) ≠ 4095 := by decide +kernel
/-- An offset of 0, a tag past GVT + 2^46, the last delta, and the first time that saturates. -/
theorem witness_emissions_at_the_ends : let y := { firing [(1, 0), (2, 5)] with tag := ⟨0xFFFFFFFFFFFFFFFB, 0⟩ }
    let s := onPe y
    let z : State := { s with m := { s.m with jobs := [(0, { runJob with gvt := ⟨0xFFFFFFFFFFFFFF00, 0⟩ })] } }
    s.turns 0x105 1 0 y ∧ s.m.peBlock y .peOnly = none ∧ (s.m.job 0).gvt.time.toNat + 2 ^ 46 < y.tag.time.toNat ∧
      z.turns 0x105 1 0 y ∧ z.m.peBlock y .peOnly = none ∧ (y.th.get 1).toNat = 0 ∧ y.tag.delta ≠ 4095 ∧
      2 ^ 64 ≤ y.tag.time.toNat + (y.th.get 2).toNat ∧ y.tag.time.toNat + (y.th.get 2).toNat ≤ (z.m.job 0).gvt.time.toNat + 2 ^ 46 := by
  decide +kernel
theorem witness_done : let y := firing []
    (onPe y).turns 0x105 1 0 y ∧ (onPe y).m.peBlock y .peOnly = none ∧ y.safe = true ∧
      ((onPe y).m.pe 0x105).emitRecs + y.emits.length ≤ 64 := by decide +kernel
/-- Speculative firings whose one record fits a summary slot, and whose record has no offset of 23 bits. -/
theorem witness_speculative_done : let e : ERec := ⟨1, ⟨101, 0⟩, false, 0, 0, false, some 1⟩
    let y := { firing [] false with emits := [e] }
    let z := { firing [] false with emits := [{ e with eoff := none }] }
    let s := { (onPe y) with m := { (onPe y).m with mem := [(2, 2), (3, 0xC0), (24, 1), (2 ^ 23 + 3, 4)] } }
    s.turns 0x105 1 0 y ∧ s.m.peBlock y .peOnly = none ∧ y.safe = false ∧ (∀ e ∈ y.emits, e.eoff.isSome = true) ∧
      (y.emits.map (fun e => e.target)).dedup.length ≤ (s.m.nJn ⟨y.job, 0x105, y.node⟩).toNat ∧
      (onPe z).turns 0x105 1 0 z ∧ (onPe z).m.peBlock z .peOnly = none ∧ ¬ (∀ e ∈ z.emits, e.eoff.isSome = true) ∧
      ((onPe z).m.pe 0x105).emitRecs + z.emits.length ≤ 64 ∧ ((onPe z).m.job z.job).state ≠ .empty := by decide +kernel
theorem witness_privileged : (onCore []).privileged 0 ∧ ((onCore []).m.core 0).outst = 0 ∧ ((onCore []).m.core 0).frames = [] := by
  decide +kernel
/-- A core in the handler of source 3 over another one, whose status has PIE: source 64 stands pending for it at priority 2, then nothing. -/
theorem witness_handler_end : let f : Frame := ⟨0, 0, 0, false, false, 3, 4⟩
    let g : Frame := ⟨0, 0, 0, false, false, 5, 9⟩
    let v : IcView := { act := 1#512 <<< 3, pend := 1#512 <<< 64, cfg := [(64, 0x8002)] }
    let x : Core := { run := .running, status := 9, ecause := 0x8000000000000003, frames := [f, g] }
    let s : State := { m := { mem := [(0x3C00000003, 4)], cores := [(0, x)], ic := { now := v, hist := List.replicate 7 v } } }
    let z : State := { m := { mem := [(0x3C00000003, 4)], cores := [(0, x)] } }
    s.privileged 0 ∧ (s.m.core 0).frames = f :: [g] ∧ (s.m.core 0).ecause.getLsbD 63 = true ∧ x.status.getLsbD 3 = true ∧
      bestOffer { s.m.icBefore 5 with act := (s.m.icBefore 5).act &&& ~~~(1#512 <<< f.src.toNat) } 0 9 = some 64 ∧
      z.privileged 0 ∧ bestOffer { z.m.icBefore 5 with act := (z.m.icBefore 5).act &&& ~~~(1#512 <<< f.src.toNat) } 0 9 = none := by
  decide +kernel
theorem witness_locks : (1 : BitVec 5) ≠ 0 ∧ (State.reset.m.lock 5).owner = 0 ∧
    ({ State.reset.m with locks := [(5, { owner := 0x30 })] }.lock 5).owner = 0x30 ∧
    ({ State.reset.m with locks := [(5, { owner := 1 })] }.lock 5).owner.toNat = (0 : BitVec 4).toNat + 1 := by decide
theorem witness_csr_access : (onCore []).privileged 0 ∧ (onCore [(1, 8)]).m.csrRead 0 0x006 = some 0 ∧
    (csrWrite ((onCore [(1, 8)]).m.core 0) 0x006 8).isSome = true ∧ (onCore []).m.csrRead 0 0x007 = some 0 := by
  decide +kernel
theorem witness_csr_illegal : (onCore []).privileged 0 ∧ (onCore []).m.csrRead 0 0x008 = none := by decide +kernel
theorem witness_csr_read_only (v : Word) : csrWrite ((onCore []).m.core 0) 0x001 v = none := by rfl
theorem witness_task_mode : (onCore [] [] 0).runs 0 ∧ Mach.pmode ((onCore [] [] 0).m.core 0) = false ∧
    ((onCore [] [] 0).m.core 0).th.pc.toNat < 0x40000 ∧ csrTask 0x006 = false := by decide +kernel
theorem witness_wrong_side : (onCore []).runs 0 ∧ ((onCore []).m.core 0).th.pc.toNat < 0x40000 ∧ (onPe (firing [])).turns 0x105 1 0 (firing []) ∧
    (firing []).th.pc.toNat < ((onPe (firing [])).m.job (firing []).job).codeLen := by decide +kernel
theorem witness_core_trap : ¬ ((5 : Word).getLsbD 0 = true ∧ (5 : Word).getLsbD 2 = false) ∧
    (1 : Word).getLsbD 0 = true ∧ (1 : Word).getLsbD 2 = false := by decide
/-- The first pc past the code, a word of zeros inside it and in a core's memory, and the first count past the budget. -/
theorem witness_fetch_and_budget : let y := { firing [] with th := { pc := 4096 } }
    let z := { firing [] with count := 512 }
    let w := { firing [] with th := { pc := 4092 } }
    let s : State := { m := { cores := [(0, { run := .running })] } }
    s.runs 0 ∧ (s.m.core 0).th.pc.toNat < 0x40000 ∧ reservedWord (s.m.localWord 0) = true ∧
      (onPe w).turns 0x105 1 0 w ∧ w.th.pc.toNat < ((onPe w).m.job 0).codeLen ∧ reservedWord ((onPe w).m.codeWord w) = true ∧
    (onPe y).turns 0x105 1 0 y ∧ ((onPe y).m.job 0).codeLen ≤ y.th.pc.toNat ∧ (onPe z).turns 0x105 1 0 z ∧
      z.th.pc.toNat < ((onPe z).m.job 0).codeLen ∧ reservedWord ((onPe z).m.codeWord z) = false ∧ (onPe z).m.budget 0 ≤ z.count := by decide +kernel
theorem witness_firing_trap : let y := firing []
    let z := firing [] false
    (onPe y).turns 0x105 1 0 y ∧ ((onPe y).m.job 0).state = .run ∧ y.safe = true ∧ (onPe z).turns 0x105 1 0 z ∧
      z.safe = false ∧ ((onPe z).m.tile (peTile 0x105)).pend.length < 64 := by decide +kernel

/-- A USER trap that pauses, and a speculative firing of a tile with no free record. -/
theorem witness_firing_trap_ends : let y := firing []
    let z := firing [] false
    let s : State := { m := { (onPe z).m with tiles := [((peTile 0x105).toNat, { pend := List.replicate 64 ⟨0, 0, ⟨0, 0⟩, 0, 0, 0, 0⟩ })] } }
    (onPe y).turns 0x105 1 0 y ∧ ((onPe y).m.job y.job).pause = none ∧ (0x8000 : Word).getLsbD 15 = true ∧
      s.turns 0x105 1 0 z ∧ (s.m.job z.job).state = .run ∧ 64 ≤ (s.m.tile (peTile 0x105)).pend.length := by decide +kernel
/-! Witnesses: packets, and the PE -/

/-- A token packet of job 0 for PE 0x105, from tile stop 4. -/
def tokenPkt (cmd : BitVec 6) (vc : BitVec 2) (dst : BitVec 5) : Packet :=
  ⟨({ vc := vc, len := 2, cmd := cmd, src := 0x0400, dstStop := dst, dstDie := 0 } : Hdr).pack,
    (Token.mk' 0 0 true 0 0 (mkNode 0 0x105 0) 100 0 3 0).units⟩
/-- A module whose networks hold one packet in a queue. -/
def withPkt (q : Nat) (p : Packet) (dest : BitVec 5 := 0) : State :=
  { m := { net := { queues := [(q, [⟨p, 0, dest⟩])] }, jobs := [(0, runJob)] } }

theorem witness_token_packets : let p := tokenPkt 0x01 0 2
    let s := withPkt (qEj 0 2 0) p
    s.m.queue (qEj 0 2 0) = [⟨p, 0, 0⟩] ∧ p.h.cmd = 0x01 ∧ p.h.mc = false ∧ (s.m.pe (pktToken p).pe).fifo.length < 8 ∧
      (s.m.pe (pktToken p).pe).ringWins ≠ 3 ∧
      (tokenPkt 0x03 1 2).h.cmd = 0x03 ∧ (tokenPkt 0x05 1 2).h.cmd = 0x05 := by decide +kernel
theorem witness_multicast_packets : let h : Hdr := { vc := 0, len := 3, cmd := 2, mc := true, src := 0x0400, dstStop := 2, dstDie := 0 }
    let e : Word := at64 1 63 ||| at64 5 43 ||| at64 0x20A0000 0
    let p : Packet := ⟨h.pack, (Token.mk' 0 0 true 0 0 0 100 0 3 0).units ++ [e.zeroExtend 128]⟩
    let s := withPkt (qEj 0 2 0) p
    s.m.queue (qEj 0 2 0) = [⟨p, 0, 0⟩] ∧ p.h.cmd = 0x02 ∧ p.h.mc = true ∧
      (mcEntries p).filter (fun w => peDie (mcToken p w).pe == 0 && Mach.peStop (mcToken p w).pe == 2) = [e] ∧
      (s.m.pe (mcToken p e).pe).fifo.length < 8 ∧ (s.m.pe (mcToken p e).pe).ringWins ≠ 3 := by decide +kernel
theorem witness_memory_requests : let rd : Packet := ⟨({ vc := 2, len := 0, cmd := 0x10, xst := 8, src := 0x8000, dstStop := 16, dstDie := 0, dstHub := true, arg := 0x40 } : Hdr).pack, []⟩
    let wr : Packet := ⟨({ vc := 2, len := 1, cmd := 0x11, src := 0x8000, dstStop := 16, dstDie := 0, dstHub := true, arg := 0x40 } : Hdr).pack, [1]⟩
    (withPkt (qHub 0 false 2) rd).m.queue (qHub 0 false 2) = [⟨rd, 0, 0⟩] ∧ (withPkt (qHub 0 false 2) rd).m.cleanMemory ∧
      rd.h.arg.toNat % 16 = 0 ∧ rd.h.cmd = 0x10 ∧ rd.h.xst.toNat = 8 ∧
      (withPkt (qHub 0 false 2) rd).m.mayReach rd.h rd.h.arg.toNat 128 = true ∧ wr.h.cmd = 0x11 ∧ Mach.srcHub wr.h.src = true ∧
      (withPkt (qHub 0 false 2) wr).m.mayReach wr.h wr.h.arg.toNat (16 * wr.data.length) = true := by decide +kernel
/-- Requests of a tile's probe collector: a write into a stream ring, and a read past the end of HBM. -/
theorem witness_tile_requests : let wr : Packet := ⟨({ vc := 2, len := 1, cmd := 0x11, src := 0x04A0, dstStop := 16, dstDie := 0, dstHub := true, arg := 0x40 } : Hdr).pack, [1]⟩
    let rd : Packet := ⟨({ vc := 2, len := 0, cmd := 0x10, xst := 1, src := 0x04A0, dstStop := 16, dstDie := 0, dstHub := true, arg := 0x7FFFFFFF0 } : Hdr).pack, []⟩
    let deep : Packet := ⟨({ vc := 2, len := 1, cmd := 0x11, tid := 5, src := 0x0490, dstStop := 16, dstDie := 0, dstHub := true, arg := BitVec.ofNat 38 (Mach.deepAddr 4 0) } : Hdr).pack, [1]⟩
    wr.h.cmd = 0x11 ∧ (rd.h.src.truncate 8 ≠ (0x81 : Byte)) ∧ (withPkt (qHub 0 false 2) rd).m.mayReach rd.h rd.h.arg.toNat 16 = false ∧
      (deep.h.src.truncate 8 ≠ (0x81 : Byte)) ∧ (withPkt (qHub 0 false 2) deep).m.reqOf (Mach.srcTile deep.h.src) deep.h.tid = none ∧
      (withPkt (qHub 0 false 2) deep).m.mayReach deep.h deep.h.arg.toNat (16 * deep.data.length) = true := by decide +kernel
theorem witness_stop_registers : let h : Hdr := { vc := 2, len := 0, cmd := 0x12, src := 0x8000, dstStop := 2, dstDie := 0, arg := 0x10 }
    let bad := { h with arg := 0xFF8 }
    let wr := { h with cmd := 0x13, len := 1 }
    let s := withPkt (qEj 0 2 2) ⟨h.pack, []⟩
    let cfg := { h with arg := 0 }
    s.m.queue (qEj 0 2 2) = [⟨⟨h.pack, []⟩, 0, 0⟩] ∧ (Packet.mk h.pack []).h = h ∧ s.m.canAnswer 0 2 = true ∧ bits h.arg 11 0 ≠ 0x900 ∧
      bits cfg.arg 11 0 = 0 ∧ (s.m.stopRead 0 2 (bits h.arg 11 0)).isSome = true ∧
      s.m.stopRead 0 2 (bits bad.arg 11 0) = none ∧
      (((withPkt (qEj 0 2 2) ⟨wr.pack, [1]⟩).m.deq (qEj 0 2 2)).stopWrite 0 2 (bits wr.arg 11 0) 1).isSome = true := by decide +kernel
/-- A response to a tile's own request 7, one that no request awaits, and a SLOT_REL. -/
theorem witness_responses : let h : Hdr := { vc := 3, len := 0, cmd := 0x21, tid := 7, src := 0x8100, dstStop := 2, dstDie := 0 }
    let rel : Hdr := { vc := 1, len := 0, cmd := 0x06, src := 0x0500, dstStop := 2, dstDie := 0, arg := 9 }
    let s : State := { m := { net := { queues := [(qEj 0 2 1, [⟨⟨rel.pack, []⟩, 0, 0⟩]), (qEj 0 2 3, [⟨⟨h.pack, []⟩, 0, 0⟩])],
                                       stops := [(2, { flight := [⟨7, 0⟩] })] },
                                jobs := [(0, runJob)], tiles := [(2, { reqs := [⟨0x81, true, 0x40, 1, 0, .store 0 0 false, 0, some 7⟩] })] } }
    s.m.queue (qEj 0 2 3) = [⟨⟨h.pack, []⟩, 0, 0⟩] ∧ s.m.reqOf 2 7 = some ⟨0x81, true, 0x40, 1, 0, .store 0 0 false, 0, some 7⟩ ∧ s.m.live 0 = true ∧
      { s.m with tiles := [] }.reqOf 2 7 = none ∧ s.m.pmsgs = [] ∧ (Packet.mk h.pack []).h = h ∧
      s.m.queue (qEj 0 2 1) = [⟨⟨rel.pack, []⟩, 0, 0⟩] ∧ (Packet.mk rel.pack []).h = rel ∧ rel.arg.getLsbD 28 = false := by decide +kernel
theorem witness_core_requests : let h : Hdr := { vc := 3, len := 1, cmd := 0x22, tid := 3, src := 0x0281, dstStop := 16, dstDie := 0, dstHub := true }
    let s : State := { m := { net := { queues := [(qHub 0 false 3, [⟨⟨h.pack, [5]⟩, 0, 0⟩])], hubReqs := [(3, ⟨0, true, 0, 0⟩), (4, ⟨0, false, 0, 0⟩)] },
                              cores := [(0, { run := .loading 1 3 false, status := 5 })], cycle := 2 ^ 19, quanta := 15 * 2 ^ 20, jobs := [(0, runJob)],
                              tiles := [(2, { reqs := [⟨0x81, true, 0x40, 1, 0, .store 0 0 false, 0, some 7⟩] })] } }
    s.m.queue (qHub 0 false 3) = [⟨⟨h.pack, [5]⟩, 0, 0⟩] ∧ SMap.get? s.m.net.hubReqs (Packet.mk h.pack [5]).h.tid.toNat = some ⟨0, true, 0, 0⟩ ∧
      (s.m.core 0).run = .loading 1 3 false ∧ SMap.get? s.m.net.hubReqs 4 = some ⟨0, false, 0, 0⟩ ∧ 2 ^ 19 ≤ s.m.cycle - 0 ∧
      s.m.answered Mach.hubRspQs 4 = false ∧ (Mach.pmode (s.m.core 0) = false ∨ Mach.ieBit (s.m.core 0) = true) ∧
      { s.m with net := { s.m.net with queues := [] } }.answered Mach.hubRspQs 3 = false ∧
      s.m.answered [qEj 0 2 3] 7 = false ∧ s.m.reqOf 2 7 = some ⟨0x81, true, 0x40, 1, 0, .store 0 0 false, 0, some 7⟩ ∧ 2 ^ 20 ≤ s.m.coreCycle - 0 ∧
      s.m.live 0 = true ∧ (Packet.mk ({ h with cmd := 0x23, xst := 1 } : Hdr).pack []).h.xst ≠ 0 := by decide +kernel
theorem witness_injection : let p := tokenPkt 0x01 0 2
    let s := withPkt (qInj 0 4 0) p
    (s.m.stop 0 4).cand = [] ∧ (s.m.stop 0 4).rels = [] ∧ s.m.pmsgs = [] ∧ (s.m.tile 4).reqs = [] ∧ s.m.injWaiting 0 4 = [(0, 0, ⟨p, 0, 0⟩)] ∧
      s.m.pickInjection 0 4 = (some (0, 0, ⟨p, 0, 0⟩), []) ∧
      (match s.m.routeAt 0 4 (s.m.ringTarget 0 4 (s.m.aged ⟨p, 0, 0⟩).h) (s.m.aged ⟨p, 0, 0⟩) with
        | .ring _ _ => true
        | _ => false) = true := by decide +kernel
/-- A packet selected at stop 4 that its ring carries past the next stop. -/
theorem witness_ring_hop : let q := tokenPkt 0x01 0 7
    let net : Net := { queues := [(qInj 0 4 0, [⟨q, 0, 0⟩])], stops := [(4, { cand := [(0, 0)] })] }
    let s : State := { m := { net := net, jobs := [(0, runJob)] } }
    let r : BitVec 4 := 10
    let nx := nextStop 4 r.toNat
    let p := Mach.onRing (s.m.aged ⟨q, 0, 0⟩) (r.toNat / 2) (decide (r.toNat % 2 = 1))
    let dest := s.m.ringTarget 0 4 q.h
    (∀ v, s.m.queue (qThr 0 4 r.toNat v) = [] ∧ s.m.queue (qRe 0 4 v) = []) ∧ (s.m.stop 0 4).cand = [(0, 0)] ∧
      (s.m.queue (qInj 0 4 0))[0]? = some ⟨q, 0, 0⟩ ∧ s.m.routeAt 0 4 dest q = .ring (r.toNat / 2) (decide (r.toNat % 2 = 1)) ∧
      badForm p = false ∧ (isTok p.h.cmd && !s.m.live p.h.job) = false ∧ dest ≠ nx ∧ p.h.mc = false ∧
      s.m.queue (qThr 0 nx r.toNat p.h.vc) = [] ∧ s.m.credits 0 4 r.toNat q true = true := by decide +kernel
theorem witness_foxglove : let q := tokenPkt 0x01 0 5
    let s := withPkt (qFgl 0 1 false 0) q 5
    let p := (s.m.aged ⟨q, 0, 5⟩).setH (fun h => { h with detour := true })
    (fglEnds 1).2 = 5 ∧ s.m.queue (qFgl 0 1 false 0) = [⟨q, 0, 5⟩] ∧ q.h.mc = false ∧ badForm p = false ∧
      (isTok p.h.cmd && !s.m.live p.h.job) = false ∧ Mach.leavesAt 0 p.h = false ∧ s.m.absorbing 0 5 = false ∧
      s.m.room (qEj 0 5 p.h.vc) p.units = true ∧ s.m.ringTarget 0 5 p.h = 5 := by decide +kernel
/-- A response off a Foxglove link whose request is in flight at the stop it reaches, and a multicast packet with no other stop in its mask. -/
theorem witness_foxglove_response : let h : Hdr := { vc := 3, len := 0, cmd := 0x21, tid := 7, src := 0x0100, dstStop := 5, dstDie := 0 }
    let s : State := { m := { net := { queues := [(qFgl 0 1 false 3, [⟨⟨h.pack, []⟩, 0, 5⟩])], stops := [(5, { flight := [⟨7, 0⟩] })] } } }
    let p := (s.m.aged ⟨⟨h.pack, []⟩, 0, 5⟩).setH (fun h => { h with detour := true })
    let mc : Hdr := { vc := 0, len := 3, cmd := 2, mc := true, src := 0x0100, smask := 1#18 <<< 5, dstStop := 0, dstDie := 0 }
    p.h.vc = 3 ∧ badForm p = false ∧ isTok p.h.cmd = false ∧ Mach.leavesAt 0 p.h = false ∧ s.m.absorbing 0 5 = false ∧ s.m.ringTarget 0 5 p.h = 5 ∧
      s.m.room (qEj 0 5 p.h.vc) p.units = true ∧ (s.m.stop 0 5).flight = [⟨7, 0⟩] ∧ p.h.tid = 7 ∧
      (Packet.mk mc.pack []).h.mc = true ∧ mc.smask &&& ~~~(1#18 <<< ((5 : BitVec 5)).toNat) = 0 := by decide +kernel
theorem witness_bridge : let h : Hdr := { vc := 2, len := 0, cmd := 0x10, xst := 1, src := 0x0481, dstStop := 16, dstDie := 0, dstHub := true }
    let q : Packet := ⟨h.pack, []⟩
    let s := withPkt (qEj 0 16 2) q
    s.m.queue (qEj 0 (brStop false) 2) = [⟨q, 0, 0⟩] ∧ q.h.dstHub = true ∧ badForm (s.m.aged ⟨q, 0, 0⟩) = false ∧
      isTok (s.m.aged ⟨q, 0, 0⟩).h.cmd = false ∧ isTok q.h.cmd = false := by decide +kernel
theorem witness_route : let tk := Token.mk' 0 0 true 0 0 (mkNode 0 0x106 0) 100 0 3 0
    let s : State := { m := { jobs := [(0, runJob)], pes := [(0x105, { routeQ := [⟨tk, 0⟩] })] } }
    (s.m.pe 0x105).routeQ = [⟨tk, 0⟩] ∧ s.m.live tk.job = true ∧ tk.modNo = s.m.number ∧ peTile tk.pe = peTile 0x105 ∧ tk.pe ≠ 0x105 ∧
      (s.m.pe tk.pe).fifo.length < 8 ∧ (s.m.pe tk.pe).ringWins ≠ 3 := by decide +kernel
theorem witness_fences : (State.reset.m.stop 0 17).req = false ∧ (State.reset.m.stop 0 17).fence = 0 ∧
    (let s : State := { m := { net := { stops := [(17, { req := true, fence := 1 })] }, quanta := 15 * 65536 } }
     (s.m.stop 0 17).req = true ∧ (s.m.stop 0 17).fence = 1 ∧ (∀ vc, s.m.queue (qInj 0 17 vc) = [] ∧ s.m.queue (qEj 0 17 vc) = []) ∧
      (s.m.stop 0 17).flight = [] ∧ (s.m.stop 0 17).rels = [] ∧ (s.m.stop 0 17).late = false ∧ s.m.objD 0x2600 0x01 65536 ≤ s.m.coreCycle - (s.m.stop 0 17).drainFrom ∧
      s.m.ic.kept = none) := by decide +kernel

/-- A group of one waiting head entry of node 0 of PE 0x105 at time 100, and its descriptor. -/
def group (gs : GState := .waiting) (kind : BitVec 2 := 0) : Entry :=
  { gen := 0, kind := kind, head := true, job := 0, port := 0, fs := true, arrived := 1, rmask := 1, mode := 0, gstate := gs,
    contest := false, locPe := 5, node := 0, key := (100#48) ++ 0#12, a := 3, b := 0 }
def gref : GRef := { job := 0, node := 0, key := (100#48) ++ 0#12 }
def desc (level : BitVec 3) (o : OutcomeKind) : Desc :=
  { job := 0, level := level, far := false, outcome := o, place := .iris, jneed := 1, index := 0, node := 0, seq := 0, key := (100#48) ++ 0#12 }
/-- A module that runs job 0, with PE 0x105 as given. -/
def withPe (x : Pe) (mem : Mem := [(3, 0xC0), (24, 1)]) : State := { m := { mem := mem, pes := [(0x105, x)], jobs := [(0, runJob)] } }

theorem witness_arrivals : let tk := Token.mk' 0 0 true 0 0 (mkNode 0 0x105 0) 100 0 3 0
    let it : Item := ⟨tk, 0x0400, 0⟩
    let s := withPe { fifo := [it] }
    let s2 := withPe { miss := [(2, ⟨it, 0, .mob, 0⟩)] }
    tk.kind = 0 ∧ tk.malformed = false ∧ s.m.live tk.job = true ∧ s.m.cleanMemory ∧ s.m.ringHeld (.matching 0x105) = false ∧ (s.m.pe 0x105).iris = [] ∧
      (s.m.pe 0x105).fifo = [it] ∧ (s.m.pe 0x105).readyQ = [] ∧ (s.m.pe 0x105).miss = [] ∧ (s.m.pe 0x105).ovf = [] ∧
      (s2.m.pe 0x105).miss = [((2 : BitVec 3).toNat, ⟨it, 0, .mob, 0⟩)] ∧ s2.m.ents 0x105 .mob gref = [] ∧ s2.m.ents 0x105 .deep gref = [] ∧
      SMap.getD (s2.m.cluster (peCluster 0x105)).dovf (gref.hash 0x105).2.2.1 0 = 0 := by decide +kernel
theorem witness_arrivals_overflowed : let c : Cluster := { dovf := [((gref.hash 0x105).2.2.1, 1)] }
    SMap.getD c.dovf (gref.hash 0x105).2.2.1 0 ≠ 0 := by decide +kernel
/-- A deep-match probe with a read of HBM still out, and without. -/
theorem witness_deep_probe : let it : Item := ⟨Token.mk' 0 0 true 0 0 (mkNode 0 0x105 0) 100 0 3 0, 0x0400, 0⟩
    let x : Pe := { miss := [(2, ⟨it, 0, .deep, 0⟩)] }
    let s : State := { m := { pes := [(0x105, x)], tiles := [((peTile 0x105).toNat, { reqs := [⟨0x90, false, 0, 8, 0, .probe 0x105 2, 0, some 1⟩] })] } }
    s.m.probeOut 0x105 2 = true ∧ { s.m with tiles := [] }.probeOut 0x105 2 = false ∧ s.m.ents 0x105 .deep gref = [] ∧
      (s.m.pe 0x105).miss = [((2 : BitVec 3).toNat, ⟨it, 0, .deep, 0⟩)] := by decide +kernel
/-- Arrivals at a FIRED group of one head entry of port 0: its own token again, another generation, another port, and its anti-token. -/
theorem witness_meetings : let tk := fun (kind : BitVec 2) (port : BitVec 3) (gen : Byte) => Token.mk' gen 0 true kind port (mkNode 0 0x105 0) 100 0 3 0
    let s := withPe { fifo := [⟨tk 0 0 0, 0x0400, 0⟩], iris := [(4, group .fired)] }
    let e := group .fired
    (tk 0 0 0).malformed = false ∧ (tk 1 0 0).malformed = false ∧ s.m.live (tk 0 0 0).job = true ∧ s.m.cleanMemory ∧
      (s.m.pe 0x105).fifo = ⟨tk 0 0 0, 0x0400, 0⟩ :: [] ∧ (s.m.pe 0x105).readyQ = [] ∧ (s.m.pe 0x105).miss = [] ∧
      s.m.ringHeld (.matching 0x105) = false ∧ (s.m.pe 0x105).iris = [(4, e)] ∧ e.inGroup 0x105 gref = true ∧ e.head = true ∧
      e.gstate ≠ .presented ∧ e.kind.toNat ≤ 1 ∧ (tk 0 0 0).key = gref.key ∧ e.port = (tk 0 0 0).port ∧ e.gen = (tk 0 0 0).gen ∧
      e.gen ≠ (tk 0 0 1).gen ∧ e.port ≠ (tk 0 2 0).port ∧ (tk 1 0 0).kind = 1 ∧ e.kind = 0 ∧ (group .fired 1).kind = 1 ∧
      (s.m.tile (peTile 0x105)).rbOvf = 0 ∧ (s.m.tile (peTile 0x105)).rbq.length < 32 ∧ s.m.rbInProgress ⟨0, 0x105, 0⟩ = none := by
  decide +kernel
theorem witness_gather : let s := withPe { gatherQ := [⟨gref, .arm⟩], iris := [(4, group .arming)], bpCycles := 1024 }
    (s.m.pe 0x105).gatherQ = [⟨gref, .arm⟩] ∧ (s.m.pe 0x105).readyQ = [] ∧ s.m.findGroup 0x105 gref = some .iris ∧
      s.m.headOf 0x105 .iris gref = some (4, group .arming) ∧ (group .arming).kind ≠ 2 ∧ 1024 ≤ (s.m.pe 0x105).bpCycles ∧ s.m.cleanMemory ∧ s.m.ringHeld (.gather 0x105) = false ∧
      s.m.hubPath (peTile 0x105) = true ∧ (s.m.pe 0x105).spill = false := by decide +kernel
theorem witness_deep_write : let t : Tile := { deepQ := [[group]] }
    t.deepQ = [group] :: [] ∧ t.deep = [] := by decide
theorem witness_descriptor : let s := withPe { readyQ := [gref], iris := [(4, group)] }
    (s.m.pe 0x105).readyQ = [gref] ∧ s.m.findGroup 0x105 gref = some .iris ∧ s.m.headOf 0x105 .iris gref = some (4, group) ∧
      (group).gstate = .waiting ∧ s.m.groupReady 0x105 .iris gref = true ∧ Mach.generalPos (s.m.pe 0x105) = some 0 := by decide +kernel
/-- Distances at the bounds of the levels for W = 10: 9 in level 1, 10 in level 2, 1269 in level 7, 1270 FAR. -/
theorem witness_levels : Tag.lt ⟨99, 4095⟩ ⟨100, 0⟩ = true ∧ Tag.lt ⟨109, 0⟩ ⟨100, 0⟩ = false ∧ 109 - 100 < (2 ^ 1 - 1) * 10 ∧
    ¬ 110 - 100 < (2 ^ 1 - 1) * 10 ∧ 110 - 100 < (2 ^ 2 - 1) * 10 ∧ 1369 - 100 < (2 ^ 7 - 1) * 10 ∧ 127 * 10 ≤ 1370 - 100 := by decide
theorem witness_dispatch : let s := withPe { pool := [(0, desc 0 .firing)], iris := [(4, group .presented)] } []
    s.m.nextDesc 0x105 = some (0, desc 0 .firing) ∧ s.m.eligible 0x105 0 (desc 0 .firing) = true ∧ s.m.cleanMemory ∧
      s.m.findGroup 0x105 (Mach.descRef (desc 0 .firing)) = some .iris ∧
      Mach.freeContext (s.m.pe 0x105) = some 0 ∧ s.m.hubPath (peTile 0x105) = true ∧
      s.m.outcome 0x105 .iris (Mach.descRef (desc 0 .firing)) = .firing := by decide +kernel
theorem witness_kick : let s := withPe { pool := [(0, desc 0 .control)], iris := [(4, group .presented 2)] } []
    s.m.nextDesc 0x105 = some (0, desc 0 .control) ∧ s.m.cleanMemory ∧ s.m.outcome 0x105 .iris (Mach.descRef (desc 0 .control)) = .control ∧
      s.m.headOf 0x105 .iris (Mach.descRef (desc 0 .control)) = some (4, group .presented 2) ∧ (group .presented 2).port = 0 := by decide +kernel

/-! Witnesses: the journal, rollback, the horizon and the hub -/

/-- A running tile of PE 0x105 with a journal, a rollback queue and a store writer as given, and every feature accepted. -/
def withTile (t : Tile) (x : Pe := {}) (mem : Mem := [(3, 0xC0), (24, 1)]) : State :=
  let m : Mach := { mem := mem, pes := [(0x105, x)], jobs := [(0, runJob)], tiles := [((peTile 0x105).toNat, t)], mstate := 5 }
  { m := { m with pw := { rails := 0x3FF }, features := 0x17F } }
def jhead : JEntry :=
  { job := 0, key := (100#48) ++ 0#12, gen := 0, node := node24 0x105 0, tail := false, emask := 0, eoff := 0, undo0 := 0, undo1 := 0,
    written := true, fossil := false }

theorem witness_grant : let s := withTile { jreqs := [(0x105, 0)] } { pool := [(0, desc 1 .firing)], iris := [(4, group .presented)] } [(2, 2)]
    s.m.cleanMemory ∧ s.m.hubPath (peTile 0x105) = true ∧ (s.m.tile (peTile 0x105)).jacc = [] ∧ (s.m.tile (peTile 0x105)).jreqs = [(0x105, 0)] ∧ SMap.get? (s.m.pe 0x105).pool 0 = some (desc 1 .firing) ∧
      s.m.findGroup 0x105 (Mach.descRef (desc 1 .firing)) = some .iris ∧
      s.m.outcome 0x105 .iris (Mach.descRef (desc 1 .firing)) = .firing ∧ s.m.nJn ⟨0, 0x105, 0⟩ = 1 ∧
      Mach.freeContext (s.m.pe 0x105) = some 0 ∧
      (s.m.modTile (peTile 0x105) (fun x => { x with jreqs := [] })).eligible 0x105 0 (desc 1 .firing) = true ∧
      s.m.grantOk (peTile 0x105) 0 1 = true ∧ s.m.jFreeIdx (peTile 0x105) = some 0 := by decide +kernel
theorem witness_emit : let y := (firing []).emitted
    let e : EmitJob := { y with kind := .update, arrived := [⟨0, true, 3, 0⟩] }
    let c : EmitJob := { y with kind := .command (Token.mk' 0 0 true 2 1 (mkNode 0 0x105 0) 100 0 3 0) }
    let s := withPe { emitQ := [e, c] }
    (s.m.pe 0x105).emitQ = [e, c] ∧ e.begun = false ∧ e.emits = [] ∧ e.arcs = 0 ∧ s.m.cleanMemory ∧ s.m.hubPath (peTile 0x105) = true ∧
      s.m.recAddr ⟨0, 0x105, 0⟩ + 64 ≤ s.m.stAddr ⟨0, 0x105, 0⟩ ∧ e.safe = true ∧ e.arrived = [⟨0, true, 3, 0⟩] ∧
      c.kind = .command (Token.mk' 0 0 true 2 1 (mkNode 0 0x105 0) 100 0 3 0) ∧
      (Token.mk' 0 0 true 2 1 (mkNode 0 0x105 0) 100 0 3 0).port = 1 ∧ (Token.mk' 0 0 true 2 3 0 100 0 3 0).port = 3 := by decide +kernel
theorem witness_tasks : let q : Sched := { ready := [(1023, 0)], tasks := [(1023, { cfg := 0x0000000200000000, flags := 1 })], postQ := [(5, 2)] }
    let s : State := { m := { cores := [(0, { run := .posting 0x0000000500000001 }), (1, { run := .running, task := 5 })], sched := q, cycle := 1 } }
    coreLive (s.m.core 1) = true ∧ (s.m.core 0).run = .posting 0x0000000500000001 ∧ s.m.posters = [0] ∧ s.m.poster 0 = some (5, 1) ∧ s.m.sched.postQ.length < 64 ∧ s.m.sched.postQ = [(5, 2)] ∧
      s.m.dispatchOrder = [1023] ∧ 0 < s.m.cycle ∧ (s.m.core 1).task ≠ 0x3FF := by decide +kernel
theorem witness_task_dispatch : let s : State := { m := { cores := [(1, { run := .waiting })], sched := { ready := [(1023, 0)] }, cycle := 1 } }
    s.m.dispatchOrder = [1023] ∧ s.m.idleFor 1023 = some 1 ∧ bits (0x0000000200000000 : Word) 47 32 ≠ 0 := by decide +kernel
theorem witness_event_rings : let s : State := { m := { evr := [(2, { cfg := 0x8000000400001000, held := [[1, 2, 3, 4]] })] } }
    (s.m.evRing 2).held = [[1, 2, 3, 4]] ∧ (s.m.evRing 2).full = false ∧ SMap.get? s.m.sched.hwPost 2 = none ∧ Memory.wf s.m.mem = true ∧
      (0x8000000000000000 : Word).getLsbD 63 = true ∧ (s.m.evRing 2).cfg.getLsbD 63 = true ∧ (s.m.tile 0).rbq.length < 32 := by decide +kernel
theorem witness_interrupts : Mach.sourceExists 191 = true ∧ State.reset.m.ic.kept = none ∧
    (let v : IcView := { pend := 1#512 <<< 191, cfg := [(191, 0x8001)] }
     let s : State := { m := { ic := { hist := List.replicate 7 v }, cores := [(0, { run := .running, status := 5 })] } }
     (s.m.core 0).entry = none ∧ Mach.entryBoundary (s.m.core 0) = true ∧
      bestOffer (s.m.icBefore 6) 0 (runPrio (s.m.core 0)) = some 191 ∧ Mach.pendingFor (s.m.icBefore 6) 0 = [191] ∧
        Mach.cfgPrio (Mach.icCfg (s.m.icBefore 6) 191) < runPrio (s.m.core 0)) := by decide +kernel
theorem witness_lock_bank : (State.reset.m.lock 0xFF).owner = 0 ∧ (0x30 : Byte).toNat < (0x31 : Byte).toNat ∧ Mach.waiterBit 0x30 = some 25 ∧
    (let m : Mach := { locks := [(0xFF, { owner := 0x31, leaseNow := 2, age := 3000 })] }
     (m.lock 0xFF).owner ≠ 0 ∧ (m.lock 0xFF).owner ≠ 0x30 ∧ (m.lock 0xFF).leaseNow ≠ 0 ∧
      (m.lock 0xFF).leaseNow.toNat * 1500 ≤ (m.lock 0xFF).age) := by decide +kernel
/-- A request for node 0 at time 100, whose uncommitted firing at that time stands in the journal. -/
theorem witness_ring_enable : (0x8000000000000000 : Word).getLsbD 63 = true ∧ (State.reset.m.evRing 2).cfg.getLsbD 63 = false := by decide +kernel
/-- That request, with an arc from the port its record names, and no earlier FIRED group. -/
theorem witness_rollback : let q : RbReq := ⟨0, mkNode 0 0x105 0, (100#48) ++ 0#12, false⟩
    let s := withTile { rbq := [q], journal := [(0, { jhead with emask := 1 })] } {} (memSetWord (memSetWord [] (2 ^ 21 + 128 + 8 * 26) 0xFFFFFFFFFFFFFFFF)
      (2 ^ 21 + 128 + 8 * 27) 0xFFF)
    (s.m.tile (peTile 0x105)).rbq = [q] ∧ s.m.rbReady q = true ∧ s.m.live 0 = true ∧ nodePe q.node = 0x105 ∧ s.m.cleanMemory ∧ s.m.hubPath (peTile 0x105) = true ∧
      s.m.recAddr ⟨0, 0x105, 0⟩ + 64 ≤ s.m.stAddr ⟨0, 0x105, 0⟩ ∧ (s.m.groupsOf ⟨0, 0x105, 0⟩) = [] ∧
      s.m.specHeads ⟨0, 0x105, 0⟩ q.key = [(0, { jhead with emask := 1 })] ∧ s.m.jOf ⟨0, 0x105, 0⟩ q.key = [(0, { jhead with emask := 1 })] ∧
      jhead.written = true ∧ (1 : Byte).getLsbD 0 = true ∧
      s.m.inFire ⟨0, 0x105, 0⟩ = none ∧ s.m.sft ⟨0, 0x105, 0⟩ = noTag ∧ s.m.rbc ⟨0, 0x105, 0⟩ < 127 ∧
      s.m.filtered ⟨0, 0x105, 0⟩ = false ∧ s.m.specHeads ⟨0, 0x105, 0⟩ q.key ≠ [] := by decide +kernel
theorem witness_sweeps : let s := withTile {} { sweeps := [.rollback gref], iris := [(4, group .fired)] }
    (s.m.pe 0x105).sweeps = [.rollback gref] ∧ s.m.groupsOf (gref.nref 0x105) = [(.iris, group .fired)] ∧
      (s.m.tagOf 0 gref.key).le (s.m.tagOf 0 (group .fired).key) = true ∧ Place.iris ≠ .deep ∧ s.m.cleanMemory ∧ s.m.hubPath (peTile 0x105) = true ∧ s.m.live 0 = true ∧ (∀ e ∈ s.m.tiles, e.2.pend = []) ∧
      s.m.firedBelow 0x105 0 ⟨101, 0⟩ = [(.iris, group .fired)] ∧ (s.m.tile (peTile 0x105)).pend = [] := by decide +kernel
theorem witness_fossils : let s := withTile { journal := [(0, jhead)] }
    ∀ e ∈ (s.m.tile (peTile 0x105)).journal, s.m.entryStores (peTile 0x105) e.2 (some { jhead with tail := true }) = [] := by decide +kernel
/-- A committed firing of a node of mode 3 whose tail entry holds one store. -/
theorem witness_store_writer : let hd : JEntry := { jhead with undo1 := 0xA0000010 }
    let tl : JEntry := { jhead with tail := true, undo0 := 5 }
    let q : StoreJob := ⟨0, 1, 0, 0⟩
    let s := withTile { storeQ := [q], journal := [(0, hd), (1, tl)] }
    (s.m.tile (peTile 0x105)).storeQ = [q] ∧ s.m.jobStores (peTile 0x105) q = some (⟨0, 0x105, 0⟩, Mach.jStores hd tl) ∧
      (Mach.jStores hd tl)[q.issued]?.isSome = true ∧ s.m.cleanMemory ∧
      (Mach.jStores hd tl).length ≤ (Mach.jStores hd tl).length := by decide +kernel
/-- The write of that store at the hub, and its acknowledgement at the tile. -/
theorem witness_store_requests : let hd : JEntry := { jhead with undo1 := 0xA0000010 }
    let tl : JEntry := { jhead with tail := true, undo0 := 5 }
    let v : TReq := ⟨0x80, true, 2 ^ 24 + 16, 1, 0, .store 0 0 false, 0, some 7⟩
    let wr : Packet := ⟨({ vc := 2, len := 1, cmd := 0x11, tid := 7, src := 0x0280, dstStop := 16, dstDie := 0, dstHub := true, arg := BitVec.ofNat 38 (2 ^ 24 + 16) } : Hdr).pack, [0]⟩
    let ak : Packet := ⟨({ vc := 3, len := 0, cmd := 0x21, tid := 7, src := 0x8100, dstStop := 2, dstDie := 0 } : Hdr).pack, []⟩
    let s := withTile { storeQ := [⟨0, 1, 1, 0⟩], journal := [(0, hd), (1, tl)], reqs := [v] }
    let u : State := { s with m := { s.m with net := { queues := [(qEj 0 2 3, [⟨ak, 0, 0⟩]), (qHub 0 false 2, [⟨wr, 0, 0⟩])] } } }
    u.m.queue (qHub 0 false 2) = [⟨wr, 0, 0⟩] ∧ wr.h.cmd = 0x11 ∧ Mach.srcHub wr.h.src = false ∧ wr.h.src.truncate 8 = (0x80 : Byte) ∧
      Mach.srcTile wr.h.src = 2 ∧ u.m.reqOf 2 7 = some v ∧ (u.m.storeRec 2 0 0).isSome = true ∧ u.m.cleanMemory ∧ wr.h.arg.toNat % 16 = 0 ∧
      u.m.queue (qEj 0 2 3) = [⟨ak, 0, 0⟩] ∧ ak.h.cmd = 0x21 ∧ (u.m.tile 2).storeQ = [⟨0, 1, 1, 0⟩] := by decide +kernel
theorem witness_rescan : (SMap.getD ({ hreg := [(0, { rescan := 1 })] } : Cluster).hreg (0 : JobId).toNat {}).rescan ≠ 0 := by decide
theorem witness_snapshot : let s := withTile {}
    s.m.serving = true ∧ s.m.live 0 = true ∧ { s.m with govLeft := 0 }.govLeft = 0 ∧ s.m.dieOut.getLsbD (3 : BitVec 3).toNat = false ∧
      SMap.getD s.m.voidRun 3 0 + 1 < 256 ∧ s.m.wave.active = false ∧ s.m.active 7 0 = false := by decide +kernel
/-- A term of the reduction: a firing at time 100 in a context. -/
theorem witness_terms : let s := withTile {} { ctxs := [(1, firing [])] }
    s.m.serving = true ∧ s.m.live 0 = true ∧ Claim.Term s.m 0 false ⟨100, 0⟩ := by
  refine ⟨by decide +kernel, by decide +kernel, Or.inr (Or.inl ⟨0x105, by decide +kernel, (1, firing []), by decide +kernel, by decide +kernel, ?_⟩)⟩
  decide +kernel
theorem witness_delivery : let b : Job := { runJob with sampled := true, sampG := some ⟨100, 0⟩, sampS := some ⟨101, 0⟩ }
    let s : State := { m := { jobs := [(0, b)] } }
    (s.m.job 0).sampled = true ∧ (∀ k, k ≠ 0 → (s.m.job k).sampled = false) ∧ (s.m.job 0).sampG = some ⟨100, 0⟩ ∧
      (s.m.job 0).sampS = some ⟨101, 0⟩ ∧ (s.m.job 0).state = .run ∧ (s.m.job 0).pause = none ∧ s.m.spanning 0 = false ∧
      s.m.wave.snap = false ∧ s.m.wave.active = false ∧ s.m.coll = [] ∧ (s.m.job 0).gvt.lt ⟨100, 0⟩ = true ∧
      (100 : BitVec 64) ≠ BitVec.allOnes 64 := by decide +kernel
theorem witness_governor : let s : State := { m := { (withTile {}).m with govLeft := 0 } }
    s.m.serving = true ∧ s.m.govLeft = 0 := by decide
theorem witness_stall : let s : State := { m := { jobs := [(0, runJob)], wall := 100000000, objs := [(0x3021, 0)] } }
    (s.m.job 0).state = .run ∧ (s.m.job 0).stallRaised = false ∧ (s.m.job 0).stallFrom + s.m.jobObj 0 0x20 100000 * 1000 ≤ s.m.wall ∧
      s.m.jobObj 0 0x21 0 = 0 := by decide +kernel
theorem witness_target_edge : let s : State := { m := { jobs := [(0, { runJob with paced := true })], objs := [(0x250006, 0), (0x250007, 1)] } }
    s.m.objD 0x2500 0x06 0xFF = (0 : JobId).toNat ∧ (∀ k, s.m.hubPath k = true) ∧ s.m.cleanMemory ∧ (s.m.objD 0x2500 0x07 1 == 1) = true ∧ (s.m.job 0).paced = true ∧
      (s.m.job 0).state = .run ∧ (s.m.modJob 0 (fun x => { x with edge := x.edge + 1 })).tgtLag 0 < 16 := by decide +kernel
theorem witness_sync : let s : State := { m := { wallRun := true, wall := 9, objs := [(0x250003, 2), (0x250004, 10), (0x250005, 5)] } }
    s.m.ic.kept = none ∧ s.m.wallRun = true ∧ s.m.objD 0x2500 0x03 1 = 2 ∧ s.m.wall ≤ s.m.objD 0x2500 0x04 0 ∧ s.m.objD 0x2500 0x05 0 ≠ 0 ∧
      s.m.wall / s.m.objD 0x2500 0x05 0 ≠ s.m.pw.syncWall / s.m.objD 0x2500 0x05 0 := by decide +kernel
theorem witness_scrub : let q : MemSys := { wbQ := [(0, 5)], sramPos := 1, hbmPos := 1, hbmFlaw := [(32, 1)], hbmMisaddr := [64] }
    let s : State := { m := { ms := q, pw := { rails := 0x3FF } } }
    s.m.ms.wbQ = [(0, 5)] ∧ s.m.pw.pgood = true ∧ s.m.ms.sramPos ≠ 0 ∧ s.m.ms.hbmPos ≠ 0 ∧ s.m.halfCheck (32 * s.m.ms.hbmPos) = .corrected ∧
      s.m.halfCheck 64 = .bad ∧ (∀ j, (s.m.job j).state = .empty) := by
  and_intros <;> decide +kernel
theorem witness_scrub_hub : (match scrubWord (sramTotal - 1) with
      | .hub _ => true
      | _ => false) = true ∧ Mach.sramCheck 1 = .corrected := by decide +kernel
theorem witness_patch : let loc : BitVec 32 := 0x80000001
    let v : Word := loc.zeroExtend 64
    Mach.locKind loc.toNat = 4 ∧ v &&& 0xFFFC1FFF = v ∧ Mach.locWord loc.toNat < Mach.locWords (Mach.locKind loc.toNat) ∧
      State.reset.m.ptNamed 3 31 loc.toNat = false ∧ State.reset.m.ptLoc 3 31 = 0 ∧
      ({ State.reset.m with ms := { ptLoc := [(127, at64 1 32 ||| v)] } }).ptLoc 3 31 = at64 1 32 ||| v := by decide +kernel
theorem witness_remap : let w : Word := ((0x0010000000000001 ||| 0x8000000000000000) &&& 0x807FFFFFF7FFFFFF)
    State.reset.m.ms.remap = [] ∧ State.reset.m.ms.zeroW = [] ∧ State.reset.m.ms.copying = [] ∧ (Mach.remapSrc w).2.2 < State.reset.m.unitsPerPc ∧ (Mach.remapSpr w).2.2 < State.reset.m.unitsPerPc ∧
      w.getLsbD 63 = true ∧ w &&& 0x807FFFFFF7FFFFFF = w ∧ Mach.remapSrc w ≠ Mach.remapSpr w ∧
      Memory.wf State.reset.m.mem = true ∧ (63 : BitVec 6).toNat ∈ ({ copying := [63] } : MemSys).copying := by decide +kernel

/-! Witnesses: probes, the Fabric and waves -/

def pitem : PItem :=
  { job := 0, node := 0, kind := 0, sel := 0, stream := some 0, trig := none, probeId := 1, ctag := ⟨100, 0⟩, gen := 0, time := 100, delta := 0,
    fs := false, a := 1, b := 0, ord := 0 }
def sitem : SItem := { i0 := 1, i1 := 2, i2 := 3, i3 := 4, gvt := 0 }
/-- The packet of a probe message of tile 2 at the hub die. -/
theorem witness_collector : let p : Packet := ⟨({ vc := 2, len := 2, cmd := 0x11, tid := 7, src := 0x0281, dstStop := 16, dstDie := 0, dstHub := true } : Hdr).pack, [0, 0]⟩
    let s : State := { m := { jobs := [(0, runJob)], pmsgs := [⟨.item 2 pitem, some 7, 0⟩], net := { queues := [(qHub 0 false 2, [⟨p, 0, 0⟩])] } } }
    s.m.queue (qHub (Mach.tileDie 2) false 2) = [⟨p, 0, 0⟩] ∧ p.h.cmd = 0x11 ∧ p.h.src = Mach.srcOf (Mach.tileDie 2) (Mach.tileStop 2) 0x81 ∧
      s.m.pmsgs = [⟨.item 2 pitem, some p.h.tid, 0⟩] ∧ s.m.cancelled pitem = false ∧ (s.m.job pitem.job).state ≠ .empty ∧ s.m.probeOvf.getLsbD pitem.job.toNat = false ∧
      s.m.itemsHeld pitem.job < 131072 := by decide +kernel
/-- The last item that leaves a packet of two open, and a READ at the write count. -/
theorem witness_streams : let y : Stream := { job := some 0, sizeMib := 1, base := 2 ^ 25, front := [sitem, sitem], offered := [sitem] }
    let x : Stream := { y with maxItems := 3, openPkt := some ⟨0, 1, 0⟩, write := 96, read := 32, mark := 32, unacked := [64] }
    let s : State := { m := { streams := [(63, x)] } }
    s.m.stream 63 = x ∧ x.offered = [sitem] ∧ x.front.length < 16 ∧ x.front = sitem :: sitem :: [] ∧ x.canPop = true ∧
      x.openPkt = some ⟨0, 1, 0⟩ ∧ 1 + 1 < x.maxItems.toNat ∧ sitem.last = false ∧ s.m.ms.remap = [] ∧ Memory.wf s.m.mem = true ∧
      x.unacked = [64] ∧ s.m.ms.copying = [] ∧ x.finalWait = none ∧ x.job.isSome = true ∧ (96 : Word).toNat % 32 = 0 ∧ x.mark ≤ 96 ∧ (96 : Word).toNat ≤ x.write ∧ x.disabled = false := by
  decide +kernel

/-- A module whose Fabric port 2 stands as given. -/
def withPort (x : FlPort) : State := { m := { ports := [(2, x)], number := 1 } }
/-- The Identity Frame of module 9 with the system identity of reset. -/
def identUnits : List (BitVec 128) :=
  sealLast [at128 3 126 ||| at128 1 120 ||| at128 9 112 ||| at128 2 109, 5, 0, 0]
set_option maxRecDepth 20000 in
theorem witness_ports : ((withPort { state := 2 }).m.port 2).state = 2 ∧ ((withPort { state := 1 }).m.port 2).state = 1 ∧
    ((withPort { state := 6 }).m.port 2).state = 6 ∧ ((withPort { state := 3 }).m.port 2).state = 3 ∧
    bits (identUnits.headD 0) 127 126 = 3 ∧ (withPort { state := 3 }).m.identityReason identUnits = 0 ∧
    (withPort { state := 3 }).m.identityReason (identUnits.take 3) = 1 ∧ ((withPort { state := 3 }).m.port 2).gotAccept = false ∧
    (∀ e ∈ (withPort { state := 3 }).m.map, e.2.serial ≠ some (identUnits.getD 1 0)) := by decide +kernel
theorem witness_ident_ack : let s := withPort { state := 3, sentAccept := true }
    let yes := Mach.identAckSym 1 true 0
    let no := Mach.identAckSym 1 false 2
    symOk yes = true ∧ symCode yes = 0x05 ∧ (s.m.port 2).state = 3 ∧ ubits yes 0 117 110 = s.m.number.toNat ∧
      (yes.headD 0).getLsbD 109 = true ∧ (s.m.port 2).sentAccept = true ∧ s.m.lost = [] ∧ symOk no = true ∧
      ubits no 0 117 110 = s.m.number.toNat ∧ (no.headD 0).getLsbD 109 = false := by decide +kernel
theorem witness_heartbeat : let s := withPort { state := 3, missed := 1 }
    3 ≤ (s.m.port 2).state.toNat ∧ (s.m.port 2).hbWall = none ∧ (s.m.port 2).missed + 1 < 3 ∧
      3 ≤ ((withPort { state := 3, missed := 2 }).m.port 2).missed + 1 ∧
      symOk (symbol 0x06 [at128 1 102, 0]) = true ∧ symCode (symbol 0x06 [at128 1 102, 0]) = 0x06 := by decide +kernel
/-- A frame of one peer message of type 0x06 to module 1 from module 9. -/
def peerPkt (type : Nat) (data : List (BitVec 128)) : Packet :=
  ⟨({ vc := 2, len := BitVec.ofNat 4 data.length, cmd := 0x30, src := 0x8200, dstStop := 0, dstDie := 0,
      arg := BitVec.ofNat 38 (9 + type * 2 ^ 8) } : Hdr).pack ||| at128 1 38, data⟩
def oneFrame (seq : BitVec 12) : LinkFrame := { seq := seq, vc := 2, units := (peerPkt 6 [0]).hdr :: (peerPkt 6 [0]).data }
theorem witness_frames_sent : let s := withPort { state := 4, replay := [oneFrame 0], resend := [0], replays := 3 }
    let t := withPort { state := 4, txq := [(2, [⟨peerPkt 6 [0], 0⟩])] }
    (s.m.port 2).state = 4 ∧ (s.m.port 2).window = false ∧ (s.m.port 2).resend = [0] ∧
      (s.m.port 2).replay.find? (fun y => y.seq == 0) = some (oneFrame 0) ∧ (s.m.port 2).replay = [oneFrame 0] ∧ (s.m.port 2).replays < 4 ∧
      4 ≤ ((withPort { replays := 4 }).m.port 2).replays ∧ (s.m.port 2).calRx = none ∧ (s.m.port 2).calTx = none ∧
      symOk (symbol 0x07 [0]) = true ∧ symCode (symbol 0x07 [0]) = 0x07 ∧ (t.m.port 2).resend = [] ∧
      t.m.cycle / 4096 = (t.m.port 2).win ∧ t.m.portPick (t.m.port 2) = (some (2, 8, ⟨peerPkt 6 [0], 0⟩), []) ∧
      (isTok (peerPkt 6 [0]).h.cmd && !t.m.live (peerPkt 6 [0]).h.job) = false ∧
      ((withPort { window := true }).m.port 2).window = true ∧ ((withPort { window := true, replay := [oneFrame 0] }).m.port 2).replay = oneFrame 0 :: [] ∧
      ((withPort { state := 5, replay := [oneFrame 0] }).m.port 2).state = 5 ∧
      s.m.linked 2 = true ∧ symOk (symbol 0x01 [at128 0 106]) = true ∧ symCode (symbol 0x01 [at128 0 106]) = 0x01 ∧
      symOk (symbol 0x02 [at128 0 106]) = true ∧ symCode (symbol 0x02 [at128 0 106]) = 0x02 := by decide +kernel
theorem witness_frames_received : let s := withPort { state := 4, rxSeq := 7, ackOwed := 2 }
    let u := frameUnits (oneFrame 7)
    (s.m.port 2).state = 4 ∧ bits (u.headD 0) 127 126 = 1 ∧ frameOf u = some (oneFrame 7) ∧ framePackets 16 (oneFrame 7).units = [peerPkt 6 [0]] ∧
      isTok (peerPkt 6 [0]).h.cmd = false ∧ fabricBad (peerPkt 6 [0]) 2 = false ∧ dstModule (peerPkt 6 [0]) = s.m.number ∧
      (∀ vc, SMap.getD (s.m.port 2).rxq vc [] = []) ∧ s.m.hubTerms.length ≤ 16384 ∧ frameOf (frameUnits (oneFrame 6)) = some (oneFrame 6) ∧
      seqLe (oneFrame 6).seq (s.m.port 2).rxSeq = true ∧ seqLe (oneFrame 8).seq (s.m.port 2).rxSeq = false ∧ (s.m.port 2).nakked = false ∧
      s.m.linked 2 = true ∧ (s.m.port 2).ackOwed ≠ 0 ∧ symOk (symbol 0x03 [at128 9 96]) = true ∧ symCode (symbol 0x03 [at128 9 96]) = 0x03 ∧
      symOk (symbol 0x04 [at128 9 102 ||| at128 1 99]) = true ∧ symCode (symbol 0x04 [at128 9 102]) = 0x04 ∧
      2 ≤ (s.m.port 2).state.toNat ∧ s.m.ic.kept = none := by
  and_intros <;> first | decide +kernel | exact fun _ => rfl
/-- Peer messages of module 9: a LINK_STATE of module 4, a RESYNC, a LOCK request of lock 255 and a JOB_CHECK. -/
theorem witness_peers : let ls := peerPkt 4 [at128 4 120 ||| at128 1 104]
    let rs := peerPkt 5 [at128 0 101]
    let lk := peerPkt 2 [0xFF]
    let x : Lost := ⟨2, 9, 0, none, [], [], [], 0, 0, 0, false⟩
    let m : Mach := { number := 1, map := [(1, { ports := [(2, 4)] })], lost := [x], jobs := [(0, { runJob with state := .loaded })], peerWakes := [9] }
    let jc := peerPkt 6 (m.jobCheckData 0)
    Mach.peerType ls = 0x04 ∧ bits (ls.data.headD 0) 127 120 ≠ m.number.toNat ∧ SMap.get? m.map (bits (ls.data.headD 0) 127 120) = none ∧
      bits (ls.data.headD 0) 127 120 ∈ (mapPorts m.map m.number.toNat).map (·.2) ∧ Mach.peerType rs = 0x05 ∧ x.peer = Mach.peerFrom rs ∧
      x.peerPort.toNat = bits (rs.data.headD 0) 103 101 ∧ x.synced = false ∧ x.peerPort.toNat = bits ((peerPkt 7 [0]).data.headD 0) 115 113 ∧
      Mach.peerType lk = 0x02 ∧ lk.h.cmd = 0x30 ∧ (lk.data.headD 0).getLsbD 8 = false ∧ (m.lock 0xFF).owner = 0 ∧
      SMap.get? m.peerHold 0xFF = none ∧ m.peerWakes = [9] ∧ Mach.peerType jc = 0x06 ∧ jc.h.cmd = 0x30 ∧
      ((jc.data.headD 0).truncate 3 : BitVec 3) = 0 ∧ (m.job 0).state = .loaded ∧ jc.data = m.jobCheckData 0 ∧ (m.job 0).runPair = [] ∧
      (m.job 0).runObj = false := by decide +kernel
theorem witness_waves : let w : Wave := { root := some 1, children := [2], parent := none }
    let s : State := { m := { number := 1, mstate := 5, jobs := [(0, { runJob with moduleMask := 6 })], wave := w, ports := [(2, { state := 4 })] } }
    s.m.serving = true ∧ s.m.wave.root = some s.m.number ∧ s.m.wave.running = false ∧ s.m.wave.began = none ∧ s.m.spanning 0 = true ∧
      (s.m.job 0).state = .run ∧ s.m.linked 2 = true ∧ (2 : BitVec 3) ∈ s.m.wave.children ∧
      symOk (hzPauseSym 0 ⟨100, 0⟩) = true ∧ symCode (hzPauseSym 0 ⟨100, 0⟩) = 0x13 ∧ SMap.get? s.m.wave.pauses 0 = none := by decide +kernel
theorem witness_wave_symbols : let w : Wave := { parent := some 2, num := 4, mask := 1, out := [⟨2, 0, 4, 0, [symbol 0x10 [0]]⟩] }
    let s : State := { m := { number := 1, wave := w, ports := [(2, { state := 4 })], objs := [(0x250003, 1)], wallRun := true } }
    let req := symbol 0x10 [at128 5 102 ||| at128 1 94]
    let down := symbol 0x12 [at128 4 102, 0, 0]
    s.m.linked 2 = true ∧ symOk req = true ∧ symOk down = true ∧ symCode req = 0x10 ∧ s.m.wave.parent = some 2 ∧ s.m.wave.children = [] ∧
      s.m.wave.taken = false ∧ BitVec.ofNat 16 (ubits req 0 117 102) ≠ s.m.wave.num ∧ symCode down = 0x12 ∧
      BitVec.ofNat 16 (ubits down 0 117 102) = s.m.wave.num ∧ s.m.wave.done ≠ some 4 ∧ maskJobs s.m.wave.mask = [ubits down 0 101 99] ∧
      symOk (symbol 0x14 [at128 4 102]) = true ∧ symCode (symbol 0x14 [at128 4 102]) = 0x14 ∧ ubits (symbol 0x14 [at128 4 102]) 0 101 100 ≠ 3 ∧
      symCode (symbol 0x15 [at128 4 106]) = 0x15 ∧ symOk (symbol 0x15 [at128 4 106]) = true ∧ symOk (symbol 0x16 [at128 9 32]) = true ∧
      symCode (symbol 0x16 [at128 9 32]) = 0x16 ∧ s.m.objD 0x2500 0x03 1 = 1 ∧ s.m.wallRun = true ∧
      s.m.wall ≤ ubits (symbol 0x16 [at128 9 32]) 0 95 32 + (s.m.port 2).rtt / 2 ∧
      s.m.wave.out = [⟨2, 0, 4, 0, [symbol 0x10 [0]]⟩] := by decide +kernel
theorem witness_wave_up : let w : Wave := { root := some 1, children := [2], num := 4, active := true }
    let s : State := { m := { wave := w, ports := [(2, { state := 4 })] } }
    let up := symbol 0x11 [at128 4 102, 0]
    s.m.linked 2 = true ∧ symOk up = true ∧ symCode up = 0x11 ∧ BitVec.ofNat 16 (ubits up 0 117 102) = s.m.wave.num ∧
      s.m.wave.active = true ∧ s.m.wave.own = [] := by decide +kernel

/-! Witnesses: objects, the field bus, the host and power -/

/-- A module in RUN with VIN and the link up, and job 0 as given. -/
def served (b : Job := runJob) (st : BitVec 4 := 5) : State :=
  let m : Mach := { jobs := [(0, b)], mstate := st, features := 0x17F, tag := 7, testOpen := true, agent := none }
  { m := { m with pw := { rails := 0x3FF, linkUp := true, vinMv := 12000 }, funcs := [(0, { mse := true, bme := true })] } }

/-- Writes of job 0 by the management controller that pass their checks. -/
theorem witness_job_writes :
    (served { runJob with state := .loaded }).takesWrite .sop 0x3000 0x70 [1] ∧
    (served { runJob with state := .paused }).takesWrite .sop 0x3000 0x70 [2] ∧
    (served { runJob with state := .halted }).takesWrite .sop 0x3000 0x70 [3] ∧
    (served { runJob with state := .paused }).takesWrite .sop 0x3000 0x42 [1] ∧
    (served).takesWrite .sop 0x3000 0x41 (natBytes 8 100) ∧
    (served { runJob with state := .paused }).takesWrite .sop 0x3000 0x22 [1] ∧
    (served {}).takesWrite .sop 0x3000 0x63 (natBytes 4 2) := by
  refine ⟨?_, ?_, ?_, ?_, ?_, ?_, ?_⟩ <;> exact ⟨by decide, rfl, rfl, by decide, _, by rfl, by rfl⟩
theorem witness_swept : Claim.Swept (served { runJob with state := .paused }).m 0 := by
  unfold Claim.Swept
  decide +kernel
theorem witness_job_states : let b : Job := { runJob with state := .paused }
    (served b).m.spanning 0 = false ∧ ((served b).m.job 0).state = .paused ∧ (100 : BitVec 64) ≠ 0 ∧ Tag.lt ⟨100, 0⟩ (served.m.job 0).gvt = false ∧
      (served.m.job 0).pause = none ∧ ((served {}).m.job 0).staging = {} ∧
      (served {}).m.heldKind (·.staging) + 2 * 2 ^ 20 ≤ 2 ^ 34 ∧ ((served {}).m.poolPlace (2 * 2 ^ 20)).isSome = true := by decide +kernel
theorem witness_load_write : let m := (served { staging := ⟨2 ^ 20, 2 ^ 20⟩ }).m
    let s : State := { m := { m with objs := [(0x300060, 2 ^ 20), (0x300061, 2 ^ 20)] } }
    s.takesWrite .sop 0x3000 0x62 [1] ∧ 512 ≤ s.m.jobObj 0 0x61 0 ∧ (s.m.job 0).staging.base ≤ s.m.jobObj 0 0x60 0 ∧
      s.m.jobObj 0 0x60 0 + s.m.jobObj 0 0x61 0 ≤ (s.m.job 0).staging.base + (s.m.job 0).staging.size := by
  exact ⟨⟨by decide, rfl, rfl, by decide, _, by rfl, by rfl⟩, by decide, by decide, by decide⟩
theorem witness_load : ({ served.m with loads := [(0, none, 0)] }).loads = (0, none, 0) :: [] ∧ served.m.ms.copying = [] := by
  exact ⟨rfl, rfl⟩
/-- An image whose magic number is wrong, its header's offset, and a region that does not fit. -/
theorem witness_load_steps : let m : Mach := { jobs := [(0, {})], mem := [(0, 1)], objs := [(0x300061, 512)] }
    m.ms.hbmFlaw = [] ∧ m.ms.hbmPoison = [] ∧ m.ms.hbmMisaddr = [] ∧ m.jobObj 0 0x61 0 = 512 ∧
      (({ ok := false, size := 64, off := 0x80, top := 0, kind := (·.staging), set := fun b _ => b } : Mach.RegionAsk).size ≠ 0) ∧
      Img.num (memBytes m.mem (m.jobObj 0 0x60 0) 16).toArray 0 4 ≠ 0x1A495A45 := by decide +kernel
theorem witness_object_writes :
    (served).takesWrite .sop 0x2000 0x01 (natBytes 2 100) ∧ (served).takesWrite .sop 0x2400 0x01 (natBytes 2 256) ∧
    (served {} 3).takesWrite .sop 0x1021 0x01 (natBytes 16 0x17F) ∧ (served).takesWrite .sop 0x6012 0x01 [1] ∧
    (served).takesWrite .sop 0x5000 0x05 [1] ∧ (served).takesWrite .sop 0x1042 0x06 [1] ∧ (served).takesWrite .sop 0x1041 0x02 [7] ∧
    (served).takesWrite .sop 0x7100 0x01 (natBytes 8 0) ∧ (served).takesWrite .sop 0x7100 0x02 (natBytes 8 0) ∧
    (served {} 3).takesWrite .sop 0x7000 0x01 (natBytes 4 32343) ∧ (served).takesWrite .sop 0x1030 0x01 [0] := by
  refine ⟨?_, ?_, ?_, ?_, ?_, ?_, ?_, ?_, ?_, ?_, ?_⟩ <;> exact ⟨by decide, rfl, rfl, by decide, _, by rfl, by rfl⟩
/-- Writes over the field bus with the agent idle, in the states of module and job they need, at the bounds of their values. -/
theorem witness_object_writes_complete :
    let s : State := served {} 3
    let on := fun (st : JobState) => (served { runJob with state := st } 3)
    let l : State := { m := { (served { staging := ⟨2 ^ 20, 512⟩ } 3).m with objs := [(0x300060, 2 ^ 20), (0x300061, 512)] } }
    let e : ErrEntry := ⟨1, 0, 0, 0, 0, 0, 0, 0, 0⟩
    (s.agentIdle ∧ s.m.mstate = 3 ∧ s.m.pw.held = false ∧ s.m.loads = [] ∧ Mach.featureOffer &&& ~~~Mach.featureOffer = 0 ∧
      (s.m.port 0).state = 0 ∧ s.m.testOpen = true ∧ ({ s.m with err := { log := [e] } } : Mach).err.log[0]? = some e) ∧
    ((on .loaded).m.spanning 0 = false ∧ (on .paused).agentIdle ∧ (on .paused).m.spanning 0 = false ∧ ((on .run).m.job 0).pause = none ∧
      Tag.lt ⟨1, 0⟩ ((on .run).m.job 0).gvt = false ∧ (on .halted).m.mstate = 3) ∧
    (l.agentIdle ∧ l.m.loadQueued 0 = false ∧ l.m.feature 3 = true ∧ 512 ≤ l.m.jobObj 0 0x61 0 ∧ (l.m.job 0).staging.base ≤ l.m.jobObj 0 0x60 0 ∧
      l.m.jobObj 0 0x60 0 + l.m.jobObj 0 0x61 0 ≤ (l.m.job 0).staging.base + (l.m.job 0).staging.size) ∧
    ((s.m.job 0).staging = {} ∧ s.m.heldKind (·.staging) + 16384 * 2 ^ 20 ≤ 2 ^ 34 ∧ (s.m.poolPlace (16384 * 2 ^ 20)).isSome = true ∧
      SMap.getD s.vault.slots 7 .empty = .empty ∧ s.vault.lock = false) := by decide +kernel
theorem witness_state_control_completes : let p : Power := { ovrWin := true, held := true, vinMv := 7000 }
    let m : Mach := { pw := p, mstate := 1 }
    let b : Mach := { pw := { vinMv := 7000 }, mstate := 1 }
    let r : Mach := { pw := { rails := 0x3FF, vinMv := 7000 }, mstate := 3 }
    let w : Mach := { mstate := 7, ic := { kept := some ({}, []) } }
    (State.agentIdle ⟨[], m, {}⟩ ∧ m.pw.ovr = false ∧ 7000 ≤ m.pw.vinMv ∧ State.agentIdle ⟨[], b, {}⟩ ∧ b.pw.held = false) ∧
    (State.agentIdle ⟨[], r, {}⟩ ∧ r.pw.linkUp = false ∧ r.pw.snow = none ∧ r.snowReady = true ∧ (∀ f, (r.port f).state = 0) ∧ r.pw.trip = false) ∧
    (State.agentIdle ⟨[], w, {}⟩ ∧ w.ic.kept = some ({}, [])) := by
  refine ⟨by decide +kernel, ⟨by decide +kernel, rfl, rfl, by decide +kernel, fun _ => rfl, rfl⟩, by decide +kernel⟩
theorem witness_key_seal : (served).takesSeal .sop (7 :: List.replicate 40 0) := by
  exact ⟨by decide, rfl, rfl, by decide, by decide, by rfl, by decide, by decide⟩
theorem witness_error_index : let e : ErrEntry := ⟨1, 0, 0, 0, 0, 0, 0, 0, 0⟩
    let s : State := { m := { served.m with err := { log := [e] } } }
    s.takesWrite .sop 0x5000 0x03 (natBytes 4 0) ∧ s.m.err.log[0]? = some e := by
  exact ⟨⟨by decide, rfl, rfl, by decide, _, by rfl, by rfl⟩, rfl⟩
def access (via : Path) : Access := ⟨via, true, 0x2400, 1, [], 0, 0, 0, 0, 7, 0, [], 0, false⟩
theorem witness_access : let c : Core := { run := .running }
    let s : State := { m := { served.m with agent := some (access (.mbx 0)), mbx := [(0, { busy := true })], cores := [(0, c)] } }
    s.m.agent = some (access (.mbx 0)) ∧ s.m.agentQ = [] ∧ (access (.mbx 0)).path = .mbx 0 ∧ (access (.mbx 0)).idx ≠ 0x1010 ∧
      (s.m.mailbox 0).busy = true ∧ coreLive (s.m.core 0) = true ∧ (access (.mbx 0)).tag = (7 : Word).truncate 32 ∧ (access (.mbx 0)).wr = true ∧
      (access (.mbx 0)).gone = false ∧ s.m.cmdOut (access (.mbx 0)) = false ∧
      { s.m with jobs := [(0, { runJob with stopObj := true })] }.cmdOut { access (.mbx 0) with idx := 0x3000, sub := 0x70 } = true := by
  decide +kernel

/-- A module of node ID 5 with a transfer of the field bus as given. -/
def onBus (x : Option Xfer := none) : State :=
  let m := served.m
  { m := { m with pw := { m.pw with nodePins := 5 }, sop := { xfer := x } } }
theorem witness_field_bus_read : let b : List Byte := [1, 9, 0x10, 0x10, 1, 0, 0, 0]
    (onBus).m.sop.xfer = none ∧ (onBus).hears 1 0x185 b ∧ ((onBus).objRead .sop (frameIdx b).toNat (frameByte b 4).toNat).1 = .ok ∧
      alwaysOnObj (frameIdx b).toNat = true ∧ frameIdx b ≠ 0x4100 ∧
      ((onBus).objRead .sop (frameIdx b).toNat (frameByte b 4).toNat).2.length ≤ 48 := by
  exact ⟨rfl, ⟨by decide, rfl, by decide, by decide, by decide, by decide, by decide, by decide, rfl, rfl, by intro l h; cases h⟩,
    by decide, by decide, by decide, by decide⟩
theorem witness_field_bus_write : let b : List Byte := [2, 9, 0x00, 0x24, 1, 0, 2, 0, 16, 0]
    (onBus).hears 2 0x185 b ∧ bytesNat ((b.drop 6).take 2) ≤ 56 ∧ frameIdx b = 0x2400 ∧ frameByte b 4 = 1 ∧
      (onBus).takesWrite .sop 0x2400 1 ((b.drop 8).take (bytesNat ((b.drop 6).take 2))) := by
  exact ⟨⟨by decide, rfl, by decide, by decide, by decide, by decide, by decide, by decide, rfl, rfl, by intro l h; cases h⟩,
    by decide, by decide, by decide, ⟨by decide, rfl, rfl, by decide, _, by rfl, by rfl⟩⟩
theorem witness_field_bus_transfer : let b : List Byte := [2, 9, 0x00, 0x24, 1, 0, 57, 0] ++ List.replicate 56 0
    (onBus).hears 2 0x185 b ∧ 56 < bytesNat ((b.drop 6).take 2) ∧
      (onBus).hears 6 0x185 [6, 9, 0xFF, 0] ∧ (onBus).m.onlyAlwaysOn = false ∧ ((onBus).m.lock 0xFF).owner = 0 := by
  exact ⟨⟨by decide, rfl, by decide, by decide, by decide, by decide, by decide, by decide, rfl, rfl, by intro l h; cases h⟩, by decide,
    ⟨by decide, rfl, by decide, by decide, by decide, by decide, by decide, by decide, rfl, rfl, by intro l h; cases h⟩, by decide, by decide⟩
theorem witness_field_bus_segments : let x : Xfer := ⟨9, false, 0x2400, 1, 96, List.replicate 96 0, 1⟩
    let y : Xfer := ⟨9, true, 0x2400, 1, 200, List.replicate 56 0, 1⟩
    let d : List Byte := [4, 9, 1, 0] ++ List.replicate 60 0
    (onBus (some x)).m.sop.xfer = some x ∧ x.tseq = 9 ∧ x.seg ≠ 0 ∧ (onBus (some x)).hears 3 0x185 [3, 9, 1, 0] ∧
      (onBus (some y)).hears 4 0x185 d ∧ y.data.length + 60 < y.len ∧ 64 ≤ d.length ∧ (onBus (some y)).hears 5 0x185 [5, 9, 0, 0] := by
  exact ⟨rfl, rfl, by decide,
    ⟨by decide, rfl, by decide, by decide, by decide, by decide, by decide, by decide, rfl, rfl, by intro l h; cases h⟩,
    ⟨by decide, rfl, by decide, by decide, by decide, by decide, by decide, by decide, rfl, rfl, by intro l h; cases h⟩, by decide, by decide,
    ⟨by decide, rfl, by decide, by decide, by decide, by decide, by decide, by decide, rfl, rfl, by intro l h; cases h⟩⟩
theorem witness_field_bus_frames : (onBus).m.awake = true ∧ (onBus).m.busOff = none ∧ (onBus).m.nodeId ≠ 0 ∧ (onBus).m.objD 0x1030 0x05 100 ≠ 0 := by decide

/-- A module whose ring pair 63 is the PF's, enabled, with one entry in its submission ring. -/
def onRing (b : Job := runJob) (st : BitVec 4 := 5) : State :=
  { m := { (served b st).m with pairs := [(63, { en := true, stat := 1, sqTail := 1, owner := some 0x20 })], cores := [] } }
/-- Commands of that pair, for job 0 in the states they need. -/
theorem witness_commands : (onRing).takesCmd 63 {} [] false ∧ (onRing {}).takesCmd 63 {} [.empty] false ∧
    (onRing { runJob with state := .halted }).takesCmd 63 {} [.loaded, .paused, .halted, .timeExhausted, .faulted] false ∧
    (onRing { runJob with state := .loaded }).takesCmd 63 {} [.loaded] false ∧ (onRing).takesCmd 63 {} [.run] false ∧
    (onRing { runJob with state := .paused }).takesCmd 63 {} [.run, .paused] false ∧
    (onRing { runJob with state := .paused }).takesCmd 63 {} [.run, .paused, .halted, .timeExhausted, .faulted] false ∧
    (onRing).takesCmd 63 {} [.loaded, .run, .paused, .halted] false ∧
    (onRing { runJob with state := .paused }).takesCmd 63 {} [.paused, .halted, .timeExhausted, .faulted] true ∧
    (onRing { runJob with state := .paused }).takesCmd 63 {} [.loaded, .paused] true ∧
    ((onRing).m.takeCmd 63 { unknown := true }).isSome = true := by
  and_intros <;> decide +kernel
theorem witness_load_command : let e : Sub := { a0 := 2 ^ 20, a1 := 512 }
    let s := onRing { staging := ⟨2 ^ 20, 512⟩ }
    s.takesCmd 63 e [.empty] false ∧ e.a0.toNat % 64 = 0 ∧ e.a1.toNat = 512 ∧ e.a0.toNat + e.a1.toNat ≤ (s.m.job 0).staging.base + (s.m.job 0).staging.size ∧
      s.m.loadQueued 0 = false ∧ s.m.onlyAlwaysOn = false := by decide +kernel
theorem witness_pause_command : let e : Sub := { a0 := 100 }
    (onRing).takesCmd 63 e [.run] false ∧ e.a0 ≠ 0 ∧ Tag.lt ⟨e.a0, 0⟩ ((onRing).m.job 0).gvt = false ∧ ((onRing).m.job 0).pause = none ∧ (onRing).m.onlyAlwaysOn = false := by
  decide +kernel
theorem witness_object_commands : let e : Sub := { a0 := 0x240001, len := 2 }
    let s := (onRing)
    s.m.cleanMemory ∧ s.takesCmd 63 e [] false ∧ Mach.bufOk e = true ∧ e.a0.extractLsb' 8 16 = (0x2400 : BitVec 16) ∧ e.a0.truncate 8 = (1#8) ∧
      s.takesWrite (.ring 63) 0x2400 1 [16, 0] ∧ ({ s.m with agent := some (access .sop) }).agent.isSome = true := by
  exact ⟨by decide +kernel, by decide +kernel, by decide, by decide, by decide,
    ⟨by decide, rfl, rfl, by decide, _, by rfl, by rfl⟩, rfl⟩
theorem witness_data_commands : let e : Sub := { a0 := 0x20A0000, a1 := 100, len := 64 }
    let b : Job := { runJob with dmSize := 64, ncount := [(0x105, 1)], staging := ⟨2 ^ 25, 64⟩ }
    let s := onRing b
    s.m.cleanMemory ∧ (s.m.freeHubSlot).isSome = true ∧ s.m.hubWait = [] ∧ e.host = 0 ∧ (64 : Word) ≠ 0 ∧ (64 : Word).toNat % 64 = 0 ∧ (s.m.cmdNode e).isSome = true ∧ e.a2.extractLsb' 16 3 ≠ (3#3) ∧ Tag.lt ⟨e.a1, e.a2.truncate 12⟩ (s.m.job 0).sh = false ∧
      s.m.dmRange { e with a0 := 0 } = true ∧ s.m.stageRange { e with a0 := 2 ^ 25 } = true ∧ e.host.toNat % 64 = 0 ∧ e.len ≠ 0 ∧
      (onRing { b with state := .paused }).m.storesWait 63 { e with a0 := 0 } = false ∧ (∀ r ∈ s.m.cmdNode e, (r.pe, r.node) ∉ (s.m.job r.job).undoLost) := by decide +kernel
/-- Each of the four commands whose host reads have ended, in the state it needs. -/
theorem witness_host_reads : let b : Job := { runJob with dmSize := 64, ncount := [(0x105, 1)], staging := ⟨2 ^ 25, 64⟩ }
    let waits := fun (b : Job) (e : Sub) (op : HostOp) (d : List Byte) => ({ (onRing b).m with
      pairs := [(63, { en := true, stat := 1, owner := some 0x20, cur := some ⟨1, true, some 0, .fetch op e d⟩ })] } : Mach)
    let o : Sub := { a0 := 0x240001, len := 2 }
    let c : Sub := { a0 := 0x20A0000, a1 := 100, host := 64, len := 64 }
    let w : Sub := { len := 64 }
    let i : Sub := { a0 := 2 ^ 25, len := 64 }
    let ok := fun (m : Mach) (e : Sub) (op : HostOp) => (m.hostSpec op e).2.2 = true ∧
      m.cmdCheck 63 e (m.hostSpec op e).1 (m.hostSpec op e).2.1 = .ok ∧ m.pairUp 63 = false ∧ m.cleanMemory
    ok (waits b o .objWrite [16, 0]) o .objWrite ∧ ok (waits b c .control (List.replicate 8 0)) c .control ∧
      ok (waits { b with state := .paused } w .dmWrite (List.replicate 64 1)) w .dmWrite ∧ ok (waits b i .stageIn (List.replicate 64 1)) i .stageIn ∧
      (waits b c .control []).freeHubSlot.isSome = true ∧ (waits b c .control []).hubWait = [] ∧
      Tag.lt ⟨c.a1, c.a2.truncate 12⟩ ((waits b c .control []).job 0).sh = false ∧ ((waits b o .objWrite []).pair 63).stat = 1 := by
  decide +kernel
theorem witness_ring_pairs : let s := (onRing)
    s.m.barOk 0 = true ∧ s.m.pairMine 0 63 = true ∧ (s.m.pair 63).en = true ∧ (s.m.pair 0).en = false ∧
      ((16 : Word).truncate 16 - (s.m.pair 63).sqHead).toNat ≤ 2 ^ (s.m.pair 63).sqLog.toNat ∧
      2 ^ (s.m.pair 63).sqLog.toNat < ((17 : Word).truncate 16 - (s.m.pair 63).sqHead).toNat ∧ (s.m.pair 63).stat = 1 := by decide +kernel
theorem witness_completion : let c : RingCmd := ⟨1, true, none, .done 0 0⟩
    let s : State := { m := { served.m with pairs := [(63, { en := true, stat := 1, cqTail := 15, cur := some c })] } }
    (s.m.pair 63).cur = some c ∧ c.wait = .done 0 0 ∧ c.noIrq = true ∧
      ((s.m.pair 63).cqTail - (s.m.pair 63).cqHead).toNat < 2 ^ (s.m.pair 63).cqLog.toNat ∧ s.m.dmaOk 0 = true := by decide +kernel
theorem witness_registers : coreLive ((onCore []).m.core 0) = true ∧ Mach.pmode ((onCore []).m.core 0) = true ∧
    coreLive ((onCore [] [] 0).m.core 0) = true ∧ Mach.pmode ((onCore [] [] 0).m.core 0) = false ∧ 0x10010000 ≤ (0x10010000 : Word).toNat ∧
    (served).m.barOk 0 = true ∧ (served).m.setNow = [] ∧ (0xFFFF8 : Word).toNat % 8 = 0 ∧ State.reset.m.barOk 8 = false := by decide +kernel
theorem witness_aperture : let b : Job := { runJob with staging := ⟨2 ^ 21, 2 ^ 21⟩ }
    let w : Word := 0xC000000000200000
    let s : State := { m := { (served b).m with bar2Pf := 6, loads := [(0, none, 0)], funcs := [(0, { mse := true, bme := true, ap := [(32767, w)] })] } }
    s.m.barOk 0 = true ∧ s.m.cleanMemory ∧ s.m.loads ≠ [] ∧ s.m.apEntry 0 0xFFFFFFFFF = some w ∧ s.m.apEntry 0 0 = none ∧
      (0xFFFFFFFFF : BitVec 36).toNat < s.m.bar2Size 0 ∧ ¬ (0xFFFFFFFFF : BitVec 36).toNat < { s.m with bar2Pf := 5 }.bar2Size 0 ∧ w.getLsbD 62 = true ∧
      (32767 : BitVec 15).toNat < Mach.fnEntries 0 ∧ s.m.pageOk 0 32767 w = true := by
  decide +kernel
theorem witness_functions : let f : Func := { msixEn := false, fmask := false, unmasked := [3], pendVec := [(3, none)], bme := true }
    let m : Mach := { (served).m with vfOn := 1, funcs := [(8, f)], up := [⟨none, 0, 4, .value 0, none⟩] }
    m.pw.linkUp = true ∧ m.vfOn.getLsbD 0 = true ∧ (m.job 0).state = .run ∧ (m.func 8).msixEn = false ∧ (m.func 8).fmask = false ∧
      3 ∈ (m.func 8).unmasked ∧ (m.func 8).pendVec = [(3, none)] ∧ (m.func 8).mse = false ∧ (3 : BitVec 3).toNat ≤ 3 ∧ m.upMay ⟨none, 0, 4, .value 0, none⟩ = true ∧ (m.func 8).bme = true ∧ (m.func 8).d3 = false ∧ (m.func 8).heldVec = [] ∧
      m.up = [⟨none, 0, 4, .value 0, none⟩] := by decide +kernel
/-- A read request of a pair, and the completion entry of its last command. -/
theorem witness_pair_tlps : let rd : Tlp := ⟨some 0, 0, 0, .hostRead 0 0 512, some 3⟩
    let wr : Tlp := ⟨some 0, 0, 16, .hostWrite 0 0 (List.replicate 16 0), some 3⟩
    let c : RingCmd := ⟨1, true, none, .written⟩
    let m : Mach := { (served).m with pairs := [(3, { en := true, stat := 1, cur := some c })] }
    m.pw.linkUp = true ∧ { m with up := [rd] }.upMay rd = true ∧ { m with up := [wr] }.upMay wr = true ∧ rd.pair = some 3 ∧
      rd.msg = .hostRead 0 0 512 ∧ wr.msg = .hostWrite 0 0 (List.replicate 16 0) ∧ (m.pair 3).cur = some c ∧ c.wait = .written ∧
      c.noIrq = true ∧ (m.pair 3).sqHead = (m.pair 3).sqTail := by decide +kernel
theorem witness_mailboxes : let c : RingCmd := ⟨1, true, none, .dma 0 64⟩
    let v : Word := at64 1 63 ||| at64 1 48 ||| at64 0x2400 32 ||| at64 1 24
    let m : Mach := { (served).m with agent := some (access .sop), pairs := [(3, { stat := 1, cur := some c })] }
    m.barOk 0 = true ∧ v.getLsbD 63 = true ∧ (m.mailbox 0).busy = false ∧ m.agent.isSome = true ∧ v.extractLsb' 48 8 = (1 : Byte) ∧
      (m.pair 3).cur = some c ∧ c.wait = .dma 0 64 ∧ (m.pair 3).stat = 1 ∧ Mach.peerType (peerPkt 1 [0x01240001]) = 0x01 ∧
      bits (((peerPkt 1 [0x01240001]).data).headD 0) 7 0 = 1 ∧ bits (((peerPkt 1 [0x01240001]).data).headD 0) 127 64 = 0 := by decide +kernel

/-- The always-on domain with VIN at a level, in a state of the module. -/
def powered (p : Power) (st : BitVec 4 := 1) : State := { m := { pw := { p with vinMv := 12000 }, mstate := st } }
theorem witness_state_writes : (powered {}).takesWrite .sop 0x1012 0x03 (natBytes 4 42435) ∧ (powered {}).takesWrite .sop 0x1010 0x02 [1] ∧
    (powered { ovrWin := true, held := true }).takesWrite .sop 0x1012 0x04 [1] ∧
    (powered { rails := 0x3FF } 3).takesWrite .sop 0x1010 0x02 [2] ∧ (served {} 3).takesWrite .sop 0x1010 0x02 [4] ∧
    (served {} 3).takesWrite .sop 0x1010 0x02 [5] ∧
    ({ m := { (powered {} 7).m with ic := { kept := some ({}, []) } } } : State).takesWrite .sop 0x1010 0x02 [3] := by
  refine ⟨?_, ?_, ?_, ?_, ?_, ?_, ?_⟩ <;> exact ⟨by decide, rfl, rfl, by decide, _, by rfl, by rfl⟩
theorem witness_snowdrop : (∀ f, ((powered { rails := 0x3FF } 3).m.port f).state = 0) ∧ (powered { rails := 0x3FF } 3).m.snowReady = true ∧
    { (powered {} 3).m with cores := [(0, { run := .running })] }.snowReady = false ∧ (powered { snow := some 98 } 3).m.pw.snow = some 98 ∧
    98 + 1 < 100 ∧ (powered { snow := some 98 } 3).m.ic.wake = false ∧ (powered { snow := some 98 } 3).m.agentQ = [] ∧
    (powered {}).m.pw.waking = false ∧ (powered { waking := true }).m.pw.waking = true ∧ 100 ≤ 99 + 1 ∧ (powered {} 4).m.mstate ≠ 3 ∧
    (powered {} 7).m.pw.stage ≠ 8 ∧ (powered {} 7).m.diesOut ≠ 15 ∧ (powered {} 7).m.objD 0x6010 0x01 1 = 1 := by
  exact ⟨fun _ => rfl, by decide +kernel, by decide +kernel, rfl, by decide, rfl, rfl, rfl, rfl, by decide, by decide, by decide, by decide +kernel,
    by decide +kernel⟩
/-- VIN at the bounds: the first level above 4.5 V, the last below 7.0 V and the bounds of the range from BOOT on. -/
theorem witness_supply : ({ vinUp := false } : Power).vinUp = false ∧ 4500 < (4501 : BitVec 16).toNat ∧ (powered {}).m.awake = true ∧
    (powered { rails := 0x3FF } 2).m.hubOn = true ∧ (powered {}).m.ic.kept = none ∧ 7000 ≤ (powered {}).m.pw.vinMv ∧ (6999 : BitVec 16).toNat < 7000 ∧
    2 ≤ (powered {} 2).m.mstate.toNat ∧ (6499 : BitVec 16).toNat < 6500 ∧ 18500 < (18501 : BitVec 16).toNat ∧
    ({ refclk := false } : Power).refclk = false ∧ ({ trip := true } : Power).trip = true := by decide +kernel
theorem witness_boot : (powered {}).m.awake = true ∧ (powered {}).m.mstate = 1 ∧ (powered {}).m.pw.held = false ∧
    (powered {}).m.pw.bootReq = true ∧ (powered { stage := 1 } 2).m.mstate = 2 ∧ (powered { stage := 1 } 2).m.pw.stage = 1 ∧
    (powered { stage := 9 } 2).m.pw.stage = 9 ∧ (powered { stage := 3 } 2).m.pw.stage = 3 ∧ (powered { stage := 5 } 2).m.pw.stage = 5 ∧
    (⟨none, 0, false⟩ : BadLine).tile = none ∧ (powered { stage := 4 } 2).m.slotFault 0 ≠ none ∧ (powered { stage := 4 } 2).m.slotFault (2 ^ 23) ≠ none ∧
    (powered { stage := 8 } 2).m.objD 0x6017 0x01 1 = 1 ∧ ((powered { stage := 8 } 2).m.port 7).seen = false ∧ (powered { stage := 7 } 2).m.pw.stage ∈ [1, 2, 3, 4, 5, 7] ∧
    (powered { trip := true }).m.pw.trip = true ∧ (powered { held := true }).m.pw.held = true ∧ (powered { ovr := true }).m.pw.ovr = true := by decide
/-- Power over and under the cap, and every bound of the clock, the throttle, the current and the temperature. -/
theorem witness_power : let s : State := { m := { (powered { rails := 0x3FF } 5).m with wallRun := true } }
    let l : State := { m := { s.m with objs := [(0x200003, 1000)] } }
    s.m.pw.pgood = true ∧ s.m.wallRun = true ∧ s.m.objD 0x2000 0x02 0 = 0 ∧ s.m.powerCap < (865 : BitVec 16).toNat ∧ 1000 < s.m.clockMhz ∧
      l.m.clockMhz ≤ 1000 ∧ l.m.throttle < 3 ∧ 20 * (820 : BitVec 16).toNat ≤ 19 * s.m.powerCap ∧ s.m.pw.thermal = false ∧
      9 ≤ (powered { quiet := 9, shed := [.clock] }).m.pw.quiet ∧ (powered { quiet := 9, shed := [.clock] }).m.pw.shed = .clock :: [] ∧
      (71999 : BitVec 32).toNat < 72000 ∧ 72000 ≤ (72000 : BitVec 32).toNat ∧ s.m.ms.failTiles.getLsbD (0 : TileId).toNat = false ∧ s.m.setNow = [] ∧
      105 ≤ (105 : BitVec 32).toInt ∧ (103 : BitVec 32).toInt ≤ 103 ∧ 115 ≤ (115 : BitVec 32).toInt ∧ s.m.hubOn = true ∧ s.m.ic.kept = none ∧
      (2 : BitVec 6).toNat < 3 ∧ (8 : BitVec 6).toNat ≤ 8 ∧ 8 < (9 : BitVec 6).toNat ∧ 98 + 1 < 100 ∧ 100 ≤ 99 + 1 := by decide +kernel
theorem witness_pins : (powered { rails := 0x3FF } 3).m.mstate = 3 ∧ (powered { rails := 0x3FF } 8).m.mstate = 8 ∧
    (powered { rails := 0x3FF } 5).m.mstate ≠ 3 ∧ (powered { rails := 0x3FF } 5).m.mstate ≠ 8 ∧ rateOk 6 = true ∧ widthOk 16 = true ∧ (powered { rails := 0x3FF } 3).m.pw.rails.getLsbD 9 = true ∧
    (powered { perst := true, rails := 0x3FF } 3).m.pw.linkUp = false ∧ (powered { rails := 0x3FF } 3).m.hubOn = true ∧
    (powered { rails := 0x3FF } 3).m.ic.kept = none ∧
    State.reset.m.flashOp = .keep ∧ { State.reset.m with flashOp := .write 0 [1] }.flashOp = .write 0 [1] ∧
    { State.reset.m with flashOp := .repairs [] }.flashOp = .repairs [] ∧
    (let e : ErrEntry := ⟨0, 0, 0, 0, 0, 0, 0, 0, 0⟩
     let l : ErrLog := { queue := [e] }
     l.queue = e :: [] ∧ SMap.get? l.lastByBlock e.block = none ∧ e.perm = false ∧ l.log.length < 1024) := by decide
theorem witness_encoded : encodeBis (.done (.core 0)) = some 0x6C000000 ∧ decodeBis (.core 0) 0x6C000000 = some (.done (.core 0)) := by
  exact ⟨by rfl, by rfl⟩
theorem witness_key_slots : let s : State := { vault := { slots := [(3, .revoked)], lock := true } }
    (match step s with
      | .next _ => true
      | _ => false) = true ∧ SMap.get? s.vault.slots 3 = some .revoked ∧ KeySlot.revoked ≠ .empty ∧ s.vault.lock = true ∧
      s.pending.head? ≠ some .vinLoss := by decide +kernel
theorem witness_bounds : State.reset.m.memOk = true ∧ State.reset.m.bounded = true := by decide +kernel

end Sys2Proof.Tests
end

namespace Sys2Proof.Machine

/-! The clocks of the module: every part of a hub cycle but its own two counts leaves them, however deep it reaches. The deepest are a drained packet and an owed output, which can fault a job and so undo its firings. Each operation on that way keeps the clocks because those it is made of do; as simp lemmas these facts compose along the definitions. -/

/-- An operation on m that gives m' leaves both clocks: the quanta of 1/39 ns and the hub's cycles (R3, R9). -/
@[simp] abbrev Mach.ClocksKept (m m' : Mach) : Prop := m'.quanta = m.quanta ∧ m'.cycle = m.cycle

namespace Mach

/-! Folds and choices keep the clocks where each step or branch does -/

@[simp] theorem ite_quanta (c : Prop) [Decidable c] (a b : Mach) : (if c then a else b).quanta = if c then a.quanta else b.quanta :=
  apply_ite quanta c a b

@[simp] theorem ite_cycle (c : Prop) [Decidable c] (a b : Mach) : (if c then a else b).cycle = if c then a.cycle else b.cycle :=
  apply_ite cycle c a b

@[simp] theorem foldl_clocks {α : Type} {f : Mach → α → Mach} (h : ∀ m a, ClocksKept m (f m a)) (l : List α) (m : Mach) :
    ClocksKept m (l.foldl f m) := by
  induction l generalizing m with
  | nil => exact ⟨rfl, rfl⟩
  | cons a l ih => exact ⟨(ih _).1.trans (h m a).1, (ih _).2.trans (h m a).2⟩

@[simp] theorem foldl_snd_clocks {α β : Type} {f : β × Mach → α → β × Mach} (h : ∀ acc a, ClocksKept acc.2 (f acc a).2)
    (l : List α) (acc : β × Mach) : ClocksKept acc.2 (l.foldl f acc).2 := by
  induction l generalizing acc with
  | nil => exact ⟨rfl, rfl⟩
  | cons a l ih => exact ⟨(ih _).1.trans (h acc a).1, (ih _).2.trans (h acc a).2⟩

theorem ClocksKept.trans {m m1 m2 : Mach} (h : ClocksKept m m1) (h' : ClocksKept m1 m2) : ClocksKept m m2 :=
  ⟨h'.1.trans h.1, h'.2.trans h.2⟩

variable (m : Mach)

/-! What the module reports -/

@[simp] theorem raiseSource_clocks (n : Nat) : ClocksKept m (m.raiseSource n) := by
  obtain ⟨i, c, o, z, h⟩ := m.raiseSource_eq n
  simp [h]

@[simp] theorem evFrame_clocks (b : List Byte) : ClocksKept m (m.evFrame b) := by
  obtain ⟨f, l, o, h⟩ := m.evFrame_eq b
  simp [h]

@[simp] theorem logErr_clocks (sev block reason : Nat) (j : Option JobId) (loc : Nat) (d0 d1 d2 d3 : Word) (perm : Bool) :
    ClocksKept m (m.logErr sev block reason j loc d0 d1 d2 d3 perm) := by
  obtain ⟨l, i, c, o, h, f, u, q, s, z, e⟩ := m.logErr_eq sev block reason j loc d0 d1 d2 d3 perm
  simp [e]

@[simp] theorem setJobState_clocks (j : JobId) (s : JobState) : ClocksKept m (m.setJobState j s) := by
  obtain ⟨t, h, f, u, q, l, o, z, e⟩ := m.setJobState_eq j s
  simp [e]

@[simp] theorem hwSet_clocks (f : EvField) (b : Word) : ClocksKept m (m.hwSet f b) := ⟨rfl, rfl⟩

/-! Memory: reads, writes and check codes -/

@[simp] theorem halfClear_clocks (h : Nat) : ClocksKept m (m.halfClear h) := ⟨rfl, rfl⟩

@[simp] theorem logHalf_clocks (h : Nat) (f : BitVec 36) : ClocksKept m (m.logHalf h f) := by simp [logHalf]

@[simp] theorem halfPoison_clocks (h : Nat) : ClocksKept m (m.halfPoison h) := by simp [halfPoison]

@[simp] theorem halfRead_clocks (h : Nat) : ClocksKept m (m.halfRead h).2 := by
  unfold halfRead
  dsimp only
  split <;> simp

@[simp] theorem halfInject_clocks (h : Nat) : ClocksKept m (m.halfInject h) := by
  unfold halfInject
  dsimp only
  split <;> simp

@[simp] theorem hbmCheck_clocks (a n : Nat) : ClocksKept m (m.hbmCheck a n).2 := by
  unfold hbmCheck
  split
  · simp
  · exact foldl_snd_clocks (fun acc h => by simp) _ (false, m)

@[simp] theorem hbmWrite_clocks (a : Nat) (d : List Byte) : ClocksKept m (m.hbmWrite a d) := by
  unfold hbmWrite
  simp

/-! SRAM -/

@[simp] theorem logPoison_clocks (block loc : Nat) (data : Word) : ClocksKept m (m.logPoison block loc data) := by simp [logPoison]

@[simp] theorem setCh_clocks (die : BitVec 2) (h : Nat) (w : Word) : ClocksKept m (m.setCh die h w) := ⟨rfl, rfl⟩

@[simp] theorem patchInstall_clocks (die : BitVec 2) (e loc : Nat) (lost : Bool) :
    ClocksKept m (m.patchInstall die e loc lost) := by simp [patchInstall]

@[simp] theorem repairNote_clocks (r : RepairRec) : ClocksKept m (m.repairNote r) := by simp [repairNote]

@[simp] theorem patchLimit_clocks (die : BitVec 2) (loc h n : Nat) : ClocksKept m (m.patchLimit die loc h n) := by
  unfold patchLimit
  split
  · simp
  · split
    · simp
    · split <;> simp

@[simp] theorem history_clocks (die : BitVec 2) (loc : Nat) : ClocksKept m (m.history die loc) := by
  unfold history
  dsimp only
  split
  · simp
  · split
    · simp
    · split <;> simp

@[simp] theorem sramCorrected_clocks (die : BitVec 2) (loc : Nat) : ClocksKept m (m.sramCorrected die loc) := by
  simp [sramCorrected]

@[simp] theorem sramWrite_clocks (die : BitVec 2) (loc : Nat) : ClocksKept m (m.sramWrite die loc) := ⟨rfl, rfl⟩

@[simp] theorem sramPut_clocks (t : TileId) (kind unit : Nat) (l : List Nat) : ClocksKept m (m.sramPut t kind unit l) := by
  simp [sramPut]

@[simp] theorem hbmWords_clocks (a : Nat) (ws : List Word) : ClocksKept m (m.hbmWords a ws) := by simp [hbmWords]

@[simp] theorem lineWrite_clocks (a : Nat) (v : Word) : ClocksKept m (m.lineWrite a v) := by simp [lineWrite]

@[simp] theorem cacheWrite_clocks (p : PeId) (k : Nat) : ClocksKept m (m.cacheWrite p k) := by simp [cacheWrite]

/-! The record of a node and its settled record -/

@[simp] theorem setRecW_clocks (r : NRef) (k : Nat) (v : Word) : ClocksKept m (m.setRecW r k v) := by simp [setRecW]

@[simp] theorem setSetlW_clocks (r : NRef) (k : Nat) (l : List Word) : ClocksKept m (m.setSetlW r k l) := by simp [setSetlW]

@[simp] theorem setLast_clocks (r : NRef) (t : Tag) : ClocksKept m (m.setLast r t) := by simp [setLast]

@[simp] theorem setHeld_clocks (r : NRef) (k : Nat) (a b : Word) : ClocksKept m (m.setHeld r k a b) := by simp [setHeld]

@[simp] theorem setSettled_clocks (r : NRef) (k : Nat) (a b : Word) (t : Tag) : ClocksKept m (m.setSettled r k a b t) := by
  simp [setSettled]

@[simp] theorem setSft_clocks (r : NRef) (t : Tag) : ClocksKept m (m.setSft r t) := by simp [setSft]

@[simp] theorem tgtStore_clocks (j : JobId) (i : Nat) (t : Tag) (a b : Word) : ClocksKept m (m.tgtStore j i t a b) := ⟨rfl, rfl⟩

@[simp] theorem tgtForward_clocks (r : NRef) (port : Nat) (old : Word × Word × Tag) (t : Tag) (a b : Word) :
    ClocksKept m (m.tgtForward r port old t a b) := by simp [tgtForward]

@[simp] theorem settle_clocks (r : NRef) (port : Nat) (a b : Word) (t : Tag) : ClocksKept m (m.settle r port a b t) := by
  simp [settle]

/-! The matching store -/

@[simp] theorem putWords_clocks (p : PeId) (pl : Place) (i : Nat) (ws : List Nat) : ClocksKept m (m.putWords p pl i ws) := by
  cases pl <;> simp [putWords]

@[simp] theorem deepReq_clocks (p : PeId) (i : Nat) (j : JobId) : ClocksKept m (m.deepReq p i j) := ⟨rfl, rfl⟩

@[simp] theorem storeEnt_clocks (p : PeId) (pl : Place) (i : Nat) (e : Entry) : ClocksKept m (m.storeEnt p pl i e) := by
  cases pl <;> simp [storeEnt]

@[simp] theorem putEnt_clocks (p : PeId) (pl : Place) (i : Nat) (e : Entry) : ClocksKept m (m.putEnt p pl i e) := by simp [putEnt]

@[simp] theorem dropEnt_clocks (p : PeId) (pl : Place) (i : Nat) : ClocksKept m (m.dropEnt p pl i) := by
  cases pl with
  | iris => simp [dropEnt]
  | mob => simp [dropEnt]
  | deep =>
    unfold dropEnt
    dsimp only
    split
    · split <;> simp
    · simp

@[simp] theorem hregRemove_clocks (p : PeId) (pl : Place) (g : GRef) : ClocksKept m (m.hregRemove p pl g) := by
  cases pl <;> exact ⟨rfl, rfl⟩

@[simp] theorem ovfFreed_clocks (p : PeId) (pl : Place) (g : GRef) : ClocksKept m (m.ovfFreed p pl g) := by
  cases pl <;> exact ⟨rfl, rfl⟩

@[simp] theorem freeGroup_clocks (p : PeId) (pl : Place) (g : GRef) : ClocksKept m (m.freeGroup p pl g) := by
  simp [freeGroup, -List.foldl_reverse]

@[simp] theorem spillEnd_clocks (p : PeId) : ClocksKept m (m.spillEnd p) := by simp [spillEnd]

/-! What Emit does with a firing -/

@[simp] theorem mergeJournaled_clocks (r : NRef) (o : SRec) : ClocksKept m (m.mergeJournaled r o) := by simp [mergeJournaled]

@[simp] theorem formItems_clocks (r : NRef) (kind : BitVec 2) (sel : Nat) (ctag tag : Tag) (gen : Byte) (ord : Nat) (fs : Bool)
    (a b : Word) : ClocksKept m (m.formItems r kind sel ctag tag gen ord fs a b) := by simp [formItems, probeSend]

@[simp] theorem emitHeld_clocks (r : NRef) (k : Nat) (fs : Bool) (a b : Word) (tag : Tag) (gen : Byte) :
    ClocksKept m (m.emitHeld r k fs a b tag gen) := by simp [emitHeld]

@[simp] theorem emitState_clocks (r : NRef) (w : Nat) (v : Word) (tag : Tag) (gen : Byte) :
    ClocksKept m (m.emitState r w v tag gen) := by simp [emitState]

@[simp] theorem emitArrived_clocks (r : NRef) (e : EmitJob) : ClocksKept m (m.emitArrived r e) := by simp [emitArrived]

@[simp] theorem storeToMem_clocks (r : NRef) (s : SRec) : ClocksKept m (m.storeToMem r s) := by simp [storeToMem]

@[simp] theorem writeJournal_clocks (r : NRef) (e : EmitJob) : ClocksKept m (m.writeJournal r e) := by simp [writeJournal]

@[simp] theorem commandDone_clocks (r : NRef) (tag : Tag) : ClocksKept m (m.commandDone r tag) := by simp [commandDone]

@[simp] theorem command_clocks (r : NRef) (e : EmitJob) (t : Token) : ClocksKept m (m.command r e t) := by
  unfold command
  split <;> simp

@[simp] theorem emitRecord_clocks (r : NRef) (e : EmitJob) (x : ERec) (ord : Nat) : ClocksKept m (m.emitRecord r e x ord) := by
  simp [emitRecord]

@[simp] theorem emitBegin_clocks (r : NRef) (e : EmitJob) : ClocksKept m (m.emitBegin r e) := by
  unfold emitBegin
  split <;> simp

/-! What a fault of a job undoes -/

@[simp] theorem freeEntries_clocks (t : TileId) (l : List Nat) : ClocksKept m (m.freeEntries t l) := by
  simp [freeEntries, freedSignal]

@[simp] theorem restoreState_clocks (r : NRef) (es : List (Nat × JEntry)) : ClocksKept m (m.restoreState r es) := by
  simp [restoreState]

@[simp] theorem rebuildHeld_clocks (r : NRef) (t : Option Tag) : ClocksKept m (m.rebuildHeld r t) := by
  refine ClocksKept.trans (foldl_clocks (fun m k => ?_) _ m) (setLast_clocks _ r _)
  dsimp only
  split <;> simp

@[simp] theorem foldGroup_clocks (p : PeId) (pl : Place) (g : GRef) : ClocksKept m (m.foldGroup p pl g) := by simp [foldGroup]

@[simp] theorem absorbCount_clocks (j : JobId) (n : Nat) : ClocksKept m (m.absorbCount j n) := by simp [absorbCount]

@[simp] theorem absorbJob_clocks (j : JobId) : ClocksKept m (m.absorbJob j) := by simp [absorbJob]

@[simp] theorem undone_clocks (j : JobId) (t : TileId) (n : Nat) : ClocksKept m (m.undone j t n) := by simp [undone]

@[simp] theorem undoLost_clocks (t : TileId) (e : Nat) : ClocksKept m (m.undoLost t e).2 := by
  refine foldl_snd_clocks (fun acc w => ?_) _ (false, m)
  dsimp only
  split <;> simp

@[simp] theorem undoFiring_clocks (r : NRef) (es : List (Nat × JEntry)) : ClocksKept m (m.undoFiring r es) := by
  simp [undoFiring]

@[simp] theorem undoJob_clocks (j : JobId) : ClocksKept m (m.undoJob j) := by simp [undoJob]

@[simp] theorem abandonJob_clocks (j : JobId) : ClocksKept m (m.abandonJob j) := by simp [abandonJob]

@[simp] theorem completeCmd_clocks (k : Nat) (status result : BitVec 32) : ClocksKept m (m.completeCmd k status result) := by
  unfold completeCmd
  split
  · split <;> simp
  · simp

@[simp] theorem endWaits_clocks (j : JobId) : ClocksKept m (m.endWaits j) := by simp [endWaits]

@[simp] theorem faultJob_clocks (j : JobId) (reason block loc : Nat) (d0 d1 d2 d3 : Word) :
    ClocksKept m (m.faultJob j reason block loc d0 d1 d2 d3) := by
  simp [faultJob, closeSoon]


/-! The reads of a settled record, and the outputs that wait for one -/

@[simp] theorem regionFetch_clocks (j : JobId) (l : List (Nat × Nat)) : ClocksKept m (m.regionFetch j l).2 := by
  induction l generalizing m with
  | nil => simp [regionFetch]
  | cons x l ih =>
    unfold regionFetch
    dsimp only
    split
    · simp
    · exact (m.hbmCheck_clocks x.1 x.2).trans (ih _)

@[simp] theorem cutOff_clocks (t : TileId) (j : JobId) : ClocksKept m (m.cutOff t j).2 := by
  unfold cutOff
  split
  · simp
  · dsimp only
    split <;> simp

@[simp] theorem peFetch_clocks (r : NRef) (l : List (Nat × Nat)) : ClocksKept m (m.peFetch r l).2 := by
  have h := m.cutOff_clocks (peTile r.pe) r.job
  unfold peFetch
  split
  · next heq => simpa [heq] using h
  · next heq => rw [heq] at h; exact h.trans (regionFetch_clocks _ _ _)

@[simp] theorem settledFetch_clocks (r : NRef) : ClocksKept m (m.settledFetch r).2 := m.peFetch_clocks r _

@[simp] theorem driveOutput_clocks (j : JobId) (i n : Nat) : ClocksKept m (m.driveOutput j i n) := by
  unfold driveOutput
  dsimp only
  split
  · simp
  · generalize hm : ({ m with tgt := { m.tgt with owed := SMap.erase m.tgt.owed i } } : Mach) = m0
    have h : ClocksKept m (m0.settledFetch (m.outNode j i)).2 := by simp [← hm]
    split
    · next heq => simpa [heq] using h
    · next heq =>
      rw [heq] at h
      split <;> simpa using h

@[simp] theorem tickOutputs_clocks : ClocksKept m m.tickOutputs := by simp [tickOutputs]

/-! The hub's packets -/

@[simp] theorem enq_clocks (q : Nat) (p : Packet) (dest : BitVec 5) : ClocksKept m (m.enq q p dest) := ⟨rfl, rfl⟩

@[simp] theorem freeSlot_clocks (src : BitVec 16) (slot : BitVec 14) : ClocksKept m (m.freeSlot src slot) := by
  simp [freeSlot]

@[simp] theorem intoDie_clocks (p : Packet) : ClocksKept m (m.intoDie p) := by simp [intoDie]

@[simp] theorem toPort_clocks (f : BitVec 3) (p : Packet) : ClocksKept m (m.toPort f p) := ⟨rfl, rfl⟩

@[simp] theorem hubRelease_clocks (src : BitVec 16) (slot : BitVec 14) : ClocksKept m (m.hubRelease src slot) := by
  simp [hubRelease]

@[simp] theorem peerErr_clocks (p : Packet) : ClocksKept m (m.peerErr p) := by
  unfold peerErr
  dsimp only
  split
  · simp
  · split <;> simp

@[simp] theorem toFabric_clocks (p : Packet) (mo : Byte) : ClocksKept m (m.toFabric p mo) := by
  unfold toFabric
  split <;> simp

@[simp] theorem hubPlace_clocks (slot : BitVec 14) (src : BitVec 16) (t : Token) (tag : Tag) :
    ClocksKept m (m.hubPlace slot src t tag) := by simp [hubPlace, hubTerm, hubReport]

@[simp] theorem hubDrain_clocks : ClocksKept m m.hubDrain := by
  unfold hubDrain
  split
  · simp
  · split
    · simp
    · split <;> simp

/-! The receive buffers of the Fabric ports -/

@[simp] theorem sendCredit_clocks (f : BitVec 3) : ClocksKept m (m.sendCredit f) := ⟨rfl, rfl⟩

@[simp] theorem unitsFreed_clocks (f : BitVec 3) (vc n : Nat) : ClocksKept m (m.unitsFreed f vc n) := by simp [unitsFreed]

/-- A packet that the hub takes from a port leaves the clocks. -/
theorem hubTake_clocks {m m' : Mach} {f : BitVec 3} {p : Packet} (h : m.hubTake f p = some m') : ClocksKept m m' := by
  unfold hubTake at h
  dsimp only at h
  split at h
  · obtain rfl := Option.some.inj h
    simp
  · split at h
    · split at h
      · obtain rfl := Option.some.inj h
        simp
      · cases h
    · obtain rfl := Option.some.inj h
      simp

@[simp] theorem drainVc_clocks (f : BitVec 3) (vc k : Nat) : ClocksKept m (m.drainVc f vc k) := by
  induction k generalizing m with
  | zero => simp [drainVc]
  | succ k ih =>
    unfold drainVc
    split
    · simp
    · split
      · simp
      · next h => exact (hubTake_clocks h).trans (by simp [ih])

@[simp] theorem drainPort_clocks (f : BitVec 3) : ClocksKept m (m.drainPort f) := by simp [drainPort]

@[simp] theorem tickPorts_clocks : ClocksKept m m.tickPorts := by simp [tickPorts]

/-! The other parts of a hub cycle -/

@[simp] theorem tickWall_clocks (q : Nat) : ClocksKept m (m.tickWall q) := by simp [tickWall]

@[simp] theorem tickWall_pw (q : Nat) : (m.tickWall q).pw = m.pw := by
  unfold tickWall
  split
  · rfl
  · dsimp only
    split <;> rfl

@[simp] theorem upWindow_clocks : ClocksKept m m.upWindow := ⟨rfl, rfl⟩

@[simp] theorem tickPins_clocks : ClocksKept m m.tickPins := ⟨rfl, rfl⟩

@[simp] theorem droop_clocks (t : TileId) : ClocksKept m (m.droop t) := ⟨rfl, rfl⟩

@[simp] theorem tickLimit_clocks (n : Nat) : ClocksKept m (m.tickLimit n) := by simp [tickLimit]

@[simp] theorem tickJournals_clocks (n : Nat) : ClocksKept m (m.tickJournals n) := by simp [tickJournals]

@[simp] theorem tickLocks_clocks : ClocksKept m m.tickLocks := by simp [tickLocks]

/-! The hub cycle -/

/-- While the always-on domain is down nothing passes. -/
theorem tick_asleep (h : m.awake = false) : m.tick = m := by simp [tick, h]

/-- A hub cycle is 26 quanta, and one of the hub's cycles while the hub runs. -/
theorem tick_clocks (h : m.awake = true) :
    m.tick.quanta = m.quanta + 26 ∧ m.tick.cycle = m.cycle + (if m.hubOn then 1 else 0) := by
  unfold tick
  cases hub : m.pw.rails[0] with
  | false => simp [h, hubOn, hub, hubQuanta]
  | true => simp [h, hubOn, hub, hubQuanta]

end Mach

/-- With no command waiting a step is a hub cycle of the module. -/
theorem step_idle {s : State} (h : s.pending = []) : step s = .next { s with m := s.m.tick } := by
  simp [step, h]

end Sys2Proof.Machine

section
open Sys2Proof Sys2Proof.Machine

/-- Settles O2: the parts of a hub cycle after its own counts leave both clocks. -/
theorem idleStepIsOneHubCycle : Obligations.IdleStepIsOneHubCycle := by
  intro s hp
  rw [step_idle hp]
  refine ⟨fun ha => ?_, fun ha => ?_⟩
  · rw [s.m.tick_asleep ha]
  · obtain ⟨hq, hc⟩ := s.m.tick_clocks ha
    exact ⟨_, rfl, hq, rfl, hp, hc⟩

end

namespace Sys2Proof.Machine

/-! The queue of waiting commands: an operation on the whole state, which an object, the field bus, the host or a core's store asks for, changes the module and the key store alone. -/

namespace State

variable (s : State)

/-- A choice between states leaves the queue where both do. -/
@[simp] theorem ite_pending (c : Prop) [Decidable c] (a b : State) : (if c then a else b).pending = if c then a.pending else b.pending :=
  apply_ite State.pending c a b

/-! The object agent -/

@[simp] theorem lift_pending (x : Err × Mach) : (s.lift x).2.pending = s.pending := rfl

@[simp] theorem objEffect_pending (p : Path) (idx sub n : Nat) (d : List Byte) : (s.objEffect p idx sub n d).2.pending = s.pending := by
  unfold objEffect
  dsimp only
  split
  · rfl
  · split
    · rfl
    · split <;> try rfl
      split <;> rfl

@[simp] theorem objWrite_pending (p : Path) (idx sub : Nat) (d : List Byte) : (s.objWrite p idx sub d).2.pending = s.pending := by
  unfold objWrite
  split
  · rfl
  · split
    · rfl
    · exact objEffect_pending ..

@[simp] theorem serve_pending (a : Access) : (s.serve a).pending = s.pending := by
  unfold serve
  cases h : a.wr <;> simp

@[simp] theorem drain_pending (l : List Access) : (State.drain l s).pending = s.pending := by
  induction l generalizing s with
  | nil => rfl
  | cons a r ih => simp [drain, ih]

@[simp] theorem submit_pending (a : Access) : (s.submit a).pending = s.pending := by simp [submit]

@[simp] theorem endAccess_pending (f : Access → Access) : (s.endAccess f).pending = s.pending := by
  unfold endAccess
  split <;> simp

@[simp] theorem objDone_pending (v : Word) : (s.objDone v).pending = s.pending := by
  unfold objDone
  split <;> simp

@[simp] theorem writeObj_pending (via : Path) (idx : BitVec 16) (sub : Byte) (data : List Byte) :
    (s.writeObj via idx sub data).pending = s.pending := by simp [writeObj]

@[simp] theorem peerObject_pending : s.peerObject.pending = s.pending := by
  unfold peerObject
  split <;> simp

/-! The field bus -/

@[simp] theorem sopLocal_pending (b : List Byte) (idx : BitVec 16) (sub seg : Byte) (tlen : Nat) (e : Err) (data : List Byte) :
    (s.sopLocal b idx sub seg tlen e data).pending = s.pending := rfl

@[simp] theorem sopRead_pending (b : List Byte) (idx : BitVec 16) (sub : Byte) : (s.sopRead b idx sub).pending = s.pending := by
  simp [sopRead]

@[simp] theorem sopWrite_pending (b : List Byte) (idx : BitVec 16) (sub : Byte) : (s.sopWrite b idx sub).pending = s.pending := by
  simp [sopWrite]

@[simp] theorem sopReadSeg_pending (b : List Byte) : (s.sopReadSeg b).pending = s.pending := by
  unfold sopReadSeg
  split <;> simp [segLost]

@[simp] theorem sopWriteSeg_pending (b : List Byte) : (s.sopWriteSeg b).pending = s.pending := by
  unfold sopWriteSeg
  split <;> simp [segLost]

@[simp] theorem sopAbort_pending (b : List Byte) : (s.sopAbort b).pending = s.pending := by simp [sopAbort]

@[simp] theorem sopLock_pending (b : List Byte) : (s.sopLock b).pending = s.pending := by simp [sopLock]

/-- A frame leaves the queue where the request it carries does. -/
theorem sopFrame_pending (cmd : Nat) (ident : BitVec 11) (b : List Byte) {act : State → State} (h : ∀ s, (act s).pending = s.pending) :
    (s.sopFrame cmd ident b act).pending = s.pending := by
  unfold sopFrame sopRequest
  dsimp only
  split
  · rfl
  · split
    · rfl
    · split <;> simp [h]

/-! The host interface -/

@[simp] theorem mbxReq_pending (fn : BitVec 4) (v : Word) : (s.mbxReq fn v).pending = s.pending := by simp [mbxReq]

@[simp] theorem cmdObj_pending (k : BitVec 6) (idx : BitVec 16) (sub : Byte) (d : List Byte) :
    (s.cmdObj k idx sub d).2.pending = s.pending := objWrite_pending ..

@[simp] theorem cmdLoad_pending (k : BitVec 6) (e : Sub) : (s.cmdLoad k e).pending = s.pending := by
  unfold cmdLoad
  dsimp only
  split
  · split
    · split <;> rfl
    · rfl
  · rfl

/-- A command of a pair leaves the queue where its effect does. -/
theorem command_pending (k : BitVec 6) (e : Sub) (l : List JobState) (args : Bool) {eff : State → State}
    (h : ∀ s, (eff s).pending = s.pending) : (s.command k e l args eff).pending = s.pending := by
  unfold command
  split
  · rfl
  · split <;> simp [h]

/-- A checked command leaves the queue where its effect does. -/
theorem hostChecked_pending (k : BitVec 6) (e : Sub) (op : HostOp) {eff : State → State} (h : ∀ s, (eff s).pending = s.pending) :
    (s.hostChecked k e op eff).pending = s.pending := by
  unfold hostChecked
  dsimp only
  split <;> simp [h]

@[simp] theorem hostData_pending (k : BitVec 6) (op : HostOp) (e : Sub) (d : List Byte) : (s.hostData k op e d).pending = s.pending := by
  refine hostChecked_pending _ k e op fun s => ?_
  cases op <;> simp

@[simp] theorem fetched_pending (k : BitVec 6) (op : HostOp) (e : Sub) (n : Nat) (host : Option (List Byte)) :
    (s.fetched k op e n host).pending = s.pending := by simp [fetched]

/-- A command that may read host memory leaves the queue where its effect does. -/
theorem hostCommand_pending (k : BitVec 6) (e : Sub) (op : HostOp) {eff : State → State} (h : ∀ s, (eff s).pending = s.pending) :
    (s.hostCommand k e op eff).pending = s.pending := by
  unfold hostCommand
  split
  · rfl
  · exact hostChecked_pending _ k e op h

@[simp] theorem dmaDone_pending (k : BitVec 6) (ok : Bool) : (s.dmaDone k ok).pending = s.pending := by
  unfold dmaDone
  dsimp only
  split <;> simp

/-! Registers and stores of a service core -/

theorem hubRegWrite_pending {s t : State} {c : BitVec 4} {a : Nat} {v : Word} (h : s.hubRegWrite c a v = some t) :
    t.pending = s.pending := by
  unfold hubRegWrite at h
  split at h
  · cases h
    exact objDone_pending ..
  · obtain ⟨m, -, rfl⟩ := Option.map_eq_some_iff.mp h
    rfl

@[simp] theorem coreRegWrite_pending (c : BitVec 4) (a : Nat) (v : Word) : (s.coreRegWrite c a v).pending = s.pending := by
  unfold coreRegWrite
  split
  · rfl
  · split
    · split
      next h => simp [hubRegWrite_pending h]
      next => rfl
    · cases s.m.stopWrite _ _ _ v <;> rfl
    · rfl

@[simp] theorem bar0Write_pending (fn : BitVec 4) (o : Nat) (v : Word) : (s.bar0Write fn o v).pending = s.pending := by simp [bar0Write]

@[simp] theorem coreStore_pending (c : BitVec 4) (w : BitVec 2) (ea v : Word) : (s.coreStore c w ea v).pending = s.pending := by
  unfold coreStore
  dsimp only
  split
  · rfl
  · split
    next t h =>
      show t.pending = s.pending
      exact hubRegWrite_pending h
    next => rfl
  · split <;> rfl
  · simp

@[simp] theorem issueStore_pending (c : BitVec 4) (rd ra : BitVec 5) (sp w : BitVec 2) (imm : BitVec 12) :
    (s.issueStore c rd ra sp w imm).pending = s.pending := by
  unfold issueStore
  dsimp only
  split
  · rfl
  · split
    · rfl
    · split <;> simp

end State

/-- Every command answers a next state with the same commands waiting: most change the module alone, and the rest carry out an access of objects or registers, or a command of a ring pair, on the whole state. -/
theorem exec_next (c : Instr) (s : State) : ∃ t, exec c s = .next t ∧ t.pending = s.pending := by
  cases c with
  | objectWrite | pauseTime | resume | orphanDiscard | load | stagingMib | jobCmdRun | jobCmdStop | jobCmdUnload | keySeal
  | keyRevoke | signLock | featureAccept | flEnable | eccInjectSram | eccInjectHbm | errlogIndex | errlogClear | testUnlock
  | ovrUnlock | ovrRelease | nodeIdSrc | moduleCmdBoot | moduleCmdSnowdrop | moduleCmdWake | moduleCmdReboot | moduleCmdStandby =>
    exact ⟨_, rfl, State.writeObj_pending ..⟩
  | objDone => exact ⟨_, rfl, by simp⟩
  | object => exact ⟨_, rfl, State.peerObject_pending _⟩
  | objectTimeout => exact ⟨_, rfl, by cases s.m.agent <;> simp⟩
  | snowdropSaveRetry =>
    show ∃ t, execSnowdropSaveRetry s = .next t ∧ t.pending = s.pending
    unfold execSnowdropSaveRetry
    obtain ⟨_ | e, m⟩ := s.m.snowRetry
    · exact ⟨_, rfl, rfl⟩
    · exact ⟨_, rfl, State.endAccess_pending ..⟩
  | read => exact ⟨_, rfl, s.sopFrame_pending _ _ _ fun s => s.sopRead_pending ..⟩
  | write => exact ⟨_, rfl, s.sopFrame_pending _ _ _ fun s => s.sopWrite_pending ..⟩
  | readSeg => exact ⟨_, rfl, s.sopFrame_pending _ _ _ fun s => s.sopReadSeg_pending _⟩
  | writeSeg => exact ⟨_, rfl, s.sopFrame_pending _ _ _ fun s => s.sopWriteSeg_pending _⟩
  | abort => exact ⟨_, rfl, s.sopFrame_pending _ _ _ fun s => s.sopAbort_pending _⟩
  | lock => exact ⟨_, rfl, s.sopFrame_pending _ _ _ fun s => s.sopLock_pending _⟩
  | cmdObjRead => exact ⟨_, rfl, s.command_pending _ _ _ _ fun s => by simp⟩
  | cmdObjWrite => exact ⟨_, rfl, s.command_pending _ _ _ _ fun s => s.fetched_pending ..⟩
  | cmdLoad => exact ⟨_, rfl, s.command_pending _ _ _ _ fun s => s.cmdLoad_pending ..⟩
  | cmdPause => exact ⟨_, rfl, s.command_pending _ _ _ _ fun s => by simp⟩
  | cmdControl => exact ⟨_, rfl, s.hostCommand_pending _ _ _ fun s => by simp⟩
  | cmdDmWrite | cmdStageIn => exact ⟨_, rfl, by simp [s.hostCommand_pending _ _ _ fun s => s.fetched_pending ..]⟩
  | mbxReq => exact ⟨_, rfl, by simp⟩
  | hostDmaCompletion => exact ⟨_, rfl, State.dmaDone_pending ..⟩
  | registerWrite who => exact ⟨_, rfl, by cases who.the <;> simp⟩
  | st x => exact ⟨_, rfl, by cases x <;> simp⟩
  | _ => exact ⟨_, rfl, rfl⟩

end Sys2Proof.Machine

section
open Sys2Proof Sys2Proof.Machine

/-- Settles O3: a command's answer is `exec_next`'s, and a step is a command or a hub cycle. -/
theorem everyCommandCompletes : Obligations.EveryCommandCompletes := by
  have completes : ∀ c s, ∃ t, exec c s = .next t := fun c s => (exec_next c s).imp fun _ h => h.1
  refine ⟨⟨completes, fun s => ?_⟩, fun c s t h => ?_⟩
  · unfold step
    split
    · exact ⟨_, rfl⟩
    · exact completes ..
  · obtain ⟨t', h', hp⟩ := exec_next c s
    cases h.symm.trans h'
    exact hp

end

namespace Sys2Proof.Machine

/-! The jobs of the module: what the module reports, its memories, the matching store and the writes of Emit leave the map of jobs as it is, and what a fault of a job undoes leaves every job's state. As simp lemmas these facts compose along the definitions. -/

namespace Mach

/-! Folds and choices keep the jobs where each step or branch does -/

@[simp] theorem ite_jobs (c : Prop) [Decidable c] (a b : Mach) : (if c then a else b).jobs = if c then a.jobs else b.jobs :=
  apply_ite jobs c a b

@[simp] theorem foldl_jobs {α : Type} {f : Mach → α → Mach} (h : ∀ m a, (f m a).jobs = m.jobs) (l : List α) (m : Mach) :
    (l.foldl f m).jobs = m.jobs := by
  induction l generalizing m with
  | nil => rfl
  | cons a l ih => exact (ih _).trans (h m a)

@[simp] theorem foldl_snd_jobs {α β : Type} {f : β × Mach → α → β × Mach} (h : ∀ acc a, (f acc a).2.jobs = acc.2.jobs)
    (l : List α) (acc : β × Mach) : (l.foldl f acc).2.jobs = acc.2.jobs := by
  induction l generalizing acc with
  | nil => rfl
  | cons a l ih => exact (ih _).trans (h acc a)

variable (m : Mach)

/-! What the module reports -/

@[simp] theorem raiseSource_jobs (n : Nat) : (m.raiseSource n).jobs = m.jobs := by
  obtain ⟨i, c, o, z, h⟩ := m.raiseSource_eq n
  simp [h]

@[simp] theorem logErr_jobs (sev block reason : Nat) (j : Option JobId) (loc : Nat) (d0 d1 d2 d3 : Word) (perm : Bool) :
    (m.logErr sev block reason j loc d0 d1 d2 d3 perm).jobs = m.jobs := by
  obtain ⟨l, i, c, o, h, f, u, q, s, z, e⟩ := m.logErr_eq sev block reason j loc d0 d1 d2 d3 perm
  simp [e]

@[simp] theorem hwSet_jobs (f : EvField) (b : Word) : (m.hwSet f b).jobs = m.jobs := rfl

/-! Memory: reads, writes and check codes -/

@[simp] theorem halfClear_jobs (h : Nat) : (m.halfClear h).jobs = m.jobs := rfl

@[simp] theorem logHalf_jobs (h : Nat) (f : BitVec 36) : (m.logHalf h f).jobs = m.jobs := by simp [logHalf]

@[simp] theorem halfPoison_jobs (h : Nat) : (m.halfPoison h).jobs = m.jobs := by simp [halfPoison]

@[simp] theorem halfRead_jobs (h : Nat) : (m.halfRead h).2.jobs = m.jobs := by
  unfold halfRead
  dsimp only
  split <;> simp

@[simp] theorem halfInject_jobs (h : Nat) : (m.halfInject h).jobs = m.jobs := by
  unfold halfInject
  dsimp only
  split <;> simp

@[simp] theorem hbmWrite_jobs (a : Nat) (d : List Byte) : (m.hbmWrite a d).jobs = m.jobs := by
  unfold hbmWrite
  simp

/-! SRAM -/

@[simp] theorem logPoison_jobs (block loc : Nat) (data : Word) : (m.logPoison block loc data).jobs = m.jobs := by simp [logPoison]

@[simp] theorem setCh_jobs (die : BitVec 2) (h : Nat) (w : Word) : (m.setCh die h w).jobs = m.jobs := rfl

@[simp] theorem patchInstall_jobs (die : BitVec 2) (e loc : Nat) (lost : Bool) :
    (m.patchInstall die e loc lost).jobs = m.jobs := by simp [patchInstall]

@[simp] theorem repairNote_jobs (r : RepairRec) : (m.repairNote r).jobs = m.jobs := by simp [repairNote]

@[simp] theorem patchLimit_jobs (die : BitVec 2) (loc h n : Nat) : (m.patchLimit die loc h n).jobs = m.jobs := by
  unfold patchLimit
  split
  · simp
  · split
    · simp
    · split <;> simp

@[simp] theorem history_jobs (die : BitVec 2) (loc : Nat) : (m.history die loc).jobs = m.jobs := by
  unfold history
  dsimp only
  split
  · simp
  · split
    · simp
    · split <;> simp

@[simp] theorem sramCorrected_jobs (die : BitVec 2) (loc : Nat) : (m.sramCorrected die loc).jobs = m.jobs := by
  simp [sramCorrected]

@[simp] theorem sramWrite_jobs (die : BitVec 2) (loc : Nat) : (m.sramWrite die loc).jobs = m.jobs := rfl

@[simp] theorem sramPut_jobs (t : TileId) (kind unit : Nat) (l : List Nat) : (m.sramPut t kind unit l).jobs = m.jobs := by
  unfold sramPut
  split
  · rfl
  · exact foldl_jobs (fun m w => m.sramWrite_jobs _ _) l m

@[simp] theorem hbmWords_jobs (a : Nat) (ws : List Word) : (m.hbmWords a ws).jobs = m.jobs := by simp [hbmWords]

@[simp] theorem lineWrite_jobs (a : Nat) (v : Word) : (m.lineWrite a v).jobs = m.jobs := by simp [lineWrite]

@[simp] theorem cacheWrite_jobs (p : PeId) (k : Nat) : (m.cacheWrite p k).jobs = m.jobs := by simp [cacheWrite]

/-! The record of a node and its settled record -/

@[simp] theorem setRecW_jobs (r : NRef) (k : Nat) (v : Word) : (m.setRecW r k v).jobs = m.jobs := by simp [setRecW]

@[simp] theorem setSetlW_jobs (r : NRef) (k : Nat) (l : List Word) : (m.setSetlW r k l).jobs = m.jobs := by simp [setSetlW]

@[simp] theorem setLast_jobs (r : NRef) (t : Tag) : (m.setLast r t).jobs = m.jobs := by simp [setLast]

@[simp] theorem setHeld_jobs (r : NRef) (k : Nat) (a b : Word) : (m.setHeld r k a b).jobs = m.jobs := by simp [setHeld]

@[simp] theorem setSettled_jobs (r : NRef) (k : Nat) (a b : Word) (t : Tag) : (m.setSettled r k a b t).jobs = m.jobs := by
  simp [setSettled]

@[simp] theorem setSft_jobs (r : NRef) (t : Tag) : (m.setSft r t).jobs = m.jobs := by simp [setSft]

@[simp] theorem tgtStore_jobs (j : JobId) (i : Nat) (t : Tag) (a b : Word) : (m.tgtStore j i t a b).jobs = m.jobs := rfl

@[simp] theorem tgtForward_jobs (r : NRef) (port : Nat) (old : Word × Word × Tag) (t : Tag) (a b : Word) :
    (m.tgtForward r port old t a b).jobs = m.jobs := by simp [tgtForward]

@[simp] theorem settle_jobs (r : NRef) (port : Nat) (a b : Word) (t : Tag) : (m.settle r port a b t).jobs = m.jobs := by
  simp [settle]

/-! The matching store -/

@[simp] theorem putWords_jobs (p : PeId) (pl : Place) (i : Nat) (ws : List Nat) : (m.putWords p pl i ws).jobs = m.jobs := by
  cases pl <;> simp [putWords]

@[simp] theorem deepReq_jobs (p : PeId) (i : Nat) (j : JobId) : (m.deepReq p i j).jobs = m.jobs := rfl

@[simp] theorem dropEnt_jobs (p : PeId) (pl : Place) (i : Nat) : (m.dropEnt p pl i).jobs = m.jobs := by
  cases pl with
  | iris => simp [dropEnt]
  | mob => simp [dropEnt]
  | deep =>
    unfold dropEnt
    dsimp only
    split
    · split <;> simp
    · simp

@[simp] theorem hregRemove_jobs (p : PeId) (pl : Place) (g : GRef) : (m.hregRemove p pl g).jobs = m.jobs := by
  cases pl <;> exact rfl

@[simp] theorem ovfFreed_jobs (p : PeId) (pl : Place) (g : GRef) : (m.ovfFreed p pl g).jobs = m.jobs := by
  cases pl <;> exact rfl

@[simp] theorem freeGroup_jobs (p : PeId) (pl : Place) (g : GRef) : (m.freeGroup p pl g).jobs = m.jobs := by
  simp [freeGroup, -List.foldl_reverse]

@[simp] theorem spillEnd_jobs (p : PeId) : (m.spillEnd p).jobs = m.jobs := by simp [spillEnd]

/-! What Emit does with a firing -/

@[simp] theorem mergeJournaled_jobs (r : NRef) (o : SRec) : (m.mergeJournaled r o).jobs = m.jobs := by simp [mergeJournaled]

@[simp] theorem formItems_jobs (r : NRef) (kind : BitVec 2) (sel : Nat) (ctag tag : Tag) (gen : Byte) (ord : Nat) (fs : Bool)
    (a b : Word) : (m.formItems r kind sel ctag tag gen ord fs a b).jobs = m.jobs := by simp [formItems, probeSend]

@[simp] theorem emitHeld_jobs (r : NRef) (k : Nat) (fs : Bool) (a b : Word) (tag : Tag) (gen : Byte) :
    (m.emitHeld r k fs a b tag gen).jobs = m.jobs := by simp [emitHeld]

@[simp] theorem emitState_jobs (r : NRef) (w : Nat) (v : Word) (tag : Tag) (gen : Byte) :
    (m.emitState r w v tag gen).jobs = m.jobs := by simp [emitState]

@[simp] theorem emitArrived_jobs (r : NRef) (e : EmitJob) : (m.emitArrived r e).jobs = m.jobs := by simp [emitArrived]

@[simp] theorem storeToMem_jobs (r : NRef) (s : SRec) : (m.storeToMem r s).jobs = m.jobs := by simp [storeToMem]

@[simp] theorem writeJournal_jobs (r : NRef) (e : EmitJob) : (m.writeJournal r e).jobs = m.jobs := by simp [writeJournal]

@[simp] theorem commandDone_jobs (r : NRef) (tag : Tag) : (m.commandDone r tag).jobs = m.jobs := by simp [commandDone]


@[simp] theorem freeEntries_jobs (t : TileId) (l : List Nat) : (m.freeEntries t l).jobs = m.jobs := by
  simp [freeEntries, freedSignal]

@[simp] theorem restoreState_jobs (r : NRef) (es : List (Nat × JEntry)) : (m.restoreState r es).jobs = m.jobs := by
  simp [restoreState]

@[simp] theorem rebuildHeld_jobs (r : NRef) (t : Option Tag) : (m.rebuildHeld r t).jobs = m.jobs := by
  refine (setLast_jobs _ r _).trans (foldl_jobs (fun m k => ?_) _ m)
  dsimp only
  split <;> simp

@[simp] theorem foldGroup_jobs (p : PeId) (pl : Place) (g : GRef) : (m.foldGroup p pl g).jobs = m.jobs := by simp [foldGroup]

@[simp] theorem absorbCount_jobs (j : JobId) (n : Nat) : (m.absorbCount j n).jobs = m.jobs := by simp [absorbCount]

@[simp] theorem absorbJob_jobs (j : JobId) : (m.absorbJob j).jobs = m.jobs := by simp [absorbJob]

@[simp] theorem undone_jobs (j : JobId) (t : TileId) (n : Nat) : (m.undone j t n).jobs = m.jobs := by simp [undone]

@[simp] theorem undoLost_jobs (t : TileId) (e : Nat) : (m.undoLost t e).2.jobs = m.jobs := by
  refine foldl_snd_jobs (fun acc w => ?_) _ (false, m)
  dsimp only
  split <;> simp

@[simp] theorem emitRecord_jobs (r : NRef) (e : EmitJob) (x : ERec) (ord : Nat) : (m.emitRecord r e x ord).jobs = m.jobs := by
  simp [emitRecord]

@[simp] theorem completeCmd_jobs (k : Nat) (status result : BitVec 32) : (m.completeCmd k status result).jobs = m.jobs := by
  unfold completeCmd
  split
  · split <;> simp
  · simp

/-! Job states -/

/-- The states of the jobs a map holds, by number. -/
def jobStates (l : SMap Job) (k : Nat) : JobState := (SMap.getD l k {}).state

theorem job_state (j : JobId) : (m.job j).state = jobStates m.jobs j.toNat := rfl

@[simp] theorem foldl_jobStates {α : Type} {f : Mach → α → Mach} (h : ∀ m a, jobStates (f m a).jobs = jobStates m.jobs) (l : List α)
    (m : Mach) : jobStates (l.foldl f m).jobs = jobStates m.jobs := by
  induction l generalizing m with
  | nil => rfl
  | cons a l ih => exact (ih _).trans (h m a)

/-- A change of a job that leaves its state leaves every job's. -/
@[simp] theorem modJob_jobStates (j : JobId) {f : Job → Job} (h : ∀ x, (f x).state = x.state) :
    jobStates (m.modJob j f).jobs = jobStates m.jobs := by
  funext k
  unfold jobStates modJob
  rw [SMap.getD_set]
  split
  next e => rw [h, e, job]
  next => rfl

@[simp] theorem command_jobStates (r : NRef) (e : EmitJob) (t : Token) : jobStates (m.command r e t).jobs = jobStates m.jobs := by
  unfold command
  split
  · simp
  · simp
  · simp

@[simp] theorem emitBegin_jobStates (r : NRef) (e : EmitJob) : jobStates (m.emitBegin r e).jobs = jobStates m.jobs := by
  unfold emitBegin
  split <;> simp

@[simp] theorem abandonJob_jobStates (j : JobId) : jobStates (m.abandonJob j).jobs = jobStates m.jobs :=
  foldl_jobStates (fun m p => by simp) _ m

@[simp] theorem undoFiring_jobStates (r : NRef) (es : List (Nat × JEntry)) :
    jobStates (m.undoFiring r es).jobs = jobStates m.jobs := by
  unfold undoFiring
  dsimp only
  split <;> simp

@[simp] theorem undoJob_jobStates (j : JobId) : jobStates (m.undoJob j).jobs = jobStates m.jobs :=
  foldl_jobStates (fun m ti => by simp) _ m

@[simp] theorem endWaits_jobStates (j : JobId) : jobStates (m.endWaits j).jobs = jobStates m.jobs := by
  simp [endWaits]

theorem setJobState_state (j : JobId) (s : JobState) : ((m.setJobState j s).job j).state = s := by
  obtain ⟨t, h, f, u, q, l, o, z, e⟩ := m.setJobState_eq j s
  rw [e, job_state]
  dsimp only
  split
  next hs => exact hs
  next => exact congrArg Job.state (SMap.getD_set_self ..)

@[simp] theorem closeSoon_jobs (j : JobId) : (m.closeSoon j).jobs = m.jobs := rfl

/-- A live job is loaded, running or paused (R39). -/
theorem live_iff {j : JobId} : m.live j = true ↔ (m.job j).state = .loaded ∨ (m.job j).state = .run ∨ (m.job j).state = .paused := by
  unfold live
  cases (m.job j).state <;> simp

/-- A live job enters FAULTED on a fault: what follows the change of its state undoes firings and absorbs tokens (R163). -/
theorem faultJob_state {j : JobId} (h : m.live j = true) (reason block loc : Nat) (d0 d1 d2 d3 : Word) :
    ((m.faultJob j reason block loc d0 d1 d2 d3).job j).state = .faulted := by
  have hs : (m.job j).state ≠ .empty ∧ (m.job j).state ≠ .timeExhausted ∧ (m.job j).state ≠ .faulted := by
    rcases m.live_iff.mp h with h | h | h <;> simp [h]
  obtain ⟨empty, ended, faulted⟩ := hs
  simp only [faultJob, empty, beq_false_of_ne ended, faulted, Bool.false_and, Bool.false_eq_true, if_false]
  rw [job_state]
  simp only [endWaits_jobStates, absorbJob_jobs, undoJob_jobStates, foldl_jobs, foldGroup_jobs, implies_true,
    abandonJob_jobStates, closeSoon_jobs]
  exact setJobState_state ..
end Mach
end Sys2Proof.Machine
namespace Sys2Proof.Machine

/-! The networks: the commands of stops, rings and links on units the module has, and each queue and each stop after an operation that changes one of them. -/

theorem theStop_of_lt {s : BitVec 5} (h : s.toNat < 18) : theStop s = s := by
  have : s.toNat ≤ 17 := by omega
  simp [theStop, stopOk, this]

theorem theRing_of_lt {r : BitVec 4} (h : r.toNat < 12) : theRing r = r := by
  have : r.toNat ≤ 11 := by omega
  simp [theRing, ringOk, this]

theorem theFoxglove_of_lt {l : BitVec 4} (h : l.toNat < 12) : theFoxglove l = l := by
  have : l.toNat ≤ 11 := by omega
  simp [theFoxglove, foxgloveOk, this]

/-! Commands that name a unit the module has -/

section
variable (s : State) {die : BitVec 2} {stop : BitVec 5}

theorem exec_cfgRd (h : stop.toNat < 18) : exec (.cfgRd die stop) s = .next { s with m := s.m.serveCfgRd die stop } := by
  show Host.Outcome.next { s with m := s.m.serveCfgRd die (theStop stop) } = _
  rw [theStop_of_lt h]

theorem exec_cfgWr (h : stop.toNat < 18) : exec (.cfgWr die stop) s = .next { s with m := s.m.serveCfgWr die stop } := by
  show Host.Outcome.next { s with m := s.m.serveCfgWr die (theStop stop) } = _
  rw [theStop_of_lt h]

theorem exec_stopInject (h : stop.toNat < 18) : exec (.stopInject die stop) s = .next { s with m := s.m.stopInject die stop } := by
  show Host.Outcome.next { s with m := s.m.stopInject die (theStop stop) } = _
  rw [theStop_of_lt h]

theorem exec_ringHop (h : stop.toNat < 18) {ring : BitVec 4} (hr : ring.toNat < 12) (ecc : Ecc) :
    exec (.ringHop die stop ring ecc) s = .next { s with m := s.m.ringHop die stop ring.toNat ecc } := by
  show Host.Outcome.next { s with m := s.m.ringHop die (theStop stop) (theRing ring).toNat ecc } = _
  rw [theStop_of_lt h, theRing_of_lt hr]

theorem exec_foxgloveTraversal {link : BitVec 4} (h : link.toNat < 12) (back : Bool) (vc : BitVec 2) (ecc : Ecc) :
    exec (.foxgloveTraversal die link back vc ecc) s = .next { s with m := s.m.foxglove die link.toNat back vc ecc } := by
  show Host.Outcome.next { s with m := s.m.foxglove die (theFoxglove link).toNat back vc ecc } = _
  rw [theFoxglove_of_lt h]

end

section
variable {e : EndPoint} (h : e.the = e) (s : State)
include h

theorem exec_rdRsp : exec (.rdRsp e) s = .next { s with m := s.m.takeResponse e 0x20 } := by
  show Host.Outcome.next { s with m := s.m.takeResponse e.the 0x20 } = _
  rw [h]

theorem exec_wrAck : exec (.wrAck e) s = .next { s with m := s.m.takeResponse e 0x21 } := by
  show Host.Outcome.next { s with m := s.m.takeResponse e.the 0x21 } = _
  rw [h]

theorem exec_cfgRsp : exec (.cfgRsp e) s = .next { s with m := s.m.takeResponse e 0x22 } := by
  show Host.Outcome.next { s with m := s.m.takeResponse e.the 0x22 } = _
  rw [h]

theorem exec_errRsp : exec (.errRsp e) s = .next { s with m := s.m.takeResponse e 0x23 } := by
  show Host.Outcome.next { s with m := s.m.takeResponse e.the 0x23 } = _
  rw [h]

theorem exec_slotRel : exec (.slotRel e) s = .next { s with m := s.m.takeSlotRel e } := by
  show Host.Outcome.next { s with m := s.m.takeSlotRel e.the } = _
  rw [h]

end

/-! Queues of different kinds have different numbers -/

theorem qInj_ne_qThr {die die' : BitVec 2} {s s' : BitVec 5} {ring : Nat} {vc vc' : BitVec 2} :
    qInj die s vc ≠ qThr die' s' ring vc' := by
  unfold qInj qThr
  have := die.isLt
  have := s.isLt
  have := vc.isLt
  omega

theorem qEj_ne_qFgl {die die' : BitVec 2} {s : BitVec 5} {link : Nat} {back : Bool} {vc vc' : BitVec 2} :
    qEj die s vc ≠ qFgl die' link back vc' := by
  unfold qEj qFgl
  have := die.isLt
  have := s.isLt
  have := vc.isLt
  omega

theorem qEj_ne_qHub {die die' : BitVec 2} {s : BitVec 5} {br : Bool} {vc vc' : BitVec 2} :
    qEj die s vc ≠ qHub die' br vc' := by
  unfold qEj qHub
  have := die.isLt
  have := s.isLt
  have := vc.isLt
  omega

namespace Mach

variable (m : Mach) {die : BitVec 2} {s : BitVec 5}

/-! Queues -/

@[simp] theorem queue_setQueue (q : Nat) (l : List QPkt) : (m.setQueue q l).queue q = l := by
  unfold setQueue queue
  dsimp only
  split
  next h => simp [SMap.getD, h]
  next => simp

theorem queue_setQueue_ne {q q' : Nat} (h : q' ≠ q) (l : List QPkt) : (m.setQueue q l).queue q' = m.queue q' := by
  unfold setQueue queue
  dsimp only
  split
  · simp [SMap.getD, SMap.get?_erase_ne, h]
  · exact SMap.getD_set_ne _ _ _ _ _ h

/-- Emptying an empty queue changes no queue. -/
theorem queue_setQueue_nil {q : Nat} (h : m.queue q = []) (q' : Nat) : (m.setQueue q []).queue q' = m.queue q' := by
  by_cases e : q' = q
  · rw [e, queue_setQueue, h]
  · exact m.queue_setQueue_ne e []

@[simp] theorem queue_enq (q : Nat) (p : Packet) (d : BitVec 5) : (m.enq q p d).queue q = m.queue q ++ [⟨p, m.coreCycle, d⟩] :=
  queue_setQueue ..

theorem queue_enq_ne {q q' : Nat} (h : q' ≠ q) (p : Packet) (d : BitVec 5) : (m.enq q p d).queue q' = m.queue q' :=
  m.queue_setQueue_ne h _

@[simp] theorem queue_deq (q : Nat) : (m.deq q).queue q = (m.queue q).drop 1 := queue_setQueue ..

theorem queue_deq_ne {q q' : Nat} (h : q' ≠ q) : (m.deq q).queue q' = m.queue q' := m.queue_setQueue_ne h _

@[simp] theorem queue_modStop (d : BitVec 2) (n : BitVec 5) (f : Stop → Stop) (q : Nat) : (m.modStop d n f).queue q = m.queue q := rfl
@[simp] theorem queue_modTile (t : TileId) (f : Tile → Tile) (q : Nat) : (m.modTile t f).queue q = m.queue q := rfl

/-! Stops -/

@[simp] theorem setQueue_stops (q : Nat) (l : List QPkt) : (m.setQueue q l).net.stops = m.net.stops := rfl
@[simp] theorem enq_stops (q : Nat) (p : Packet) (d : BitVec 5) : (m.enq q p d).net.stops = m.net.stops := rfl
@[simp] theorem deq_stops (q : Nat) : (m.deq q).net.stops = m.net.stops := rfl
@[simp] theorem countStop_net (d : BitVec 2) (n : BitVec 5) (k i : Nat) : (m.countStop d n k i).net = m.net := rfl

theorem stop_of_stops {m m' : Mach} (h : m'.net.stops = m.net.stops) (d : BitVec 2) (n : BitVec 5) : m'.stop d n = m.stop d n := by
  unfold stop
  rw [h]

theorem foldl_stops {α : Type} {f : Mach → α → Mach} (h : ∀ m a, (f m a).net.stops = m.net.stops) (l : List α) (m : Mach) :
    (l.foldl f m).net.stops = m.net.stops := by
  induction l generalizing m with
  | nil => rfl
  | cons a l ih => exact (ih _).trans (h m a)

/-- Packets that leave a ring change queues and counters (R228). -/
@[simp] theorem offRing_stops (d : BitVec 2) (n : BitVec 5) (ring : Nat) : (m.offRing d n ring).net.stops = m.net.stops := by
  unfold offRing
  refine foldl_stops (fun m v => ?_) _ m
  dsimp only
  rw [foldl_stops (fun m x => by simp), setQueue_stops]

@[simp] theorem respond_stops (d : BitVec 2) (n : BitVec 5) (h : Hdr) (cmd : BitVec 6) (xst : BitVec 4) (data : List (BitVec 128)) :
    (m.respond d n h cmd xst data).net.stops = m.net.stops := by
  unfold respond
  dsimp only
  split <;> rfl

/-- LKS_STOP_CFG keeps its assigned fields of the value written (Table 10-7). -/
theorem writeStopCfg_cfg (v : Word) : ((m.writeStopCfg die s v).stop die s).cfg = v &&& 0x3F3F01 := by
  unfold writeStopCfg
  have h := foldl_stops (f := fun (m' : Mach) ring =>
      if (v &&& 0x3F3F01).getLsbD (segBit ring) && !(m.stop die s).cfg.getLsbD (segBit ring) then m'.offRing die s ring else m')
    (fun m' ring => by split <;> simp) (List.range 12) (m.modStop die s fun x => { x with cfg := v &&& 0x3F3F01 })
  rw [stop_of_stops h, stop_modStop]

/-! Stop register requests (R226) -/

/-- A packet for a stop of its own die does not leave it. -/
theorem leavesAt_eq_false {h : Hdr} (hub : h.dstHub = false) (hd : h.dstDie = die) : leavesAt die h = false := by
  simp [leavesAt, hub, hd]

section
variable {m} {x : QPkt} {rest : List QPkt}
  (hq : m.queue (qEj die s 2) = x :: rest) (here : leavesAt die x.pkt.h = false) (room : m.canAnswer die s = true)
include hq here room

theorem serveCfgRd_assigned {v : Word} (hc : x.pkt.h.cmd = 0x12) (hv : m.stopRead die s (bits x.pkt.h.arg 11 0) = some v)
    (ho : bits x.pkt.h.arg 11 0 ≠ 0x900) :
    m.serveCfgRd die s = (m.deq (qEj die s 2)).respond die s x.pkt.h 0x22 0 [v.zeroExtend 128] := by
  unfold serveCfgRd
  dsimp only
  rw [hq]
  dsimp only
  rw [if_neg (by simp [hc, here, room]), hv]
  dsimp only
  rw [if_neg ho]

theorem serveCfgRd_unassigned (hc : x.pkt.h.cmd = 0x12) (hv : m.stopRead die s (bits x.pkt.h.arg 11 0) = none) :
    m.serveCfgRd die s = (m.deq (qEj die s 2)).respond die s x.pkt.h 0x23 3 [] := by
  unfold serveCfgRd
  dsimp only
  rw [hq]
  dsimp only
  rw [if_neg (by simp [hc, here, room]), hv]

theorem serveCfgWr_assigned {n : Mach} (hc : x.pkt.h.cmd = 0x13)
    (hn : (m.deq (qEj die s 2)).stopWrite die s (bits x.pkt.h.arg 11 0) ((x.pkt.data.getD 0 0).truncate 64) = some n) :
    m.serveCfgWr die s = n.respond die s x.pkt.h 0x22 0 [0] := by
  unfold serveCfgWr
  dsimp only
  rw [hq]
  dsimp only
  rw [if_neg (by simp [hc, here, room]), hn]

end

/-! Responses at a tile (R215, R446) -/

@[simp] theorem reqOf_endReq (t : TileId) (tid : BitVec 12) : (m.endReq t tid).reqOf t tid = none := by
  simp [reqOf, endReq]

@[simp] theorem reqOf_storeAcked (t : TileId) (head : Nat) (tid : BitVec 12) :
    (m.storeAcked t head).reqOf t tid = m.reqOf t tid := by
  simp [reqOf, storeAcked]

section
variable {tid : BitVec 12} (e0 e1 : Word) (tile : s.toNat < 16)
include tile

/-- No request of the tile has the number: nothing ends. -/
theorem reqEnds_none (h : m.reqOf (die ++ (s.truncate 4 : BitVec 4)) tid = none) (hp : m.pmsgs = []) (err : Option Nat) :
    m.reqEnds die s tid err e0 e1 = none := by
  unfold reqEnds
  dsimp only
  rw [if_neg (by omega), h, hp]
  rfl

variable {m} {r : TReq} (h : m.reqOf (die ++ (s.truncate 4 : BitVec 4)) tid = some r)
include h

/-- A response without error ends the request it answers and moves no packet. -/
theorem reqEnds_ok : ∃ t, m.reqEnds die s tid none e0 e1 = some t ∧ t.net = m.net ∧
    t.reqOf (die ++ (s.truncate 4 : BitVec 4)) tid = none := by
  unfold reqEnds
  dsimp only
  rw [if_neg (by omega), h]
  dsimp only
  cases r.what with
  | store => exact ⟨_, rfl, rfl, by simp⟩
  | _ => exact ⟨_, rfl, rfl, by simp⟩

/-- An error faults the job its request served. -/
theorem reqEnds_error (reason : Nat) : m.reqEnds die s tid (some reason) e0 e1 =
    some ((m.endReq (die ++ (s.truncate 4 : BitVec 4)) tid).faultJob r.job reason (stopBlock s) (stopLoc die s) e0 e1) := by
  unfold reqEnds
  dsimp only
  rw [if_neg (by omega), h]
  dsimp only
  cases r.what <;> rfl

end

/-- The code by which an error response faults a job, by its status; a response of another command has none (R446). -/
def rspError (cmd : BitVec 6) (xst : BitVec 4) : Option Nat :=
  if cmd = 0x23 then some (if xst = 2 then 0x0206 else 0x020A) else none

/-- The entry of the log of a response at a stop that no request awaits. -/
def logStray (m : Mach) (die : BitVec 2) (s : BitVec 5) (p : Packet) : Mach :=
  m.logErr 0 (stopBlock s) 0 (if p.h.jv then some p.h.job else none) (stopLoc die s) (p.hdr.truncate 64) (p.hdr.extractLsb' 64 64)

theorem takeResponse_stop {x : QPkt} {rest : List QPkt} (hq : m.queue (qEj die s 3) = x :: rest) {cmd : BitVec 6} (hc : x.pkt.h.cmd = cmd) :
    m.takeResponse (.stop die s) cmd = ((m.deq (qEj die s 3)).reqEnds die s x.pkt.h.tid (rspError cmd x.pkt.h.xst)
      (x.pkt.hdr.truncate 64) (x.pkt.hdr.extractLsb' 64 64)).getD ((m.deq (qEj die s 3)).logStray die s x.pkt) := by
  unfold takeResponse endQ
  dsimp only
  rw [hq]
  dsimp only
  rw [if_neg (by simp [hc])]
  rfl

section
variable {m} {x : QPkt} {rest : List QPkt} {cmd : BitVec 6} (hq : m.queue (qEj die s 3) = x :: rest) (hc : x.pkt.h.cmd = cmd)
  (tile : s.toNat < 16)
include hq hc tile

/-- A response without error leaves its queue and ends the request it answers. -/
theorem takeResponse_ok (herr : cmd ≠ 0x23) {r : TReq} (h : m.reqOf (die ++ (s.truncate 4 : BitVec 4)) x.pkt.h.tid = some r) :
    (m.takeResponse (.stop die s) cmd).queue (qEj die s 3) = rest ∧
      (m.takeResponse (.stop die s) cmd).reqOf (die ++ (s.truncate 4 : BitVec 4)) x.pkt.h.tid = none := by
  obtain ⟨t, ht, hn, hr⟩ := reqEnds_ok (m := m.deq (qEj die s 3)) (x.pkt.hdr.truncate 64) (x.pkt.hdr.extractLsb' 64 64) tile h
  rw [m.takeResponse_stop hq hc, rspError, if_neg herr, ht, Option.getD_some]
  refine ⟨?_, hr⟩
  have hd := m.queue_deq (qEj die s 3)
  rw [hq] at hd
  unfold queue at hd ⊢
  rw [hn]
  exact hd

/-- An error response faults the job its request served. -/
theorem takeResponse_error (herr : cmd = 0x23) {r : TReq} (h : m.reqOf (die ++ (s.truncate 4 : BitVec 4)) x.pkt.h.tid = some r)
    (live : m.live r.job = true) : ((m.takeResponse (.stop die s) cmd).job r.job).state = .faulted := by
  rw [m.takeResponse_stop hq hc, rspError, if_pos herr,
    reqEnds_error (m := m.deq (qEj die s 3)) (x.pkt.hdr.truncate 64) (x.pkt.hdr.extractLsb' 64 64) tile h, Option.getD_some]
  have live' : ((m.deq (qEj die s 3)).endReq (die ++ (s.truncate 4 : BitVec 4)) x.pkt.h.tid).live r.job = true := live
  exact faultJob_state _ live' ..

/-- A response that no request awaits leaves its queue and is logged. -/
theorem takeResponse_stray (h : m.reqOf (die ++ (s.truncate 4 : BitVec 4)) x.pkt.h.tid = none) (hp : m.pmsgs = []) :
    m.takeResponse (.stop die s) cmd = (m.deq (qEj die s 3)).logStray die s x.pkt := by
  rw [m.takeResponse_stop hq hc, (m.deq (qEj die s 3)).reqEnds_none _ _ tile h hp, Option.getD_none]

end

/-! In-transit slots (R23) -/

theorem srcHub_srcOf (d : BitVec 2) (n : BitVec 5) (a : Byte) : srcHub (srcOf d n a) = false := by
  unfold srcHub srcOf
  repeat rw [bit_append_above _ _ (by decide)]
  rfl

/-- The tile an initiator's SRC names (Table 10-4). -/
theorem srcTile_srcOf (d : BitVec 2) (n : BitVec 5) (a : Byte) : srcTile (srcOf d n a) = d ++ (n.truncate 4 : BitVec 4) := by
  unfold srcTile srcOf
  have hd : ((0#1 ++ d ++ n ++ a).extractLsb' 13 2 : BitVec 2) = d := by
    rw [extract_append_above _ _ (by decide), extract_append_above _ _ (by decide), extract_append_low]
  have hn : ((0#1 ++ d ++ n ++ a).extractLsb' 8 4 : BitVec 4) = n.truncate 4 := by
    rw [extract_append_above _ _ (by decide)]
    ext i hi
    have low : i < 5 := by omega
    rw [BitVec.getElem_extractLsb', BitVec.getLsbD_append]
    simp [low]
  rw [hd, hn]

/-- A slot of a tile's agent is free once it is released. -/
theorem freeSlot_srcOf (d : BitVec 2) (n : BitVec 5) (a : Byte) (slot : BitVec 14) : m.freeSlot (srcOf d n a) slot =
    m.modTile (d ++ (n.truncate 4 : BitVec 4)) (fun x => { x with transit := SMap.erase x.transit slot.toNat }) := by
  unfold freeSlot
  rw [if_neg (by simp [srcHub_srcOf])]
  exact congrArg (fun t => m.modTile t _) (srcTile_srcOf d n a)

/-- A release of one slot leaves its queue and frees the slot at the tile it reaches. -/
theorem takeSlotRel_stop {x : QPkt} {rest : List QPkt} (hq : m.queue (qEj die s 1) = x :: rest) (hc : x.pkt.h.cmd = 0x06)
    (one : x.pkt.h.arg.getLsbD 28 = false) : m.takeSlotRel (.stop die s) =
      (m.deq (qEj die s 1)).modTile (die ++ (s.truncate 4 : BitVec 4))
        (fun x' => { x' with transit := SMap.erase x'.transit (x.pkt.h.arg.truncate 14 : BitVec 14).toNat }) := by
  unfold takeSlotRel endQ
  dsimp only
  rw [hq]
  dsimp only
  rw [if_neg (by simp [hc]), one, if_neg Bool.false_ne_true, freeSlot_srcOf]

end Mach
end Sys2Proof.Machine

section
open Sys2Proof Sys2Proof.Machine

/-- A stop answers the request at the head of its ejection queue by `serveCfgRd` and `serveCfgWr`. -/
theorem stopRegisterRequestsAreServed : Claim.StopRegisterRequestsAreServed := by
  intro s die stop x rest hs hq hub hd room
  have here := Mach.leavesAt_eq_false hub hd
  dsimp only
  rw [exec_cfgRd s hs, exec_cfgWr s hs]
  refine ⟨fun hc ho v hv => ?_, fun hc hv => ?_, fun hc n hn => ?_, fun h0 => ⟨fun hc => ?_, fun hc => ?_⟩⟩
  · rw [Mach.serveCfgRd_assigned hq here room hc hv ho]
  · rw [Mach.serveCfgRd_unassigned hq here room hc hv]
  · rw [Mach.serveCfgWr_assigned hq here room hc hn]
  · have hv : s.m.stopRead die stop (bits x.pkt.h.arg 11 0) = some (s.m.stop die stop).cfg := by simp [Mach.stopRead, h0]
    rw [Mach.serveCfgRd_assigned hq here room hc hv (by simp [h0])]
  · have hn : (s.m.deq (qEj die stop 2)).stopWrite die stop (bits x.pkt.h.arg 11 0) ((x.pkt.data.getD 0 0).truncate 64) =
        some ((s.m.deq (qEj die stop 2)).writeStopCfg die stop ((x.pkt.data.getD 0 0).truncate 64)) := by simp [Mach.stopWrite, h0]
    rw [Mach.serveCfgWr_assigned hq here room hc hn]
    refine ⟨_, rfl, ?_⟩
    rw [Mach.stop_of_stops (Mach.respond_stops ..)]
    exact Mach.writeStopCfg_cfg ..

/-- A response at a tile is answered, an error or a stray by what its transaction number names. -/
theorem responsesEndTheirRequests : Claim.ResponsesEndTheirRequests := by
  intro s die stop vc x rest hs hq
  have the : EndPoint.the (.stop die stop) = .stop die stop := by rw [EndPoint.the, theStop_of_lt (by omega)]
  dsimp only
  rw [exec_rdRsp the s, exec_wrAck the s, exec_cfgRsp the s, exec_errRsp the s]
  refine ⟨fun hvc awaited => ?_, fun hvc hr hp => ?_, fun hvc hc one => ?_⟩ <;> subst hvc
  · obtain ⟨r, hr⟩ := Option.isSome_iff_exists.mp awaited
    refine ⟨fun hc => ?_, fun hc => ?_, fun hc => ?_, fun hc r' hr' live => ?_⟩
    · exact ⟨_, rfl, Mach.takeResponse_ok hq hc hs (by decide) hr⟩
    · exact ⟨_, rfl, Mach.takeResponse_ok hq hc hs (by decide) hr⟩
    · exact ⟨_, rfl, Mach.takeResponse_ok hq hc hs (by decide) hr⟩
    · exact ⟨_, rfl, Mach.takeResponse_error hq hc hs rfl hr' live⟩
  · have stray : ∀ cmd, x.pkt.h.cmd = cmd → s.m.takeResponse (.stop die stop) cmd = _ :=
      fun cmd hc => Mach.takeResponse_stray hq hc hs hr hp
    simp only [Mach.logStray, Mach.stopBlock, if_pos hs] at stray
    exact ⟨fun hc => by rw [stray _ hc], fun hc => by rw [stray _ hc], fun hc => by rw [stray _ hc], fun hc => by rw [stray _ hc]⟩
  · rw [exec_slotRel the s, Mach.takeSlotRel_stop _ hq hc one]
    refine ⟨_, rfl, ?_, ?_⟩
    · rw [Mach.queue_modTile, Mach.queue_deq, hq, List.drop_one, List.tail_cons]
    · rw [Mach.tile_modTile]
      exact SMap.get?_erase_self ..

/-- Settles O27, by its two parts. -/
theorem stopRegistersAndResponses : Obligations.StopRegistersAndResponses :=
  ⟨stopRegisterRequestsAreServed, responsesEndTheirRequests⟩

end

namespace Sys2Proof.Machine

/-! Packets and tokens that move on: selection and injection at a stop, hops, links, bridges, and tokens within a tile. -/

/-- The least element of a list is one of it. -/
theorem leastBy_mem {α : Type} {lt : α → α → Bool} {l : List α} {x : α} (h : leastBy lt l = some x) : x ∈ l := by
  cases l with
  | nil => cases h
  | cons y r =>
    obtain rfl := Option.some.inj h
    have mem : ∀ (l : List α) (b : α), l.foldl (fun b y => if lt y b then y else b) b ∈ b :: l := fun l => by
      induction l with
      | nil => simp
      | cons a l ih =>
        intro b
        rw [List.foldl_cons]
        rcases List.mem_cons.mp (ih (if lt a b then a else b)) with h | h
        · rw [h]
          split <;> simp
        · exact List.mem_cons_of_mem _ (List.mem_cons_of_mem _ h)
    exact mem r y

namespace Mach

variable {m : Mach} {die : BitVec 2} {s : BitVec 5}

/-! Routing reads a stop's table and its segments (R227) -/

theorem aged_modStop (f : Stop → Stop) (x : QPkt) : (m.modStop die s f).aged x = m.aged x := rfl

section
variable {f : Stop → Stop} (hrt : ∀ x, (f x).rt = x.rt)
include hrt

theorem rtWord_modStop (d : Nat) : (m.modStop die s f).rtWord die s d = m.rtWord die s d := by
  simp [rtWord, hrt]

theorem ringTarget_modStop (h : Hdr) : (m.modStop die s f).ringTarget die s h = m.ringTarget die s h := by
  simp [ringTarget, rtWord_modStop hrt]

theorem routeAt_modStop (hcfg : ∀ x, (f x).cfg = x.cfg) (d : BitVec 5) (p : Packet) :
    (m.modStop die s f).routeAt die s d p = m.routeAt die s d p := by
  simp [routeAt, usable, rtWord_modStop hrt, hcfg]

end

/-- A stop routes onto no segment that its configuration makes unusable. -/
theorem segment_usable {d : BitVec 5} {p : Packet} {k : Nat} {ccw : Bool} (h : m.routeAt die s d p = .ring k ccw) :
    (m.stop die s).cfg.getLsbD ((if ccw then 16 else 8) + k) = false := by
  have pick : ∀ (mask : Nat) (c : Bool), m.usable die s mask c ≠ [] → ∀ n,
      Route.ring ((m.usable die s mask c).getD (n % (m.usable die s mask c).length) 0) c = .ring k ccw → k ∈ m.usable die s mask ccw := by
    intro mask c hne n e
    obtain ⟨hk, rfl⟩ := Route.ring.inj e
    rw [List.getD_eq_getElem _ _ (Nat.mod_lt _ (List.length_pos_of_ne_nil hne))] at hk
    exact hk ▸ List.getElem_mem _
  have used : ∃ mask, k ∈ m.usable die s mask ccw := by
    unfold routeAt at h
    dsimp only at h
    split at h
    · cases h
    · split at h
      · cases h
      · split at h
        next hne => exact ⟨_, pick _ _ (by simpa using hne) _ h⟩
        next =>
          split at h
          next hne => exact ⟨_, pick _ _ (by simpa using hne) _ h⟩
          next => cases h
  obtain ⟨mask, hm⟩ := used
  have hm := (List.mem_filter.mp hm).2
  simp only [Bool.and_eq_true, Bool.not_eq_true'] at hm
  exact hm.2

/-! Injection (R219, R224) -/

theorem queue_of_injWaiting {vc : BitVec 2} {i : Nat} {x : QPkt} (h : (vc, i, x) ∈ m.injWaiting die s) :
    (m.queue (qInj die s vc))[i]? = some x := by
  simp only [injWaiting, List.mem_flatMap, List.mem_map, Prod.mk.injEq] at h
  obtain ⟨_, -, y, hy, rfl, rfl, rfl⟩ := h
  exact List.mem_zipIdx_iff_getElem?.mp hy

theorem mem_of_pickInjection {y : BitVec 2 × Nat × QPkt} {l : List JobId} (h : m.pickInjection die s = (some y, l)) :
    y ∈ m.injWaiting die s := by
  have among : y ∈ m.pickable die s := by
    unfold pickInjection pickAmong at h
    dsimp only at h
    split at h
    next hx =>
      obtain ⟨⟨⟩, -⟩ := Prod.mk.inj h
      exact (List.mem_filter.mp (leastBy_mem hx)).1
    next =>
      split at h
      next hx =>
        obtain ⟨⟨⟩, -⟩ := Prod.mk.inj h
        exact (List.mem_filter.mp (leastBy_mem hx)).1
      next => exact leastBy_mem (Prod.mk.inj h).1
  exact (List.mem_filter.mp among).1

theorem oldest_filter_single (last : Nat) (y : BitVec 2 × Nat × QPkt) (p : BitVec 2 × Nat × QPkt → Bool) :
    m.oldest last ([y].filter p) = if p y then some y else none := by
  rw [List.filter_singleton]
  cases p y <;> rfl

/-- The one packet that waits at a stop with no candidate is its next candidate, and no job yields to it. -/
theorem pickInjection_single {y : BitVec 2 × Nat × QPkt} (hc : (m.stop die s).cand = []) (hw : m.injWaiting die s = [y]) :
    m.pickInjection die s = (some y, []) := by
  have hp : m.pickable die s = [y] := by simp [pickable, hc, hw]
  rw [pickInjection, hp]
  unfold pickAmong
  simp only [oldest_filter_single]
  by_cases h7 : (m.age y.2.2 == 7) = true
  · rw [if_pos h7]
    dsimp only
    rw [List.filter_singleton]
    cases y.2.2.pkt.h.jv <;> simp
  · rw [if_neg h7]
    dsimp only
    split
    next hy =>
      split at hy <;> cases hy
      rfl
    next => rfl

theorem pickInjection_none {ys : List (BitVec 2 × Nat × QPkt)} (hw : m.injWaiting die s = ys)
    (held : ∀ y ∈ ys, (m.stop die s).cand.any (fun c => c.1 == y.1) = true) : m.pickInjection die s = (none, []) := by
  have hp : m.pickable die s = [] := by
    rw [pickable, hw, List.filter_eq_nil_iff]
    exact fun y hy => by simp [held y hy]
  rw [pickInjection, hp]
  rfl

/-- What a stop reads to select a candidate: its candidates, the job it served last, the units it injected, and its queues. -/
theorem pickInjection_modStop {f : Stop → Stop} (h : f (m.stop die s) = m.stop die s) :
    (m.modStop die s f).pickInjection die s = m.pickInjection die s := by
  have hs : (m.modStop die s f).stop die s = m.stop die s := by rw [stop_modStop, h]
  unfold pickInjection pickAmong pickable owedUnits
  rw [hs]
  rfl

/-- A stop whose waiting packets are all of one VC selects its next candidate and no other. -/
theorem fillCands_one {vc : BitVec 2} {i : Nat} {x : QPkt} (hp : m.pickInjection die s = (some (vc, i, x), []))
    (hvc : ∀ y ∈ m.injWaiting die s, y.1 = vc) (k : Nat) :
    m.fillCands die s (k + 2) = m.modStop die s (fun y => { y with cand := y.cand ++ [(vc, i)] }) := by
  have rest : (m.modStop die s fun y => { y with cand := y.cand ++ [(vc, i)] }).pickInjection die s = (none, []) :=
    pickInjection_none (ys := m.injWaiting die s) rfl fun y hy => by simp [hvc y hy]
  rw [fillCands, hp]
  dsimp only [List.foldl_nil]
  rw [fillCands, rest]

/-- A candidate bound for a ring waits for its output. -/
theorem candLeaves_ring {vc : BitVec 2} {i : Nat} {x : QPkt} {k : Nat} {ccw : Bool} (hx : (m.queue (qInj die s vc))[i]? = some x)
    (hr : m.routeAt die s (m.ringTarget die s (m.aged x).h) (m.aged x) = .ring k ccw) : m.candLeaves die s vc i = m := by
  unfold candLeaves
  rw [hx]
  dsimp only
  rw [hr]

theorem offerProbes_none (h : m.pmsgs = []) : m.offerProbes die s = m := by
  unfold offerProbes
  simp [h]

theorem offerReqs_none (h : ∀ r ∈ (m.tile (die ++ (s.truncate 4 : BitVec 4))).reqs, r.tid ≠ none) : m.offerReqs die s = m := by
  have hf : (m.tile (die ++ (s.truncate 4 : BitVec 4))).reqs.filter (·.tid.isNone) = [] :=
    List.filter_eq_nil_iff.mpr fun r hr => by simpa using h r hr
  unfold offerReqs
  dsimp only
  rw [hf]
  exact ite_self _

/-- A stop with no releases, messages or requests to take, whose next candidate is bound for a ring, selects it. -/
theorem stopInject_selects {vc : BitVec 2} {i : Nat} {x : QPkt} {k : Nat} {ccw : Bool} (hrels : (m.stop die s).rels = [])
    (hmsgs : m.pmsgs = []) (hcand : (m.stop die s).cand = [])
    (hreqs : ∀ r ∈ (m.tile (die ++ (s.truncate 4 : BitVec 4))).reqs, r.tid ≠ none) (hvc : ∀ y ∈ m.injWaiting die s, y.1 = vc)
    (hp : m.pickInjection die s = (some (vc, i, x), []))
    (hr : m.routeAt die s (m.ringTarget die s (m.aged x).h) (m.aged x) = .ring k ccw) :
    m.stopInject die s = (m.modStop die s (fun y => { y with rels := [] })).modStop die s (fun y => { y with cand := y.cand ++ [(vc, i)] }) := by
  have offered : m.offerReleases die s = m.modStop die s (fun y => { y with rels := [] }) := by
    rw [offerReleases, hrels]
    rfl
  have same : ({ m.stop die s with rels := [] } : Stop) = m.stop die s := by rw [← hrels]
  have hx := queue_of_injWaiting (mem_of_pickInjection hp)
  unfold stopInject
  rw [offered, offerProbes_none (m := m.modStop die s _) hmsgs, offerReqs_none (m := m.modStop die s _) hreqs, fillCands_one ((pickInjection_modStop same).trans hp) hvc]
  dsimp only
  rw [stop_modStop, stop_modStop, hcand, List.nil_append, List.foldl_cons, List.foldl_nil]
  refine candLeaves_ring (k := k) (ccw := ccw) hx ?_
  simpa only [ringTarget_modStop, routeAt_modStop, aged_modStop, implies_true] using hr

/-! Arrivals and ejection (R216, R218) -/

/-- A packet of a good form, whose job is live if it carries tokens, goes on where it arrives without error. -/
theorem checkAt_clean {p : Packet} (form : badForm p = false) (live : (isTok p.h.cmd && !m.live p.h.job) = false) :
    m.checkAt die s p .clean = (true, m) := by
  simp [checkAt, form, live]

@[simp] theorem landed_queues (tid : BitVec 12) : (m.landed die s tid).net.queues = m.net.queues := by
  unfold landed
  split <;> rfl

/-- A response ends the one flight of its stop that has its number. -/
theorem landed_flight {f : Flight} (h : (m.stop die s).flight = [f]) : ((m.landed die s f.tid).stop die s).flight = [] := by
  have hf : (m.stop die s).flight.find? (fun g => g.tid == f.tid) = some f := by simp [h]
  unfold landed
  rw [hf]
  show ((m.endFlight die s f.tid).stop die s).flight = []
  rw [endFlight, stop_modStop]
  simp [h, removeFirst]

/-- A packet that reaches the end of its path at a stop that absorbs nothing joins an ejection queue with room for it; a response ends the flight of its request there. -/
theorem eject_queued {p : Packet} (takes : m.absorbing die s = false) (room : m.room (qEj die s p.h.vc) p.units = true) :
    ∃ t, m.eject die s p false = some t ∧ (∀ q, q ≠ qEj die s p.h.vc → t.queue q = m.queue q) ∧
      t.queue (qEj die s p.h.vc) = m.queue (qEj die s p.h.vc) ++ [⟨p, t.coreCycle, 0⟩] ∧
      (p.h.vc = 3 → ∀ f, (m.stop die s).flight = [f] → f.tid = p.h.tid → (t.stop die s).flight = []) := by
  generalize hl : (if p.h.vc == 3 then m.landed die s p.h.tid else m) = l
  have hq : ∀ q, l.queue q = m.queue q := fun q => by
    unfold queue
    rw [← hl]
    split
    · rw [landed_queues]
    · rfl
  refine ⟨((l.countStop die s 0x09 p.units).countStop die s (0x20 + p.h.age.toNat)).enq (qEj die s p.h.vc) p, ?_,
    fun q h => ?_, ?_, fun vc f one tid => ?_⟩
  · simp [eject, takes, room, ← hl]
  · rw [queue_enq_ne _ h]
    exact hq q
  · rw [queue_enq]
    exact congrArg (· ++ _) (hq _)
  · have landed : l = m.landed die s f.tid := by rw [← hl, vc, tid]; rfl
    rw [stop_of_stops (enq_stops ..), landed]
    exact landed_flight one

/-- A packet that is not for a stop stays on its ring there. -/
theorem ejectThrough_passes {q : Nat} {x : QPkt} {rest : List QPkt} (hq : m.queue q = x :: rest) (hmc : x.pkt.h.mc = false)
    (hd : x.dest ≠ s) (k : Nat) : m.ejectThrough die s q k = m := by
  cases k with
  | zero => rfl
  | succ k => simp [ejectThrough, hq, hmc, hd]

theorem ejectThrough_nil {q : Nat} (hq : m.queue q = []) (k : Nat) : m.ejectThrough die s q k = m := by
  cases k with
  | zero => rfl
  | succ k => simp [ejectThrough, hq]

/-! Hops (R220, R223) -/

theorem queue_injected (vc : BitVec 2) (i : Nat) (p : Packet) :
    (m.injected die s vc i p).queue (qInj die s vc) = (m.queue (qInj die s vc)).eraseIdx i := by
  have h := m.queue_setQueue (qInj die s vc) ((m.queue (qInj die s vc)).eraseIdx i)
  unfold injected
  dsimp only
  split <;> exact h

theorem queue_injected_ne (vc : BitVec 2) (i : Nat) (p : Packet) {q : Nat} (hq : q ≠ qInj die s vc) :
    (m.injected die s vc i p).queue q = m.queue q := by
  have h := m.queue_setQueue_ne hq ((m.queue (qInj die s vc)).eraseIdx i)
  unfold injected
  dsimp only
  split <;> exact h

@[simp] theorem injected_jobs (vc : BitVec 2) (i : Nat) (p : Packet) : (m.injected die s vc i p).jobs = m.jobs := by
  unfold injected
  dsimp only
  split <;> rfl

theorem live_of_jobs {m m' : Mach} (h : m'.jobs = m.jobs) (j : JobId) : m'.live j = m.live j := by
  unfold live job
  rw [h]

/-- Modules that differ in their map of queues alone, and hold the same packets in every queue: an empty queue may stand in one map and be missing from the other. -/
def SameQueues (m m' : Mach) : Prop :=
  ∃ l, m' = { m with net := { m.net with queues := l } } ∧ ∀ q, m'.queue q = m.queue q

theorem SameQueues.trans {m m1 m2 : Mach} (h : SameQueues m m1) (h' : SameQueues m1 m2) : SameQueues m m2 := by
  obtain ⟨l, rfl, hl⟩ := h
  obtain ⟨l', rfl, hl'⟩ := h'
  exact ⟨l', rfl, fun q => (hl' q).trans (hl q)⟩

theorem setQueue_sameQueues {q : Nat} (h : m.queue q = []) : SameQueues m (m.setQueue q []) :=
  ⟨_, rfl, m.queue_setQueue_nil h⟩

/-- A stop with no packets to route again settles none. -/
theorem settleRe_sameQueues (h : ∀ v, m.queue (qRe die s v) = []) : SameQueues m (m.settleRe die s) := by
  unfold settleRe
  generalize List.range 4 = l
  induction l generalizing m with
  | nil => exact ⟨_, rfl, fun _ => rfl⟩
  | cons v l ih =>
    rw [List.foldl_cons]
    dsimp only
    rw [h, List.foldl_nil]
    have same := setQueue_sameQueues (h (BitVec.ofNat 2 v))
    have ⟨_, _, hq⟩ := same
    exact same.trans (ih fun v' => (hq _).trans (h v'))

section
variable {ring : Nat} {vc : BitVec 2} {i : Nat} {x : QPkt} {d : BitVec 5}
  (empty : ∀ v, m.queue (qThr die s ring v) = [] ∧ m.queue (qRe die s v) = [])
  (hc : (m.stop die s).cand = [(vc, i)]) (hx : (m.queue (qInj die s vc))[i]? = some x) (hd : m.ringTarget die s x.pkt.h = d)
  (hr : m.routeAt die s d x.pkt = .ring (ring / 2) (decide (ring % 2 = 1))) (room : m.credits die s ring x.pkt true = true)
include empty hc hx hd hr room

/-- With nothing on the ring and nothing to route again, the selected packet is the ring output's one candidate. -/
theorem ringCands_injection : m.ringCands die s ring = [⟨4, qInj die s vc, x, d, true, vc⟩] := by
  have hring : ringNo (ring / 2) (decide (ring % 2 = 1)) = ring := by
    unfold ringNo b2n
    by_cases h : ring % 2 = 1 <;> simp [h] <;> omega
  simp [ringCands, fun v => (empty v).1, fun v => (empty v).2, hc, hx, hd, hr, hring, room]

/-- With nothing on the ring and nothing to route again, a ring output takes the selected packet and sends it on its segment. -/
theorem ringHop_injects (hs : s.toNat < 18) (hn : ring < 12) : ∃ (m' : Mach) (rr : Stop → SMap Nat), SameQueues m m' ∧ m.ringHop die s ring .clean =
    ((m'.injected die s vc i (onRing (m.aged x) (ring / 2) (decide (ring % 2 = 1)))).modStop die s
      (fun y => { y with rr := rr y })).hopFrom die s ring (onRing (m.aged x) (ring / 2) (decide (ring % 2 = 1))) d .clean := by
  refine ⟨m.settleRe die s, fun y => SMap.set y.rr ring 4, settleRe_sameQueues fun v => (empty v).2, ?_⟩
  have ejected : (List.range 4).foldl (fun m v => m.ejectThrough die s (qThr die s ring (BitVec.ofNat 2 v)) 16) m = m :=
    List.foldl_fixed' (fun v => ejectThrough_nil (empty _).1 16) _
  have usable : (m.stop die s).cfg.getLsbD (segBit ring) = false := by
    simpa [segBit] using segment_usable hr
  unfold ringHop
  rw [if_neg (by omega)]
  dsimp only
  rw [ejected, if_neg (by simp [usable])]
  obtain ⟨l, hm, hq⟩ := settleRe_sameQueues (m := m) (die := die) (s := s) fun v => (empty v).2
  rw [hm] at hq ⊢
  have cands := ringCands_injection (m := { m with net := { m.net with queues := l } }) (die := die) (s := s) (ring := ring) (vc := vc)
    (i := i) (x := x) (d := d) (fun v => ⟨(hq _).trans (empty v).1, (hq _).trans (empty v).2⟩) hc (by rw [hq]; exact hx) hd hr
    (by
      unfold credits Mach.room queueUnits at room ⊢
      rw [hq]
      exact room)
  rw [cands]
  dsimp only [leastBy, List.foldl_nil]
  have hf : (({ m with net := { m.net with queues := l } } : Mach).stop die s).cand.find? (fun c => c.1 == vc) = some (vc, i) := by
    rw [show (({ m with net := { m.net with queues := l } } : Mach).stop die s).cand = [(vc, i)] from hc]
    simp
  rw [if_pos rfl, if_pos rfl, hf]
  rfl

/-- A ring output's injection takes the packet off its injection queue and puts it on the next stop's input queue, where it stays unless it is for that stop. -/
theorem ringHop_queues (hs : s.toNat < 18) (hn : ring < 12) {p : Packet}
    (hp : p = onRing (m.aged x) (ring / 2) (decide (ring % 2 = 1))) (form : badForm p = false)
    (live : (isTok p.h.cmd && !m.live p.h.job) = false) (on : d ≠ nextStop s ring) (hmc : p.h.mc = false)
    (free : m.queue (qThr die (nextStop s ring) ring p.h.vc) = []) :
    (m.ringHop die s ring .clean).queue (qInj die s vc) = (m.queue (qInj die s vc)).eraseIdx i ∧
      ((m.ringHop die s ring .clean).queue (qThr die (nextStop s ring) ring p.h.vc)).map (fun y => (y.pkt, y.dest)) = [(p, d)] := by
  obtain ⟨m', rr, same, hop⟩ := ringHop_injects empty hc hx hd hr room hs hn
  rw [← hp] at hop
  rw [hop]
  generalize hM : (m'.injected die s vc i p).modStop die s (fun y => { y with rr := rr y }) = M
  have hlive : M.live p.h.job = m.live p.h.job := by
    obtain ⟨l, rfl, -⟩ := same
    exact live_of_jobs (by rw [← hM, modStop_jobs, injected_jobs]) _
  have hthr : M.queue (qThr die (nextStop s ring) ring p.h.vc) = [] := by
    rw [← hM, queue_modStop, queue_injected_ne _ _ _ qInj_ne_qThr.symm, same.choose_spec.2, free]
  have hinj : M.queue (qInj die s vc) = (m.queue (qInj die s vc)).eraseIdx i := by
    rw [← hM, queue_modStop, queue_injected, same.choose_spec.2]
  have hq : (M.enq (qThr die (nextStop s ring) ring p.h.vc) p d).queue (qThr die (nextStop s ring) ring p.h.vc) = [⟨p, M.coreCycle, d⟩] := by
    rw [queue_enq, hthr, List.nil_append]
  unfold hopFrom
  dsimp only
  rw [checkAt_clean form (by rw [hlive]; exact live), if_pos rfl, ejectThrough_passes hq hmc on, hq]
  exact ⟨by rw [queue_enq_ne _ qInj_ne_qThr, hinj], rfl⟩

end

/-! Foxglove links and bridges (R225, R227) -/

/-- A packet whose path ends at the far stop of its link moves from the link into that stop's ejection queue, and a response there ends its flight. -/
theorem foxglove_ends {link : Nat} {back : Bool} {vc : BitVec 2} {x : QPkt} {rest : List QPkt} {p : Packet}
    (hs : s = if back then (fglEnds link).1 else (fglEnds link).2) (hp : p = (m.aged x).setH (fun h => { h with detour := true }))
    (hq : m.queue (qFgl die link back vc) = x :: rest) (single : p.h.mc = false → m.ringTarget die s p.h = s)
    (multi : p.h.mc = true → p.h.smask &&& ~~~(1#18 <<< s.toNat) = 0) (form : badForm p = false)
    (live : (isTok p.h.cmd && !m.live p.h.job) = false) (stays : leavesAt die p.h = false) (takes : m.absorbing die s = false)
    (room : m.room (qEj die s p.h.vc) p.units = true) :
    ∃ t, m.eject die s p false = some t ∧ m.foxglove die link back vc .clean = t.deq (qFgl die link back vc) := by
  obtain ⟨t, ht, -⟩ := eject_queued takes room
  refine ⟨t, ht, ?_⟩
  have ends : (if p.h.mc = true then p.h.smask &&& ~~~(1#18 <<< s.toNat) == 0 else m.ringTarget die s p.h == s) = true := by
    cases hmc : p.h.mc with
    | false => simp [single hmc]
    | true => simp [multi hmc]
  unfold foxglove
  dsimp only
  rw [hq]
  dsimp only
  rw [← hs, ← hp, checkAt_clean form live]
  dsimp only
  rw [ends, stays, ht]
  simp

/-- A packet for the hub moves from its bridge stop into the bridge's queue at the hub. -/
theorem bridge_toHub {br : Bool} {vc : BitVec 2} {x : QPkt} {rest : List QPkt} (hq : m.queue (qEj die (brStop br) vc) = x :: rest)
    (hub : x.pkt.h.dstHub = true) (form : badForm (m.aged x) = false) (tok : isTok (m.aged x).h.cmd = false)
    (tok' : isTok x.pkt.h.cmd = false) :
    m.bridge die br true vc .clean = (m.deq (qEj die (brStop br) vc)).enq (qHub die br vc) (m.aged x) := by
  unfold bridge
  dsimp only
  rw [if_pos rfl, hq]
  dsimp only
  rw [checkAt_clean form (by simp [tok])]
  simp [leavesAt, hub, tok']

/-! Route (R22, R76) -/

theorem pe_modPe_ne {p q : PeId} (h : q ≠ p) (f : Pe → Pe) : (m.modPe p f).pe q = m.pe q := m.pe_setPe_ne p q _ h

/-- A Receive FIFO with room takes an arrival from the cluster ring, but in the cycle that its own Route has. -/
theorem pushFifo_ring {p : PeId} {it : Item} (room : (m.pe p).fifo.length < 8) (turn : (m.pe p).ringWins ≠ 3) :
    ∃ w, m.pushFifo p false it = some (m.setPe p { m.pe p with fifo := (m.pe p).fifo ++ [it], ringWins := w }) := by
  have ht : ((m.pe p).ringWins == 3) = false := beq_false_of_ne turn
  unfold pushFifo
  dsimp only
  rw [if_neg (by simp [ht]; omega)]
  exact ⟨_, rfl⟩

/-- A token for another PE of its tile goes from Route into that PE's Receive FIFO. -/
theorem route_inTile {p : PeId} {o : Out} {rest : List Out} (hq : (m.pe p).routeQ = o :: rest) (live : m.live o.tok.job = true)
    (own : o.tok.modNo = m.number) (tile : peTile o.tok.pe = peTile p) (ne : o.tok.pe ≠ p) (room : (m.pe o.tok.pe).fifo.length < 8)
    (turn : (m.pe o.tok.pe).ringWins ≠ 3) :
    ((m.route p).pe p).routeQ = rest ∧ ((m.route p).pe o.tok.pe).fifo = (m.pe o.tok.pe).fifo
      ++ [⟨o.tok, srcOf (peDie p) (peStop p) ((p.truncate 7 : BitVec 7).zeroExtend 8), o.slot⟩] := by
  obtain ⟨w, hw⟩ := pushFifo_ring (it := ⟨o.tok, srcOf (peDie p) (peStop p) ((p.truncate 7 : BitVec 7).zeroExtend 8), o.slot⟩) room turn
  have hne : (o.tok.pe == p) = false := beq_false_of_ne ne
  unfold route
  dsimp only
  rw [hq]
  dsimp only
  rw [if_neg (by simp [live]), if_pos ⟨own, tile⟩, hne, hw]
  refine ⟨by rw [pe_modPe], ?_⟩
  rw [pe_modPe_ne ne, pe_setPe]

end Mach
end Sys2Proof.Machine

section
open Sys2Proof Sys2Proof.Machine

/-- Settles O29: a selection by `stopInject_selects`, a hop by `ringHop_queues`, a link by `foxglove_ends`, a bridge by `bridge_toHub` and Route by `route_inTile`. -/
theorem packetsMoveOn : Obligations.PacketsMoveOn := by
  refine ⟨?_, ?_, ?_, ?_, ?_⟩
  · intro s die stop vc i x k ccw hs hrels hmsgs hcand hreqs hvc hpick hr
    have hp : s.m.pickInjection die stop = (some (vc, i, x), []) := hpick.elim id (Mach.pickInjection_single hcand)
    rw [exec_stopInject s hs, Mach.stopInject_selects hrels hmsgs hcand hreqs hvc hp hr]
    refine ⟨_, rfl, ?_, rfl⟩
    rw [Mach.stop_modStop, Mach.stop_modStop, hcand]
    rfl
  · intro s die stop ring vc i x hs hring nx p dest empty hc hx hr room form live on hmc free
    exact ⟨_, exec_ringHop s hs hring .clean, Mach.ringHop_queues empty hc hx rfl hr room hs hring rfl form live on hmc free⟩
  · intro s die link back vc x rest hl far p hq single multi form live stays takes room
    have hh : p.h = { x.pkt.h with age := s.m.age x, detour := true } := by simp [p, Mach.aged]
    have hm : p.h.mc = x.pkt.h.mc := by rw [hh]
    have hk : p.h.smask = x.pkt.h.smask := by rw [hh]
    obtain ⟨t, ht, hop⟩ := Mach.foxglove_ends (s := far) rfl rfl hq (fun h => single (hm ▸ h)) (fun h => hk ▸ multi (hm ▸ h))
      form live stays takes room
    obtain ⟨t', ht', others, queued, ended⟩ := Mach.eject_queued takes room
    obtain rfl := Option.some.inj (ht.symm.trans ht')
    rw [exec_foxgloveTraversal s hl, hop]
    refine ⟨_, rfl, ?_, ?_, fun v f one tid => ?_⟩
    · rw [Mach.queue_deq, others _ qEj_ne_qFgl.symm, hq, List.drop_one, List.tail_cons]
    · rw [Mach.queue_deq_ne _ qEj_ne_qFgl, queued, List.map_append]
      rfl
    · exact ended v f one tid
  · intro s die br vc x rest hq hub form tok tok'
    refine ⟨_, rfl, ?_⟩
    dsimp only
    rw [Mach.bridge_toHub hq hub form tok tok']
    constructor
    · rw [Mach.queue_enq_ne _ qEj_ne_qHub, Mach.queue_deq, hq, List.drop_one, List.tail_cons]
    · rw [Mach.queue_enq, Mach.queue_deq_ne _ qEj_ne_qHub.symm, List.map_append]
      rfl
  · intro s p o rest hq live own tile ne room turn
    exact ⟨_, rfl, Mach.route_inTile hq live own tile ne room turn⟩

end

namespace Sys2Proof.Machine

/-! Emissions: what an instruction of a firing comes to on a context that issues it, the target tag of an emission (R43 to R47), and the record it appends (R115). -/

section
variable {s : State} {p : PeId} {c : BitVec 4} {ws : BitVec 16} {y : Ctx} {side : Side} {f : Mach → Ctx → Except Trap Ctx}

/-- An instruction of a firing that nothing of R119 stops leaves the context as it computes it. -/
theorem issuePe_leaves {z : Ctx} (turns : s.turns p c ws y) (clear : s.m.peBlock y side = none) (h : f s.m y = .ok z) :
    s.on (fun m => m.issuePe p c ws side (f m)) = .next (s.leaves p c z) := by
  obtain ⟨turn, clean⟩ := turns
  simp only [on_eq, State.leaves, Mach.issuePe, turn, fetchCode_clean (turn_some turn) clean, peIssue_clear clear, h]

/-- An instruction of a firing that nothing of R119 stops and that traps is taken as that trap. -/
theorem issuePe_traps {tr : Trap} (turns : s.turns p c ws y) (clear : s.m.peBlock y side = none) (h : f s.m y = .error tr) :
    s.on (fun m => m.issuePe p c ws side (f m)) = .next (s.traps (.pe p c ws) tr) := by
  obtain ⟨turn, clean⟩ := turns
  simp only [on_eq, State.traps, Mach.trapped, Mach.issuePe, turn, turn_some turn, fetchCode_clean (turn_some turn) clean,
    peIssue_clear clear, h]

end

/-! The target of an emission -/

section
variable {g o : Nat} {t : Tag}

/-- A target past the Lookahead Ceiling traps (R44). -/
theorem emitTarget_beyond (h : g + 2 ^ 46 < t.time.toNat + o) :
    emitTarget g t o = .error { code := 0x0A, value := BitVec.ofNat 64 o } := if_pos h

/-- An offset of 0 at the last delta traps (R45). -/
theorem emitTarget_lastDelta (within : t.time.toNat ≤ g + 2 ^ 46) (last : t.delta = 4095) :
    emitTarget g t 0 = .error { code := 0x0B } := by
  unfold emitTarget
  rw [Nat.add_zero, if_neg (Nat.not_lt.mpr within), if_pos rfl, if_pos last]

/-- An offset of 0 keeps the time and takes the next delta (R43). -/
theorem emitTarget_nextDelta (within : t.time.toNat ≤ g + 2 ^ 46) (below : t.delta ≠ 4095) :
    emitTarget g t 0 = .ok (⟨t.time, t.delta + 1⟩, false, some 0) := by
  unfold emitTarget
  rw [Nat.add_zero, if_neg (Nat.not_lt.mpr within), if_pos rfl, if_neg below]

/-- An offset that is not 0 adds to the time and gives delta 0 (R43). -/
theorem emitTarget_later (pos : 0 < o) (within : t.time.toNat + o ≤ g + 2 ^ 46) (fits : t.time.toNat + o < 2 ^ 64) :
    emitTarget g t o = .ok (⟨BitVec.ofNat 64 (t.time.toNat + o), 0⟩, false,
      if o < 2 ^ 23 then some (BitVec.ofNat 23 o) else none) := by
  unfold emitTarget
  rw [if_neg (Nat.not_lt.mpr within), if_neg pos.ne', if_neg (Nat.not_le.mpr fits)]

/-- A time past the last one saturates there with delta 0, marked (R47). -/
theorem emitTarget_saturates (within : t.time.toNat + o ≤ g + 2 ^ 46) (past : 2 ^ 64 ≤ t.time.toNat + o) :
    emitTarget g t o = .ok (⟨BitVec.ofNat 64 (2 ^ 64 - 1), 0⟩, true,
      if o < 2 ^ 23 then some (BitVec.ofNat 23 o) else none) := by
  have pos : o ≠ 0 := by have := t.time.isLt; omega
  unfold emitTarget
  rw [if_neg (Nat.not_lt.mpr within), if_neg pos, if_pos past]
  rfl

end

/-! The record of an emission -/

section
variable {m : Mach} {x : Ctx} {o : Nat} {pv : BitVec 4} {t2 : Bool} {mask : BitVec 8}

/-- A mask of 0 makes no check and appends nothing (R115). -/
theorem emission_maskZero : m.emission x o pv t2 0 = .ok { x with th := x.th.next, emits := x.emits ++ [] } := by
  rw [List.append_nil]
  rfl

/-- A seventeenth record overruns (R92). -/
theorem emission_overrun (named : mask ≠ 0) (full : 16 ≤ x.emits.length) :
    m.emission x o pv t2 mask = .error { code := 0x03, reason := 2 } :=
  (if_neg named).trans (if_pos full)

/-- An emission whose target traps traps so. -/
theorem emission_error (named : mask ≠ 0) (room : x.emits.length < 16) {tr : Trap}
    (target : emitTarget (m.job x.job).gvt.time.toNat x.tag o = .error tr) : m.emission x o pv t2 mask = .error tr := by
  unfold Mach.emission
  rw [if_neg named, if_neg (Nat.not_le.mpr room), target]

/-- An emission with a target appends one record with it and the value of its pair, plane B as 0 for a two-state one (R115). -/
theorem emission_ok (named : mask ≠ 0) (room : x.emits.length < 16) {tg : Tag} {sat : Bool} {eoff : Option (BitVec 23)}
    (target : emitTarget (m.job x.job).gvt.time.toNat x.tag o = .ok (tg, sat, eoff)) :
    m.emission x o pv t2 mask = .ok { x with th := x.th.next, emits := x.emits ++
      [⟨mask, tg, sat, x.th.get (pairA pv), if t2 then 0 else x.th.get (pairB pv), t2, eoff⟩] } := by
  unfold Mach.emission
  rw [if_neg named, if_neg (Nat.not_le.mpr room), target]
  rfl

end

/-! EMIT and EMITD on a context that issues -/

section
variable {s : State} {p : PeId} {c : BitVec 4} {ws : BitVec 16} {y : Ctx} {pv : BitVec 4} {ro : BitVec 5} {t2 : Bool} {mask : BitVec 8}

/-- EMIT leaves the context as an emission at the offset in RO does. -/
theorem exec_emit_leaves {z : Ctx} (turns : s.turns p c ws y) (clear : s.m.peBlock y .peOnly = none)
    (h : s.m.emission y (y.th.get ro).toNat pv t2 mask = .ok z) :
    exec (.emit (.pe p c ws) pv ro t2 mask) s = .next (s.leaves p c z) :=
  issuePe_leaves (f := fun m y => m.emission y (y.th.get ro).toNat pv t2 mask) turns clear h

/-- EMIT traps as an emission at the offset in RO does. -/
theorem exec_emit_traps {tr : Trap} (turns : s.turns p c ws y) (clear : s.m.peBlock y .peOnly = none)
    (h : s.m.emission y (y.th.get ro).toNat pv t2 mask = .error tr) :
    exec (.emit (.pe p c ws) pv ro t2 mask) s = .next (s.traps (.pe p c ws) tr) :=
  issuePe_traps (f := fun m y => m.emission y (y.th.get ro).toNat pv t2 mask) turns clear h

/-- EMITD leaves the context as an emission at offset 0 does. -/
theorem exec_emitd_leaves {z : Ctx} (turns : s.turns p c ws y) (clear : s.m.peBlock y .peOnly = none)
    (h : s.m.emission y 0 pv t2 mask = .ok z) :
    exec (.emitd (.pe p c ws) pv t2 mask) s = .next (s.leaves p c z) :=
  issuePe_leaves (f := fun m y => m.emission y 0 pv t2 mask) turns clear h

/-- EMITD traps as an emission at offset 0 does. -/
theorem exec_emitd_traps {tr : Trap} (turns : s.turns p c ws y) (clear : s.m.peBlock y .peOnly = none)
    (h : s.m.emission y 0 pv t2 mask = .error tr) :
    exec (.emitd (.pe p c ws) pv t2 mask) s = .next (s.traps (.pe p c ws) tr) :=
  issuePe_traps (f := fun m y => m.emission y 0 pv t2 mask) turns clear h

end

end Sys2Proof.Machine

section
open Sys2Proof Sys2Proof.Machine

/-- The records of O18: each target of R43 gives the record appended. -/
theorem emissionRecords : Claim.EmissionRecords := by
  intro s p c ws y pv ro t2 mask turns clear room
  refine ⟨?_, ?_, ?_, ?_, ?_⟩
  · rintro rfl
    exact ⟨exec_emit_leaves turns clear emission_maskZero, exec_emitd_leaves turns clear emission_maskZero⟩
  · intro named pos within fits
    exact exec_emit_leaves turns clear (emission_ok named room (emitTarget_later pos within fits))
  · intro named within past
    exact exec_emit_leaves turns clear (emission_ok named room (emitTarget_saturates within past))
  · intro named zero within below
    refine exec_emit_leaves turns clear ?_
    rw [zero]
    exact emission_ok named room (emitTarget_nextDelta within below)
  · intro named within below
    exact exec_emitd_leaves turns clear (emission_ok named room (emitTarget_nextDelta within below))

/-- The traps of O18: a full list of records, and the targets that trap. -/
theorem emissionTraps : Claim.EmissionTraps := by
  intro s p c ws y pv ro t2 mask turns clear named
  refine ⟨?_, ?_, ?_, ?_, ?_⟩
  · intro full
    exact ⟨exec_emit_traps turns clear (emission_overrun named full), exec_emitd_traps turns clear (emission_overrun named full)⟩
  · intro room beyond
    exact exec_emitd_traps turns clear (emission_error named room (emitTarget_beyond beyond))
  · intro room zero within last
    refine exec_emit_traps turns clear ?_
    rw [zero]
    exact emission_error named room (emitTarget_lastDelta within last)
  · intro room beyond
    exact exec_emit_traps turns clear (emission_error named room (emitTarget_beyond beyond))
  · intro room within last
    exact exec_emitd_traps turns clear (emission_error named room (emitTarget_lastDelta within last))

/-- Settles O18, by its two parts. -/
theorem emissions : Obligations.Emissions := ⟨emissionRecords, emissionTraps⟩

end

namespace Sys2Proof.Machine

/-! The stores of the module: PEs, clusters, tiles, jobs, the module number and the system wave, which the memory with its check codes, the reports and the writes of Emit leave alone. As simp lemmas these facts compose along the definitions. -/

namespace Mach

/-- The PEs, clusters, tiles and jobs of a module, its number, and its part in the system wave. -/
def stores (m : Mach) : SMap Pe × SMap Cluster × SMap Tile × SMap Job × Byte × Wave :=
  (m.pes, m.clusters, m.tiles, m.jobs, m.number, m.wave)

section
variable {m m' : Mach}

theorem pes_of_stores (h : m'.stores = m.stores) : m'.pes = m.pes := congrArg (·.1) h
theorem clusters_of_stores (h : m'.stores = m.stores) : m'.clusters = m.clusters := congrArg (·.2.1) h
theorem tiles_of_stores (h : m'.stores = m.stores) : m'.tiles = m.tiles := congrArg (·.2.2.1) h
theorem jobs_of_stores (h : m'.stores = m.stores) : m'.jobs = m.jobs := congrArg (·.2.2.2.1) h
theorem number_of_stores (h : m'.stores = m.stores) : m'.number = m.number := congrArg (·.2.2.2.2.1) h
theorem wave_of_stores (h : m'.stores = m.stores) : m'.wave = m.wave := congrArg (·.2.2.2.2.2) h
theorem pe_of_stores (h : m'.stores = m.stores) (p : PeId) : m'.pe p = m.pe p := by simp [pe, pes_of_stores h]
theorem cluster_of_stores (h : m'.stores = m.stores) (c : ClusterId) : m'.cluster c = m.cluster c := by
  simp [cluster, clusters_of_stores h]
theorem tile_of_stores (h : m'.stores = m.stores) (t : TileId) : m'.tile t = m.tile t := by simp [tile, tiles_of_stores h]
theorem job_of_stores (h : m'.stores = m.stores) (j : JobId) : m'.job j = m.job j := by simp [job, jobs_of_stores h]
theorem tagOf_of_stores (h : m'.stores = m.stores) (j : JobId) (k : Key) : m'.tagOf j k = m.tagOf j k := by
  simp [tagOf, job_of_stores h]
theorem recAddr_of_stores (h : m'.stores = m.stores) (r : NRef) : m'.recAddr r = m.recAddr r := by
  simp [recAddr, nodeIndex, job_of_stores h]
theorem stAddr_of_stores (h : m'.stores = m.stores) (r : NRef) : m'.stAddr r = m.stAddr r := by
  simp [stAddr, nodeIndex, job_of_stores h]
theorem level_of_stores (h : m'.stores = m.stores) (p : PeId) (pl : Place) : m'.level p pl = m.level p pl := by
  cases pl <;> simp [level, pe_of_stores h, cluster_of_stores h, tile_of_stores h]
theorem groupsOf_of_stores (h : m'.stores = m.stores) (r : NRef) : m'.groupsOf r = m.groupsOf r := by
  simp [groupsOf, level_of_stores h]

end

/-! Folds and choices keep the stores where each step or branch does -/

@[simp] theorem ite_stores (c : Prop) [Decidable c] (a b : Mach) : (if c then a else b).stores = if c then a.stores else b.stores :=
  apply_ite stores c a b

@[simp] theorem foldl_stores {α : Type} {f : Mach → α → Mach} (h : ∀ m a, (f m a).stores = m.stores) (l : List α) (m : Mach) :
    (l.foldl f m).stores = m.stores := by
  induction l generalizing m with
  | nil => rfl
  | cons a l ih => exact (ih _).trans (h m a)

variable (m : Mach)

/-! Counts and reports -/

@[simp] theorem count_stores (i k n : Nat) : (m.count i k n).stores = m.stores := rfl

@[simp] theorem countJ_stores (b : Nat) (j : JobId) (k n : Nat) : (m.countJ b j k n).stores = m.stores := by
  unfold countJ
  split <;> rfl

@[simp] theorem modMs_stores (f : MemSys → MemSys) : (m.modMs f).stores = m.stores := rfl

@[simp] theorem raiseSource_stores (n : Nat) : (m.raiseSource n).stores = m.stores := by
  obtain ⟨i, c, o, z, h⟩ := m.raiseSource_eq n
  simp [h, stores]

@[simp] theorem logErr_stores (sev block reason : Nat) (j : Option JobId) (loc : Nat) (d0 d1 d2 d3 : Word) (perm : Bool) :
    (m.logErr sev block reason j loc d0 d1 d2 d3 perm).stores = m.stores := by
  obtain ⟨l, i, c, o, h, f, u, q, s, z, e⟩ := m.logErr_eq sev block reason j loc d0 d1 d2 d3 perm
  simp [e, stores]

@[simp] theorem setEvt_stores (fn : Nat) (v : Word) : (m.setEvt fn v).stores = m.stores := by
  obtain ⟨h, f, u, z, e⟩ := m.setEvt_eq fn v
  simp [e, stores]

@[simp] theorem ringRecord_stores (r : Nat) (w : List Word) : (m.ringRecord r w).stores = m.stores := by
  obtain ⟨e, i, c, o, z, h⟩ := m.ringRecord_eq r w
  simp [h, stores]

@[simp] theorem requestPost_stores (k : Nat) : (m.requestPost k).stores = m.stores := by
  unfold requestPost
  dsimp only
  split
  · rfl
  · split <;> rfl

/-! Memory and the writes of a node -/

@[simp] theorem halfClear_stores (h : Nat) : (m.halfClear h).stores = m.stores := rfl

@[simp] theorem halfPoison_stores (h : Nat) : (m.halfPoison h).stores = m.stores := by simp [halfPoison, logHalf]

@[simp] theorem halfRead_stores (h : Nat) : (m.halfRead h).2.stores = m.stores := by
  unfold halfRead
  dsimp only
  split <;> simp [logHalf]

@[simp] theorem halfInject_stores (h : Nat) : (m.halfInject h).stores = m.stores := by
  unfold halfInject
  dsimp only
  split <;> simp

@[simp] theorem setMem_stores (x : Mem) : ({ m with mem := x } : Mach).stores = m.stores := rfl

@[simp] theorem hbmWrite_stores (a : Nat) (d : List Byte) : (m.hbmWrite a d).stores = m.stores := by
  refine (setMem_stores _ _).trans (foldl_stores (fun m h => ?_) _ m)
  dsimp only
  split
  · simp
  · split <;> simp

@[simp] theorem hbmWords_stores (a : Nat) (ws : List Word) : (m.hbmWords a ws).stores = m.stores := by simp [hbmWords]

@[simp] theorem sramWrite_stores (die : BitVec 2) (loc : Nat) : (m.sramWrite die loc).stores = m.stores := rfl

@[simp] theorem sramPut_stores (t : TileId) (kind unit : Nat) (l : List Nat) : (m.sramPut t kind unit l).stores = m.stores := by
  unfold sramPut
  split
  · rfl
  · exact foldl_stores (fun m w => m.sramWrite_stores _ _) l m

@[simp] theorem putWords_stores (p : PeId) (pl : Place) (i : Nat) (ws : List Nat) : (m.putWords p pl i ws).stores = m.stores := by
  cases pl <;> simp [putWords]

@[simp] theorem lineWrite_stores (a : Nat) (v : Word) : (m.lineWrite a v).stores = m.stores := by
  refine (setMem_stores _ _).trans ?_
  simp

@[simp] theorem setFree_stores (n : Nat) : ({ m with free := n } : Mach).stores = m.stores := rfl

@[simp] theorem cacheWrite_stores (p : PeId) (k : Nat) : (m.cacheWrite p k).stores = m.stores := by
  unfold cacheWrite
  split
  · rfl
  · exact (sramPut_stores _ _ _ _ _).trans (setFree_stores m _)

@[simp] theorem setRecW_stores (r : NRef) (k : Nat) (v : Word) : (m.setRecW r k v).stores = m.stores := by simp [setRecW]

@[simp] theorem setSetlW_stores (r : NRef) (k : Nat) (l : List Word) : (m.setSetlW r k l).stores = m.stores := by simp [setSetlW]

@[simp] theorem setLast_stores (r : NRef) (t : Tag) : (m.setLast r t).stores = m.stores := by simp [setLast]

@[simp] theorem setHeld_stores (r : NRef) (k : Nat) (a b : Word) : (m.setHeld r k a b).stores = m.stores := by simp [setHeld]

@[simp] theorem tgtForward_stores (r : NRef) (port : Nat) (old : Word × Word × Tag) (t : Tag) (a b : Word) :
    (m.tgtForward r port old t a b).stores = m.stores := by
  have store : ∀ (m : Mach) (j : JobId) (i : Nat) (t : Tag) (a b : Word), (m.tgtStore j i t a b).stores = m.stores := fun _ _ _ _ _ _ => rfl
  simp [tgtForward, store]

@[simp] theorem settle_stores (r : NRef) (port : Nat) (a b : Word) (t : Tag) : (m.settle r port a b t).stores = m.stores := by
  simp [settle, setSettled]

@[simp] theorem foldGroup_stores (p : PeId) (pl : Place) (g : GRef) : (m.foldGroup p pl g).stores = m.stores := by
  simp [foldGroup, setSft]

end Mach
end Sys2Proof.Machine

namespace Sys2Proof.Machine

/-! Words of memory after a write: the bytes of a word, and the word that was written. -/

theorem natBytes_length (n v : Nat) : (natBytes n v).length = n := by
  induction n generalizing v with
  | zero => rfl
  | succ n ih => simp [natBytes, ih]

theorem bytesNat_natBytes (n v : Nat) : bytesNat (natBytes n v) = v % 256 ^ n := by
  induction n generalizing v with
  | zero => simp [natBytes, bytesNat, Nat.mod_one]
  | succ n ih =>
    rw [natBytes, bytesNat, ih, pow_succ', Nat.mod_mul]
    simp

/-- Bytes read where they have been written. -/
theorem memBytes_of_get {m : Mem} {a : Nat} {d : List Byte} (h : ∀ i, (hi : i < d.length) → memGet m (a + i) = d[i]) :
    memBytes m a d.length = d := by
  apply List.ext_getElem
  · simp [memBytes]
  · intro i h1 h2
    simp [memBytes, h i h2]

theorem bytesNat_word (v : Word) : BitVec.ofNat 64 (bytesNat (natBytes 8 v.toNat)) = v := by
  rw [bytesNat_natBytes]
  apply BitVec.eq_of_toNat_eq
  have := v.isLt
  simp only [BitVec.toNat_ofNat]
  omega

/-- The word at an address whose eight bytes hold it. -/
theorem memWord_of_get {m : Mem} {a : Nat} {v : Word}
    (h : ∀ i, (hi : i < (natBytes 8 v.toNat).length) → memGet m (a + i) = (natBytes 8 v.toNat)[i]) : memWord m a = v := by
  have := memBytes_of_get h
  rw [natBytes_length] at this
  rw [memWord, this, bytesNat_word]

theorem memWord_congr {m m' : Mem} {a : Nat} (h : ∀ b, a ≤ b → b < a + 8 → memGet m' b = memGet m b) :
    memWord m' a = memWord m a := by
  have : memBytes m' a 8 = memBytes m a 8 := List.map_congr_left fun i hi => h _ (by omega) (by simp at hi; omega)
  rw [memWord, memWord, this]

namespace Mach

/-- Of its stores and its memory, m' differs from m in the bytes from lo to hi of memory alone, and its memory is as clean. -/
structure Alters (m m' : Mach) (lo hi : Nat) : Prop where
  stores : m'.stores = m.stores
  clean : m'.cleanMemory
  same : ∀ b, b < lo ∨ hi ≤ b → memGet m'.mem b = memGet m.mem b

namespace Alters

variable {m m' m'' : Mach} {lo hi lo' hi' : Nat}

theorem trans (h : Alters m m' lo hi) (h' : Alters m' m'' lo hi) : Alters m m'' lo hi :=
  ⟨h'.stores.trans h.stores, h'.clean, fun b hb => (h'.same b hb).trans (h.same b hb)⟩

theorem mono (h : Alters m m' lo hi) (hl : lo' ≤ lo) (hh : hi ≤ hi') : Alters m m' lo' hi' :=
  ⟨h.stores, h.clean, fun b hb => h.same b (by omega)⟩

/-- Nothing of memory altered is no byte of any range altered. -/
theorem nothing (h : Alters m m' 0 0) : Alters m m' lo hi := ⟨h.stores, h.clean, fun b _ => h.same b (by omega)⟩

theorem word (h : Alters m m' lo hi) {a : Nat} (ha : a + 8 ≤ lo ∨ hi ≤ a) : memWord m'.mem a = memWord m.mem a :=
  memWord_congr fun b h1 h2 => h.same b (by omega)

theorem recW (h : Alters m m' lo hi) {r : NRef} {k : Nat} (ha : m.recAddr r + 8 * k + 8 ≤ lo ∨ hi ≤ m.recAddr r + 8 * k) :
    m'.recW r k = m.recW r k := by
  rw [Mach.recW, Mach.recW, recAddr_of_stores h.stores, h.word ha]

theorem setlW (h : Alters m m' lo hi) {r : NRef} {k : Nat}
    (ha : m.stAddr r + 128 + 8 * k + 8 ≤ lo ∨ hi ≤ m.stAddr r + 128 + 8 * k) : m'.setlW r k = m.setlW r k := by
  rw [Mach.setlW, Mach.setlW, stAddr_of_stores h.stores, h.word ha]

/-- A loop of operations that alter a range alters that range. -/
theorem foldl {α : Type} {f : Mach → α → Mach} (l : List α) (clean : m.cleanMemory)
    (h : ∀ x a, a ∈ l → Alters m x lo hi → Alters x (f x a) lo hi) : Alters m (l.foldl f m) lo hi := by
  suffices ∀ x, Alters m x lo hi → Alters m (l.foldl f x) lo hi from this m ⟨rfl, clean, fun _ _ => rfl⟩
  induction l with
  | nil => exact fun x hx => hx
  | cons a l ih => exact fun x hx => ih (fun y b hb hy => h y b (.tail _ hb) hy) _ (hx.trans (h x a (.head _) hx))

end Alters

section
variable {m : Mach} (clean : m.cleanMemory)
include clean

theorem alters_refl : Alters m m 0 0 := ⟨rfl, clean, fun _ _ => rfl⟩

theorem count_alters (i k n : Nat) : Alters m (m.count i k n) 0 0 := ⟨rfl, clean, fun _ _ => rfl⟩

theorem halfClear_alters (h : Nat) : Alters m (m.halfClear h) 0 0 := by
  refine ⟨rfl, ?_, fun _ _ => rfl⟩
  simpa [cleanMemory, halfClear, modMs, clean.2.1, clean.2.2.1, clean.2.2.2.1, SMap.erase] using clean

theorem halfInject_alters (h : Nat) : Alters m (m.halfInject h) 0 0 := by
  have : m.halfInject h = m := by
    obtain ⟨-, -, -, -, -, -, -, inj, mis, -⟩ := clean
    simp [halfInject, inj, mis]
  rw [this]
  exact alters_refl clean

theorem halfRead_cleanMemory (h : Nat) : m.halfRead h = (.clean, m) := by
  apply halfRead_clean
  obtain ⟨-, flaw, poison, mis, -⟩ := clean
  simp [halfCheck, flaw, poison, mis, SMap.getD, popN]

theorem hbmWrite_halves_alters (a n : Nat) : Alters m ((halvesOf a n).foldl (fun m h =>
    let whole := decide (a ≤ h ∧ h + 32 ≤ a + n)
    let m := if whole then m.halfClear h
      else
        let (c, m) := (m.count 0x4A00 0x08).halfRead h
        if c == .bad || c == .poison then m.halfPoison h else m
    m.halfInject h) m) 0 0 := by
  refine Alters.foldl _ clean fun x h _ hx => ?_
  dsimp only
  split
  · have := halfClear_alters hx.clean h
    exact this.trans (halfInject_alters this.clean h)
  · have := count_alters hx.clean 0x4A00 0x08 1
    rw [halfRead_cleanMemory this.clean]
    exact this.trans (halfInject_alters this.clean h)

theorem hbmWrite_alters (a : Nat) (d : List Byte) : Alters m (m.hbmWrite a d) a (a + d.length) := by
  have h := hbmWrite_halves_alters clean a d.length
  refine ⟨hbmWrite_stores _ _ _, ?_, fun b hb => ?_⟩
  · obtain ⟨f1, f2, f3, f4, f5, f6, f7, f8, f9, f10, wf⟩ := h.clean
    exact ⟨f1, f2, f3, f4, f5, f6, f7, f8, f9, f10, memWrite_wf _ _ _ wf⟩
  · exact (memGet_memWrite_outside d _ a b h.clean.2.2.2.2.2.2.2.2.2.2 hb).trans (h.same b (by omega))

theorem memGet_hbmWrite (a : Nat) (d : List Byte) {i : Nat} (hi : i < d.length) : memGet (m.hbmWrite a d).mem (a + i) = d[i] :=
  memGet_memWrite_inside d _ a i (hbmWrite_halves_alters clean a d.length).clean.2.2.2.2.2.2.2.2.2.2 hi

theorem sramWrite_alters (die : BitVec 2) (loc : Nat) : Alters m (m.sramWrite die loc) 0 0 := by
  refine ⟨rfl, ?_, fun _ _ => rfl⟩
  obtain ⟨f1, f2, f3, f4, f5, f6, f7, f8, f9, f10, wf⟩ := clean
  simp [cleanMemory, sramWrite, modMs, *, SMap.erase]

theorem sramPut_alters (t : TileId) (kind unit : Nat) (l : List Nat) : Alters m (m.sramPut t kind unit l) 0 0 := by
  unfold sramPut
  split
  · exact alters_refl clean
  · exact Alters.foldl l clean fun x w _ hx => sramWrite_alters hx.clean _ _

theorem lineWrite_eq (a : Nat) (v : Word) : m.lineWrite a v = { m with mem := memSetWord m.mem a v } := by
  obtain ⟨-, flaw, poison, mis, -, -, -, inj, injMis, -⟩ := clean
  simp [lineWrite, flaw, poison, mis, inj, injMis]

theorem lineWrite_alters (a : Nat) (v : Word) : Alters m (m.lineWrite a v) a (a + 8) := by
  rw [lineWrite_eq clean]
  obtain ⟨f1, f2, f3, f4, f5, f6, f7, f8, f9, f10, wf⟩ := clean
  refine ⟨rfl, ⟨f1, f2, f3, f4, f5, f6, f7, f8, f9, f10, memSetWord_wf _ _ _ wf⟩, fun b hb => ?_⟩
  exact memGet_memWrite_outside _ _ a b wf (by rwa [natBytes_length])

theorem memWord_lineWrite (a : Nat) (v : Word) : memWord (m.lineWrite a v).mem a = v := by
  rw [lineWrite_eq clean]
  exact memWord_of_get fun i hi => memGet_memWrite_inside _ _ a i clean.2.2.2.2.2.2.2.2.2.2 hi

theorem cacheWrite_alters (p : PeId) (k : Nat) : Alters m (m.cacheWrite p k) 0 0 := by
  unfold cacheWrite
  split
  · exact alters_refl clean
  · have free : Alters m { m with free := m.free + 1 } 0 0 := ⟨rfl, clean, fun _ _ => rfl⟩
    exact free.trans (sramPut_alters free.clean _ _ _ _)

/-! The words of a node's record, of its settled record and its held values -/

theorem setRecW_alters (r : NRef) (k : Nat) (v : Word) :
    Alters m (m.setRecW r k v) (m.recAddr r + 8 * k) (m.recAddr r + 8 * k + 8) := by
  have h := cacheWrite_alters clean r.pe k
  exact h.nothing.trans (lineWrite_alters h.clean _ v)

theorem recW_setRecW (r : NRef) (k : Nat) (v : Word) : (m.setRecW r k v).recW r k = v := by
  have h := cacheWrite_alters clean r.pe k
  rw [recW, recAddr_of_stores (setRecW_stores ..)]
  exact memWord_lineWrite h.clean _ v

theorem setSetlW_alters (r : NRef) (k : Nat) (l : List Word) :
    Alters m (m.setSetlW r k l) (m.stAddr r + 128 + 8 * k) (m.stAddr r + 128 + 8 * k + 8 * l.length) := by
  have len : (l.flatMap (fun v => natBytes 8 v.toNat)).length = 8 * l.length := by
    simp [List.length_flatMap, natBytes_length, Nat.mul_comm]
  have h := hbmWrite_alters clean (m.stAddr r + 128 + 8 * k) (l.flatMap (fun v => natBytes 8 v.toNat))
  rwa [len] at h

theorem setlW_setSetlW_one (r : NRef) (k : Nat) (v : Word) : (m.setSetlW r k [v]).setlW r k = v := by
  rw [setlW, stAddr_of_stores (setSetlW_stores ..)]
  refine memWord_of_get fun i hi => ?_
  have := memGet_hbmWrite clean (m.stAddr r + 128 + 8 * k) (natBytes 8 v.toNat) hi
  simpa [setSetlW] using this

theorem setHeld_alters (r : NRef) {k : Nat} (hk : k < 8) (a b : Word) :
    Alters m (m.setHeld r k a b) (m.stAddr r) (m.stAddr r + 128) := by
  have h1 := cacheWrite_alters clean r.pe k
  have h2 := lineWrite_alters h1.clean (m.stAddr r + 8 * k) a
  have h3 := cacheWrite_alters h2.clean r.pe k
  have h4 := lineWrite_alters h3.clean (m.stAddr r + 64 + 8 * k) b
  exact ((h1.nothing.trans (h2.mono (by omega) (by omega))).trans h3.nothing).trans (h4.mono (by omega) (by omega))

theorem held_setHeld_self (r : NRef) {k : Nat} (hk : k < 8) (a b : Word) : (m.setHeld r k a b).held r k = (a, b) := by
  have h1 := cacheWrite_alters clean r.pe k
  have h2 := lineWrite_alters h1.clean (m.stAddr r + 8 * k) a
  have h3 := cacheWrite_alters h2.clean r.pe k
  have h4 := lineWrite_alters h3.clean (m.stAddr r + 64 + 8 * k) b
  have ha := (h4.word (a := m.stAddr r + 8 * k) (by omega)).trans ((h3.word (by omega)).trans (memWord_lineWrite h1.clean _ a))
  have hb := memWord_lineWrite h3.clean (m.stAddr r + 64 + 8 * k) b
  rw [held, stAddr_of_stores (setHeld_stores ..)]
  exact Prod.ext ha hb

theorem held_setHeld_ne (r : NRef) {k i : Nat} (hk : k < 8) (hi : i < 8) (ne : i ≠ k) (a b : Word) :
    (m.setHeld r k a b).held r i = m.held r i := by
  have h1 := cacheWrite_alters clean r.pe k
  have h2 := lineWrite_alters h1.clean (m.stAddr r + 8 * k) a
  have h3 := cacheWrite_alters h2.clean r.pe k
  have h4 := lineWrite_alters h3.clean (m.stAddr r + 64 + 8 * k) b
  have same : ∀ a, (a + 8 ≤ m.stAddr r + 8 * k ∨ m.stAddr r + 8 * k + 8 ≤ a) →
      (a + 8 ≤ m.stAddr r + 64 + 8 * k ∨ m.stAddr r + 64 + 8 * k + 8 ≤ a) →
      memWord (m.setHeld r k _ b).mem a = memWord m.mem a := fun a ha hb =>
    (h4.word hb).trans ((h3.word (by omega)).trans ((h2.word ha).trans (h1.word (by omega))))
  rw [held, stAddr_of_stores (setHeld_stores ..), held, same _ (by omega) (by omega), same _ (by omega) (by omega)]

end

end Mach
end Sys2Proof.Machine

namespace Sys2Proof.Machine

namespace SMap

variable {α : Type}

theorem mem_set {m : SMap α} {k : Nat} {v : α} {e : Nat × α} (h : e ∈ SMap.set m k v) : e = (k, v) ∨ e ∈ m := by
  induction m with
  | nil => exact .inl (by simpa [SMap.set] using h)
  | cons a r ih =>
    unfold SMap.set at h
    split at h
    · simpa using h
    · split at h
      · rcases List.mem_cons.mp h with rfl | h
        · exact .inl rfl
        · exact .inr (.tail _ h)
      · rcases List.mem_cons.mp h with rfl | h
        · exact .inr (.head _)
        · exact (ih h).imp_right (.tail _)

/-- The first thing of a kind in a map is still the first of that kind after it is replaced by another of that kind. -/
theorem find?_set {m : SMap α} {k : Nat} {x v : α} {P : Nat × α → Bool} (h : m.find? P = some (k, x)) (hv : P (k, v) = true) :
    (SMap.set m k v).find? P = some (k, v) := by
  induction m with
  | nil => simp at h
  | cons a r ih =>
    unfold SMap.set
    split
    · simp [hv]
    · split
      · simp [hv]
      · next ne =>
        cases ha : P a with
        | true =>
          rw [List.find?_cons_of_pos ha] at h
          cases h
          exact absurd rfl ne
        | false =>
          rw [List.find?_cons_of_neg (by simp [ha])] at h ⊢
          exact ih h

/-- What stands at a key of a map that lists one thing. -/
theorem get?_single (i k : Nat) (x : α) : SMap.get? [(i, x)] k = if i = k then some x else none := rfl

end SMap

namespace Mach

variable (m : Mach)

/-! A field of a part after a part is changed -/

section
variable {β : Type}

theorem pe_modPe_field (φ : Pe → β) (p q : PeId) (f : Pe → Pe) (h : φ (f (m.pe p)) = φ (m.pe p)) :
    φ ((m.modPe p f).pe q) = φ (m.pe q) := by
  by_cases e : q = p
  · subst e
    rw [pe_modPe, h]
  · rw [m.pe_modPe_ne e]

theorem tile_modTile_field (φ : Tile → β) (t u : TileId) (f : Tile → Tile) (h : φ (f (m.tile t)) = φ (m.tile t)) :
    φ ((m.modTile t f).tile u) = φ (m.tile u) := by
  by_cases e : u = t
  · subst e
    rw [tile_modTile, h]
  · exact congrArg φ (m.tile_setTile_ne t u _ e)

theorem job_modJob_field (φ : Job → β) (j k : JobId) (f : Job → Job) (h : φ (f (m.job j)) = φ (m.job j)) :
    φ ((m.modJob j f).job k) = φ (m.job k) := by
  by_cases e : k = j
  · subst e
    rw [job_modJob, h]
  · rw [m.job_modJob_ne j k f e]

end

end Mach

/-! Entries of a group -/

theorem Entry.inGroup_iff {e : Entry} {p : PeId} {g : GRef} :
    e.inGroup p g = true ↔ e.job = g.job ∧ e.node = g.node ∧ e.key = g.key ∧ e.cid = g.cid ∧ e.locPe = p.truncate 7 := by
  simp [Entry.inGroup, and_assoc]

namespace Mach

section
variable {m m' : Mach} {p : PeId} {pl : Place} {g : GRef} {i : Nat} {e : Entry}

theorem ents_of_level (h : m'.level p pl = m.level p pl) (g : GRef) : m'.ents p pl g = m.ents p pl g := by rw [ents, h, ents]

theorem headOf_of_level (h : m'.level p pl = m.level p pl) (g : GRef) : m'.headOf p pl g = m.headOf p pl g := by
  rw [headOf, ents_of_level h, headOf]

theorem findGroup_of_level (h : ∀ pl, m'.level p pl = m.level p pl) (g : GRef) : m'.findGroup p g = m.findGroup p g := by
  simp [findGroup, ents_of_level (h _)]

theorem headOf_eq_find? : m.headOf p pl g = (m.level p pl).find? (fun e => e.2.inGroup p g && e.2.head) := by
  simp [headOf, ents, List.find?_filter, Bool.decide_and]

theorem headOf_mem (h : m.headOf p pl g = some (i, e)) : (i, e) ∈ m.level p pl ∧ e.inGroup p g = true ∧ e.head = true := by
  rw [headOf_eq_find?] at h
  have := List.find?_some h
  simp only [Bool.and_eq_true] at this
  exact ⟨List.mem_of_find?_eq_some h, this⟩

/-- A group's head is still found first after its entry is replaced by another head of the group. -/
theorem headOf_set (h : m.headOf p pl g = some (i, e)) {n : Entry} (hn : n.inGroup p g = true) (hh : n.head = true)
    (hl : m'.level p pl = SMap.set (m.level p pl) i n) : m'.headOf p pl g = some (i, n) := by
  rw [headOf_eq_find?] at h ⊢
  rw [hl]
  exact SMap.find?_set h (by simp [hn, hh])

theorem modHead_stores (h : m.headOf p pl g = some (i, e)) (f : Entry → Entry) :
    (m.modHead p pl g f).stores = (m.storeEnt p pl i (f e)).stores := by simp [modHead, h]

end

variable (m : Mach)

/-! Storing an entry above deep match -/

theorem putEnt_stores (p : PeId) (pl : Place) (i : Nat) (e : Entry) : (m.putEnt p pl i e).stores = (m.storeEnt p pl i e).stores := by
  simp [putEnt]

theorem level_storeEnt (p : PeId) {pl : Place} (deep : pl ≠ .deep) (i : Nat) (e : Entry) :
    (m.storeEnt p pl i e).level p pl = SMap.set (m.level p pl) i e := by
  cases pl with
  | iris => simp [storeEnt, level]
  | mob => simp [storeEnt, level]
  | deep => exact absurd rfl deep

/-! Rollback requests -/

/-- A rollback request is absorbed, or changes the requests of its tile alone. -/
theorem requestRb_stores (r : NRef) (k : Key) (anti : Bool) (who : Stage) : (m.requestRb r k anti who).stores = m.stores ∨
    ∃ q o l n, (m.requestRb r k anti who).stores = (m.modTile (peTile r.pe) (fun x =>
      { x with rbq := q, rbOvf := o, rbOut := l, rbOvfMin := n })).stores := by
  unfold requestRb
  dsimp only
  split_ifs with absorbed queued
  · exact .inl rfl
  · exact .inr ⟨_, _, _, _, rfl⟩
  · exact .inr ⟨_, _, _, _, ringRecord_stores _ _ _⟩

theorem requestRb_pe (r : NRef) (k : Key) (anti : Bool) (who : Stage) (p : PeId) : (m.requestRb r k anti who).pe p = m.pe p := by
  rcases m.requestRb_stores r k anti who with h | ⟨q, o, l, n, h⟩ <;> exact pe_of_stores h p

theorem requestRb_cluster (r : NRef) (k : Key) (anti : Bool) (who : Stage) (c : ClusterId) :
    (m.requestRb r k anti who).cluster c = m.cluster c := by
  rcases m.requestRb_stores r k anti who with h | ⟨q, o, l, n, h⟩ <;> exact cluster_of_stores h c

/-- A request of a node with no rollback in progress joins its tile's queue while that has room and none has overflowed. -/
theorem requestRb_queued {r : NRef} (idle : m.rbInProgress r = none) (ovf : (m.tile (peTile r.pe)).rbOvf = 0)
    (room : (m.tile (peTile r.pe)).rbq.length < 32) (k : Key) (anti : Bool) (who : Stage) :
    ((m.requestRb r k anti who).tile (peTile r.pe)).rbq =
      (m.tile (peTile r.pe)).rbq ++ [⟨r.job, mkNode m.number r.pe r.node, k, anti⟩] := by
  simp [requestRb, idle, ovf, room]

/-! Readiness evaluated for a group that is not presented -/

/-- m' differs from m at most in what PE p presents or defers. -/
def Gathers (m m' : Mach) (p : PeId) : Prop := m' = m ∨ ∃ l d, m' = m.setPe p { m.pe p with gatherQ := l, deferred := d }

section
variable {m} {m' : Mach} {p : PeId}

theorem Gathers.field {β : Type} (h : Gathers m m' p) (φ : Pe → β) (hφ : ∀ x l d, φ { x with gatherQ := l, deferred := d } = φ x)
    (q : PeId) : φ (m'.pe q) = φ (m.pe q) := by
  rcases h with rfl | ⟨l, d, rfl⟩
  · rfl
  · exact m.pe_modPe_field φ p q (fun x => { x with gatherQ := l, deferred := d }) (hφ _ l d)

theorem Gathers.tiles (h : Gathers m m' p) : m'.tiles = m.tiles := by rcases h with rfl | ⟨l, d, rfl⟩ <;> rfl

theorem Gathers.clusters (h : Gathers m m' p) : m'.clusters = m.clusters := by rcases h with rfl | ⟨l, d, rfl⟩ <;> rfl

theorem Gathers.level (h : Gathers m m' p) (q : PeId) (pl : Place) : m'.level q pl = m.level q pl := by
  cases pl with
  | iris => exact h.field (·.iris) (fun _ _ _ => rfl) q
  | mob => simp [Mach.level, cluster, h.clusters]
  | deep => simp [Mach.level, tile, h.tiles]

theorem Gathers.headOf (h : Gathers m m' p) (q : PeId) (pl : Place) (g : GRef) : m'.headOf q pl g = m.headOf q pl g :=
  headOf_of_level (h.level q pl) g

/-- Readiness of a group that is not presented, where it is found, leaves the group, and may add a presentation. -/
theorem evalReady_gathers {g : GRef} (h : ∀ pl i e, m.findGroup p g = some pl → m.headOf p pl g = some (i, e) → e.gstate ≠ .presented) :
    Gathers m (m.evalReady p g) p := by
  unfold evalReady
  cases hf : m.findGroup p g with
  | none => exact .inl rfl
  | some pl =>
    dsimp only
    cases hh : m.headOf p pl g with
    | none => exact .inl rfl
    | some x =>
      obtain ⟨i, e⟩ := x
      have := h pl i e hf hh
      dsimp only
      cases hs : e.gstate with
      | presented => exact absurd hs this
      | arming => exact .inl rfl
      | fired => exact .inl rfl
      | waiting =>
        dsimp only
        split_ifs
        · right
          unfold modPe
          dsimp only
          split <;> exact ⟨_, _, rfl⟩
        · exact .inl rfl

end

theorem stragglerCheck_pe (p : PeId) (g : GRef) (q : PeId) : (m.stragglerCheck p g).pe q = m.pe q := by
  unfold stragglerCheck
  dsimp only
  split_ifs
  · exact m.requestRb_pe ..
  · rfl

theorem stragglerCheck_cluster (p : PeId) (g : GRef) (c : ClusterId) : (m.stragglerCheck p g).cluster c = m.cluster c := by
  unfold stragglerCheck
  dsimp only
  split_ifs
  · exact m.requestRb_cluster ..
  · rfl

end Mach
end Sys2Proof.Machine

namespace Sys2Proof.Machine
namespace Mach

/-! Gather, the write-behind queue and spill (R60, R64, R87) -/

section
variable {m : Mach}

theorem groupRead_clean (h : m.ms.sramFlaw = []) (p : PeId) (g : GRef) : m.groupRead p g = (false, m) := if_pos h

theorem cacheTouch_clean (clean : m.cleanMemory) (p : PeId) (kind : Nat) : m.cacheTouch p kind = m := by
  obtain ⟨flaw, -, -, -, -, -, -, -, -, inj, -⟩ := clean
  exact if_pos ⟨flaw, inj⟩

theorem peFetch_clean (clean : m.cleanMemory) {r : NRef} (path : m.hubPath (peTile r.pe) = true) (l : List (Nat × Nat)) :
    m.peFetch r l = (false, m) := by
  unfold peFetch
  rw [cutOff_path path]
  exact regionFetch_cleanMemory clean _ _

theorem nodeFetch_clean (clean : m.cleanMemory) {r : NRef} (path : m.hubPath (peTile r.pe) = true) : m.nodeFetch r = (false, m) := by
  simp [nodeFetch, cacheTouch_clean clean, peFetch_clean clean path]

theorem hubPath_of_net {m' : Mach} (h : m'.net = m.net) (t : TileId) : m'.hubPath t = m.hubPath t := by
  simp [hubPath, leaveBridge, stop, h]

theorem nodeWaits_clean (clean : m.cleanMemory) (r : NRef) : m.nodeWaits r = false := by
  simp [nodeWaits, clean.2.2.2.2.2.2.1]

/-- Ready holds no presentation, so none presses back. -/
theorem backPressed_nil {p : PeId} (h : (m.pe p).readyQ = []) : m.backPressed p = false := by
  simp [backPressed, h]

/-- Gather takes a request to arm a group. -/
theorem gather_arm {p : PeId} {g : GRef} {rest : List GatherReq} (next : (m.pe p).gatherQ = ⟨g, .arm⟩ :: rest)
    (ready : (m.pe p).readyQ = []) (clean : m.cleanMemory) (held : m.ringHeld (.gather p) = false) :
    m.gather p = (m.setPe p { m.pe p with gatherQ := rest }).armGroup p g := by
  unfold gather
  simp only [held, backPressed_nil ready, next, nodeWaits_clean clean, groupRead_clean (m := m.setPe p _) clean.1, Bool.or_self,
    Bool.false_eq_true, if_false]

/-- The fields a group has once it is armed from its node record (R64). -/
def armedHead (m : Mach) (r : NRef) (e : Entry) : Entry := { e with rmask := m.nRmask r, mode := m.nMode r, gstate := .waiting }

/-- A group of tokens in ARMING takes its fields from the node record, is checked as a straggler unless it has none but anti-tokens, and is presented where it is ready. -/
theorem armGroup_token {p : PeId} {g : GRef} {pl : Place} {i : Nat} {h : Entry} (found : m.findGroup p g = some pl)
    (head : m.headOf p pl g = some (i, h)) (arming : h.gstate = .arming) (token : h.kind ≠ 2) (clean : m.cleanMemory)
    (path : m.hubPath (peTile p) = true) : ∃ n, (n = m.modHead p pl g (m.armedHead (g.nref p)) ∨
      n = (m.modHead p pl g (m.armedHead (g.nref p))).stragglerCheck p g) ∧ m.armGroup p g = n.evalReady p g := by
  unfold armGroup
  simp only [found, head, arming, token, nodeFetch_clean clean (r := g.nref p) path, bne_self_eq_false, Bool.false_eq_true, if_false, false_and]
  refine ⟨_, ?_, rfl⟩
  split
  · exact .inr rfl
  · exact .inl rfl

theorem stragglerCheck_level (p : PeId) (g : GRef) (pl : Place) (above : pl ≠ .deep) :
    (m.stragglerCheck p g).level p pl = m.level p pl := by
  cases pl with
  | iris => simp [level, stragglerCheck_pe]
  | mob => simp [level, stragglerCheck_cluster]
  | deep => exact absurd rfl above

theorem net_setPe (p : PeId) (x : Pe) : (m.setPe p x).net = m.net := rfl

theorem findGroup_of_headOf {p : PeId} {g : GRef} {x : Nat × Entry} (h : m.headOf p .iris g = some x) :
    m.findGroup p g = some .iris := by
  have : m.ents p .iris g ≠ [] := fun e => by simp [headOf, e] at h
  simp [findGroup, this]

/-- Taking a request from Gather leaves the groups. -/
theorem level_gatherQ (p : PeId) (l : List GatherReq) (pl : Place) :
    (m.setPe p { m.pe p with gatherQ := l }).level p pl = m.level p pl := by
  cases pl <;> simp [Mach.level, cluster, tile]

theorem armedHead_setPe (p : PeId) (x : Pe) (r : NRef) : (m.setPe p x).armedHead r = m.armedHead r := by
  funext e
  simp [armedHead, nRmask, nMode, recW, recAddr, nodeIndex, job]

theorem armedHead_inGroup (r : NRef) (e : Entry) (p : PeId) (g : GRef) : (m.armedHead r e).inGroup p g = e.inGroup p g := by
  simp [armedHead, Entry.inGroup]

/-- Arming gives the head the fields of the node record (R64): the straggler check and the test of readiness that follow leave it. -/
theorem armGroup_head {p : PeId} {g : GRef} {i : Nat} {h : Entry} (found : m.findGroup p g = some .iris)
    (head : m.headOf p .iris g = some (i, h)) (arming : h.gstate = .arming) (token : h.kind ≠ 2) (clean : m.cleanMemory)
    (path : m.hubPath (peTile p) = true) : SMap.get? ((m.armGroup p g).pe p).iris i = some (m.armedHead (g.nref p) h) := by
  obtain ⟨n, hn, e⟩ := armGroup_token found head arming token clean path
  have armed : (m.modHead p .iris g (m.armedHead (g.nref p))).level p .iris
      = SMap.set (m.level p .iris) i (m.armedHead (g.nref p) h) := by
    rw [level_of_stores (modHead_stores head _), level_storeEnt _ _ (by decide)]
  have iris : n.level p .iris = SMap.set (m.level p .iris) i (m.armedHead (g.nref p) h) := by
    rcases hn with hn | hn
    · rw [hn, armed]
    · rw [hn, stragglerCheck_level _ _ _ (by decide), armed]
  obtain ⟨-, member, isHead⟩ := headOf_mem head
  have head' : n.headOf p .iris g = some (i, m.armedHead (g.nref p) h) :=
    headOf_set head ((armedHead_inGroup _ _ _ _).trans member) isHead iris
  have gathers : Gathers n (n.evalReady p g) p := evalReady_gathers fun pl k x hf hx => by
    rw [findGroup_of_headOf head', Option.some.injEq] at hf
    subst hf
    rw [head', Option.some.injEq, Prod.mk.injEq] at hx
    rw [← hx.2]
    simp [armedHead]
  have same := gathers.level p .iris
  simp only [Mach.level] at same iris
  rw [e, same, iris, SMap.get?_set_self]

/-- Gather arms the group of its oldest request. -/
theorem gather_arms {p : PeId} {g : GRef} {rest : List GatherReq} {i : Nat} {h : Entry}
    (next : (m.pe p).gatherQ = ⟨g, .arm⟩ :: rest) (ready : (m.pe p).readyQ = []) (found : m.findGroup p g = some .iris)
    (head : m.headOf p .iris g = some (i, h)) (arming : h.gstate = .arming) (token : h.kind ≠ 2) (clean : m.cleanMemory)
    (path : m.hubPath (peTile p) = true) (held : m.ringHeld (.gather p) = false) :
    SMap.get? ((m.gather p).pe p).iris i = some (m.armedHead (g.nref p) h) := by
  rw [gather_arm next ready clean held, ← armedHead_setPe p { m.pe p with gatherQ := rest }]
  exact armGroup_head ((findGroup_of_level (level_gatherQ p rest) g).trans found)
    ((headOf_of_level (level_gatherQ p rest .iris) g).trans head) arming token clean
    ((hubPath_of_net (net_setPe p _) _).trans path)

end
end Mach
end Sys2Proof.Machine

namespace Sys2Proof.Machine

theorem GRef.hash_bucket_lt (g : GRef) (p : PeId) : (g.hash p).2.2.2 < 262144 := by
  simp only [GRef.hash, irisHash]
  exact BitVec.isLt _

theorem peTile_append (t : TileId) (l : BitVec 7) : peTile (t ++ l) = t := by
  ext i hi
  have : (t ++ l).getLsbD (7 + i) = t.getLsbD i := (BitVec.getLsbD_append ..).trans (by simp)
  simpa [peTile, hi] using this

namespace Mach

section
variable {m : Mach}

theorem deepWaits_clean (clean : m.cleanMemory) (t : TileId) (b : Nat) : m.deepWaits t b = false := by
  simp [deepWaits, clean.2.2.2.2.2.2.1]

theorem deepWaits_setTile (t : TileId) (x : Tile) (u : TileId) (b : Nat) : (m.setTile t x).deepWaits u b = m.deepWaits u b := rfl

/-- The places of a bucket and of those it overflows into, where deep match is empty: the first is the bucket's own. -/
theorem deepSlots_empty {bucket : Nat} (h : bucket < 262144) : ∃ l : List Nat, l.length = 127 ∧
    ((List.range 128).map (fun i => (bucket * 8 + i) % (262144 * 8))).filter
      (fun i => (SMap.get? ([] : SMap Entry) i).isNone) = bucket * 8 :: l := by
  have first : bucket * 8 % (262144 * 8) = bucket * 8 := Nat.mod_eq_of_lt (by omega)
  refine ⟨(List.range' 1 127).map (fun i => (bucket * 8 + i) % (262144 * 8)), by simp, ?_⟩
  simp [SMap.get?, List.range_eq_range', List.range'_succ, first]

/-- The write-behind queue writes its oldest group, of one entry, into the first place of its home bucket. -/
theorem deepWrite_one {t : TileId} {e : Entry} {rest : List (List Entry)} (oldest : (m.tile t).deepQ = [e] :: rest)
    (empty : (m.tile t).deep = []) (clean : m.cleanMemory) : m.deepWrite t =
      (m.setTile t { m.tile t with deepQ := rest }).putEnt (t ++ e.locPe) .deep ((e.ref.hash (t ++ e.locPe)).2.2.2 * 8) e := by
  obtain ⟨l, len, slots⟩ := deepSlots_empty (e.ref.hash_bucket_lt (t ++ e.locPe))
  have waits : ∀ x b, (m.setTile t x).deepWaits t b = false := fun x b =>
    (deepWaits_setTile t x t b).trans (deepWaits_clean clean t b)
  unfold deepWrite
  simp only [oldest, waits, tile_setTile, empty, slots, List.length_cons, len, Bool.false_eq_true, if_false]
  rw [if_neg (by simp), List.zip_cons_cons, List.foldl_cons, List.zip_nil_left, List.foldl_nil]

/-- An entry stored in deep match stands in its tile's store, and leaves the write-behind queue. -/
theorem putEnt_deep {p : PeId} {i : Nat} (h : i < deepQBase) (e : Entry) :
    ((m.putEnt p .deep i e).tile (peTile p)).deep = SMap.set (m.tile (peTile p)).deep i e ∧
    ((m.putEnt p .deep i e).tile (peTile p)).deepQ = (m.tile (peTile p)).deepQ := by
  rw [tile_of_stores (m.putEnt_stores p .deep i e)]
  have : ∀ n : Mach, ((n.deepReq p i e.job).tile (peTile p)).deep = (n.tile (peTile p)).deep ∧
      ((n.deepReq p i e.job).tile (peTile p)).deepQ = (n.tile (peTile p)).deepQ := fun n => by
    rw [deepReq, tile_modTile]
    split <;> exact ⟨rfl, rfl⟩
  simp only [storeEnt, h, if_true, (this _).1, (this _).2, tile_of_stores (hbmWords_stores _ _ _), tile_modTile, and_self]

/-- R60: the write-behind queue writes its oldest group, of one entry, into its home bucket. -/
theorem deepWrite_bucket {t : TileId} {e : Entry} {rest : List (List Entry)} (oldest : (m.tile t).deepQ = [e] :: rest)
    (empty : (m.tile t).deep = []) (clean : m.cleanMemory) : ((m.deepWrite t).tile t).deepQ = rest ∧
      ((m.deepWrite t).tile t).deep = [((e.ref.hash (t ++ e.locPe)).2.2.2 * 8, e)] := by
  have lt := e.ref.hash_bucket_lt (t ++ e.locPe)
  have ⟨deep, queue⟩ := putEnt_deep (m := m.setTile t { m.tile t with deepQ := rest }) (p := t ++ e.locPe)
    (i := (e.ref.hash (t ++ e.locPe)).2.2.2 * 8) (by simp only [deepQBase]; omega) e
  rw [peTile_append, tile_setTile] at deep queue
  rw [deepWrite_one oldest empty clean, deep, queue, empty]
  exact ⟨rfl, rfl⟩

/-- R87: a PE that has been back-pressed for 1,024 cycles enters spill. -/
theorem enterSpill_pe {p : PeId} (long : 1024 ≤ (m.pe p).bpCycles) (out : (m.pe p).spill = false) :
    (m.enterSpill p).pe p = { m.pe p with spill := true, bpCycles := 0 } := by
  unfold enterSpill
  rw [if_neg (by simp [out, Nat.not_lt.mpr long]), pe_of_stores (count_stores ..), pe_setPe]

end
end Mach
end Sys2Proof.Machine

section
open Sys2Proof Sys2Proof.Machine

/-- Settles O32: each part is one operation of the matching store, by its lemma. -/
theorem gatherSpillAndDeepWrites : Obligations.GatherSpillAndDeepWrites := by
  unfold Obligations.GatherSpillAndDeepWrites
  refine ⟨?_, ?_, ?_⟩
  · intro s t e rest oldest empty clean
    exact ⟨_, rfl, Mach.deepWrite_bucket oldest empty clean⟩
  · intro s p g rest i h next ready found head arming token clean path held
    exact ⟨_, rfl, Mach.gather_arms next ready found head arming token clean path held⟩
  · intro s p long out
    refine ⟨_, rfl, ?_⟩
    have pe := Mach.enterSpill_pe long out
    exact ⟨congrArg Pe.spill pe, congrArg Pe.bpCycles pe⟩

end

namespace Sys2Proof.Machine

namespace SMap

variable {α : Type}

/-- A thing set at another key than the one thing of a map. -/
theorem set_single {i w : Nat} (h : w ≠ i) (x v : α) : SMap.set [(i, x)] w v = [(w, v), (i, x)] ∨ SMap.set [(i, x)] w v = [(i, x), (w, v)] := by
  unfold SMap.set
  split
  · exact .inl rfl
  · exact .inr rfl

theorem erase_single (i : Nat) (x : α) : SMap.erase [(i, x)] i = [] := by simp [SMap.erase]

end SMap

namespace Mach

section
variable {m m' m'' : Mach} {p : PeId}

/-! What Match leaves alone -/

/-- m' holds the arrivals of PE p, its sweeps and the rollback requests of its tile as m does. -/
structure Matches (m m' : Mach) (p : PeId) : Prop where
  fifo : (m'.pe p).fifo = (m.pe p).fifo
  sweeps : (m'.pe p).sweeps = (m.pe p).sweeps
  requests : (m'.tile (peTile p)).rbq = (m.tile (peTile p)).rbq
  overflow : (m'.tile (peTile p)).rbOvf = (m.tile (peTile p)).rbOvf
  number : m'.number = m.number

namespace Matches

theorem trans (h : Matches m m' p) (h' : Matches m' m'' p) : Matches m m'' p :=
  ⟨h'.fifo.trans h.fifo, h'.sweeps.trans h.sweeps, h'.requests.trans h.requests, h'.overflow.trans h.overflow,
    h'.number.trans h.number⟩

theorem of_stores (h : m'.stores = m.stores) : Matches m m' p :=
  ⟨by rw [pe_of_stores h], by rw [pe_of_stores h], by rw [tile_of_stores h], by rw [tile_of_stores h], number_of_stores h⟩

theorem refl : Matches m m p := of_stores rfl

/-- A change of the PE that keeps its arrivals and its sweeps. -/
theorem modPe {f : Pe → Pe} (hf : (f (m.pe p)).fifo = (m.pe p).fifo) (hs : (f (m.pe p)).sweeps = (m.pe p).sweeps) :
    Matches m (m.modPe p f) p :=
  ⟨m.pe_modPe_field (·.fifo) p p f hf, m.pe_modPe_field (·.sweeps) p p f hs, rfl, rfl, rfl⟩

theorem storeEnt_iris (i : Nat) (e : Entry) : Matches m (m.storeEnt p .iris i e) p :=
  modPe (f := fun x => { x with iris := SMap.set x.iris i e }) rfl rfl

theorem putEnt_iris (i : Nat) (e : Entry) : Matches m (m.putEnt p .iris i e) p :=
  (storeEnt_iris i e).trans (of_stores (by simp [putEnt]))

theorem modHead_iris (g : GRef) (f : Entry → Entry) : Matches m (m.modHead p .iris g f) p := by
  unfold modHead
  split
  · exact (storeEnt_iris _ _).trans (of_stores (putWords_stores ..))
  · exact refl

theorem of_gathers (h : Gathers m m' p) : Matches m m' p := by
  rcases h with rfl | ⟨l, d, rfl⟩
  · exact refl
  · exact modPe (f := fun x => { x with gatherQ := l, deferred := d }) rfl rfl

theorem rbInProgress (h : Matches m m' p) (j : JobId) (n : BitVec 17) : m'.rbInProgress ⟨j, p, n⟩ = m.rbInProgress ⟨j, p, n⟩ := by
  simp [Mach.rbInProgress, h.sweeps]

end Matches

/-! The release of an in-transit slot -/

theorem releaseItem_stores (p : PeId) (it : Item) : (m.releaseItem p it).stores = m.stores ∨
    ∃ (t : TileId) (l : Tile → _), (m.releaseItem p it).stores = (m.modTile t (fun x => { x with transit := l x })).stores := by
  unfold releaseItem releaseSlot
  split
  · unfold freeSlot
    split
    · exact .inl rfl
    · exact .inr ⟨_, fun x => SMap.erase x.transit it.slot.toNat, rfl⟩
  · left
    dsimp only
    rw [ite_stores]
    split
    · rfl
    · split
      · rfl
      · rw [ite_stores]
        split <;> rfl

theorem releaseItem_pe (it : Item) (q : PeId) : (m.releaseItem p it).pe q = m.pe q := by
  rcases releaseItem_stores (m := m) p it with h | ⟨t, l, h⟩ <;> exact pe_of_stores h q

theorem Matches.releaseItem (it : Item) : Matches m (m.releaseItem p it) p := by
  rcases releaseItem_stores (m := m) p it with h | ⟨t, l, h⟩
  · exact .of_stores h
  · refine Matches.trans (m' := m.modTile t (fun x => { x with transit := l x })) ⟨rfl, rfl, ?_, ?_, rfl⟩ (.of_stores h)
    · exact m.tile_modTile_field (·.rbq) t _ (fun x => { x with transit := l x }) rfl
    · exact m.tile_modTile_field (·.rbOvf) t _ (fun x => { x with transit := l x }) rfl

end
end Mach
end Sys2Proof.Machine

namespace Sys2Proof.Machine
namespace Mach

section
variable {m : Mach} {p : PeId}

/-! Lookups while no SRAM word is lost -/

theorem sramTouch_clean (clean : m.cleanMemory) (t : TileId) (kind unit : Nat) (f : Nat → Bool) : m.sramTouch t kind unit f = m :=
  if_pos clean.1

theorem irisRead_clean (clean : m.cleanMemory) (g : GRef) : m.irisRead p g = m := by
  simp [irisRead, sramTouch_clean clean]

theorem mobRead_clean (clean : m.cleanMemory) (g : GRef) : m.mobRead p g = m := by
  simp [mobRead, sramTouch_clean clean]

theorem cleanMemory_setPe {x : Pe} : (m.setPe p x).cleanMemory ↔ m.cleanMemory := Iff.rfl

theorem live_of_stores {m' : Mach} (h : m'.stores = m.stores) (j : JobId) : m'.live j = m.live j := live_of_jobs (jobs_of_stores h) j

theorem ents_empty (h : (m.pe p).iris = []) (g : GRef) : m.ents p .iris g = [] := by simp [ents, level, h]

/-- The machine whose Match has taken the oldest arrival of PE p. -/
def taken (m : Mach) (p : PeId) (rest : List Item) : Mach := m.setPe p { m.pe p with fifo := rest, bpCycles := 0 }

theorem taken_pe (rest : List Item) : (m.taken p rest).pe p = { m.pe p with fifo := rest, bpCycles := 0 } := m.pe_setPe p _

theorem taken_clean (clean : m.cleanMemory) (rest : List Item) : (m.taken p rest).cleanMemory := cleanMemory_setPe.mpr clean

theorem taken_live (rest : List Item) (j : JobId) : (m.taken p rest).live j = m.live j := live_of_jobs rfl j

/-- Match of a PE that holds nothing takes its oldest arrival and looks it up. -/
theorem matchArrival_lookup {it : Item} {rest : List Item} (fifo : (m.pe p).fifo = it :: rest) (ready : (m.pe p).readyQ = [])
    (miss : (m.pe p).miss = []) (held : m.ringHeld (.matching p) = false) (good : it.tok.malformed = false)
    (live : m.live it.tok.job = true) : ∃ park, m.matchArrival p = ((m.taken p rest).lookup p it park).1 := by
  have slot : (m.taken p rest).missSlot p = some 0 := by
    unfold missSlot
    rw [taken_pe]
    simp [miss, List.range_succ_eq_map]
  have live' := (taken_live (m := m) (p := p) rest it.tok.job).trans live
  have none : ∀ f, ((m.taken p rest).pe p).miss.any f = false := fun f => by simp [taken_pe, miss]
  have step : m.setPe p { m.pe p with fifo := rest, bpCycles := 0 } = m.taken p rest := rfl
  unfold matchArrival
  dsimp only
  rw [fifo]
  dsimp only
  rw [if_neg (by simp [held]), if_neg (by simp [backPressed_nil ready]), if_neg (by simp [miss]), if_neg (by simp [good]), step]
  simp only [live', slot, none]
  exact ⟨_, rfl⟩

/-- An arrival whose group stands nowhere forms it. -/
theorem lookup_new {it : Item} (clean : m.cleanMemory) (live : m.live it.tok.job = true) (iris : (m.pe p).iris = [])
    (ovf : (m.pe p).ovf = []) (park : Mach → Mach) : m.lookup p it park = ((m.newGroup p it.tok).releaseItem p it, true) := by
  unfold lookup
  simp [live, irisRead_clean clean, ents_empty iris, ovf, SMap.getD]

/-- An arrival that finds its group in Iris is merged into it. -/
theorem lookup_merge {it : Item} (clean : m.cleanMemory) (live : m.live it.tok.job = true) (token : it.tok.kind ≠ 2)
    (found : m.ents p .iris (itemRef it.tok) ≠ []) (park : Mach → Mach) :
    m.lookup p it park = ((m.mergeArrival p .iris (itemRef it.tok) it.tok).releaseItem p it, true) := by
  unfold lookup
  simp only [live, irisRead_clean clean, Bool.not_true, Bool.false_eq_true, if_true, if_false, if_neg token, bne_iff_ne, ne_eq, found,
    not_false_eq_true]

/-! A new group -/

/-- Every way of an Iris set of an empty store is free. -/
theorem irisFree_empty (h : (m.pe p).iris = []) (base : Nat) : m.irisFree p base = (List.range 8).map (base + ·) := by
  simp [irisFree, h]

/-- An empty Iris takes an entry in its first set. -/
theorem placeNew_empty (h : (m.pe p).iris = []) (g : GRef) (e : Entry) :
    m.placeNew p g e = m.putEnt p .iris ((g.hash p).1 * 8) e := by
  unfold placeNew
  simp only [irisFree_empty h, List.length_map, lt_irrefl, if_false]
  rfl

theorem newGroup_token {t : Token} (token : t.kind = 0) : m.newGroup p t =
    if (m.placeNew p (itemRef t) (newEntry p t true 0)).live t.job then
      (m.placeNew p (itemRef t) (newEntry p t true 0)).modPe p (fun x => { x with gatherQ := x.gatherQ ++ [⟨itemRef t, .arm⟩] })
    else m.placeNew p (itemRef t) (newEntry p t true 0) := by
  unfold newGroup
  rw [token]
  rfl

theorem putEnt_iris_pe (i : Nat) (e : Entry) : (m.putEnt p .iris i e).pe p = { m.pe p with iris := SMap.set (m.pe p).iris i e } := by
  rw [pe_of_stores (m.putEnt_stores p .iris i e)]
  exact m.pe_modPe p _

theorem putEnt_iris_live (i : Nat) (e : Entry) (j : JobId) : (m.putEnt p .iris i e).live j = m.live j :=
  (live_of_stores (m.putEnt_stores ..) j).trans (live_of_jobs rfl j)

/-- A token forms a group of one entry in an empty Iris, which goes to Gather to be armed. -/
theorem newGroup_pe {t : Token} (token : t.kind = 0) (live : m.live t.job = true) (iris : (m.pe p).iris = []) :
    (m.newGroup p t).pe p = { m.pe p with
      iris := [(((itemRef t).hash p).1 * 8, newEntry p t true 0)], gatherQ := (m.pe p).gatherQ ++ [⟨itemRef t, .arm⟩] } := by
  rw [newGroup_token token, placeNew_empty iris, if_pos ((putEnt_iris_live ..).trans live), pe_modPe, putEnt_iris_pe, iris]
  rfl

/-- What the arrival that forms a group leaves in its PE: the group's head in ARMING, which holds its planes, and the request to arm it. -/
structure Forms (m m' : Mach) (p : PeId) (t : Token) : Prop where
  iris : (m'.pe p).iris = [(((itemRef t).hash p).1 * 8, newEntry p t true 0)]
  gather : (m'.pe p).gatherQ = (m.pe p).gatherQ ++ [⟨itemRef t, .arm⟩]
  fifo : (m'.pe p).fifo = (m.pe p).fifo
  miss : (m'.pe p).miss = (m.pe p).miss

theorem newGroup_forms {it : Item} (token : it.tok.kind = 0) (live : m.live it.tok.job = true) (iris : (m.pe p).iris = []) :
    Forms m ((m.newGroup p it.tok).releaseItem p it) p it.tok := by
  constructor <;> rw [releaseItem_pe, newGroup_pe token live iris]

/-- R54, R56: an arrival at a PE that holds no group forms one. -/
theorem matchArrival_forms {it : Item} {rest : List Item} (token : it.tok.kind = 0) (good : it.tok.malformed = false)
    (live : m.live it.tok.job = true) (clean : m.cleanMemory) (iris : (m.pe p).iris = []) (fifo : (m.pe p).fifo = it :: rest)
    (ready : (m.pe p).readyQ = []) (miss : (m.pe p).miss = []) (ovf : (m.pe p).ovf = []) (held : m.ringHeld (.matching p) = false) :
    Forms (m.taken p rest) (m.matchArrival p) p it.tok := by
  obtain ⟨park, looked⟩ := matchArrival_lookup fifo ready miss held good live
  have live' := (taken_live (m := m) (p := p) rest it.tok.job).trans live
  have iris' : ((m.taken p rest).pe p).iris = [] := by rw [taken_pe, iris]
  rw [looked, lookup_new (taken_clean clean rest) live' iris' (by rw [taken_pe, ovf])]
  exact newGroup_forms token live' iris'

/-! Probes (R54, R62) -/

/-- The miss buffer's last lookup is complete: none waits behind it. -/
theorem missDone_last {k : Nat} {ms : Miss} (miss : (m.pe p).miss = [(k, ms)]) :
    m.missDone p k ms = (m.modPe p (fun x => { x with miss := [] })).releaseItem p ms.item := by
  have erased : m.modPe p (fun x => { x with miss := SMap.erase x.miss k }) = m.modPe p (fun x => { x with miss := [] }) := by
    simp only [modPe, miss, SMap.erase_single]
  have empty : (((m.modPe p (fun x => { x with miss := [] })).releaseItem p ms.item).pe p).miss = [] := by
    rw [releaseItem_pe, pe_modPe]
  rw [missDone, erased]
  generalize (m.modPe p (fun x => { x with miss := [] })).releaseItem p ms.item = n at empty
  simp [wakeClass, empty, leastBy]

/-- The arrival of a probe that misses everywhere forms its group, and its miss-buffer slot is free. -/
theorem missed_forms {k : Nat} {ms : Miss} (miss : (m.pe p).miss = [(k, ms)]) (token : ms.item.tok.kind = 0)
    (live : m.live ms.item.tok.job = true) (iris : (m.pe p).iris = []) :
    (((m.newGroup p ms.item.tok).missDone p k ms).pe p).miss = [] ∧
      (((m.newGroup p ms.item.tok).missDone p k ms).pe p).iris = [(((itemRef ms.item.tok).hash p).1 * 8, newEntry p ms.item.tok true 0)] ∧
      (((m.newGroup p ms.item.tok).missDone p k ms).pe p).gatherQ = (m.pe p).gatherQ ++ [⟨itemRef ms.item.tok, .arm⟩] := by
  have pe := newGroup_pe token live iris
  rw [missDone_last (by rw [pe, miss]), releaseItem_pe, pe_modPe, pe]
  exact ⟨rfl, rfl, rfl⟩

/-- The MOB probe of the one slot in use misses its level. -/
theorem mobProbe_missed {k : Nat} {ms : Miss} (miss : (m.pe p).miss = [(k, ms)]) (stage : ms.stage = .mob)
    (live : m.live ms.item.tok.job = true) (clean : m.cleanMemory) (mob : m.ents p .mob (itemRef ms.item.tok) = []) :
    m.mobProbe p k =
      if SMap.getD (m.cluster (peCluster p)).dovf ((itemRef ms.item.tok).hash p).2.2.1 0 != 0 then
        (m.modPe p (fun x => { x with miss := SMap.set x.miss k { ms with stage := .deep } })).probeReqs p k ms.item.tok.job
          ((itemRef ms.item.tok).hash p).2.2.2
      else (m.newGroup p ms.item.tok).missDone p k ms := by
  have slot : SMap.get? (m.pe p).miss k = some ms := by rw [miss, SMap.get?_single, if_pos rfl]
  unfold mobProbe
  simp only [slot, stage, live, mobRead_clean clean, irisRead_clean clean, mob, bne_self_eq_false, Bool.not_true, Bool.false_eq_true,
    if_false]
  rfl

/-- R62: the probe goes on to deep match with 32 reads of HBM, of which it awaits the answers. -/
theorem mobProbe_goesOn {k : Nat} {ms : Miss} (miss : (m.pe p).miss = [(k, ms)]) (stage : ms.stage = .mob)
    (live : m.live ms.item.tok.job = true) (clean : m.cleanMemory) (mob : m.ents p .mob (itemRef ms.item.tok) = [])
    (overflowed : SMap.getD (m.cluster (peCluster p)).dovf ((itemRef ms.item.tok).hash p).2.2.1 0 ≠ 0) :
    ((m.mobProbe p k).pe p).miss = [(k, { ms with stage := .deep })] ∧
      ((m.mobProbe p k).tile (peTile p)).reqs.length = (m.tile (peTile p)).reqs.length + 32 ∧ (m.mobProbe p k).probeOut p k = true := by
  rw [mobProbe_missed miss stage live clean mob, if_pos (by simpa using overflowed)]
  unfold probeReqs
  refine ⟨?_, ?_, ?_⟩
  · have : ∀ (n : Mach) (f : Tile → Tile), (n.modTile (peTile p) f).pe p = n.pe p := fun _ _ => rfl
    rw [this, pe_modPe, miss]
    simp [SMap.set]
  · rw [tile_modTile]
    simp [tile]
  · unfold probeOut
    rw [tile_modTile]
    simp [List.range_succ_eq_map]

/-- A probe of deep match that still awaits responses does nothing. -/
theorem deepProbe_waits {k : Nat} (out : m.probeOut p k = true) : m.deepProbe p k = m := by
  unfold deepProbe
  cases SMap.get? (m.pe p).miss k with
  | none => rfl
  | some ms => simp [out]

/-- The probe of deep match of the one slot in use misses. -/
theorem deepProbe_missed {k : Nat} {ms : Miss} (miss : (m.pe p).miss = [(k, ms)]) (stage : ms.stage = .deep)
    (out : m.probeOut p k = false) (live : m.live ms.item.tok.job = true) (clean : m.cleanMemory)
    (deep : m.ents p .deep (itemRef ms.item.tok) = []) : m.deepProbe p k = (m.newGroup p ms.item.tok).missDone p k ms := by
  have slot : SMap.get? (m.pe p).miss k = some ms := by rw [miss, SMap.get?_single, if_pos rfl]
  unfold deepProbe
  simp only [slot, stage, out, live, irisRead_clean clean, deep, bne_self_eq_false, Bool.or_self, Bool.not_true, Bool.false_eq_true,
    if_false]

end
end Mach
end Sys2Proof.Machine

namespace Sys2Proof.Machine

namespace SMap

variable {α : Type} {i w : Nat} (h : w ≠ i) (x v : α)
include h

theorem get?_set_single_ne : SMap.get? (SMap.set [(i, x)] w v) i = some x := by
  rw [SMap.get?_set_ne _ _ _ _ h.symm, SMap.get?_single, if_pos rfl]

/-- A property of the first thing of a map that only the thing at i has is found at i. -/
theorem find?_set_single {P : Nat × α → Bool} (hx : P (i, x) = true) (hv : P (w, v) = false) :
    (SMap.set [(i, x)] w v).find? P = some (i, x) := by
  rcases set_single h x v with e | e <;> simp [e, hx, hv]

end SMap

namespace Mach

/-- m' holds what Match leaves alone, and the entries of Iris, as m does. -/
structure Leaves (m m' : Mach) (p : PeId) : Prop extends Matches m m' p where
  iris : (m'.pe p).iris = (m.pe p).iris

section
variable {m m' m'' : Mach} {p : PeId} {g : GRef} {i : Nat} {e : Entry}

namespace Leaves

theorem trans (h : Leaves m m' p) (h' : Leaves m' m'' p) : Leaves m m'' p := ⟨h.toMatches.trans h'.toMatches, h'.iris.trans h.iris⟩

theorem of_stores (h : m'.stores = m.stores) : Leaves m m' p := ⟨.of_stores h, by rw [pe_of_stores h]⟩

theorem releaseItem (it : Item) : Leaves m (m.releaseItem p it) p := ⟨.releaseItem it, by rw [releaseItem_pe]⟩

theorem of_gathers (h : Gathers m m' p) : Leaves m m' p := ⟨.of_gathers h, h.level p .iris⟩

theorem spillEnd : Leaves m (m.spillEnd p) p := by
  unfold Mach.spillEnd
  dsimp only
  split
  · exact ⟨.modPe (f := fun x => { x with spill := _, deferred := _, gatherQ := _ }) rfl rfl,
      m.pe_modPe_field (·.iris) p p (fun x => { x with spill := _, deferred := _, gatherQ := _ }) rfl⟩
  · exact of_stores rfl

theorem dropDesc : Leaves m (m.dropDesc p g) p := by
  have pool : Leaves m (m.modPe p (fun x => { x with
      pool := x.pool.filter (fun d => !(d.2.job == g.job && d.2.node == g.node && d.2.key == g.key && d.2.cid == g.cid)),
      readyQ := x.readyQ.filter (· != g) })) p := ⟨.modPe rfl rfl, by rw [pe_modPe]⟩
  unfold Mach.dropDesc
  dsimp only
  generalize m.modPe p _ = n at pool
  cases (m.descOf p g).map (·.1) with
  | none => exact pool
  | some q =>
    have jobs : Leaves n (n.modTile (peTile p) (fun t => { t with
        jreqs := t.jreqs.filter (· != (p, q)), jacc := t.jacc.filter (· != (p, q)) })) p :=
      ⟨⟨rfl, rfl, by rw [tile_modTile], by rw [tile_modTile], rfl⟩, rfl⟩
    exact (pool.trans jobs).trans spillEnd

end Leaves

/-! A group of one entry in Iris -/

theorem ents_single (iris : (m.pe p).iris = [(i, e)]) (mem : e.inGroup p g = true) : m.ents p .iris g = [(i, e)] := by
  simp [ents, level, iris, mem]

theorem headOf_single (iris : (m.pe p).iris = [(i, e)]) (mem : e.inGroup p g = true) (head : e.head = true) :
    m.headOf p .iris g = some (i, e) := by
  simp [headOf, ents_single iris mem, head]

/-- The test of readiness leaves a group in Iris that is not presented. -/
theorem evalReady_leaves (head : m.headOf p .iris g = some (i, e)) (state : e.gstate ≠ .presented) : Leaves m (m.evalReady p g) p := by
  refine .of_gathers (evalReady_gathers fun pl k x hf hx => ?_)
  rw [findGroup_of_headOf head, Option.some.injEq] at hf
  subst hf
  rw [head, Option.some.injEq, Prod.mk.injEq] at hx
  exact hx.2 ▸ state

/-- The only entry of Iris is freed. -/
theorem freeEnt_single (iris : (m.pe p).iris = [(i, e)]) :
    Matches m (m.freeEnt p .iris i e) p ∧ ((m.freeEnt p .iris i e).pe p).iris = [] := by
  have same : (m.dropEnt p .iris i).stores = (m.modPe p (fun x => { x with iris := SMap.erase x.iris i })).stores := putWords_stores ..
  have empty : ((m.dropEnt p .iris i).pe p).iris = [] := by
    rw [pe_of_stores same, pe_modPe, iris, SMap.erase_single]
  have freed : m.freeEnt p .iris i e = m.dropEnt p .iris i := by
    unfold freeEnt
    dsimp only
    rw [ents_empty empty]
    rfl
  rw [freed]
  exact ⟨(Matches.modPe (f := fun x => { x with iris := SMap.erase x.iris i }) rfl rfl).trans (.of_stores same), empty⟩

/-- A group of which annihilation left nothing loses its descriptor. -/
theorem afterAnnihilation_leaves (iris : (m.pe p).iris = []) (g : GRef) : Leaves m (m.afterAnnihilation p .iris g) p := by
  have count : Leaves m (m.countJ 0x4300 g.job 0x01) p := .of_stores (countJ_stores ..)
  unfold afterAnnihilation
  dsimp only
  rw [if_pos (ents_empty (count.iris.trans iris) g)]
  split
  · exact (count.trans .dropDesc).trans (.of_stores (countJ_stores ..))
  · exact count.trans .dropDesc

/-! Rollback requests of a merge -/

theorem rbIfFired_pe (g : GRef) (st : GState) (anti : Bool) (q : PeId) : (m.rbIfFired p g st anti).pe q = m.pe q := by
  unfold rbIfFired
  split
  · exact m.requestRb_pe ..
  · rfl

/-- R66: the merge into a FIRED group asks for the rollback of its node to its tag, while its tile's queue has room and no rollback of the node is in progress. -/
def Asks (m m' : Mach) (p : PeId) (g : GRef) (st : GState) (anti : Bool) : Prop :=
  st = .fired → (m.tile (peTile p)).rbOvf = 0 → (m.tile (peTile p)).rbq.length < 32 → m.rbInProgress ⟨g.job, p, g.node⟩ = none →
    (m'.tile (peTile p)).rbq = (m.tile (peTile p)).rbq ++ [⟨g.job, mkNode m.number p g.node, g.key, anti⟩]

theorem rbIfFired_asks (h : Matches m m' p) (g : GRef) (st : GState) (anti : Bool) : Asks m (m'.rbIfFired p g st anti) p g st anti := by
  intro fired none room idle
  rw [rbIfFired, if_pos fired, ← h.requests, ← h.number]
  exact m'.requestRb_queued ((h.rbInProgress ..).trans idle) (h.overflow.trans none) (h.requests.symm ▸ room) _ _ _

theorem Asks.trans {st : GState} {anti : Bool} (h : Asks m m' p g st anti) (h' : Matches m' m'' p) : Asks m m'' p g st anti :=
  fun fired none room idle => h'.requests.trans (h fired none room idle)

end
end Mach
end Sys2Proof.Machine

namespace Sys2Proof.Machine
namespace Mach

section
variable {m : Mach} {p : PeId} {t : Token} {i : Nat} {e : Entry}

theorem newEntry_inGroup (h : Bool) : (newEntry p t h 0).inGroup p (itemRef t) = true := by
  simp [newEntry, itemRef, Entry.inGroup]

section
variable (iris : (m.pe p).iris = [(i, e)]) (mem : e.inGroup p (itemRef t) = true) (head : e.head = true)
include iris

/-- Beside one entry in Iris its set has a free way. -/
theorem irisFree_single (base : Nat) : ∃ w l, m.irisFree p base = w :: l ∧ w ≠ i := by
  have free : ∀ w ∈ m.irisFree p base, w ≠ i := fun w hw => by
    rintro rfl
    simp [irisFree, iris, SMap.get?_single] at hw
  have member : ∀ k < 8, base + k ≠ i → base + k ∈ m.irisFree p base := fun k hk ne => by
    simpa [irisFree, iris, SMap.get?_single, Ne.symm ne] using hk
  cases h : m.irisFree p base with
  | nil =>
    rw [h] at member
    have h0 : base + 0 = i := by_contra fun ne => List.not_mem_nil (member 0 (by decide) ne)
    have h1 : base + 1 = i := by_contra fun ne => List.not_mem_nil (member 1 (by decide) ne)
    omega
  | cons w l => exact ⟨w, l, rfl, free w (h ▸ .head _)⟩

include mem

/-- An anti-token annihilates its token (R69). -/
theorem mergeAnti_annihilates (st : GState) (own : e.kind = 0 ∧ e.port = t.port ∧ e.gen = t.gen) :
    ((m.mergeAnti p .iris (itemRef t) t st).pe p).iris = [] ∧
      ((m.mergeAnti p .iris (itemRef t) t st).pe p).fifo = (m.pe p).fifo ∧
      Asks m (m.mergeAnti p .iris (itemRef t) t st) p (itemRef t) st true := by
  obtain ⟨kind, port, gen⟩ := own
  have found : (m.ents p .iris (itemRef t)).find? (fun e => e.2.kind == 0 && e.2.port == t.port && e.2.gen == t.gen) = some (i, e) := by
    rw [ents_single iris mem, List.find?_singleton, if_pos (by simp [kind, port, gen])]
  obtain ⟨freed, empty⟩ := freeEnt_single iris
  have asks := rbIfFired_asks freed (itemRef t) st true
  have pe := rbIfFired_pe (m := m.freeEnt p .iris i e) (p := p) (itemRef t) st true p
  have left := afterAnnihilation_leaves ((congrArg Pe.iris pe).trans empty) (itemRef t)
  unfold mergeAnti
  rw [found]
  exact ⟨left.iris.trans ((congrArg Pe.iris pe).trans empty), left.fifo.trans ((congrArg Pe.fifo pe).trans freed.fifo),
    asks.trans left.toMatches⟩

/-- A token annihilates its anti-token (R69). -/
theorem mergeToken_annihilates (h : Entry) (own : e.kind = 1 ∧ e.port = t.port ∧ e.gen = t.gen) :
    ((m.mergeToken p .iris (itemRef t) t h).pe p).iris = [] ∧
      Matches m (m.mergeToken p .iris (itemRef t) t h) p := by
  obtain ⟨kind, port, gen⟩ := own
  have found : (m.ents p .iris (itemRef t)).find? (fun e => e.2.kind == 1 && e.2.port == t.port && e.2.gen == t.gen) = some (i, e) := by
    rw [ents_single iris mem, List.find?_singleton, if_pos (by simp [kind, port, gen])]
  obtain ⟨freed, empty⟩ := freeEnt_single iris
  have left := afterAnnihilation_leaves empty (itemRef t)
  unfold mergeToken
  dsimp only
  rw [found]
  exact ⟨left.iris.trans empty, freed.trans left.toMatches⟩

include head

/-- An entry that joins the one group in Iris takes a free way beside it. -/
theorem addEnt_single (n : Entry) : ∃ w, w ≠ i ∧ m.addEnt p .iris (itemRef t) n = m.putEnt p .iris w n := by
  obtain ⟨w, l, free, ne⟩ := irisFree_single iris (i / 8 * 8)
  refine ⟨w, ne, ?_⟩
  unfold addEnt
  simp only [headOf_single iris mem head, free]

/-- An anti-token whose token is not in its group is kept (R69). -/
theorem mergeAnti_keeps (state : e.gstate ≠ .presented) (st : GState)
    (other : ¬ (e.kind = 0 ∧ e.port = t.port ∧ e.gen = t.gen)) : ∃ w, w ≠ i ∧
      ((m.mergeAnti p .iris (itemRef t) t st).pe p).iris = SMap.set [(i, e)] w (newEntry p t false 0) ∧
      Matches m (m.mergeAnti p .iris (itemRef t) t st) p := by
  obtain ⟨w, ne, added⟩ := addEnt_single iris mem head (newEntry p t false 0)
  refine ⟨w, ne, ?_⟩
  have none : (m.ents p .iris (itemRef t)).find? (fun e => e.2.kind == 0 && e.2.port == t.port && e.2.gen == t.gen) = none := by
    rw [ents_single iris mem, List.find?_singleton, if_neg (by simpa [and_assoc] using other)]
  have put : ((m.putEnt p .iris w (newEntry p t false 0)).pe p).iris = SMap.set [(i, e)] w (newEntry p t false 0) := by
    rw [putEnt_iris_pe, iris]
  unfold mergeAnti
  rw [none]
  dsimp only
  rw [added]
  have counted : Leaves (m.putEnt p .iris w (newEntry p t false 0))
      ((m.putEnt p .iris w (newEntry p t false 0)).countJ 0x4300 (itemRef t).job 0x02) p := .of_stores (countJ_stores ..)
  have headed : ((m.putEnt p .iris w (newEntry p t false 0)).countJ 0x4300 (itemRef t).job 0x02).headOf p .iris (itemRef t) = some (i, e) := by
    rw [headOf_eq_find?, Mach.level, counted.iris, put]
    exact SMap.find?_set_single ne _ _ (by simp [mem, head]) (by simp [newEntry])
  have ready := counted.trans (evalReady_leaves headed state)
  exact ⟨ready.iris.trans put, (Matches.putEnt_iris _ _).trans ready.toMatches⟩

end

/-- The entry of a port whose token arrives again: it holds the greater planes, plane B above plane A (R66). -/
def greaterPlanes (e : Entry) (t : Token) : Entry :=
  if (e.b ++ e.a).toNat < (t.planeB ++ t.w2).toNat then { e with a := t.w2, b := t.planeB, fs := t.fs } else e

theorem greaterPlanes_fields (e : Entry) (t : Token) (p : PeId) (g : GRef) :
    (greaterPlanes e t).inGroup p g = e.inGroup p g ∧ (greaterPlanes e t).head = e.head ∧ (greaterPlanes e t).gstate = e.gstate := by
  unfold greaterPlanes
  split
  · exact ⟨rfl, rfl, rfl⟩
  · exact ⟨rfl, rfl, rfl⟩

section
variable (iris : (m.pe p).iris = [(i, e)]) (mem : e.inGroup p (itemRef t) = true) (token : e.kind = 0)
include iris mem token

theorem mergeToken_noAnti :
    (m.ents p .iris (itemRef t)).find? (fun e => e.2.kind == 1 && e.2.port == t.port && e.2.gen == t.gen) = none := by
  rw [ents_single iris mem, List.find?_singleton, if_neg (by simp [token])]

variable (head : e.head = true) (state : e.gstate ≠ .presented)
include head state

/-- A token of the same port and generation leaves the greater planes (R66). -/
theorem mergeToken_same (own : e.port = t.port ∧ e.gen = t.gen) :
    ((m.mergeToken p .iris (itemRef t) t e).pe p).iris = [(i, greaterPlanes e t)] ∧
      ((m.mergeToken p .iris (itemRef t) t e).pe p).fifo = (m.pe p).fifo ∧
      Asks m (m.mergeToken p .iris (itemRef t) t e) p (itemRef t) e.gstate false := by
  obtain ⟨port, gen⟩ := own
  obtain ⟨member, headed, stated⟩ := greaterPlanes_fields e t p (itemRef t)
  have found : ((m.ents p .iris (itemRef t)).filter (fun e => e.2.kind == 0 && e.2.port == t.port)).find? (fun e => e.2.gen == t.gen)
      = some (i, e) := by
    rw [ents_single iris mem]
    simp [token, port, gen]
  -- the entry, where its planes are the lesser
  obtain ⟨n, put, kept, stored⟩ : ∃ n, (if (e.b ++ e.a).toNat < (t.planeB ++ t.w2).toNat then
      m.putEnt p .iris i { e with a := t.w2, b := t.planeB, fs := t.fs } else m) = n ∧ Matches m n p ∧
      (n.pe p).iris = [(i, greaterPlanes e t)] := by
    refine ⟨_, rfl, ?_⟩
    unfold greaterPlanes
    split
    · refine ⟨.putEnt_iris _ _, ?_⟩
      rw [putEnt_iris_pe, iris]
      simp [SMap.set]
    · exact ⟨.refl, iris⟩
  have counted : Leaves n (n.countJ 0x4300 (itemRef t).job 0x05) p := .of_stores (countJ_stores ..)
  have asks := rbIfFired_asks (kept.trans counted.toMatches) (itemRef t) e.gstate false
  have pe := rbIfFired_pe (m := n.countJ 0x4300 (itemRef t).job 0x05) (p := p) (itemRef t) e.gstate false p
  have iris' := (congrArg Pe.iris pe).trans (counted.iris.trans stored)
  have ready := evalReady_leaves (headOf_single iris' (member.trans mem) (headed.trans head)) (stated ▸ state)
  unfold mergeToken
  dsimp only
  rw [mergeToken_noAnti iris mem token]
  dsimp only
  rw [found]
  dsimp only
  rw [put]
  exact ⟨ready.iris.trans iris', ready.fifo.trans ((congrArg Pe.fifo pe).trans (counted.fifo.trans kept.fifo)),
    asks.trans ready.toMatches⟩

/-- The fields of a group of two tokens (R69, R70): the ports that have arrived, and whether one is contested. -/
def pairFields (e : Entry) (t : Token) : Entry :=
  { e with arrived := (1#8 <<< e.port.toNat) ||| (1#8 <<< t.port.toNat), contest := decide (e.port = t.port ∧ e.gen ≠ t.gen) }

end
end
end Mach
end Sys2Proof.Machine

namespace Sys2Proof.Machine
namespace Mach

section
variable {m : Mach} {p : PeId} {t : Token} {i w : Nat} {e : Entry}

theorem pairFields_inGroup (e : Entry) (t : Token) (p : PeId) (g : GRef) : (pairFields e t).inGroup p g = e.inGroup p g := by
  simp [pairFields, Entry.inGroup]

/-- Two entries of one group in Iris. -/
theorem ents_pair {g : GRef} {n : Entry} (iris : (m.pe p).iris = SMap.set [(i, e)] w n) (ne : w ≠ i) (mem : e.inGroup p g = true)
    (mem' : n.inGroup p g = true) : m.ents p .iris g = [(w, n), (i, e)] ∨ m.ents p .iris g = [(i, e), (w, n)] := by
  rcases SMap.set_single ne e n with l | l
  · exact .inl (by simp [ents, level, iris, l, mem, mem'])
  · exact .inr (by simp [ents, level, iris, l, mem, mem'])

theorem headOf_pair {g : GRef} {n : Entry} (iris : (m.pe p).iris = SMap.set [(i, e)] w n) (ne : w ≠ i) (mem : e.inGroup p g = true)
    (head : e.head = true) (join : n.head = false) : m.headOf p .iris g = some (i, e) := by
  rw [headOf_eq_find?, level, iris]
  exact SMap.find?_set_single ne _ _ (by simp [mem, head]) (by simp [join])

theorem arrived_pair (l : List (Nat × Entry)) (x y : Nat × Entry) (h : l = [x, y] ∨ l = [y, x]) (hx : x.2.kind = 0) (hy : y.2.kind = 0) :
    ((l.map (·.2)).filter (·.kind == 0)).foldl (fun (a : Byte) e => a ||| (1#8 <<< e.port.toNat)) 0
      = (1#8 <<< y.2.port.toNat) ||| (1#8 <<< x.2.port.toNat) := by
  rcases h with rfl | rfl
  · simp [hx, hy, BitVec.or_comm]
  · simp [hx, hy]

theorem contest_pair (l : List (Nat × Entry)) (x y : Nat × Entry) (h : l = [x, y] ∨ l = [y, x]) (hx : x.2.kind = 0) (hy : y.2.kind = 0) :
    ((l.map (·.2)).filter (·.kind == 0)).any (fun e => ((l.map (·.2)).filter (·.kind == 0)).any (fun f => e.port == f.port && e.gen != f.gen))
      = decide (y.2.port = x.2.port ∧ y.2.gen ≠ x.2.gen) := by
  have both : (l.map (·.2)).filter (·.kind == 0) = l.map (·.2) := by
    rcases h with rfl | rfl <;> simp [hx, hy]
  rw [both, Bool.eq_iff_iff]
  rcases h with rfl | rfl
  · simpa using fun port gen => ⟨Eq.symm port, fun h => gen (Eq.symm h)⟩
  · simpa using fun port gen => ⟨Eq.symm port, fun h => gen (Eq.symm h)⟩

/-- The fields of a group of two tokens follow its entries (R69, R70). -/
theorem reField_pair (iris : (m.pe p).iris = SMap.set [(i, e)] w (newEntry p t false 0)) (ne : w ≠ i)
    (mem : e.inGroup p (itemRef t) = true) (token : e.kind = 0) (head : e.head = true) (arrival : t.kind = 0) :
    ((m.reField p .iris (itemRef t)).pe p).iris = SMap.set (SMap.set [(i, e)] w (newEntry p t false 0)) i (pairFields e t) := by
  have pair := ents_pair iris ne mem (newEntry_inGroup false)
  have headed := headOf_pair iris ne mem head rfl
  have joins : (newEntry p t false 0).kind = 0 := arrival
  have arrived := arrived_pair _ (w, newEntry p t false 0) (i, e) pair joins token
  have contest := contest_pair _ (w, newEntry p t false 0) (i, e) pair joins token
  unfold reField
  dsimp only
  rw [arrived, contest, pe_of_stores (modHead_stores headed _)]
  simp only [storeEnt, pe_modPe, iris]
  rfl

end

section
variable {m : Mach} {p : PeId} {t : Token} {i : Nat} {e : Entry}

/-- A token of another port or generation joins its group: the fields of the group follow, and a FIRED group's node is asked to roll back (R66, R69, R70). -/
theorem mergeToken_joins (iris : (m.pe p).iris = [(i, e)]) (mem : e.inGroup p (itemRef t) = true) (token : e.kind = 0)
    (head : e.head = true) (state : e.gstate ≠ .presented) (arrival : t.kind = 0) (other : ¬ (e.port = t.port ∧ e.gen = t.gen)) :
    ∃ w, w ≠ i ∧ ((m.mergeToken p .iris (itemRef t) t e).pe p).iris =
        SMap.set (SMap.set [(i, e)] w (newEntry p t false 0)) i (pairFields e t) ∧
      ((m.mergeToken p .iris (itemRef t) t e).pe p).fifo = (m.pe p).fifo ∧
      Asks m (m.mergeToken p .iris (itemRef t) t e) p (itemRef t) e.gstate false := by
  obtain ⟨w, ne, added⟩ := addEnt_single iris mem head (newEntry p t false 0)
  refine ⟨w, ne, ?_⟩
  have entries := ents_single iris mem
  have none : ((m.ents p .iris (itemRef t)).filter (fun e => e.2.kind == 0 && e.2.port == t.port)).find? (fun e => e.2.gen == t.gen) = none := by
    rw [List.find?_eq_none]
    intro x hx
    simp only [entries, List.mem_filter, List.mem_singleton, Bool.and_eq_true, beq_iff_eq] at hx
    obtain ⟨rfl, -, port⟩ := hx
    simpa using fun gen => other ⟨port, gen⟩
  have some : (m.ents p .iris (itemRef t)).any (fun e => e.2.kind == 0) = true := by simp [entries, token]
  have put : ((m.putEnt p .iris w (newEntry p t false 0)).pe p).iris = SMap.set [(i, e)] w (newEntry p t false 0) := by
    rw [putEnt_iris_pe, iris]
  have found := findGroup_of_headOf (headOf_pair put ne mem head rfl)
  have fielded := reField_pair put ne mem token head arrival
  have kept : Matches m ((m.putEnt p .iris w (newEntry p t false 0)).reField p .iris (itemRef t)) p :=
    (Matches.putEnt_iris _ _).trans (Matches.modHead_iris _ _)
  unfold mergeToken
  dsimp only
  rw [mergeToken_noAnti iris mem token]
  dsimp only
  rw [none]
  dsimp only
  rw [added, found, some]
  dsimp only
  rw [if_neg (by simp)]
  generalize (m.putEnt p .iris w (newEntry p t false 0)).reField p .iris (itemRef t) = n at fielded kept
  obtain ⟨x, counted, hx⟩ : ∃ x, Leaves n x p ∧ (if ((m.ents p .iris (itemRef t)).filter
      (fun e => e.2.kind == 0 && e.2.port == t.port) != [] && !e.contest) = true
      then n.countJ 0x4300 (itemRef t).job 0x06 else n) = x := by
    refine ⟨_, ?_, rfl⟩
    split
    · exact .of_stores (countJ_stores ..)
    · exact .of_stores rfl
  rw [hx]
  have asks := rbIfFired_asks (kept.trans counted.toMatches) (itemRef t) e.gstate false
  have pe := rbIfFired_pe (m := x) (p := p) (itemRef t) e.gstate false p
  have iris' := (congrArg Pe.iris pe).trans (counted.iris.trans fielded)
  have headed : (x.rbIfFired p (itemRef t) e.gstate false).headOf p .iris (itemRef t) = Option.some (i, pairFields e t) := by
    refine headOf_set (headOf_pair put ne mem head rfl) ((pairFields_inGroup e t p _).trans mem) head ?_
    rw [level, iris', level, put]
  have ready := evalReady_leaves headed state
  exact ⟨ready.iris.trans iris', ready.fifo.trans ((congrArg Pe.fifo pe).trans (counted.fifo.trans kept.fifo)),
    asks.trans ready.toMatches⟩

end
end Mach
end Sys2Proof.Machine

namespace Sys2Proof.Machine
namespace Mach

section
variable {m m' : Mach} {p : PeId} {t : Token} {it : Item} {rest : List Item} {i : Nat} {e : Entry}

theorem newEntry_planes (p : PeId) (t : Token) (h : Bool) (cid : Nat) :
    (t.kind = 1 → (newEntry p t h cid).a = 0 ∧ (newEntry p t h cid).b = 0) ∧
    (t.kind = 0 → (newEntry p t h cid).a = t.w2 ∧ (newEntry p t h cid).b = t.planeB) := by
  unfold newEntry
  constructor <;> intro h <;> simp [h]

theorem planeB_of_token (token : t.kind = 0) : (t.fs = true → t.planeB = t.w3) ∧ (t.fs = false → t.planeB = 0) := by
  unfold Token.planeB
  constructor <;> intro h <;> simp [h, token]

/-- An arrival that finds its one-entry group in Iris is merged into it. -/
theorem matchArrival_merge (good : it.tok.malformed = false) (live : m.live it.tok.job = true) (clean : m.cleanMemory)
    (fifo : (m.pe p).fifo = it :: rest) (ready : (m.pe p).readyQ = []) (miss : (m.pe p).miss = [])
    (held : m.ringHeld (.matching p) = false) (iris : (m.pe p).iris = [(i, e)]) (mem : e.inGroup p (itemRef it.tok) = true)
    (token : it.tok.kind ≠ 2) :
    m.matchArrival p = ((m.taken p rest).mergeArrival p .iris (itemRef it.tok) it.tok).releaseItem p it := by
  obtain ⟨park, looked⟩ := matchArrival_lookup fifo ready miss held good live
  have iris' : ((m.taken p rest).pe p).iris = [(i, e)] := by rw [taken_pe, iris]
  rw [looked, lookup_merge (taken_clean clean rest) ((taken_live rest _).trans live) token (by simp [ents_single iris' mem])]

theorem mergeArrival_anti (iris : (m.pe p).iris = [(i, e)]) (mem : e.inGroup p (itemRef t) = true) (head : e.head = true)
    (anti : t.kind = 1) : m.mergeArrival p .iris (itemRef t) t = m.mergeAnti p .iris (itemRef t) t e.gstate := by
  unfold mergeArrival
  rw [headOf_single iris mem head]
  exact if_pos anti

theorem mergeArrival_token (iris : (m.pe p).iris = [(i, e)]) (mem : e.inGroup p (itemRef t) = true) (head : e.head = true)
    (token : t.kind = 0) : m.mergeArrival p .iris (itemRef t) t = m.mergeToken p .iris (itemRef t) t e := by
  unfold mergeArrival
  rw [headOf_single iris mem head]
  exact if_neg (by simp [token])

theorem Asks.of_taken {g : GRef} {st : GState} {anti : Bool} (h : Asks (m.taken p rest) m' p g st anti) : Asks m m' p g st anti := by
  intro fired none room idle
  refine h fired none room ?_
  simpa [rbInProgress, taken_pe] using idle

end
end Mach
end Sys2Proof.Machine

section
open Sys2Proof Sys2Proof.Machine

/-- The groups O31 forms: at once, or after probes that miss. -/
theorem arrivalsForm : Claim.ArrivalsFormGroups := by
  intro s p it rest token good live clean iris tk g forms
  have formed : ∀ t : State, (t.m.pe p).iris = [((g.hash p).1 * 8, Mach.newEntry p tk true 0)] →
      (t.m.pe p).gatherQ = (s.m.pe p).gatherQ ++ [⟨g, .arm⟩] → forms t := fun t iris' gather => by
    obtain ⟨ha, hb⟩ := (Mach.newEntry_planes p tk true 0).2 token
    obtain ⟨four, two⟩ := Mach.planeB_of_token token
    exact ⟨_, _, iris', rfl, rfl, rfl, rfl, rfl, rfl, rfl, ha, fun h => hb.trans (four h), fun h => hb.trans (two h), gather⟩
  refine ⟨?_, ?_⟩
  · intro fifo ready miss ovf held
    have f := Mach.matchArrival_forms token good live clean iris fifo ready miss ovf held
    exact ⟨_, rfl, f.fifo.trans (by rw [Mach.taken_pe]), formed _ f.iris (f.gather.trans (by rw [Mach.taken_pe]; rfl))⟩
  · intro k ms miss item mob
    subst item
    obtain ⟨done, iris', gather⟩ := Mach.missed_forms miss token live iris
    refine ⟨?_, ?_, ?_, ?_⟩
    · intro stage overflowed
      exact ⟨_, rfl, Mach.mobProbe_goesOn miss stage live clean mob overflowed⟩
    · intro stage zero
      have e := (Mach.mobProbe_missed miss stage live clean mob).trans (if_neg fun h => bne_iff_ne.mp h zero)
      refine ⟨_, rfl, ?_⟩
      dsimp only
      rw [e]
      exact ⟨done, formed _ iris' gather⟩
    · intro _ out
      exact congrArg (fun m => Host.Outcome.next { s with m := m }) (Mach.deepProbe_waits out)
    · intro stage out deep
      have e := Mach.deepProbe_missed miss stage out live clean deep
      refine ⟨_, rfl, ?_⟩
      dsimp only
      rw [e]
      exact ⟨done, formed _ iris' gather⟩

/-- The arrivals of O31 that meet their group in Iris. -/
theorem arrivalsMeet : Claim.ArrivalsMeetTheirGroup := by
  intro s p it rest i e tk g same good live clean fifo ready miss held iris mem head state kind asks meets joins
  have iris' : ((s.m.taken p rest).pe p).iris = [(i, e)] := by rw [Mach.taken_pe, iris]
  have taken : ((s.m.taken p rest).pe p).fifo = rest := by rw [Mach.taken_pe]
  -- the state after the arrival is merged and its slot released
  have met : ∀ (what : State → Prop) (n : Mach), tk.kind ≠ 2 → (s.m.taken p rest).mergeArrival p .iris g tk = n →
      (n.pe p).fifo = ((s.m.taken p rest).pe p).fifo → (∀ u, Mach.Leaves n u p → what { s with m := u }) → meets what := by
    rintro what n token rfl fifo' h
    have merge := Mach.matchArrival_merge good live clean fifo ready miss held iris mem token
    have left : Mach.Leaves ((s.m.taken p rest).mergeArrival p .iris g tk) (s.m.matchArrival p) p := merge ▸ .releaseItem it
    exact ⟨_, rfl, left.fifo.trans (fifo'.trans taken), h _ left⟩
  have asked : ∀ (n u : Mach) (anti : Bool), Mach.Asks (s.m.taken p rest) n p g e.gstate anti → Mach.Leaves n u p →
      asks anti { s with m := u } := fun n u anti h left => (h.trans left.toMatches).of_taken
  have joined : ∀ (u : Mach) (w : Nat), w ≠ i → SMap.get? (u.pe p).iris w = some (Mach.newEntry p tk false 0) →
      joins { s with m := u } := fun u w ne h =>
    ⟨w, _, ne, h, rfl, rfl, rfl, rfl, (Mach.newEntry_planes p tk false 0).1, (Mach.newEntry_planes p tk false 0).2⟩
  refine ⟨?_, ?_, ?_, ?_, ?_, ?_⟩
  · intro anti token own
    obtain ⟨empty, fifo', asks'⟩ := Mach.mergeAnti_annihilates iris' mem e.gstate ⟨token, own⟩
    exact met _ _ (by simp [anti]) (Mach.mergeArrival_anti iris' mem head anti) fifo'
      fun u left => ⟨left.iris.trans empty, asked _ u true asks' left⟩
  · intro token anti own
    obtain ⟨empty, kept⟩ := Mach.mergeToken_annihilates iris' mem e ⟨anti, own⟩
    exact met _ _ (by simp [token]) (Mach.mergeArrival_token iris' mem head token) kept.fifo
      fun u left => left.iris.trans empty
  · intro anti other
    obtain ⟨w, ne, pair, kept⟩ := Mach.mergeAnti_keeps iris' mem head state e.gstate other
    refine met _ _ (by simp [anti]) (Mach.mergeArrival_anti iris' mem head anti) kept.fifo fun u left => ?_
    have both := left.iris.trans pair
    exact ⟨(congrArg (SMap.get? · i) both).trans (SMap.get?_set_single_ne ne ..),
      joined u w ne ((congrArg (SMap.get? · w) both).trans (SMap.get?_set_self ..))⟩
  · intro token kind' own
    obtain ⟨one, fifo', asks'⟩ := Mach.mergeToken_same iris' mem kind' head state own
    exact met _ _ (by simp [token]) (Mach.mergeArrival_token iris' mem head token) fifo'
      fun u left => ⟨asked _ u false asks' left,
        (congrArg (SMap.get? · i) (left.iris.trans one)).trans ((SMap.get?_single ..).trans (if_pos rfl))⟩
  · intro token kind' port gen
    obtain ⟨w, ne, pair, fifo', asks'⟩ := Mach.mergeToken_joins iris' mem kind' head state token (fun own => gen own.2)
    refine met _ _ (by simp [token]) (Mach.mergeArrival_token iris' mem head token) fifo' fun u left => ?_
    have both := left.iris.trans pair
    refine ⟨joined u w ne ((congrArg (SMap.get? · w) both).trans ?_), asked _ u false asks' left, Mach.pairFields e tk,
      (congrArg (SMap.get? · i) both).trans (SMap.get?_set_self ..), ?_, rfl, rfl, rfl⟩
    · exact (SMap.get?_set_ne _ _ _ _ ne).trans (SMap.get?_set_self ..)
    · exact decide_eq_true ⟨port, gen⟩
  · intro token kind' port
    obtain ⟨w, ne, pair, fifo', asks'⟩ := Mach.mergeToken_joins iris' mem kind' head state token (fun own => port own.1)
    refine met _ _ (by simp [token]) (Mach.mergeArrival_token iris' mem head token) fifo' fun u left => ?_
    have both := left.iris.trans pair
    refine ⟨joined u w ne ((congrArg (SMap.get? · w) both).trans ?_), asked _ u false asks' left, Mach.pairFields e tk,
      (congrArg (SMap.get? · i) both).trans (SMap.get?_set_self ..), ?_, rfl⟩
    · exact (SMap.get?_set_ne _ _ _ _ ne).trans (SMap.get?_set_self ..)
    · exact decide_eq_false fun h => port h.1

/-- Settles O31, by its two parts. -/
theorem arrivalsFormGroups : Obligations.ArrivalsFormGroups := ⟨arrivalsForm, arrivalsMeet⟩

end

namespace Sys2Proof.Machine

/-! The least of some tags -/

theorem Tag.le_refl (x : Tag) : x.le x = true := by simp [Tag.le]

theorem Tag.le_trans {x y z : Tag} (h : x.le y = true) (h' : y.le z = true) : x.le z = true := by
  simp only [Tag.le, decide_eq_true_eq] at *
  omega

/-- The earlier of two tags, as the fold of minTag takes it. -/
theorem Tag.pick_le (b y : Tag) : (if y.lt b then y else b).le b = true ∧ (if y.lt b then y else b).le y = true := by
  unfold Tag.lt Tag.le
  simp only [decide_eq_true_eq]
  split <;> omega

theorem foldl_pick (l : List Tag) (b : Tag) :
    let r := l.foldl (fun b y => if y.lt b then y else b) b
    (r = b ∨ r ∈ l) ∧ r.le b = true ∧ ∀ v ∈ l, r.le v = true := by
  induction l generalizing b with
  | nil => exact ⟨.inl rfl, b.le_refl, fun _ h => absurd h List.not_mem_nil⟩
  | cons y l ih =>
    obtain ⟨member, below, least⟩ := ih (if y.lt b then y else b)
    obtain ⟨hb, hy⟩ := Tag.pick_le b y
    refine ⟨?_, Tag.le_trans below hb, fun v hv => ?_⟩
    · rcases member with e | e
      · simp only [List.foldl_cons, e]
        split
        · exact .inr (.head _)
        · exact .inl rfl
      · exact .inr (.tail _ e)
    · rcases List.mem_cons.mp hv with rfl | hv
      · exact Tag.le_trans below hy
      · exact least v hv

theorem minTag_mem {l : List Tag} {g : Tag} (h : minTag l = some g) : g ∈ l := by
  cases l with
  | nil => cases h
  | cons x l =>
    cases h
    exact List.mem_cons.mpr (foldl_pick l x).1

theorem minTag_le {l : List Tag} {v : Tag} (h : v ∈ l) : ∃ g, minTag l = some g ∧ g.le v = true := by
  cases l with
  | nil => exact absurd h List.not_mem_nil
  | cons x l =>
    obtain ⟨-, below, least⟩ := foldl_pick l x
    rcases List.mem_cons.mp h with rfl | h
    · exact ⟨_, rfl, below⟩
    · exact ⟨_, rfl, least v h⟩

namespace Mach

section
variable (m : Mach) (j : JobId)

/-! The terms of a job, row by row (Table 9-1) -/

theorem exists_peTags {p : PeId} {Q : Tag → Prop} : (∃ x ∈ m.peTags p j, Q x) ↔
    (∃ e ∈ (m.pe p).iris, e.2.head = true ∧ e.2.job = j ∧ e.2.gstate ≠ .fired ∧ Q (m.tagOf j e.2.key)) ∨
    (∃ c ∈ (m.pe p).ctxs, c.2.job = j ∧ Q c.2.tag) ∨ (∃ e ∈ (m.pe p).emitQ, e.job = j ∧ Q e.tag) ∨
    (∃ g, Sweep.rollback g ∈ (m.pe p).sweeps ∧ g.job = j ∧ Q (m.tagOf j g.key)) := by
  unfold peTags
  simp only [List.mem_append, or_and_right, exists_or, List.mem_map, exists_exists_and_eq_and]
  simp only [List.mem_filter, List.mem_filterMap, heads,
    Bool.and_eq_true, beq_iff_eq, bne_iff_ne, or_assoc, and_assoc]
  refine or_congr .rfl (or_congr .rfl (or_congr .rfl ⟨?_, ?_⟩))
  · rintro ⟨x, ⟨s, member, h⟩, hx⟩
    cases s with
    | rollback g =>
      obtain ⟨job, rfl⟩ : g.job = j ∧ m.tagOf j g.key = x := by simpa using h
      exact ⟨g, member, job, hx⟩
    | commit k t => cases h
  · rintro ⟨g, member, job, hx⟩
    exact ⟨_, ⟨_, member, by simp [job]⟩, hx⟩

theorem exists_rbTags {Q : Tag × Nat → Prop} : (∃ x ∈ m.rbTags j, Q x) ↔
    (∃ t ∈ m.tiles, ∃ q ∈ t.2.rbq ++ t.2.rbOut, q.job = j ∧ Q (m.tagOf j q.key, m.lookahead j (nodePe q.node))) ∨
    (∃ t ∈ m.tiles, ∃ q, SMap.get? t.2.rbOvfMin j.toNat = some q ∧ Q (q.1, m.lookahead j q.2)) := by
  unfold rbTags
  constructor
  · rintro ⟨x, hx, hq⟩
    obtain ⟨t, ht, hx⟩ := List.mem_flatMap.mp hx
    rcases List.mem_append.mp hx with hx | hx
    · obtain ⟨q, member, rfl⟩ := List.mem_map.mp hx
      obtain ⟨member, job⟩ := List.mem_filter.mp member
      exact .inl ⟨t, ht, q, member, by simpa using job, hq⟩
    · obtain ⟨q, found, rfl⟩ := Option.map_eq_some_iff.mp (Option.mem_toList.mp hx)
      exact .inr ⟨t, ht, q, found, hq⟩
  · rintro (⟨t, ht, q, member, job, hq⟩ | ⟨t, ht, q, found, hq⟩)
    · exact ⟨_, List.mem_flatMap.mpr ⟨t, ht, List.mem_append_left _ (List.mem_map.mpr ⟨q, List.mem_filter.mpr ⟨member, by simpa using job⟩, rfl⟩)⟩, hq⟩
    · exact ⟨_, List.mem_flatMap.mpr ⟨t, ht, List.mem_append_right _ (by simp [found])⟩, hq⟩

theorem mem_tileTags {x : Tag} : x ∈ m.tileTags j ↔ (∃ t ∈ m.tiles, ∃ l ∈ t.2.transit, l.2.job = j ∧ x = l.2.tag) ∨
    (∃ y ∈ m.pmsgs, (∃ t i, y.msg = .item t i ∧ i.job = j ∧ x = i.ctag) ∨ (∃ t n g, y.msg = .cancel t j n x g)) := by
  unfold tileTags
  simp only [List.mem_flatMap, List.mem_append, List.mem_map, List.mem_filter, List.mem_filterMap, beq_iff_eq, and_assoc,
    eq_comm (a := x)]
  refine or_congr .rfl (exists_congr fun y => and_congr_right fun _ => ?_)
  cases y.msg with
  | item t i => simp
  | cancel t k n u g => simp [and_comm]

theorem mem_hubTags {x : Tag} : x ∈ m.hubTags j ↔ (∃ l ∈ m.hubTerms, l.2.job = j ∧ x = l.2.tag) ∨
    (∃ y ∈ m.hubWait, y.2.1.job = j ∧ x = y.2.2) ∨ ((m.job j).paced = true ∧ x = m.ceiling j (m.job j).edge) := by
  unfold hubTags ceiling
  simp only [List.mem_append, List.mem_map, List.mem_filter, beq_iff_eq, or_assoc, and_assoc, eq_comm (a := x)]
  refine or_congr .rfl (or_congr .rfl ?_)
  split <;> simp [*, eq_comm]

/-- The GVT value of a term that a lookahead is declared for, or its SH value (R184). -/
def valueOf (sh : Bool) (x : Tag × Nat) : Tag := if sh then plusLa x.1 x.2 else x.1

/-- The GVT values of the terms of a job, or their SH values. -/
def termsOf (sh : Bool) : List Tag := if sh then (m.horizonTerms j).2 else (m.horizonTerms j).1

/-- The value of a horizon register. -/
def regOf (sh : Bool) (h : HReg) : Option Tag := if sh then h.leastL else h.least

theorem termsOf_eq (sh : Bool) : m.termsOf j sh =
    ((m.jobPes j).flatMap (fun p => (m.peTags p j).map (fun t => (t, m.lookahead j p))) ++ m.rbTags j).map (valueOf sh)
      ++ ((m.clusters.map (fun c => SMap.getD c.2.hreg j.toNat {})) ++ (m.tiles.map (fun t => SMap.getD t.2.hreg j.toNat {}))).filterMap
        (regOf sh) ++ (m.tileTags j ++ m.hubTags j) := by
  cases sh <;> rfl

theorem mem_termsOf {sh : Bool} {v : Tag} : v ∈ m.termsOf j sh ↔
    (∃ p ∈ m.jobPes j, ∃ x ∈ m.peTags p j, v = valueOf sh (x, m.lookahead j p)) ∨ (∃ x ∈ m.rbTags j, v = valueOf sh x) ∨
    (∃ c ∈ m.clusters, regOf sh (SMap.getD c.2.hreg j.toNat {}) = some v) ∨
    (∃ t ∈ m.tiles, regOf sh (SMap.getD t.2.hreg j.toNat {}) = some v) ∨ v ∈ m.tileTags j ∨ v ∈ m.hubTags j := by
  rw [termsOf_eq]
  simp only [List.map_append, List.map_flatMap, List.map_map, List.filterMap_append, List.filterMap_map, List.mem_append, List.mem_map,
    List.mem_flatMap, List.mem_filterMap, Function.comp, or_assoc, eq_comm (a := v)]

/-- The terms sampled are those of Table 9-1. -/
theorem mem_termsOf_iff_term {sh : Bool} {v : Tag} : v ∈ m.termsOf j sh ↔ Claim.Term m j sh v := by
  rw [mem_termsOf]
  unfold Claim.Term
  simp only [exists_peTags, exists_rbTags, mem_tileTags, mem_hubTags, and_or_left, exists_or, or_assoc, valueOf, regOf, apply_ite (· = some v)]

end
end Mach
end Sys2Proof.Machine

namespace Sys2Proof.Machine

theorem SMap.getD_map {α : Type} {f : α → α} {d : α} (h : f d = d) (m : SMap α) (k : Nat) :
    SMap.getD (m.map (fun e => (e.1, f e.2))) k d = f (SMap.getD m k d) := by
  induction m with
  | nil => exact h.symm
  | cons a r ih =>
    simp only [SMap.getD, SMap.get?, List.map_cons] at ih ⊢
    split
    · rfl
    · exact ih

/-- A job without what a snapshot samples of it. -/
def Job.unsampled (x : Job) : Job :=
  { x with sampG := none, sampS := none, sampled := false, sampClear := false, sampIdle := false, sampRb := false }

namespace Mach

theorem job_mem_allJobs (j : JobId) : j ∈ allJobs :=
  List.mem_map.mpr ⟨j.toNat, List.mem_range.mpr j.isLt, BitVec.ofNat_toNat ..⟩

/-- Of m, m' differs in what its jobs hold sampled alone. -/
structure Samples (m m' : Mach) : Prop where
  others : m' = { m with jobs := m'.jobs }
  jobs : ∀ j, (m'.job j).unsampled = (m.job j).unsampled

section
variable {m m' m'' : Mach}

namespace Samples

theorem refl : Samples m m := ⟨rfl, fun _ => rfl⟩

theorem trans (h : Samples m m') (h' : Samples m' m'') : Samples m m'' :=
  ⟨by rw [h'.others, h.others], fun j => (h'.jobs j).trans (h.jobs j)⟩

theorem modJob (j : JobId) {f : Job → Job} (hf : ∀ x, (f x).unsampled = x.unsampled) : Samples m (m.modJob j f) :=
  ⟨rfl, fun k => m.job_modJob_field Job.unsampled j k f (hf _)⟩

/-- A field of a job that no snapshot samples. -/
theorem field {β : Type} (h : Samples m m') (φ : Job → β) (hφ : ∀ x, φ x.unsampled = φ x) (j : JobId) : φ (m'.job j) = φ (m.job j) := by
  rw [← hφ, h.jobs, hφ]

theorem tagOf (h : Samples m m') (j : JobId) (k : Key) : m'.tagOf j k = m.tagOf j k := by
  rw [Mach.tagOf, h.field (·.gvt) (fun _ => rfl), Mach.tagOf]

theorem live (h : Samples m m') (j : JobId) : m'.live j = m.live j := by
  unfold Mach.live
  rw [h.field (·.state) (fun _ => rfl)]

theorem jobPes (h : Samples m m') (j : JobId) : m'.jobPes j = m.jobPes j := by
  unfold Mach.jobPes
  rw [h.field (·.ncount) (fun _ => rfl)]

theorem jobObj (h : Samples m m') (j : JobId) (s d : Nat) : m'.jobObj j s d = m.jobObj j s d := by
  rw [h.others]
  rfl

theorem lookahead (h : Samples m m') (j : JobId) (p : PeId) : m'.lookahead j p = m.lookahead j p := by
  unfold Mach.lookahead
  rw [h.field (·.look) (fun _ => rfl), h.jobObj]

theorem peTags (h : Samples m m') (p : PeId) (j : JobId) : m'.peTags p j = m.peTags p j := by
  have pe : m'.pe p = m.pe p := by rw [h.others]; rfl
  unfold Mach.peTags
  simp only [pe, h.tagOf]

theorem rbTags (h : Samples m m') (j : JobId) : m'.rbTags j = m.rbTags j := by
  have tiles : m'.tiles = m.tiles := by rw [h.others]
  unfold Mach.rbTags
  simp only [tiles, h.tagOf, h.lookahead]

theorem tileTags (h : Samples m m') (j : JobId) : m'.tileTags j = m.tileTags j := by
  rw [h.others]
  rfl

theorem hubTags (h : Samples m m') (j : JobId) : m'.hubTags j = m.hubTags j := by
  have terms : m'.hubTerms = m.hubTerms := by rw [h.others]
  have wait : m'.hubWait = m.hubWait := by rw [h.others]
  unfold Mach.hubTags
  simp only [terms, wait, h.jobObj, h.field (·.paced) (fun _ => rfl), h.field (·.t0) (fun _ => rfl), h.field (·.edge) (fun _ => rfl)]

/-- The terms of a job do not depend on what is sampled. -/
theorem horizonTerms (h : Samples m m') (j : JobId) : m'.horizonTerms j = m.horizonTerms j := by
  have clusters : m'.clusters = m.clusters := by rw [h.others]
  have tiles : m'.tiles = m.tiles := by rw [h.others]
  unfold Mach.horizonTerms
  simp only [clusters, tiles, h.jobPes, h.peTags, h.lookahead, h.rbTags, h.tileTags, h.hubTags]

end Samples

/-- The terms of a job as m has them have been sampled. -/
def Sampled (m : Mach) (j : JobId) (x : Job) : Prop :=
  x.sampled = true ∧ x.sampG = minTag (m.horizonTerms j).1 ∧ x.sampS = minTag (m.horizonTerms j).2

theorem sampleJob_samples (m : Mach) (j : JobId) : Samples m (m.sampleJob j) := by
  unfold sampleJob
  split
  · exact .modJob j fun _ => rfl
  · exact .modJob j fun _ => rfl

theorem sampleJob_ne {j k : JobId} (h : k ≠ j) : (m.sampleJob j).job k = m.job k := by
  unfold sampleJob
  split
  · exact m.job_modJob_ne j k _ h
  · exact m.job_modJob_ne j k _ h

theorem sampleJob_sampled {j : JobId} (live : m.live j = true) : m.Sampled j ((m.sampleJob j).job j) := by
  unfold sampleJob
  rw [if_neg (by simp [live]), job_modJob]
  exact ⟨rfl, rfl, rfl⟩

theorem foldl_sampleJob_samples (l : List JobId) (h : Samples m m') : Samples m (l.foldl sampleJob m') := by
  induction l generalizing m' with
  | nil => exact h
  | cons k l ih => exact ih (h.trans (m'.sampleJob_samples k))

/-- A loop of samples samples every live job it names, and keeps what is sampled. -/
theorem foldl_sampleJob_sampled {j : JobId} (live : m.live j = true) (l : List JobId) (h : Samples m m')
    (hj : j ∈ l ∨ m.Sampled j (m'.job j)) : m.Sampled j ((l.foldl sampleJob m').job j) := by
  induction l generalizing m' with
  | nil => exact hj.resolve_left List.not_mem_nil
  | cons k l ih =>
    refine ih (h.trans (m'.sampleJob_samples k)) ?_
    by_cases e : j = k
    · subst e
      have := sampleJob_sampled ((h.live j).trans live)
      rw [Sampled, h.horizonTerms] at this
      exact .inr this
    · rw [sampleJob_ne e]
      exact hj.imp_left fun hj => (List.mem_cons.mp hj).resolve_left e

/-- A snapshot samples its jobs, and changes no other job fields. -/
theorem snapshot_jobs (serving : m.serving = true) : m.snapshot.jobs = (allJobs.foldl sampleJob m).jobs := by
  unfold snapshot
  rw [if_neg (by simp [serving])]
  dsimp only
  split <;> rfl

theorem snapshot_job (serving : m.serving = true) (j : JobId) : m.snapshot.job j = (allJobs.foldl sampleJob m).job j := by
  rw [job, snapshot_jobs serving, job]

/-- A snapshot begins the injection windows of the stops anew, and counts the governor period down (R187, R224). -/
theorem snapshot_windows (serving : m.serving = true) (d : BitVec 2) (k : BitVec 5) : (m.snapshot.stop d k).used = [] ∧
    m.snapshot.govLeft = m.govLeft - 1 := by
  have samples := foldl_sampleJob_samples allJobs (Samples.refl (m := m))
  have net : m.snapshot.net.stops = (allJobs.foldl sampleJob m).net.stops.map (fun e => (e.1, { e.2 with used := [] })) ∧
      m.snapshot.govLeft = (allJobs.foldl sampleJob m).govLeft - 1 := by
    unfold snapshot
    rw [if_neg (by simp [serving])]
    dsimp only
    generalize allJobs.foldl sampleJob m = n
    split <;> exact ⟨rfl, rfl⟩
  refine ⟨?_, ?_⟩
  · rw [stop, net.1, SMap.getD_map (f := fun x : Stop => { x with used := [] }) rfl]
  · rw [net.2, samples.others]

/-- What is sampled is the least of the terms of Table 9-1. -/
theorem minTag_terms (m : Mach) (j : JobId) (sh : Bool) :
    (∀ v, Claim.Term m j sh v → ∃ g, minTag (m.termsOf j sh) = some g ∧ g.le v = true) ∧
    (∀ g, minTag (m.termsOf j sh) = some g → Claim.Term m j sh g) :=
  ⟨fun _ h => minTag_le ((m.mem_termsOf_iff_term j).mpr h), fun _ h => (m.mem_termsOf_iff_term j).mp (minTag_mem h)⟩

end
end Mach
end Sys2Proof.Machine

section
open Sys2Proof Sys2Proof.Machine

/-- The snapshots of O41. -/
theorem snapshotsSampleTheTerms : Claim.SnapshotsSampleTheTerms := by
  intro s serving
  have samples := Mach.foldl_sampleJob_samples Mach.allJobs (Mach.Samples.refl (m := s.m))
  refine ⟨_, rfl, ?_, ?_, fun d k => (Mach.snapshot_windows serving d k).1, (Mach.snapshot_windows serving 0 0).2⟩
  · intro j live
    have sampled := Mach.foldl_sampleJob_sampled live Mach.allJobs .refl (.inl (Mach.job_mem_allJobs j))
    rw [← Mach.snapshot_job serving] at sampled
    obtain ⟨taken, least, leastSh⟩ := sampled
    obtain ⟨below, term⟩ := s.m.minTag_terms j false
    obtain ⟨belowSh, termSh⟩ := s.m.minTag_terms j true
    exact ⟨taken, least, leastSh, least ▸ below, least ▸ term, leastSh ▸ belowSh, leastSh ▸ termSh⟩
  · intro j
    dsimp only
    rw [Mach.snapshot_job serving]
    exact ⟨samples.field (·.gvt) (fun _ => rfl) j, samples.field (·.sh) (fun _ => rfl) j, samples.field (·.state) (fun _ => rfl) j⟩

end

namespace Sys2Proof.Machine

/-- A job without its READ_NODE copies and requests. -/
def Job.unread (x : Job) : Job := { x with reads := [], readReqs := [] }

namespace Mach

/-- m' has the jobs of m, but for their READ_NODE copies and requests, the sweeps of its PEs and its part in the system wave. -/
structure Calm (m m' : Mach) : Prop where
  jobs : ∀ j, (m'.job j).unread = (m.job j).unread
  sweeps : ∀ p, (m'.pe p).sweeps = (m.pe p).sweeps
  wave : m'.wave = m.wave

section
variable {m m' m'' : Mach}

theorem modStream_stores (s : Nat) (f : Stream → Stream) : (m.modStream s f).stores = m.stores := rfl

namespace Calm

theorem of_stores (h : m'.stores = m.stores) : Calm m m' :=
  ⟨fun j => by rw [job_of_stores h], fun p => by rw [pe_of_stores h], wave_of_stores h⟩

theorem refl : Calm m m := of_stores rfl

theorem trans (h : Calm m m') (h' : Calm m' m'') : Calm m m'' :=
  ⟨fun j => (h'.jobs j).trans (h.jobs j), fun p => (h'.sweeps p).trans (h.sweeps p), h'.wave.trans h.wave⟩

/-- A field of a job other than its READ_NODE copies and requests. -/
theorem field {β : Type} (h : Calm m m') (φ : Job → β) (hφ : ∀ x, φ x.unread = φ x) (j : JobId) : φ (m'.job j) = φ (m.job j) := by
  rw [← hφ, h.jobs, hφ]

theorem ite {c : Prop} [Decidable c] {n : Mach} (h : Calm m m') (h' : Calm m n) : Calm m (if c then m' else n) := by
  split
  · exact h
  · exact h'

theorem foldl {α : Type} {f : Mach → α → Mach} (h : ∀ x a, Calm x (f x a)) (l : List α) : Calm m (l.foldl f m) := by
  induction l generalizing m with
  | nil => exact refl
  | cons a l ih => exact (h m a).trans ih

theorem modPe (p : PeId) {f : Pe → Pe} (hf : ∀ x, (f x).sweeps = x.sweeps) : Calm m (m.modPe p f) :=
  ⟨fun _ => rfl, fun q => m.pe_modPe_field (·.sweeps) p q f (hf _), rfl⟩

theorem modTile (t : TileId) (f : Tile → Tile) : Calm m (m.modTile t f) := ⟨fun _ => rfl, fun _ => rfl, rfl⟩

theorem modCluster (c : ClusterId) (f : Cluster → Cluster) : Calm m (m.modCluster c f) := ⟨fun _ => rfl, fun _ => rfl, rfl⟩

theorem modJob (j : JobId) {f : Job → Job} (hf : ∀ x, (f x).unread = x.unread) : Calm m (m.modJob j f) :=
  ⟨fun k => m.job_modJob_field Job.unread j k f (hf _), fun _ => rfl, rfl⟩

/-! Readiness leaves the jobs and the sweeps -/

theorem storeEnt (p : PeId) (pl : Place) (i : Nat) (e : Entry) : Calm m (m.storeEnt p pl i e) := by
  cases pl with
  | iris => exact modPe p (f := fun x => { x with iris := SMap.set x.iris i e }) fun _ => rfl
  | mob => exact modCluster _ fun c => { c with mob := SMap.set c.mob i e }
  | deep =>
    unfold Mach.storeEnt
    dsimp only
    split
    · exact ((modTile _ _).trans (of_stores (hbmWords_stores ..))).trans (modTile _ _)
    · exact modTile _ _

theorem modHead (p : PeId) (pl : Place) (g : GRef) (f : Entry → Entry) : Calm m (m.modHead p pl g f) := by
  unfold Mach.modHead
  split
  · exact (storeEnt ..).trans (of_stores (putWords_stores ..))
  · exact refl

theorem spillEnd (p : PeId) : Calm m (m.spillEnd p) := by
  unfold Mach.spillEnd
  exact ite (modPe p (f := fun x => { x with spill := _, deferred := _, gatherQ := _ }) fun _ => rfl) refl

theorem dropDesc (p : PeId) (g : GRef) : Calm m (m.dropDesc p g) := by
  unfold Mach.dropDesc
  dsimp only
  have pool : Calm m (m.modPe p (fun x => { x with
      pool := x.pool.filter (fun d => !(d.2.job == g.job && d.2.node == g.node && d.2.key == g.key && d.2.cid == g.cid)),
      readyQ := x.readyQ.filter (· != g) })) := modPe p fun _ => rfl
  split
  · exact pool.trans ((modTile _ _).trans (spillEnd p))
  · exact pool

theorem withdraw (p : PeId) (pl : Place) (g : GRef) : Calm m (m.withdraw p pl g) := by
  unfold Mach.withdraw setGState
  refine trans ?_ (of_stores (countJ_stores ..))
  refine trans (dropDesc p g) ?_
  generalize m.dropDesc p g = n
  exact modHead p pl g _

theorem evalReady (p : PeId) (g : GRef) : Calm m (m.evalReady p g) := by
  unfold Mach.evalReady
  split
  · exact refl
  · split
    · exact refl
    · split
      · refine ite (modPe p fun x => ?_) refl
        split <;> rfl
      · exact ite refl (withdraw ..)
      · exact refl

theorem presentDeep (j : JobId) : Calm m (m.presentDeep j) := by
  unfold Mach.presentDeep
  refine foldl (fun x p => ?_) _
  refine foldl (fun y e => ?_) _
  exact evalReady p e.2.ref

/-! The copies of READ_NODE and the streams of probes leave them too -/

theorem hostWrites (job : Option JobId) (fn : Nat) (a : Word) (d : List Byte) : Calm m (m.hostWrites job fn a d) := by
  unfold Mach.hostWrites
  refine foldl (fun x a => ?_) _
  exact of_stores rfl

theorem releaseReads (j : JobId) (g : Tag) : Calm m (m.releaseReads j g) := by
  unfold Mach.releaseReads
  dsimp only
  refine trans ?_ (foldl (fun x r => ?_) _)
  · exact modJob j fun _ => rfl
  split
  · refine trans ?_ (hostWrites ..)
    exact modJob j fun _ => rfl
  · exact refl

theorem closePacket (s : Nat) (fin trunc : Bool) : Calm m (m.closePacket s fin trunc) := by
  unfold Mach.closePacket
  dsimp only
  split
  · exact refl
  · refine trans ?_ (of_stores (count_stores ..))
    refine trans ?_ (of_stores (modStream_stores ..))
    exact of_stores (hbmWrite_stores ..)

theorem releaseEnd (s : Nat) : Calm m (m.releaseEnd s) := by
  unfold Mach.releaseEnd
  exact ite (of_stores rfl) (ite (of_stores rfl) (ite (closePacket ..) refl))

/-- A commit of a module whose collector holds nothing. -/
theorem probeRelease (j : JobId) (g : Tag) (empty : m.coll = []) : Calm m (m.probeRelease j g) := by
  have none : m.probeRelease j g = (({ m with coll := [] } : Mach).jobStreams j).foldl Mach.releaseEnd { m with coll := [] } := by
    simp [Mach.probeRelease, empty, byTag, sortBy]
  rw [none]
  refine trans ?_ (foldl (fun _ s => releaseEnd s) _)
  exact of_stores rfl

end Calm

end
end Mach
end Sys2Proof.Machine

namespace Sys2Proof.Machine
namespace Mach

section
variable {m : Mach}

/-! Commit (R194) -/

/-- A sweep that every visit to a PE puts there stands at each PE visited. -/
theorem foldl_modPe_sweep {s : Sweep} {f : Pe → Pe} (h : ∀ x, s ∈ (f x).sweeps) (l : List PeId) {p : PeId}
    (hp : p ∈ l ∨ s ∈ (m.pe p).sweeps) : s ∈ ((l.foldl (fun m p => m.modPe p f) m).pe p).sweeps := by
  induction l generalizing m with
  | nil => exact hp.resolve_left List.not_mem_nil
  | cons q l ih =>
    refine ih ?_
    by_cases e : p = q
    · subst e
      rw [pe_modPe]
      exact .inr (h _)
    · rw [m.pe_modPe_ne e]
      exact hp.imp_left fun hp => (List.mem_cons.mp hp).resolve_left e

theorem pushSweeps_mem (j : JobId) (g : Tag) {p : PeId} (hp : p ∈ m.jobPes j) : Sweep.commit j g ∈ ((m.pushSweeps j g).pe p).sweeps :=
  foldl_modPe_sweep (fun _ => List.mem_append_right _ (.head _)) _ (.inl hp)

theorem foldl_keeps {α β : Type} (φ : Mach → β) {f : Mach → α → Mach} (h : ∀ x a, φ (f x a) = φ x) (l : List α) :
    φ (l.foldl f m) = φ m := by
  induction l generalizing m with
  | nil => rfl
  | cons a l ih => exact ih.trans (h m a)

/-- Commit sweeps change PEs alone. -/
theorem pushSweeps_others (j : JobId) (g : Tag) : (m.pushSweeps j g).jobs = m.jobs ∧ (m.pushSweeps j g).wave = m.wave ∧
    (m.pushSweeps j g).coll = m.coll := by
  unfold pushSweeps
  exact ⟨foldl_keeps (·.jobs) (by intros; rfl) _, foldl_keeps (·.wave) (by intros; rfl) _, foldl_keeps (·.coll) (by intros; rfl) _⟩

theorem hostWrites_coll (job : Option JobId) (fn : Nat) (a : Word) (d : List Byte) : (m.hostWrites job fn a d).coll = m.coll := by
  unfold hostWrites
  exact foldl_keeps (·.coll) (by intros; rfl) _

theorem releaseReads_coll (j : JobId) (g : Tag) : (m.releaseReads j g).coll = m.coll := by
  unfold releaseReads
  dsimp only
  refine (foldl_keeps (·.coll) (fun x r => ?_) _).trans rfl
  split
  · exact hostWrites_coll ..
  · rfl

/-- A risen GVT of a job as its commit records it. -/
def risen (m : Mach) (j : JobId) (g : Tag) : Mach :=
  m.modJob j (fun x => { x with gvt := g, gvtWall := m.wall, stallFrom := m.wall, stallRaised := false })

/-- Commit raises GVT and pushes the sweeps; what follows leaves both. -/
theorem commit_calm (j : JobId) (g : Tag) (empty : m.coll = []) : Calm ((m.risen j g).pushSweeps j g) (m.commit j g) := by
  have none : (((m.risen j g).pushSweeps j g).releaseReads j g).coll = [] := by
    rw [releaseReads_coll, (pushSweeps_others j g).2.2]
    exact empty
  have calm := (Calm.releaseReads (m := (m.risen j g).pushSweeps j g) j g).trans (.probeRelease j g none)
  have start : m.modJob j (fun x => { x with gvt := g, gvtWall := m.wall, stallFrom := m.wall, stallRaised := false }) = m.risen j g := rfl
  unfold commit
  rw [start]
  dsimp only
  generalize (((m.risen j g).pushSweeps j g).releaseReads j g).probeRelease j g = n at calm
  refine Calm.ite (calm.trans ?_) calm
  exact .of_stores rfl

end
end Mach
end Sys2Proof.Machine

namespace Sys2Proof.Machine

theorem SMap.mem_of_get? {α : Type} {m : SMap α} {k : Nat} {v : α} (h : SMap.get? m k = some v) : (k, v) ∈ m := by
  induction m with
  | nil => cases h
  | cons a r ih =>
    unfold SMap.get? at h
    split at h
    · next e =>
      cases h
      exact e ▸ .head _
    · exact .tail _ (ih h)

namespace Mach

section
variable {m m' : Mach} {j : JobId} {g h : Tag}

theorem job_of_jobs (e : m'.jobs = m.jobs) (k : JobId) : m'.job k = m.job k := by rw [job, e, job]

/-- No pause of the job is pending or delivered. -/
theorem pauseStep_none (pause : (m.job j).pause = none) (clamp : (m.job j).clamp = none) : m.pauseStep j = m := by
  unfold pauseStep
  simp only [pause, clamp, ite_self, Option.or_none]
  split
  · next e => cases e
  · rfl

/-- The Safe Horizon of a job as a delivery that carries no pause raises it. -/
def safer (m : Mach) (j : JobId) (h : Tag) : Mach := m.modJob j (fun x => { x with clamp := none, sh := if x.sh.lt h then h else x.sh })

/-- The job, its Safe Horizon and its GVT raised, with the commit sweeps pushed to its PEs. -/
def swept (m : Mach) (j : JobId) (g h : Tag) : Mach := ((m.safer j h).risen j g).pushSweeps j g

theorem swept_job (k : JobId) : (m.swept j g h).job k = ((m.safer j h).risen j g).job k := job_of_jobs (pushSweeps_others j g).1 k

theorem swept_self : (m.swept j g h).job j = { m.job j with clamp := none, sh := (m.job j).sh.max h, gvt := g, gvtWall := m.wall,
                                                            stallFrom := m.wall, stallRaised := false } := by
  rw [swept_job, risen, job_modJob, safer, job_modJob]
  rfl

theorem swept_ne {k : JobId} (ne : k ≠ j) : (m.swept j g h).job k = m.job k := by
  rw [swept_job, risen, job_modJob_ne _ _ _ _ ne, safer, job_modJob_ne _ _ _ _ ne]

theorem swept_sweeps {p : PeId} (hp : p ∈ m.jobPes j) : Sweep.commit j g ∈ ((m.swept j g h).pe p).sweeps := by
  refine pushSweeps_mem j g ?_
  have : (((m.safer j h).risen j g).job j).ncount = (m.job j).ncount := by rw [risen, job_modJob, safer, job_modJob]
  rwa [jobPes, this]

theorem swept_wave : (m.swept j g h).wave = m.wave := (pushSweeps_others j g).2.1

/-- A delivery of risen values to a job that no pause holds (R188, R194). -/
theorem deliver_calm (pause : (m.job j).pause = none) (span : m.spanning j = false)
    (rise : (m.job j).gvt.lt g = true) (finite : g.time ≠ BitVec.allOnes 64) (empty : m.coll = []) :
    Calm (m.swept j g h) (m.deliver j (some g) (some h)) := by
  have committed : Calm (m.swept j g h) (((m.safer j h).commit j g).countJ 0x4800 j 0x07) := by
    refine Calm.trans ?_ (.of_stores (countJ_stores ..))
    exact commit_calm (m := m.safer j h) j g empty
  have fields := m.swept_self (j := j) (g := g) (h := h)
  have start : m.modJob j (fun x => { x with clamp := none, sh := if x.sh.lt h then h else x.sh }) = m.safer j h := rfl
  have none : m.pauseNow j = none := by rw [pauseNow, if_neg (by simp [span]), pause]
  unfold deliver
  simp only [none, Option.getD_some, rise, if_true, start]
  generalize ((m.safer j h).commit j g).countJ 0x4800 j 0x07 = n at committed
  have gvt : (n.job j).gvt = g := (committed.field (·.gvt) (fun _ => rfl) j).trans (congrArg Job.gvt fields)
  have presented := committed.trans (.presentDeep j)
  have pause' := (presented.field (·.pause) (fun _ => rfl) j).trans ((congrArg Job.pause fields).trans pause)
  have clamp' := (presented.field (·.clamp) (fun _ => rfl) j).trans (congrArg Job.clamp fields)
  rw [gvt, if_neg (fun e => finite (of_decide_eq_true (Bool.and_eq_true_iff.mp e).1)), pauseStep_none pause' clamp']
  exact presented

/-! One reduction delivered -/

/-- The delivery of a reduction to one job, if it was sampled. -/
def deliverSampled (m : Mach) (j : JobId) : Mach :=
  if !(m.job j).sampled then m
  else if (m.modJob j (fun x => { x with sampled := false })).spanning j then m.modJob j (fun x => { x with sampled := false })
  else (m.modJob j (fun x => { x with sampled := false })).deliver j (m.job j).sampG (m.job j).sampS

theorem deliverSampled_none (none : (m.job j).sampled = false) : m.deliverSampled j = m := by
  rw [deliverSampled, if_pos (by simp [none])]

theorem foldl_deliverSampled_none (none : ∀ k, (m.job k).sampled = false) (l : List JobId) : l.foldl deliverSampled m = m := by
  induction l with
  | nil => rfl
  | cons k l ih => rwa [List.foldl_cons, deliverSampled_none (none k)]

/-- Where one job was sampled, its delivery is the reduction's. -/
theorem foldl_deliverSampled_one (only : ∀ k, k ≠ j → (m.job k).sampled = false)
    (done : ∀ k, ((m.deliverSampled j).job k).sampled = false) {l : List JobId} (hj : j ∈ l) :
    l.foldl deliverSampled m = m.deliverSampled j := by
  induction l with
  | nil => exact absurd hj List.not_mem_nil
  | cons k l ih =>
    by_cases e : k = j
    · subst e
      exact foldl_deliverSampled_none done l
    · rw [List.foldl_cons, deliverSampled_none (only k e)]
      exact ih ((List.mem_cons.mp hj).resolve_left (Ne.symm e))

/-- The machine that has taken what was sampled of a job. -/
def unsample (m : Mach) (j : JobId) : Mach := m.modJob j (fun x => { x with sampled := false })

theorem unsample_self : (m.unsample j).job j = { m.job j with sampled := false } := job_modJob ..

theorem unsample_spanning (k : JobId) : (m.unsample j).spanning k = m.spanning k := by
  have mask : ((m.unsample j).job k).moduleMask = (m.job k).moduleMask := m.job_modJob_field (·.moduleMask) j k _ rfl
  rw [spanning, mask]
  rfl

theorem deliverSampled_one (sampled : (m.job j).sampled = true) (span : m.spanning j = false) :
    m.deliverSampled j = (m.unsample j).deliver j (m.job j).sampG (m.job j).sampS := by
  have e : (m.modJob j (fun x => { x with sampled := false })) = m.unsample j := rfl
  rw [deliverSampled, if_neg (by simp [sampled]), e, if_neg (by simp [unsample_spanning, span])]

/-- The one sampled job has its values delivered, and no job is sampled any more. -/
theorem foldl_deliverSampled_calm (sampled : (m.job j).sampled = true) (only : ∀ k, k ≠ j → (m.job k).sampled = false)
    (sampG : (m.job j).sampG = some g) (sampS : (m.job j).sampS = some h) (pause : (m.job j).pause = none)
    (span : m.spanning j = false) (empty : m.coll = []) (rise : (m.job j).gvt.lt g = true) (finite : g.time ≠ BitVec.allOnes 64) :
    Calm ((m.unsample j).swept j g h) (allJobs.foldl deliverSampled m) := by
  have self := m.unsample_self (j := j)
  have calm : Calm ((m.unsample j).swept j g h) (m.deliverSampled j) := by
    rw [deliverSampled_one sampled span, sampG, sampS]
    refine deliver_calm ((congrArg Job.pause self).trans pause) ((unsample_spanning j).trans span) ?_ finite empty
    rw [self]
    exact rise
  rw [foldl_deliverSampled_one only (fun k => ?_) (job_mem_allJobs j)]
  · exact calm
  · refine (calm.field (·.sampled) (fun _ => rfl) k).trans ?_
    by_cases e : k = j
    · subst e
      rw [swept_self, self]
    · rw [swept_ne e, unsample, job_modJob_ne _ _ _ _ e]
      exact only k e

/-- The machine whose last reduction was not void. -/
def unvoid (m : Mach) : Mach := { m with voidRun := [] }

/-- A delivery of no system wave. -/
theorem horizonDelivery_eq (sampled : (m.job j).sampled = true) (snap : m.wave.snap = false) :
    m.horizonDelivery none = allJobs.foldl deliverSampled m.unvoid := by
  have any : m.jobs.any (fun e => e.2.sampled) = true := by
    unfold job SMap.getD at sampled
    cases e : SMap.get? m.jobs j.toNat with
    | none => rw [e] at sampled; cases sampled
    | some x => rw [e] at sampled; exact List.any_eq_true.mpr ⟨_, SMap.mem_of_get? e, sampled⟩
  unfold horizonDelivery
  simp only [any, snap, Bool.not_true, Bool.false_and, Bool.false_eq_true, if_false]
  rfl

theorem waveStep_idle (idle : m.wave.active = false) : m.waveStep = m := by
  unfold waveStep
  dsimp only
  rw [if_pos (by simp [idle])]

end

/-- A delivery of risen values to the one sampled job, which spans no modules and which no pause holds (R188, R194). -/
theorem horizonDelivery_calm (m : Mach) {j : JobId} {g h : Tag} (sampled : (m.job j).sampled = true)
    (only : ∀ k, k ≠ j → (m.job k).sampled = false) (sampG : (m.job j).sampG = some g) (sampS : (m.job j).sampS = some h)
    (pause : (m.job j).pause = none) (span : m.spanning j = false) (snap : m.wave.snap = false) (idle : m.wave.active = false)
    (empty : m.coll = []) (rise : (m.job j).gvt.lt g = true) (finite : g.time ≠ BitVec.allOnes 64) :
    Calm ((m.unvoid.unsample j).swept j g h) (m.horizonDelivery none).waveStep := by
  have calm := foldl_deliverSampled_calm (m := m.unvoid) sampled only sampG sampS pause span empty rise finite
  rw [horizonDelivery_eq sampled snap, waveStep_idle]
  · exact calm
  · rw [calm.wave, swept_wave]
    exact idle

/-! Void reductions (R445) -/

section
variable {m : Mach} {v : BitVec 3}

/-- The machine whose last reduction was void, the n-th in a row of unit k: nothing is sampled any more. -/
def voided (m : Mach) (k n : Nat) : Mach :=
  { m with voidRun := [(k, n)], jobs := m.jobs.map (fun (e : Nat × Job) => (e.1, { e.2 with sampled := false })),
           wave := { m.wave with snap := false } }

/-- A void reduction of a die that is not the 256th in a row is discarded, and logged. -/
theorem horizonDelivery_void (serving : m.serving = true) (die : v.toNat < 4) (present : m.dieOut.getLsbD v.toNat = false)
    (few : SMap.getD m.voidRun v.toNat 0 + 1 < 256) : m.horizonDelivery (some v) =
      (m.voided v.toNat (SMap.getD m.voidRun v.toNat 0 + 1)).logErr 0 0x14 0 none v.toNat
        (BitVec.ofNat 64 (SMap.getD m.voidRun v.toNat 0 + 1)) := by
  have unit : Nat.min v.toNat 4 = v.toNat := Nat.min_eq_left (by omega)
  unfold horizonDelivery
  dsimp only
  rw [if_neg (by simp), unit, if_neg (by simp [serving, present])]
  unfold voidReduction
  dsimp only
  rw [if_pos few]
  rfl

theorem logErr_voidRun (sev block reason : Nat) (j : Option JobId) (loc : Nat) (d0 d1 d2 d3 : Word) (perm : Bool) :
    (m.logErr sev block reason j loc d0 d1 d2 d3 perm).voidRun = m.voidRun := by
  obtain ⟨l, i, c, o, h, f, u, q, s, z, e⟩ := m.logErr_eq sev block reason j loc d0 d1 d2 d3 perm
  rw [e]

theorem voided_job (k n : Nat) (j : JobId) : (m.voided k n).job j = { m.job j with sampled := false } :=
  SMap.getD_map (f := fun x : Job => { x with sampled := false }) rfl _ _

end

end Mach
end Sys2Proof.Machine

section
open Sys2Proof Sys2Proof.Machine

/-- The deliveries of O41: risen values, and a void reduction. -/
theorem deliveriesRaiseTheHorizon : Claim.DeliveriesRaiseTheHorizon := by
  refine ⟨?_, ?_⟩
  · intro s j g h sampled only sampG sampS run pause span snap idle empty rise finite
    have calm := s.m.horizonDelivery_calm sampled only sampG sampS pause span snap idle empty rise finite
    have self := (s.m.unvoid.unsample j).swept_self (j := j) (g := g) (h := h)
    rw [Mach.unsample_self] at self
    refine ⟨_, rfl, ?_, ?_, ?_, ?_⟩
    · exact (calm.field (·.gvt) (fun _ => rfl) j).trans (congrArg Job.gvt self)
    · exact (calm.field (·.sh) (fun _ => rfl) j).trans (congrArg Job.sh self)
    · exact (calm.field (·.state) (fun _ => rfl) j).trans ((congrArg Job.state self).trans run)
    · intro p hp
      dsimp only
      rw [calm.sweeps]
      refine Mach.swept_sweeps ?_
      rwa [Mach.jobPes, Mach.unsample_self]
  · intro s v serving die present few idle
    have e := Mach.horizonDelivery_void serving die present few
    generalize SMap.getD s.m.voidRun v.toNat 0 + 1 = n at e
    have stores := (s.m.voided v.toNat n).logErr_stores 0 0x14 0 none v.toNat (BitVec.ofNat 64 n) 0 0 0 false
    have stands : (s.m.horizonDelivery (some v)).waveStep = s.m.horizonDelivery (some v) := by
      refine Mach.waveStep_idle ?_
      rw [e, Mach.wave_of_stores stores]
      exact idle
    refine ⟨_, rfl, ?_, ?_⟩
    · intro j
      dsimp only
      rw [stands, e, Mach.job_of_stores stores, Mach.voided_job]
      exact ⟨rfl, rfl, rfl⟩
    · dsimp only
      rw [stands, e, Mach.logErr_voidRun]
      rfl

end

namespace Sys2Proof.Machine
namespace Mach

/-- A loop that keeps I and P, and reaches P at one of its items, ends in both. -/
theorem foldl_reaches {α : Type} [DecidableEq α] {f : Mach → α → Mach} {I P : Mach → Prop} {a : α} (hI : ∀ x b, I x → I (f x b))
    (hP : ∀ x b, I x → P x → P (f x b)) (ha : ∀ x, I x → P (f x a)) (l : List α) {m : Mach} (hi : I m) (hp : a ∈ l ∨ P m) :
    I (l.foldl f m) ∧ P (l.foldl f m) := by
  induction l generalizing m with
  | nil => exact ⟨hi, hp.resolve_left List.not_mem_nil⟩
  | cons b l ih =>
    refine ih (hI m b hi) ?_
    by_cases e : a = b
    · exact .inr (e ▸ ha m hi)
    · exact hp.imp (fun h => (List.mem_cons.mp h).resolve_left e) (hP m b hi)

/-- m' has the configuration objects of m, the states of its jobs and its journals. -/
structure Governs (m m' : Mach) : Prop where
  objs : ∀ i s, i < 0x4600 → s < 256 → m'.obj? i s = m.obj? i s
  states : ∀ j, (m'.job j).state = (m.job j).state
  journals : ∀ k, (m'.tile k).journal = (m.tile k).journal

section
variable {m m' m'' : Mach}

theorem setObj_obj? {i s i' s' : Nat} (hi : i ≠ i') (hs : s < 256) (hs' : s' < 256) (v : Nat) :
    (m.setObj i' s' v).obj? i s = m.obj? i s :=
  SMap.get?_set_ne _ _ _ _ (by omega)

namespace Governs

theorem refl : Governs m m := ⟨fun _ _ _ _ => rfl, fun _ => rfl, fun _ => rfl⟩

theorem trans (h : Governs m m') (h' : Governs m' m'') : Governs m m'' :=
  ⟨fun i s hi hs => (h'.objs i s hi hs).trans (h.objs i s hi hs), fun j => (h'.states j).trans (h.states j),
    fun k => (h'.journals k).trans (h.journals k)⟩

theorem modJob (j : JobId) {f : Job → Job} (hf : ∀ x, (f x).state = x.state) : Governs m (m.modJob j f) :=
  ⟨fun _ _ _ _ => rfl, fun k => m.job_modJob_field (·.state) j k f (hf _), fun _ => rfl⟩

theorem modTile (t : TileId) {f : Tile → Tile} (hf : ∀ x, (f x).journal = x.journal) : Governs m (m.modTile t f) :=
  ⟨fun _ _ _ _ => rfl, fun _ => rfl, fun k => m.tile_modTile_field (·.journal) t k f (hf _)⟩

theorem setObj {i s : Nat} (hi : 0x4600 ≤ i) (hs : s < 256) (v : Nat) : Governs m (m.setObj i s v) :=
  ⟨fun _ _ hi' hs' => setObj_obj? (by omega) hs' hs v, fun _ => rfl, fun _ => rfl⟩

theorem countJ {b s : Nat} (hb : 0x4600 ≤ b) (hs : s < 256) (j : JobId) : Governs m (m.countJ b j s) := by
  unfold Mach.countJ
  split
  · exact refl
  · exact setObj (by omega) hs _

theorem foldl {α : Type} {f : Mach → α → Mach} (h : ∀ x a, Governs x (f x a)) (l : List α) : Governs m (l.foldl f m) := by
  induction l generalizing m with
  | nil => exact refl
  | cons a l ih => exact (h m a).trans ih

theorem objD (h : Governs m m') {i s : Nat} (hi : i < 0x4600) (hs : s < 256) (d : Nat) : m'.objD i s d = m.objD i s d := by
  rw [Mach.objD, h.objs i s hi hs, Mach.objD]

theorem jobObj (h : Governs m m') (j : JobId) {s : Nat} (hs : s < 256) (d : Nat) : m'.jobObj j s d = m.jobObj j s d :=
  h.objD (by omega) hs d

theorem window (h : Governs m m') (j : JobId) : m'.window j = m.window j := h.jobObj j (by decide) _

theorem active (h : Governs m m') (j : JobId) (k : TileId) : m'.active j k = m.active j k := by
  rw [Mach.active, Mach.live, inTileSet, h.states, h.jobObj j (by decide), Mach.active, Mach.live, inTileSet]

end Governs

/-- W of a job in a tile is at most a bound. -/
def Within (m : Mach) (k : TileId) (j : JobId) (w : Nat) : Prop := (SMap.getD (m.tile k).win j.toNat 0).toNat ≤ w

theorem Within.of_win {k : TileId} {j : JobId} {w : Nat} (e : (m'.tile k).win = (m.tile k).win) (h : Within m k j w) :
    Within m' k j w := by
  rwa [Within, e]

/-- A window that is set is within that of its job (R181). -/
theorem setW_within {k t : TileId} {j i : JobId} (w : Nat) (h : (k = t ∧ j = i) ∨ Within m k j (m.window j)) :
    Within (m.setW t i w) k j (m.window j) := by
  unfold setW
  by_cases e : k = t
  · subst e
    by_cases e' : j = i
    · subst e'
      rw [Within, tile_modTile, SMap.getD_set_self, BitVec.toNat_ofNat]
      exact (Nat.mod_le _ _).trans (Nat.min_le_left _ _)
    · rw [Within, tile_modTile, SMap.getD_set_ne _ _ _ _ _ (fun h => e' (BitVec.eq_of_toNat_eq h))]
      exact h.resolve_left fun h => e' h.2
  · refine Within.of_win (m := m) ?_ (h.resolve_left fun h => e h.1)
    exact congrArg Tile.win (m.tile_setTile_ne t k _ e)

theorem setW_governs (t : TileId) (j : JobId) (w : Nat) : Governs m (m.setW t j w) := by
  unfold setW
  exact .modTile t fun _ => rfl

/-- The governor of a tile sets W of the job, and counts. -/
theorem governJob_setW (t : TileId) (j : JobId) : Governs m (m.governJob t j) ∧
    ∃ w, ∀ k, ((m.governJob t j).tile k).win = ((m.setW t j w).tile k).win := by
  have counted : ∀ (n : Mach) (s : Nat) (k : TileId), ((n.countJ 0x4600 j s).tile k).win = (n.tile k).win :=
    fun n s k => congrArg Tile.win (tile_of_stores (countJ_stores ..) k)
  have kept : ∀ (n : Mach) (x : Tile → SMap Nat) (k : TileId), ((n.modTile t (fun y => { y with streak := x y })).tile k).win = (n.tile k).win :=
    fun n x k => n.tile_modTile_field (·.win) t k _ rfl
  unfold governJob
  split
  · dsimp only
    have governed : ∀ w (x : Tile → SMap Nat), Governs m ((m.setW t j w).modTile t (fun y => { y with streak := x y })) :=
      fun w x => (setW_governs t j w).trans (.modTile t fun _ => rfl)
    split
    · exact ⟨(governed _ _).trans (.countJ (by decide) (by decide) j), _, fun k => (counted _ _ k).trans (kept _ _ k)⟩
    · split
      · exact ⟨(governed _ _).trans (.countJ (by decide) (by decide) j), _, fun k => (counted _ _ k).trans (kept _ _ k)⟩
      · exact ⟨governed _ _, _, kept _ _⟩
  · exact ⟨setW_governs .., _, fun _ => rfl⟩
  · exact ⟨setW_governs .., _, fun _ => rfl⟩

theorem governJob_within {k t : TileId} {j i : JobId} (h : (k = t ∧ j = i) ∨ Within m k j (m.window j)) :
    Within (m.governJob t i) k j (m.window j) := by
  obtain ⟨-, w, win⟩ := governJob_setW (m := m) t i
  exact .of_win (win k) (setW_within w h)

/-- The governor of one tile at the end of a period. -/
def governTile (m : Mach) (t : TileId) : Mach :=
  (allJobs.filter (fun j => (m.setObj 0x4701 (1 + t.toNat) (m.tile t).peak).active j t)).foldl (fun m j => m.governJob t j)
    (m.setObj 0x4701 (1 + t.toNat) (m.tile t).peak)

theorem governTile_governs (t : TileId) : Governs m (m.governTile t) :=
  (Governs.setObj (by decide) (by omega) _).trans (.foldl (fun _ j => (governJob_setW t j).1) _)

theorem governTile_within {k t : TileId} {j : JobId} (h : (k = t ∧ m.active j k = true) ∨ Within m k j (m.window j)) :
    Within (m.governTile t) k j (m.window j) := by
  have start : Governs m (m.setObj 0x4701 (1 + t.toNat) (m.tile t).peak) := .setObj (by decide) (by omega) _
  have step : ∀ x b, Governs m x ∧ Within x k j (m.window j) → Within (x.governJob t b) k j (m.window j) := fun x b ⟨hx, hp⟩ =>
    hx.window j ▸ governJob_within (.inr ((hx.window j).symm ▸ hp))
  unfold governTile
  rcases h with ⟨rfl, active⟩ | h
  · refine (foldl_reaches (I := Governs m) (P := fun n => Within n k j (m.window j)) (a := j)
      (fun x b hx => hx.trans (governJob_setW k b).1) (fun x b hx hp => step x b ⟨hx, hp⟩) (fun x hx => ?_) _ start
      (.inl (List.mem_filter.mpr ⟨job_mem_allJobs j, (start.active j k).trans active⟩))).2
    exact hx.window j ▸ governJob_within (.inl ⟨rfl, rfl⟩)
  · exact (List.foldlRecOn (motive := fun n => Governs m n ∧ Within n k j (m.window j)) _ _ ⟨start, h⟩
      fun x hx b _ => ⟨hx.1.trans (governJob_setW t b).1, step x b hx⟩).2

/-- The machine at the end of a governor period, before the next begins: GOV_MODE is taken over, and every tile governs. -/
def governed (m : Mach) : Mach :=
  ((List.range 64).map (BitVec.ofNat 6)).foldl governTile
    (allJobs.foldl (fun m j => m.modJob j (fun x => { x with govMode := m.jobObj j 0x33 0 })) m)

theorem governorPeriod_eq (serving : m.serving = true) (ended : m.govLeft = 0) : m.governorPeriod = m.governed.govRestart := by
  unfold governorPeriod
  rw [if_neg (by simp [serving, ended])]
  rfl

/-- A governor period ends with W of each active job within its WINDOW (R179 to R181). -/
theorem governed_within : Governs m m.governed ∧
    ∀ j k, m.active j k = true → Within m.governed k j (m.window j) := by
  have start : Governs m (allJobs.foldl (fun m j => m.modJob j (fun x => { x with govMode := m.jobObj j 0x33 0 })) m) := by
    refine .foldl (fun x j => ?_) _
    exact .modJob j fun _ => rfl
  unfold governed
  refine ⟨start.trans (.foldl (fun _ t => governTile_governs t) _), fun j k active => ?_⟩
  refine (foldl_reaches (I := Governs m) (P := fun n => Within n k j (m.window j)) (a := k)
    (fun x t hx => hx.trans (governTile_governs t)) (fun x t hx hp => ?_) (fun x hx => ?_) _ start (.inl ?_)).2
  · exact hx.window j ▸ governTile_within (.inr ((hx.window j).symm ▸ hp))
  · exact hx.window j ▸ governTile_within (.inl ⟨rfl, (hx.active j k).trans active⟩)
  · exact List.mem_map.mpr ⟨k.toNat, List.mem_range.mpr k.isLt, BitVec.ofNat_toNat ..⟩

/-- The next period starts its measurements from the entries now in use. -/
theorem govRestart_tile (k : TileId) : m.govRestart.tile k =
    { m.tile k with peak := (m.tile k).journal.length, loadPeak := [], pSpec := [], pRb := [] } :=
  SMap.getD_map (f := fun x : Tile => { x with peak := x.journal.length, loadPeak := [], pSpec := [], pRb := [] }) rfl _ _

end
end Mach
end Sys2Proof.Machine

section
open Sys2Proof Sys2Proof.Machine

/-- The governor periods of O41. -/
theorem governorPeriodsBoundTheWindow : Claim.GovernorPeriodsBoundTheWindow := by
  intro s serving ended
  obtain ⟨governs, within⟩ := Mach.governed_within (m := s.m)
  have e := Mach.governorPeriod_eq serving ended
  generalize s.m.governed = n at governs within e
  refine ⟨_, rfl, ?_, ?_, ?_, ?_⟩ <;> dsimp only <;> rw [e]
  · exact governs.objD (i := 0x2400) (s := 0x01) (by decide) (by decide) 16
  · intro k
    rw [Mach.govRestart_tile]
    exact ⟨rfl, rfl, rfl⟩
  · intro j k active
    rw [Mach.govRestart_tile]
    exact within j k active
  · intro k
    rw [Mach.govRestart_tile]
    exact governs.journals k

end

namespace Sys2Proof.Machine
namespace Mach

theorem countJ_obj? (m : Mach) {b i s s' : Nat} {j : JobId} (hi : i ≠ b + j.toNat) (hs : s < 256) (hs' : s' < 256) :
    (m.countJ b j s').obj? i s = m.obj? i s := by
  unfold countJ
  split
  · rfl
  · exact setObj_obj? hi hs hs' _

/-- The machine that has reported a stall of a job. -/
def reported (m : Mach) (j : JobId) : Mach :=
  m.modJob j (fun x => { x with stallRaised := true, stallReport := (m.holders j).flatMap wordsBytes })

theorem setEvt_obj? (m : Mach) (fn : Nat) (v : Word) (i s : Nat) : (m.setEvt fn v).obj? i s = m.obj? i s := by
  obtain ⟨h, f, u, z, e⟩ := m.setEvt_eq fn v
  rw [e]
  rfl

theorem requestPost_obj? (m : Mach) (k i s : Nat) : (m.requestPost k).obj? i s = m.obj? i s := by
  unfold requestPost
  dsimp only
  split
  · rfl
  · split <;> rfl

/-- A stall that STALL_ACTION 0 follows is reported, and changes nothing else of its job (R72). -/
theorem stallEvent_job {m : Mach} {j : JobId} (run : (m.job j).state = .run) (first : (m.job j).stallRaised = false)
    (long : (m.job j).stallFrom + m.jobObj j 0x20 100000 * 1000 ≤ m.wall) (report : m.jobObj j 0x21 1 = 0) :
    (m.stallEvent j).job j = { m.job j with stallRaised := true, stallReport := (m.holders j).flatMap wordsBytes } := by
  have start : m.modJob j (fun x => { x with stallRaised := true, stallReport := (m.holders j).flatMap wordsBytes }) = m.reported j := rfl
  have action : ∀ fn v k, (((m.reported j).countJ 0x4300 j 0x09).requestPost k |>.setEvt fn v).jobObj j 0x21 1 = 0 := fun fn v k => by
    rw [jobObj, objD, setEvt_obj?, requestPost_obj?, countJ_obj? _ (by omega) (by decide) (by decide)]
    exact report
  unfold stallEvent
  dsimp only
  rw [if_neg (by simp [run, first, Nat.not_lt.mpr long]), start, action]
  change (Mach.setEvt _ _ _).job j = _
  rw [job_of_stores (setEvt_stores ..), job_of_stores (requestPost_stores ..), job_of_stores (countJ_stores ..)]
  exact m.job_modJob j _

end Mach
end Sys2Proof.Machine

section
open Sys2Proof Sys2Proof.Machine

/-- The stall watchdog of O41. -/
theorem stallsAreReported : Claim.StallsAreReported := fun _ _ run first long report =>
  ⟨_, rfl, Mach.stallEvent_job run first long report⟩

/-- Settles O41, by its four parts. -/
theorem horizons : Obligations.Horizons :=
  ⟨snapshotsSampleTheTerms, deliveriesRaiseTheHorizon, governorPeriodsBoundTheWindow, stallsAreReported⟩

end

namespace Sys2Proof.Machine
namespace Mach

section
variable {m : Mach}

/-! Rescans (R186) -/

/-- The registers of a MOB that a rescan leaves: the least over its groups that are not FIRED, and over those added since it started. -/
def rescanned (m : Mach) (c : ClusterId) (j : JobId) : HReg :=
  let l := (m.cluster c).mob.filter (fun e => e.2.head && e.2.job == j && e.2.gstate != .fired)
  let h := SMap.getD (m.cluster c).hreg j.toNat {}
  { least := minTag ((minTag (l.map (fun e => m.tagOf j e.2.key))).toList ++ h.added.toList),
    leastL := minTag ((minTag (l.map (fun e => plusLa (m.tagOf j e.2.key)
      (m.lookahead j ((c.extractLsb' 4 6 : BitVec 6) ++ e.2.locPe))))).toList ++ h.addedL.toList),
    rescan := h.rescan - 1, added := none, addedL := none }

/-- A rescan that runs. -/
theorem rescan_mob {c : ClusterId} {j : JobId} (runs : (SMap.getD (m.cluster c).hreg j.toNat {}).rescan ≠ 0) (flaw : m.ms.sramFlaw = []) :
    SMap.getD ((m.rescan false c j).cluster c).hreg j.toNat {} = m.rescanned c j ∧ ((m.rescan false c j).cluster c).mob = (m.cluster c).mob := by
  have read : m.rescanRead false c = m := if_pos flaw
  unfold rescan
  rw [read]
  dsimp only
  rw [if_neg Bool.false_ne_true, cluster_modCluster]
  refine ⟨?_, rfl⟩
  dsimp only
  rw [SMap.getD_modify_self, if_neg runs]
  simp only [rescanned, List.filter_map, List.map_map]
  rfl

end
end Mach
end Sys2Proof.Machine

section
open Sys2Proof Sys2Proof.Machine

/-- The rescans of O40. -/
theorem rescanTakesLeastTags : Claim.RescanTakesLeastTags := fun _ _ _ runs flaw =>
  ⟨_, rfl, Mach.rescan_mob runs flaw⟩

end

namespace Sys2Proof.Machine

theorem mem_insertBy {α : Type} {lt : α → α → Bool} {x y : α} {l : List α} : y ∈ insertBy lt x l ↔ y = x ∨ y ∈ l := by
  induction l with
  | nil => simp [insertBy]
  | cons a l ih =>
    unfold insertBy
    split
    · simp
    · simp [ih, or_left_comm]

/-- Sorting keeps what a list holds. -/
theorem mem_sortBy {α : Type} {lt : α → α → Bool} {y : α} {l : List α} : y ∈ sortBy lt l ↔ y ∈ l := by
  suffices ∀ acc, y ∈ l.foldl (fun acc x => insertBy lt x acc) acc ↔ y ∈ l ∨ y ∈ acc by simpa [sortBy] using this []
  induction l with
  | nil => simp
  | cons a l ih =>
    intro acc
    rw [List.foldl_cons, ih, mem_insertBy]
    simp [or_left_comm, or_assoc]

theorem sortBy_single {α : Type} (lt : α → α → Bool) (x : α) : sortBy lt [x] = [x] := rfl

namespace Mach

section
variable {m : Mach}

/-! Journal entries freed -/

/-- Freeing entries of a journal changes nothing else of its tile. -/
theorem freeEntries_tile {β : Type} (φ : Tile → β) (hφ : ∀ x l, φ { x with journal := l } = φ x) (t u : TileId) (l : List Nat) :
    φ ((m.freeEntries t l).tile u) = φ (m.tile u) := by
  unfold freeEntries
  split
  · rfl
  · have tiles : ∀ n : Mach, (n.freedSignal t).tile u = n.tile u := fun _ => rfl
    rw [tiles, tile_of_stores (sramPut_stores ..)]
    exact m.tile_modTile_field φ t u _ (hφ _ _)

theorem freeEntries_journal (t : TileId) (l : List Nat) :
    ((m.freeEntries t l).tile t).journal = (m.tile t).journal.filter (fun e => !(e.1 ∈ l)) := by
  unfold freeEntries
  split
  · next empty => simp [empty]
  · have tiles : ∀ n : Mach, (n.freedSignal t).tile t = n.tile t := fun _ => rfl
    rw [tiles, tile_of_stores (sramPut_stores ..), tile_modTile]

/-! Fossil collection (R174) -/

/-- Fossil collection frees every entry of the job below GVT where none holds a store. -/
theorem fossil_tile {t : TileId} {j : JobId} (free : ∀ e ∈ (m.tile t).journal, ∀ x, m.entryStores t e.2 x = []) :
    ((m.fossil t j).tile t).storeQ = (m.tile t).storeQ ∧ ((m.fossil t j).tile t).journal = (m.tile t).journal.filter (fun e =>
      !(e.1 ∈ ((m.tile t).journal.filter (fun e => e.2.job == j && !e.2.fossil && (m.tagOf j e.2.key).lt (m.job j).gvt)).map (·.1))) := by
  unfold fossil
  dsimp only
  generalize kept : List.filterMap _ _ = keep
  have none : keep = [] := by
    rw [← kept, List.filterMap_eq_nil_iff]
    intro e he
    have member : e ∈ (m.tile t).journal := List.mem_of_mem_filter (List.mem_of_mem_filter (mem_sortBy.mp he))
    split
    · rw [free e member, if_neg (by simp)]
    · rfl
  subst none
  simp only [List.flatMap_nil, List.not_mem_nil, decide_false, Bool.not_false, List.filter_true, if_false]
  rw [tile_modTile, tile_of_stores (countJ_stores ..)]
  dsimp only
  rw [freeEntries_tile (·.storeQ) (fun _ _ => rfl), freeEntries_journal]
  exact ⟨by simp, List.map_id' _⟩

end
end Mach
end Sys2Proof.Machine

namespace Sys2Proof.Machine
namespace Mach

section
variable {m : Mach} {t : TileId} {q : StoreJob} {r : NRef} {l : List SRec} {x : SRec}

/-! The store writer (R176) -/

theorem journalLost_clean (clean : m.cleanMemory) (t : TileId) (e : Nat) : m.journalLost t e = false := by
  simp [journalLost, clean.1, SMap.getD, sramCheck]

theorem journalRead_clean (clean : m.cleanMemory) (t : TileId) (l : List Nat) : m.journalRead t l = m := sramTouch_clean clean ..

theorem alias_clean (clean : m.cleanMemory) (a : Nat) : m.alias_ a = a := if_pos clean.2.2.2.2.2.1

theorem coreCycle_countJ (b : Nat) (j : JobId) (k n : Nat) : (m.countJ b j k n).coreCycle = m.coreCycle := by
  unfold countJ
  split <;> rfl

theorem mem_countJ (b : Nat) (j : JobId) (k n : Nat) : (m.countJ b j k n).mem = m.mem := by
  unfold countJ
  split <;> rfl

theorem recW_congr {m' : Mach} (stores : m'.stores = m.stores) (mem : m'.mem = m.mem) (r : NRef) (k : Nat) : m'.recW r k = m.recW r k := by
  rw [recW, mem, recAddr_of_stores stores, recW]

theorem storeAddr_congr {m' : Mach} (stores : m'.stores = m.stores) (mem : m'.mem = m.mem) (r : NRef) (x : SRec) :
    m'.storeAddr r x = m.storeAddr r x := by
  rw [storeAddr, nDmBase, job_of_stores stores, recW_congr stores mem, storeAddr, nDmBase]

/-- The write the store writer asks for: the 16 B that hold a store. -/
def storeRequest (m : Mach) (q : StoreJob) (r : NRef) (x : SRec) : TReq :=
  { agent := 0x80, wr := true, addr := m.storeAddr r x / 16 * 16, units := 1, job := r.job, what := .store q.head q.issued false,
    since := m.coreCycle }

/-- The store writer with one firing asks for the write of its next store. -/
theorem storeWrite_eq (one : (m.tile t).storeQ = [q]) (stores : m.jobStores t q = some (r, l)) (next : l[q.issued]? = some x)
    (clean : m.cleanMemory) : m.storeWrite t = (m.countJ 0x4600 r.job 0x05).modTile t (fun y =>
      { y with storeQ := y.storeQ.set 0 { q with issued := q.issued + 1 }, reqs := y.reqs ++ [m.storeRequest q r x] }) := by
  have within : q.issued < l.length := (List.getElem?_eq_some_iff.mp next).1
  have counted := storeAddr_congr (countJ_stores m 0x4600 r.job 0x05 1) (mem_countJ ..) r x
  unfold storeWrite
  simp only [one, List.zipIdx_cons, List.zipIdx_nil, List.find?_singleton, stores, within, decide_true, if_true, next,
    journalLost_clean clean, journalRead_clean clean, counted, coreCycle_countJ]
  rfl

theorem storeWrite_tile (one : (m.tile t).storeQ = [q]) (stores : m.jobStores t q = some (r, l)) (next : l[q.issued]? = some x)
    (clean : m.cleanMemory) : ((m.storeWrite t).tile t).storeQ = [{ q with issued := q.issued + 1 }] ∧
      ((m.storeWrite t).tile t).reqs = (m.tile t).reqs ++ [m.storeRequest q r x] ∧ (m.storeWrite t).mem = m.mem := by
  have tile := tile_of_stores (countJ_stores m 0x4600 r.job 0x05 1) t
  have mem : ∀ n : Mach, ∀ f, (n.modTile t f).mem = n.mem := fun _ _ => rfl
  rw [storeWrite_eq one stores next clean, tile_modTile, tile, one, mem, mem_countJ]
  exact ⟨rfl, rfl, rfl⟩

/-- Every store of the oldest firing is acknowledged: its entries are freed. -/
theorem storeAck_tile {rest : List StoreJob} (oldest : (m.tile t).storeQ = q :: rest) (stores : m.jobStores t q = some (r, l))
    (all : l.length ≤ q.acked) : ((m.storeAck t).tile t).storeQ = rest ∧
      ((m.storeAck t).tile t).journal = (m.tile t).journal.filter (fun e => !(e.1 ∈ [q.head, q.tail])) := by
  unfold storeAck
  rw [oldest]
  dsimp only
  rw [stores]
  dsimp only
  rw [if_neg (Nat.not_lt.mpr all), tile_of_stores (countJ_stores ..), freeEntries_journal, freeEntries_tile (·.storeQ) (fun _ _ => rfl),
    tile_modTile]
  exact ⟨rfl, rfl⟩

/-- A store is acknowledged to the firing it is of. -/
theorem storeAcked_tile (head : Nat) : ((m.storeAcked t head).tile t).storeQ =
    (m.tile t).storeQ.map (fun (s : StoreJob) => if s.head = head then { s with acked := s.acked + 1 } else s) := by
  rw [storeAcked, tile_modTile]

/-- A write acknowledged at a tile ends a request of its store writer. -/
theorem takeResponse_store {d : BitVec 2} {stop : BitVec 5} {y : QPkt} {rest : List QPkt} {k : Nat} {lost : Bool} {v : TReq}
    (tile : stop.toNat < 16) (queue : m.queue (qEj d stop 3) = y :: rest) (cmd : y.pkt.h.cmd = 0x21)
    (req : m.reqOf (d ++ (stop.truncate 4 : BitVec 4)) y.pkt.h.tid = some v) (what : v.what = .store q.head k lost)
    (one : (m.tile (d ++ (stop.truncate 4 : BitVec 4))).storeQ = [q]) :
    ((m.takeResponse (.stop d stop) 0x21).tile (d ++ (stop.truncate 4 : BitVec 4))).storeQ = [{ q with acked := q.acked + 1 }] := by
  have req' : (m.deq (qEj d stop 3)).reqOf (d ++ (stop.truncate 4 : BitVec 4)) y.pkt.h.tid = some v := req
  have ended : ∀ e0 e1, (m.deq (qEj d stop 3)).reqEnds d stop y.pkt.h.tid none e0 e1 =
      some (((m.deq (qEj d stop 3)).endReq (d ++ (stop.truncate 4 : BitVec 4)) y.pkt.h.tid).storeAcked (d ++ (stop.truncate 4 : BitVec 4)) q.head) := by
    intro e0 e1
    unfold reqEnds
    dsimp only
    rw [if_neg (by omega), req']
    dsimp only
    rw [what]
  have kept : (((m.deq (qEj d stop 3)).endReq (d ++ (stop.truncate 4 : BitVec 4)) y.pkt.h.tid).tile (d ++ (stop.truncate 4 : BitVec 4))).storeQ = [q] := by
    rw [endReq, tile_modTile]
    exact one
  rw [m.takeResponse_stop queue cmd, rspError, if_neg (by decide), ended, Option.getD_some, storeAcked_tile, kept]
  simp

/-! A store reaches memory (R176) -/

theorem hubRespond_mem (me : BitVec 16) (h : Hdr) (c : BitVec 6) (s : BitVec 4) (d : List (BitVec 128)) : (m.hubRespond me h c s d).mem = m.mem := rfl

/-- The bytes of a store are written, and no others. -/
theorem storeToMem_mem (clean : m.cleanMemory) (r : NRef) (x : SRec) :
    memBytes (m.storeToMem r x).mem (m.storeAddr r x) (wBytes x.w) = natBytes (wBytes x.w) x.data.toNat ∧
      ∀ b, b < m.storeAddr r x ∨ m.storeAddr r x + wBytes x.w ≤ b → memGet (m.storeToMem r x).mem b = memGet m.mem b := by
  have written : m.storeToMem r x = m.hbmWrite (m.storeAddr r x) (natBytes (wBytes x.w) x.data.toNat) := by
    rw [storeToMem, alias_clean clean, storeAddr]
  have len := natBytes_length (wBytes x.w) x.data.toNat
  rw [written]
  refine ⟨?_, fun b hb => (hbmWrite_alters clean _ _).same b (by rwa [len])⟩
  have := memBytes_of_get (d := natBytes (wBytes x.w) x.data.toNat) fun i hi => memGet_hbmWrite clean (m.storeAddr r x) _ hi
  rwa [len] at this

/-- The hub serves a write of a tile's store writer. -/
theorem serveWr_store {d : BitVec 2} {br : Bool} {y : QPkt} {rest : List QPkt} {k head : Nat} {v : TReq}
    (queue : m.queue (qHub d br 2) = y :: rest) (cmd : y.pkt.h.cmd = 0x11) (tile : srcHub y.pkt.h.src = false)
    (agent : y.pkt.h.src.truncate 8 = (0x80 : Byte)) (req : m.reqOf (srcTile y.pkt.h.src) y.pkt.h.tid = some v)
    (what : v.what = .store head k false) (found : m.storeRec (srcTile y.pkt.h.src) head k = some (r, x)) (clean : m.cleanMemory)
    (aligned : y.pkt.h.arg.toNat % 16 = 0) :
    (m.serveWr d br .good).mem = (((m.deq (qHub d br 2))).storeToMem r x).mem := by
  have copy : ∀ a n, m.copyWait a n = false := fun a n => by simp [copyWait, clean.2.2.2.2.2.2.1]
  have store : m.storeReq y.pkt.h.src y.pkt.h.tid = true := by simp [storeReq, req, what, tile]
  have reach : ∀ a n, m.mayReach y.pkt.h a n = true := fun a n => by simp [mayReach, tile, store]
  have effect : (m.deq (qHub d br 2)).wrEffect y.pkt = (m.deq (qHub d br 2)).storeToMem r x := by
    have req' : (m.deq (qHub d br 2)).reqOf (srcTile y.pkt.h.src) y.pkt.h.tid = some v := req
    have found' : (m.deq (qHub d br 2)).storeRec (srcTile y.pkt.h.src) head k = some (r, x) := found
    unfold wrEffect
    simp only [tile, req', Option.map_some, what]
    unfold storeServed
    rw [found']
    rfl
  unfold serveWr
  dsimp only
  rw [queue]
  dsimp only
  rw [if_neg (by simp [cmd]), if_neg (by simp [agent]), if_neg (by simp [copy]), if_neg (by simp [aligned, reach]), if_neg (by simp), effect,
    hubRespond_mem]

end
end Mach
end Sys2Proof.Machine

section
open Sys2Proof Sys2Proof.Machine

/-- The fossil collection and the store writer of O40. -/
theorem fossilsAndTheStoreWriter : Claim.FossilsAndTheStoreWriter := by
  refine ⟨?_, ?_, ?_, ?_, ?_⟩
  · intro s t j free
    obtain ⟨queue, journal⟩ := Mach.fossil_tile (j := j) free
    refine ⟨_, rfl, queue, fun e he => ?_⟩
    dsimp only at he
    rw [journal, List.mem_filter] at he
    obtain ⟨member, out⟩ := he
    refine ⟨member, fun ⟨job, fossil, below⟩ => ?_⟩
    have old : e ∈ (s.m.tile t).journal.filter (fun e => e.2.job == j && !e.2.fossil && (s.m.tagOf j e.2.key).lt (s.m.job j).gvt) :=
      List.mem_filter.mpr ⟨member, by simp [job, fossil, below]⟩
    rw [decide_eq_true (List.mem_map_of_mem old)] at out
    exact Bool.false_ne_true out
  · intro s t q r l x one stores next clean a
    obtain ⟨queue, reqs, mem⟩ := Mach.storeWrite_tile one stores next clean
    exact ⟨_, rfl, queue, ⟨_, reqs, rfl, rfl, rfl, rfl, rfl, rfl, rfl, rfl⟩, mem⟩
  · intro s d br y rest k head v r x queue cmd tile agent t req what found clean aligned a
    have served := Mach.serveWr_store queue cmd tile agent req what found clean aligned
    obtain ⟨bytes, others⟩ := Mach.storeToMem_mem (m := s.m.deq (qHub d br 2)) clean r x
    refine ⟨_, rfl, (congrArg (memBytes · a _) served).trans bytes, fun b hb => (congrArg (memGet · b) served).trans (others b hb)⟩
  · intro s d stop y rest q k lost v tile queue cmd t req what one
    have the : EndPoint.the (.stop d stop) = .stop d stop := by rw [EndPoint.the, theStop_of_lt (by omega)]
    exact ⟨_, exec_wrAck the s, Mach.takeResponse_store tile queue cmd req what one⟩
  · intro s t q rest r l oldest stores all
    exact ⟨_, rfl, Mach.storeAck_tile oldest stores all⟩

end

namespace Sys2Proof.Machine
namespace Mach

section
variable {m m' : Mach} {p : PeId}

/-! One sweep of a PE -/

theorem sweepRead_clean (clean : m.cleanMemory) (p : PeId) : m.sweepRead p = m := if_pos clean.1

theorem sweepWaits_clean (clean : m.cleanMemory) (p : PeId) (s : Sweep) : m.sweepWaits p s = false := by
  simp [sweepWaits, clean.2.2.2.2.2.2.1]

/-- The machine whose PE has taken its next sweep. -/
def sweepTaken (m : Mach) (p : PeId) (rest : List Sweep) : Mach := m.modPe p (fun x => { x with sweeps := rest })

theorem sweepTaken_pe (rest : List Sweep) : (m.sweepTaken p rest).pe p = { m.pe p with sweeps := rest } := m.pe_modPe p _

theorem sweepTaken_clean (clean : m.cleanMemory) (rest : List Sweep) : (m.sweepTaken p rest).cleanMemory := cleanMemory_setPe.mpr clean

theorem sweepTaken_level (rest : List Sweep) (pl : Place) : (m.sweepTaken p rest).level p pl = m.level p pl := by
  cases pl with
  | iris => exact m.pe_modPe_field (·.iris) p p _ rfl
  | mob => rfl
  | deep => rfl

theorem sweep_eq {s : Sweep} {rest : List Sweep} (next : (m.pe p).sweeps = s :: rest) (clean : m.cleanMemory) :
    m.sweep p = (m.sweepTaken p rest).runSweep p s := by
  unfold sweep
  rw [next]
  dsimp only
  rw [if_neg (by simp [sweepWaits_clean clean])]
  rfl

/-! Rollback sweeps (R63, R154) -/

theorem mem_groupsOf {r : NRef} {pl : Place} {h : Entry} : (pl, h) ∈ m.groupsOf r ↔
    ∃ i, (i, h) ∈ m.level r.pe pl ∧ h.head = true ∧ h.job = r.job ∧ h.node = r.node ∧ h.locPe = r.pe.truncate 7 := by
  have places : ∀ pl : Place, pl = .iris ∨ pl = .mob ∨ pl = .deep := fun pl => by cases pl <;> simp
  unfold groupsOf heads
  simp only [List.mem_flatMap, List.mem_map, List.mem_filter, Bool.and_eq_true, beq_iff_eq, Prod.mk.injEq, and_assoc]
  constructor
  · rintro ⟨pl', -, ⟨i, e⟩, member, head, job, node, pe, rfl, rfl⟩
    exact ⟨i, member, head, job, node, pe⟩
  · rintro ⟨i, member, head, job, node, pe⟩
    exact ⟨pl, by simpa using places pl, (i, h), member, head, job, node, pe, rfl, rfl⟩

/-- A head of a node's groups is the node's one head. -/
theorem headOf_one {j : JobId} {n : BitVec 17} {pl pl' : Place} {h e : Entry} {i : Nat} (one : m.groupsOf ⟨j, p, n⟩ = [(pl, h)])
    (head : m.headOf p pl' h.ref = some (i, e)) : pl' = pl ∧ e = h := by
  obtain ⟨-, -, -, job, node, -⟩ := mem_groupsOf.mp (one ▸ List.mem_singleton.mpr rfl)
  obtain ⟨member, group, isHead⟩ := headOf_mem head
  obtain ⟨job', node', -, -, pe⟩ := Entry.inGroup_iff.mp group
  have := mem_groupsOf.mpr ⟨i, member, isHead, job'.trans job, node'.trans node, pe⟩
  rw [one, List.mem_singleton, Prod.mk.injEq] at this
  exact this

/-- The node's one head is found as the head of its group. -/
theorem headOf_of_one {j : JobId} {n : BitVec 17} {pl : Place} {h : Entry} (one : m.groupsOf ⟨j, p, n⟩ = [(pl, h)]) :
    ∃ i, m.headOf p pl h.ref = some (i, h) := by
  obtain ⟨k, member, head, job, node, pe⟩ := mem_groupsOf.mp (one ▸ List.mem_singleton.mpr rfl)
  have found : (m.headOf p pl h.ref).isSome := by
    rw [headOf_eq_find?, List.find?_isSome]
    exact ⟨_, member, by simp [Entry.inGroup, Entry.ref, pe, head]⟩
  obtain ⟨⟨i, e⟩, some⟩ := Option.isSome_iff_exists.mp found
  obtain ⟨-, rfl⟩ := headOf_one one some
  exact ⟨i, some⟩

theorem level_storeEnt_ne {pl pl' : Place} (above : pl ≠ .deep) (ne : pl' ≠ pl) (i : Nat) (e : Entry) :
    (m.storeEnt p pl i e).level p pl' = m.level p pl' := by
  cases pl with
  | iris =>
    cases pl' with
    | iris => exact absurd rfl ne
    | mob => rfl
    | deep => rfl
  | mob =>
    cases pl' with
    | iris => rfl
    | mob => exact absurd rfl ne
    | deep => rfl
  | deep => exact absurd rfl above

theorem level_hregAdd (pl : Place) (g : GRef) (pl' : Place) : (m.hregAdd p pl g).level p pl' = m.level p pl' := by
  cases pl with
  | iris => rfl
  | mob =>
    cases pl' with
    | iris => rfl
    | mob =>
      unfold hregAdd
      simp [level]
    | deep => rfl
  | deep =>
    cases pl' with
    | iris => rfl
    | mob => rfl
    | deep =>
      unfold hregAdd
      simp [level, deepQEnts]

theorem Calm.hregAdd (pl : Place) (g : GRef) : Calm m (m.hregAdd p pl g) := by
  unfold Mach.hregAdd
  cases pl with
  | iris => exact refl
  | mob => exact modCluster _ _
  | deep => exact modTile _ _

theorem inGroup_setState (e : Entry) (s : GState) (g : GRef) : ({ e with gstate := s } : Entry).inGroup p g = e.inGroup p g := by
  simp [Entry.inGroup]

/-- A FIRED group returned to WAITING: its head waits at its level, and readiness leaves it. -/
theorem setWaiting_head {j : JobId} {k : BitVec 17} {pl : Place} {h : Entry} (one : m.groupsOf ⟨j, p, k⟩ = [(pl, h)]) (above : pl ≠ .deep) :
    ∀ i e, (((m.setGState p pl h.ref .waiting).hregAdd p pl h.ref).evalReady p h.ref).headOf p pl h.ref = some (i, e) →
      e.gstate = .waiting := by
  obtain ⟨i0, head⟩ := headOf_of_one one
  obtain ⟨member, group, isHead⟩ := headOf_mem head
  have stored : (m.setGState p pl h.ref .waiting).stores = (m.storeEnt p pl i0 { h with gstate := .waiting }).stores :=
    modHead_stores head _
  generalize hn : (m.setGState p pl h.ref .waiting).hregAdd p pl h.ref = n
  have level : ∀ pl', n.level p pl' = (m.storeEnt p pl i0 { h with gstate := .waiting }).level p pl' := fun pl' => by
    rw [← hn, level_hregAdd, level_of_stores stored]
  have waits : n.headOf p pl h.ref = some (i0, { h with gstate := .waiting }) :=
    headOf_set head ((inGroup_setState ..).trans group) isHead ((level pl).trans (level_storeEnt _ _ above _ _))
  have gathers : Gathers n (n.evalReady p h.ref) p := evalReady_gathers fun pl' k x _ hx => by
    by_cases e : pl' = pl
    · subst e
      rw [waits, Option.some.injEq, Prod.mk.injEq] at hx
      rw [← hx.2]
      exact fun e => GState.noConfusion e
    · rw [headOf_of_level ((level pl').trans (level_storeEnt_ne above e _ _))] at hx
      exact absurd (headOf_one one hx).1 e
  intro i e he
  rw [gathers.headOf, waits, Option.some.injEq, Prod.mk.injEq] at he
  rw [← he.2]

/-- A rollback sweep returns the one FIRED group of its node, at or after its tag, to WAITING. -/
theorem sweepBack_waiting {g : GRef} {pl : Place} {h : Entry} (one : m.groupsOf ⟨g.job, p, g.node⟩ = [(pl, h)]) (fired : h.gstate = .fired)
    (after : (m.tagOf g.job g.key).le (m.tagOf g.job h.key) = true) (above : pl ≠ .deep) (clean : m.cleanMemory) :
    Calm m (m.sweepBack p g) ∧ ∀ i e, (m.sweepBack p g).headOf p pl h.ref = some (i, e) → e.gstate = .waiting := by
  have back : m.sweepBack p g = ((m.setGState p pl h.ref .waiting).hregAdd p pl h.ref).evalReady p h.ref := by
    unfold sweepBack
    simp only [sweepRead_clean clean, GRef.nref, one, List.filter_cons, fired, after, beq_self_eq_true, Bool.and_self, if_true, List.filter_nil,
      List.foldl_cons, List.foldl_nil]
  rw [back]
  refine ⟨?_, setWaiting_head one above⟩
  refine Calm.trans ?_ (.evalReady ..)
  refine Calm.trans ?_ (.hregAdd ..)
  exact .modHead ..

end
end Mach
end Sys2Proof.Machine

namespace Sys2Proof.Machine
namespace Mach

section
variable {m m' : Mach} {p : PeId}

/-! Commit sweeps (R63) -/

/-- Entries taken out of Iris. -/
theorem foldl_dropEnt_iris (l : List (Nat × Entry)) :
    let n := l.foldl (fun m e => m.dropEnt p .iris e.1) m
    (n.pe p).iris = (m.pe p).iris.filter (fun e => !(e.1 ∈ l.map (·.1))) ∧ (n.pe p).sweeps = (m.pe p).sweeps ∧ n.tiles = m.tiles ∧
      n.jobs = m.jobs := by
  induction l generalizing m with
  | nil => simp
  | cons a l ih =>
    have same : (m.dropEnt p .iris a.1).stores = (m.modPe p (fun x => { x with iris := SMap.erase x.iris a.1 })).stores := putWords_stores ..
    obtain ⟨iris, sweeps, tiles, jobs⟩ := ih (m := m.dropEnt p .iris a.1)
    have pe := pe_of_stores same p
    rw [pe_modPe] at pe
    refine ⟨iris.trans ?_, sweeps.trans ((congrArg Pe.sweeps pe).trans rfl), tiles.trans ((tiles_of_stores same).trans rfl),
      jobs.trans ((jobs_of_stores same).trans rfl)⟩
    rw [pe, SMap.erase, List.filter_filter]
    refine List.filter_congr fun e _ => ?_
    rw [Bool.eq_iff_iff, List.map_cons]
    simp only [Bool.and_eq_true, Bool.not_eq_true', decide_eq_false_iff_not, bne_iff_ne, List.mem_cons, not_or, and_comm]

/-- Freeing a group of Iris leaves no entry of it there. -/
theorem freeGroup_iris (g : GRef) : (∀ e ∈ ((m.freeGroup p .iris g).pe p).iris, e.2.inGroup p g = false) ∧
    ((m.freeGroup p .iris g).pe p).sweeps = (m.pe p).sweeps ∧ (m.freeGroup p .iris g).tiles = m.tiles ∧
      (m.freeGroup p .iris g).jobs = m.jobs := by
  obtain ⟨iris, others⟩ := foldl_dropEnt_iris (m := m) (p := p) (m.ents p .iris g).reverse
  have freed : m.freeGroup p .iris g = (m.ents p .iris g).reverse.foldl (fun m e => m.dropEnt p .iris e.1) m := by
    unfold freeGroup
    exact ite_self _
  rw [freed]
  refine ⟨fun e he => ?_, others⟩
  rw [iris, List.mem_filter] at he
  obtain ⟨member, out⟩ := he
  cases group : e.2.inGroup p g with
  | false => rfl
  | true =>
    have : e ∈ m.ents p .iris g := List.mem_filter.mpr ⟨member, group⟩
    rw [decide_eq_true (List.mem_map_of_mem (List.mem_reverse.mpr this))] at out
    exact absurd out Bool.false_ne_true

theorem setPinRbc_stores (r : NRef) (b : Bool) (n : Nat) : (m.setPinRbc r b n).stores = m.stores := setSetlW_stores ..

theorem clearRbc_stores (j : JobId) (g : Tag) : (m.clearRbc p j g).stores = m.stores := by
  refine foldl_stores (fun n k => ?_) _ m
  dsimp only
  split
  · rfl
  · split
    · exact setPinRbc_stores ..
    · rfl

/-- Where no trap is pending, none is raised. -/
theorem raisePending_none (none : ∀ e ∈ m.tiles, e.2.pend = []) (j : JobId) (g : Tag) : m.raisePending j g = m := by
  have empty : ∀ f, m.tiles.flatMap (fun t => t.2.pend.filter f) = [] := fun f =>
    List.flatMap_eq_nil_iff.mpr fun e he => by rw [none e he]; rfl
  unfold raisePending
  simp only [empty]
  rw [if_pos (by simp [sortBy])]

theorem settledFetch_clean (clean : m.cleanMemory) {r : NRef} (path : m.hubPath (peTile r.pe) = true) : m.settledFetch r = (false, m) :=
  peFetch_clean clean path _

theorem groupsOf_of_level (h : ∀ pl, m'.level p pl = m.level p pl) (j : JobId) (n : BitVec 17) :
    m'.groupsOf ⟨j, p, n⟩ = m.groupsOf ⟨j, p, n⟩ := by
  simp only [groupsOf, h]

theorem firedBelow_of_level (h : ∀ pl, m'.level p pl = m.level p pl) (jobs : m'.jobs = m.jobs) (j : JobId) (g : Tag) :
    m'.firedBelow p j g = m.firedBelow p j g := by
  have tag : ∀ k, m'.tagOf j k = m.tagOf j k := fun k => by rw [tagOf, job_of_jobs jobs, tagOf]
  simp only [firedBelow, h, tag]

theorem sweepable_of_live {j : JobId} (live : m.live j = true) : m.sweepable j = true := by
  unfold sweepable
  rcases m.live_iff.mp live with e | e | e <;> rw [e]

/-- The machine whose summary holds of a job's nodes on a PE are free below a GVT. -/
def freeHolds (m : Mach) (p : PeId) (j : JobId) (g : Tag) : Mach :=
  m.modTile (peTile p) (fun t => { t with
    holds := t.holds.filter (fun h => !(h.job == j && nodePe h.node == p && (m.tagOf j h.key).lt g)) })

theorem freeHolds_holds (j : JobId) (g : Tag) : ((m.freeHolds p j g).tile (peTile p)).holds =
    (m.tile (peTile p)).holds.filter (fun h => !(h.job == j && nodePe h.node == p && (m.tagOf j h.key).lt g)) := by
  rw [freeHolds, tile_modTile]

theorem freeHolds_pe (j : JobId) (g : Tag) (q : PeId) : (m.freeHolds p j g).pe q = m.pe q := rfl

theorem tile_pend (none : ∀ e ∈ m.tiles, e.2.pend = []) (t : TileId) : (m.tile t).pend = [] := by
  unfold tile SMap.getD
  cases e : SMap.get? m.tiles t.toNat with
  | none => rfl
  | some x => exact none _ (SMap.mem_of_get? e)

theorem freeHolds_pend (none : ∀ e ∈ m.tiles, e.2.pend = []) (j : JobId) (g : Tag) : ∀ e ∈ (m.freeHolds p j g).tiles, e.2.pend = [] := by
  intro e he
  rcases SMap.mem_set he with rfl | he
  · exact tile_pend none _
  · exact none e he

/-- A commit sweep that finds one FIRED group below GVT, in Iris, folds it into the settled record and frees it, and frees the summary holds below GVT. -/
theorem sweepCommit_eq {j : JobId} {g : Tag} {h : Entry} (one : m.firedBelow p j g = [(.iris, h)]) (sweepable : m.sweepable j = true)
    (clean : m.cleanMemory) (path : m.hubPath (peTile p) = true) : m.sweepCommit p j g =
      ((((m.foldGroup p .iris h.ref).freeGroup p .iris h.ref).freeHolds p j g).clearRbc p j g).raisePending j g := by
  have fetched := settledFetch_clean (r := h.ref.nref p) clean path
  unfold sweepCommit
  simp only [sweepRead_clean clean, one, sortBy_single, List.foldl_cons, List.foldl_nil, sweepable, Bool.not_true, Bool.false_eq_true,
    if_false, fetched]
  rfl

/-- What a commit sweep leaves of the groups of Iris and of the summary holds. -/
theorem sweepCommit_frees {j : JobId} {g : Tag} {h : Entry} (one : m.firedBelow p j g = [(.iris, h)]) (sweepable : m.sweepable j = true)
    (clean : m.cleanMemory) (path : m.hubPath (peTile p) = true) (none : ∀ e ∈ m.tiles, e.2.pend = []) :
    ((m.sweepCommit p j g).pe p).sweeps = (m.pe p).sweeps ∧ (∀ e ∈ ((m.sweepCommit p j g).pe p).iris, e.2.inGroup p h.ref = false) ∧
      ((m.sweepCommit p j g).tile (peTile p)).holds = (m.tile (peTile p)).holds.filter
        (fun x => !(x.job == j && nodePe x.node == p && (m.tagOf j x.key).lt g)) := by
  obtain ⟨out, sweeps, tiles, jobs⟩ := freeGroup_iris (m := m.foldGroup p .iris h.ref) (p := p) h.ref
  rw [sweepCommit_eq one sweepable clean path]
  generalize (m.foldGroup p .iris h.ref).freeGroup p .iris h.ref = n at out sweeps tiles jobs
  have folded := m.foldGroup_stores p .iris h.ref
  rw [pe_of_stores folded] at sweeps
  rw [tiles_of_stores folded] at tiles
  rw [jobs_of_stores folded] at jobs
  have tag : ∀ k, n.tagOf j k = m.tagOf j k := fun k => by rw [tagOf, job_of_jobs jobs, tagOf]
  have tile : n.tile (peTile p) = m.tile (peTile p) := by rw [Mach.tile, tiles, Mach.tile]
  have holds := freeHolds_holds (m := n) (p := p) j g
  simp only [tile, tag] at holds
  have quiet := freeHolds_pend (m := n) (p := p) (tiles ▸ none) j g
  have cleared := (n.freeHolds p j g).clearRbc_stores (p := p) j g
  rw [raisePending_none (by rw [tiles_of_stores cleared]; exact quiet), pe_of_stores cleared, tile_of_stores cleared, holds, freeHolds_pe]
  exact ⟨sweeps, out, rfl⟩

end
end Mach
end Sys2Proof.Machine

section
open Sys2Proof Sys2Proof.Machine

/-- The sweeps of O40. -/
theorem sweepsFreeOrReturnGroups : Claim.SweepsFreeOrReturnGroups := by
  refine ⟨?_, ?_⟩
  · intro s p g rest pl h next one fired after above clean
    have one' : (s.m.sweepTaken p rest).groupsOf ⟨g.job, p, g.node⟩ = [(pl, h)] := (Mach.groupsOf_of_level (Mach.sweepTaken_level rest) _ _).trans one
    obtain ⟨calm, waits⟩ := Mach.sweepBack_waiting one' fired after above (Mach.sweepTaken_clean clean rest)
    refine ⟨_, rfl, ?_, ?_⟩ <;> dsimp only <;> rw [Mach.sweep_eq next clean]
    · exact (calm.sweeps p).trans (congrArg Pe.sweeps (Mach.sweepTaken_pe rest))
    · exact waits
  · intro s p j g rest h next one live clean none path
    have one' : (s.m.sweepTaken p rest).firedBelow p j g = [(.iris, h)] := (Mach.firedBelow_of_level (Mach.sweepTaken_level rest) rfl ..).trans one
    have able : (s.m.sweepTaken p rest).sweepable j = true := Mach.sweepable_of_live ((Mach.live_of_jobs rfl j).trans live)
    have path' : (s.m.sweepTaken p rest).hubPath (peTile p) = true := (Mach.hubPath_of_net rfl _).trans path
    obtain ⟨sweeps, freed, holds⟩ := Mach.sweepCommit_frees one' able (Mach.sweepTaken_clean clean rest) path' none
    refine ⟨_, rfl, ?_, ?_, ?_⟩ <;> dsimp only <;> rw [Mach.sweep_eq next clean]
    · exact sweeps.trans (congrArg Pe.sweeps (Mach.sweepTaken_pe rest))
    · exact freed
    · exact holds

end

namespace Sys2Proof.Machine

/-! The anti-tokens of a rollback (R155) -/

namespace Token

variable (gen : Byte) (job : JobId) (fs : Bool) (kind : BitVec 2) (port : BitVec 3) (node : NodeId) (time : BitVec 48)
  (delta : BitVec 12) (a b : Word)

/-- The bits of a token's first word, from its lowest field up. -/
theorem mk'_w0_getLsbD (i : Nat) : (mk' gen job fs kind port node time delta a b).w0.getLsbD i =
    if i < 40 then node.getLsbD i else if i - 40 < 3 then port.getLsbD (i - 40)
    else if i - 40 - 3 < 2 then kind.getLsbD (i - 40 - 3) else if i - 40 - 3 - 2 < 1 then (BitVec.ofBool fs).getLsbD (i - 40 - 3 - 2)
    else if i - 40 - 3 - 2 - 1 < 3 then job.getLsbD (i - 40 - 3 - 2 - 1)
    else if i - 40 - 3 - 2 - 1 - 3 < 7 then (0 : BitVec 7).getLsbD (i - 40 - 3 - 2 - 1 - 3)
    else gen.getLsbD (i - 40 - 3 - 2 - 1 - 3 - 7) := by
  change (gen ++ (0 : BitVec 7) ++ job ++ BitVec.ofBool fs ++ kind ++ port ++ node : BitVec (8 + 7 + 3 + 1 + 2 + 3 + 40)).getLsbD i = _
  simp only [BitVec.getLsbD_append]

/-- The fields of a token read back from its words. -/
theorem mk'_fields : let x := mk' gen job fs kind port node time delta a b
    x.gen = gen ∧ x.job = job ∧ x.kind = kind ∧ x.port = port ∧ x.nodeId = node := by
  refine ⟨?_, ?_, ?_, ?_, ?_⟩ <;> refine BitVec.eq_of_getLsbD_eq fun i hi => ?_
  · simp (disch := omega) only [Token.gen, BitVec.getLsbD_extractLsb', mk'_w0_getLsbD, if_neg, hi, decide_true, Bool.true_and]
    exact congrArg _ (by omega)
  · simp (disch := omega) only [Token.job, BitVec.getLsbD_extractLsb', mk'_w0_getLsbD, if_neg, if_pos, hi, decide_true, Bool.true_and]
    exact congrArg _ (by omega)
  · simp (disch := omega) only [Token.kind, BitVec.getLsbD_extractLsb', mk'_w0_getLsbD, if_neg, if_pos, hi, decide_true, Bool.true_and]
    exact congrArg _ (by omega)
  · simp (disch := omega) only [Token.port, BitVec.getLsbD_extractLsb', mk'_w0_getLsbD, if_neg, if_pos, hi, decide_true, Bool.true_and]
    exact congrArg _ (by omega)
  · simp only [Token.nodeId, BitVec.getLsbD_setWidth, mk'_w0_getLsbD, hi, if_true, decide_true, Bool.true_and]

end Token

namespace SMap

variable {α : Type}

/-- What stands at a key of a map whose every thing is replaced by one that depends on its key. -/
theorem get?_mapKey (f : Nat → α → α) (m : SMap α) (k : Nat) :
    SMap.get? (m.map (fun e => (e.1, f e.1 e.2))) k = (SMap.get? m k).map (f k) := by
  induction m with
  | nil => rfl
  | cons a r ih =>
    simp only [SMap.get?, List.map_cons] at ih ⊢
    split
    · next e => rw [e, Option.map_some]
    · exact ih

end SMap

namespace Mach

section
variable {m m' m'' : Mach} {p : PeId} {t : TileId} {r : NRef}

/-- The signal of freed entries changes nothing of a PE but whether it was refused. -/
theorem freedSignal_pe {β : Type} (φ : Pe → β) (hφ : ∀ x, φ { x with refused := 0 } = φ x) (p : PeId) :
    φ ((m.freedSignal t).pe p) = φ (m.pe p) := by
  have pes : (m.freedSignal t).pes = m.pes.map (fun e => (e.1, if e.1 / 128 = t.toNat then { e.2 with refused := 0 } else e.2)) := by
    refine List.map_congr_left fun e _ => ?_
    dsimp only
    split <;> rfl
  rw [pe, pes, SMap.getD, SMap.get?_mapKey (fun k (x : Pe) => if k / 128 = t.toNat then { x with refused := 0 } else x), pe, SMap.getD]
  cases SMap.get? m.pes p.toNat with
  | none => rfl
  | some x =>
    rw [Option.map_some, Option.getD_some, Option.getD_some]
    split
    · exact hφ x
    · rfl

/-- What the steps that count and close a rollback leave as it is: memory, jobs, the module's number, the rollback queue and probe filter of the tile, the contexts and sweeps of the PE, and everything that stands in its Emit queue. -/
structure Closes (m m' : Mach) (p : PeId) : Prop where
  mem : m'.mem = m.mem
  jobs : m'.jobs = m.jobs
  number : m'.number = m.number
  rbq : (m'.tile (peTile p)).rbq = (m.tile (peTile p)).rbq
  filter : (m'.tile (peTile p)).filter = (m.tile (peTile p)).filter
  ctxs : (m'.pe p).ctxs = (m.pe p).ctxs
  sweeps : (m'.pe p).sweeps = (m.pe p).sweeps
  emits : ∀ e ∈ (m.pe p).emitQ, e ∈ (m'.pe p).emitQ

namespace Closes

theorem refl : Closes m m p := ⟨rfl, rfl, rfl, rfl, rfl, rfl, rfl, fun _ h => h⟩

theorem trans (h : Closes m m' p) (h' : Closes m' m'' p) : Closes m m'' p where
  mem := h'.mem.trans h.mem
  jobs := h'.jobs.trans h.jobs
  number := h'.number.trans h.number
  rbq := h'.rbq.trans h.rbq
  filter := h'.filter.trans h.filter
  ctxs := h'.ctxs.trans h.ctxs
  sweeps := h'.sweeps.trans h.sweeps
  emits e he := h'.emits e (h.emits e he)

theorem of_stores (stores : m'.stores = m.stores) (mem : m'.mem = m.mem) : Closes m m' p := by
  have pe := pe_of_stores stores p
  have tile := tile_of_stores stores (peTile p)
  exact ⟨mem, jobs_of_stores stores, number_of_stores stores, by rw [tile], by rw [tile], by rw [pe], by rw [pe], by simp [pe]⟩

theorem countJ (b : Nat) (j : JobId) (k n : Nat) : Closes m (m.countJ b j k n) p := of_stores (countJ_stores ..) (mem_countJ ..)

theorem modTile {f : Tile → Tile} (rbq : ∀ x, (f x).rbq = x.rbq) (filter : ∀ x, (f x).filter = x.filter) :
    Closes m (m.modTile (peTile p) f) p where
  mem := rfl
  jobs := rfl
  number := rfl
  rbq := m.tile_modTile_field (·.rbq) _ _ f (rbq _)
  filter := m.tile_modTile_field (·.filter) _ _ f (filter _)
  ctxs := rfl
  sweeps := rfl
  emits _ h := h

theorem undone (j : JobId) (n : Nat) : Closes m (m.undone j (peTile p) n) p := by
  unfold Mach.undone
  split
  · exact refl
  · exact (countJ ..).trans (modTile (fun _ => rfl) (fun _ => rfl))

theorem discardPending (t : Tag) (pe : r.pe = p) : Closes m (m.discardPending r t) p := by
  subst pe
  refine trans ?_ (countJ ..)
  exact modTile (fun _ => rfl) (fun _ => rfl)

theorem freedSignal : Closes m (m.freedSignal t) p where
  mem := rfl
  jobs := rfl
  number := rfl
  rbq := rfl
  filter := rfl
  ctxs := freedSignal_pe (·.ctxs) (fun _ => rfl) p
  sweeps := freedSignal_pe (·.sweeps) (fun _ => rfl) p
  emits := by simp [freedSignal_pe (·.emitQ) (fun _ => rfl) p]

theorem sramPut (t : TileId) (kind unit : Nat) (l : List Nat) : Closes m (m.sramPut t kind unit l) p := by
  refine of_stores (sramPut_stores ..) ?_
  unfold Mach.sramPut
  split
  · rfl
  · exact foldl_keeps (·.mem) (by intros; rfl) l

theorem freeEntries (l : List Nat) : Closes m (m.freeEntries (peTile p) l) p := by
  unfold Mach.freeEntries
  split
  · exact refl
  · refine trans (trans ?_ (sramPut ..)) freedSignal
    exact modTile (fun _ => rfl) (fun _ => rfl)

end Closes

/-! Anti-tokens stand in Emit (R155) -/

theorem queueAntis_closes (r : NRef) (t : Tag) (gen : Byte) (l : List (Token × Tag)) : Closes m (m.queueAntis r t gen l) r.pe := by
  unfold queueAntis
  split
  · exact .refl
  · refine ⟨rfl, rfl, rfl, rfl, rfl, m.pe_modPe_field (·.ctxs) _ _ _ rfl, m.pe_modPe_field (·.sweeps) _ _ _ rfl, fun e he => ?_⟩
    dsimp only
    rw [pe_modPe]
    rw [← List.takeWhile_append_dropWhile (p := fun (e : EmitJob) => match e.kind with
      | .antis _ => true
      | _ => false) (l := (m.pe r.pe).emitQ)] at he
    exact List.mem_append.mpr ((List.mem_append.mp he).imp_right (.tail _))

/-- Every anti-token of a rollback stands in an entry of the Emit queue for its node. -/
theorem queueAntis_holds {t : Tag} {gen : Byte} {l : List (Token × Tag)} {y : Token × Tag} (member : y ∈ l) :
    ∃ e ∈ ((m.queueAntis r t gen l).pe r.pe).emitQ, e.kind = .antis l ∧ e.job = r.job ∧ e.node = r.node := by
  unfold queueAntis
  rw [if_neg (List.ne_nil_of_mem member)]
  dsimp only
  rw [pe_modPe]
  exact ⟨_, List.mem_append.mpr (.inr (.head _)), rfl, rfl, rfl⟩

/-- An anti-token is formed for every arc of every port that a summary slot names. -/
theorem mem_antisOf {t : Tag} {es : List (Nat × JEntry)} {x : Nat × JEntry} {k : Nat} {w : Word} (member : x ∈ es) (port : k < 8)
    (named : x.2.emask.getLsbD k = true) (arc : w ∈ m.arcs r k) : ∃ y ∈ m.antisOf r t es, y.1.kind = 1 ∧ y.1.gen = x.2.gen ∧
      y.1.job = r.job ∧ y.1.port = w.extractLsb' 40 3 ∧ y.1.nodeId = w.truncate 40 ∧ y.1.w2 = 0 ∧ y.1.w3 = 0 ∧
        y.2 = slotTarget t x.2.eoff := by
  refine ⟨_, List.mem_flatMap.mpr ⟨x, member, List.mem_flatMap.mpr ⟨k, List.mem_filter.mpr ⟨List.mem_range.mpr port, named⟩,
    List.mem_map.mpr ⟨w, arc, rfl⟩⟩⟩, ?_⟩
  obtain ⟨gen, job, kind, port, node⟩ := Token.mk'_fields x.2.gen r.job (w.getLsbD 63 && m.fourState) 1 (w.extractLsb' 40 3) (w.truncate 40)
    (slotTarget t x.2.eoff).short (slotTarget t x.2.eoff).delta 0 0
  exact ⟨kind, gen, job, port, node, rfl, rfl, rfl⟩

end
end Mach
end Sys2Proof.Machine

namespace Sys2Proof.Machine

/-! State words a mask names -/

theorem swWords_lt {sw : BitVec 4} {w : Nat} (h : w ∈ Mach.swWords sw) : w < 4 := List.mem_range.mp (List.mem_of_mem_filter h)

theorem swWords_getElem_lt {sw : BitVec 4} {n w : Nat} (h : (Mach.swWords sw)[n]? = some w) : w < 4 := swWords_lt (List.mem_of_getElem? h)

theorem swWords_nodup (sw : BitVec 4) : (Mach.swWords sw).Nodup := List.nodup_range.filter _

/-! Fields of the words of a node record (Table 12-5) and of a settled record (Table 12-6) -/

/-- The bits of a word whose upper 12 are one field. -/
theorem getLsbD_deltaWord (x : BitVec 12) (y : BitVec 52) (i : Nat) :
    (x ++ y : BitVec 64).getLsbD i = if i < 52 then y.getLsbD i else x.getLsbD (i - 52) := by
  rw [BitVec.getLsbD_append]

/-- The bits of a word of a delta, a generation and 44 further bits. -/
theorem getLsbD_genWord (x : BitVec 12) (g : Byte) (y : BitVec 44) (i : Nat) : (x ++ g ++ y : BitVec 64).getLsbD i =
    if i < 44 then y.getLsbD i else if i - 44 < 8 then g.getLsbD (i - 44) else x.getLsbD (i - 44 - 8) := by
  rw [BitVec.getLsbD_append, BitVec.getLsbD_append]

theorem genWord_gen (x : BitVec 12) (g : Byte) (y : BitVec 44) : (x ++ g ++ y : BitVec 64).extractLsb' 44 8 = g := by
  refine BitVec.eq_of_getLsbD_eq fun i hi => ?_
  simp (disch := omega) only [BitVec.getLsbD_extractLsb', getLsbD_genWord, if_neg, if_pos, hi, decide_true, Bool.true_and]
  exact congrArg _ (by omega)

theorem genWord_delta (x : BitVec 12) (g : Byte) (y : BitVec 44) : (x ++ g ++ y : BitVec 64).extractLsb' 52 12 = x := by
  refine BitVec.eq_of_getLsbD_eq fun i hi => ?_
  simp (disch := omega) only [BitVec.getLsbD_extractLsb', getLsbD_genWord, if_neg, hi, decide_true, Bool.true_and]
  exact congrArg _ (by omega)

theorem deltaWord_delta (x : BitVec 12) (y : BitVec 52) : (x ++ y : BitVec 64).extractLsb' 52 12 = x := by
  refine BitVec.eq_of_getLsbD_eq fun i hi => ?_
  simp (disch := omega) only [BitVec.getLsbD_extractLsb', getLsbD_deltaWord, if_neg, hi, decide_true, Bool.true_and]
  exact congrArg _ (by omega)

theorem deltaWord_gen (x : BitVec 12) (w : Word) : (x ++ w.truncate 52 : BitVec 64).extractLsb' 44 8 = w.extractLsb' 44 8 := by
  refine BitVec.eq_of_getLsbD_eq fun i hi => ?_
  have low : 44 + i < 52 := by omega
  simp only [BitVec.getLsbD_extractLsb', getLsbD_deltaWord, BitVec.getLsbD_setWidth, low, hi, if_true, decide_true, Bool.true_and]

/-- The rollback count of a word of settled firing delta, count and pin. -/
theorem countWord_count (w : Word) {n : Nat} (h : n < 256) : bits ((w &&& 0xFFF) ||| at64 n 16 ||| at64 (b2n false) 24) 23 16 = n := by
  have zero : at64 (b2n false) 24 = 0#64 := rfl
  have low : (w &&& 0xFFF).toNat < 2 ^ 16 := by
    have : w.toNat &&& 4095 ≤ 4095 := Nat.and_le_right
    rw [BitVec.toNat_and]
    exact Nat.lt_of_le_of_lt this (by omega)
  have count : (at64 n 16).toNat = n <<< 16 := by
    rw [at64, BitVec.toNat_ofNat, Nat.shiftLeft_eq]
    omega
  rw [zero, BitVec.or_zero, bits, BitVec.toNat_or, count, Nat.or_comm, ← Nat.shiftLeft_add_eq_or_of_lt low, Nat.shiftLeft_eq]
  omega

namespace Mach

section
variable {m m' : Mach} {r : NRef}

/-! State words restored (R152) -/

theorem restoreState_alters (clean : m.cleanMemory) (r : NRef) (es : List (Nat × JEntry)) :
    Alters m (m.restoreState r es) (m.recAddr r + 32) (m.recAddr r + 64) := by
  refine Alters.foldl _ clean fun x a member alters => ?_
  have word := swWords_lt (List.of_mem_zip member).1
  have written := setRecW_alters alters.clean r (4 + a.1) a.2
  rw [recAddr_of_stores alters.stores] at written
  exact written.mono (by omega) (by omega)

/-- The undo image of a firing's one entry gives back the state words its node's mask names. -/
theorem restoreState_one (clean : m.cleanMemory) {i : Nat} {h : JEntry} (written : h.written = true) :
    (∀ w, (swWords (m.nSwmask r))[0]? = some w → (m.restoreState r [(i, h)]).recW r (4 + w) = h.undo0) ∧
      (∀ w, (swWords (m.nSwmask r))[1]? = some w → (m.restoreState r [(i, h)]).recW r (4 + w) = h.undo1) := by
  have nodup := swWords_nodup (m.nSwmask r)
  have restored : m.restoreState r [(i, h)] = ((swWords (m.nSwmask r)).zip [h.undo0, h.undo1]).foldl (fun m e => m.setRecW r (4 + e.1) e.2) m := by
    unfold restoreState
    dsimp only
    rw [if_pos written]
  rw [restored]
  generalize swWords (m.nSwmask r) = ws at nodup
  match ws with
  | [] => simp
  | [a] => simpa using recW_setRecW clean r (4 + a) h.undo0
  | a :: b :: ws =>
    have ne : a ≠ b := fun e => (List.nodup_cons.mp nodup).1 (e ▸ .head _)
    have first := setRecW_alters clean r (4 + a) h.undo0
    have second := setRecW_alters first.clean r (4 + b) h.undo1
    rw [recAddr_of_stores first.stores] at second
    have kept := second.recW (r := r) (k := 4 + a) (by rw [recAddr_of_stores first.stores]; omega)
    have second' := recW_setRecW first.clean r (4 + b) h.undo1
    have zipped : (a :: b :: ws).zip [h.undo0, h.undo1] = [(a, h.undo0), (b, h.undo1)] := by simp
    rw [zipped]
    simp only [List.foldl_cons, List.foldl_nil]
    refine ⟨fun w hw => ?_, fun w hw => ?_⟩
    · cases hw
      exact kept.trans (recW_setRecW clean r (4 + a) h.undo0)
    · cases hw
      exact second'

/-! The last firing tag and the generation of a node -/

theorem setLast_alters (clean : m.cleanMemory) (r : NRef) (t : Tag) : Alters m (m.setLast r t) (m.recAddr r + 8) (m.recAddr r + 24) := by
  have first := setRecW_alters clean r 1 t.time
  have second := setRecW_alters first.clean r 2 (t.delta ++ ((m.setRecW r 1 t.time).recW r 2).truncate 52)
  rw [recAddr_of_stores first.stores] at second
  exact (first.mono (by omega) (by omega)).trans (second.mono (by omega) (by omega))

theorem setLast_words (clean : m.cleanMemory) (r : NRef) (t : Tag) :
    (m.setLast r t).recW r 1 = t.time ∧ (m.setLast r t).recW r 2 = t.delta ++ (m.recW r 2).truncate 52 := by
  have first := setRecW_alters clean r 1 t.time
  have second := setRecW_alters first.clean r 2 (t.delta ++ ((m.setRecW r 1 t.time).recW r 2).truncate 52)
  refine ⟨(second.recW (by omega)).trans (recW_setRecW clean ..), (recW_setRecW first.clean ..).trans ?_⟩
  rw [first.recW (r := r) (k := 2) (by omega)]

theorem nLast_setLast (clean : m.cleanMemory) (r : NRef) (t : Tag) : (m.setLast r t).nLast r = t := by
  obtain ⟨time, delta⟩ := setLast_words clean r t
  rw [nLast, time, delta, deltaWord_delta]

theorem nGen_setLast (clean : m.cleanMemory) (r : NRef) (t : Tag) : (m.setLast r t).nGen r = m.nGen r := by
  rw [nGen, (setLast_words clean r t).2, deltaWord_gen, nGen]

theorem advanceGen_alters (clean : m.cleanMemory) (r : NRef) : Alters m (m.advanceGen r) (m.recAddr r + 16) (m.recAddr r + 24) :=
  setRecW_alters clean r 2 _

theorem nGen_advanceGen (clean : m.cleanMemory) (r : NRef) : (m.advanceGen r).nGen r = m.nGen r + 1 := by
  rw [nGen, advanceGen, recW_setRecW clean, genWord_gen]

theorem nLast_advanceGen (clean : m.cleanMemory) (r : NRef) : (m.advanceGen r).nLast r = m.nLast r := by
  have time := (advanceGen_alters clean r).recW (r := r) (k := 1) (by omega)
  have delta : (m.advanceGen r).recW r 2 = _ := recW_setRecW clean r 2 _
  rw [nLast, time, delta, genWord_delta, nLast]

/-! The rollback count (R158) -/

theorem setPinRbc_alters (clean : m.cleanMemory) (r : NRef) (b : Bool) (n : Nat) :
    Alters m (m.setPinRbc r b n) (m.stAddr r + 344) (m.stAddr r + 352) :=
  setSetlW_alters clean r 27 [_]

theorem rbc_setPinRbc (clean : m.cleanMemory) (r : NRef) {n : Nat} (h : n < 256) : (m.setPinRbc r false n).rbc r = n := by
  rw [rbc, setPinRbc, setlW_setSetlW_one clean, countWord_count _ h]

theorem setWt_alters (clean : m.cleanMemory) (r : NRef) (t : Tag) : Alters m (m.setWt r t) (m.stAddr r + 368) (m.stAddr r + 384) :=
  setSetlW_alters clean r 30 [_, _]

end
end Mach
end Sys2Proof.Machine

namespace Sys2Proof.Machine
namespace Mach

section
variable {m m' m'' : Mach} {r : NRef}

/-! Held values and last firing tag rebuilt (R154) -/

/-- The FIRED groups of a node before a tag. -/
def firedBefore (m : Mach) (r : NRef) (t : Tag) : List (Place × Entry) :=
  (m.groupsOf r).filter (fun x => x.2.gstate == .fired && (m.tagOf r.job x.2.key).lt t)

/-- The tokens of groups of a node. -/
def tokensOf (m : Mach) (r : NRef) (l : List (Place × Entry)) : List Entry :=
  l.flatMap (fun (pl, h) => ((m.ents r.pe pl h.ref).map (·.2)).filter (·.kind == 0))

/-- The held value of port k rebuilt from tokens of FIRED groups and the settled record. -/
def rebuildPort (r : NRef) (toks : List Entry) (m : Mach) (k : Nat) : Mach :=
  let (sa, sb, st) := m.settled r k
  let c := (toks.filter (fun e => e.port.toNat == k && st.ltRec (m.tagOf r.job e.key))).map
    (fun e => (m.tagOf r.job e.key, e))
  match leastBy (fun x y => y.1.lt x.1) c with
  | some (_, e) => m.setHeld r k e.a e.b
  | none => m.setHeld r k sa sb

/-- The machine whose held values of the first n ports of a node are rebuilt. -/
def portsRebuilt (m : Mach) (r : NRef) (toks : List Entry) (n : Nat) : Mach := (List.range n).foldl (rebuildPort r toks) m

theorem rebuildHeld_eq (r : NRef) (t : Tag) : m.rebuildHeld r (some t) =
    (m.portsRebuilt r (m.tokensOf r (m.firedBefore r t)) 8).setLast r ((m.firedBefore r t).foldl
      (fun l x => laterRec l ((m.portsRebuilt r (m.tokensOf r (m.firedBefore r t)) 8).tagOf r.job x.2.key))
      ((m.portsRebuilt r (m.tokensOf r (m.firedBefore r t)) 8).sft r)) := rfl

theorem rebuildPort_sets (toks : List Entry) (k : Nat) : ∃ a b, rebuildPort r toks m k = m.setHeld r k a b := by
  unfold rebuildPort
  dsimp only
  split <;> exact ⟨_, _, rfl⟩

/-- With no FIRED group earlier, the rebuilt value is the settled one. -/
theorem rebuildPort_settled (k : Nat) : rebuildPort r [] m k = m.setHeld r k (m.settled r k).1 (m.settled r k).2.1 := rfl

theorem portsRebuilt_succ (toks : List Entry) (n : Nat) : m.portsRebuilt r toks (n + 1) = rebuildPort r toks (m.portsRebuilt r toks n) n := by
  rw [portsRebuilt, List.range_succ, List.foldl_append, List.foldl_cons, List.foldl_nil, portsRebuilt]

theorem portsRebuilt_alters (clean : m.cleanMemory) (r : NRef) (toks : List Entry) :
    Alters m (m.portsRebuilt r toks 8) (m.stAddr r) (m.stAddr r + 128) := by
  refine Alters.foldl _ clean fun x k member alters => ?_
  obtain ⟨a, b, sets⟩ := rebuildPort_sets (m := x) (r := r) toks k
  have written := setHeld_alters alters.clean r (List.mem_range.mp member) a b
  rw [stAddr_of_stores alters.stores] at written
  exact sets ▸ written

theorem settled_of_alters (h : Alters m m' (m.stAddr r) (m.stAddr r + 128)) (k : Nat) : m'.settled r k = m.settled r k := by
  have word : ∀ i, m'.setlW r i = m.setlW r i := fun i => h.setlW (by omega)
  rw [settled, word, word, word, word, settled]

/-- With no FIRED group earlier, every held value rebuilt is the settled one. -/
theorem portsRebuilt_settled (clean : m.cleanMemory) (r : NRef) {n : Nat} (le : n ≤ 8) :
    Alters m (m.portsRebuilt r [] n) (m.stAddr r) (m.stAddr r + 128) ∧
      ∀ k < n, (m.portsRebuilt r [] n).held r k = ((m.settled r k).1, (m.settled r k).2.1) := by
  induction n with
  | zero => exact ⟨⟨rfl, clean, fun _ _ => rfl⟩, fun k hk => absurd hk (Nat.not_lt_zero k)⟩
  | succ n ih =>
    obtain ⟨alters, held⟩ := ih (by omega)
    rw [portsRebuilt_succ, rebuildPort_settled, settled_of_alters alters]
    have written := setHeld_alters alters.clean r (k := n) (by omega) (m.settled r n).1 (m.settled r n).2.1
    rw [stAddr_of_stores alters.stores] at written
    refine ⟨alters.trans written, fun k hk => ?_⟩
    rcases Nat.lt_succ_iff_lt_or_eq.mp hk with lt | rfl
    · exact (held_setHeld_ne alters.clean r (by omega) (by omega) (by omega) ..).trans (held k lt)
    · exact held_setHeld_self alters.clean r (by omega) ..

/-! What the steps of a rollback that write node memory keep of a node -/

/-- The record of a node and its settled record lie apart. -/
def Apart (m : Mach) (r : NRef) : Prop := m.stAddr r + 384 ≤ m.recAddr r ∨ m.recAddr r + 64 ≤ m.stAddr r

theorem Apart.of_stores (h : m.Apart r) (stores : m'.stores = m.stores) : m'.Apart r := by
  rwa [Apart, stAddr_of_stores stores, recAddr_of_stores stores]

/-- m' has the stores, the clean memory, the settled words and the state words of a node of m. -/
structure Rebuilds (m m' : Mach) (r : NRef) : Prop where
  stores : m'.stores = m.stores
  clean : m'.cleanMemory
  gen : m'.nGen r = m.nGen r
  settled : ∀ k < 32, m'.setlW r k = m.setlW r k
  state : ∀ w < 4, m'.recW r (4 + w) = m.recW r (4 + w)

theorem rebuildHeld_rebuilds (clean : m.cleanMemory) (apart : m.Apart r) (t : Tag) : Rebuilds m (m.rebuildHeld r (some t)) r := by
  rw [rebuildHeld_eq]
  have ports := portsRebuilt_alters clean r (m.tokensOf r (m.firedBefore r t))
  generalize m.portsRebuilt r (m.tokensOf r (m.firedBefore r t)) 8 = x at ports
  generalize (m.firedBefore r t).foldl _ _ = last
  have set := setLast_alters ports.clean r last
  rw [recAddr_of_stores ports.stores] at set
  have rec_x := recAddr_of_stores ports.stores r
  have st_x := stAddr_of_stores ports.stores r
  unfold Apart at apart
  refine ⟨set.stores.trans ports.stores, set.clean, (nGen_setLast ports.clean r last).trans ?_, fun k hk => ?_, fun w hw => ?_⟩
  · rw [nGen, ports.recW (by omega), nGen]
  · exact (set.setlW (by omega)).trans (ports.setlW (by omega))
  · exact (set.recW (by omega)).trans (ports.recW (by omega))

/-- With no FIRED group earlier, the last firing tag is the settled one, and so is every held value. -/
theorem rebuildHeld_settled (clean : m.cleanMemory) (apart : m.Apart r) {t : Tag} (none : m.firedBefore r t = []) :
    (m.rebuildHeld r (some t)).nLast r = m.sft r ∧
      ∀ k < 8, (m.rebuildHeld r (some t)).held r k = ((m.settled r k).1, (m.settled r k).2.1) := by
  rw [rebuildHeld_eq, none]
  obtain ⟨ports, held⟩ := portsRebuilt_settled clean r (le_refl 8)
  have tokens : m.tokensOf r [] = [] := rfl
  rw [tokens]
  generalize m.portsRebuilt r [] 8 = x at ports held
  have set := setLast_alters ports.clean r (x.sft r)
  rw [recAddr_of_stores ports.stores] at set
  have sft : x.sft r = m.sft r := by rw [Mach.sft, ports.setlW (by omega), ports.setlW (by omega), Mach.sft]
  unfold Apart at apart
  refine ⟨(nLast_setLast ports.clean r _).trans sft, fun k hk => ?_⟩
  have st_x := stAddr_of_stores ports.stores r
  have st_y := stAddr_of_stores set.stores r
  rw [← held k hk, Mach.held, Mach.held]
  simp only [List.foldl_nil]
  rw [st_y, st_x, set.word (by omega), set.word (by omega)]

end
end Mach
end Sys2Proof.Machine

namespace Sys2Proof.Machine
namespace Mach

section
variable {m m' m'' : Mach} {r : NRef}

theorem firedBefore_of_stores (h : m'.stores = m.stores) (r : NRef) (t : Tag) : m'.firedBefore r t = m.firedBefore r t := by
  simp [firedBefore, groupsOf_of_stores h, tagOf_of_stores h]

/-! Firings undone (R152, R154) -/

/-- The machine whose state words a rollback of a node has restored, latest firing first. -/
def stateRestored (m : Mach) (r : NRef) (k : Key) : Mach :=
  (sortBy (fun (x y : Nat × JEntry) => keyLt y.2.key x.2.key) (m.specHeads r k)).foldl (fun m e => m.restoreState r (m.jOf r e.2.key)) m

theorem undoFirings_eq (r : NRef) (k : Key) (t : Tag) : m.undoFirings r k t = (m.stateRestored r k).rebuildHeld r (some t) := rfl

theorem stateRestored_alters (clean : m.cleanMemory) (r : NRef) (k : Key) :
    Alters m (m.stateRestored r k) (m.recAddr r + 32) (m.recAddr r + 64) := by
  refine Alters.foldl _ clean fun x e _ alters => ?_
  have restored := restoreState_alters alters.clean r (x.jOf r e.2.key)
  rwa [recAddr_of_stores alters.stores] at restored

/-- A rollback that undoes one firing of one entry restores the state words of its undo image. -/
theorem stateRestored_one (clean : m.cleanMemory) {k : Key} {i : Nat} {h : JEntry} (one : m.specHeads r k = [(i, h)])
    (entry : m.jOf r h.key = [(i, h)]) (written : h.written = true) :
    (∀ w, (swWords (m.nSwmask r))[0]? = some w → (m.stateRestored r k).recW r (4 + w) = h.undo0) ∧
      (∀ w, (swWords (m.nSwmask r))[1]? = some w → (m.stateRestored r k).recW r (4 + w) = h.undo1) := by
  have restored : m.stateRestored r k = m.restoreState r [(i, h)] := by
    rw [stateRestored, one, sortBy_single, List.foldl_cons, List.foldl_nil, entry]
  rw [restored]
  exact restoreState_one clean written

/-- What undoing firings keeps of the node: its generation and the words of its settled record. -/
theorem undoFirings_keeps (clean : m.cleanMemory) (apart : m.Apart r) (k : Key) (t : Tag) :
    (m.undoFirings r k t).stores = m.stores ∧ (m.undoFirings r k t).cleanMemory ∧ (m.undoFirings r k t).nGen r = m.nGen r ∧
      ∀ i < 32, (m.undoFirings r k t).setlW r i = m.setlW r i := by
  have restored := stateRestored_alters clean r k
  have rebuilt := rebuildHeld_rebuilds restored.clean (apart.of_stores restored.stores) t
  rw [undoFirings_eq]
  unfold Apart at apart
  refine ⟨rebuilt.stores.trans restored.stores, rebuilt.clean, rebuilt.gen.trans ?_, fun i hi => (rebuilt.settled i hi).trans ?_⟩
  · rw [nGen, restored.recW (by omega), nGen]
  · exact restored.setlW (by omega)

theorem undoFirings_held (clean : m.cleanMemory) (apart : m.Apart r) (k : Key) {t : Tag} (none : m.firedBefore r t = []) :
    (m.undoFirings r k t).nLast r = m.sft r ∧
      ∀ i < 8, (m.undoFirings r k t).held r i = ((m.settled r i).1, (m.settled r i).2.1) := by
  have restored := stateRestored_alters clean r k
  have apart' := apart.of_stores restored.stores
  obtain ⟨last, held⟩ := rebuildHeld_settled restored.clean apart' ((firedBefore_of_stores restored.stores r t).trans none)
  unfold Apart at apart
  have word : ∀ i < 32, (m.stateRestored r k).setlW r i = m.setlW r i := fun i hi => restored.setlW (by omega)
  have sft : (m.stateRestored r k).sft r = m.sft r := by rw [Mach.sft, word 26 (by omega), word 27 (by omega), Mach.sft]
  refine ⟨last.trans sft, fun i hi => (held i hi).trans ?_⟩
  rw [settled, settled]
  dsimp only
  rw [word i (by omega), word (8 + i) (by omega)]

theorem undoFirings_state (clean : m.cleanMemory) (apart : m.Apart r) {k : Key} (t : Tag) {i : Nat} {h : JEntry}
    (one : m.specHeads r k = [(i, h)]) (entry : m.jOf r h.key = [(i, h)]) (written : h.written = true) :
    (∀ w, (swWords (m.nSwmask r))[0]? = some w → (m.undoFirings r k t).recW r (4 + w) = h.undo0) ∧
      (∀ w, (swWords (m.nSwmask r))[1]? = some w → (m.undoFirings r k t).recW r (4 + w) = h.undo1) := by
  have restored := stateRestored_alters clean r k
  have rebuilt := rebuildHeld_rebuilds restored.clean (apart.of_stores restored.stores) t
  obtain ⟨first, second⟩ := stateRestored_one clean one entry written
  exact ⟨fun w hw => (rebuilt.state w (swWords_getElem_lt hw)).trans (first w hw), fun w hw => (rebuilt.state w (swWords_getElem_lt hw)).trans (second w hw)⟩

/-! The rollback counted (R48, R158) -/

/-- The machine whose node has the next generation, a new window tag and a rollback count, and no pin. -/
def nodeCounted (m : Mach) (r : NRef) : Mach :=
  ((m.advanceGen r).setWt r ((m.advanceGen r).le r)).setPinRbc r false ((m.advanceGen r).rbc r + 1)

theorem words_of_mem (mem : m'.mem = m.mem) (jobs : m'.jobs = m.jobs) (r : NRef) :
    (∀ k, m'.recW r k = m.recW r k) ∧ (∀ k, m'.setlW r k = m.setlW r k) ∧ ∀ k, m'.held r k = m.held r k := by
  have index : m'.nodeIndex r = m.nodeIndex r := by rw [nodeIndex, job_of_jobs jobs, nodeIndex]
  have state : m'.stAddr r = m.stAddr r := by rw [stAddr, job_of_jobs jobs, index, stAddr]
  have record : m'.recAddr r = m.recAddr r := by rw [recAddr, job_of_jobs jobs, index, recAddr]
  exact ⟨fun k => by rw [recW, mem, record, recW], fun k => by rw [setlW, mem, state, setlW], fun k => by rw [held, mem, state, held]⟩

/-- What counting a rollback does to the node. -/
theorem nodeCounted_words (clean : m.cleanMemory) (apart : m.Apart r) (few : m.rbc r < 255) :
    (m.nodeCounted r).stores = m.stores ∧ (m.nodeCounted r).nGen r = m.nGen r + 1 ∧ (m.nodeCounted r).rbc r = m.rbc r + 1 ∧
      (m.nodeCounted r).nLast r = m.nLast r ∧ (∀ w < 4, (m.nodeCounted r).recW r (4 + w) = m.recW r (4 + w)) ∧
        ∀ k < 8, (m.nodeCounted r).held r k = m.held r k := by
  have gen := advanceGen_alters clean r
  have wt := setWt_alters gen.clean r ((m.advanceGen r).le r)
  have count := setPinRbc_alters wt.clean r false ((m.advanceGen r).rbc r + 1)
  have genRbc : (m.advanceGen r).rbc r = m.rbc r := by
    unfold Apart at apart
    rw [rbc, gen.setlW (by omega), rbc]
  have genValue := nGen_advanceGen clean r
  have genLast := nLast_advanceGen clean r
  have counted := rbc_setPinRbc wt.clean r (n := (m.advanceGen r).rbc r + 1) (by omega)
  change (m.nodeCounted r).rbc r = _ at counted
  change Alters _ (m.nodeCounted r) _ _ at count
  have st_gen := stAddr_of_stores gen.stores r
  have st_wt := stAddr_of_stores wt.stores r
  have rec_gen := recAddr_of_stores gen.stores r
  have rec_wt := recAddr_of_stores wt.stores r
  have st_count := stAddr_of_stores count.stores r
  unfold Apart at apart
  have record : ∀ k < 8, (m.nodeCounted r).recW r k = (m.advanceGen r).recW r k := fun k hk =>
    (count.recW (by omega)).trans (wt.recW (by omega))
  refine ⟨count.stores.trans (wt.stores.trans gen.stores), ?_, counted.trans (by rw [genRbc]), ?_, fun w hw => ?_, fun k hk => ?_⟩
  · rw [nGen, record 2 (by omega)]
    exact genValue
  · rw [nLast, record 1 (by omega), record 2 (by omega)]
    exact genLast
  · exact (record (4 + w) (by omega)).trans (gen.recW (by omega))
  · have word : ∀ a, m.stAddr r ≤ a → a + 8 ≤ m.stAddr r + 128 → memWord (m.nodeCounted r).mem a = memWord m.mem a := fun a h1 h2 =>
      (count.word (by omega)).trans ((wt.word (by omega)).trans (gen.word (by omega)))
    rw [held, st_count, st_wt, st_gen, word _ (by omega) (by omega), word _ (by omega) (by omega), held]

/-- Counting a rollback of a node with few of them pins nothing; the rest of it counts. -/
theorem countRollback_closes (clean : m.cleanMemory) (apart : m.Apart r) (few : m.rbc r < 127) (anti : Bool) (n : Nat) :
    Closes (m.nodeCounted r) (m.countRollback r anti n) r.pe := by
  have same : (m.advanceGen r).rbc r = m.rbc r := by
    unfold Apart at apart
    rw [rbc, (advanceGen_alters clean r).setlW (by omega), rbc]
  unfold countRollback
  dsimp only
  have less : decide (128 ≤ (m.advanceGen r).rbc r + 1) = false := decide_eq_false (by omega)
  rw [less, if_neg (show ¬(m.advanceGen r).rbc r + 1 = 128 by omega)]
  change Closes (m.nodeCounted r) (if anti = true then (((m.nodeCounted r).countJ 0x4500 r.job 0x01).undone r.job (peTile r.pe) n).countJ
    0x4500 r.job 0x02 else ((m.nodeCounted r).countJ 0x4500 r.job 0x01).undone r.job (peTile r.pe) n) r.pe
  split
  · exact ((Closes.countJ ..).trans (Closes.undone ..)).trans (Closes.countJ ..)
  · exact (Closes.countJ ..).trans (Closes.undone ..)

end
end Mach
end Sys2Proof.Machine

namespace Sys2Proof.Machine
namespace Mach

section
variable {m m' : Mach} {r : NRef} {k : Key}

/-! A rollback of a node that is not in Fire and has no safe firing (R152) -/

/-- The firings a rollback of a node undoes, by their heads, earliest first. -/
def undoneHeads (m : Mach) (r : NRef) (k : Key) : List (Nat × JEntry) :=
  sortBy (fun (x y : Nat × JEntry) => keyLt x.2.key y.2.key) (m.specHeads r k)

/-- The anti-tokens of the firings a rollback of a node undoes. -/
def undoneAntis (m : Mach) (r : NRef) (k : Key) : List (Token × Tag) :=
  (m.undoneHeads r k).flatMap (fun e => m.antisOf r (m.tagOf r.job e.2.key) (m.jOf r e.2.key))

/-- The machine whose firings of a node are undone and counted, with their anti-tokens in Emit. -/
def rollbackOpen (m : Mach) (r : NRef) (k : Key) (anti : Bool) : Mach :=
  ((m.undoFirings r k (m.tagOf r.job k)).countRollback r anti ((m.undoneHeads r k).length + b2n false)).queueAntis r (m.tagOf r.job k)
    (m.nGen r) (m.undoneAntis r k)

/-- The indices of the journal entries of a node's uncommitted speculative firings from a key on. -/
def journalGone (m : Mach) (r : NRef) (k : Key) : List Nat :=
  ((m.tile (peTile r.pe)).journal.filter (fun e => e.2.job == r.job && !e.2.fossil
    && e.2.node == node24 r.pe r.node && keyLe k e.2.key)).map (·.1)

/-- The machine whose journal a rollback of a node has freed of the entries undone. -/
def rollbackFreed (m : Mach) (r : NRef) (k : Key) : Mach :=
  (m.freeEntries (peTile r.pe) (m.journalGone r k)).countJ 0x4600 r.job 0x04 (m.journalGone r k).length

/-- The machine whose PE has the rollback sweep of a node before it. -/
def sweepAsked (m : Mach) (r : NRef) (k : Key) : Mach :=
  m.modPe r.pe (fun x => { x with sweeps := x.sweeps ++ [.rollback { job := r.job, node := r.node, key := k }] })

theorem rollbackFetch_clean (clean : m.cleanMemory) (path : m.hubPath (peTile r.pe) = true) (l : List (Nat × JEntry)) :
    m.rollbackFetch r l = (false, m) := by
  have fanout : m.fanFetch r = (false, m) := peFetch_clean clean path _
  unfold rollbackFetch
  simp only [journalRead_clean clean, ne_eq, not_true_eq_false, if_false, nodeFetch_clean clean path, settledFetch_clean clean path, fanout]

theorem rollback_eq (fire : m.inFire r = none) (sft : m.sft r = noTag) (few : m.rbc r < 127) (some : m.specHeads r k ≠ [])
    (clean : m.cleanMemory) (path : m.hubPath (peTile r.pe) = true) (anti : Bool)
    (unfiltered : (((m.rollbackOpen r k anti).discardPending r (m.tagOf r.job k)).rollbackFreed r k).filtered r = false) :
    m.rollback r k anti = (((m.rollbackOpen r k anti).discardPending r (m.tagOf r.job k)).rollbackFreed r k).sweepAsked r k := by
  have pin : decide (127 ≤ m.rbc r) = false := decide_eq_false (by omega)
  have fetched := fun l => rollbackFetch_clean (r := r) clean path l
  unfold rollback
  simp only [fire, sft, Option.filter_none, Bool.false_or, bne_self_eq_false, Bool.false_and, Bool.false_eq_true, if_false, Bool.not_false,
    List.filter_true, Option.isNone_none, true_and, pin, fetched, Option.isSome_none, if_neg some]
  exact congrArg (sweepAsked · r k) (if_neg fun h => Bool.false_ne_true (unfiltered.symm.trans h))

/-- No journal entry undone is left. -/
theorem rollbackFreed_journal (r : NRef) (k : Key) : ∀ e ∈ ((m.rollbackFreed r k).tile (peTile r.pe)).journal,
    ¬(e.2.job = r.job ∧ e.2.fossil = false ∧ e.2.node = node24 r.pe r.node ∧ keyLe k e.2.key = true) := by
  intro e he ⟨job, fossil, node, key⟩
  rw [rollbackFreed, tile_of_stores (countJ_stores ..), freeEntries_journal, List.mem_filter] at he
  obtain ⟨member, out⟩ := he
  have gone : e.1 ∈ m.journalGone r k := List.mem_map_of_mem (List.mem_filter.mpr ⟨member, by simp [job, fossil, node, key]⟩)
  rw [decide_eq_true gone] at out
  exact Bool.false_ne_true out

theorem rollbackFreed_closes (r : NRef) (k : Key) : Closes m (m.rollbackFreed r k) r.pe :=
  (Closes.freeEntries _).trans (Closes.countJ ..)

theorem Closes.filtered {r : NRef} (h : Closes m m' r.pe) : m'.filtered r = m.filtered r := by
  rw [Mach.filtered, h.filter, h.number, Mach.filtered]

theorem filtered_of_stores (h : m'.stores = m.stores) (r : NRef) : m'.filtered r = m.filtered r := by
  rw [filtered, tile_of_stores h, number_of_stores h, filtered]

/-- What the steps after the node memory is written leave as it is. -/
theorem rollbackDone_closes (clean : m.cleanMemory) (apart : m.Apart r) (few : m.rbc r < 127) (anti : Bool) :
    Closes ((m.undoFirings r k (m.tagOf r.job k)).nodeCounted r)
      (((m.rollbackOpen r k anti).discardPending r (m.tagOf r.job k)).rollbackFreed r k) r.pe := by
  obtain ⟨stores, clean', -, settled⟩ := undoFirings_keeps clean apart k (m.tagOf r.job k)
  have few' : (m.undoFirings r k (m.tagOf r.job k)).rbc r < 127 := by rwa [rbc, settled 27 (by omega)]
  exact (((countRollback_closes clean' (apart.of_stores stores) few' ..).trans (queueAntis_closes ..)).trans
    (Closes.discardPending _ rfl)).trans (rollbackFreed_closes ..)

/-- What a rollback of a node does. -/
structure RollsBack (m m' : Mach) (r : NRef) (k : Key) : Prop where
  rbq : (m'.tile (peTile r.pe)).rbq = (m.tile (peTile r.pe)).rbq
  sweeps : (m'.pe r.pe).sweeps = (m.pe r.pe).sweeps ++ [.rollback { job := r.job, node := r.node, key := k }]
  journal : ∀ e ∈ (m'.tile (peTile r.pe)).journal,
    ¬(e.2.job = r.job ∧ e.2.fossil = false ∧ e.2.node = node24 r.pe r.node ∧ keyLe k e.2.key = true)
  ctxs : (m'.pe r.pe).ctxs = (m.pe r.pe).ctxs
  gen : m'.nGen r = m.nGen r + 1
  count : m'.rbc r = m.rbc r + 1
  settled : m.firedBefore r (m.tagOf r.job k) = [] →
    m'.nLast r = m.sft r ∧ ∀ i < 8, m'.held r i = ((m.settled r i).1, (m.settled r i).2.1)
  state : ∀ i h, m.specHeads r k = [(i, h)] → m.jOf r h.key = [(i, h)] → h.written = true →
    (∀ w, (swWords (m.nSwmask r))[0]? = some w → m'.recW r (4 + w) = h.undo0) ∧
      ∀ w, (swWords (m.nSwmask r))[1]? = some w → m'.recW r (4 + w) = h.undo1
  antis : ∀ y ∈ m.undoneAntis r k, ∃ e ∈ (m'.pe r.pe).emitQ, e.kind = .antis (m.undoneAntis r k) ∧ e.job = r.job ∧ e.node = r.node

theorem rollback_rollsBack (fire : m.inFire r = none) (sft : m.sft r = noTag) (few : m.rbc r < 127) (some : m.specHeads r k ≠ [])
    (clean : m.cleanMemory) (path : m.hubPath (peTile r.pe) = true) (unfiltered : m.filtered r = false) (apart : m.Apart r)
    (anti : Bool) : RollsBack m (m.rollback r k anti) r k := by
  obtain ⟨stores, clean', gen, settled⟩ := undoFirings_keeps clean apart k (m.tagOf r.job k)
  have rbcKept : (m.undoFirings r k (m.tagOf r.job k)).rbc r = m.rbc r := by rw [rbc, settled 27 (by omega), rbc]
  obtain ⟨stores', gen', count', last', record', held'⟩ := nodeCounted_words clean' (apart.of_stores stores) (by omega)
  have closes := rollbackDone_closes (k := k) clean apart few anti
  have queued : ∀ y ∈ m.undoneAntis r k, ∃ e ∈ ((((m.rollbackOpen r k anti).discardPending r (m.tagOf r.job k)).rollbackFreed r k).pe r.pe).emitQ,
      e.kind = .antis (m.undoneAntis r k) ∧ e.job = r.job ∧ e.node = r.node := fun y hy => by
    obtain ⟨e, member, fields⟩ := queueAntis_holds (r := r) (t := m.tagOf r.job k) (gen := m.nGen r) hy
    exact ⟨e, ((Closes.discardPending (m.tagOf r.job k) rfl).trans (rollbackFreed_closes r k)).emits e member, fields⟩
  have freed := rollbackFreed_journal (m := (m.rollbackOpen r k anti).discardPending r (m.tagOf r.job k)) r k
  have all := stores'.trans stores
  rw [rollback_eq fire sft few some clean path anti (closes.filtered.trans ((filtered_of_stores all r).trans unfiltered))]
  generalize ((m.rollbackOpen r k anti).discardPending r (m.tagOf r.job k)).rollbackFreed r k = n at closes queued freed
  obtain ⟨words, settledWords, heldWords⟩ := words_of_mem closes.mem closes.jobs r
  have asked : (n.sweepAsked r k).pe r.pe = { n.pe r.pe with sweeps := (n.pe r.pe).sweeps ++ [.rollback { job := r.job, node := r.node, key := k }] } :=
    n.pe_modPe r.pe _
  have pe := pe_of_stores all r.pe
  have tile := tile_of_stores all (peTile r.pe)
  have record : ∀ i, (n.sweepAsked r k).recW r i = _ := words
  have heldAll : ∀ i, (n.sweepAsked r k).held r i = _ := heldWords
  refine ⟨?_, ?_, freed, ?_, ?_, ?_, fun none => ⟨?_, fun i hi => ?_⟩, fun i h one entry written => ?_, ?_⟩
  · exact closes.rbq.trans (by rw [tile])
  · rw [asked, closes.sweeps, pe]
  · rw [asked, closes.ctxs, pe]
  · rw [nGen, record]
    exact gen'.trans (by rw [gen])
  · have word : (n.sweepAsked r k).setlW r 27 = _ := settledWords 27
    rw [rbc, word]
    exact count'.trans (by rw [rbcKept])
  · rw [nLast, record, record]
    exact last'.trans (undoFirings_held clean apart k none).1
  · exact (heldAll i).trans ((held' i hi).trans ((undoFirings_held clean apart k none).2 i hi))
  · obtain ⟨first, second⟩ := undoFirings_state clean apart (m.tagOf r.job k) one entry written
    exact ⟨fun w hw => (record _).trans ((record' w (swWords_getElem_lt hw)).trans (first w hw)),
      fun w hw => (record _).trans ((record' w (swWords_getElem_lt hw)).trans (second w hw))⟩
  · rw [asked]
    exact queued

end
end Mach
end Sys2Proof.Machine

namespace Sys2Proof.Machine
namespace Mach

section
variable {m : Mach} {t : TileId} {q : RbReq} {rest : List RbReq} {r : NRef}

/-! A tile takes its next rollback request (R152, R153) -/

/-- The machine whose tile has taken its oldest rollback request. -/
def rbTaken (m : Mach) (t : TileId) (rest : List RbReq) : Mach := m.modTile t (fun x => { x with rbq := rest })

/-- Taking a request leaves every other field of a tile. -/
theorem rbTaken_tile {β : Type} (φ : Tile → β) (hφ : ∀ x l, φ { x with rbq := l } = φ x) (t u : TileId) (rest : List RbReq) :
    φ ((m.rbTaken t rest).tile u) = φ (m.tile u) :=
  m.tile_modTile_field φ t u _ (hφ _ _)

theorem rbTaken_rbq (t : TileId) (rest : List RbReq) : ((m.rbTaken t rest).tile t).rbq = rest := by rw [rbTaken, tile_modTile]

/-- The oldest request starts where it is ready. -/
theorem rollbackStep_eq (oldest : (m.tile t).rbq = q :: rest) (ready : m.rbReady q = true) (live : m.live q.job = true) :
    m.rollbackStep t = (m.rbTaken t rest).rollback ⟨q.job, nodePe q.node, nodeLocal q.node⟩ q.key q.anti := by
  have next : m.nextRb t = some q := by simp [nextRb, oldest, ready]
  have taken : m.modTile t (fun x => { x with rbq := removeFirst (· == q) x.rbq }) = m.rbTaken t rest := by
    unfold rbTaken modTile
    simp only [oldest, removeFirst, BEq.rfl, if_true]
  have lives : (m.rbTaken t rest).live q.job = true := live
  unfold rollbackStep
  rw [next]
  dsimp only
  rw [taken, lives]
  rfl

theorem rbTaken_specHeads (t : TileId) (rest : List RbReq) (k : Key) : (m.rbTaken t rest).specHeads r k = m.specHeads r k := by
  rw [specHeads, rbTaken_tile (·.journal) (fun _ _ => rfl), specHeads]

theorem rbTaken_jOf (t : TileId) (rest : List RbReq) (k : Key) : (m.rbTaken t rest).jOf r k = m.jOf r k := by
  rw [jOf, rbTaken_tile (·.journal) (fun _ _ => rfl), jOf]

theorem rbTaken_filtered (t : TileId) (rest : List RbReq) : (m.rbTaken t rest).filtered r = m.filtered r := by
  rw [filtered, rbTaken_tile (·.filter) (fun _ _ => rfl), filtered]
  rfl

theorem rbTaken_level (t : TileId) (rest : List RbReq) (p : PeId) (pl : Place) : (m.rbTaken t rest).level p pl = m.level p pl := by
  cases pl with
  | iris => rfl
  | mob => rfl
  | deep => exact rbTaken_tile (fun x => x.deep ++ deepQEnts x) (fun _ _ => rfl) ..

theorem rbTaken_firedBefore (t : TileId) (rest : List RbReq) (g : Tag) : (m.rbTaken t rest).firedBefore r g = m.firedBefore r g := by
  have groups := groupsOf_of_level (rbTaken_level (m := m) t rest r.pe) r.job r.node
  exact congrArg (List.filter _) groups

/-- The anti-token of an arc of an emission undone is one of the rollback's. -/
theorem mem_undoneAntis {k : Key} {h x : Nat × JEntry} {i : Nat} {w : Word} (undone : h ∈ m.specHeads r k) (entry : x ∈ m.jOf r h.2.key)
    (port : i < 8) (named : x.2.emask.getLsbD i = true) (arc : w ∈ m.arcs r i) : ∃ y ∈ m.undoneAntis r k, y.1.kind = 1 ∧
      y.1.gen = x.2.gen ∧ y.1.job = r.job ∧ y.1.port = w.extractLsb' 40 3 ∧ y.1.nodeId = w.truncate 40 ∧ y.1.w2 = 0 ∧ y.1.w3 = 0 ∧
        y.2 = slotTarget (m.tagOf r.job h.2.key) x.2.eoff := by
  obtain ⟨y, member, fields⟩ := mem_antisOf (t := m.tagOf r.job h.2.key) entry port named arc
  exact ⟨y, List.mem_flatMap.mpr ⟨h, mem_sortBy.mpr undone, member⟩, fields⟩

end
end Mach
end Sys2Proof.Machine

section
open Sys2Proof Sys2Proof.Machine

/-- The rollback of O40. -/
theorem rollbackUndoesFirings : Claim.RollbackUndoesFirings := by
  intro s t q rest r oldest ready live tile fire clean path sft few unfiltered some apart earlier
  have does : Mach.RollsBack (s.m.rbTaken t rest) ((s.m.rbTaken t rest).rollback r q.key q.anti) r q.key :=
    Mach.rollback_rollsBack (m := s.m.rbTaken t rest) fire sft few (by rwa [Mach.rbTaken_specHeads]) clean (tile ▸ path)
      ((Mach.rbTaken_filtered t rest).trans unfiltered) apart q.anti
  refine ⟨_, rfl, ?_⟩
  dsimp only
  rw [Mach.rollbackStep_eq oldest ready live]
  obtain ⟨rbq, sweeps, journal, ctxs, gen, count, settled, state, antis⟩ := does
  rw [tile] at rbq journal
  refine ⟨rbq.trans (Mach.rbTaken_rbq t rest), sweeps, journal, ctxs, gen, count, fun none => ?_, fun i h one entry written => ?_, ?_⟩
  · obtain ⟨last, held⟩ := settled ((Mach.rbTaken_firedBefore t rest _).trans none)
    exact ⟨last.trans sft, held⟩
  · exact state i h ((Mach.rbTaken_specHeads t rest _).trans one) ((Mach.rbTaken_jOf t rest _).trans entry) written
  · intro h undone x entry k port named w arc
    have undone' : h ∈ (s.m.rbTaken t rest).specHeads r q.key := by rwa [Mach.rbTaken_specHeads]
    have entry' : x ∈ (s.m.rbTaken t rest).jOf r h.2.key := by rwa [Mach.rbTaken_jOf]
    have arc' : w ∈ (s.m.rbTaken t rest).arcs r k := arc
    obtain ⟨y, member, fields⟩ := Mach.mem_undoneAntis undone' entry' port named arc'
    obtain ⟨e, queued, kind, job, node⟩ := antis y member
    exact ⟨e, queued, _, kind, job, node, y, member, fields⟩

/-- Settles O40, by its four parts. -/
theorem rollbackAndSweeps : Obligations.RollbackAndSweeps :=
  ⟨rollbackUndoesFirings, sweepsFreeOrReturnGroups, fossilsAndTheStoreWriter, rescanTakesLeastTags⟩

end

namespace Sys2Proof.Machine
namespace Mach

/-! The level of a tag (R83) -/

section
variable {tag sh : Tag} {w : Nat}

/-- A tag below the Safe Horizon has level 0. -/
theorem readyLevel_below (below : tag.lt sh = true) : readyLevel tag sh w = (0, false) := if_pos below

/-- At or above the Safe Horizon the level is the first whose bound lies beyond the tag's distance. -/
theorem readyLevel_first (above : tag.lt sh = false) {k : Nat} (pos : 1 ≤ k) (le : k ≤ 7)
    (near : tag.time.toNat - sh.time.toNat < (2 ^ k - 1) * w)
    (past : ∀ i, 1 ≤ i → i < k → (2 ^ i - 1) * w ≤ tag.time.toNat - sh.time.toNat) :
    readyLevel tag sh w = (BitVec.ofNat 3 k, false) := by
  obtain ⟨n, rfl⟩ := Nat.exists_eq_add_of_le' pos
  have first : (List.range 7).find? (fun k => decide (tag.time.toNat - sh.time.toNat < (2 ^ (k + 1) - 1) * w)) = some n := by
    rw [List.find?_range_eq_some]
    refine ⟨decide_eq_true near, List.mem_range.mpr (by omega), fun i hi => ?_⟩
    simpa using past (i + 1) (by omega) (by omega)
  unfold readyLevel
  rw [if_neg (by simp [above])]
  dsimp only
  rw [first]

/-- A distance past the bound of every level is FAR. -/
theorem readyLevel_far (above : tag.lt sh = false) (past : 127 * w ≤ tag.time.toNat - sh.time.toNat) :
    readyLevel tag sh w = (7, true) := by
  have none : (List.range 7).find? (fun k => decide (tag.time.toNat - sh.time.toNat < (2 ^ (k + 1) - 1) * w)) = none := by
    rw [List.find?_eq_none]
    intro k hk
    have bound : 2 ^ (k + 1) ≤ 2 ^ 7 := Nat.pow_le_pow_right (by decide) (List.mem_range.mp hk)
    have := Nat.mul_le_mul_right w (show 2 ^ (k + 1) - 1 ≤ 127 by omega)
    simpa using this.trans past
  unfold readyLevel
  rw [if_neg (by simp [above])]
  dsimp only
  rw [none]

end

section
variable {m : Mach} {p q : PeId} {pl : Place} {g : GRef}

/-! What a change of a group's fields leaves of the PEs -/

theorem storeEnt_pe_field {β : Type} (φ : Pe → β) (hφ : ∀ x l, φ { x with iris := l } = φ x) (i : Nat) (e : Entry) :
    φ ((m.storeEnt p pl i e).pe q) = φ (m.pe q) := by
  cases pl with
  | iris => exact m.pe_modPe_field φ p q (fun x => { x with iris := SMap.set x.iris i e }) (hφ _ _)
  | mob => rfl
  | deep =>
    unfold storeEnt
    dsimp only
    split
    · have req : ∀ n : Mach, (n.deepReq p i e.job).pe q = n.pe q := fun _ => rfl
      rw [req, pe_of_stores (hbmWords_stores ..)]
      rfl
    · rfl

theorem modHead_pe_field {β : Type} (φ : Pe → β) (hφ : ∀ x l, φ { x with iris := l } = φ x) (f : Entry → Entry) :
    φ ((m.modHead p pl g f).pe q) = φ (m.pe q) := by
  unfold modHead
  split
  · rw [pe_of_stores (putWords_stores ..)]
    exact storeEnt_pe_field φ hφ _ _
  · rfl

/-! A descriptor inserted (R82, R85) -/

/-- The descriptor that Ready writes for a group whose head lies at an index of its level (Table 4-5). -/
def newDesc (m : Mach) (p : PeId) (pl : Place) (g : GRef) (i : Nat) : Desc :=
  { job := g.job, level := (m.levelOf p g.job g.key).1, far := (m.levelOf p g.job g.key).2, outcome := m.outcome p pl g, place := pl,
    jneed := m.jneed (g.nref p) (m.outcome p pl g), index := if pl = .deep then 0 else BitVec.ofNat 11 i, node := g.node,
    seq := (m.pe p).seq, key := g.key, cid := g.cid }

/-- The machine whose Ready has written the descriptor of a group at a position of its pool. -/
def descWritten (m : Mach) (p : PeId) (pl : Place) (g : GRef) (i k : Nat) : Mach :=
  m.setPe p { m.pe p with pool := SMap.set (m.pe p).pool k (m.newDesc p pl g i), seq := (m.pe p).seq + 1 }

/-- A group gets its descriptor on a free general position, and is counted where it is FAR. -/
theorem insertDesc_general {k : Nat} (free : generalPos (m.pe p) = some k) (i : Nat) : ∃ n : Mach,
    m.insertDesc p pl g i = some (n.setGState p pl g .presented) ∧ n.stores = (m.descWritten p pl g i k).stores := by
  unfold insertDesc takePos
  dsimp only
  rw [free]
  refine ⟨_, rfl, ?_⟩
  rw [ite_stores, countJ_stores, ite_self]
  rfl

/-- Ready inserts the descriptor of its oldest presentation where a general position is free. -/
theorem descriptorInsert_general {rest : List GRef} {i k : Nat} {h : Entry} (oldest : (m.pe p).readyQ = g :: rest)
    (found : m.findGroup p g = some pl) (head : m.headOf p pl g = some (i, h)) (waits : h.gstate = .waiting)
    (ready : m.groupReady p pl g = true) (free : generalPos (m.pe p) = some k) : ∃ d : Desc,
      ((m.descriptorInsert p).pe p).readyQ = rest ∧ ((m.descriptorInsert p).pe p).seq = (m.pe p).seq + 1 ∧
      SMap.get? ((m.descriptorInsert p).pe p).pool k = some d ∧ descRef d = g ∧ d.seq = (m.pe p).seq ∧
      (d.level, d.far) = m.levelOf p g.job g.key := by
  have taken : (m.setPe p { m.pe p with readyQ := rest }).pe p = { m.pe p with readyQ := rest } := m.pe_setPe p _
  obtain ⟨n, inserted, stores⟩ :=
    insertDesc_general (m := m.setPe p { m.pe p with readyQ := rest }) (pl := pl) (g := g) (by rw [taken]; exact free) i
  have done : m.descriptorInsert p = (n.setGState p pl g .presented).modPe p (fun x => { x with bpCycles := 0 }) := by
    unfold descriptorInsert
    dsimp only
    rw [oldest]
    simp only [found, head, waits, ready, bne_self_eq_false, Bool.not_true, Bool.or_self, Bool.false_eq_true, if_false, inserted]
  have pe := (pe_of_stores stores p).trans (pe_setPe ..)
  have field : ∀ {β : Type} (φ : Pe → β), (∀ x l, φ { x with iris := l } = φ x) → (∀ x k, φ { x with bpCycles := k } = φ x) →
      φ ((m.descriptorInsert p).pe p) = φ (n.pe p) := fun φ iris cycles => by
    rw [done, pe_modPe, cycles]
    exact modHead_pe_field φ iris _
  refine ⟨(m.setPe p { m.pe p with readyQ := rest }).newDesc p pl g i, ?_, ?_, ?_, rfl, (congrArg Pe.seq taken).trans rfl, rfl⟩
  · rw [field (·.readyQ) (fun _ _ => rfl) (fun _ _ => rfl), pe, taken]
  · rw [field (·.seq) (fun _ _ => rfl) (fun _ _ => rfl), pe, taken]
  · rw [field (·.pool) (fun _ _ => rfl) (fun _ _ => rfl), pe, SMap.get?_set_self]

/-- A sweep gives every descriptor of its job the level of its tag (R84). -/
theorem descriptorSweep_pool (j : JobId) : ((m.descriptorSweep p j).pe p).pool = (m.pe p).pool.map (fun (k, d) =>
    if d.job = j then (k, { d with level := (m.levelOf p j d.key).1, far := (m.levelOf p j d.key).2 }) else (k, d)) := by
  rw [descriptorSweep, pe_modPe]

end
end Mach
end Sys2Proof.Machine

section
open Sys2Proof Sys2Proof.Machine

/-- The descriptors of O33. -/
theorem descriptorsTakeLevels : Claim.DescriptorsTakeTheirLevels := by
  refine ⟨?_, ?_⟩
  · intro s p g rest pl i k h oldest found head waits ready free
    obtain ⟨d, inserted⟩ := Mach.descriptorInsert_general oldest found head waits ready free
    exact ⟨_, d, rfl, inserted⟩
  · intro s p j
    exact ⟨_, rfl, Mach.descriptorSweep_pool j⟩

/-- The levels of O33. -/
theorem levelOfATag : Claim.LevelOfATag := by
  intro tag sh w
  refine ⟨Mach.readyLevel_below, ?_, Mach.readyLevel_far⟩
  intro above k pos le near past
  exact Mach.readyLevel_first above pos le near past

/-- Settles O33, by its two parts. -/
theorem descriptorsTakeTheirLevels : Obligations.DescriptorsTakeTheirLevels := ⟨descriptorsTakeLevels, levelOfATag⟩

end

namespace Sys2Proof.Machine

/-! Tokens that end at a stop (R215, R217, R218) -/

section
variable {stop : BitVec 5} (h : stop.toNat < 18) (s : State) (die : BitVec 2)
include h

theorem exec_token : exec (.token die stop) s = .next { s with m := s.m.takeTokens die stop 0 0x01 } := by
  show Host.Outcome.next { s with m := s.m.takeTokens die (theStop stop) 0 0x01 } = _
  rw [theStop_of_lt h]

theorem exec_tokenMc : exec (.tokenMc die stop) s = .next { s with m := s.m.takeTokens die stop 0 0x02 } := by
  show Host.Outcome.next { s with m := s.m.takeTokens die (theStop stop) 0 0x02 } = _
  rw [theStop_of_lt h]

theorem exec_anti : exec (.anti die stop) s = .next { s with m := s.m.takeTokens die stop 1 0x03 } := by
  show Host.Outcome.next { s with m := s.m.takeTokens die (theStop stop) 1 0x03 } = _
  rw [theStop_of_lt h]

theorem exec_antiMc : exec (.antiMc die stop) s = .next { s with m := s.m.takeTokens die stop 1 0x04 } := by
  show Host.Outcome.next { s with m := s.m.takeTokens die (theStop stop) 1 0x04 } = _
  rw [theStop_of_lt h]

theorem exec_control : exec (.control die stop) s = .next { s with m := s.m.takeTokens die stop 1 0x05 } := by
  show Host.Outcome.next { s with m := s.m.takeTokens die (theStop stop) 1 0x05 } = _
  rw [theStop_of_lt h]

end

namespace Mach

section
variable {m : Mach} {die : BitVec 2} {s : BitVec 5} {vc : BitVec 2} {cmd : BitVec 6} {x : QPkt} {rest : List QPkt}

@[simp] theorem pe_setQueue (q : Nat) (l : List QPkt) (p : PeId) : (m.setQueue q l).pe p = m.pe p := rfl

/-- A packet leaves its ejection queue with an arrival pushed into the Receive FIFO of a PE. -/
structure Delivers (m m' : Mach) (q : Nat) (rest : List QPkt) (p : PeId) (it : Item) : Prop where
  queue : m'.queue q = rest
  fifo : (m'.pe p).fifo = (m.pe p).fifo ++ [it]

theorem Delivers.of_push (q : Nat) (rest : List QPkt) (p : PeId) (it : Item) (w : Nat) : Delivers m
    ((m.setPe p { m.pe p with fifo := (m.pe p).fifo ++ [it], ringWins := w }).setQueue q rest) q rest p it :=
  ⟨queue_setQueue .., by rw [pe_setQueue, pe_setPe]⟩

section
variable (queue : m.queue (qEj die s vc) = x :: rest) (named : x.pkt.h.cmd = cmd)
include queue named

/-- The token of a packet of one goes into the Receive FIFO of its PE, where that has a credit and its own Route has not the turn (R76). -/
theorem takeTokens_one (single : x.pkt.h.mc = false) (room : (m.pe (pktToken x.pkt).pe).fifo.length < 8)
    (turn : (m.pe (pktToken x.pkt).pe).ringWins ≠ 3) : Delivers m (m.takeTokens die s vc cmd) (qEj die s vc) rest (pktToken x.pkt).pe
      ⟨pktToken x.pkt, x.pkt.h.src, x.pkt.h.arg.truncate 14⟩ := by
  obtain ⟨w, pushed⟩ := pushFifo_ring (it := ⟨pktToken x.pkt, x.pkt.h.src, x.pkt.h.arg.truncate 14⟩) room turn
  unfold takeTokens
  dsimp only
  rw [queue]
  dsimp only
  rw [if_neg (not_not.mpr named), single, if_neg Bool.false_ne_true, pushed]
  exact .of_push ..

/-- A multicast packet with one destination entry for the tile delivers that entry's token (R217, R218). -/
theorem takeTokens_multicast {e : Word} (multi : x.pkt.h.mc = true)
    (mine : (mcEntries x.pkt).filter (fun w => peDie (mcToken x.pkt w).pe == die && peStop (mcToken x.pkt w).pe == s) = [e])
    (room : (m.pe (mcToken x.pkt e).pe).fifo.length < 8) (turn : (m.pe (mcToken x.pkt e).pe).ringWins ≠ 3) :
    Delivers m (m.takeTokens die s vc cmd) (qEj die s vc) rest (mcToken x.pkt e).pe
      ⟨mcToken x.pkt e, x.pkt.h.src, e.extractLsb' 43 14⟩ := by
  obtain ⟨w, pushed⟩ := pushFifo_ring (it := ⟨mcToken x.pkt e, x.pkt.h.src, e.extractLsb' 43 14⟩) room turn
  unfold takeTokens
  dsimp only
  rw [queue]
  dsimp only
  rw [if_neg (not_not.mpr named), if_pos multi, mine, List.foldl_cons, List.foldl_nil]
  dsimp only
  rw [pushed]
  dsimp only
  rw [if_pos rfl]
  exact .of_push ..

end
end
end Mach
end Sys2Proof.Machine

section
open Sys2Proof Sys2Proof.Machine

/-- The packets of one token of O25. -/
theorem singleTokensReachTheReceiveFifo : Claim.TokenPacketsReachTheReceiveFifo := by
  intro s die stop vc cmd x rest hs queue named single room turn reaches
  have taken : reaches (.next { s with m := s.m.takeTokens die stop vc cmd }) :=
    have delivers := Mach.takeTokens_one queue named single room turn
    ⟨_, rfl, delivers.queue, delivers.fifo⟩
  refine ⟨?_, ?_, ?_⟩
  · rintro rfl rfl
    exact (exec_token hs s die).symm ▸ taken
  · rintro rfl rfl
    exact (exec_anti hs s die).symm ▸ taken
  · rintro rfl rfl
    exact (exec_control hs s die).symm ▸ taken

/-- The multicast packets of O25. -/
theorem multicastTokensReachTheReceiveFifo : Claim.MulticastPacketsReachTheReceiveFifo := by
  intro s die stop vc cmd x rest e hs queue named multi mine room turn reaches
  have taken : reaches (.next { s with m := s.m.takeTokens die stop vc cmd }) :=
    have delivers := Mach.takeTokens_multicast queue named multi mine room turn
    ⟨_, rfl, delivers.queue, delivers.fifo⟩
  refine ⟨?_, ?_⟩
  · rintro rfl rfl
    exact (exec_tokenMc hs s die).symm ▸ taken
  · rintro rfl rfl
    exact (exec_antiMc hs s die).symm ▸ taken

/-- Settles O25, by its two parts. -/
theorem tokenPacketsReachTheReceiveFifo : Obligations.TokenPacketsReachTheReceiveFifo :=
  ⟨singleTokensReachTheReceiveFifo, multicastTokensReachTheReceiveFifo⟩

end

namespace Sys2Proof.Machine

/-! The tag fields of the settled record (Table 12-6) -/

theorem getLsbD_at64 (v : Nat) {sh i : Nat} (inside : sh + i < 64) : (at64 v sh).getLsbD (sh + i) = v.testBit i := by
  rw [at64, BitVec.getLsbD_ofNat, Nat.testBit_mul_two_pow]
  simp [inside]

/-- A field of 12 bits put into a word is read back from it. -/
theorem extractLsb'_field (w : Word) (d : BitVec 12) {sh : Nat} (fits : sh + 12 ≤ 64) :
    ((w &&& ~~~(at64 0xFFF sh)) ||| at64 d.toNat sh).extractLsb' sh 12 = d := by
  refine BitVec.eq_of_getLsbD_eq fun i hi => ?_
  have mask : (0xFFF : Nat).testBit i = true := by
    rw [show (0xFFF : Nat) = 2 ^ 12 - 1 from rfl, Nat.testBit_two_pow_sub_one]
    exact decide_eq_true hi
  have inside : sh + i < 64 := by omega
  rw [BitVec.getLsbD_extractLsb', BitVec.getLsbD_or, BitVec.getLsbD_and, BitVec.getLsbD_not, getLsbD_at64 _ inside, getLsbD_at64 _ inside, mask]
  simp [hi, BitVec.getLsbD]

namespace Mach

section
variable {m m' : Mach} {r : NRef}

/-- Settled values and tags are read from the first 26 words of the settled record. -/
theorem settled_of_setlW {k : Nat} (hk : k < 8) (h : ∀ i < 26, m'.setlW r i = m.setlW r i) : m'.settled r k = m.settled r k := by
  rw [settled, settled, h k (by omega), h (8 + k) (by omega), h (16 + k) (by omega), h _ (by split <;> omega)]

theorem held_of_alters {lo hi k : Nat} (h : Alters m m' lo hi) (hk : k < 8) (out : m.stAddr r + 128 ≤ lo ∨ hi ≤ m.stAddr r) :
    m'.held r k = m.held r k := by
  rw [held, stAddr_of_stores h.stores, h.word (by omega), h.word (by omega), held]

theorem sft_of_setlW (h : ∀ i < 32, m'.setlW r i = m.setlW r i) : m'.sft r = m.sft r := by
  rw [sft, h 26 (by omega), h 27 (by omega), sft]

/-- What keeps the stores, the memory and its flaws alters no byte. -/
theorem Alters.of_keeps (clean : m.cleanMemory) (stores : m'.stores = m.stores) (ms : m'.ms = m.ms) (mem : m'.mem = m.mem) :
    Alters m m' 0 0 := by
  refine ⟨stores, ?_, fun _ _ => by rw [mem]⟩
  rw [cleanMemory, ms, mem]
  exact clean

section
variable (clean : m.cleanMemory)
include clean

theorem countJ_alters (b : Nat) (j : JobId) (k n : Nat) : Alters m (m.countJ b j k n) 0 0 := by
  unfold countJ
  split
  · exact alters_refl clean
  · exact count_alters clean ..

/-! Settled values and the settled firing tag (R154) -/

theorem setlW_setSetlW_ne (r : NRef) {k i : Nat} (ne : i ≠ k) (v : Word) : (m.setSetlW r k [v]).setlW r i = m.setlW r i := by
  have h := setSetlW_alters clean r k [v]
  simp only [List.length_singleton] at h
  exact h.setlW (by omega)

theorem setSettled_alters (r : NRef) {k : Nat} (hk : k < 8) (a b : Word) (t : Tag) :
    Alters m (m.setSettled r k a b t) (m.stAddr r + 128) (m.stAddr r + 336) := by
  have word : ∀ {x : Mach}, Alters m x (m.stAddr r + 128) (m.stAddr r + 336) → ∀ {i : Nat}, i < 26 → ∀ v,
      Alters m (x.setSetlW r i [v]) (m.stAddr r + 128) (m.stAddr r + 336) := fun {x} h {i} hi v => by
    have := setSetlW_alters h.clean r i [v]
    rw [stAddr_of_stores h.stores, List.length_singleton] at this
    exact h.trans (this.mono (by omega) (by omega))
  exact word (word (word (word (alters_refl clean).nothing (by omega) _) (by omega) _) (by omega) _) (by split <;> omega) _

theorem settled_setSettled (r : NRef) {k : Nat} (hk : k < 8) (a b : Word) (t : Tag) :
    (m.setSettled r k a b t).settled r k = (a, b, t) := by
  obtain ⟨d, hd, low⟩ : ∃ d, (if k < 4 then 24 else 25) = d ∧ 24 ≤ d := ⟨_, rfl, by split <;> omega⟩
  have cleanA := (setSetlW_alters clean r k [a]).clean
  have cleanB := (setSetlW_alters cleanA r (8 + k) [b]).clean
  have cleanT := (setSetlW_alters cleanB r (16 + k) [t.time]).clean
  unfold settled setSettled
  simp only [hd]
  rw [setlW_setSetlW_one cleanT, extractLsb'_field _ _ (by omega),
    setlW_setSetlW_ne cleanT r (by omega), setlW_setSetlW_ne cleanB r (by omega), setlW_setSetlW_ne cleanA r (by omega), setlW_setSetlW_one clean,
    setlW_setSetlW_ne cleanT r (by omega), setlW_setSetlW_ne cleanB r (by omega), setlW_setSetlW_one cleanA,
    setlW_setSetlW_ne cleanT r (by omega), setlW_setSetlW_one cleanB]

theorem setlW_setSetlW_two (r : NRef) (k : Nat) (v w : Word) :
    (m.setSetlW r k [v, w]).setlW r k = v ∧ (m.setSetlW r k [v, w]).setlW r (k + 1) = w := by
  have len : ∀ u : Word, (natBytes 8 u.toNat).length = 8 := fun u => natBytes_length 8 _
  have written : ∀ {i : Nat} (hi : i < (natBytes 8 v.toNat ++ natBytes 8 w.toNat).length),
      memGet (m.setSetlW r k [v, w]).mem (m.stAddr r + 128 + 8 * k + i) = (natBytes 8 v.toNat ++ natBytes 8 w.toNat)[i] := fun hi => by
    simpa [setSetlW] using memGet_hbmWrite clean (m.stAddr r + 128 + 8 * k) (natBytes 8 v.toNat ++ natBytes 8 w.toNat) hi
  rw [setlW, setlW, stAddr_of_stores (setSetlW_stores ..)]
  refine ⟨memWord_of_get fun i hi => ?_, memWord_of_get fun i hi => ?_⟩
  · rw [written (by rw [List.length_append]; omega), List.getElem_append_left hi]
  · have := written (i := 8 + i) (by rw [List.length_append, len]; omega)
    rw [List.getElem_append_right (by rw [len]; omega)] at this
    simp only [len, Nat.add_sub_cancel_left] at this
    rw [← this, ← Nat.add_assoc, Nat.mul_succ, ← Nat.add_assoc]

theorem setSft_alters (r : NRef) (t : Tag) : Alters m (m.setSft r t) (m.stAddr r + 336) (m.stAddr r + 352) :=
  setSetlW_alters clean r 26 [_, _]

theorem sft_setSft (r : NRef) (t : Tag) : (m.setSft r t).sft r = t := by
  obtain ⟨time, delta⟩ := setlW_setSetlW_two clean r 26 t.time ((m.setlW r 27 &&& ~~~0xFFF) ||| at64 t.delta.toNat 0)
  rw [sft, setSft, time, delta]
  exact congrArg (Tag.mk t.time) ((BitVec.setWidth_eq_extractLsb' (by omega)).trans (extractLsb'_field (m.setlW r 27) t.delta (by omega)))

theorem tgtForward_alters (r : NRef) (port : Nat) (old : Word × Word × Tag) (t : Tag) (a b : Word) :
    Alters m (m.tgtForward r port old t a b) 0 0 := by
  have keeps : ((m.tgtForward r port old t a b).ms, (m.tgtForward r port old t a b).mem) = (m.ms, m.mem) := by
    unfold tgtForward
    split
    · rfl
    · refine foldl_keeps (fun m => (m.ms, m.mem)) (fun x i => ?_) _
      dsimp only
      split
      · split <;> rfl
      · rfl
  exact .of_keeps clean (tgtForward_stores ..) (congrArg (·.1) keeps) (congrArg (·.2) keeps)

/-- A settled write alters the settled record of its node alone. -/
theorem settle_alters (r : NRef) {k : Nat} (hk : k < 8) (a b : Word) (t : Tag) :
    Alters m (m.settle r k a b t) (m.stAddr r + 128) (m.stAddr r + 336) :=
  have written := setSettled_alters clean r hk a b t
  written.trans (tgtForward_alters written.clean ..).nothing

theorem settled_settle (r : NRef) {k : Nat} (hk : k < 8) (a b : Word) (t : Tag) : (m.settle r k a b t).settled r k = (a, b, t) :=
  (settled_of_setlW hk fun _ _ => (tgtForward_alters (setSettled_alters clean r hk a b t).clean ..).setlW (.inr (Nat.zero_le _))).trans
    (settled_setSettled clean r hk a b t)

/-! Held values and state words that Emit writes, with their probe items (R93, R333) -/

theorem formItems_alters (r : NRef) (kind : BitVec 2) (sel : Nat) (ctag tag : Tag) (gen : Byte) (ord : Nat) (fs : Bool) (a b : Word) :
    Alters m (m.formItems r kind sel ctag tag gen ord fs a b) 0 0 :=
  Alters.foldl _ clean fun _ _ _ h => ⟨rfl, h.clean, fun _ _ => rfl⟩

theorem emitHeld_alters (r : NRef) {k : Nat} (hk : k < 8) (fs : Bool) (a b : Word) (tag : Tag) (gen : Byte) :
    Alters m (m.emitHeld r k fs a b tag gen) (m.stAddr r) (m.stAddr r + 128) ∧ (m.emitHeld r k fs a b tag gen).held r k = (a, b) := by
  have written := setHeld_alters clean r hk a b
  have value := held_setHeld_self clean r hk a b
  unfold emitHeld
  dsimp only
  split
  · exact ⟨written, value⟩
  · have items := formItems_alters written.clean r 1 k tag tag gen 0 fs a b
    exact ⟨written.trans items.nothing, (held_of_alters items hk (.inr (Nat.zero_le _))).trans value⟩

theorem emitState_alters (r : NRef) (w : Nat) (v : Word) (tag : Tag) (gen : Byte) :
    Alters m (m.emitState r w v tag gen) (m.recAddr r + 8 * (4 + w)) (m.recAddr r + 8 * (4 + w) + 8) ∧
      (m.emitState r w v tag gen).recW r (4 + w) = v := by
  have written := setRecW_alters clean r (4 + w) v
  have value := recW_setRecW clean r (4 + w) v
  unfold emitState
  dsimp only
  split
  · exact ⟨written, value⟩
  · have items := formItems_alters written.clean r 2 w tag tag gen 0 false v 0
    exact ⟨written.trans items.nothing, (items.recW (.inr (Nat.zero_le _))).trans value⟩

/-- The record of a command done leaves the held values and the state words of its node. -/
theorem commandDone_words (apart : m.Apart r) (tag : Tag) : (∀ k < 8, (m.commandDone r tag).held r k = m.held r k) ∧
    ∀ w < 4, (m.commandDone r tag).recW r (4 + w) = m.recW r (4 + w) := by
  have settled := setSft_alters clean r tag
  have last := setLast_alters settled.clean r tag
  have count := countJ_alters last.clean 0x4400 r.job 4 1
  have state := stAddr_of_stores settled.stores r
  have record := recAddr_of_stores settled.stores r
  unfold Apart at apart
  refine ⟨fun k hk => ?_, fun w hw => ?_⟩
  · exact (held_of_alters count hk (.inr (Nat.zero_le _))).trans
      ((held_of_alters last hk (by omega)).trans (held_of_alters settled hk (by omega)))
  · exact (count.recW (.inr (Nat.zero_le _))).trans ((last.recW (by omega)).trans (settled.recW (by omega)))

end

/-! What stands at the front of Emit with no token to form (R93, R154) -/

section
variable {e : EmitJob}

theorem emitFetch_clean (clean : m.cleanMemory) (path : m.hubPath (peTile r.pe) = true) (none : e.emits = []) :
    m.emitFetch r e = (false, m) := by
  unfold emitFetch
  split
  · rfl
  · simp only [nodeFetch_clean clean path, settledFetch_clean clean path, journalRead_clean clean, ite_self, none, ne_eq, not_true,
      if_false, if_true]

theorem emitTokens_nil (own : ∀ l, e.kind ≠ .antis l) (none : e.emits = []) : m.emitTokens r e = [] := by
  unfold emitTokens
  split
  · exact absurd ‹_› (own _)
  · rw [none, List.flatMap_nil]

/-- A firing, update or command with no emission is carried out at once and leaves the queue. -/
theorem emitFiring_front {p : PeId} {rest : List EmitJob} (front : (m.pe p).emitQ = e :: rest) (fresh : e.begun = false)
    (none : e.emits = []) (start : e.arcs = 0) (clean : m.cleanMemory) (path : m.hubPath (peTile p) = true)
    (own : ∀ l, e.kind ≠ .antis l) :
    m.emitFiring p = (m.emitBegin ⟨e.job, p, e.node⟩ e).modPe p (fun x => { x with emitQ := rest }) := by
  have waits : m.emitWaits ⟨e.job, p, e.node⟩ e = false := by simp [emitWaits, clean.2.2.2.2.2.2.1]
  have fetch : m.emitFetch ⟨e.job, p, e.node⟩ e = (false, m) := emitFetch_clean clean path none
  have tokens : ∀ x : Mach, x.emitTokens ⟨e.job, p, e.node⟩ e = [] := fun _ => emitTokens_nil own none
  unfold emitFiring
  rw [front]
  simp only [fresh, waits, fetch, tokens, start, formTokens, List.drop_nil, Bool.not_false,
    Bool.and_false, Bool.false_eq_true, if_false, List.length_nil, Nat.add_zero, if_true]

/-- A safe update of one port writes its held and its settled value and the settled firing tag. -/
theorem emitBegin_update {v : PortVal} (clean : m.cleanMemory) (kind : e.kind = .update) (safe : e.safe = true) (one : e.arrived = [v]) :
    (m.emitBegin r e).held r v.port.toNat = (v.a, v.b) ∧ (m.emitBegin r e).settled r v.port.toNat = (v.a, v.b, e.tag) ∧
      (m.emitBegin r e).sft r = e.tag := by
  have hk : v.port.toNat < 8 := v.port.isLt
  have begins : m.emitBegin r e = (((m.emitHeld r v.port.toNat v.fs v.a v.b e.tag e.gen).settle r v.port.toNat v.a v.b e.tag).setSft r
      e.tag).countJ 0x4400 e.job 0x03 := by
    unfold emitBegin
    rw [kind]
    dsimp only
    rw [if_pos safe]
    unfold emitArrived
    simp only [one, List.foldl_cons, List.foldl_nil, safe, if_true]
  obtain ⟨held, value⟩ := emitHeld_alters clean r hk v.fs v.a v.b e.tag e.gen
  have settles := settle_alters held.clean r hk v.a v.b e.tag
  have settled := settled_settle held.clean r hk v.a v.b e.tag
  have fires := setSft_alters settles.clean r e.tag
  have fired := sft_setSft settles.clean r e.tag
  have counts := countJ_alters fires.clean 0x4400 e.job 3 1
  have state := stAddr_of_stores held.stores r
  have state' := (stAddr_of_stores settles.stores r).trans state
  rw [begins]
  refine ⟨?_, ?_, ?_⟩
  · exact (held_of_alters counts hk (.inr (Nat.zero_le _))).trans ((held_of_alters fires hk (by omega)).trans
      ((held_of_alters settles hk (by omega)).trans value))
  · exact (settled_of_setlW hk fun _ _ => counts.setlW (.inr (Nat.zero_le _))).trans
      ((settled_of_setlW hk fun _ _ => fires.setlW (by omega)).trans settled)
  · exact (sft_of_setlW fun _ _ => counts.setlW (.inr (Nat.zero_le _))).trans fired

section
variable {tok : Token} (kind : e.kind = .command tok)
include kind

theorem emitBegin_command : m.emitBegin r e = m.command r e tok := by rw [emitBegin, kind]

/-- DEPOSIT_HELD writes the held value of the port its token names. -/
theorem emitBegin_depositHeld (clean : m.cleanMemory) (apart : m.Apart r) (code : tok.port = 1) :
    (m.emitBegin r e).held r (bits tok.gen 2 0) = (tok.w2, tok.w3) := by
  have hk : bits tok.gen 2 0 < 8 := Nat.mod_lt _ (by decide)
  obtain ⟨held, value⟩ := emitHeld_alters clean r hk true tok.w2 tok.w3 e.tag e.gen
  have settles := settle_alters held.clean r hk tok.w2 tok.w3 e.tag
  obtain ⟨done, -⟩ := commandDone_words settles.clean ((apart.of_stores held.stores).of_stores settles.stores) e.tag
  rw [emitBegin_command kind, command, code]
  exact (done _ hk).trans ((held_of_alters settles hk (.inl (Nat.le_of_eq (by rw [stAddr_of_stores held.stores])))).trans value)

/-- DEPOSIT_STATE writes the masked bits of the state word its token names. -/
theorem emitBegin_depositState (clean : m.cleanMemory) (apart : m.Apart r) (code : tok.port = 2) :
    (m.emitBegin r e).recW r (4 + bits tok.gen 1 0) = (m.recW r (4 + bits tok.gen 1 0) &&& ~~~tok.w3) ||| (tok.w2 &&& tok.w3) := by
  have hw : bits tok.gen 1 0 < 4 := Nat.mod_lt _ (by decide)
  obtain ⟨state, value⟩ := emitState_alters clean r (bits tok.gen 1 0)
    ((m.recW r (4 + bits tok.gen 1 0) &&& ~~~tok.w3) ||| (tok.w2 &&& tok.w3)) e.tag e.gen
  obtain ⟨-, done⟩ := commandDone_words state.clean (apart.of_stores state.stores) e.tag
  rw [emitBegin_command kind, command, code]
  exact (done _ hw).trans value

/-- READ_NODE appends a copy of the node's state words, held values and settled record to the reads of its job. -/
theorem emitBegin_readNode (code : tok.port = 3) : ((m.emitBegin r e).job r.job).reads = (m.job r.job).reads ++
    [⟨e.tag, mkNode m.number r.pe r.node, memBytes m.mem (m.recAddr r + 32) 32 ++ memBytes m.mem (m.stAddr r) 128⟩] := by
  rw [emitBegin_command kind, command, code]
  show ((commandDone _ r e.tag).job r.job).reads = _
  rw [job_of_jobs (commandDone_jobs ..), job_modJob]

end
end
end
end Mach

/-- A control command of a code at the front of Emit is carried out as that front. -/
theorem emitCommand_front {m : Mach} {p : PeId} {e : EmitJob} {rest : List EmitJob} {tok : Token} {code : Nat}
    (front : (m.pe p).emitQ = e :: rest) (kind : e.kind = .command tok) (named : tok.port.toNat = code) :
    m.emitCommand p code = m.emitFiring p := by
  unfold Mach.emitCommand
  rw [front]
  dsimp only
  rw [kind]
  exact if_pos named

end Sys2Proof.Machine

section
open Sys2Proof Sys2Proof.Machine

/-- Settles O35: what stands at the front with no emission is carried out at once and leaves the queue, and each kind writes what it names. -/
theorem emitWritesNodeState : Obligations.EmitWritesNodeState := by
  intro s p e rest front fresh none start clean path r apart
  have fires : (∀ l, e.kind ≠ .antis l) → s.m.emitFiring p = (s.m.emitBegin r e).modPe p (fun x => { x with emitQ := rest }) :=
    Mach.emitFiring_front front fresh none start clean path
  have leaves : (((s.m.emitBegin r e).modPe p (fun x => { x with emitQ := rest })).pe p).emitQ = rest := by rw [Mach.pe_modPe]
  refine ⟨fun kind safe v one => ?_, fun tok kind => ?_⟩
  · obtain ⟨held, settled, sft⟩ := Mach.emitBegin_update (r := r) clean kind safe one
    refine ⟨{ s with m := s.m.emitFiring p }, rfl, ?_⟩
    rw [fires (by rw [kind]; nofun)]
    exact ⟨leaves, held, settled, sft⟩
  · replace fires := fires (by rw [kind]; nofun)
    refine ⟨fun code => ?_, fun code => ?_, fun code => ?_⟩
    · refine ⟨{ s with m := s.m.emitCommand p 1 }, rfl, ?_⟩
      rw [emitCommand_front (code := 1) front kind (by rw [code]; rfl), fires]
      exact ⟨leaves, Mach.emitBegin_depositHeld kind clean apart code⟩
    · refine ⟨{ s with m := s.m.emitCommand p 2 }, rfl, ?_⟩
      rw [emitCommand_front (code := 2) front kind (by rw [code]; rfl), fires]
      exact ⟨leaves, Mach.emitBegin_depositState kind clean apart code⟩
    · refine ⟨{ s with m := s.m.emitCommand p 3 }, rfl, ?_⟩
      rw [emitCommand_front (code := 3) front kind (by rw [code]; rfl), fires]
      exact ⟨leaves, Mach.emitBegin_readNode kind code⟩

end

namespace Sys2Proof.Machine
namespace Mach

section
variable {m m' m'' : Mach} {p : PeId} {r : NRef}

/-! What a dispatch does before the context is entered (R52, R61, R90) -/

/-- What the steps of a dispatch leave as it is: the place and code address of the node, the contexts of the PE, the module's number, clean memory and the journal of the tile; they add no request to the slice. -/
structure Readies (m m' : Mach) (p : PeId) (r : NRef) : Prop where
  clean : m'.cleanMemory
  number : m'.number = m.number
  home : m'.recAddr r = m.recAddr r
  code : m'.nCodeOff r = m.nCodeOff r
  ctxs : (m'.pe p).ctxs = (m.pe p).ctxs
  journal : (m'.tile (peTile p)).journal = (m.tile (peTile p)).journal
  jreqs : ∀ q ∈ (m'.tile (peTile p)).jreqs, q ∈ (m.tile (peTile p)).jreqs

namespace Readies

theorem refl (clean : m.cleanMemory) : Readies m m p r := ⟨clean, rfl, rfl, rfl, rfl, rfl, fun _ h => h⟩

theorem trans (h : Readies m m' p r) (h' : Readies m' m'' p r) : Readies m m'' p r :=
  ⟨h'.clean, h'.number.trans h.number, h'.home.trans h.home, h'.code.trans h.code, h'.ctxs.trans h.ctxs, h'.journal.trans h.journal,
    fun q hq => h.jreqs q (h'.jreqs q hq)⟩

theorem andThen (h : Readies m m' p r) (next : m'.cleanMemory → Readies m' m'' p r) : Readies m m'' p r := h.trans (next h.clean)

theorem foldl {α : Type} {f : Mach → α → Mach} (clean : m.cleanMemory) (l : List α) (h : ∀ x a, Readies m x p r → Readies x (f x a) p r) :
    Readies m (l.foldl f m) p r := by
  suffices ∀ x, Readies m x p r → Readies m (l.foldl f x) p r from this m (refl clean)
  induction l with
  | nil => exact fun x hx => hx
  | cons a l ih => exact fun x hx => ih _ (hx.trans (h x a hx))

/-- A write of memory outside the first word of the node's record. -/
theorem of_alters {lo hi : Nat} (h : Alters m m' lo hi) (out : m.recAddr r + 8 ≤ lo ∨ hi ≤ m.recAddr r) : Readies m m' p r := by
  have pe := pe_of_stores h.stores p
  have tile := tile_of_stores h.stores (peTile p)
  have word : m'.recW r 0 = m.recW r 0 := h.recW (by omega)
  exact ⟨h.clean, number_of_stores h.stores, recAddr_of_stores h.stores r, by rw [nCodeOff, word, nCodeOff], by rw [pe], by rw [tile],
    by rw [tile]; exact fun _ h => h⟩

theorem of_nothing (h : Alters m m' 0 0) : Readies m m' p r := of_alters h (.inr (Nat.zero_le _))

section
variable (clean : m.cleanMemory)
include clean

theorem modPe {f : Pe → Pe} (hf : (f (m.pe p)).ctxs = (m.pe p).ctxs) : Readies m (m.modPe p f) p r :=
  ⟨clean, rfl, rfl, rfl, by rw [pe_modPe, hf], rfl, fun _ h => h⟩

theorem modCluster (c : ClusterId) (f : Cluster → Cluster) : Readies m (m.modCluster c f) p r :=
  ⟨clean, rfl, rfl, rfl, rfl, rfl, fun _ h => h⟩

theorem modTile {f : Tile → Tile} (journal : ∀ x, (f x).journal = x.journal) (jreqs : ∀ x, ∀ q ∈ (f x).jreqs, q ∈ x.jreqs) :
    Readies m (m.modTile (peTile p) f) p r :=
  ⟨clean, rfl, rfl, rfl, rfl, by rw [tile_modTile, journal], by rw [tile_modTile]; exact jreqs _⟩

theorem countJ (b : Nat) (j : JobId) (k n : Nat) : Readies m (m.countJ b j k n) p r := of_nothing (countJ_alters clean b j k n)

theorem putWords (q : PeId) (pl : Place) (i : Nat) (ws : List Nat) : Readies m (m.putWords q pl i ws) p r := by
  unfold Mach.putWords
  cases pl with
  | iris => exact of_nothing (sramPut_alters clean ..)
  | mob => exact of_nothing (sramPut_alters clean ..)
  | deep => exact refl clean

theorem spillEnd : Readies m (m.spillEnd p) p r := by
  unfold Mach.spillEnd
  dsimp only
  split
  · exact modPe clean (f := fun x => { x with spill := _, deferred := _, gatherQ := _ }) rfl
  · exact refl clean

theorem dropDesc (g : GRef) : Readies m (m.dropDesc p g) p r := by
  have pool : Readies m (m.modPe p (fun x => { x with
      pool := x.pool.filter (fun d => !(d.2.job == g.job && d.2.node == g.node && d.2.key == g.key && d.2.cid == g.cid)),
      readyQ := x.readyQ.filter (· != g) })) p r := modPe clean rfl
  unfold Mach.dropDesc
  dsimp only
  generalize m.modPe p _ = n at pool
  cases (m.descOf p g).map (·.1) with
  | none => exact pool
  | some q =>
    have requests : Readies n (n.modTile (peTile p) (fun t => { t with
        jreqs := t.jreqs.filter (· != (p, q)), jacc := t.jacc.filter (· != (p, q)) })) p r :=
      modTile pool.clean (fun _ => rfl) (fun _ _ h => List.mem_of_mem_filter h)
    exact (pool.trans requests).andThen spillEnd

theorem hregRemove (pl : Place) (g : GRef) : Readies m (m.hregRemove p pl g) p r := by
  unfold Mach.hregRemove
  cases pl with
  | iris => exact refl clean
  | mob => exact modCluster clean ..
  | deep => exact modTile clean (fun _ => rfl) (fun _ _ h => h)

theorem ovfFreed (pl : Place) (g : GRef) : Readies m (m.ovfFreed p pl g) p r := by
  unfold Mach.ovfFreed
  cases pl with
  | iris => exact refl clean
  | mob => exact modPe clean rfl
  | deep => exact (modCluster clean ..).andThen fun clean => modPe clean rfl

/-- A group above deep match is marked in its store alone. -/
theorem modHead {pl : Place} (above : pl ≠ .deep) (g : GRef) (f : Entry → Entry) : Readies m (m.modHead p pl g f) p r := by
  unfold Mach.modHead
  split
  · have stored : ∀ i e, Readies m (m.storeEnt p pl i e) p r := fun i e => by
      unfold storeEnt
      cases pl with
      | iris => exact modPe clean rfl
      | mob => exact modCluster clean ..
      | deep => exact absurd rfl above
    exact (stored _ _).andThen fun clean => putWords clean ..
  · exact refl clean

theorem hbmWords_deep (below : m.recAddr r + 64 ≤ deepBase) (t : TileId) (i : Nat) (ws : List Word) :
    Readies m (m.hbmWords (deepAddr t i) ws) p r := by
  have written : Alters m (m.hbmWords (deepAddr t i) ws) (deepAddr t i) (deepAddr t i + (wordsBytes ws).length) := by
    rw [hbmWords, alias_clean clean]
    exact hbmWrite_alters clean ..
  refine of_alters written (.inl ?_)
  unfold deepAddr
  omega

theorem dropEnt {pl : Place} (below : pl = .deep → m.recAddr r + 64 ≤ deepBase) (i : Nat) : Readies m (m.dropEnt p pl i) p r := by
  unfold Mach.dropEnt
  cases pl with
  | iris => exact (modPe clean rfl).andThen fun clean => putWords clean ..
  | mob => exact (modCluster clean ..).andThen fun clean => putWords clean ..
  | deep =>
    dsimp only
    split
    · split
      · rename_i e _
        have erased : Readies m (m.modTile (peTile p) (fun t => { t with deep := SMap.erase t.deep i })) p r :=
          modTile clean (fun _ => rfl) (fun _ _ h => h)
        have written := erased.trans (hbmWords_deep erased.clean (erased.home ▸ below rfl) (peTile p) i e.freedWords)
        refine written.trans (modTile written.clean (fun x => ?_) (fun x q h => ?_))
        · split <;> rfl
        · revert h
          split <;> exact id
      · exact refl clean
    · exact modTile clean (fun _ => rfl) (fun _ _ h => h)

theorem freeGroup {pl : Place} (below : pl = .deep → m.recAddr r + 64 ≤ deepBase) (g : GRef) : Readies m (m.freeGroup p pl g) p r := by
  have drops : Readies m ((m.ents p pl g).reverse.foldl (fun m e => m.dropEnt p pl e.1) m) p r :=
    foldl clean _ fun x e hx => dropEnt hx.clean (fun deep => hx.home ▸ below deep) e.1
  unfold Mach.freeGroup
  dsimp only
  split
  · exact drops
  · exact (drops.andThen fun clean => ovfFreed clean pl g).andThen fun clean => hregRemove clean pl g

theorem setLast (t : Tag) : Readies m (m.setLast r t) p r := of_alters (setLast_alters clean r t) (.inl (Nat.le_refl _))

end
end Readies

end
end Mach
end Sys2Proof.Machine

namespace Sys2Proof.Machine

/-! Registers of a thread -/

namespace Thread

variable (t : Thread) (v : Word)

@[simp] theorem get_put_self {a : BitVec 5} (h : a ≠ 0) : (t.put a v).get a = v := by
  rw [get, put, if_neg h, if_neg h]
  exact Vector.getElem_set_self _

@[simp] theorem get_put_ne {a b : BitVec 5} (h : a ≠ b) : (t.put b v).get a = t.get a := by
  have ne : b.toNat ≠ a.toNat := fun e => h (BitVec.eq_of_toNat_eq e.symm)
  unfold get put
  split
  · rfl
  · split
    · rfl
    · exact Vector.getElem_set_ne b.isLt a.isLt ne

/-- The preload of registers leaves one that it does not name. -/
theorem get_preload_ne {a : BitVec 5} {l : List (Nat × Word)} (h : ∀ e ∈ l, a ≠ BitVec.ofNat 5 e.1) :
    (l.foldl (fun t (i, v) => t.put (BitVec.ofNat 5 i) v) t).get a = t.get a := by
  induction l generalizing t with
  | nil => rfl
  | cons e l ih => exact (ih _ fun x hx => h x (.tail _ hx)).trans (t.get_put_ne e.2 (h e (.head _)))

/-- The preload of the eight words of a plane from g16 on leaves the registers below. -/
theorem get_preload_plane {α : Type} {a : BitVec 5} (low : a.toNat < 16) {base : Nat} (from16 : 16 ≤ base) (upto : base ≤ 24) (f : Nat → α)
    (g : α → Word) :
    ((((List.range 8).map f).zipIdx.map (fun (v, k) => (base + k, g v))).foldl (fun t (i, v) => t.put (BitVec.ofNat 5 i) v) t).get a = t.get a := by
  refine t.get_preload_ne fun e he eq => ?_
  obtain ⟨⟨v, k⟩, hk, rfl⟩ := List.mem_map.mp he
  have below : k < 8 := by simpa using (List.mem_zipIdx hk).2.1
  have : a.toNat = (base + k) % 32 := by rw [eq, BitVec.toNat_ofNat]
  omega

end Thread

namespace Mach

section
variable {m m' : Mach} {p : PeId} {r : NRef} {tag : Tag} {safe kick : Bool} {l : List PortVal} {jents : List Nat}

/-! The context of a firing at entry (R98, Table 5-1) -/

/-- The arrived-port mask of g4 at entry. -/
def entryMask (kick : Bool) (l : List PortVal) : Byte := if kick then 0 else l.foldl (fun a v => a ||| (1#8 <<< v.port.toNat)) 0

/-- The registers below g16 at entry come from the first nine words preloaded. -/
theorem entryCtx_get {a : BitVec 5} (low : a.toNat < 16) : (m.entryCtx r tag safe kick l jents).th.get a =
    (([(1, tag.short.zeroExtend 64), (2, tag.delta.zeroExtend 64), (3, (mkNode m.number r.pe r.node).zeroExtend 64),
      (4, (entryMask kick l).zeroExtend 64), (5, (m.nGen r).zeroExtend 64), (12, m.recW r 4), (13, m.recW r 5), (14, m.recW r 6),
      (15, m.recW r 7)] : List (Nat × Word)).foldl (fun t (i, v) => t.put (BitVec.ofNat 5 i) v) ({} : Thread)).get a := by
  show (List.foldl _ _ (_ ++ _ ++ _) : Thread).get a = _
  rw [List.foldl_append, List.foldl_append, Thread.get_preload_plane _ low (by decide) (by decide),
    Thread.get_preload_plane _ low (by decide) (by decide)]
  rfl

theorem entryCtx_regs : (m.entryCtx r tag safe kick l jents).th.get 1 = tag.short.zeroExtend 64 ∧
    (m.entryCtx r tag safe kick l jents).th.get 2 = tag.delta.zeroExtend 64 ∧
    (m.entryCtx r tag safe kick l jents).th.get 3 = (mkNode m.number r.pe r.node).zeroExtend 64 ∧
    (kick = true → (m.entryCtx r tag safe kick l jents).th.get 4 = 0) := by
  refine ⟨?_, ?_, ?_, fun h => ?_⟩
  · simp [entryCtx_get]
  · simp [entryCtx_get]
  · simp [entryCtx_get]
  · simp [entryCtx_get, entryMask, h]

end
end Mach
end Sys2Proof.Machine

namespace Sys2Proof.Machine
namespace Mach

section
variable {m m' : Mach} {p : PeId} {d : Desc} {pl : Place} {c : Nat} {safe kick : Bool} {jents : List Nat}

theorem deepFetch_clean (clean : m.cleanMemory) (es : List (Nat × Entry)) : m.deepFetch p es = (false, m) :=
  if_pos ⟨clean.2.1, clean.2.2.1, clean.2.2.2.1⟩

/-- The machine whose Ready has taken a descriptor and its group, before its context is entered. -/
def dispatched (m : Mach) (p : PeId) (d : Desc) (pl : Place) (safe : Bool) : Mach :=
  let g := descRef d
  let taken := m.dropDesc p g
  let grouped := if safe then taken.freeGroup p pl g else (taken.setGState p pl g .fired).hregRemove p pl g
  let last := grouped.setLast (g.nref p) (m.tagOf d.job d.key)
  let counted := if m.outcome p pl g != .firing then last
    else if safe then last.countJ 0x4400 d.job 0x01
    else (last.countJ 0x4400 d.job 0x02).modTile (peTile p) (fun t => { t with pSpec := SMap.modify t.pSpec d.job.toNat 0 (· + 1) })
  if safe then counted.modTile (peTile p) (fun t => { t with
    holds := t.holds.filter (fun h => !(h.job == d.job && h.key == d.key && h.node == mkNode counted.number p d.node)) })
  else counted

/-- A dispatch takes its descriptor and group and leaves the node, the contexts and the journal. -/
theorem dispatched_readies (clean : m.cleanMemory) (deep : pl = .deep → safe = true ∧ m.recAddr ((descRef d).nref p) + 64 ≤ deepBase) :
    Readies m (m.dispatched p d pl safe) p ((descRef d).nref p) := by
  have taken : Readies m (m.dropDesc p (descRef d)) p ((descRef d).nref p) := .dropDesc clean _
  have grouped : Readies m (if safe then (m.dropDesc p (descRef d)).freeGroup p pl (descRef d)
      else ((m.dropDesc p (descRef d)).setGState p pl (descRef d) .fired).hregRemove p pl (descRef d)) p ((descRef d).nref p) := by
    split
    · exact taken.andThen fun clean => .freeGroup clean (fun h => taken.home ▸ (deep h).2) _
    · rename_i speculative
      exact (taken.andThen fun clean => .modHead clean (fun h => speculative (deep h).1) _ _).andThen fun clean => .hregRemove clean ..
  have last := grouped.andThen fun clean => .setLast clean (m.tagOf d.job d.key)
  unfold dispatched
  dsimp only
  generalize Mach.setLast _ _ _ = n at last
  have counted : Readies m (if (m.outcome p pl (descRef d) != .firing) = true then n else if safe then n.countJ 0x4400 d.job 0x01
      else (n.countJ 0x4400 d.job 0x02).modTile (peTile p) (fun t => { t with pSpec := SMap.modify t.pSpec d.job.toNat 0 (· + 1) }))
      p ((descRef d).nref p) := by
    split
    · exact last
    · split
      · exact last.andThen fun clean => .countJ clean ..
      · exact (last.andThen fun clean => .countJ clean ..).andThen fun clean => .modTile clean (fun _ => rfl) (fun _ _ h => h)
  have freed : ∀ k, Readies m k p ((descRef d).nref p) → Readies m (if safe then k.modTile (peTile p) (fun t => { t with
      holds := t.holds.filter (fun h => !(h.job == d.job && h.key == d.key && h.node == mkNode k.number p d.node)) }) else k)
      p ((descRef d).nref p) := fun k hk => by
    split
    · exact hk.andThen fun clean => .modTile clean (fun _ => rfl) (fun _ _ h => h)
    · exact hk
  exact freed _ counted

/-- The machine whose PE p holds a firing in context c. -/
def entered (m : Mach) (p : PeId) (c : Nat) (x : Ctx) : Mach := m.modPe p (fun y => { y with ctxs := SMap.set y.ctxs c x })

theorem entered_ctx (x : Ctx) : SMap.get? ((m.entered p c x).pe p).ctxs c = some x := by
  rw [entered, pe_modPe]
  exact SMap.get?_set_self ..

/-- The dispatch of a firing or a KICK enters its context on the machine so left. -/
theorem dispatchDesc_eq (clean : m.cleanMemory) (path : m.hubPath (peTile p) = true) (found : m.findGroup p (descRef d) = some pl)
    (deep : pl = .deep → safe = true ∧ m.recAddr ((descRef d).nref p) + 64 ≤ deepBase) (free : freeContext (m.pe p) = some c)
    (kind : (kick = false ∧ m.outcome p pl (descRef d) = .firing) ∨ (kick = true ∧ m.outcome p pl (descRef d) = .control ∧
      ∃ x, m.headOf p pl (descRef d) = some x ∧ x.2.port = 0)) :
    ∃ l, m.dispatchDesc p d safe jents = (m.dispatched p d pl safe).entered p c
      ((m.dispatched p d pl safe).entryCtx ((descRef d).nref p) (m.tagOf d.job d.key) safe kick l jents) := by
  have fetch : (if pl = .deep then m.deepFetch p (m.ents p pl (descRef d)) else m.groupRead p (descRef d)) = (false, m) := by
    rw [deepFetch_clean clean, groupRead_clean clean.1, ite_self]
  have node : m.nodeFetch ((descRef d).nref p) = (false, m) := nodeFetch_clean clean path
  have context : freeContext ((m.dispatched p d pl safe).pe p) = some c := by
    rw [freeContext, (dispatched_readies clean deep).ctxs]
    exact free
  unfold dispatchDesc
  dsimp only
  rw [found]
  dsimp only
  rw [fetch]
  dsimp only
  rw [node]
  dsimp only
  rcases kind with ⟨rfl, firing⟩ | ⟨rfl, control, ⟨i, h⟩, head, port⟩
  · refine ⟨m.arrivedOf p pl (descRef d), ?_⟩
    unfold dispatched at context ⊢
    dsimp only at context ⊢
    rw [firing] at context ⊢
    dsimp only at context ⊢
    rw [context]
    rfl
  · refine ⟨[], ?_⟩
    unfold dispatched at context ⊢
    dsimp only at context ⊢
    rw [control] at context ⊢
    rw [head]
    dsimp only [Option.map] at context ⊢
    rw [if_pos port, context]
    rfl

end
end Mach
end Sys2Proof.Machine

namespace Sys2Proof.Machine
namespace Mach

section
variable {m m' : Mach} {p : PeId} {d : Desc} {pl : Place} {pos c : Nat} {safe kick : Bool} {jents : List Nat}

/-- The context a dispatch of a firing or a KICK enters, and what the dispatch leaves of the slice. -/
theorem dispatchDesc_enters (clean : m.cleanMemory) (path : m.hubPath (peTile p) = true) (found : m.findGroup p (descRef d) = some pl)
    (deep : pl = .deep → safe = true ∧ m.recAddr ((descRef d).nref p) + 64 ≤ deepBase) (free : freeContext (m.pe p) = some c)
    (kind : (kick = false ∧ m.outcome p pl (descRef d) = .firing) ∨ (kick = true ∧ m.outcome p pl (descRef d) = .control ∧
      ∃ x, m.headOf p pl (descRef d) = some x ∧ x.2.port = 0)) :
    (((m.dispatchDesc p d safe jents).tile (peTile p)).journal = (m.tile (peTile p)).journal ∧
      ∀ q ∈ ((m.dispatchDesc p d safe jents).tile (peTile p)).jreqs, q ∈ (m.tile (peTile p)).jreqs) ∧
    ∃ y, SMap.get? ((m.dispatchDesc p d safe jents).pe p).ctxs c = some y ∧ y.job = d.job ∧ y.node = d.node ∧
      y.tag = m.tagOf d.job d.key ∧ y.safe = safe ∧ y.kick = kick ∧ y.count = 0 ∧ y.emits = [] ∧ y.stores = [] ∧ y.jents = jents ∧
      y.th.get 1 = (m.tagOf d.job d.key).short.zeroExtend 64 ∧ y.th.get 2 = (m.tagOf d.job d.key).delta.zeroExtend 64 ∧
      y.th.get 3 = (mkNode m.number p d.node).zeroExtend 64 ∧ (kick = true → y.th.get 4 = 0) ∧
      y.th.pc = m.nCodeOff ⟨d.job, p, d.node⟩ := by
  have readies := dispatched_readies clean deep
  obtain ⟨l, dispatches⟩ := dispatchDesc_eq (jents := jents) clean path found deep free kind
  obtain ⟨tag, delta, node, arrived⟩ := entryCtx_regs (m := m.dispatched p d pl safe) (r := (descRef d).nref p) (tag := m.tagOf d.job d.key)
    (safe := safe) (kick := kick) (l := l) (jents := jents)
  rw [readies.number] at node
  rw [dispatches]
  exact ⟨⟨readies.journal, readies.jreqs⟩, _, entered_ctx _, rfl, rfl, rfl, rfl, rfl, rfl, rfl, rfl, rfl,
    tag, delta, node, arrived, readies.code⟩

/-! The descriptor Ready dispatches at once (R88) -/

theorem countJ_objs (b : Nat) (j : JobId) (k n : Nat) : ∃ o, m.countJ b j k n = { m with objs := o } := by
  unfold countJ
  split
  · exact ⟨m.objs, rfl⟩
  · exact ⟨_, rfl⟩

theorem foldl_objs {α : Type} {f : Mach → α → Mach} (h : ∀ x a, ∃ o, f x a = { x with objs := o }) (l : List α) (m : Mach) :
    ∃ o, l.foldl f m = { m with objs := o } := by
  induction l generalizing m with
  | nil => exact ⟨m.objs, rfl⟩
  | cons a l ih =>
    obtain ⟨o, step⟩ := h m a
    rw [List.foldl_cons, step]
    exact ih _

/-- With a descriptor of level 0 first, a dispatch takes it at once, after what it has counted. -/
theorem dispatch_safe (next : m.nextDesc p = some (pos, d)) (level : d.level = 0) :
    ∃ o, m.dispatch p = Mach.dispatchDesc { m with objs := o } p d true [] := by
  unfold dispatch
  dsimp only
  obtain ⟨o, counted⟩ := foldl_objs (f := fun m j => m.countJ 0x4400 j 0x07) (fun _ _ => countJ_objs ..)
    (((m.pe p).pool.filter (fun d => m.pinSkip p d.1 d.2)).map (fun d => d.2.job)).eraseDups m
  refine ⟨o, ?_⟩
  have next' : Mach.nextDesc { m with objs := o } p = some (pos, d) := next
  rw [counted, next']
  exact if_pos level

theorem dispatchKick_control (next : m.nextDesc p = some (pos, d)) (found : m.findGroup p (descRef d) = some pl)
    (control : m.outcome p pl (descRef d) = .control) {i : Nat} {h : Entry} (head : m.headOf p pl (descRef d) = some (i, h))
    (port : h.port = 0) : m.dispatchKick p = m.dispatch p := by
  have outcome : m.descOutcome p d = .control := by rw [descOutcome, found]; exact control
  have context : m.needsCtx p d .control = true := by
    rw [needsCtx, found, Option.bind_some, head]
    exact beq_iff_eq.mpr port
  have next' : leastBy (fun (a b : Nat × Desc) => decide (a.2.level.toNat < b.2.level.toNat)
      || (a.2.level == b.2.level && seqLt a.2.seq b.2.seq)) ((m.pe p).pool.filter (fun d => m.eligible p d.1 d.2)) = some (pos, d) := next
  unfold dispatchKick
  dsimp only
  rw [next']
  exact if_pos ⟨outcome, context⟩

theorem nextDesc_single (single : (m.pe p).pool = [(pos, d)]) (eligible : m.eligible p pos d = true) : m.nextDesc p = some (pos, d) := by
  have kept : [(pos, d)].filter (fun d => m.eligible p d.1 d.2) = [(pos, d)] := by simp [eligible]
  rw [nextDesc, single, kept]
  rfl

end

section
variable {m m' : Mach} {p : PeId} {d : Desc} {pl : Place} {pos c e : Nat} {t : TileId}

/-! What eligibility and a grant read of a tile (R88, R170) -/

/-- The outcome of a group is read from its entries and the memory of its node. -/
theorem outcome_congr (level : ∀ pl, m'.level p pl = m.level p pl) (mem : m'.mem = m.mem) (jobs : m'.jobs = m.jobs) (pl : Place) (g : GRef) :
    m'.outcome p pl g = m.outcome p pl g := by
  obtain ⟨record, -, held⟩ := words_of_mem mem jobs (g.nref p)
  unfold outcome nEdge nEdgeXz
  dsimp only
  rw [headOf_of_level (level pl), ents_of_level (level pl), held 0, record 0]

/-- Of the tiles, eligibility reads the entries of deep match, the requests and rollbacks of the PE's tile, and its holds. -/
theorem eligible_congr {l : SMap Tile} (level : ∀ pl, Mach.level { m with tiles := l } p pl = m.level p pl)
    (jreqs : (Mach.tile { m with tiles := l } (peTile p)).jreqs = (m.tile (peTile p)).jreqs)
    (jacc : (Mach.tile { m with tiles := l } (peTile p)).jacc = (m.tile (peTile p)).jacc)
    (rbq : (Mach.tile { m with tiles := l } (peTile p)).rbq = (m.tile (peTile p)).rbq)
    (rbOut : (Mach.tile { m with tiles := l } (peTile p)).rbOut = (m.tile (peTile p)).rbOut)
    (holds : (Mach.tile { m with tiles := l } (peTile p)).holds = (m.tile (peTile p)).holds) (pos : Nat) (d : Desc) :
    Mach.eligible { m with tiles := l } p pos d = m.eligible p pos d := by
  have found := findGroup_of_level level (descRef d)
  have head := fun pl => headOf_of_level (level pl) (descRef d)
  have outcome := fun pl => outcome_congr level rfl rfl pl (descRef d)
  have kind : Mach.descOutcome { m with tiles := l } p d = m.descOutcome p d := by
    rw [descOutcome, found]
    simp only [outcome]
    rfl
  have context : ∀ o, Mach.needsCtx { m with tiles := l } p d o = m.needsCtx p d o := fun o => by
    unfold needsCtx
    simp only [found, head]
  have waits : Mach.dispatchWaits { m with tiles := l } p d = m.dispatchWaits p d := by
    unfold dispatchWaits
    rw [found]
    rfl
  have rolls : Mach.rbHolds { m with tiles := l } ⟨d.job, p, d.node⟩ = m.rbHolds ⟨d.job, p, d.node⟩ := by
    unfold rbHolds
    dsimp only
    rw [rbq, rbOut]
    rfl
  have any : Mach.eligibleAny { m with tiles := l } p d = m.eligibleAny p d := by
    unfold eligibleAny
    rw [kind, context, waits, rolls]
    rfl
  have spec : Mach.eligibleSpec { m with tiles := l } p pos d = m.eligibleSpec p pos d := by
    unfold eligibleSpec held?
    rw [kind, found, jreqs, jacc, holds]
    rfl
  unfold eligible
  rw [any, spec]
  rfl

/-- A grant reads the slices of the tile alone. -/
theorem grantOk_congr {l : SMap Tile} (journal : (Mach.tile { m with tiles := l } t).journal = (m.tile t).journal) (j : JobId) (n : Nat) :
    Mach.grantOk { m with tiles := l } t j n = m.grantOk t j n := by
  unfold grantOk unmetOthers jFree jHeld
  rw [journal]
  rfl

/-! The slice accepts a request (R172) -/

/-- What the slice accepts of a cluster. -/
def acceptOf (t : TileId) (m : Mach) (cl : Nat) : Mach :=
  let x := m.tile t
  let last := SMap.getD x.jrr cl 7
  let turn := fun (q : PeId × Nat) => (q.1.toNat % 8 + 15 - last) % 8
  match leastBy (fun a b => decide (turn a < turn b)) (x.jreqs.filter (fun q => (peCluster q.1).toNat % 16 == cl)) with
  | some q => m.setTile t { x with jreqs := x.jreqs.filter (· != q), jacc := x.jacc ++ [q], jrr := SMap.set x.jrr cl (q.1.toNat % 8) }
  | none => m

theorem acceptReqs_eq (t : TileId) : m.acceptReqs t = (List.range 16).foldl (acceptOf t) m := rfl

theorem acceptOf_none {cl : Nat} (none : ∀ q ∈ (m.tile t).jreqs, (peCluster q.1).toNat % 16 ≠ cl) : acceptOf t m cl = m := by
  have empty : (m.tile t).jreqs.filter (fun q => (peCluster q.1).toNat % 16 == cl) = [] :=
    List.filter_eq_nil_iff.mpr fun q hq => by simp [none q hq]
  unfold acceptOf
  dsimp only
  rw [empty]
  rfl

theorem foldl_acceptOf_none {l : List Nat} (none : ∀ cl ∈ l, ∀ q ∈ (m.tile t).jreqs, (peCluster q.1).toNat % 16 ≠ cl) :
    l.foldl (acceptOf t) m = m := by
  induction l with
  | nil => rfl
  | cons cl l ih =>
    rw [List.foldl_cons, acceptOf_none (none cl (.head _))]
    exact ih fun cl h => none cl (.tail _ h)

/-- A tile whose slice has taken the one request made of it. -/
def sliceTakes (x : Tile) (q : PeId × Nat) (jrr : SMap Nat) : Tile := { x with jreqs := [], jacc := x.jacc ++ [q], jrr := jrr }

/-- The only request made of a slice is accepted. -/
theorem acceptReqs_one {q : PeId × Nat} (one : (m.tile t).jreqs = [q]) : ∃ jrr, m.acceptReqs t = m.setTile t (sliceTakes (m.tile t) q jrr) := by
  obtain ⟨before, after, split, fresh⟩ := List.eq_append_cons_of_mem (List.mem_range.mpr (Nat.mod_lt (peCluster q.1).toNat (by decide : 0 < 16)))
  have own : acceptOf t m ((peCluster q.1).toNat % 16) = m.setTile t (sliceTakes (m.tile t) q
      (SMap.set (m.tile t).jrr ((peCluster q.1).toNat % 16) (q.1.toNat % 8))) := by
    have mine : [q].filter (fun q' => (peCluster q'.1).toNat % 16 == (peCluster q.1).toNat % 16) = [q] := by simp
    have rest : [q].filter (· != q) = [] := by simp
    unfold acceptOf
    dsimp only
    rw [one, mine]
    dsimp only [leastBy, List.foldl_nil]
    rw [rest]
    rfl
  refine ⟨SMap.set (m.tile t).jrr ((peCluster q.1).toNat % 16) (q.1.toNat % 8), ?_⟩
  rw [acceptReqs_eq, split, List.foldl_append, List.foldl_cons, foldl_acceptOf_none (l := before) (fun cl h q' hq' => ?_), own, foldl_acceptOf_none]
  · rw [tile_setTile]
    exact fun _ _ _ h => absurd h List.not_mem_nil
  · rw [one, List.mem_singleton] at hq'
    subst hq'
    rintro rfl
    exact fresh h

end
end Mach
end Sys2Proof.Machine

namespace Sys2Proof.Machine
namespace Mach

section
variable {m m' : Mach} {p : PeId} {d : Desc} {pl : Place} {pos c e : Nat} {r : NRef}

/-! The slice grants a request (R165, R172) -/

/-- The first entry granted to a firing. -/
def grantedEntry (r : NRef) (k : Key) (gen : Byte) : JEntry :=
  { job := r.job, key := k, gen := gen, node := node24 r.pe r.node, tail := false, emask := 0, eoff := 0, undo0 := 0, undo1 := 0,
    written := false, fossil := false }

/-- A tile whose slice holds one more entry. -/
def journaled (x : Tile) (e : Nat) (j : JEntry) : Tile :=
  { x with journal := SMap.set x.journal e j, peak := Nat.max x.peak (x.journal.length + 1),
           loadPeak := x.loadPeak.map (fun (k, n) => (k, Nat.max n (x.journal.length + 1))) }

theorem jGrant_one (free : m.jFreeIdx (peTile r.pe) = some e) (k : Key) (gen : Byte) : m.jGrant r k gen 1 =
    ((m.modTile (peTile r.pe) (journaled · e (grantedEntry r k gen))).sramPut (peTile r.pe) 4 0 [4 * e, 4 * e + 1], [e]) := by
  unfold jGrant
  simp only [List.range_one, List.foldl_cons, List.foldl_nil, free, List.nil_append]
  rfl

/-- A tile whose slice has decided the one request made of it. -/
def sliceDecides (x : Tile) (jrr : SMap Nat) : Tile := { x with jreqs := [], jacc := [], jrr := jrr }

/-- What a grant leaves as it is before the dispatch it allows, and what it does to the slice. -/
structure Grants (m m' : Mach) (p : PeId) (e : Nat) (j : JEntry) : Prop where
  clean : m'.cleanMemory
  number : m'.number = m.number
  jobs : m'.jobs = m.jobs
  mem : m'.mem = m.mem
  net : m'.net = m.net
  pe : m'.pe p = m.pe p
  level : ∀ pl, m'.level p pl = m.level p pl
  entry : SMap.get? (m'.tile (peTile p)).journal e = some j
  jreqs : (m'.tile (peTile p)).jreqs = []

/-- The levels a PE sees lie in its PE, its cluster, and the deep match and write-behind queue of its tile. -/
theorem level_of_parts (pe : m'.pe p = m.pe p) (cluster : m'.cluster (peCluster p) = m.cluster (peCluster p))
    (deep : (m'.tile (peTile p)).deep = (m.tile (peTile p)).deep) (deepQ : (m'.tile (peTile p)).deepQ = (m.tile (peTile p)).deepQ) (pl : Place) :
    m'.level p pl = m.level p pl := by
  cases pl with
  | iris => exact congrArg (·.iris) pe
  | mob => exact congrArg (·.mob) cluster
  | deep =>
    show (m'.tile (peTile p)).deep ++ deepQEnts (m'.tile (peTile p)) = (m.tile (peTile p)).deep ++ deepQEnts (m.tile (peTile p))
    rw [deepQEnts, deep, deepQ, deepQEnts]

/-- A functional write of SRAM words changes neither the memory nor the network. -/
theorem sramPut_mem_net (t : TileId) (kind unit : Nat) (l : List Nat) :
    (m.sramPut t kind unit l).mem = m.mem ∧ (m.sramPut t kind unit l).net = m.net := by
  unfold sramPut
  split
  · exact ⟨rfl, rfl⟩
  · exact ⟨foldl_keeps (·.mem) (by intros; rfl) l, foldl_keeps (·.net) (by intros; rfl) l⟩

/-- The machine on which the slice decides a request of PE p that is the only one made of it. -/
def decided (m : Mach) (p : PeId) (pos : Nat) : Mach :=
  (m.acceptReqs (peTile p)).modTile (peTile p) (fun x => { x with jacc := x.jacc.filter (· != (p, pos)) })

/-- Only the tile of the slice differs. -/
theorem decided_tiles (idle : (m.tile (peTile p)).jacc = []) (one : (m.tile (peTile p)).jreqs = [(p, pos)]) : ∃ l jrr,
    m.decided p pos = { m with tiles := l } ∧ (m.decided p pos).tile (peTile p) = sliceDecides (m.tile (peTile p)) jrr := by
  obtain ⟨jrr, accepts⟩ := acceptReqs_one one
  unfold decided
  rw [accepts]
  refine ⟨_, jrr, rfl, ?_⟩
  rw [tile_modTile, tile_setTile]
  simp [sliceDecides, sliceTakes, idle]

/-- The slice grants its only request one entry, and the descriptor is dispatched with it. -/
theorem journalGrant_one (idle : (m.tile (peTile p)).jacc = []) (one : (m.tile (peTile p)).jreqs = [(p, pos)])
    (pool : SMap.get? (m.pe p).pool pos = some d) (eligible : (m.decided p pos).eligible p pos d = true) (level : d.level ≠ 0)
    (need : (m.decided p pos).jneed ((descRef d).nref p) ((m.decided p pos).descOutcome p d) = 1)
    (grant : (m.decided p pos).grantOk (peTile p) d.job 1 = true) {m1 : Mach} {es : List Nat}
    (granted : (m.decided p pos).jGrant ((descRef d).nref p) d.key ((m.decided p pos).nGen ((descRef d).nref p)) 1 = (m1, es)) :
    m.journalGrant (peTile p) = (m1.countJ 0x4600 d.job 0x01 1).dispatchDesc p d false es := by
  obtain ⟨jrr, accepts⟩ := acceptReqs_one one
  have accepted : ((m.acceptReqs (peTile p)).tile (peTile p)).jacc = [(p, pos)] := by
    rw [accepts, tile_setTile]
    simp [sliceTakes, idle]
  have request : [(p, pos)].filterMap (fun (q : PeId × Nat) => (SMap.get? ((m.acceptReqs (peTile p)).pe q.1).pool q.2).map
      (fun d => (q.1, q.2, d))) = [(p, pos, d)] := by
    have same : SMap.get? ((m.acceptReqs (peTile p)).pe p).pool pos = some d := by rw [accepts]; exact pool
    simp [same]
  unfold decided at *
  unfold journalGrant
  rw [if_pos idle]
  dsimp only
  rw [accepted]
  rw [request]
  dsimp only [leastBy, List.foldl_nil]
  rw [need, show (1 : BitVec 2).toNat = 1 from rfl]
  simp only [eligible, Bool.not_true, Bool.false_eq_true, if_false, if_neg level]
  rw [if_pos grant, if_neg (by decide)]
  rw [granted]

/-- What the grant of the only request does before its dispatch. -/
theorem grant_grants (clean : m.cleanMemory) (idle : (m.tile (peTile p)).jacc = []) (one : (m.tile (peTile p)).jreqs = [(p, pos)]) (j : JEntry) :
    Grants m ((((m.decided p pos).modTile (peTile p) (journaled · e j)).sramPut (peTile p) 4 0 [4 * e, 4 * e + 1]).countJ 0x4600 d.job 0x01 1)
      p e j := by
  obtain ⟨l, jrr, decides, tile⟩ := decided_tiles idle one
  have clean' : ((m.decided p pos).modTile (peTile p) (journaled · e j)).cleanMemory := by rw [decides]; exact clean
  have written := sramPut_alters clean' (peTile p) 4 0 [4 * e, 4 * e + 1]
  have counted := written.trans (countJ_alters written.clean 0x4600 d.job 1 1)
  have level : ∀ pl, ((m.decided p pos).modTile (peTile p) (journaled · e j)).level p pl = m.level p pl := fun pl => by
    have entry : (((m.decided p pos).modTile (peTile p) (journaled · e j)).tile (peTile p)).deep = (m.tile (peTile p)).deep ∧
        (((m.decided p pos).modTile (peTile p) (journaled · e j)).tile (peTile p)).deepQ = (m.tile (peTile p)).deepQ := by
      rw [tile_modTile, tile]
      exact ⟨rfl, rfl⟩
    exact level_of_parts (by rw [decides]; rfl) (by rw [decides]; rfl) entry.1 entry.2 pl
  have tile' := tile_of_stores counted.stores (peTile p)
  rw [tile_modTile, tile] at tile'
  refine ⟨counted.clean, (number_of_stores counted.stores).trans ?_, (jobs_of_stores counted.stores).trans ?_, ?_, ?_,
    (pe_of_stores counted.stores p).trans ?_, fun pl => (level_of_stores counted.stores p pl).trans (level pl), ?_, ?_⟩
  · rw [decides]; rfl
  · rw [decides]; rfl
  · rw [mem_countJ, (sramPut_mem_net ..).1, decides]; rfl
  · rw [countJ_net, (sramPut_mem_net ..).2, decides]; rfl
  · rw [decides]; rfl
  · rw [tile']
    exact SMap.get?_set_self ..
  · rw [tile']
    rfl

theorem above_of_eligible (eligible : m.eligible p pos d = true) (level : d.level ≠ 0) (found : m.findGroup p (descRef d) = some pl) :
    pl ≠ .deep := by
  rintro rfl
  simp only [Mach.eligible, eligibleSpec, found, bne_self_eq_false, Bool.and_false, Bool.false_and, Bool.or_false, Bool.and_eq_true,
    beq_iff_eq] at eligible
  exact level eligible.2

/-- The only request a slice is granted enters its firing with the entry granted. -/
theorem journalGrant_enters (clean : m.cleanMemory) (idle : (m.tile (peTile p)).jacc = [])
    (one : (m.tile (peTile p)).jreqs = [(p, pos)]) (pool : SMap.get? (m.pe p).pool pos = some d) (level : d.level ≠ 0)
    (found : m.findGroup p (descRef d) = some pl) (firing : m.outcome p pl (descRef d) = .firing) (need : m.nJn ((descRef d).nref p) = 1)
    (eligible : (m.modTile (peTile p) (fun x => { x with jreqs := [] })).eligible p pos d = true)
    (grant : m.grantOk (peTile p) d.job 1 = true) (entry : m.jFreeIdx (peTile p) = some e) :
    ∃ m1 gen, m.journalGrant (peTile p) = m1.dispatchDesc p d false [e] ∧ pl ≠ .deep ∧
      Grants m m1 p e (grantedEntry ((descRef d).nref p) d.key gen) := by
  obtain ⟨l, jrr, decides, tile⟩ := decided_tiles idle one
  have asked := m.tile_modTile (peTile p) (fun x => { x with jreqs := [] })
  have parts : ∀ pl, (m.decided p pos).level p pl = m.level p pl :=
    level_of_parts (by rw [decides]; rfl) (by rw [decides]; rfl) (by rw [tile]; rfl) (by rw [tile]; rfl)
  have askedParts : ∀ pl, (m.modTile (peTile p) (fun x => { x with jreqs := [] })).level p pl = m.level p pl :=
    level_of_parts rfl rfl (by rw [asked]) (by rw [asked])
  have above := above_of_eligible eligible level ((findGroup_of_level askedParts _).trans found)
  have mayFire : (m.decided p pos).eligible p pos d = true := by
    rw [decides] at parts tile ⊢
    refine (eligible_congr (m := m.modTile (peTile p) (fun x => { x with jreqs := [] })) (l := l)
      (fun pl => (parts pl).trans (askedParts pl).symm) ?_ ?_ ?_ ?_ ?_ pos d).trans eligible
    · rw [asked]; exact congrArg (·.jreqs) tile
    · rw [asked]; exact (congrArg (·.jacc) tile).trans idle.symm
    · rw [asked]; exact congrArg (·.rbq) tile
    · rw [asked]; exact congrArg (·.rbOut) tile
    · rw [asked]; exact congrArg (·.holds) tile
  have outcome : (m.decided p pos).descOutcome p d = .firing := by
    rw [descOutcome, findGroup_of_level parts, found]
    exact (outcome_congr parts (by rw [decides]) (by rw [decides]) pl _).trans firing
  have needs : (m.decided p pos).jneed ((descRef d).nref p) ((m.decided p pos).descOutcome p d) = 1 := by
    rw [outcome, decides]
    exact need
  have granted : (m.decided p pos).grantOk (peTile p) d.job 1 = true := by
    rw [decides] at tile ⊢
    exact (grantOk_congr (congrArg (·.journal) tile) d.job 1).trans grant
  have place : (m.decided p pos).jFreeIdx (peTile p) = some e := by
    rw [jFreeIdx, tile]
    exact entry
  exact ⟨_, _, journalGrant_one idle one pool mayFire level needs granted (jGrant_one (r := (descRef d).nref p) place d.key _), above,
    grant_grants clean idle one _⟩

end
end Mach
end Sys2Proof.Machine

section
open Sys2Proof Sys2Proof.Machine

/-- Settles O34: what a dispatch does before it enters the context leaves the node, and the grant leaves what the dispatch reads. -/
theorem dispatchEntersAContext : Obligations.DispatchEntersAContext := by
  refine ⟨fun s p pos d pl c first level found free clean path deep => ?_, ?_⟩
  · have next : s.m.nextDesc p = some (pos, d) := first.elim id fun only => Mach.nextDesc_single only.1 only.2
    obtain ⟨o, dispatches⟩ := Mach.dispatch_safe next level
    have enters := fun (kick : Bool) kind => (Mach.dispatchDesc_enters (m := { s.m with objs := o }) (kick := kick) (jents := []) clean path
      found (fun h => ⟨rfl, deep h⟩) free kind).2
    refine ⟨fun firing => ?_, fun control i h head port => ?_⟩
    · obtain ⟨y, held, job, node, tag, safe, kick, count, emits, stores, jents, g1, g2, g3, g4, pc⟩ := enters false (.inl ⟨rfl, firing⟩)
      refine ⟨{ s with m := s.m.dispatch p }, rfl, y, ?_, job, node, tag, safe, kick, count, emits, stores, jents, g1, g2, g3, g4, pc⟩
      rw [dispatches]
      exact held
    · obtain ⟨y, held, job, node, tag, safe, kick, count, emits, stores, jents, g1, g2, g3, g4, pc⟩ :=
        enters true (.inr ⟨rfl, control, _, head, port⟩)
      refine ⟨{ s with m := s.m.dispatchKick p }, rfl, y, ?_, job, node, tag, safe, kick, count, emits, stores, jents, g1, g2, g3, g4, pc⟩
      rw [Mach.dispatchKick_control next found control head port, dispatches]
      exact held
  · intro s p pos c e d pl r clean path idle one pool level found firing need free eligible grant entry
    obtain ⟨m1, gen, grants, above, kept⟩ := Mach.journalGrant_enters clean idle one pool level found firing need eligible grant entry
    obtain ⟨⟨journal, requests⟩, y, held, job, node, tag, safe, -, -, -, -, jents, g1, g2, -, -, pc⟩ :=
      Mach.dispatchDesc_enters (kick := false) (safe := false) (jents := [e]) (c := c) kept.clean ((Mach.hubPath_of_net kept.net _).trans path)
        ((Mach.findGroup_of_level kept.level _).trans found) (fun h => absurd h above) (by rw [kept.pe]; exact free)
        (.inl ⟨rfl, (Mach.outcome_congr kept.level kept.mem kept.jobs pl _).trans firing⟩)
    have sameTag : m1.tagOf d.job d.key = s.m.tagOf d.job d.key := by rw [Mach.tagOf, Mach.job_of_jobs kept.jobs, Mach.tagOf]
    have sameCode : m1.nCodeOff r = s.m.nCodeOff r := by
      rw [Mach.nCodeOff, (Mach.words_of_mem kept.mem kept.jobs r).1, Mach.nCodeOff]
    rw [sameTag] at tag g1 g2
    rw [kept.jreqs] at requests
    refine ⟨{ s with m := s.m.journalGrant (peTile p) }, y, Mach.grantedEntry ⟨d.job, p, d.node⟩ d.key gen, rfl, ?_⟩
    rw [grants]
    exact ⟨held, safe, job, node, tag, g1, g2, pc.trans sameCode, jents, journal ▸ kept.entry, rfl, rfl, rfl, rfl,
      List.eq_nil_iff_forall_not_mem.mpr fun q hq => List.not_mem_nil (requests q hq)⟩

end

namespace Sys2Proof.Machine
namespace Mach

/-- The counters of rollbacks and of summary overflows of the jobs (R164, R168). -/
def Spared (i s : Nat) : Prop := (0x4500 ≤ i ∧ i < 0x4600 ∧ s = 0x01) ∨ (0x4600 ≤ i ∧ i < 0x4700 ∧ s = 0x06)

/-- m' has the spared counters of m. -/
structure SameCounts (m m' : Mach) : Prop where
  same : ∀ i s, Spared i s → m'.obj? i s = m.obj? i s

section
variable {m m' m'' : Mach}

namespace SameCounts

theorem refl : SameCounts m m := ⟨fun _ _ _ => rfl⟩

theorem trans (h : SameCounts m m') (h' : SameCounts m' m'') : SameCounts m m'' :=
  ⟨fun i s hs => (h'.same i s hs).trans (h.same i s hs)⟩

theorem of_objs (h : m'.objs = m.objs) : SameCounts m m' := ⟨fun i s _ => by rw [obj?, h, obj?]⟩

theorem foldl {α : Type} {f : Mach → α → Mach} (h : ∀ x a, SameCounts x (f x a)) (l : List α) : SameCounts m (l.foldl f m) := by
  induction l generalizing m with
  | nil => exact refl
  | cons a l ih => exact (h m a).trans ih

/-- Another counter is counted. -/
theorem count {i s : Nat} (small : s < 256) (other : ¬ Spared i s) (n : Nat) : SameCounts m (m.count i s n) := by
  refine ⟨fun i' s' spared => ?_⟩
  refine SMap.get?_set_ne _ _ _ _ fun eq => other ?_
  have small' : s' < 256 := by unfold Spared at spared; omega
  obtain ⟨rfl, rfl⟩ : i' = i ∧ s' = s := by omega
  exact spared

theorem countJ {b s : Nat} {j : JobId} (small : s < 256) (other : ¬ Spared (b + j.toNat) s) (n : Nat) : SameCounts m (m.countJ b j s n) := by
  unfold Mach.countJ
  split
  · exact refl
  · exact count small other n

/-! Writes of HBM and SRAM (R237, R241) -/

theorem raiseSource (n : Nat) : SameCounts m (m.raiseSource n) := by
  have merged : ∀ x : Mach, SameCounts x (x.count 0x4D00 0x04) := fun _ => count (by decide) (by unfold Spared; omega) 1
  unfold Mach.raiseSource
  split
  · exact refl
  · split
    · split
      · dsimp only
        split
        · exact (merged m).trans (of_objs rfl)
        · exact of_objs rfl
      · exact refl
    · dsimp only
      split <;> split
      · exact ((of_objs rfl).trans (merged _)).trans (of_objs rfl)
      · exact of_objs rfl
      · exact (merged m).trans (of_objs rfl)
      · exact of_objs rfl

theorem logHalf (h : Nat) (f : BitVec 36) : SameCounts m (m.logHalf h f) := by
  obtain ⟨l, log⟩ := m.logErr_low (sev := 0) (by decide) 0x09 0 none (hbmLoc h) (BitVec.ofNat 64 h) (f.zeroExtend 64) (m.remapAt h) 0 false
  rw [Mach.logHalf, log]
  exact of_objs rfl

theorem halfPoison (h : Nat) : SameCounts m (m.halfPoison h) := by
  unfold Mach.halfPoison
  dsimp only
  refine trans ?_ (logHalf h _)
  exact of_objs rfl

theorem halfRead (h : Nat) : SameCounts m (m.halfRead h).2 := by
  have counted : ∀ {x : Mach} {s : Nat}, s < 256 → SameCounts x (x.count 0x4A00 s) := fun small => count small (by unfold Spared; omega) 1
  unfold Mach.halfRead
  dsimp only
  split
  · exact refl
  · exact (of_objs (m := m) (m' := m.halfClear h) rfl).trans (counted (by decide))
  · exact counted (by decide)
  · exact ((counted (by decide)).trans (logHalf h _)).trans (raiseSource _)

theorem halfInject (h : Nat) : SameCounts m (m.halfInject h) := by
  unfold Mach.halfInject
  dsimp only
  split <;> split <;> exact of_objs rfl

theorem hbmWrite (a : Nat) (d : List Byte) : SameCounts m (m.hbmWrite a d) := by
  unfold Mach.hbmWrite
  dsimp only
  refine trans (foldl (fun x h => ?_) _) (of_objs rfl)
  refine trans ?_ (halfInject h)
  split
  · exact of_objs rfl
  · have merged : SameCounts x (x.count 0x4A00 0x08) := count (by decide) (by unfold Spared; omega) 1
    have read := merged.trans (halfRead h)
    split
    · exact read.trans (halfPoison h)
    · exact read

theorem sramPut (t : TileId) (kind unit : Nat) (l : List Nat) : SameCounts m (m.sramPut t kind unit l) := by
  unfold Mach.sramPut
  split
  · exact refl
  · exact foldl (fun x w => of_objs (m' := x.sramWrite (t.extractLsb' 4 2) (mkLoc kind (t.toNat % 16) unit w)) rfl) l

theorem putWords (p : PeId) (pl : Place) (i : Nat) (ws : List Nat) : SameCounts m (m.putWords p pl i ws) := by
  unfold Mach.putWords
  cases pl with
  | iris => exact sramPut ..
  | mob => exact sramPut ..
  | deep => exact refl

theorem lineWrite (a : Nat) (v : Word) : SameCounts m (m.lineWrite a v) := by
  have halves : SameCounts m ([a / 64 * 64, a / 64 * 64 + 32].foldl (fun m h => (m.halfClear h).halfInject h) m) :=
    foldl (fun x h => trans (m' := x.halfClear h) (of_objs rfl) (halfInject h)) _
  unfold Mach.lineWrite
  dsimp only
  split
  · exact of_objs rfl
  · exact halves.trans (of_objs rfl)

theorem cacheWrite (p : PeId) (k : Nat) : SameCounts m (m.cacheWrite p k) := by
  unfold Mach.cacheWrite
  split
  · exact refl
  · dsimp only
    refine trans ?_ (sramPut ..)
    exact of_objs rfl

theorem setRecW (r : NRef) (k : Nat) (v : Word) : SameCounts m (m.setRecW r k v) := (cacheWrite ..).trans (lineWrite ..)

theorem setLast (r : NRef) (t : Tag) : SameCounts m (m.setLast r t) := (setRecW ..).trans (setRecW ..)

end SameCounts

/-! What the end of a speculative firing without a rollback spares (R157, R168) -/

/-- m' has the jobs, the spared counters, the Emit queue and last context of PE p, its contexts, and the pending traps of its tile as m has them. -/
structure Spares (m m' : Mach) (p : PeId) : Prop where
  jobs : m'.jobs = m.jobs
  counts : SameCounts m m'
  ctxs : (m'.pe p).ctxs = (m.pe p).ctxs
  emitQ : (m'.pe p).emitQ = (m.pe p).emitQ
  pend : (m'.tile (peTile p)).pend = (m.tile (peTile p)).pend

namespace Spares

variable {p : PeId}

theorem refl : Spares m m p := ⟨rfl, .refl, rfl, rfl, rfl⟩

theorem trans (h : Spares m m' p) (h' : Spares m' m'' p) : Spares m m'' p :=
  ⟨h'.jobs.trans h.jobs, h.counts.trans h'.counts, h'.ctxs.trans h.ctxs, h'.emitQ.trans h.emitQ, h'.pend.trans h.pend⟩

theorem of_stores (stores : m'.stores = m.stores) (counts : SameCounts m m') : Spares m m' p :=
  ⟨jobs_of_stores stores, counts, by rw [pe_of_stores stores], by rw [pe_of_stores stores], by rw [tile_of_stores stores]⟩

theorem modPe {f : Pe → Pe} (ctxs : (f (m.pe p)).ctxs = (m.pe p).ctxs) (emitQ : (f (m.pe p)).emitQ = (m.pe p).emitQ) :
    Spares m (m.modPe p f) p :=
  ⟨rfl, .of_objs rfl, by rw [pe_modPe, ctxs], by rw [pe_modPe, emitQ], rfl⟩

theorem modTile {f : Tile → Tile} (pend : ∀ x, (f x).pend = x.pend) : Spares m (m.modTile (peTile p) f) p :=
  ⟨rfl, .of_objs rfl, rfl, rfl, by rw [tile_modTile, pend]⟩

theorem modCluster (c : ClusterId) (f : Cluster → Cluster) : Spares m (m.modCluster c f) p := ⟨rfl, .of_objs rfl, rfl, rfl, rfl⟩

theorem countJ {b s : Nat} {j : JobId} (small : s < 256) (other : ¬ Spared (b + j.toNat) s) (n : Nat) : Spares m (m.countJ b j s n) p :=
  of_stores (countJ_stores ..) (.countJ small other n)

theorem takeHold (h : SumHold) : Spares m (m.takeHold (peTile p) h) p :=
  modTile fun x => by split <;> rfl

theorem freedSignal (t : TileId) : Spares m (m.freedSignal t) p :=
  ⟨rfl, .of_objs rfl, freedSignal_pe (·.ctxs) (fun _ => rfl) p, freedSignal_pe (·.emitQ) (fun _ => rfl) p, rfl⟩

theorem freeEntries (l : List Nat) : Spares m (m.freeEntries (peTile p) l) p := by
  unfold Mach.freeEntries
  split
  · exact refl
  · refine trans (trans ?_ (of_stores (sramPut_stores ..) (.sramPut ..))) (freedSignal _)
    exact modTile fun _ => rfl

theorem undone (j : JobId) (n : Nat) : Spares m (m.undone j (peTile p) n) p := by
  unfold Mach.undone
  split
  · exact refl
  · exact (countJ (by decide) (by unfold Spared; omega) n).trans (modTile fun _ => rfl)

theorem storeEnt (pl : Place) (i : Nat) (e : Entry) : Spares m (m.storeEnt p pl i e) p := by
  unfold Mach.storeEnt
  cases pl with
  | iris => exact modPe rfl rfl
  | mob => exact modCluster ..
  | deep =>
    dsimp only
    split
    · have stored : Spares m (m.modTile (peTile p) (fun t => { t with deep := SMap.set t.deep i e })) p := modTile fun _ => rfl
      refine (stored.trans (of_stores (hbmWords_stores ..) (.hbmWrite ..))).trans (modTile fun x => ?_)
      split <;> rfl
    · exact modTile fun _ => rfl

theorem modHead (pl : Place) (g : GRef) (f : Entry → Entry) : Spares m (m.modHead p pl g f) p := by
  unfold Mach.modHead
  split
  · exact (storeEnt ..).trans (of_stores (putWords_stores ..) (.putWords ..))
  · exact refl

theorem hregAdd (pl : Place) (g : GRef) : Spares m (m.hregAdd p pl g) p := by
  unfold Mach.hregAdd
  cases pl with
  | iris => exact refl
  | mob => exact modCluster ..
  | deep => exact modTile fun _ => rfl

theorem rebuildLast (r : NRef) (t : Tag) : Spares m (m.rebuildLast r t) p := of_stores (setLast_stores ..) (.setLast ..)

theorem spillEnd : Spares m (m.spillEnd p) p := by
  unfold Mach.spillEnd
  dsimp only
  split
  · exact modPe (f := fun x => { x with spill := _, deferred := _, gatherQ := _ }) rfl rfl
  · exact refl

theorem dropDesc (g : GRef) : Spares m (m.dropDesc p g) p := by
  have pool : Spares m (m.modPe p (fun x => { x with
      pool := x.pool.filter (fun d => !(d.2.job == g.job && d.2.node == g.node && d.2.key == g.key && d.2.cid == g.cid)),
      readyQ := x.readyQ.filter (· != g) })) p := modPe rfl rfl
  unfold Mach.dropDesc
  dsimp only
  generalize m.modPe p _ = n at pool
  cases (m.descOf p g).map (·.1) with
  | none => exact pool
  | some q =>
    refine trans (pool.trans ?_) spillEnd
    exact modTile fun _ => rfl

theorem withdraw (pl : Place) (g : GRef) : Spares m (m.withdraw p pl g) p :=
  ((dropDesc g).trans (modHead ..)).trans (countJ (by decide) (by unfold Spared; omega) 1)

theorem evalReady (g : GRef) : Spares m (m.evalReady p g) p := by
  have presented : ∀ x : Pe, (if x.spill then { x with deferred := x.deferred ++ [g] }
      else { x with gatherQ := x.gatherQ ++ [⟨g, .present⟩] } : Pe).ctxs = x.ctxs ∧
      (if x.spill then { x with deferred := x.deferred ++ [g] }
      else { x with gatherQ := x.gatherQ ++ [⟨g, .present⟩] } : Pe).emitQ = x.emitQ := fun x => by split <;> exact ⟨rfl, rfl⟩
  unfold Mach.evalReady
  split
  · exact refl
  · split
    · exact refl
    · split
      · split
        · exact modPe (presented _).1 (presented _).2
        · exact refl
      · split
        · exact refl
        · exact withdraw ..
      · exact refl

/-- A firing abandoned changes none of what is spared. -/
theorem abandonSpec (j : JobId) (n : BitVec 17) (k : Key) (jents : List Nat) : Spares m (m.abandonSpec ⟨j, p, n⟩ k jents) p := by
  have freed : Spares m (((m.freeEntries (peTile p) jents).countJ 0x4600 j 0x04 jents.length).undone j (peTile p) 1) p :=
    ((freeEntries jents).trans (countJ (by decide) (by unfold Spared; omega) _)).trans (undone j 1)
  unfold Mach.abandonSpec
  dsimp only
  split
  · exact (((freed.trans (modHead ..)).trans (hregAdd ..)).trans (rebuildLast ..)).trans (evalReady _)
  · exact freed

end Spares
end
end Mach
end Sys2Proof.Machine

namespace Sys2Proof.Machine

/-! The words STATE records (R116) -/

/-- A map after a write of a value at every key of a list. -/
theorem SMap.get?_foldl_set {α : Type} (f : Nat → α) (l : List Nat) (m : SMap α) (i : Nat) :
    SMap.get? (l.foldl (fun w k => SMap.set w k (f k)) m) i = if i ∈ l then some (f i) else SMap.get? m i := by
  induction l generalizing m with
  | nil => rfl
  | cons k l ih =>
    rw [List.foldl_cons, ih]
    by_cases later : i ∈ l
    · rw [if_pos later, if_pos (.tail _ later)]
    · rw [if_neg later]
      by_cases this : i = k
      · subst this
        rw [if_pos (.head _), SMap.get?_set_self]
      · rw [if_neg (fun h => (List.mem_cons.mp h).elim this later), SMap.get?_set_ne _ _ _ _ this]

theorem mem_swWords {sw : BitVec 4} {i : Nat} (h : i < 4) : i ∈ Mach.swWords sw ↔ sw.getLsbD i = true := by
  simp [Mach.swWords, h]

/-- A context after STATE: it records g12 to g15 for the words its mask names. -/
def Ctx.recorded (y : Ctx) (smask : BitVec 4) : Ctx :=
  { y with th := y.th.next, stw := (Mach.swWords smask).foldl (fun w i => SMap.set w i (y.th.get (BitVec.ofNat 5 (12 + i)))) y.stw }

theorem Ctx.recorded_stw (y : Ctx) (smask : BitVec 4) {i : Nat} (h : i < 4) : SMap.get? (y.recorded smask).stw i =
    if smask.getLsbD i then some (y.th.get (BitVec.ofNat 5 (12 + i))) else SMap.get? y.stw i :=
  (SMap.get?_foldl_set (fun i => y.th.get (BitVec.ofNat 5 (12 + i))) ..).trans (if_congr (mem_swWords h) rfl rfl)

theorem exec_state {s : State} {p : PeId} {c : BitVec 4} {ws : BitVec 16} {y : Ctx} (turns : s.turns p c ws y)
    (clear : s.m.peBlock y .peOnly = none) (smask : BitVec 4) :
    exec (.state (.pe p c ws) smask) s = .next (s.leaves p c (y.recorded smask)) :=
  issuePe_leaves (f := fun _ y => .ok (y.recorded smask)) turns clear rfl

/-! The summary of a speculative firing (R168) -/

/-- The distinct targets of records: every target, each once. -/
theorem eTargets_spec (l : List ERec) : (eTargets l).Nodup ∧ ∀ t, t ∈ eTargets l ↔ t ∈ l.map (fun e => e.target) := by
  suffices ∀ acc : List Tag, acc.Nodup → (l.foldl (fun acc r => if r.target ∈ acc then acc else acc ++ [r.target]) acc).Nodup ∧
      ∀ t, t ∈ l.foldl (fun acc r => if r.target ∈ acc then acc else acc ++ [r.target]) acc ↔ t ∈ acc ∨ t ∈ l.map (fun e => e.target) by
    obtain ⟨nodup, mem⟩ := this [] List.nodup_nil
    exact ⟨nodup, fun t => (mem t).trans (by simp)⟩
  induction l with
  | nil => exact fun acc h => ⟨h, fun t => by simp⟩
  | cons e l ih =>
    intro acc nodup
    rw [List.foldl_cons]
    split
    · rename_i known
      obtain ⟨nodup', mem⟩ := ih acc nodup
      refine ⟨nodup', fun t => (mem t).trans ?_⟩
      rw [List.map_cons, List.mem_cons]
      exact ⟨Or.imp_right .inr, fun h => h.elim .inl (fun h => h.elim (fun h => .inl (h ▸ known)) .inr)⟩
    · rename_i fresh
      obtain ⟨nodup', mem⟩ := ih (acc ++ [e.target]) (nodup.append (List.nodup_singleton _) (by simpa using fresh))
      refine ⟨nodup', fun t => (mem t).trans ?_⟩
      rw [List.map_cons, List.mem_cons, List.mem_append, List.mem_singleton, or_assoc]

/-- The records fit the summary slots where every EOFF code exists and the distinct targets are at most the slots. -/
theorem summaryFits_iff (l : List ERec) (jn : Nat) : summaryFits l jn = true ↔
    (∀ e ∈ l, e.eoff.isSome = true) ∧ (l.map (fun e => e.target)).dedup.length ≤ jn := by
  obtain ⟨nodup, mem⟩ := eTargets_spec l
  have same : (eTargets l).length = (l.map (fun e => e.target)).dedup.length :=
    ((List.perm_ext_iff_of_nodup nodup (List.nodup_dedup _)).mpr fun t => (mem t).trans List.mem_dedup.symm).length_eq
  rw [summaryFits, Bool.and_eq_true, List.all_eq_true, decide_eq_true_iff, same]

namespace Mach

section
variable {m : Mach} {p : PeId} {c : BitVec 4} {ws : BitVec 16} {y : Ctx}

/-! DONE (R92, R116, R168) -/

/-- The machine in which a firing has ended: its context is free, and is the last that issued. -/
def ended (m : Mach) (p : PeId) (c : BitVec 4) (y : Ctx) : Mach :=
  ((m.freeCtx p c).countJ 0x4400 y.job 0x0B).modPe p (fun x => { x with lastCtx := c })

theorem ended_pe : (m.ended p c y).pe p = { m.pe p with ctxs := SMap.erase (m.pe p).ctxs c.toNat, lastCtx := c } := by
  rw [ended, pe_modPe, pe_of_stores (countJ_stores ..), freeCtx, pe_modPe]

theorem ended_jobs : (m.ended p c y).jobs = m.jobs := by
  show ((m.freeCtx p c).countJ 0x4400 y.job 0x0B).jobs = m.jobs
  rw [jobs_of_stores (countJ_stores ..)]
  rfl

theorem ended_tiles : (m.ended p c y).tiles = m.tiles := by
  show ((m.freeCtx p c).countJ 0x4400 y.job 0x0B).tiles = m.tiles
  rw [tiles_of_stores (countJ_stores ..)]
  rfl

theorem ended_mem : (m.ended p c y).mem = m.mem := by
  show ((m.freeCtx p c).countJ 0x4400 y.job 0x0B).mem = m.mem
  rw [mem_countJ]
  rfl

theorem ended_counts : SameCounts m (m.ended p c y) := by
  have counted : SameCounts (m.freeCtx p c) ((m.freeCtx p c).countJ 0x4400 y.job 0x0B) :=
    .countJ (by decide) (by unfold Spared; omega) 1
  exact ⟨fun i s spared => counted.same i s spared⟩

/-- A firing that is not speculative beyond its summary ends in the Emit queue, and another is abandoned with a summary hold. -/
theorem firingDone_ends (turn : m.turn p c ws = some y) (clean : m.fetchClean (.pe p c ws) = true) (clear : m.peBlock y .peOnly = none)
    (room : (m.pe p).emitRecs + y.emits.length ≤ 64) : m.firingDone p c ws =
    if !y.safe && !summaryFits y.emits (m.nJn ⟨y.job, p, y.node⟩).toNat then
      (((m.ended p c y).takeHold (peTile p) ⟨y.job, mkNode (m.ended p c y).number p y.node, y.tag.key⟩).abandonSpec ⟨y.job, p, y.node⟩
        y.tag.key y.jents).countJ 0x4600 y.job 0x06
    else (m.ended p c y).modPe p (fun x => { x with emitQ := x.emitQ ++ [y.emitted] }) := by
  have words := (words_of_mem (ended_mem (m := m) (p := p) (c := c) (y := y)) ended_jobs ⟨y.job, p, y.node⟩).1
  have slots : (m.ended p c y).nJn ⟨y.job, p, y.node⟩ = m.nJn ⟨y.job, p, y.node⟩ := by rw [nJn, words, nJn]
  rw [← slots]
  unfold firingDone
  rw [turn]
  dsimp only
  rw [fetchCode_clean (turn_some turn) clean]
  dsimp only
  rw [clear]
  exact if_neg (Nat.not_lt.mpr room)

/-- A firing that does not fit is abandoned: what it leaves, and what is counted. -/
theorem abandoned_counts (live : (m.job y.job).state ≠ .empty) {n : Mach} (spares : Spares (m.ended p c y) n p) :
    (n.countJ 0x4600 y.job 0x06).objD (0x4600 + y.job.toNat) 0x06 0 = (m.objD (0x4600 + y.job.toNat) 0x06 0 + 1) % 2 ^ 64 ∧
    (n.countJ 0x4600 y.job 0x06).objD (0x4500 + y.job.toNat) 0x01 0 = m.objD (0x4500 + y.job.toNat) 0x01 0 := by
  have jobs : n.jobs = m.jobs := spares.jobs.trans ended_jobs
  have counts := ended_counts.trans spares.counts
  have overflows := counts.same (0x4600 + y.job.toNat) 0x06 (.inr ⟨by omega, by omega, rfl⟩)
  have rollbacks := counts.same (0x4500 + y.job.toNat) 0x01 (.inl ⟨by omega, by omega, rfl⟩)
  have counted : n.countJ 0x4600 y.job 0x06 = n.count (0x4600 + y.job.toNat) 0x06 := if_neg (by rw [jobs]; exact live)
  refine ⟨?_, ?_⟩
  · rw [counted, count, objD_setObj, objD, overflows, objD]
  · rw [counted, objD, count, setObj_obj? (by omega) (by decide) (by decide), rollbacks, objD]

end
end Mach
end Sys2Proof.Machine

section
open Sys2Proof Sys2Proof.Machine

/-- STATE and DONE of O19. -/
theorem stateAndDone : Claim.StateAndDone := by
  intro s p c ws y smask turns clear
  refine ⟨⟨y.recorded smask, exec_state turns clear smask, rfl, rfl, rfl, fun i hi => y.recorded_stw smask hi⟩, ?_⟩
  intro fits
  have ends := Mach.firingDone_ends turns.1 turns.2 clear
  have freed : SMap.get? ((s.m.ended p c y).pe p).ctxs c.toNat = none := by rw [Mach.ended_pe]; exact SMap.get?_erase_self ..
  refine ⟨fun kept room => ?_, fun speculative beyond room live => ?_⟩
  · have fit : (!y.safe && !summaryFits y.emits (s.m.nJn ⟨y.job, p, y.node⟩).toNat) = false := by
      rcases kept with safe | fit
      · rw [safe]; rfl
      · rw [(summaryFits_iff ..).mpr fit, Bool.not_true, Bool.and_false]
    have done := (ends room).trans (if_neg (by rw [fit]; exact Bool.false_ne_true))
    have pe : ((s.m.firingDone p c ws).pe p) = { (s.m.ended p c y).pe p with emitQ := ((s.m.ended p c y).pe p).emitQ ++ [y.emitted] } := by
      rw [done, Mach.pe_modPe]
    refine ⟨{ s with m := s.m.firingDone p c ws }, rfl, ?_⟩
    refine ⟨(congrArg (fun x : Pe => SMap.get? x.ctxs c.toNat) pe).trans freed, ?_, ?_, ?_, ?_, ?_⟩
    · rw [pe, Mach.ended_pe]
    · rw [pe, Mach.ended_pe]
    · rw [done]; exact Mach.ended_mem
    · rw [done]; exact Mach.ended_jobs
    · rw [done]; exact Mach.ended_tiles
  · have overflows : (!y.safe && !summaryFits y.emits (s.m.nJn ⟨y.job, p, y.node⟩).toNat) = true := by
      rw [speculative, Bool.eq_false_iff.mpr fun fit => beyond ((summaryFits_iff ..).mp fit)]; rfl
    have done := (ends room).trans (if_pos overflows)
    have spares := (Mach.Spares.takeHold (m := s.m.ended p c y) (p := p) ⟨y.job, mkNode (s.m.ended p c y).number p y.node, y.tag.key⟩).trans
      (.abandonSpec y.job y.node y.tag.key y.jents)
    obtain ⟨counted, rollbacks⟩ := Mach.abandoned_counts live spares
    refine ⟨{ s with m := s.m.firingDone p c ws }, rfl, ?_⟩
    dsimp only [State.ctxAt]
    rw [done, Mach.pe_of_stores (Mach.countJ_stores ..), Mach.tile_of_stores (Mach.countJ_stores ..), Mach.jobs_of_stores (Mach.countJ_stores ..),
      spares.ctxs, spares.emitQ, spares.pend, spares.jobs, Mach.ended_jobs, Mach.tile, Mach.ended_tiles]
    exact ⟨freed, by rw [Mach.ended_pe], rfl, rfl, counted, rollbacks⟩

/-- TRAP of O19. -/
theorem userTrap : Claim.UserTrap := fun _ _ imm issues =>
  issue_traps issues (f := fun _ => .error { code := 0x0C, value := imm.zeroExtend 64 }) rfl

/-- Settles O19, by its two parts. -/
theorem stateDoneAndUserTrap : Obligations.StateDoneAndUserTrap := ⟨stateAndDone, userTrap⟩

end

namespace Sys2Proof

open Machine (extract_append_above extract_append_low bit_append_above bit_append_low)

/-! Words of BIS: the fields the decoder reads in a word of each format (Table 5-2). -/

section
variable (op : BitVec 6) (rd ra rb rc : BitVec 5) (sz : Bool) (rm : BitVec 3)

theorem formR_fields (fn : BitVec 11) : let w := formR op rd ra rb fn
    wf w 26 6 = op ∧ wf w 21 5 = rd ∧ wf w 16 5 = ra ∧ wf w 11 5 = rb ∧ wf w 0 11 = fn := by
  unfold wf formR
  and_intros
  all_goals repeat rw [extract_append_above _ _ (by decide)]
  · exact BitVec.extractLsb'_eq_self
  all_goals exact extract_append_low _ _

theorem formI_fields (imm : BitVec 16) : let w := formI op rd ra imm
    wf w 26 6 = op ∧ wf w 21 5 = rd ∧ wf w 16 5 = ra ∧ wf w 0 16 = imm := by
  unfold wf formI
  and_intros
  all_goals repeat rw [extract_append_above _ _ (by decide)]
  · exact BitVec.extractLsb'_eq_self
  all_goals exact extract_append_low _ _

/-- The two parts of an immediate whose high part tells functions apart. -/
theorem formI_parts (k : BitVec 4) (imm : BitVec 12) : let w := formI op rd ra (k ++ imm)
    wf w 12 4 = k ∧ wf w 0 12 = imm := by
  unfold wf formI
  refine ⟨?_, ?_⟩
  · rw [BitVec.extractLsb'_append_eq_of_add_le (by decide), extract_append_above _ _ (by decide)]
    exact BitVec.extractLsb'_eq_self
  · rw [BitVec.extractLsb'_append_eq_of_add_le (by decide)]
    exact extract_append_low _ _

theorem formM_fields (sp wd : BitVec 2) (imm : BitVec 12) : let w := formM op rd ra sp wd imm
    wf w 26 6 = op ∧ wf w 21 5 = rd ∧ wf w 16 5 = ra ∧ wf w 14 2 = sp ∧ wf w 12 2 = wd ∧ wf w 0 12 = imm := by
  unfold wf formM
  and_intros
  all_goals repeat rw [extract_append_above _ _ (by decide)]
  · exact BitVec.extractLsb'_eq_self
  all_goals exact extract_append_low _ _

theorem formB_fields (cond : BitVec 3) (off : BitVec 13) : let w := formB ra rb cond off
    wf w 26 6 = 0x14 ∧ wf w 21 5 = ra ∧ wf w 16 5 = rb ∧ wf w 13 3 = cond ∧ wf w 0 13 = off := by
  unfold wf formB
  and_intros
  all_goals repeat rw [extract_append_above _ _ (by decide)]
  · exact BitVec.extractLsb'_eq_self
  all_goals exact extract_append_low _ _

theorem formQ_fields (pd pa pb ps : BitVec 4) (fn : BitVec 3) : let w := formQ pd pa pb ps fn
    wf w 26 6 = 0x0B ∧ wf w 22 4 = pd ∧ wf w 18 4 = pa ∧ wf w 14 4 = pb ∧ wf w 10 4 = ps ∧ wf w 7 3 = fn ∧ wf w 0 7 = 0 := by
  unfold wf formQ
  and_intros
  all_goals repeat rw [extract_append_above _ _ (by decide)]
  · exact BitVec.extractLsb'_eq_self
  all_goals exact extract_append_low _ _

theorem formF_fields (fn : BitVec 6) : let w := formF sz rm rd ra rb fn
    w.getLsbD 0 = sz ∧ wf w 26 6 = 0x0C ∧ wf w 21 5 = rd ∧ wf w 16 5 = ra ∧ wf w 11 5 = rb ∧ wf w 5 6 = fn ∧ wf w 2 3 = rm ∧ wf w 1 1 = 0 := by
  unfold wf formF
  refine ⟨bit_append_low _ _, ?_⟩
  and_intros
  all_goals repeat rw [extract_append_above _ _ (by decide)]
  · exact BitVec.extractLsb'_eq_self
  all_goals exact extract_append_low _ _

theorem formFM_fields (v : BitVec 2) : let w := formFM sz rm rd ra rb rc v
    w.getLsbD 0 = sz ∧ wf w 26 6 = 0x0D ∧ wf w 21 5 = rd ∧ wf w 16 5 = ra ∧ wf w 11 5 = rb ∧ wf w 6 5 = rc ∧ wf w 4 2 = v ∧ wf w 1 3 = rm := by
  unfold wf formFM
  refine ⟨bit_append_low _ _, ?_⟩
  and_intros
  all_goals repeat rw [extract_append_above _ _ (by decide)]
  · exact BitVec.extractLsb'_eq_self
  all_goals exact extract_append_low _ _

theorem formE_fields (pv : BitVec 4) (ro : BitVec 5) (t : Bool) (mask : BitVec 8) : let w := formE op pv ro t mask
    w.getLsbD 16 = t ∧ wf w 26 6 = op ∧ wf w 22 4 = pv ∧ wf w 17 5 = ro ∧ wf w 8 8 = mask ∧ wf w 0 8 = 0 := by
  unfold wf formE
  refine ⟨?_, ?_⟩
  · repeat rw [bit_append_above _ _ (by decide)]
    exact bit_append_low _ _
  and_intros
  all_goals repeat rw [extract_append_above _ _ (by decide)]
  · exact BitVec.extractLsb'_eq_self
  all_goals exact extract_append_low _ _

end

/-! A word of each format is an instruction of the table of its opcode. -/

section
variable (x : Exec) (rd ra rb rc : BitVec 5) (sz : Bool) (rm : BitVec 3)

theorem decodeBis_alu (fn : BitVec 11) : decodeBis x (formR 1 rd ra rb fn) = decodeAlu x rd ra rb fn := by
  obtain ⟨op, rd', ra', rb', fn'⟩ := formR_fields 1 rd ra rb fn
  simp only [decodeBis, op, rd', ra', rb', fn']
  rfl

theorem decodeBis_l4 (pd pa pb ps : BitVec 4) (fn : BitVec 3) : decodeBis x (formQ pd pa pb ps fn) = decodeL4 x pd pa pb ps fn := by
  obtain ⟨op, pd', pa', pb', ps', fn', zero⟩ := formQ_fields pd pa pb ps fn
  simp only [decodeBis, op, pd', pa', pb', ps', fn', zero]
  rfl

theorem decodeBis_fpa (fn : BitVec 6) : decodeBis x (formF sz rm rd ra rb fn) = decodeFpa x sz rm rd ra rb fn := by
  obtain ⟨size, op, rd', ra', rb', fn', rm', zero⟩ := formF_fields rd ra rb sz rm fn
  simp only [decodeBis, size, op, rd', ra', rb', fn', rm', zero]
  rfl

theorem decodeBis_fma (v : BitVec 2) : decodeBis x (formFM sz rm rd ra rb rc v) = decodeFma x sz rm rd ra rb rc v := by
  obtain ⟨size, op, rd', ra', rb', rc', v', rm'⟩ := formFM_fields rd ra rb rc sz rm v
  simp only [decodeBis, size, op, rd', ra', rb', rc', v', rm']
  rfl

theorem decodeBis_br (cond : BitVec 3) (off : BitVec 13) : decodeBis x (formB ra rb cond off) = decodeBr x ra rb off cond := by
  obtain ⟨op, ra', rb', cond', off'⟩ := formB_fields ra rb cond off
  simp only [decodeBis, op, ra', rb', cond', off']
  rfl

theorem decodeBis_csr (k : BitVec 4) (csr : BitVec 12) : decodeBis x (formI 0x21 rd ra (k ++ csr)) = decodeCsr x rd ra k csr := by
  obtain ⟨op, rd', ra', -⟩ := formI_fields 0x21 rd ra (k ++ csr)
  obtain ⟨k', csr'⟩ := formI_parts 0x21 rd ra k csr
  simp only [decodeBis, op, rd', ra', k', csr']
  rfl

theorem decodeBis_lock (k : BitVec 4) (imm : BitVec 12) : decodeBis x (formI 0x22 rd ra (k ++ imm)) = decodeLock x rd ra k imm := by
  obtain ⟨op, rd', ra', -⟩ := formI_fields 0x22 rd ra (k ++ imm)
  obtain ⟨k', imm'⟩ := formI_parts 0x22 rd ra k imm
  simp only [decodeBis, op, rd', ra', k', imm']
  rfl

theorem decodeShi_parts (k : BitVec 10) (n : BitVec 6) : (k ++ n : BitVec 16).extractLsb' 6 10 = k ∧ (k ++ n : BitVec 16).extractLsb' 0 6 = n := by
  refine ⟨?_, extract_append_low _ _⟩
  rw [extract_append_above _ _ (by decide)]
  exact BitVec.extractLsb'_eq_self

theorem decodeBis_shi (n : BitVec 6) :
    decodeBis x (formI 0x08 rd ra ((0 : BitVec 10) ++ n)) = some (.shiSll x rd ra n) ∧
    decodeBis x (formI 0x08 rd ra ((1 : BitVec 10) ++ n)) = some (.shiSrl x rd ra n) ∧
    decodeBis x (formI 0x08 rd ra ((2 : BitVec 10) ++ n)) = some (.shiSra x rd ra n) ∧
    decodeBis x (formI 0x08 rd ra ((3 : BitVec 10) ++ n)) = some (.shiRol x rd ra n) ∧
    decodeBis x (formI 0x08 rd ra ((4 : BitVec 10) ++ n)) = some (.shiRor x rd ra n) := by
  and_intros
  all_goals
    simp only [decodeBis, decodeShi, formI_fields, decodeShi_parts]
    rfl

theorem decodeBis_imm (imm : BitVec 16) :
    decodeBis x (formI 0x02 rd ra imm) = some (.addi x rd ra imm) ∧ decodeBis x (formI 0x03 rd ra imm) = some (.andi x rd ra imm) ∧
    decodeBis x (formI 0x04 rd ra imm) = some (.ori x rd ra imm) ∧ decodeBis x (formI 0x05 rd ra imm) = some (.xori x rd ra imm) ∧
    decodeBis x (formI 0x06 rd ra imm) = some (.slti x rd ra imm) ∧ decodeBis x (formI 0x07 rd ra imm) = some (.sltiu x rd ra imm) ∧
    decodeBis x (formI 0x16 rd ra imm) = some (.jalr x rd ra imm) := by
  and_intros
  all_goals
    simp only [decodeBis, formI_fields]
    rfl

theorem decodeBis_lui (imm : BitVec 16) : decodeBis x (formI 0x09 rd 0 imm) = some (.lui x rd imm) := by
  simp only [decodeBis, formI_fields]
  rfl

theorem decodeBis_trap (imm : BitVec 16) : decodeBis x (formI 0x1C 0 0 imm) = some (.trap x imm) := by
  simp only [decodeBis, formI_fields]
  rfl

theorem decodeBis_mem (sp w : BitVec 2) (imm : BitVec 12) :
    decodeBis x (formM 0x10 rd ra sp w imm) = some (.ld x rd ra sp w imm) ∧ decodeBis x (formM 0x11 rd ra sp w imm) = some (.lds x rd ra sp w imm) ∧
    decodeBis x (formM 0x12 rd ra sp w imm) = some (.st x rd ra sp w imm) := by
  and_intros
  all_goals
    simp only [decodeBis, formM_fields]
    rfl

theorem decodeBis_sys (fn : BitVec 11) : decodeBis x (formR 0x20 0 0 0 fn) = decodeSys x 0 fn := by
  obtain ⟨op, -, -, -, fn'⟩ := formR_fields 0x20 0 0 0 fn
  have rest : wf (formR 0x20 0 0 0 fn) 11 15 = 0 := by
    unfold wf formR
    rw [extract_append_above _ _ (by decide)]
    rfl
  simp only [decodeBis, op, rest, fn']
  rfl

theorem decodeBis_lut3 (tt : BitVec 8) :
    decodeBis x ((0x0A : BitVec 6) ++ rd ++ ra ++ rb ++ tt ++ (0 : BitVec 3)) = some (.lut3 x rd ra rb tt) := by
  have fields : let w : BitVec 32 := (0x0A : BitVec 6) ++ rd ++ ra ++ rb ++ tt ++ (0 : BitVec 3)
      wf w 26 6 = 0x0A ∧ wf w 21 5 = rd ∧ wf w 16 5 = ra ∧ wf w 11 5 = rb ∧ wf w 3 8 = tt ∧ wf w 0 3 = 0 := by
    unfold wf
    and_intros
    all_goals repeat rw [extract_append_above _ _ (by decide)]
    · exact BitVec.extractLsb'_eq_self
    all_goals exact extract_append_low _ _
  simp only [decodeBis, fields]
  rfl

theorem decodeBis_jal (off : BitVec 21) : decodeBis x ((0x15 : BitVec 6) ++ rd ++ off) = some (.jal x rd off) := by
  have fields : let w : BitVec 32 := (0x15 : BitVec 6) ++ rd ++ off
      wf w 26 6 = 0x15 ∧ wf w 21 5 = rd ∧ wf w 0 21 = off := by
    unfold wf
    and_intros
    all_goals repeat rw [extract_append_above _ _ (by decide)]
    · exact BitVec.extractLsb'_eq_self
    all_goals exact extract_append_low _ _
  simp only [decodeBis, fields]
  rfl

theorem decodeBis_emit (pv : BitVec 4) (ro : BitVec 5) (t : Bool) (mask : BitVec 8) :
    decodeBis x (formE 0x18 pv ro t mask) = some (.emit x pv ro t mask) := by
  simp only [decodeBis, formE_fields]
  rfl

theorem decodeBis_emitd (pv : BitVec 4) (t : Bool) (mask : BitVec 8) : decodeBis x (formE 0x19 pv 0 t mask) = some (.emitd x pv t mask) := by
  simp only [decodeBis, formE_fields]
  rfl

theorem decodeBis_state (smask : BitVec 4) : decodeBis x ((0x1A : BitVec 6) ++ (0 : BitVec 22) ++ smask) = some (.state x smask) := by
  have fields : let w : BitVec 32 := (0x1A : BitVec 6) ++ (0 : BitVec 22) ++ smask
      wf w 26 6 = 0x1A ∧ wf w 4 22 = 0 ∧ wf w 0 4 = smask := by
    unfold wf
    and_intros
    all_goals repeat rw [extract_append_above _ _ (by decide)]
    · exact BitVec.extractLsb'_eq_self
    all_goals exact extract_append_low _ _
  simp only [decodeBis, fields]
  rfl

theorem decodeBis_done : decodeBis x ((0x1B : BitVec 6) ++ (0 : BitVec 26)) = some (.done x) := rfl

end

/-! Each table gives only instructions whose word it reads back. -/

/-- A command has a word that an executor decodes to it. -/
def Spells (x : Exec) (i : Instr) : Prop := ∃ w, encodeBis i = some w ∧ decodeBis x w = some i

/-- What a table gives, where it gives an instruction, has a word that decodes to it. -/
def Reads (x : Exec) (o : Option Instr) : Prop := ∀ i, o = some i → Spells x i

section
variable {x : Exec}

theorem Reads.none : Reads x none := fun _ h => nomatch h

theorem Reads.some {i : Instr} {w : BitVec 32} (h : encodeBis i = some w) (h' : decodeBis x w = .some i) : Reads x (.some i) :=
  fun _ e => Option.some.inj e ▸ ⟨w, h, h'⟩

theorem Reads.whenOk {i : Instr} {w : BitVec 32} (h : encodeBis i = .some w) (h' : decodeBis x w = .some i) (ok : Bool) : Reads x (whenOk ok i) := by
  cases ok with
  | false => exact .none
  | true => exact .some h h'

theorem decodeAlu_reads (rd ra rb : BitVec 5) (fn : BitVec 11) : Reads x (decodeAlu x rd ra rb fn) := by
  unfold decodeAlu
  split
  any_goals exact .some rfl (decodeBis_alu ..)
  any_goals exact .whenOk rfl (decodeBis_alu ..) _
  all_goals exact .none

theorem decodeShi_reads (rd ra : BitVec 5) (imm : BitVec 16) : Reads x (decodeShi x rd ra imm) := by
  obtain ⟨sll, srl, sra, rol, ror⟩ := decodeBis_shi x rd ra (imm.extractLsb' 0 6)
  unfold decodeShi
  dsimp only
  split
  · exact .some rfl sll
  · exact .some rfl srl
  · exact .some rfl sra
  · exact .some rfl rol
  · exact .some rfl ror
  · exact .none

theorem decodeL4_reads (pd pa pb ps : BitVec 4) (fn : BitVec 3) : Reads x (decodeL4 x pd pa pb ps fn) := by
  unfold decodeL4
  split
  any_goals exact .some rfl (decodeBis_l4 ..)
  any_goals exact .whenOk rfl (decodeBis_l4 ..) _
  all_goals exact .none

theorem decodeFpa_reads (sz : Bool) (rm : BitVec 3) (rd ra rb : BitVec 5) (fn : BitVec 6) : Reads x (decodeFpa x sz rm rd ra rb fn) := by
  unfold decodeFpa
  split
  any_goals exact .some rfl (decodeBis_fpa ..)
  any_goals exact .whenOk rfl (decodeBis_fpa ..) _
  all_goals exact .none

theorem decodeFma_reads (sz : Bool) (rm : BitVec 3) (rd ra rb rc : BitVec 5) (v : BitVec 2) : Reads x (decodeFma x sz rm rd ra rb rc v) := by
  unfold decodeFma
  split
  all_goals exact .some rfl (decodeBis_fma ..)

theorem decodeBr_reads (ra rb : BitVec 5) (off : BitVec 13) (cond : BitVec 3) : Reads x (decodeBr x ra rb off cond) := by
  unfold decodeBr
  split
  all_goals exact .some rfl (decodeBis_br ..)

theorem decodeSys_reads (rest : BitVec 15) (fn : BitVec 11) : Reads x (decodeSys x rest fn) := by
  unfold decodeSys
  split
  · exact .whenOk rfl (decodeBis_sys ..) _
  · exact .whenOk rfl (decodeBis_sys ..) _
  · exact .whenOk rfl (decodeBis_sys ..) _
  · exact .none

theorem decodeCsr_reads (rd ra : BitVec 5) (op : BitVec 4) (csr : BitVec 12) : Reads x (decodeCsr x rd ra op csr) := by
  unfold decodeCsr
  split
  · exact .whenOk rfl (decodeBis_csr ..) _
  · exact .whenOk rfl (decodeBis_csr ..) _
  · exact .some rfl (decodeBis_csr ..)
  · exact .some rfl (decodeBis_csr ..)
  · exact .none

theorem decodeLock_reads (rd ra : BitVec 5) (op : BitVec 4) (imm : BitVec 12) : Reads x (decodeLock x rd ra op imm) := by
  unfold decodeLock
  split
  · exact .some rfl (decodeBis_lock ..)
  · exact .some rfl (decodeBis_lock ..)
  · exact .none

theorem decodeBis_reads (w : BitVec 32) : Reads x (decodeBis x w) := by
  obtain ⟨addi, andi, ori, xori, slti, sltiu, jalr⟩ := decodeBis_imm x (wf w 21 5) (wf w 16 5) (wf w 0 16)
  obtain ⟨ld, lds, st⟩ := decodeBis_mem x (wf w 21 5) (wf w 16 5) (wf w 14 2) (wf w 12 2) (wf w 0 12)
  unfold decodeBis
  dsimp only
  split
  · exact decodeAlu_reads _ _ _ _
  · exact .some rfl addi
  · exact .some rfl andi
  · exact .some rfl ori
  · exact .some rfl xori
  · exact .some rfl slti
  · exact .some rfl sltiu
  · exact decodeShi_reads _ _ _
  · exact .whenOk rfl (decodeBis_lui ..) _
  · exact .whenOk rfl (decodeBis_lut3 ..) _
  · split
    · exact decodeL4_reads _ _ _ _ _
    · exact .none
  · split
    · exact decodeFpa_reads _ _ _ _ _ _
    · exact .none
  · exact decodeFma_reads _ _ _ _ _ _ _
  · exact .some rfl ld
  · exact .some rfl lds
  · exact .some rfl st
  · exact decodeBr_reads _ _ _ _
  · exact .some rfl (decodeBis_jal ..)
  · exact .some rfl jalr
  · exact .whenOk rfl (decodeBis_emit ..) _
  · exact .whenOk rfl (decodeBis_emitd ..) _
  · exact .whenOk rfl (decodeBis_state ..) _
  · exact .whenOk rfl (decodeBis_done ..) _
  · exact .whenOk rfl (decodeBis_trap ..) _
  · exact decodeSys_reads _ _
  · exact decodeCsr_reads _ _ _ _
  · exact decodeLock_reads _ _ _ _
  · exact .none
end

/-- A command that has a word is what the word decodes to: its format's lemma gives the table, and the table the command. -/
theorem decodeBis_of_encodeBis {i : Instr} {w : BitVec 32} (h : encodeBis i = some w) : ∃ x, decodeBis x w = some i := by
  revert h
  fun_cases encodeBis i
  all_goals
    intro h
    cases h
  all_goals
    refine ⟨‹Exec›, ?_⟩
    simp only [decodeBis_alu, decodeBis_imm, decodeBis_shi, decodeBis_lui, decodeBis_lut3, decodeBis_l4, decodeBis_fpa, decodeBis_fma,
      decodeBis_mem, decodeBis_br, decodeBis_jal, decodeBis_emit, decodeBis_emitd, decodeBis_state, decodeBis_done, decodeBis_trap,
      decodeBis_sys, decodeBis_csr, decodeBis_lock]
  all_goals rfl

/-- Settles O58: the word of an instruction has the fields of its format, which the table of its opcode reads back. -/
theorem encodedInstructionsDecode : Obligations.EncodedInstructionsDecode :=
  ⟨fun _ _ => decodeBis_of_encodeBis, fun _ _ _ h => decodeBis_reads _ _ h⟩
end Sys2Proof

namespace Sys2Proof.Machine

/-! Integer results (R103 to R106, R128): the value each operation of words stands for. -/

section
variable (a b : Word)

theorem word_sub_eq : a - b = BitVec.ofInt 64 (Int.ofNat a.toNat - Int.ofNat b.toNat) := by
  rw [BitVec.sub_eq_add_neg, Int.sub_eq_add_neg, BitVec.ofInt_add, BitVec.ofInt_neg, Int.ofNat_eq_natCast, Int.ofNat_eq_natCast,
    BitVec.ofInt_natCast, BitVec.ofInt_natCast, BitVec.ofNat_toNat, BitVec.ofNat_toNat, BitVec.setWidth_eq, BitVec.setWidth_eq]

theorem flag_eq (p : Bool) {q : Prop} [Decidable q] (h : p = true ↔ q) : flag p = if q then 1 else 0 := if_congr h rfl rfl

theorem flag_slt : flag (a.slt b) = if a.toInt < b.toInt then 1 else 0 := flag_eq _ BitVec.slt_iff_toInt_lt

theorem flag_ult : flag (a.ult b) = if a.toNat < b.toNat then 1 else 0 := flag_eq _ (BitVec.ult_iff_lt.trans BitVec.lt_def)

theorem signed_min : (if b.slt a then b else a) = BitVec.ofInt 64 (min a.toInt b.toInt) := by
  rw [ite_congr (propext BitVec.slt_iff_toInt_lt) (fun _ => rfl) (fun _ => rfl)]
  rcases lt_or_ge b.toInt a.toInt with h | h
  · rw [if_pos h, min_eq_right h.le, BitVec.ofInt_toInt]
  · rw [if_neg h.not_gt, min_eq_left h, BitVec.ofInt_toInt]

theorem signed_max : (if a.slt b then b else a) = BitVec.ofInt 64 (max a.toInt b.toInt) := by
  rw [ite_congr (propext BitVec.slt_iff_toInt_lt) (fun _ => rfl) (fun _ => rfl)]
  rcases lt_or_ge a.toInt b.toInt with h | h
  · rw [if_pos h, max_eq_right h.le, BitVec.ofInt_toInt]
  · rw [if_neg h.not_gt, max_eq_left h, BitVec.ofInt_toInt]

theorem unsigned_min : (if b.ult a then b else a) = BitVec.ofNat 64 (min a.toNat b.toNat) := by
  rw [ite_congr (propext (BitVec.ult_iff_lt.trans BitVec.lt_def)) (fun _ => rfl) (fun _ => rfl)]
  rcases lt_or_ge b.toNat a.toNat with h | h
  · rw [if_pos h, min_eq_right h.le, BitVec.ofNat_toNat, BitVec.setWidth_eq]
  · rw [if_neg h.not_gt, min_eq_left h, BitVec.ofNat_toNat, BitVec.setWidth_eq]

theorem unsigned_max : (if a.ult b then b else a) = BitVec.ofNat 64 (max a.toNat b.toNat) := by
  rw [ite_congr (propext (BitVec.ult_iff_lt.trans BitVec.lt_def)) (fun _ => rfl) (fun _ => rfl)]
  rcases lt_or_ge a.toNat b.toNat with h | h
  · rw [if_pos h, max_eq_right h.le, BitVec.ofNat_toNat, BitVec.setWidth_eq]
  · rw [if_neg h.not_gt, max_eq_left h, BitVec.ofNat_toNat, BitVec.setWidth_eq]

theorem sdiv_eq_ofInt : BitVec.sdiv a b = BitVec.ofInt 64 (a.toInt.tdiv b.toInt) :=
  BitVec.eq_of_toInt_eq (by rw [BitVec.toInt_sdiv, BitVec.toInt_ofInt])

theorem srem_eq_ofInt : BitVec.srem a b = BitVec.ofInt 64 (a.toInt.tmod b.toInt) := by
  rw [← BitVec.toInt_srem, BitVec.ofInt_toInt]

theorem udiv_eq_ofNat : BitVec.udiv a b = BitVec.ofNat 64 (a.toNat / b.toNat) := by
  rw [← BitVec.toNat_udiv, BitVec.ofNat_toNat, BitVec.setWidth_eq]; rfl

theorem umod_eq_ofNat : BitVec.umod a b = BitVec.ofNat 64 (a.toNat % b.toNat) := by
  rw [← BitVec.toNat_umod, BitVec.ofNat_toNat, BitVec.setWidth_eq]; rfl

theorem toInt_sext16 (imm : BitVec 16) : (sext16 imm).toInt = imm.toInt := BitVec.toInt_signExtend_of_le (by decide)

theorem sext16_eq (imm : BitVec 16) : sext16 imm = BitVec.ofInt 64 imm.toInt := by
  rw [← toInt_sext16, BitVec.ofInt_toInt]

theorem zext16_eq (imm : BitVec 16) : zext16 imm = BitVec.ofNat 64 imm.toNat := (BitVec.ofNat_toNat ..).symm

theorem add_sext16 (imm : BitVec 16) : a + sext16 imm = BitVec.ofInt 64 (a.toInt + imm.toInt) := by
  rw [BitVec.ofInt_add, BitVec.ofInt_toInt, sext16_eq]

theorem sext16_shiftLeft (imm : BitVec 16) : sext16 imm <<< 16 = BitVec.ofInt 64 (imm.toInt * 65536) := by
  rw [BitVec.shiftLeft_eq_mul_twoPow, BitVec.ofInt_mul, sext16_eq]
  rfl

end

/-- The number a word's lowest bits add up to: it has those bits and no higher one. -/
theorem foldl_bits (f : Nat → Bool) (n : Nat) :
    (List.range n).foldl (fun k i => if f i then k + 2 ^ i else k) 0 < 2 ^ n ∧
      ∀ i < n, ((List.range n).foldl (fun k i => if f i then k + 2 ^ i else k) 0).testBit i = f i := by
  induction n with
  | zero => exact ⟨Nat.one_pos, fun _ h => absurd h (Nat.not_lt_zero _)⟩
  | succ n ih =>
    obtain ⟨small, bit⟩ := ih
    rw [List.range_succ, List.foldl_append, List.foldl_cons, List.foldl_nil]
    generalize (List.range n).foldl _ 0 = k at small bit
    rw [Nat.pow_succ]
    cases hf : f n with
    | false =>
      rw [if_neg Bool.false_ne_true]
      refine ⟨by omega, fun i hi => ?_⟩
      rcases Nat.lt_succ_iff_lt_or_eq.mp hi with lt | rfl
      · exact bit i lt
      · exact (Nat.testBit_lt_two_pow small).trans hf.symm
    | true =>
      rw [if_pos rfl]
      refine ⟨by omega, fun i hi => ?_⟩
      rw [Nat.add_comm]
      rcases Nat.lt_succ_iff_lt_or_eq.mp hi with lt | rfl
      · exact (Nat.testBit_two_pow_add_gt lt k).trans (bit i lt)
      · rw [Nat.testBit_two_pow_add_eq, Nat.testBit_lt_two_pow small, hf]; rfl

/-- A bit of a word made of its bits. -/
theorem getLsbD_ofBits64 (f : Nat → Bool) {i : Nat} (h : i < 64) : (ofBits64 f).getLsbD i = f i := by
  rw [ofBits64, BitVec.getLsbD_ofNat, (foldl_bits f 64).2 i h, decide_eq_true h, Bool.true_and]

theorem getLsbD_lut3 (a b c : Word) (tt : BitVec 8) {i : Nat} (h : i < 64) : (lut3 a b c tt).getLsbD i =
    tt.getLsbD (4 * (a.getLsbD i).toNat + 2 * (b.getLsbD i).toNat + (c.getLsbD i).toNat) := by
  have toNat (p : Bool) : b2n p = p.toNat := by cases p <;> rfl
  simp only [lut3, getLsbD_ofBits64 _ h, toNat]

/-- The next state of a division by a divisor that is not 0. -/
theorem issueDiv_sets {s : State} {x : Exec} (issues : s.m.issues x = true) {rd ra rb : BitVec 5} {f : Word → Word → Word} {v : Word}
    (nonzero : s.reg x rb ≠ 0) (value : f (s.reg x ra) (s.reg x rb) = v) :
    s.on (fun m => m.issueDiv x rd ra rb f) = .next (s.sets x rd v) := by
  subst value
  exact congrArg (fun m => Host.Outcome.next ({ s with m := m } : State)) (issueDiv_eq issues nonzero)

end Sys2Proof.Machine

section
open Sys2Proof Sys2Proof.Machine

theorem arithmeticAndLogicResults : Claim.ArithmeticAndLogicResults := by
  intro s x rd ra rb issues
  exact ⟨issueReg_sets issues (BitVec.add_def ..), issueReg_sets issues (word_sub_eq ..), issueReg_sets issues rfl,
    issueReg_sets issues rfl, issueReg_sets issues rfl, issueReg_sets issues rfl, issueReg_sets issues rfl, issueReg_sets issues rfl,
    issueReg_sets issues (flag_slt ..), issueReg_sets issues (flag_ult ..), issueReg_sets issues (signed_min ..),
    issueReg_sets issues (signed_max ..), issueReg_sets issues (unsigned_min ..), issueReg_sets issues (unsigned_max ..)⟩

theorem multiplyAndDivideResults : Claim.MultiplyAndDivideResults := by
  intro s x rd ra rb issues
  refine ⟨issueReg_sets issues (BitVec.mul_def ..), issueReg_sets issues rfl, issueReg_sets issues rfl, fun nonzero => ?_⟩
  exact ⟨issueDiv_sets issues nonzero (sdiv_eq_ofInt ..), issueDiv_sets issues nonzero (udiv_eq_ofNat ..),
    issueDiv_sets issues nonzero (srem_eq_ofInt ..), issueDiv_sets issues nonzero (umod_eq_ofNat ..)⟩

theorem divisionByZeroTraps : Claim.DivisionByZeroTraps := by
  intro s x rd ra rb issues zero
  have traps (f : Word → Word → Word) : s.on (fun m => m.issueDiv x rd ra rb f) = .next (s.traps x divZero) :=
    congrArg (fun m => Host.Outcome.next ({ s with m := m } : State)) (issueDiv_zero issues zero)
  exact ⟨traps _, traps _, traps _, traps _⟩

theorem immediateAndTernaryResults : Claim.ImmediateAndTernaryResults := by
  intro s x rd ra rb imm tt issues
  refine ⟨issueReg_sets issues (add_sext16 ..), issueReg_sets issues (congrArg _ (zext16_eq imm)), issueReg_sets issues (congrArg _ (zext16_eq imm)),
    issueReg_sets issues (congrArg _ (zext16_eq imm)), issueReg_sets issues ?_, issueReg_sets issues ?_, issueReg_sets issues (sext16_shiftLeft imm),
    ⟨_, issueReg_sets issues rfl, fun i hi => getLsbD_lut3 _ _ _ tt hi⟩⟩
  · exact (flag_slt ..).trans (by rw [toInt_sext16]; rfl)
  · exact (flag_ult ..).trans (by rw [sext16_eq]; rfl)

/-- Settles O5, by its four parts. -/
theorem integerResults : Obligations.IntegerResults :=
  ⟨arithmeticAndLogicResults, multiplyAndDivideResults, divisionByZeroTraps, immediateAndTernaryResults⟩

end

namespace Sys2Proof.Machine

/-! Shifts and rotates (R104), bit by bit. -/

section
variable (a n : Word) {i : Nat} (inside : i < 64)
include inside

theorem getLsbD_sll : (sll a n).getLsbD i = (decide (n.toNat ≤ i) && a.getLsbD (i - n.toNat)) := by
  unfold sll
  split
  case isTrue far =>
    have : ¬ n.toNat ≤ i := by omega
    simp [this]
  case isFalse =>
    rw [BitVec.getLsbD_shiftLeft, decide_eq_true inside, Bool.true_and, ← decide_not, decide_eq_decide.mpr Nat.not_lt]

theorem getLsbD_srl : (srl a n).getLsbD i = a.getLsbD (i + n.toNat) := by
  unfold srl
  split
  case isTrue far => exact BitVec.getLsbD_zero.trans (BitVec.getLsbD_of_ge a _ (by omega)).symm
  case isFalse => rw [BitVec.getLsbD_ushiftRight, Nat.add_comm]

theorem getLsbD_sra : (sra a n).getLsbD i = a.getLsbD (min 63 (i + n.toNat)) := by
  unfold sra
  have msb : a.msb = a.getLsbD 63 := BitVec.msb_eq_getLsbD_last a
  split
  case isTrue far =>
    rw [min_eq_left (by omega), ← msb]
    cases a.msb with
    | false => exact BitVec.getLsbD_zero
    | true => exact BitVec.getLsbD_allOnes.trans (decide_eq_true inside)
  case isFalse =>
    rw [BitVec.getLsbD_sshiftRight, decide_eq_false (Nat.not_le.mpr inside), Bool.not_false, Bool.true_and, Nat.add_comm]
    split
    case isTrue low => rw [min_eq_right (by omega)]
    case isFalse high => rw [min_eq_left (by omega), msb]

theorem getLsbD_rol : (rol a n).getLsbD ((i + n.toNat) % 64) = a.getLsbD i := by
  rw [rol, BitVec.getLsbD_rotateLeft, Nat.mod_mod]
  by_cases low : (i + n.toNat) % 64 < n.toNat % 64
  · rw [decide_eq_true low, cond_true]
    congr 1
    omega
  · rw [decide_eq_false low, cond_false, decide_eq_true (Nat.mod_lt _ (by decide)), Bool.true_and]
    congr 1
    omega

theorem getLsbD_ror : (ror a n).getLsbD i = a.getLsbD ((i + n.toNat) % 64) := by
  rw [ror, BitVec.getLsbD_rotateRight, Nat.mod_mod]
  by_cases low : i < 64 - n.toNat % 64
  · rw [decide_eq_true low, cond_true]
    congr 1
    omega
  · rw [decide_eq_false low, cond_false, decide_eq_true inside, Bool.true_and]
    congr 1
    omega

end

end Sys2Proof.Machine

section
open Sys2Proof Sys2Proof.Machine

theorem shiftAndRotateResults : Claim.ShiftAndRotateResults := fun _ _ _ _ _ issues =>
  ⟨⟨_, issueReg_sets issues rfl, fun _ h => getLsbD_sll _ _ h⟩, ⟨_, issueReg_sets issues rfl, fun _ h => getLsbD_srl _ _ h⟩,
    ⟨_, issueReg_sets issues rfl, fun _ h => getLsbD_sra _ _ h⟩, ⟨_, issueReg_sets issues rfl, fun _ h => getLsbD_rol _ _ h⟩,
    ⟨_, issueReg_sets issues rfl, fun _ h => getLsbD_ror _ _ h⟩⟩

theorem immediateShiftResults : Claim.ImmediateShiftResults := by
  intro s x rd ra n issues
  have count : (n.zeroExtend 64).toNat = n.toNat := BitVec.toNat_setWidth_of_le (by decide)
  rw [← count]
  exact ⟨⟨_, issueReg_sets issues rfl, fun _ h => getLsbD_sll _ _ h⟩, ⟨_, issueReg_sets issues rfl, fun _ h => getLsbD_srl _ _ h⟩,
    ⟨_, issueReg_sets issues rfl, fun _ h => getLsbD_sra _ _ h⟩, ⟨_, issueReg_sets issues rfl, fun _ h => getLsbD_rol _ _ h⟩,
    ⟨_, issueReg_sets issues rfl, fun _ h => getLsbD_ror _ _ h⟩⟩

/-- Settles O6, by its two parts. -/
theorem shiftResults : Obligations.ShiftResults := ⟨shiftAndRotateResults, immediateShiftResults⟩

end

namespace Sys2Proof.Machine

/-! Four-state results (R114, R132, R133): each position by its table, and the reduction of L4EQ. -/

theorem V4.of_planes (v : V4) : V4.of v.a v.b = v := by cases v <;> rfl

theorem v4At_planes (f : Nat → V4) {i : Nat} (h : i < 64) : v4At (v4Planes f) i = f i := by
  rw [v4At, v4Planes, getLsbD_ofBits64 _ h, getLsbD_ofBits64 _ h, V4.of_planes]

/-- The value of position 0 of a result of one position. -/
theorem v4At_flags (v : V4) : v4At (flag v.a, flag v.b) 0 = v := by cases v <;> rfl

theorem flag_le (b : Bool) : (flag b).toNat ≤ 1 := by cases b <;> decide

/-- The value L4EQ reduces the positions to. -/
def eqReduced (p q : Word × Word) : V4 :=
  let l := (List.range 64).map (fun i => V4.eq (v4At p i) (v4At q i))
  if l.any (· == .zero) then .zero else if l.any (· == .x) then .x else .one

theorem eq4_eq (p q : Word × Word) : eq4 p q = (flag (eqReduced p q).a, flag (eqReduced p q).b) := rfl

/-- Some position of two pairs gives a value under the equality table. -/
theorem any_eq_position (p q : Word × Word) (v : V4) :
    ((List.range 64).map (fun i => V4.eq (v4At p i) (v4At q i))).any (· == v) = true ↔ ∃ i < 64, V4.eq (v4At p i) (v4At q i) = v := by
  simp

end Sys2Proof.Machine

section
open Sys2Proof Sys2Proof.Machine

/-- Settles O9: a result's planes are those of the table's value at each position, and L4EQ's value is the reduction. -/
theorem fourStateResults : Obligations.FourStateResults := by
  intro s x pd pa pb ps issues A B S
  refine ⟨⟨_, issueL4_sets issues rfl, fun i h => v4At_planes _ h⟩, ⟨_, issueL4_sets issues rfl, fun i h => v4At_planes _ h⟩,
    ⟨_, issueL4_sets issues rfl, fun i h => v4At_planes _ h⟩, ⟨_, issueL4_sets issues rfl, fun i h => v4At_planes _ h⟩,
    ⟨_, issueL4_sets issues rfl, fun i h => v4At_planes _ h⟩,
    ⟨_, issueL4_sets issues rfl, fun i h => (v4At_planes _ h)⟩,
    ⟨_, issueL4_sets issues (eq4_eq ..), flag_le _, flag_le _, ?_⟩⟩
  rw [v4At_flags]
  refine ⟨fun zero => if_pos ((any_eq_position ..).mpr zero), fun none some => ?_, fun ones => ?_⟩
  · exact (if_neg fun any => let ⟨i, h, e⟩ := (any_eq_position ..).mp any; none i h e).trans (if_pos ((any_eq_position ..).mpr some))
  · refine (if_neg ?_).trans (if_neg ?_)
    all_goals
      intro any
      obtain ⟨i, h, e⟩ := (any_eq_position ..).mp any
      exact absurd ((ones i h).symm.trans e) (by decide)

end

namespace Sys2Proof.Machine

/-! What issuing an instruction leaves alone (R96, R117). -/

namespace Thread
variable (t : Thread) (rd : BitVec 5) (v : Word)

@[simp] theorem get_zero : t.get 0 = 0 := if_pos rfl

@[simp] theorem put_zero : t.put 0 v = t := if_pos rfl

@[simp] theorem put_pc : (t.put rd v).pc = t.pc := by
  unfold put
  split <;> rfl

@[simp] theorem put_fps : (t.put rd v).fps = t.fps := by
  unfold put
  split <;> rfl

end Thread

namespace Mach
variable (m : Mach) (p : PeId) (c : BitVec 4)

/-- Another object than the count of a job's events of a kind stands as it was. -/
theorem countJ_obj?_of_ne {b s i k : Nat} {j : JobId} (other : ¬ (i = b + j.toNat ∧ k = s)) (hk : k < 256) (hs : s < 256) (n : Nat) :
    (m.countJ b j s n).obj? i k = m.obj? i k := by
  unfold countJ
  split
  · rfl
  · exact SMap.get?_set_ne _ _ _ _ (by omega)

/-- An instruction that issues in a context changes its PE and the objects. -/
theorem ctxDone_eq (y : Ctx) : ∃ o, m.ctxDone p c y = { m.modPe p (fun x => { x with
    ctxs := SMap.set x.ctxs c.toNat { y with count := y.count + 1 }, lastCtx := c }) with objs := o } := countJ_objs ..

theorem ctxDone_obj? (y : Ctx) {i k : Nat} (other : ¬ (0x4400 ≤ i ∧ i ≤ 0x4407 ∧ k = 0x0B)) (hk : k < 256) :
    (m.ctxDone p c y).obj? i k = m.obj? i k :=
  countJ_obj?_of_ne _ (by have := y.job.isLt; omega) hk (by decide) _

theorem ctxDone_pe_ne {q : PeId} (h : q ≠ p) (y : Ctx) : (m.ctxDone p c y).pe q = m.pe q := by
  obtain ⟨o, e⟩ := m.ctxDone_eq p c y
  rw [e]
  exact m.pe_setPe_ne p q _ h

theorem issued_pe {m : Mach} {p : PeId} {c : BitVec 4} {y : Ctx} (h : SMap.get? (m.pe p).ctxs c.toNat = some y) (ws : BitVec 16) (th : Thread) :
    m.issued (.pe p c ws) th = m.ctxDone p c { y with th := th } := by
  simp only [issued, h]

theorem issued_pe_empty {m : Mach} {p : PeId} {c : BitVec 4} (h : SMap.get? (m.pe p).ctxs c.toNat = none) (ws : BitVec 16) (th : Thread) :
    m.issued (.pe p c ws) th = m := by
  simp only [issued, h]

end Mach
end Sys2Proof.Machine

section
open Sys2Proof Sys2Proof.Machine

theorem registerZeroReadsZero : Claim.RegisterZeroReadsZero := fun t rd _ v =>
  ⟨t.get_zero, t.put_zero v, fun h => t.get_put_self v h, fun h => t.get_put_ne v h, t.put_pc rd v, t.put_fps rd v⟩

/-- What a context leaves changes its PE and the objects; what a core leaves, that core. -/
theorem issuedInstructionFrame : Claim.IssuedInstructionFrame := by
  intro s x th
  dsimp only [State.ran]
  cases x with
  | parity p c ws => exact ⟨rfl, rfl, rfl, rfl, rfl, rfl, rfl, rfl, rfl, rfl, rfl, rfl, fun _ _ => rfl, fun _ _ => rfl, fun _ _ _ _ => rfl⟩
  | core c =>
    refine ⟨rfl, rfl, rfl, rfl, rfl, rfl, rfl, rfl, rfl, rfl, rfl, rfl, fun d other => ?_, fun _ _ => rfl, fun _ _ _ _ => rfl⟩
    exact s.m.core_setCore_ne _ _ _ fun e => other (congrArg Exec.core e.symm)
  | pe p c ws =>
    cases h : SMap.get? (s.m.pe p).ctxs c.toNat with
    | none =>
      rw [Mach.issued_pe_empty h]
      exact ⟨rfl, rfl, rfl, rfl, rfl, rfl, rfl, rfl, rfl, rfl, rfl, rfl, fun _ _ => rfl, fun _ _ => rfl, fun _ _ _ _ => rfl⟩
    | some y =>
      rw [Mach.issued_pe h]
      obtain ⟨o, e⟩ := s.m.ctxDone_eq p c { y with th := th }
      refine ⟨rfl, rfl, ?_, ?_, ?_, ?_, ?_, ?_, ?_, ?_, ?_, ?_, fun d _ => ?_, fun q other => ?_, fun i k other small => ?_⟩
      case refine_12 => exact s.m.ctxDone_pe_ne p c (fun e => other c ws (congrArg (Exec.pe · c ws) e.symm)) _
      case refine_13 => exact s.m.ctxDone_obj? p c _ other small
      all_goals rw [e]; rfl

/-- Settles O8, by its two parts. -/
theorem registerZeroAndInstructionFrame : Obligations.RegisterZeroAndInstructionFrame := ⟨registerZeroReadsZero, issuedInstructionFrame⟩

end

namespace Sys2Proof.Machine

/-! Issuing on a service core and in a firing: what stops an instruction, and what one that nothing stops does (R102, R112, R120, R122). -/

section
variable {s : State} {c : BitVec 4} {side : Side} {priv : Bool} {f : Core → Except Trap Core}

namespace Mach
variable {m : Mach}

/-- What stops an instruction of a core whose word is in its local memory. -/
theorem scBlock_eq (inside : (m.core c).th.pc.toNat < 0x40000) : m.scBlock c side priv =
    if reservedWord (m.localWord c) || side == .peOnly || (priv && !pmode (m.core c)) then some illegal else none :=
  if_neg (Nat.not_le.mpr inside)

theorem issueSc_blocked (live : coreLive (m.core c) = true) (clean : m.fetchClean (.core c) = true) {tr : Trap}
    (block : m.scBlock c side priv = some tr) : m.issueSc c side priv f = m.coreTrap c tr := by
  simp [issueSc, live, fetchLocal_clean clean, block]

theorem issueSc_ok (live : coreLive (m.core c) = true) (clean : m.fetchClean (.core c) = true) (clear : m.scBlock c side priv = none)
    {y : Core} (value : f (m.core c) = .ok y) : m.issueSc c side priv f = m.coreDone c y := by
  simp [issueSc, live, fetchLocal_clean clean, clear, value]

theorem issueSc_error (live : coreLive (m.core c) = true) (clean : m.fetchClean (.core c) = true) (clear : m.scBlock c side priv = none)
    {tr : Trap} (value : f (m.core c) = .error tr) : m.issueSc c side priv f = m.coreTrap c tr := by
  simp [issueSc, live, fetchLocal_clean clean, clear, value]

/-- An instruction that is ILLEGAL where it issues is ILLEGAL whatever its word is. -/
theorem issueSc_illegal (live : coreLive (m.core c) = true) (clean : m.fetchClean (.core c) = true)
    (inside : (m.core c).th.pc.toNat < 0x40000) (value : side ≠ .peOnly → (priv = true → pmode (m.core c) = true) → f (m.core c) = .error illegal) :
    m.issueSc c side priv f = m.coreTrap c illegal := by
  have block := m.scBlock_eq (side := side) (priv := priv) inside
  split at block
  case isTrue => exact issueSc_blocked live clean block
  case isFalse stop =>
    simp only [Bool.or_eq_true, beq_iff_eq, Bool.and_eq_true, Bool.not_eq_true'] at stop
    exact issueSc_error live clean block (value (fun e => stop (.inl (.inr e))) (fun p => by simpa [p] using fun e => stop (.inr ⟨p, e⟩)))

/-- A core at which an instruction of the privileged extension cannot issue, in task mode. -/
theorem sysIssues_taskMode (inside : (m.core c).th.pc.toNat < 0x40000) (task : pmode (m.core c) = false) : m.sysIssues c = false := by
  rw [sysIssues, scBlock_eq inside, task]
  simp

/-- A privileged instruction is ILLEGAL in task mode (R120). -/
theorem issueSys_taskMode (live : coreLive (m.core c) = true) (clean : m.fetchClean (.core c) = true)
    (inside : (m.core c).th.pc.toNat < 0x40000) (task : pmode (m.core c) = false) : m.issueSys (.core c) true f = m.coreTrap c illegal :=
  issueSc_illegal live clean inside fun _ mode => absurd (mode rfl) (by rw [task]; decide)

/-- An instruction of a firing is ILLEGAL on a service core (R102). -/
theorem issueFiring_core (live : coreLive (m.core c) = true) (clean : m.fetchClean (.core c) = true)
    (inside : (m.core c).th.pc.toNat < 0x40000) (g : Ctx → Except Trap Ctx) : m.issueFiring (.core c) g = m.coreTrap c illegal :=
  issueSc_illegal (side := .peOnly) (f := fun _ => .error illegal) live clean inside fun _ _ => rfl

/-- What a CSR access leaves of a core (R123). -/
def csrStep (m : Mach) (c : BitVec 4) (a : BitVec 12) (rd : Option (BitVec 5)) (w : Option (Word → Thread → Word)) (y : Core) : Except Trap Core :=
  match m.csrRead c a with
  | none => .error illegal
  | some old =>
    if !pmode y && (w.isSome || !csrTask a) then .error illegal
    else
      match (match w with
        | some f => csrWrite y a (f old y.th)
        | none => some y) with
      | none => .error illegal
      | some z => .ok { z with th := (match rd with
        | some r => z.th.put r old
        | none => z.th).next }

section
variable {a : BitVec 12} {rd : Option (BitVec 5)} {w : Option (Word → Thread → Word)} {y z : Core} {old : Word}

theorem issueCsr_core : m.issueCsr (.core c) a rd w = m.issueSc c .scOnly false (m.csrStep c a rd w) := rfl

theorem csrStep_unassigned (read : m.csrRead c a = none) : m.csrStep c a rd w y = .error illegal := by
  rw [csrStep, read]

theorem csrStep_taskMode (task : pmode y = false) (barred : (w.isSome || !csrTask a) = true) : m.csrStep c a rd w y = .error illegal := by
  unfold csrStep
  split
  · rfl
  · exact if_pos (by rw [task, barred]; rfl)

end

end Mach
end

section
variable {s : State} {p : PeId} {c : BitVec 4} {ws : BitVec 16} {y : Ctx} {side : Side} {f : Mach → Ctx → Except Trap Ctx} {tr : Trap}

/-- An instruction of a firing that comes to a trap by the order of R119 is taken as that trap. -/
theorem issuePe_error (turns : s.turns p c ws y) (h : s.m.peIssue y side (f s.m y) = .error tr) :
    s.on (fun m => m.issuePe p c ws side (f m)) = .next (s.traps (.pe p c ws) tr) := by
  obtain ⟨turn, clean⟩ := turns
  simp only [on_eq, State.traps, Mach.trapped, Mach.issuePe, turn, turn_some turn, fetchCode_clean (turn_some turn) clean, h]

namespace Mach
variable {m : Mach} {r : Except Trap Ctx}

/-- A pc outside the code segment is FETCH before all else (R112, R119). -/
theorem peIssue_fetch (outside : (m.job y.job).codeLen ≤ y.th.pc.toNat) :
    m.peIssue y side r = .error { code := 0x01, value := y.th.pc.zeroExtend 64 } := if_pos outside

/-- A reserved word, or an instruction of a service core, is ILLEGAL (R102, R119). -/
theorem peIssue_illegal (inside : y.th.pc.toNat < (m.job y.job).codeLen) (stop : (reservedWord (m.codeWord y) || side == .scOnly) = true) :
    m.peIssue y side r = .error illegal := (if_neg (Nat.not_le.mpr inside)).trans (if_pos stop)

/-- An instruction past the budget overruns (R117, R119). -/
theorem peIssue_budget (inside : y.th.pc.toNat < (m.job y.job).codeLen) (legal : (reservedWord (m.codeWord y) || side == .scOnly) = false)
    (spent : m.budget y.job ≤ y.count) (z : Ctx) : m.peIssue y side (.ok z) = .error { code := 0x03, reason := 1 } := by
  unfold peIssue
  rw [if_neg (Nat.not_le.mpr inside), legal, if_neg Bool.false_ne_true]
  exact if_pos spent

end Mach

/-- The privileged extension is ILLEGAL in a firing (R102). -/
theorem privileged_illegal (turns : s.turns p c ws y) (inside : y.th.pc.toNat < (s.m.job y.job).codeLen) :
    s.on (fun m => m.issuePe p c ws .scOnly (fun y => .ok y)) = .next (s.traps (.pe p c ws) illegal) :=
  issuePe_error (f := fun _ y => .ok y) turns (Mach.peIssue_illegal inside (Bool.or_true _))

/-- A register instruction that is stopped on a core is taken as that trap. -/
theorem Mach.issueReg_core_blocked {m : Mach} {c : BitVec 4} (live : coreLive (m.core c) = true) (clean : m.fetchClean (.core c) = true)
    (block : m.scBlock c .both false = some tr) (rd : BitVec 5) (g : Thread → Word) : m.issueReg (.core c) rd g = m.coreTrap c tr :=
  issueSc_blocked (f := fun y => .ok { y with th := (y.th.put rd (g y.th)).next }) live clean block

/-- A register instruction that is stopped in a firing is taken as that trap. -/
theorem issueReg_pe_traps (turns : s.turns p c ws y) (rd : BitVec 5) (g : Thread → Word) (h : ∀ z, s.m.peIssue y .both (.ok z) = .error tr) :
    s.on (fun m => m.issueReg (.pe p c ws) rd g) = .next (s.traps (.pe p c ws) tr) :=
  issuePe_error (f := fun _ y => .ok { y with th := (y.th.put rd (g y.th)).next }) turns (h _)

/-- The next state of a command that traps a core. -/
theorem core_traps {m : Mach} (h : m = s.m.coreTrap c tr) : Host.Outcome.next ({ s with m := m } : State) = (.next (s.traps (.core c) tr) : Res) := by
  rw [h]; rfl

end

end Sys2Proof.Machine

section
open Sys2Proof Sys2Proof.Machine

theorem taskModeIsIllegal : Claim.TaskModeIsIllegal := by
  intro s c rd ra a imm ⟨live, clean⟩ task inside
  have idle : ¬ s.m.sysIssues c = true := by rw [Mach.sysIssues_taskMode inside task]; decide
  have sys {f : Core → Except Trap Core} : s.m.issueSys (.core c) true f = s.m.coreTrap c illegal := Mach.issueSys_taskMode live clean inside task
  have csr {rd : Option (BitVec 5)} {w : Option (Word → Thread → Word)} (barred : (w.isSome || !csrTask a) = true) :
      s.m.issueCsr (.core c) a rd w = s.m.coreTrap c illegal :=
    Mach.issueSc_illegal live clean inside fun _ _ => Mach.csrStep_taskMode task barred
  have lock (take : Bool) : s.m.issueLock (.core c) rd ra imm take = s.m.coreTrap c illegal :=
    (if_pos (by rw [Mach.sysIssues_taskMode inside task]; rfl)).trans sys
  refine ⟨core_traps sys, core_traps ((if_neg idle).trans sys), core_traps ((if_neg fun h => idle ?_).trans sys), core_traps (lock true),
    core_traps (lock false), core_traps (csr rfl), core_traps (csr rfl), core_traps (csr rfl), fun hidden => core_traps (csr (by rw [hidden]; rfl))⟩
  exact (Bool.and_eq_true_iff.mp h).1

theorem wrongSideIsIllegal : Claim.WrongSideIsIllegal := by
  refine ⟨fun s c pv ro t2 mask sm ⟨live, clean⟩ inside => ?_, fun s p c ws y rd ra a imm turns inside => ?_⟩
  · have trap (g : Ctx → Except Trap Ctx) := core_traps (Mach.issueFiring_core live clean inside g)
    exact ⟨trap _, trap _, trap _, trap fun y => .ok y⟩
  · have trap := privileged_illegal turns inside
    exact ⟨trap, trap, trap, trap, trap, trap, trap, trap, trap⟩

/-- Settles O22, by its two parts. -/
theorem illegalByModeAndSide : Obligations.IllegalByModeAndSide := ⟨taskModeIsIllegal, wrongSideIsIllegal⟩

theorem fetchAndBudgetTraps : Claim.FetchAndBudgetTraps := by
  refine ⟨fun s c rd ra rb ⟨live, clean⟩ inside reserved => ?_, rfl, fun s p c ws y rd ra rb turns => ?_⟩
  · have block : s.m.scBlock c .both false = some illegal := (s.m.scBlock_eq inside).trans (if_pos (by rw [reserved]; rfl))
    exact core_traps (Mach.issueReg_core_blocked live clean block rd _)
  · exact ⟨fun outside => issueReg_pe_traps turns rd _ fun _ => Mach.peIssue_fetch outside,
      fun inside reserved => issueReg_pe_traps turns rd _ fun _ => Mach.peIssue_illegal inside (by rw [reserved]; rfl),
      fun inside legal spent => issueReg_pe_traps turns rd _ (Mach.peIssue_budget inside (by rw [legal]; rfl) spent)⟩

end

namespace Sys2Proof.Machine

/-! Control and status registers (R123, Table 5-11). -/

namespace Mach
section
variable {m : Mach} {c : BitVec 4} {a : BitVec 12} {rd : Option (BitVec 5)} {w : Option (Word → Thread → Word)} {f : Word → Thread → Word}
  {y z : Core} {old : Word}

/-- A core that may issue a privileged instruction is stopped by no check of the privileged extension. -/
theorem scBlock_of_sysIssues (h : m.sysIssues c = true) (priv : Bool) : m.scBlock c .scOnly priv = none := by
  simp only [sysIssues, Bool.and_eq_true, Option.isNone_iff_eq_none] at h
  obtain ⟨-, clear⟩ := h
  unfold scBlock at clear ⊢
  split at clear
  · cases clear
  next inside =>
    rw [if_neg inside]
    split at clear
    · cases clear
    next legal =>
      refine if_neg fun stop => legal ?_
      cases priv with
      | true => exact stop
      | false => simpa using Or.inl (by simpa using stop)

theorem csrStep_read (read : m.csrRead c a = some old) (mode : pmode y = true) (r : BitVec 5) :
    m.csrStep c a (some r) none y = .ok { y with th := (y.th.put r old).next } := by
  simp only [csrStep, read, mode, Bool.not_true, Bool.false_and, Bool.false_eq_true, if_false]

theorem csrStep_write (read : m.csrRead c a = some old) (mode : pmode y = true) (write : csrWrite y a (f old y.th) = some z) :
    m.csrStep c a none (some f) y = .ok { z with th := z.th.next } := by
  simp only [csrStep, read, mode, write, Bool.not_true, Bool.false_and, Bool.false_eq_true, if_false]

theorem csrStep_swap (read : m.csrRead c a = some old) (mode : pmode y = true) (write : csrWrite y a (f old y.th) = some z) (r : BitVec 5) :
    m.csrStep c a (some r) (some f) y = .ok { z with th := (z.th.put r old).next } := by
  simp only [csrStep, read, mode, write, Bool.not_true, Bool.false_and, Bool.false_eq_true, if_false]

theorem csrStep_readOnly (readOnly : ∀ v, csrWrite y a v = none) : m.csrStep c a rd (some f) y = .error illegal := by
  unfold csrStep
  split
  · rfl
  · split
    · rfl
    · simp only [readOnly]

end
end Mach

/-- The next state of a command that issues on a core. -/
theorem core_leaves {s : State} {c : BitVec 4} {m : Mach} {y : Core} (h : m = s.m.coreDone c y) :
    Host.Outcome.next ({ s with m := m } : State) = (.next (s.coreLeaves c y) : Res) := by
  rw [h]; rfl

/-! The fields a CSR keeps -/

section
variable (u v : Word)

theorem bits_eq_extractLsb' {n : Nat} (w : BitVec n) (hi lo : Nat) : bits w hi lo = (w.extractLsb' lo (hi + 1 - lo)).toNat := by
  rw [bits, BitVec.extractLsb'_toNat, Nat.shiftRight_eq_div_pow]

/-- The fields of FPS with one word's RM and another's TEN and FLAGS. -/
theorem fps_fields : (u &&& 0x70000 ||| v &&& 0x1F1F) &&& 0x1F1F = v &&& 0x1F1F ∧ (u &&& 0x70000 ||| v &&& 0x1F1F) &&& ~~~0x71F1F = 0 ∧
    bits (u &&& 0x70000 ||| v &&& 0x1F1F) 18 16 = bits u 18 16 := by
  refine ⟨?_, ?_, ?_⟩
  · rw [BitVec.and_or_distrib_right, BitVec.and_assoc, BitVec.and_assoc]
    show u &&& 0 ||| v &&& 0x1F1F = v &&& 0x1F1F
    simp
  · rw [BitVec.and_or_distrib_right, BitVec.and_assoc, BitVec.and_assoc]
    show u &&& 0 ||| v &&& 0 = 0
    simp
  · rw [bits_eq_extractLsb', bits_eq_extractLsb', BitVec.extractLsb'_or, BitVec.extractLsb'_and, BitVec.extractLsb'_and]
    show (u.extractLsb' 16 3 &&& 7 ||| v.extractLsb' 16 3 &&& 0).toNat = (u.extractLsb' 16 3).toNat
    rw [show (7 : BitVec 3) = BitVec.allOnes 3 from rfl, BitVec.and_allOnes]
    simp

theorem fpsWrite_fields : fpsWrite u v &&& 0x1F1F = v &&& 0x1F1F ∧ fpsWrite u v &&& ~~~0x71F1F = 0 ∧
    bits (fpsWrite u v) 18 16 = if bits v 18 16 < 5 then bits v 18 16 else bits u 18 16 := by
  unfold fpsWrite
  split
  · exact fps_fields v v
  · exact fps_fields u v

/-- ECAUSE keeps INT and its low 24 bits. -/
theorem ecause_fields : (v &&& 0x8000000000FFFFFF).getLsbD 63 = v.getLsbD 63 ∧ (v &&& 0x8000000000FFFFFF).toNat % 2 ^ 24 = v.toNat % 2 ^ 24 ∧
    ∀ i, 24 ≤ i → i < 63 → (v &&& 0x8000000000FFFFFF).getLsbD i = false := by
  refine ⟨?_, ?_, fun i from24 below => ?_⟩
  · rw [BitVec.getLsbD_and]
    exact Bool.and_true _
  · rw [BitVec.toNat_and, Nat.and_mod_two_pow]
    exact (Nat.and_two_pow_sub_one_eq_mod (v.toNat % 2 ^ 24) 24).trans (Nat.mod_mod ..)
  · have mask : ∀ i : Fin 64, 24 ≤ i.val → i.val < 63 → (0x8000000000FFFFFF : Word).getLsbD i = false := by decide
    rw [BitVec.getLsbD_and, mask ⟨i, by omega⟩ from24 below, Bool.and_false]

theorem status_fields : (v &&& 0xF).toNat = v.toNat % 16 := by
  rw [BitVec.toNat_and]
  exact Nat.and_two_pow_sub_one_eq_mod v.toNat 4

/-- A word with its two low bits dropped. -/
theorem wordAligned_toNat : (v &&& ~~~3).toNat = v.toNat / 4 * 4 := by
  have mask : ∀ i : Fin 64, (~~~3 : Word).getLsbD i = decide (2 ≤ i.val) := by decide
  have shifts : v &&& (~~~3 : Word) = (v >>> 2) <<< 2 := by
    refine BitVec.eq_of_getLsbD_eq fun i hi => ?_
    rw [BitVec.getLsbD_and, mask ⟨i, hi⟩, BitVec.getLsbD_shiftLeft, BitVec.getLsbD_ushiftRight, decide_eq_true hi, Bool.true_and]
    by_cases low : i < 2
    · simp [low]
    · rw [decide_eq_true (Nat.not_lt.mp low), decide_eq_false low, Nat.add_sub_cancel' (Nat.not_lt.mp low), Bool.and_true, Bool.not_false, Bool.true_and]
  rw [shifts, BitVec.toNat_shiftLeft, BitVec.toNat_ushiftRight, Nat.shiftRight_eq_div_pow, Nat.shiftLeft_eq]
  exact Nat.mod_eq_of_lt (by omega)

end

end Sys2Proof.Machine

section
open Sys2Proof Sys2Proof.Machine

theorem csrAccess : Claim.CsrAccess := by
  rintro s c rd ra a ⟨⟨live, clean⟩, issues, mode⟩
  have clear := Mach.scBlock_of_sysIssues issues false
  have stops {r : Option (BitVec 5)} {w : Option (Word → Thread → Word)} (h : s.m.csrStep c a r w (s.m.core c) = .error illegal) :
      Host.Outcome.next ({ s with m := s.m.issueCsr (.core c) a r w } : State) = (.next (s.traps (.core c) illegal) : Res) :=
    core_traps (Mach.issueSc_error live clean clear h)
  have leaves {r : Option (BitVec 5)} {w : Option (Word → Thread → Word)} {y : Core} (h : s.m.csrStep c a r w (s.m.core c) = .ok y) :
      Host.Outcome.next ({ s with m := s.m.issueCsr (.core c) a r w } : State) = (.next (s.coreLeaves c y) : Res) :=
    core_leaves (Mach.issueSc_ok live clean clear h)
  refine ⟨fun none => ?_, fun readOnly => ?_, fun old read => ?_⟩
  · exact ⟨stops (Mach.csrStep_unassigned none), stops (Mach.csrStep_unassigned none), stops (Mach.csrStep_unassigned none),
      stops (Mach.csrStep_unassigned none)⟩
  · exact ⟨stops (Mach.csrStep_readOnly readOnly), stops (Mach.csrStep_readOnly readOnly), stops (Mach.csrStep_readOnly readOnly)⟩
  · refine ⟨leaves (Mach.csrStep_read read mode rd), fun z write => ⟨leaves (Mach.csrStep_write read mode write), leaves (Mach.csrStep_swap (f := fun _ t => t.get ra) read mode write rd)⟩,
      fun z write => leaves (Mach.csrStep_write read mode write), ?_⟩
    rintro rfl
    have scratch : s.m.csrRead c 0x007 = some (s.m.core c).scratch := rfl
    have write (v : Word) : csrWrite (s.m.core c) 0x007 v = some { s.m.core c with scratch := v } := rfl
    exact ⟨leaves (Mach.csrStep_read scratch mode rd), leaves (Mach.csrStep_write scratch mode (write _)),
      leaves (Mach.csrStep_swap scratch mode (write _) rd), leaves (Mach.csrStep_write scratch mode (write _))⟩

theorem csrFields : Claim.CsrFields := by
  intro m c v x
  refine ⟨rfl, rfl, rfl, rfl, rfl, rfl, rfl, rfl, rfl, rfl, rfl, rfl, fun a high ne10 ne11 ne12 ne20 => ?_,
    ⟨_, rfl, (fpsWrite_fields _ v).1, (fpsWrite_fields _ v).2.1, (fpsWrite_fields _ v).2.2, rfl⟩, ⟨_, rfl, ecause_fields v⟩, ⟨_, rfl, status_fields v⟩,
    ⟨_, rfl, rfl⟩, ⟨_, rfl, rfl⟩, ⟨_, rfl, wordAligned_toNat v⟩, ⟨_, rfl, rfl⟩, ?_⟩
  · unfold Mach.csrRead
    split
    case h_13 => rfl
    all_goals bv_omega
  · rintro a (rfl | rfl | rfl | rfl | rfl) <;> rfl

/-- Settles O21, by its two parts. -/
theorem controlAndStatusRegisters : Obligations.ControlAndStatusRegisters := ⟨csrAccess, csrFields⟩

end

namespace Sys2Proof.Machine

/-! Traps of a service core (R122), and what frees a lock leaves alone (R311 to R313). -/

namespace Mach
variable (m : Mach) (c : BitVec 4)

/-- What a core holds as it enters a trap. -/
def trapEntry (x : Core) (tr : Trap) : Core :=
  { x with
    epc := x.th.pc.zeroExtend 64, ecause := at64 tr.reason.toNat 16 ||| at64 tr.code.toNat 0, eval := tr.value,
    status := at64 (b2n (ieBit x)) 3 ||| at64 (b2n (pmode x)) 1 ||| 1, run := .running, fresh := false,
    th := { x.th with pc := x.tvec.truncate 32 } }

theorem coreTrap_enters {tr : Trap} (h : ¬ ((m.core c).status.getLsbD 0 = true ∧ (m.core c).status.getLsbD 2 = false)) :
    m.coreTrap c tr = m.setCore c (trapEntry (m.core c) tr) :=
  if_neg (by simpa [pmode, ieBit] using h)

theorem coreTrap_double {tr : Trap} (h : (m.core c).status.getLsbD 0 = true) (h' : (m.core c).status.getLsbD 2 = false) :
    ∃ l, m.coreTrap c tr = (({ m.setCore c { m.core c with run := .stopped } with err := l } : Mach).raiseSource (176 + c.toNat)).ownerDeath (c.toNat + 1) := by
  have low (n : Mach) (a b d e : Word) := n.logErr_low (sev := 3) (by decide) 0x0A 0 none c.toNat a b d e false
  obtain ⟨l, log⟩ := low (m.setCore c { m.core c with run := .stopped }) (m.core c).epc (m.core c).ecause (m.core c).eval (m.core c).status
  refine ⟨l, ?_⟩
  unfold coreTrap
  have both : (pmode (m.core c) && !ieBit (m.core c)) = true := by rw [pmode, ieBit, h, h']; rfl
  rw [if_pos both]
  dsimp only
  rw [log]

theorem at64_or (lo hi : Nat) (hlo : lo < 2 ^ 16) (hhi : hi < 2 ^ 16) : (at64 hi 16 ||| at64 lo 0).toNat = lo + 65536 * hi := by
  rw [BitVec.toNat_or, at64, at64, BitVec.toNat_ofNat, BitVec.toNat_ofNat, Nat.mod_eq_of_lt (by omega), Nat.mod_eq_of_lt (by omega),
    Nat.mul_comm hi, ← Nat.two_pow_add_eq_or_of_lt (by omega)]
  omega

theorem trapStatus (a b : Bool) : (at64 (b2n a) 3 ||| at64 (b2n b) 1 ||| 1).getLsbD 0 = true ∧ (at64 (b2n a) 3 ||| at64 (b2n b) 1 ||| 1).getLsbD 2 = false ∧
    (at64 (b2n a) 3 ||| at64 (b2n b) 1 ||| 1).getLsbD 1 = b ∧ (at64 (b2n a) 3 ||| at64 (b2n b) 1 ||| 1).getLsbD 3 = a := by
  cases a <;> cases b <;> decide

/-- A core that does not wait in WAIT stands through the edge of an interrupt source. -/
theorem core_wakeCores (h : (m.core c).run ≠ .waiting) : m.wakeCores.core c = m.core c := by
  have here : SMap.get? m.wakeCores.cores c.toNat = _ :=
    SMap.get?_mapKey (fun k (x : Core) => if x.run = .waiting ∧ pendingFor m.ic.now k ≠ [] then { x with run := .running } else x) m.cores c.toNat
  change ((SMap.get? m.cores c.toNat).getD {}).run ≠ _ at h
  show (SMap.get? m.wakeCores.cores c.toNat).getD {} = (SMap.get? m.cores c.toNat).getD {}
  rw [here]
  cases e : SMap.get? m.cores c.toNat with
  | none => rfl
  | some x =>
    rw [e] at h
    exact if_neg fun wakes => h wakes.1

/-- An edge of an interrupt source leaves a core alone that does not wait in WAIT. -/
theorem core_raiseSource (n : Nat) (h : (m.core c).run ≠ .waiting) : (m.raiseSource n).core c = m.core c := by
  unfold raiseSource
  split
  · rfl
  · split
    · dsimp only
      split
      · split <;> rfl
      · rfl
    · dsimp only
      split <;> split <;> exact core_wakeCores _ c h

/-- The wakes of the agents that waited for a lock change what waits for the cores, the function vectors, the event frames and the peers. -/
theorem wakeWaiters_eq (n : Byte) (w : BitVec 27) : ∃ p f u e v o k, m.wakeWaiters n w =
    { m with corePosts := p, funcs := f, up := u, evFrames := e, evLost := v, objs := o, peerWakes := k } := by
  unfold wakeWaiters
  generalize List.range 27 = l
  induction l generalizing m with
  | nil => exact ⟨_, _, _, _, _, _, _, rfl⟩
  | cons i r ih =>
    rw [List.foldl_cons]
    split
    · exact ih m
    · split
      · dsimp only
        split
        · obtain ⟨p, f, u, e, v, o, k, h⟩ := ih { m with corePosts := _ }
          exact ⟨p, f, u, e, v, o, k, h⟩
        · exact ih m
      · split
        · obtain ⟨f', u', posted⟩ := m.msi_eq (i - 16) 1 none
          obtain ⟨p, f, u, e, v, o, k, h⟩ := ih (m.msi (i - 16) 1)
          exact ⟨p, f, u, e, v, o, k, by rw [h, posted]⟩
        · split
          · obtain ⟨f', u', o', framed⟩ := m.evFrame_eq [4, n]
            obtain ⟨p, f, u, e, v, o, k, h⟩ := ih (m.evFrame [4, n])
            exact ⟨p, f, u, e, v, o, k, by rw [h, framed]⟩
          · obtain ⟨p, f, u, e, v, o, k, h⟩ := ih { m with peerWakes := _ }
            exact ⟨p, f, u, e, v, o, k, h⟩

/-- A freed lock has no owner and no waiter; beside it, only what its wakes and the peer proxy hold changes. -/
theorem freeLock_eq (n : Byte) : ∃ p f u e v o k h, m.freeLock n =
    { m with locks := SMap.set m.locks n.toNat { m.lock n with owner := 0, waiters := 0 },
             corePosts := p, funcs := f, up := u, evFrames := e, evLost := v, objs := o, peerWakes := k, peerHold := h } := by
  have proxy : ∃ k h, m.proxyFreed n = { m with peerWakes := k, peerHold := h } := by
    unfold proxyFreed
    split <;> exact ⟨_, _, rfl⟩
  obtain ⟨k', h', proxy⟩ := proxy
  obtain ⟨p, f, u, e, v, o, k, woken⟩ := ((m.proxyFreed n).modLock n (fun l => { l with owner := 0, waiters := 0 })).wakeWaiters_eq n (m.lock n).waiters
  exact ⟨p, f, u, e, v, o, k, h', by rw [freeLock, woken, proxy]; rfl⟩

/-- The death of an owner changes no core. -/
theorem ownerDeath_cores (id : Nat) : (m.ownerDeath id).cores = m.cores := by
  unfold ownerDeath
  generalize List.filter _ _ = l
  induction l generalizing m with
  | nil => rfl
  | cons n r ih =>
    rw [List.foldl_cons, ih, count_cores]
    obtain ⟨p, f, u, e, v, o, k, h, freed⟩ := m.freeLock_eq (BitVec.ofNat 8 n)
    rw [freed]

end Mach
end Sys2Proof.Machine

section
open Sys2Proof Sys2Proof.Machine

/-- Settles O23, by the two ways a trap goes: into the handler, or, as a double trap, to a stopped core. -/
theorem serviceCoreTrapEntry : Obligations.ServiceCoreTrapEntry := by
  intro s c tr
  refine ⟨fun single => ?_, fun privileged masked => ?_⟩
  · have enters : (s.traps (.core c) tr).m = _ := Mach.coreTrap_enters s.m c (tr := tr) single
    rw [enters]
    have here : (s.m.setCore c (Mach.trapEntry (s.m.core c) tr)).core c = _ := Mach.core_setCore s.m c _
    rw [here]
    obtain ⟨p, i, pp, pi⟩ := Mach.trapStatus (Mach.ieBit (s.m.core c)) (Mach.pmode (s.m.core c))
    exact ⟨rfl, Mach.at64_or _ _ (by omega) (by omega), rfl, p, i, pp, pi, rfl, rfl, rfl,
      fun d other => Mach.core_setCore_ne s.m c d _ other, rfl, rfl, rfl⟩
  · obtain ⟨l, dead⟩ := Mach.coreTrap_double s.m c (tr := tr) privileged masked
    have stopped : ({ s.m.setCore c { s.m.core c with run := .stopped } with err := l } : Mach).core c = { s.m.core c with run := .stopped } :=
      Mach.core_setCore s.m c _
    have here : (s.traps (.core c) tr).m.core c = { s.m.core c with run := .stopped } := by
      show (s.m.coreTrap c tr).core c = _
      rw [dead, Mach.core, Mach.ownerDeath_cores]
      exact (Mach.core_raiseSource _ c _ (by rw [stopped]; nofun)).trans stopped
    rw [here]
    exact ⟨rfl, rfl⟩

end

namespace Sys2Proof.Machine

/-! WAIT, FENCE and RETI of a service core (R121, R304, R305), and its lock helpers (R125, R311). -/

/-- The bits of a flag put at a place. -/
theorem getLsbD_flagAt (b : Bool) {k : Nat} (inside : k < 64) (i : Nat) : (at64 (b2n b) k).getLsbD i = (b && decide (i = k)) := by
  cases b with
  | false => simp [at64, b2n]
  | true =>
    rw [at64, b2n, if_pos rfl, Nat.one_mul, BitVec.getLsbD_ofNat, Nat.testBit_two_pow, Bool.true_and]
    by_cases e : i = k
    · simp [e, inside]
    · simp [e, Ne.symm e]

namespace Mach
section
variable (m : Mach) (c : BitVec 4)

/-- STATUS after RETI: PMODE from PPMODE, IE from PIE. -/
def retiStatus (w : Word) : Word := (w &&& ~~~5) ||| at64 (b2n (w.getLsbD 3)) 2 ||| at64 (b2n (w.getLsbD 1)) 0

/-- STATUS with PIE and PPMODE as a frame holds them. -/
def framedStatus (w : Word) (f : Frame) : Word := (w &&& ~~~0xA) ||| at64 (b2n f.pie) 3 ||| at64 (b2n f.ppmode) 1

theorem getLsbD_retiStatus (w : Word) (i : Nat) : (retiStatus w).getLsbD i =
    (w.getLsbD i && (decide (i < 64) && !(decide (i = 2) || decide (i = 0))) || w.getLsbD 3 && decide (i = 2) || w.getLsbD 1 && decide (i = 0)) := by
  have both : (5 : Word) = at64 (b2n true) 2 ||| at64 (b2n true) 0 := rfl
  simp only [retiStatus, both, BitVec.getLsbD_or, BitVec.getLsbD_and, BitVec.getLsbD_not, getLsbD_flagAt _ (by decide : 2 < 64),
    getLsbD_flagAt _ (by decide : 0 < 64), Bool.true_and]

theorem getLsbD_framedStatus (w : Word) (f : Frame) (i : Nat) : (framedStatus w f).getLsbD i =
    (w.getLsbD i && (decide (i < 64) && !(decide (i = 3) || decide (i = 1))) || f.pie && decide (i = 3) || f.ppmode && decide (i = 1)) := by
  have both : (0xA : Word) = at64 (b2n true) 3 ||| at64 (b2n true) 1 := rfl
  simp only [framedStatus, both, BitVec.getLsbD_or, BitVec.getLsbD_and, BitVec.getLsbD_not, getLsbD_flagAt _ (by decide : 3 < 64),
    getLsbD_flagAt _ (by decide : 1 < 64), Bool.true_and]

theorem retiStatus_bits (w : Word) : (retiStatus w).getLsbD 0 = w.getLsbD 1 ∧ (retiStatus w).getLsbD 2 = w.getLsbD 3 ∧
    ∀ i, i ≠ 0 → i ≠ 2 → (retiStatus w).getLsbD i = w.getLsbD i := by
  refine ⟨by rw [getLsbD_retiStatus]; simp, by rw [getLsbD_retiStatus]; simp, fun i ne0 ne2 => ?_⟩
  rw [getLsbD_retiStatus]
  by_cases inside : i < 64
  · simp [ne0, ne2, inside]
  · simp [ne0, ne2, BitVec.getLsbD_of_ge w i (by omega)]

theorem framedStatus_bits (w : Word) (f : Frame) : (framedStatus w f).getLsbD 0 = w.getLsbD 0 ∧ (framedStatus w f).getLsbD 2 = w.getLsbD 2 ∧
    (framedStatus w f).getLsbD 3 = f.pie ∧ (framedStatus w f).getLsbD 1 = f.ppmode := by
  refine ⟨?_, ?_, ?_, ?_⟩ <;> rw [getLsbD_framedStatus] <;> simp

/-- What RETI makes of a core before a frame is looked at. -/
def returned (x : Core) : Core :=
  { x with th := { x.th with pc := (x.epc.truncate 32 : BitVec 32) &&& 0xFFFFFFFC }, status := retiStatus x.status }

/-- What RETI makes of a core whose handler ends. -/
def unframed (x : Core) (f : Frame) (below : List Frame) : Core :=
  { x with frames := below, epc := f.epc, ecause := f.ecause, eval := f.eval, status := framedStatus x.status f }

/-- A core as an instruction that issues on it leaves it. -/
def counted (x : Core) : Core := { x with instret := x.instret + 1, fresh := false }

/-- Without a frame, or outside an interrupt handler, RETI is the return from a trap. -/
theorem reti_trap (h : (m.core c).frames = [] ∨ (m.core c).ecause.getLsbD 63 = false) : m.reti c = m.coreDone c (returned (m.core c)) := by
  unfold reti
  dsimp only
  split
  · rfl
  next some =>
    have outside : (m.core c).ecause.getLsbD 63 = false := h.resolve_left (by rw [some]; nofun)
    rw [outside]
    rfl

/-- The end of a handler whose frame is the top one: a tail-chain to the source offered while IE is 1, else the frame is restored. -/
def endHandler (f : Frame) (below : List Frame) : Mach :=
  match bestOffer (m.icBefore 5) c.toNat (runPrio { m.core c with frames := below }) with
  | some s =>
    if ieBit (m.core c) then
      (m.setCore c { m.core c with entry := some ⟨BitVec.ofNat 9 s, BitVec.ofNat 4 (cfgPrio (icCfg (m.icBefore 5) s)), true⟩ }).count 0x4D00 0x03
    else m.setCore c (unframed (m.core c) f below)
  | none => m.setCore c (unframed (m.core c) f below)

/-- With a frame in an interrupt handler RETI ends the handler. -/
theorem reti_handler {f : Frame} {below : List Frame} (h : (m.core c).frames = f :: below) (inside : (m.core c).ecause.getLsbD 63 = true) :
    m.reti c = ((m.coreDone c (returned (m.core c))).clearActive f.src.toNat).endHandler c f below := by
  unfold reti
  dsimp only
  split
  next nil => cases h.symm.trans nil
  next top =>
    cases h.symm.trans top
    exact if_neg (by rw [inside]; decide)

theorem endHandler_restores {f : Frame} {below : List Frame}
    (h : bestOffer (m.icBefore 5) c.toNat (runPrio { m.core c with frames := below }) = none ∨ ieBit (m.core c) = false) :
    m.endHandler c f below = m.setCore c (unframed (m.core c) f below) := by
  unfold endHandler
  split
  next offered => exact if_neg (by rw [h.resolve_left (by rw [offered]; nofun)]; decide)
  · rfl

theorem endHandler_chains {f : Frame} {below : List Frame} {s : Nat}
    (offered : bestOffer (m.icBefore 5) c.toNat (runPrio { m.core c with frames := below }) = some s) (enabled : ieBit (m.core c) = true) :
    m.endHandler c f below =
      (m.setCore c { m.core c with entry := some ⟨BitVec.ofNat 9 s, BitVec.ofNat 4 (cfgPrio (icCfg (m.icBefore 5) s)), true⟩ }).count 0x4D00 0x03 := by
  unfold endHandler
  rw [offered]
  exact if_pos enabled

/-- The exit of a handler clears the source's active bit, also in the recorded cycles. -/
theorem icBefore_clearActive (k s : Nat) :
    (m.clearActive s).icBefore k = { m.icBefore k with act := (m.icBefore k).act &&& ~~~(1#512 <<< s) } := by
  show (List.map _ m.ic.hist).getD k ({} : IcView) = _
  rw [icBefore, List.getD_eq_getElem?_getD, List.getD_eq_getElem?_getD, List.getElem?_map]
  cases m.ic.hist[k]? with
  | none => simp
  | some v => rfl

theorem core_clearActive (s : Nat) (h : (m.core c).run ≠ .waiting) : (m.clearActive s).core c = m.core c := core_wakeCores _ c h

end
end Mach

/-! Locks -/

namespace Mach
section
variable (m : Mach) (n : Byte)

theorem lock_freeLock : (m.freeLock n).lock n = { m.lock n with owner := 0, waiters := 0 } := by
  obtain ⟨p, f, u, e, v, o, k, h, freed⟩ := m.freeLock_eq n
  rw [freed]
  exact SMap.getD_set_self _ _ _ _

/-- The take of a lock by one agent. -/
theorem lockReq_take {id : Nat} (h : id ≠ 0) :
    m.lockReq n id id = (m.takeLock n [id]).modLock n (fun l => { l with waiters := l.waiters &&& ~~~0 }) := by
  simp [lockReq, lockDecide, h]

/-- The release of a lock by its owner. -/
theorem lockReq_release {id : Nat} (owner : (m.lock n).owner.toNat = id) : m.lockReq n id 0 = m.freeLock n := by
  simp [lockReq, lockDecide, owner]

/-- The release of a lock by another than its owner is counted alone. -/
theorem lockReq_stray {id : Nat} (other : (m.lock n).owner.toNat ≠ id) : m.lockReq n id 0 = m.count 0x4D00 0x08 := by
  simp [lockReq, lockDecide, Ne.symm other]

/-- What the take of a lock by one agent makes of it. -/
theorem lock_takeLock (id : Nat) : (m.takeLock n [id]).lock n =
    let owner := if (m.lock n).owner = 0 then id else (m.lock n).owner.toNat
    { m.lock n with
      owner := BitVec.ofNat 8 owner, leaseNow := if owner = id then (m.lock n).lease else (m.lock n).leaseNow,
      age := if owner = id then 0 else (m.lock n).age,
      waiters := (([id].filter (· != owner)).filterMap waiterBit).foldl (fun w b => w ||| (1#27 <<< b)) (m.lock n).waiters } := by
  simp only [takeLock, lock_modLock, List.foldl_cons, List.foldl_nil, Option.getD_some, List.mem_singleton]

/-- A free lock, or one the agent owns, is the agent's after its take, with the lease anew. -/
theorem lock_take {id : Nat} (h : id ≠ 0) (takes : (m.lock n).owner = 0 ∨ (m.lock n).owner.toNat = id) :
    ((m.lockReq n id id).lock n).owner = BitVec.ofNat 8 id ∧ ((m.lockReq n id id).lock n).leaseNow = (m.lock n).lease ∧
      ((m.lockReq n id id).lock n).age = 0 := by
  have winner : (if (m.lock n).owner = 0 then id else (m.lock n).owner.toNat) = id := by
    split
    · rfl
    next held => exact takes.resolve_left held
  rw [lockReq_take _ _ h, lock_modLock, lock_takeLock]
  dsimp only
  rw [winner]
  exact ⟨rfl, if_pos rfl, if_pos rfl⟩

/-- A lock another agent owns keeps its owner, and the agent waits for it. -/
theorem lock_wait {id b : Nat} (held : (m.lock n).owner ≠ 0) (other : (m.lock n).owner.toNat ≠ id) (h : id ≠ 0) (bit : waiterBit id = some b) :
    ((m.lockReq n id id).lock n).owner = (m.lock n).owner ∧
      ((m.lockReq n id id).lock n).waiters = (m.lock n).waiters ||| (1#27 <<< b) := by
  rw [lockReq_take _ _ h, lock_modLock, lock_takeLock]
  dsimp only
  rw [if_neg held]
  have waits : [id].filter (· != (m.lock n).owner.toNat) = [id] := by simp [Ne.symm other]
  rw [waits, List.filterMap_cons_some bit]
  refine ⟨by simp, ?_⟩
  exact BitVec.and_allOnes

/-- A take or a release of a lock leaves the cores and the memories alone. -/
theorem lockReq_keeps {id : Nat} (h : id ≠ 0) (take : Bool) :
    let k := m.lockReq n id (if take then id else 0)
    k.cores = m.cores ∧ k.ms = m.ms ∧ k.mem = m.mem := by
  cases take with
  | true =>
    have take : m.lockReq n id id = _ := lockReq_take m n h
    exact take ▸ ⟨rfl, rfl, rfl⟩
  | false =>
    show (m.lockReq n id 0).cores = _ ∧ (m.lockReq n id 0).ms = _ ∧ (m.lockReq n id 0).mem = _
    by_cases owner : (m.lock n).owner.toNat = id
    · obtain ⟨p, f, u, e, x, o, w, h, freed⟩ := m.freeLock_eq n
      rw [lockReq_release _ _ owner, freed]
      exact ⟨rfl, rfl, rfl⟩
    · rw [lockReq_stray _ _ owner]
      exact ⟨rfl, rfl, rfl⟩

end

section
variable {m k : Mach} {c : BitVec 4} (cores : k.cores = m.cores) (ms : k.ms = m.ms) (mem : k.mem = m.mem)
include cores ms mem

/-- Whether a service core may issue rests on the cores and the memories. -/
theorem mayIssue_congr (side : Side) (priv : Bool) :
    k.core c = m.core c ∧ k.fetchClean (.core c) = m.fetchClean (.core c) ∧ k.scBlock c side priv = m.scBlock c side priv := by
  have same : k.core c = m.core c := by rw [core, cores, core]
  refine ⟨same, ?_, ?_⟩
  · simp only [fetchClean, lineClean, fetchFinds, same, ms]
  · rw [scBlock, scBlock, localWord, localWord, same, mem]

end
end Mach

theorem coreLive_iff {x : Core} : coreLive x = true ↔ x.run = .running ∧ x.entry = none := by
  rw [coreLive, Bool.and_eq_true, beq_iff_eq, Option.isNone_iff_eq_none]

/-- The running priority of a core that is in no entry is its top frame's. -/
theorem runPrio_frames {x : Core} (idle : x.entry = none) (l : List Frame) :
    runPrio { x with frames := l } = (l.map (fun g => g.prio.toNat)).headD 16 := by
  simp only [runPrio, idle, Option.any_none]
  cases l <;> rfl

end Sys2Proof.Machine

section
open Sys2Proof Sys2Proof.Machine

/-- A lock helper of a privileged core: its request goes to the lock, and rd takes the owner that stands after it, or 0. -/
theorem issueLock_done {s : State} {c : BitVec 4} (h : s.privileged c) (rd ra : BitVec 5) (imm : BitVec 12) (take : Bool) :
    let k := s.m.lockReq (lockNo (s.m.core c).th ra imm) (c.toNat + 1) (if take then c.toNat + 1 else 0)
    s.m.issueLock (.core c) rd ra imm take = k.coreDone c { s.m.core c with
      th := ((s.m.core c).th.put rd (if take then (k.lock (lockNo (s.m.core c).th ra imm)).owner.zeroExtend 64 else 0)).next } := by
  intro k
  obtain ⟨⟨live, clean⟩, issues, -⟩ := h
  obtain ⟨cores, ms, mem⟩ := Mach.lockReq_keeps s.m (lockNo (s.m.core c).th ra imm) (Nat.succ_ne_zero c.toNat) take
  obtain ⟨core, fetch, block⟩ := Mach.mayIssue_congr (c := c) cores ms mem .scOnly true
  refine (if_neg (by rw [issues]; decide)).trans ?_
  have stands {g : Core → Except Trap Core} {y : Core} (value : g (s.m.core c) = .ok y) : k.issueSys (.core c) true g = k.coreDone c y :=
    Mach.issueSc_ok (by rwa [core]) (fetch.trans clean) (block.trans (Mach.scBlock_of_sysIssues issues true)) (by rw [core, value])
  exact stands rfl

/-- What a register holds after an instruction wrote rd. -/
theorem reg_coreDone {s : State} {k : Mach} {c : BitVec 4} (rd : BitVec 5) (v : Word) :
    let t : State := { s with m := k.coreDone c { s.m.core c with th := ((s.m.core c).th.put rd v).next } }
    (rd ≠ 0 → t.reg (.core c) rd = v) ∧ ∀ r, r ≠ rd ∨ rd = 0 → t.reg (.core c) r = s.reg (.core c) r := by
  intro t
  have th : t.m.thread (.core c) = ((s.m.core c).th.put rd v).next := congrArg Core.th (Mach.core_setCore k c _)
  refine ⟨fun h => ?_, fun r h => ?_⟩
  · rw [State.reg, th]
    exact Thread.get_put_self _ _ h
  · rw [State.reg, th]
    rcases h with other | rfl
    · exact Thread.get_put_ne _ _ other
    · rw [Thread.put_zero]
      rfl

theorem waiterBit_core (c : BitVec 4) : Mach.waiterBit (c.toNat + 1) = some c.toNat :=
  if_pos (by omega)

theorem lockHelpers : Claim.LockHelpers := by
  intro s c rd ra imm privileged gives n
  have id : c.toNat + 1 ≠ 0 := Nat.succ_ne_zero _
  have small : (BitVec.ofNat 8 (c.toNat + 1)).toNat = c.toNat + 1 := by rw [BitVec.toNat_ofNat]; omega
  have acq := issueLock_done privileged rd ra imm true
  have rel := issueLock_done privileged rd ra imm false
  have next {m k : Mach} (h : m = k) : (Host.Outcome.next ({ s with m := m } : State) : Res) = .next { s with m := k } := by rw [h]
  refine ⟨fun mine => ⟨_, next acq, ?_⟩, fun held other => ⟨_, next acq, ?_⟩, fun own => ⟨_, next rel, ?_⟩, fun other => ⟨_, next rel, ?_⟩⟩
  · obtain ⟨owner, lease, age⟩ := Mach.lock_take s.m n id mine
    have value : ((s.m.lockReq n (c.toNat + 1) (c.toNat + 1)).lock n).owner.zeroExtend 64 = BitVec.ofNat 64 (c.toNat + 1) := by
      rw [owner]
      apply BitVec.eq_of_toNat_eq
      rw [BitVec.toNat_setWidth, small, BitVec.toNat_ofNat]
    refine ⟨(congrArg BitVec.toNat owner).trans small, age, lease, ?_⟩
    rw [← value]
    exact reg_coreDone rd _
  · obtain ⟨owner, waits⟩ := Mach.lock_wait s.m n held other id (waiterBit_core c)
    refine ⟨owner, (congrArg (BitVec.getLsbD · c.toNat) waits).trans ?_, ?_⟩
    · rw [BitVec.getLsbD_or, BitVec.getLsbD_shiftLeft]
      have inside : c.toNat < 27 := by omega
      simp [inside]
    · rw [← owner]
      exact reg_coreDone rd _
  · have freed : (s.m.lockReq n (c.toNat + 1) 0).lock n = _ := (congrArg (Mach.lock · n) (Mach.lockReq_release s.m n own)).trans (Mach.lock_freeLock s.m n)
    exact ⟨congrArg Lock.owner freed, congrArg Lock.waiters freed, reg_coreDone rd _⟩
  · have kept : (s.m.lockReq n (c.toNat + 1) 0).lock n = s.m.lock n := by
      rw [Mach.lockReq_stray s.m n other]
      rfl
    exact ⟨congrArg Lock.owner kept, congrArg Lock.waiters kept, reg_coreDone rd _⟩

theorem waitFenceAndTrapReturn : Claim.WaitFenceAndTrapReturn := by
  rintro s c ⟨⟨live, clean⟩, issues, -⟩
  have clear := Mach.scBlock_of_sysIssues issues true
  obtain ⟨running, idle⟩ := coreLive_iff.mp live
  have reti : exec (.reti (.core c)) s = .next { s with m := s.m.reti c } := by
    show Host.Outcome.next ({ s with m := if s.m.sysIssues c then (s.m.fetchLocal c).2.reti c else _ } : State) = _
    rw [if_pos issues, fetchLocal_clean clean]
  have stands {g : Core → Except Trap Core} {y : Core} (value : g (s.m.core c) = .ok y) : s.m.issueSys (.core c) true g = s.m.coreDone c y :=
    Mach.issueSc_ok live clean clear value
  refine ⟨core_leaves (stands ?_), fun still => core_leaves ?_, fun plain => ?_, fun f below top handler => ?_⟩
  · simp only [List.isEmpty_iff]
  · refine (if_neg ?_).trans (stands rfl)
    rw [still]
    simp
  · obtain ⟨privileged, enabled, others⟩ := Mach.retiStatus_bits (s.m.core c).status
    refine ⟨Mach.returned (s.m.core c), ?_, rfl, rfl, privileged, enabled, others, rfl, rfl, rfl, rfl, idle⟩
    rw [reti, Mach.reti_trap _ _ plain]
    rfl
  · intro x v offer
    let n := (s.m.coreDone c (Mach.returned x)).clearActive f.src.toNat
    have here : n.core c = Mach.counted (Mach.returned x) := by
      have done : (s.m.coreDone c (Mach.returned x)).core c = _ := Mach.core_setCore s.m c (Mach.counted (Mach.returned x))
      exact (Mach.core_clearActive _ c _ (by rw [done]; exact fun w => nomatch running.symm.trans w)).trans done
    have view : n.icBefore 5 = v := Mach.icBefore_clearActive _ 5 _
    have offered : bestOffer (n.icBefore 5) c.toNat (runPrio { n.core c with frames := below }) = offer := by
      rw [view, here, runPrio_frames (x := Mach.counted (Mach.returned x)) idle]
    obtain ⟨privileged, enabled, others⟩ := Mach.retiStatus_bits x.status
    have ie : Mach.ieBit (n.core c) = x.status.getLsbD 3 := by rw [here]; exact enabled
    rw [reti, Mach.reti_handler _ _ top handler]
    change ∃ t, Host.Outcome.next ({ s with m := n.endHandler c f below } : State) = (.next t : Res) ∧ _
    refine ⟨_, rfl, ?_⟩
    have restores (h : offer = none ∨ x.status.getLsbD 3 = false) : n.endHandler c f below = n.setCore c (Mach.unframed (n.core c) f below) :=
      Mach.endHandler_restores n c (by rwa [offered, ie])
    have chains {k : Nat} (h : offer = some k) (h' : x.status.getLsbD 3 = true) := Mach.endHandler_chains n c (f := f) (offered.trans h) (ie.trans h')
    rcases Classical.em (offer = none ∨ x.status.getLsbD 3 = false) with free | taken
    · dsimp only
      rw [restores free, Mach.core_setCore, here]
      obtain ⟨p, i, pie, ppmode⟩ := Mach.framedStatus_bits (Mach.retiStatus x.status) f
      refine ⟨rfl, rfl, p.trans privileged, i.trans enabled, rfl, rfl, fun _ => ⟨rfl, idle, rfl, rfl, rfl, pie, ppmode⟩, fun k some on => ?_⟩
      rw [some, on] at free
      simp at free
    · rw [not_or, ← ne_eq, Option.ne_none_iff_exists', Bool.not_eq_false] at taken
      obtain ⟨⟨k, some⟩, on⟩ := taken
      dsimp only
      rw [chains some on, Mach.core, Mach.count_cores, ← Mach.core, Mach.core_setCore, here, view, Mach.count_ic]
      refine ⟨rfl, rfl, privileged, enabled, rfl, rfl, fun h => ?_, fun k' some' _ => ?_⟩
      · rw [some, on] at h
        simp at h
      · cases some.symm.trans some'
        exact ⟨top, rfl, rfl, rfl, Mach.objD_setObj _ _ _ _ _⟩

/-- Settles O20, by its two parts. -/
theorem privilegedInstructions : Obligations.PrivilegedInstructions := ⟨waitFenceAndTrapReturn, lockHelpers⟩

end

namespace Sys2Proof.Machine

/-! Branches and jumps (R110 to R112, Table 5-9). -/

namespace Thread
variable (t : Thread) {target : Int}

theorem goto_ok (low : 0 ≤ target) (high : target < 2 ^ 32) (aligned : target % 4 = 0) :
    t.goto target = .ok { t with pc := BitVec.ofInt 32 target } := by
  rw [goto, if_neg (by omega), if_neg (by omega)]

theorem goto_fetch (out : target < 0 ∨ 2 ^ 32 ≤ target) : t.goto target = .error { code := 0x01, value := BitVec.ofInt 64 target } :=
  if_pos out

theorem goto_misaligned (low : 0 ≤ target) (high : target < 2 ^ 32) (odd : target % 4 ≠ 0) :
    t.goto target = .error { code := 0x04, value := BitVec.ofInt 64 target } := by
  rw [goto, if_neg (by omega), if_pos odd]

end Thread

namespace Mach
section
variable {m : Mach} {x : Exec} {taken : Thread → Bool} {f : Thread → Except Trap Thread}

/-- A word that reads without error can be had. -/
theorem fetchGood_of_clean (h : m.fetchClean x = true) : m.fetchGood x = true := by
  rw [fetchClean, Bool.and_eq_true, Option.any_eq_true] at h
  obtain ⟨-, found, finds, clean⟩ := h
  rw [fetchGood, finds, Option.any_some]
  rw [List.all_eq_true] at clean ⊢
  exact fun k in_ => by rw [clean k in_, Bool.true_or]

variable (h : m.issues x = true)
include h

theorem issueTaken_jumps (jumps : taken (m.thread x) = true) {t : Thread} (goes : f (m.thread x) = .ok t) :
    m.issueTaken x taken f = (m.issued x t).fetchedPast x (m.thread x).pc := by
  have clean := h
  rw [issues, Bool.and_eq_true] at clean
  rw [issueTaken, goes, fetchGood_of_clean clean.1, clean.2, jumps, issue_ok h goes]
  rfl

theorem issueTaken_falls (stays : taken (m.thread x) = false) {t : Thread} (goes : f (m.thread x) = .ok t) :
    m.issueTaken x taken f = m.issued x t := by
  rw [issueTaken, stays, issue_ok h goes, Bool.and_false, Bool.false_and]
  rfl

theorem issueTaken_traps {tr : Trap} (traps : f (m.thread x) = .error tr) : m.issueTaken x taken f = m.trapped x tr := by
  rw [issueTaken, traps, issue_error h traps, Bool.and_false]
  rfl

end
end Mach

section
variable {s : State} {x : Exec} (h : s.m.issues x = true) (aligned : (s.m.thread x).pc.toNat % 4 = 0) {ra rb : BitVec 5} {off : BitVec 13}
  {holds : Word → Word → Bool} {b : Bool} (cond : holds (s.reg x ra) (s.reg x rb) = b)
include h aligned cond

/-- A branch to a target in range goes there when its condition holds, else to the next word. -/
theorem issueBr_goes (low : 0 ≤ Int.ofNat (s.m.thread x).pc.toNat + 4 * off.toInt) (high : Int.ofNat (s.m.thread x).pc.toNat + 4 * off.toInt < 2 ^ 32) :
    Host.Outcome.next ({ s with m := s.m.issueBr x ra rb off holds } : State) =
      (.next (s.goes x b (Int.ofNat (s.m.thread x).pc.toNat + 4 * off.toInt)) : Res) := by
  congr 1
  have cond : holds ((s.m.thread x).get ra) ((s.m.thread x).get rb) = b := cond
  cases b with
  | true =>
    have target := Thread.goto_ok (s.m.thread x) low high (by rw [Int.ofNat_eq_natCast]; omega)
    exact congrArg (fun m => ({ s with m := m } : State)) (Mach.issueTaken_jumps h cond ((if_pos cond).trans target))
  | false => exact congrArg (fun m => ({ s with m := m } : State)) (Mach.issueTaken_falls h cond (if_neg (by rw [cond]; decide)))

omit aligned in
/-- A branch to a target out of range traps when its condition holds, else goes to the next word. -/
theorem issueBr_traps (out : Int.ofNat (s.m.thread x).pc.toNat + 4 * off.toInt < 0 ∨ 2 ^ 32 ≤ Int.ofNat (s.m.thread x).pc.toNat + 4 * off.toInt) :
    Host.Outcome.next ({ s with m := s.m.issueBr x ra rb off holds } : State) =
      (.next (if b then s.traps x { code := 0x01, value := BitVec.ofInt 64 (Int.ofNat (s.m.thread x).pc.toNat + 4 * off.toInt) }
        else s.goes x false (Int.ofNat (s.m.thread x).pc.toNat + 4 * off.toInt)) : Res) := by
  congr 1
  have cond : holds ((s.m.thread x).get ra) ((s.m.thread x).get rb) = b := cond
  cases b with
  | true => exact congrArg (fun m => ({ s with m := m } : State)) (Mach.issueTaken_traps h ((if_pos cond).trans (Thread.goto_fetch _ out)))
  | false => exact congrArg (fun m => ({ s with m := m } : State)) (Mach.issueTaken_falls h cond (if_neg (by rw [cond]; decide)))

end

end Sys2Proof.Machine

section
open Sys2Proof Sys2Proof.Machine

theorem branchTargets : Claim.BranchTargets := by
  intro s x ra rb off h aligned target a b
  have beq (u v : Word) : (u == v) = decide (u = v) := beq_eq_decide u v
  have bne (u v : Word) : (u != v) = decide (u ≠ v) := by rw [bne, beq, decide_not]
  refine ⟨fun low high => ?_, fun out => ?_⟩
  · have goes {holds : Word → Word → Bool} {b : Bool} (cond : holds a (s.reg x rb) = b) := issueBr_goes h aligned (ra := ra) (rb := rb) (off := off) cond low high
    exact ⟨goes (beq _ _), goes (bne _ _), goes rfl, goes rfl, goes rfl, goes rfl, goes (bne _ _), goes (beq _ _)⟩
  · have traps {holds : Word → Word → Bool} {b : Bool} (cond : holds a (s.reg x rb) = b) := issueBr_traps h (ra := ra) (rb := rb) (off := off) cond out
    simp only [List.forall_mem_cons]
    exact ⟨traps (beq _ _), traps (bne _ _), traps rfl, traps rfl, traps rfl, traps rfl, traps (bne _ _), traps (beq _ _), nofun⟩

theorem jumpAndLink : Claim.JumpAndLink := by
  intro s x rd ra off imm h th link go j k
  have goes {f : Thread → Except Trap Thread} {t : Thread} (arrives : f th = .ok t) :
      Host.Outcome.next ({ s with m := s.m.issueTaken x (fun _ => true) f } : State) =
        (.next { s with m := (s.m.issued x t).fetchedPast x th.pc } : Res) := by
    rw [Mach.issueTaken_jumps h rfl arrives]
  refine ⟨fun low high aligned => goes ?_, fun low high aligned => goes ?_⟩
  · exact congrArg (Except.map (fun u => u.put rd link)) (Thread.goto_ok th low high aligned)
  · exact congrArg (Except.map (fun u => u.put rd link)) (Thread.goto_ok th low high aligned)

theorem jumpTargetTraps : Claim.JumpTargetTraps := by
  intro s x rd ra off imm h j k
  have traps {f : Thread → Except Trap Thread} {tr : Trap} (stops : f (s.m.thread x) = .error tr) :
      Host.Outcome.next ({ s with m := s.m.issueTaken x (fun _ => true) f } : State) = (.next (s.traps x tr) : Res) := by
    rw [Mach.issueTaken_traps h stops]
    rfl
  refine ⟨fun out => traps ?_, fun out => traps ?_, fun low high odd => traps ?_⟩
  · exact congrArg (Except.map _) (Thread.goto_fetch _ out)
  · exact congrArg (Except.map _) (Thread.goto_fetch _ out)
  · exact congrArg (Except.map _) (Thread.goto_misaligned _ low high odd)

/-- Settles O17, by its three parts. -/
theorem branchesAndJumps : Obligations.BranchesAndJumps := ⟨branchTargets, jumpAndLink, jumpTargetTraps⟩

end

section
open Sys2Proof Sys2Proof.Machine

/-- A word with opcode 0 is reserved. -/
theorem decodeBis_opcode_zero (x : Exec) {w : BitVec 32} (small : w.toNat < 0x04000000) : decodeBis x w = none := by
  have opcode : wf w 26 6 = 0 := by
    apply BitVec.eq_of_toNat_eq
    rw [wf, BitVec.extractLsb'_toNat, Nat.shiftRight_eq_div_pow, Nat.div_eq_of_lt small]
    rfl
  unfold decodeBis
  rw [opcode]
  rfl

theorem wordsOfTheSpecDecode : Claim.WordsOfTheSpecDecode :=
  fun x => ⟨rfl, rfl, rfl, rfl, fun _ => decodeBis_opcode_zero x⟩

theorem resetState : Claim.ResetState :=
  ⟨rfl, rfl, fun _ => rfl, fun _ => rfl, rfl, rfl, fun _ => ⟨rfl, rfl⟩, rfl, fun _ => rfl, by decide, by decide⟩

/-- Settles O59, by the words of the spec and the fields of the state after reset. -/
theorem wordsAndReset : Obligations.WordsAndReset := ⟨wordsOfTheSpecDecode, resetState⟩

end

namespace Sys2Proof.Machine

/-! What a fault of a job and an abandoned firing leave alone: the records of the event rings, the firings in the contexts, the reasons of the jobs, and the counts of firing traps lost for want of a record. -/

/-- The event rings, the firings of every PE, the FAULT_REASON of every job, and the count of lost firing traps of every job. -/
def Mach.traces (m : Mach) : SMap Evr × (PeId → SMap Ctx) × (JobId → BitVec 16) × (JobId → Option Nat) :=
  (m.evr, fun p => (m.pe p).ctxs, fun j => (m.job j).faultReason, fun j => m.obj? (0x4500 + j.toNat) 0x08)

namespace Mach

/-! Folds and choices keep the traces where each step or branch does -/

@[simp] theorem ite_traces (c : Prop) [Decidable c] (a b : Mach) : (if c then a else b).traces = if c then a.traces else b.traces :=
  apply_ite traces c a b

@[simp] theorem foldl_traces {α : Type} {f : Mach → α → Mach} (h : ∀ m a, (f m a).traces = m.traces) (l : List α) (m : Mach) :
    (l.foldl f m).traces = m.traces := by
  induction l generalizing m with
  | nil => rfl
  | cons a l ih => exact (ih _).trans (h m a)

@[simp] theorem foldl_snd_traces {α β : Type} {f : β × Mach → α → β × Mach} (h : ∀ acc a, (f acc a).2.traces = acc.2.traces)
    (l : List α) (acc : β × Mach) : (l.foldl f acc).2.traces = acc.2.traces := by
  induction l generalizing acc with
  | nil => rfl
  | cons a l ih => exact (ih _).trans (h acc a)

variable (m : Mach)

/-! Updates of parts -/

@[simp] theorem modTile_traces (t : TileId) (f : Tile → Tile) : (m.modTile t f).traces = m.traces := rfl
@[simp] theorem modCluster_traces (c : ClusterId) (f : Cluster → Cluster) : (m.modCluster c f).traces = m.traces := rfl
@[simp] theorem modMs_traces (f : MemSys → MemSys) : (m.modMs f).traces = m.traces := rfl
@[simp] theorem setMem_traces (x : Mem) : ({ m with mem := x } : Mach).traces = m.traces := rfl
@[simp] theorem setFree_traces (n : Nat) : ({ m with free := n } : Mach).traces = m.traces := rfl

theorem setPe_traces (p : PeId) {x : Pe} (h : x.ctxs = (m.pe p).ctxs) : (m.setPe p x).traces = m.traces := by
  have ctxs (q : PeId) : ((m.setPe p x).pe q).ctxs = (m.pe q).ctxs := by
    by_cases e : q = p
    · rw [e, pe_setPe, h]
    · exact congrArg Pe.ctxs (pe_setPe_ne m p q _ e)
  exact congrArg (fun c => (m.evr, c, _, _)) (funext ctxs)

@[simp] theorem modPe_traces (p : PeId) {f : Pe → Pe} (h : ∀ x, (f x).ctxs = x.ctxs) : (m.modPe p f).traces = m.traces :=
  m.setPe_traces p (h _)

@[simp] theorem modJob_traces (j : JobId) {f : Job → Job} (h : ∀ x, (f x).faultReason = x.faultReason) : (m.modJob j f).traces = m.traces := by
  have reason (k : JobId) : ((m.modJob j f).job k).faultReason = (m.job k).faultReason := by
    by_cases e : k = j
    · rw [e, job_modJob, h]
    · rw [job_modJob_ne _ _ _ _ e]
  exact congrArg (fun r => (m.evr, _, r, _)) (funext reason)

/-- Another counter is counted. -/
@[simp] theorem count_traces {i s : Nat} (small : s < 256) (other : s ≠ 8 ∨ i < 0x4500 ∨ 0x4508 ≤ i) (n : Nat) : (m.count i s n).traces = m.traces := by
  have kept (j : JobId) : (m.count i s n).obj? (0x4500 + j.toNat) 0x08 = m.obj? (0x4500 + j.toNat) 0x08 :=
    SMap.get?_set_ne _ _ _ _ (by have := j.isLt; omega)
  exact congrArg (fun o => (m.evr, _, _, o)) (funext kept)

@[simp] theorem countJ_traces {b s : Nat} (j : JobId) (small : s < 256) (other : s ≠ 8 ∨ b + 8 ≤ 0x4500 ∨ 0x4508 ≤ b) (n : Nat) :
    (m.countJ b j s n).traces = m.traces := by
  unfold countJ
  split
  · rfl
  · exact m.count_traces small (by omega) n

/-! What the module reports -/

@[simp] theorem raiseSource_traces (n : Nat) : (m.raiseSource n).traces = m.traces := by
  have merged : (m.count 0x4D00 0x04).traces = m.traces := m.count_traces (by decide) (by decide) 1
  unfold raiseSource
  split
  · rfl
  · split
    · dsimp only
      split
      · split
        · exact merged
        · rfl
      · rfl
    · dsimp only
      split <;> split
      · exact ({ m with ic := { m.ic with wake := true } } : Mach).count_traces (by decide) (by decide) 1
      · rfl
      · exact merged
      · rfl

@[simp] theorem logErr_traces {sev : Nat} (low : sev ≠ 4) (block reason : Nat) (j : Option JobId) (loc : Nat) (d0 d1 d2 d3 : Word) (perm : Bool) :
    (m.logErr sev block reason j loc d0 d1 d2 d3 perm).traces = m.traces := by
  obtain ⟨l, log⟩ := m.logErr_low low block reason j loc d0 d1 d2 d3 perm
  rw [log]
  rfl

@[simp] theorem hwSet_traces (f : EvField) (b : Word) : (m.hwSet f b).traces = m.traces := rfl

/-! Memory: reads, writes and check codes -/

@[simp] theorem halfClear_traces (h : Nat) : (m.halfClear h).traces = m.traces := rfl

@[simp] theorem logHalf_traces (h : Nat) (f : BitVec 36) : (m.logHalf h f).traces = m.traces := by simp [logHalf]

@[simp] theorem halfPoison_traces (h : Nat) : (m.halfPoison h).traces = m.traces := by simp [halfPoison]

@[simp] theorem halfRead_traces (h : Nat) : (m.halfRead h).2.traces = m.traces := by
  unfold halfRead
  dsimp only
  split <;> simp

@[simp] theorem halfInject_traces (h : Nat) : (m.halfInject h).traces = m.traces := by
  unfold halfInject
  dsimp only
  split <;> simp

@[simp] theorem hbmWrite_traces (a : Nat) (d : List Byte) : (m.hbmWrite a d).traces = m.traces := by
  refine (setMem_traces _ _).trans (foldl_traces (fun m h => ?_) _ m)
  simp

/-! SRAM -/

@[simp] theorem logPoison_traces (block loc : Nat) (data : Word) : (m.logPoison block loc data).traces = m.traces := by simp [logPoison]

@[simp] theorem setCh_traces (die : BitVec 2) (h : Nat) (w : Word) : (m.setCh die h w).traces = m.traces := rfl

@[simp] theorem patchInstall_traces (die : BitVec 2) (e loc : Nat) (lost : Bool) :
    (m.patchInstall die e loc lost).traces = m.traces := by simp [patchInstall]

@[simp] theorem repairNote_traces (r : RepairRec) : (m.repairNote r).traces = m.traces := by
  unfold repairNote
  split <;> rfl

@[simp] theorem patchLimit_traces (die : BitVec 2) (loc h n : Nat) : (m.patchLimit die loc h n).traces = m.traces := by
  unfold patchLimit
  split
  · simp
  · split
    · simp
    · split <;> simp

@[simp] theorem history_traces (die : BitVec 2) (loc : Nat) : (m.history die loc).traces = m.traces := by
  unfold history
  dsimp only
  split
  · simp
  · split
    · simp
    · split <;> simp

@[simp] theorem sramCorrected_traces (die : BitVec 2) (loc : Nat) : (m.sramCorrected die loc).traces = m.traces := by
  simp [sramCorrected]

@[simp] theorem sramWrite_traces (die : BitVec 2) (loc : Nat) : (m.sramWrite die loc).traces = m.traces := rfl

@[simp] theorem sramPut_traces (t : TileId) (kind unit : Nat) (l : List Nat) : (m.sramPut t kind unit l).traces = m.traces := by
  unfold sramPut
  split
  · rfl
  · exact foldl_traces (fun m w => m.sramWrite_traces _ _) l m

@[simp] theorem hbmWords_traces (a : Nat) (ws : List Word) : (m.hbmWords a ws).traces = m.traces := by simp [hbmWords]

@[simp] theorem lineWrite_traces (a : Nat) (v : Word) : (m.lineWrite a v).traces = m.traces := by
  refine (setMem_traces _ _).trans ?_
  simp

@[simp] theorem cacheWrite_traces (p : PeId) (k : Nat) : (m.cacheWrite p k).traces = m.traces := by
  unfold cacheWrite
  split
  · rfl
  · exact (sramPut_traces _ _ _ _ _).trans (setFree_traces m _)

/-! The record of a node and its settled record -/

@[simp] theorem setRecW_traces (r : NRef) (k : Nat) (v : Word) : (m.setRecW r k v).traces = m.traces := by simp [setRecW]

@[simp] theorem setSetlW_traces (r : NRef) (k : Nat) (l : List Word) : (m.setSetlW r k l).traces = m.traces := by simp [setSetlW]

@[simp] theorem setLast_traces (r : NRef) (t : Tag) : (m.setLast r t).traces = m.traces := by simp [setLast]

@[simp] theorem setHeld_traces (r : NRef) (k : Nat) (a b : Word) : (m.setHeld r k a b).traces = m.traces := by simp [setHeld]

@[simp] theorem setSettled_traces (r : NRef) (k : Nat) (a b : Word) (t : Tag) : (m.setSettled r k a b t).traces = m.traces := by
  simp [setSettled]

@[simp] theorem setSft_traces (r : NRef) (t : Tag) : (m.setSft r t).traces = m.traces := by simp [setSft]

@[simp] theorem tgtStore_traces (j : JobId) (i : Nat) (t : Tag) (a b : Word) : (m.tgtStore j i t a b).traces = m.traces := rfl

@[simp] theorem tgtForward_traces (r : NRef) (port : Nat) (old : Word × Word × Tag) (t : Tag) (a b : Word) :
    (m.tgtForward r port old t a b).traces = m.traces := by simp [tgtForward]

@[simp] theorem settle_traces (r : NRef) (port : Nat) (a b : Word) (t : Tag) : (m.settle r port a b t).traces = m.traces := by
  simp [settle]

/-! The matching store -/

@[simp] theorem putWords_traces (p : PeId) (pl : Place) (i : Nat) (ws : List Nat) : (m.putWords p pl i ws).traces = m.traces := by
  cases pl <;> simp [putWords]

@[simp] theorem deepReq_traces (p : PeId) (i : Nat) (j : JobId) : (m.deepReq p i j).traces = m.traces := rfl

@[simp] theorem dropEnt_traces (p : PeId) (pl : Place) (i : Nat) : (m.dropEnt p pl i).traces = m.traces := by
  cases pl with
  | iris => simp [dropEnt]
  | mob => simp [dropEnt]
  | deep =>
    unfold dropEnt
    dsimp only
    split
    · split <;> simp
    · simp

@[simp] theorem hregRemove_traces (p : PeId) (pl : Place) (g : GRef) : (m.hregRemove p pl g).traces = m.traces := by
  cases pl <;> exact rfl

@[simp] theorem ovfFreed_traces (p : PeId) (pl : Place) (g : GRef) : (m.ovfFreed p pl g).traces = m.traces := by
  cases pl <;> simp [ovfFreed]

@[simp] theorem freeGroup_traces (p : PeId) (pl : Place) (g : GRef) : (m.freeGroup p pl g).traces = m.traces := by
  simp [freeGroup, -List.foldl_reverse]

@[simp] theorem spillEnd_traces (p : PeId) : (m.spillEnd p).traces = m.traces := by
  unfold spillEnd
  dsimp only
  split
  · exact m.setPe_traces p rfl
  · rfl

/-! What Emit does with a firing -/

@[simp] theorem mergeJournaled_traces (r : NRef) (o : SRec) : (m.mergeJournaled r o).traces = m.traces := by simp [mergeJournaled]

@[simp] theorem formItems_traces (r : NRef) (kind : BitVec 2) (sel : Nat) (ctag tag : Tag) (gen : Byte) (ord : Nat) (fs : Bool)
    (a b : Word) : (m.formItems r kind sel ctag tag gen ord fs a b).traces = m.traces := by
  have send (x : Mach) (q : PMsg) : (x.probeSend q).traces = x.traces := rfl
  simp [formItems, send]

@[simp] theorem emitHeld_traces (r : NRef) (k : Nat) (fs : Bool) (a b : Word) (tag : Tag) (gen : Byte) :
    (m.emitHeld r k fs a b tag gen).traces = m.traces := by simp [emitHeld]

@[simp] theorem emitState_traces (r : NRef) (w : Nat) (v : Word) (tag : Tag) (gen : Byte) :
    (m.emitState r w v tag gen).traces = m.traces := by simp [emitState]

@[simp] theorem emitArrived_traces (r : NRef) (e : EmitJob) : (m.emitArrived r e).traces = m.traces := by simp [emitArrived]

@[simp] theorem storeToMem_traces (r : NRef) (s : SRec) : (m.storeToMem r s).traces = m.traces := by simp [storeToMem]

@[simp] theorem writeJournal_traces (r : NRef) (e : EmitJob) : (m.writeJournal r e).traces = m.traces := by simp [writeJournal]

@[simp] theorem commandDone_traces (r : NRef) (tag : Tag) : (m.commandDone r tag).traces = m.traces := by simp [commandDone]


@[simp] theorem freeEntries_traces (t : TileId) (l : List Nat) : (m.freeEntries t l).traces = m.traces := by
  have signal (x : Mach) : (x.freedSignal t).traces = x.traces := congrArg (fun c => (x.evr, c, _, _)) (funext fun p => freedSignal_pe (·.ctxs) (fun _ => rfl) p)
  simp [freeEntries, signal]

@[simp] theorem restoreState_traces (r : NRef) (es : List (Nat × JEntry)) : (m.restoreState r es).traces = m.traces := by
  simp [restoreState]

@[simp] theorem rebuildHeld_traces (r : NRef) (t : Option Tag) : (m.rebuildHeld r t).traces = m.traces := by
  refine (setLast_traces _ r _).trans (foldl_traces (fun m k => ?_) _ m)
  dsimp only
  split <;> simp

@[simp] theorem foldGroup_traces (p : PeId) (pl : Place) (g : GRef) : (m.foldGroup p pl g).traces = m.traces := by simp [foldGroup]

@[simp] theorem absorbCount_traces (j : JobId) (n : Nat) : (m.absorbCount j n).traces = m.traces := by simp [absorbCount]

@[simp] theorem absorbJob_traces (j : JobId) : (m.absorbJob j).traces = m.traces := by simp [absorbJob]

@[simp] theorem undone_traces (j : JobId) (t : TileId) (n : Nat) : (m.undone j t n).traces = m.traces := by simp [undone]

@[simp] theorem undoLost_traces (t : TileId) (e : Nat) : (m.undoLost t e).2.traces = m.traces := by
  refine foldl_snd_traces (fun acc w => ?_) _ (false, m)
  dsimp only
  split <;> simp

@[simp] theorem emitRecord_traces (r : NRef) (e : EmitJob) (x : ERec) (ord : Nat) : (m.emitRecord r e x ord).traces = m.traces := by
  simp [emitRecord]

@[simp] theorem completeCmd_traces (k : Nat) (status result : BitVec 32) : (m.completeCmd k status result).traces = m.traces := by
  unfold completeCmd
  split
  · split <;> rfl
  · rfl
@[simp] theorem command_traces (r : NRef) (e : EmitJob) (t : Token) : (m.command r e t).traces = m.traces := by
  unfold command
  split <;> simp

@[simp] theorem emitBegin_traces (r : NRef) (e : EmitJob) : (m.emitBegin r e).traces = m.traces := by
  unfold emitBegin
  split <;> simp

@[simp] theorem undoFiring_traces (r : NRef) (es : List (Nat × JEntry)) : (m.undoFiring r es).traces = m.traces := by
  unfold undoFiring
  dsimp only
  split <;> simp

@[simp] theorem undoJob_traces (j : JobId) : (m.undoJob j).traces = m.traces := by simp [undoJob]

@[simp] theorem endWaits_traces (j : JobId) : (m.endWaits j).traces = m.traces := by
  unfold endWaits
  dsimp only
  refine (foldl_traces (fun x k => x.completeCmd_traces _ _ _) _ _).trans ((foldl_traces (fun x k => x.completeCmd_traces _ _ _) _ _).trans ?_)
  have cleared : (m.modJob j (fun x => { x with
      stopWait := [], stopObj := false, runPair := [], runObj := false, checked := [], asked := [] })).traces = m.traces :=
    m.modJob_traces j fun _ => rfl
  split <;> exact cleared

/-! An abandoned firing -/

@[simp] theorem storeEnt_traces (p : PeId) (pl : Place) (i : Nat) (e : Entry) : (m.storeEnt p pl i e).traces = m.traces := by
  cases pl <;> simp [storeEnt]

@[simp] theorem modHead_traces (p : PeId) (pl : Place) (g : GRef) (f : Entry → Entry) : (m.modHead p pl g f).traces = m.traces := by
  unfold modHead
  split <;> simp

@[simp] theorem hregAdd_traces (p : PeId) (pl : Place) (g : GRef) : (m.hregAdd p pl g).traces = m.traces := by
  cases pl <;> simp [hregAdd]

@[simp] theorem dropDesc_traces (p : PeId) (g : GRef) : (m.dropDesc p g).traces = m.traces := by
  unfold dropDesc
  dsimp only
  split <;> simp

@[simp] theorem withdraw_traces (p : PeId) (pl : Place) (g : GRef) : (m.withdraw p pl g).traces = m.traces := by simp [withdraw, setGState]

@[simp] theorem evalReady_traces (p : PeId) (g : GRef) : (m.evalReady p g).traces = m.traces := by
  unfold evalReady
  split
  · rfl
  · split
    · rfl
    · split
      · split
        · exact m.modPe_traces p fun x => by split <;> rfl
        · rfl
      · split
        · rfl
        · exact m.withdraw_traces ..
      · rfl

@[simp] theorem abandonSpec_traces (r : NRef) (k : Key) (jents : List Nat) : (m.abandonSpec r k jents).traces = m.traces := by
  unfold abandonSpec
  dsimp only
  split <;> simp [setGState, rebuildLast]

end Mach
end Sys2Proof.Machine

namespace Sys2Proof.Machine

/-! The effects of a firing trap (R118, R157, R163). -/

/-- A key a map does not hold is held by no part of it. -/
theorem SMap.get?_filter_none {α : Type} (f : Nat × α → Bool) {l : SMap α} {k : Nat} (h : SMap.get? l k = none) :
    SMap.get? (l.filter f) k = none := by
  induction l with
  | nil => rfl
  | cons e r ih =>
    obtain ⟨k', v⟩ := e
    rw [SMap.get?] at h
    split at h
    · cases h
    next other =>
      rw [List.filter_cons]
      split
      · rw [SMap.get?, if_neg other]
        exact ih h
      · exact ih h

namespace Mach

/-- m' has the event rings and the reasons of m, and no firing in a context that m leaves free. -/
structure Undoes (m m' : Mach) : Prop where
  rings : m'.evr = m.evr
  reason : ∀ j, (m'.job j).faultReason = (m.job j).faultReason
  free : ∀ p c, SMap.get? (m.pe p).ctxs c = none → SMap.get? (m'.pe p).ctxs c = none

section
variable {m m' m'' : Mach}

namespace Undoes

theorem of_traces (h : m'.traces = m.traces) : Undoes m m' :=
  ⟨congrArg (·.1) h, fun j => congrArg (·.2.2.1 j) h, fun p c free => (congrArg (fun t => SMap.get? (t.2.1 p) c) h).trans free⟩

theorem trans (h : Undoes m m') (h' : Undoes m' m'') : Undoes m m'' :=
  ⟨h'.rings.trans h.rings, fun j => (h'.reason j).trans (h.reason j), fun p c free => h'.free p c (h.free p c free)⟩

theorem modPe (p : PeId) {f : Pe → Pe} (h : ∀ x c, SMap.get? x.ctxs c = none → SMap.get? (f x).ctxs c = none) : Undoes m (m.modPe p f) := by
  refine ⟨rfl, fun _ => rfl, fun q c free => ?_⟩
  by_cases e : q = p
  · subst e
    rw [pe_modPe]
    exact h _ _ free
  · rwa [show (m.modPe p f).pe q = m.pe q from pe_setPe_ne m p q _ e]

theorem setJobState (j : JobId) (s : JobState) : Undoes m (m.setJobState j s) := by
  obtain ⟨t, h, f, u, q, l, o, z, e⟩ := m.setJobState_eq j s
  rw [e]
  split
  · exact ⟨rfl, fun _ => rfl, fun _ _ free => free⟩
  · have kept := m.modJob_traces j (f := fun x => { x with state := s, stateAt := m.quanta }) fun _ => rfl
    exact ⟨rfl, fun k => congrArg (·.2.2.1 k) kept, fun _ _ free => free⟩

theorem abandonJob (j : JobId) : Undoes m (m.abandonJob j) := by
  unfold Mach.abandonJob
  generalize m.jobPes j = l
  induction l generalizing m with
  | nil => exact of_traces rfl
  | cons p l ih =>
    rw [List.foldl_cons]
    refine trans (trans (of_traces ?_) (modPe p fun x c free => SMap.get?_filter_none _ free)) ih
    simp

end Undoes

variable (m)

/-- A fault of a running job changes of these its own reason. -/
theorem faultJob_undoes {j : JobId} (run : (m.job j).state = .run) (reason block loc : Nat) (d0 d1 d2 d3 : Word) :
    Undoes ((m.logErr 2 block reason (some j) loc d0 d1 d2 d3).modJob j (fun x => { x with
      faultReason := BitVec.ofNat 16 reason, pause := none, wavePause := none, stalled := false, pauseRb := false }))
      (m.faultJob j reason block loc d0 d1 d2 d3) := by
  have ended : (JobState.run == .timeExhausted) = false := rfl
  have empty : JobState.run ≠ .empty := nofun
  have faulted : JobState.run ≠ .faulted := nofun
  simp only [faultJob, run, ended, if_neg empty, if_neg faulted, Bool.false_and, Bool.false_eq_true, if_false]
  refine Undoes.trans (Undoes.trans (.setJobState j .faulted) (.trans (.of_traces (m' := Mach.closeSoon _ j) rfl) (.abandonJob j))) (.of_traces ?_)
  simp

/-- A trap record handed to event ring 0 waits there, and leaves the jobs, PEs and tiles alone. -/
theorem raiseRecord_kept (j : JobId) (rcd : List Word) : (m.raiseRecord j rcd).stores = m.stores ∧
    (SMap.getD (m.raiseRecord j rcd).evr 0 {}).held = (SMap.getD m.evr 0 {}).held ++ [rcd] := by
  refine ⟨by simp [raiseRecord], ?_⟩
  rw [raiseRecord, countJ_evr, ringRecord]
  split
  · rw [show ∀ (x : Mach) n, (x.raiseSource n).evr = x.evr from fun x n => congrArg (·.1) (x.raiseSource_traces n), SMap.getD_modify_self]
  · rw [SMap.getD_modify_self]

/-- A running job that faults is FAULTED for the reason given, its event rings stand, and no firing takes a free context. -/
theorem faultJob_faults {j : JobId} (run : (m.job j).state = .run) (reason block loc : Nat) (d0 d1 d2 d3 : Word) :
    let t := m.faultJob j reason block loc d0 d1 d2 d3
    (t.job j).state = .faulted ∧ (t.job j).faultReason = BitVec.ofNat 16 reason ∧ t.evr = m.evr ∧
      ∀ p c, SMap.get? (m.pe p).ctxs c = none → SMap.get? (t.pe p).ctxs c = none := by
  intro t
  obtain ⟨rings, why, free⟩ := m.faultJob_undoes run reason block loc d0 d1 d2 d3
  have log := m.logErr_traces (sev := 2) (by decide) block reason (some j) loc d0 d1 d2 d3 false
  have logged := Undoes.of_traces log
  refine ⟨m.faultJob_state (m.live_iff.mpr (.inr (.inl run))) .., (why j).trans (congrArg Job.faultReason (job_modJob ..)),
    rings.trans logged.rings, fun p c none => free p c (logged.free p c none)⟩

/-- A pause changes the job it names, and what goes to the root of a wave. -/
theorem pauseUp_eq (j : JobId) (p : Tag) : ∃ w s, m.pauseUp j p = { m with wave := w, sent := s } := by
  unfold pauseUp
  dsimp only
  split
  · exact ⟨_, _, rfl⟩
  · split
    · exact ⟨_, _, rfl⟩
    · exact ⟨_, _, rfl⟩

theorem pauseSet_eq (j : JobId) (p : Tag) : ∃ w s, pauseAt.set m j p =
    { m.modJob j (fun x => { x with pause := some p, pausedAt := p, dropPause := none }) with wave := w, sent := s } := by
  unfold pauseAt.set
  dsimp only
  split
  · exact pauseUp_eq _ j p
  · exact ⟨_, _, rfl⟩

/-- The tag of a pause within the device: GVT where the tag asked for lies below it. -/
def pauseTag (j : JobId) (tag : Tag) : Tag := if tag.lt (m.job j).gvt then (m.job j).gvt else tag

theorem pauseTag_lt (j : JobId) (tag : Tag) : (m.pauseTag j tag).lt tag = false := by
  unfold pauseTag Tag.lt
  split
  next early => simpa using Nat.le_of_lt (of_decide_eq_true early)
  · simp

theorem pauseAt_running {j : JobId} (run : (m.job j).state = .run) (tag : Tag) :
    m.pauseAt j (if tag.lt (m.job j).gvt then none else some tag) = pauseAt.go m j (m.pauseTag j tag) := by
  unfold pauseAt pauseTag
  rw [if_neg (by rw [run]; decide)]
  split
  next asked =>
    split at asked
    · cases asked
    next late =>
      cases asked
      rw [if_neg late, if_neg late]
  next asked =>
    split at asked
    next early => rw [if_pos early]
    · cases asked

/-- A pause asked for is taken, or a pending one stands. -/
theorem pauseGo (j : JobId) (tag : Tag) : pauseAt.go m j tag = (.ok, pauseAt.set m j (tag.max (m.job j).sh)) ∨
    (pauseAt.go m j tag = (.state, m) ∧ (m.job j).pause ≠ none) := by
  unfold pauseAt.go
  dsimp only
  split
  next q pending =>
    split
    · exact .inl rfl
    · exact .inr ⟨rfl, by rw [pending]; nofun⟩
  · exact .inl rfl

/-- A pause of a running job within the device at a tag, or later: taken where none is pending. -/
theorem pauseInside_running {j : JobId} (run : (m.job j).state = .run) (tag : Tag) (block : Nat) :
    let t := m.pauseInside j (some tag) block
    t.evr = m.evr ∧ t.pes = m.pes ∧ (t.job j).state = .run ∧
      ((m.job j).pause = none → ∃ g, (t.job j).pause = some g ∧ g.lt tag = false) := by
  intro t
  rcases m.pauseGo j (m.pauseTag j tag) with taken | ⟨refused, pending⟩
  · obtain ⟨w, s, set⟩ := m.pauseSet_eq j ((m.pauseTag j tag).max (m.job j).sh)
    have asked : t = pauseAt.set m j ((m.pauseTag j tag).max (m.job j).sh) := by
      show m.pauseInside j (some tag) block = _
      unfold pauseInside
      dsimp only
      rw [m.pauseAt_running run tag, taken]
    rw [set] at asked
    have here := m.job_modJob j (fun x => { x with
      pause := some ((m.pauseTag j tag).max (m.job j).sh), pausedAt := (m.pauseTag j tag).max (m.job j).sh, dropPause := none })
    rw [asked]
    refine ⟨rfl, rfl, (congrArg Job.state here).trans run, fun _ => ⟨_, congrArg Job.pause here, ?_⟩⟩
    have early := m.pauseTag_lt j tag
    unfold Tag.max
    split
    next below =>
      simp only [Tag.lt, decide_eq_true_eq, decide_eq_false_iff_not] at early below ⊢
      omega
    · exact early
  · have asked : t = m.logErr 0 block 0 (some j) 0 ((Err.state).code.zeroExtend 64) := by
      show m.pauseInside j (some tag) block = _
      unfold pauseInside
      dsimp only
      rw [m.pauseAt_running run tag, refused]
    obtain ⟨l, log⟩ := m.logErr_low (sev := 0) (by decide) block 0 (some j) 0 ((Err.state).code.zeroExtend 64) 0 0 0 false
    have logged : t = { m with err := l } := asked.trans log
    rw [logged]
    exact ⟨rfl, rfl, run, fun none => absurd none pending⟩

/-! The record of a trap (Table 5-10b) -/

theorem trapWords_code (pend : Bool) (j : JobId) (node : NodeId) (tag : Tag) (pc : BitVec 32) (tr : Trap) :
    bits ((trapWords pend j node tag pc tr).getD 0 0) 47 40 = tr.code.toNat := by
  show bits ((0 : BitVec 4) ++ BitVec.ofBool pend ++ j ++ tr.reason ++ tr.code ++ node) 47 40 = _
  rw [bits_eq_extractLsb', extract_append_above _ _ (by decide)]
  exact congrArg BitVec.toNat (extract_append_low _ _)

theorem userPause_iff (pend : Bool) (j : JobId) (node : NodeId) (tag : Tag) (pc : BitVec 32) (tr : Trap) :
    userPause (trapWords pend j node tag pc tr) = true ↔ tr.code = 0x0C ∧ tr.value.getLsbD 15 = true := by
  rw [userPause, trapWords_code, Bool.and_eq_true, decide_eq_true_iff]
  exact and_congr ⟨fun h => BitVec.eq_of_toNat_eq h, fun h => congrArg BitVec.toNat h⟩ Iff.rfl

theorem ctxs_freeCtx (p : PeId) (c : BitVec 4) : SMap.get? ((m.freeCtx p c).pe p).ctxs c.toNat = none := by
  rw [freeCtx, pe_modPe]
  exact SMap.get?_erase_self _ _

/-! The three ways a firing trap goes -/

section
variable {m} {j : JobId} (run : (m.job j).state = .run) (p : PeId) (tag : Tag) {rcd : List Word}
include run

/-- The trap of a safe firing of a running job faults the job. -/
theorem raiseTrap_faults (plain : userPause rcd = false) : let t := m.raiseTrap j p tag rcd
    (SMap.getD t.evr 0 {}).held = (SMap.getD m.evr 0 {}).held ++ [rcd] ∧
      (∀ q c, SMap.get? (m.pe q).ctxs c = none → SMap.get? (t.pe q).ctxs c = none) ∧
      (t.job j).state = .faulted ∧ (t.job j).faultReason = BitVec.ofNat 16 (0x100 + bits (rcd.getD 0 0) 47 40) := by
  intro t
  obtain ⟨stores, held⟩ := m.raiseRecord_kept j rcd
  have runs : ((m.raiseRecord j rcd).job j).state = .run := by rw [job_of_stores stores, run]
  have faulted : t = (m.raiseRecord j rcd).faultJob j (0x100 + bits (rcd.getD 0 0) 47 40) 0x01 p.toNat
      (rcd.getD 0 0) (rcd.getD 1 0) (rcd.getD 2 0) (rcd.getD 3 0) := if_neg (by rw [plain]; decide)
  rw [faulted]
  obtain ⟨state, reason, rings, free⟩ := (m.raiseRecord j rcd).faultJob_faults runs (0x100 + bits (rcd.getD 0 0) 47 40) 0x01 p.toNat
    (rcd.getD 0 0) (rcd.getD 1 0) (rcd.getD 2 0) (rcd.getD 3 0)
  exact ⟨by rw [rings]; exact held, fun q c none => free q c (by rwa [pe_of_stores stores]), state, reason⟩

/-- A USER trap of a safe firing whose code has bit 15 set pauses the running job, at its tag or later. -/
theorem raiseTrap_pauses (user : userPause rcd = true) : let t := m.raiseTrap j p tag rcd
    (SMap.getD t.evr 0 {}).held = (SMap.getD m.evr 0 {}).held ++ [rcd] ∧ t.pes = m.pes ∧ (t.job j).state = .run ∧
      ((m.job j).pause = none → ∃ g, (t.job j).pause = some g ∧ g.lt tag = false) := by
  intro t
  obtain ⟨stores, held⟩ := m.raiseRecord_kept j rcd
  have job := job_of_stores stores j
  have paused : t = (m.raiseRecord j rcd).pauseInside j (some tag) 0x01 := if_pos user
  rw [paused]
  obtain ⟨rings, pes, state, pause⟩ := (m.raiseRecord j rcd).pauseInside_running (by rw [job, run]) tag 0x01
  exact ⟨by rw [rings]; exact held, pes.trans (pes_of_stores stores), state, fun none => pause (by rw [job, none])⟩

end

/-- A firing of a running job abandoned for want of a record is counted; the event rings stand. -/
theorem abandonSpec_lost {j : JobId} (run : (m.job j).state = .run) (p : PeId) (n : BitVec 17) (k : Key) (l : List Nat) :
    let t := (m.abandonSpec ⟨j, p, n⟩ k l).countJ 0x4500 j 0x08
    t.evr = m.evr ∧ t.objD (0x4500 + j.toNat) 0x08 0 = (m.objD (0x4500 + j.toNat) 0x08 0 + 1) % 2 ^ 64 := by
  intro t
  have kept := m.abandonSpec_traces ⟨j, p, n⟩ k l
  have jobs := (Spares.abandonSpec (m := m) (p := p) j n k l).jobs
  have lost : (m.abandonSpec ⟨j, p, n⟩ k l).objD (0x4500 + j.toNat) 0x08 0 = m.objD (0x4500 + j.toNat) 0x08 0 :=
    congrArg (fun t => (t.2.2.2 j).getD 0) kept
  have counted : t = (m.abandonSpec ⟨j, p, n⟩ k l).count (0x4500 + j.toNat) 0x08 := if_neg (by
    rw [jobs, show (SMap.getD m.jobs j.toNat {}).state = .run from run]
    decide)
  rw [counted, ← lost]
  exact ⟨congrArg (·.1) kept, objD_setObj ..⟩

end
end Mach
end Sys2Proof.Machine

section
open Sys2Proof Sys2Proof.Machine

theorem firingTrapEffects : Claim.FiringTrapEffects := by
  rintro s p c ws y tr ⟨turn, -⟩ run t rcd
  have trapped : t.m = s.m.firingTrap p c y tr := by
    show s.m.trapped (.pe p c ws) tr = _
    rw [Mach.trapped, turn_some turn]
  have freed := s.m.ctxs_freeCtx p c
  refine ⟨fun safe => ?_, fun spec full => ?_, fun spec room => ?_⟩
  · have raised : t.m = (s.m.freeCtx p c).raiseTrap y.job p y.tag rcd := trapped.trans (if_pos safe)
    cases user : Mach.userPause rcd with
    | false =>
      obtain ⟨held, free, state, reason⟩ := Mach.raiseTrap_faults (m := s.m.freeCtx p c) run p y.tag user
      rw [← raised] at held free state reason
      refine ⟨free p _ freed, held, fun _ => ⟨state, ?_⟩, fun code bit => ?_⟩
      · rw [reason, Mach.trapWords_code, BitVec.toNat_ofNat]
        omega
      · rw [(Mach.userPause_iff ..).mpr ⟨code, bit⟩] at user
        cases user
    | true =>
      obtain ⟨held, pes, state, pause⟩ := Mach.raiseTrap_pauses (m := s.m.freeCtx p c) run p y.tag user
      rw [← raised] at held pes state pause
      refine ⟨?_, held, fun fault => ?_, fun _ _ => ⟨state, pause⟩⟩
      · rw [State.ctxAt, Mach.pe, pes]
        exact freed
      · obtain ⟨code, bit⟩ := (Mach.userPause_iff ..).mp user
        rw [bit] at fault
        exact fault.elim (absurd code) nofun
  · have lost : t.m = ((s.m.freeCtx p c).abandonSpec ⟨y.job, p, y.node⟩ y.tag.key y.jents).countJ 0x4500 y.job 0x08 :=
      trapped.trans ((if_neg (by rw [spec]; decide)).trans (if_neg (Nat.not_lt.mpr full)))
    have spares := Mach.Spares.abandonSpec (m := s.m.freeCtx p c) (p := p) y.job y.node y.tag.key y.jents
    obtain ⟨rings, count⟩ := (s.m.freeCtx p c).abandonSpec_lost run p y.node y.tag.key y.jents
    rw [State.ctxAt, lost, Mach.pe_of_stores (Mach.countJ_stores ..), Mach.tile_of_stores (Mach.countJ_stores ..), spares.ctxs, spares.pend]
    exact ⟨freed, rfl, rings, count⟩
  · have recorded : t.m = (s.m.freeCtx p c).modTile (peTile p) (fun x => { x with pend := x.pend ++
        [⟨y.job, mkNode s.m.number p y.node, y.tag, rcd.getD 0 0, rcd.getD 1 0, rcd.getD 2 0, rcd.getD 3 0⟩] }) :=
      trapped.trans ((if_neg (by rw [spec]; decide)).trans (if_pos room))
    rw [State.ctxAt, recorded, Mach.tile_modTile]
    exact ⟨freed, run, rfl, rfl⟩

/-- Settles O24, by its two parts. -/
theorem firingTraps : Obligations.FiringTraps := ⟨fetchAndBudgetTraps, firingTrapEffects⟩

end

namespace Sys2Proof.Machine

/-! Bytes of memory and loaded values (Table 5-8). -/

theorem bytesNat_lt (l : List Byte) : bytesNat l < 2 ^ (8 * l.length) := by
  induction l with
  | nil => decide
  | cons b l ih =>
    have small := b.isLt
    rw [bytesNat, List.length_cons, Nat.mul_succ, pow_add]
    omega

theorem memBytes_length (m : Mem) (a n : Nat) : (memBytes m a n).length = n := by simp [memBytes]

/-- A byte of the little-endian bytes of a number. -/
theorem natBytes_getElem (n v i : Nat) (h : i < (natBytes n v).length) : (natBytes n v)[i] = BitVec.ofNat 8 (v / 2 ^ (8 * i)) := by
  induction n generalizing v i with
  | zero => cases h
  | succ n ih =>
    cases i with
    | zero => simp [natBytes]
    | succ i =>
      have shift : 2 ^ (8 * (i + 1)) = 256 * 2 ^ (8 * i) := by rw [Nat.mul_succ, pow_add]; omega
      rw [shift, ← Nat.div_div_eq_div_mul]
      exact ih (v / 256) i _

theorem memWrite_append (x y : List Byte) (m : Mem) (a : Nat) : memWrite m a (x ++ y) = memWrite (memWrite m a x) (a + x.length) y := by
  induction x generalizing m a with
  | nil => rfl
  | cons b x ih =>
    rw [List.cons_append, memWrite, memWrite, ih, List.length_cons, Nat.add_right_comm, Nat.add_assoc]

/-- The widths of an access. -/
theorem width_cases (w : BitVec 2) : w = 0 ∨ w = 1 ∨ w = 2 ∨ w = 3 := by
  revert w
  decide

/-- A load of a width gives the low bytes, zero-extended. -/
theorem loadExt_zero (w : BitVec 2) (n : Nat) :
    Mach.loadExt w false (BitVec.ofNat 64 n) = BitVec.ofNat 64 (n % 2 ^ (8 * 2 ^ w.toNat)) := by
  apply BitVec.eq_of_toNat_eq
  rcases width_cases w with rfl | rfl | rfl | rfl <;> simp [Mach.loadExt]

/-- A load of a width gives the low bytes, sign-extended. -/
theorem loadExt_sign (w : BitVec 2) (n : Nat) :
    Mach.loadExt w true (BitVec.ofNat 64 n) = BitVec.ofInt 64 (BitVec.ofNat (8 * 2 ^ w.toNat) n).toInt := by
  have low {k : Nat} (le : k ≤ 64) : (BitVec.ofNat 64 n).truncate k = BitVec.ofNat k n := BitVec.setWidth_ofNat_of_le le n
  rcases width_cases w with rfl | rfl | rfl | rfl
  · exact congrArg (BitVec.signExtend 64) (low (k := 8) (by decide))
  · exact congrArg (BitVec.signExtend 64) (low (k := 16) (by decide))
  · exact congrArg (BitVec.signExtend 64) (low (k := 32) (by decide))
  · exact (BitVec.ofInt_toInt).symm

namespace Mach

/-! Writes of hub SRAM without errors (R239) -/

section
variable {m : Mach} (clean : m.ms.hubFlaw = [])
include clean

theorem hubWordRead_of_clean (a : Nat) : m.hubWordRead a = (.clean, m) := hubWordRead_clean (by rw [clean]; rfl)

theorem hubWordWrite_eq (a : Nat) (d : List Byte) : ∃ x o, x.hubFlaw = [] ∧
    m.hubWordWrite a d = { m with ms := x, objs := o, mem := memWrite m.mem a d } := by
  unfold hubWordWrite
  dsimp only
  split
  · exact ⟨_, _, show SMap.erase m.ms.hubFlaw _ = [] by rw [clean]; rfl, rfl⟩
  · rw [hubWordRead_of_clean (m := m.count 0x4A00 0x07) clean]
    exact ⟨_, _, clean, rfl⟩

/-- A write of hub SRAM that holds no error stores the bytes at their addresses. -/
theorem hubWrite_eq (a : Nat) (d : List Byte) : ∃ x o, m.hubWrite a d = { m with ms := x, objs := o, mem := memWrite m.mem a d } := by
  have part {k : Mach} (clean : k.ms.hubFlaw = []) (a : Nat) (d : List Byte) : ∃ x o, x.hubFlaw = [] ∧
      (if d = [] then k else k.hubWordWrite a d) = { k with ms := x, objs := o, mem := memWrite k.mem a d } := by
    split
    next none => exact ⟨_, _, clean, by rw [none]; rfl⟩
    · exact hubWordWrite_eq clean a d
  let head := d.take (if a % 8 = 0 then 0 else 8 - a % 8)
  let rest := d.drop head.length
  let body := rest.take (rest.length / 8 * 8)
  obtain ⟨x1, o1, clean1, first⟩ := part clean a head
  have middle : ∃ x o, x.hubFlaw = [] ∧ (if body = [] then { m with ms := x1, objs := o1, mem := memWrite m.mem a head }
      else ({ m with ms := x1, objs := o1, mem := memWrite m.mem a head } : Mach).hubWords (a + head.length) body) =
      { m with ms := x, objs := o, mem := memWrite m.mem a (head ++ body) } := by
    rw [memWrite_append]
    split
    next none => exact ⟨_, _, clean1, by rw [none]; rfl⟩
    · exact ⟨_, _, show List.filter _ x1.hubFlaw = [] by rw [clean1]; rfl, rfl⟩
  obtain ⟨x2, o2, clean2, second⟩ := middle
  obtain ⟨x3, o3, -, third⟩ := part (k := { m with ms := x2, objs := o2, mem := memWrite m.mem a (head ++ body) }) clean2
    (a + head.length + body.length) (rest.drop body.length)
  refine ⟨x3, o3, ?_⟩
  have pieces : (head ++ body) ++ rest.drop body.length = d := by
    rw [List.append_assoc, List.prefix_iff_eq_append.mp (List.take_prefix _ rest), List.prefix_iff_eq_append.mp (List.take_prefix _ d)]
  rw [← pieces, memWrite_append _ _ m.mem, List.length_append, ← Nat.add_assoc, pieces]
  unfold hubWrite
  dsimp only
  rw [first, second, third]

end
/-! Accesses of a service core in its local memory -/

/-- An address of a local memory is not one of HBM. -/
theorem modArea_local (p : Part) (c : BitVec 4) (a : Nat) : modArea p (localBase + localSize * c.toNat + a) ≠ .hbm := by
  have high : ¬ localBase + localSize * c.toNat + a < hbmSize p := by
    unfold hbmSize localBase
    split <;> omega
  unfold modArea
  rw [if_neg high]
  split
  · nofun
  · split <;> nofun

section
variable {m : Mach} {c : BitVec 4} {w : BitVec 2} {ea : Word}

theorem scCheck_aligned (aligned : ea.toNat % 2 ^ w.toNat = 0) : scCheck 0 ea (wBytes w) = none := by
  unfold scCheck wBytes
  rw [if_neg (by omega), if_neg (by decide)]

/-- An access within the local memory of a core goes to it. -/
theorem sysPlace_local (priv : Bool) (inside : ea.toNat + 2 ^ w.toNat ≤ 0x40000) :
    sysPlace m.part c priv ea.toNat (wBytes w) = .memory (localBase + localSize * c.toNat + ea.toNat) := if_pos inside

theorem coreWaits_local (a n : Nat) : m.coreWaits (localBase + localSize * c.toNat + a) n = false := by
  rw [coreWaits, beq_false_of_ne (modArea_local _ c a), Bool.false_and]

/-- A load within the local memory of a core gives the bytes there. -/
theorem coreLoad_local (clean : m.ms.hubFlaw = []) (inside : ea.toNat + 2 ^ w.toNat ≤ 0x40000) (rd : BitVec 5) (sx : Bool) :
    m.coreLoad c rd w sx ea = m.coreDone c { m.core c with th := ((m.core c).th.put rd (loadExt w sx
      (BitVec.ofNat 64 (bytesNat (memBytes m.mem (localBase + localSize * c.toNat + ea.toNat) (wBytes w)))))).next } := by
  have notHbm := modArea_local m.part c ea.toNat
  unfold coreLoad
  dsimp only
  rw [sysPlace_local _ inside]
  dsimp only
  rw [coreWaits_local, coreRead, if_neg notHbm, hubWordRead_of_clean clean, if_neg notHbm]
  rfl

theorem storeIssued_running (running : (m.core c).run = .running) :
    m.storeIssued c = m.coreDone c { m.core c with th := (m.core c).th.next } := by
  unfold storeIssued
  simp only [running]

/-- What an instruction of a load does on a core that issues. -/
theorem issueLoad_core (issues : m.issues (.core c) = true) {rd ra : BitVec 5} {imm : BitVec 12} (sx : Bool)
    (aligned : ((m.core c).th.ea ra imm).toNat % 2 ^ w.toNat = 0) :
    m.issueLoad (.core c) rd ra 0 w sx imm = m.coreLoad c rd w sx ((m.core c).th.ea ra imm) := by
  obtain ⟨live, fetch, clear⟩ := issues_core issues
  unfold issueLoad
  dsimp only
  rw [live, fetch, clear, scCheck_aligned aligned]
  rfl

end

end Mach

section
variable {s : State} {c : BitVec 4} {w : BitVec 2} {ea : Word}

theorem issueStore_core (issues : s.m.issues (.core c) = true) {rd ra : BitVec 5} {imm : BitVec 12}
    (aligned : ((s.m.core c).th.ea ra imm).toNat % 2 ^ w.toNat = 0) :
    s.issueStore c rd ra 0 w imm = s.coreStore c w ((s.m.core c).th.ea ra imm) ((s.m.core c).th.get rd) := by
  obtain ⟨live, fetch, clear⟩ := issues_core issues
  unfold State.issueStore
  dsimp only
  rw [live, fetch, clear, Mach.scCheck_aligned aligned]
  rfl

/-- A store within the local memory of a core writes the bytes there. -/
theorem coreStore_local (clean : s.m.ms.hubFlaw = []) (live : coreLive (s.m.core c) = true) (inside : ea.toNat + 2 ^ w.toNat ≤ 0x40000) (v : Word) :
    ∃ x o, s.coreStore c w ea v =
      let d := memWrite s.m.mem (localBase + localSize * c.toNat + ea.toNat) (natBytes (Mach.wBytes w) v.toNat)
      let n : Mach := { s.m with ms := x, objs := o, mem := d }
      { s with m := n.coreDone c { s.m.core c with th := (s.m.core c).th.next } } := by
  have notHbm := Mach.modArea_local s.m.part c ea.toNat
  obtain ⟨x, o, written⟩ := Mach.hubWrite_eq clean (localBase + localSize * c.toNat + ea.toNat) (natBytes (Mach.wBytes w) v.toNat)
  refine ⟨x, o, ?_⟩
  obtain ⟨running, -⟩ := coreLive_iff.mp live
  unfold State.coreStore
  dsimp only
  rw [Mach.sysPlace_local _ inside]
  dsimp only
  rw [Mach.coreWaits_local, Mach.coreWrite, if_neg notHbm, written]
  exact congrArg (fun m => ({ s with m := m } : State)) (Mach.storeIssued_running running)

end
end Sys2Proof.Machine

section
open Sys2Proof Sys2Proof.Machine

theorem localMemoryLoads : Claim.LocalMemoryLoads := by
  intro s c rd ra w imm issues clean ea n aligned inside
  have bound : n < 2 ^ (8 * 2 ^ w.toNat) := by
    have small := bytesNat_lt (memBytes s.m.mem (0x3C00000000 + 0x40000 * c.toNat + ea) (2 ^ w.toNat))
    rwa [memBytes_length] at small
  have loads (sx : Bool) {v : Word} (value : Mach.loadExt w sx (BitVec.ofNat 64 n) = v) :
      Host.Outcome.next ({ s with m := s.m.issueLoad (.core c) rd ra 0 w sx imm } : State) = (.next (s.sets (.core c) rd v) : Res) := by
    rw [Mach.issueLoad_core issues sx aligned, Mach.coreLoad_local (ea := (s.m.core c).th.ea ra imm) clean inside, ← value]
    rfl
  exact ⟨loads false (by rw [loadExt_zero, Nat.mod_eq_of_lt bound]), loads true (loadExt_sign w n)⟩

theorem localMemoryStores : Claim.LocalMemoryStores := by
  intro s c rd ra w imm issues clean wf ea at_ aligned inside
  obtain ⟨live, -, -⟩ := issues_core issues
  obtain ⟨x, o, stored⟩ := coreStore_local (w := w) (ea := (s.m.core c).th.ea ra imm) clean live inside (s.reg (.core c) rd)
  have len : (natBytes (Mach.wBytes w) (s.reg (.core c) rd).toNat).length = 2 ^ w.toNat := natBytes_length _ _
  refine ⟨_, congrArg Host.Outcome.next ((issueStore_core issues aligned).trans stored), fun i low => ?_, fun a out => ?_,
    Mach.core_setCore _ c _, fun d other => Mach.core_setCore_ne _ c d _ other, rfl, rfl, rfl, rfl, rfl, rfl, rfl, rfl⟩
  · refine (memGet_memWrite_inside _ _ _ i wf (by rw [len]; exact low)).trans ?_
    rw [natBytes_getElem]
    apply BitVec.eq_of_toNat_eq
    rw [BitVec.toNat_ofNat, BitVec.extractLsb'_toNat, Nat.shiftRight_eq_div_pow]
  · exact memGet_memWrite_outside _ _ _ a wf (by rw [len]; exact out)

/-- Settles O14, by its two parts. -/
theorem localMemoryAccesses : Obligations.LocalMemoryAccesses := ⟨localMemoryLoads, localMemoryStores⟩

end

namespace Sys2Proof.Machine

/-! Loads and stores of a firing (Table 5-8, R108, R151). -/

/-- Whether a store holds the byte at an address of design memory. -/
def SRec.covers (x : SRec) (a : Nat) : Bool := decide (x.off ≤ a ∧ a < x.off + 2 ^ x.w.toNat)

/-- The byte a store holds for an address. -/
def SRec.byteAt (x : SRec) (a : Nat) : Byte := x.data.extractLsb' (8 * (a - x.off)) 8

/-- The byte of the latest store of a list that holds an address. -/
def latestByte (l : List SRec) (a : Nat) : Option Byte := (l.reverse.find? (·.covers a)).map (·.byteAt a)

theorem overlay_length (a : Nat) (l : List (Option Byte)) (x : SRec) : (overlay a l x).length = l.length := by simp [overlay]

theorem overlay_getElem (a : Nat) (l : List (Option Byte)) (x : SRec) (i : Nat) (h : i < l.length) :
    (overlay a l x)[i]'(by rwa [overlay_length]) = if x.covers (a + i) then some (x.byteAt (a + i)) else l[i] := by
  simp only [overlay, List.getElem_map, List.getElem_zipIdx, Nat.zero_add, SRec.covers, decide_eq_true_eq, SRec.byteAt, Mach.wBytes]

/-- Bytes over which stores are laid, the latest last. -/
theorem overlays_eq (l : List SRec) (a n : Nat) :
    l.foldl (overlay a) (List.replicate n none) = (List.range n).map (fun i => latestByte l (a + i)) := by
  induction l using List.reverseRecOn with
  | nil => apply List.ext_getElem <;> simp [latestByte]
  | append_singleton l x ih =>
    rw [List.foldl_concat, ih]
    apply List.ext_getElem
    · simp [overlay_length]
    · intro i inside _
      rw [overlay_length] at inside
      rw [overlay_getElem _ _ _ _ inside]
      simp only [List.getElem_map, List.getElem_range, latestByte, List.reverse_append, List.reverse_singleton, List.singleton_append, List.find?_cons]
      split
      next covers => rw [covers]; rfl
      next apart => rw [Bool.eq_false_iff.mpr apart]

/-- The bytes of the number of little-endian bytes are those bytes. -/
theorem bytesNat_byte {l : List Byte} {n i : Nat} (len : l.length = n) (h : i < n) :
    (BitVec.ofNat (8 * n) (bytesNat l)).extractLsb' (8 * i) 8 = l[i] := by
  have digit : bytesNat l / 2 ^ (8 * i) % 2 ^ 8 = l[i].toNat := by
    induction l generalizing i n with
    | nil => cases len; cases h
    | cons b l ih =>
      have small := b.isLt
      cases i with
      | zero => simp only [bytesNat, List.getElem_cons_zero]; omega
      | succ i =>
        have shift : 2 ^ (8 * (i + 1)) = 256 * 2 ^ (8 * i) := by rw [Nat.mul_succ, pow_add]; omega
        have rest : bytesNat (b :: l) / 256 = bytesNat l := by rw [bytesNat]; omega
        rw [shift, ← Nat.div_div_eq_div_mul, rest]
        exact ih rfl (by rw [List.length_cons] at len; omega)
  apply BitVec.eq_of_toNat_eq
  subst len
  rw [BitVec.extractLsb'_toNat, Nat.shiftRight_eq_div_pow, BitVec.toNat_ofNat, Nat.mod_eq_of_lt (bytesNat_lt l), digit]

theorem memSide_both {sp w : BitVec 2} (node : sp = 1 → w = 3) : Mach.memSide sp w = .both := if_neg fun h => h.2 (node h.1)

namespace Mach
section
variable {s : State} {p : PeId} {c : BitVec 4} {ws : BitVec 16} {y : Ctx} (turns : s.turns p c ws y)
include turns

/-- A firing that issues reaches the hub. -/
theorem hubPath_of_turns (clear : s.m.peBlock y .both = none) : s.m.hubPath (peTile p) = true := by
  obtain ⟨turn, clean⟩ := turns
  have inside : s.m.inCode y = true := by
    unfold peBlock at clear
    split at clear
    · cases clear
    next inside => exact decide_eq_true (Nat.not_le.mp inside)
  rw [fetchClean, Bool.and_eq_true, lineClean, turn_some turn, Option.all_some, inside] at clean
  obtain ⟨line, -⟩ := clean
  rw [Bool.not_true, Bool.false_or, Bool.and_eq_true] at line
  exact line.1

variable {rd ra : BitVec 5} {sp w : BitVec 2} {sx : Bool} {imm : BitVec 12} (clear : s.m.peBlock y (memSide sp w) = none)
include clear

/-- A load of a firing that meets a check traps. -/
theorem firingLoad_traps {tr : Trap} (check : s.m.peCheck ⟨y.job, p, y.node⟩ false sp (y.th.ea ra imm) (wBytes w) = some tr) :
    s.on (fun m => m.firingLoad p c ws rd ra sp w sx imm) = .next (s.traps (.pe p c ws) tr) := by
  obtain ⟨turn, clean⟩ := turns
  simp only [on_eq, State.traps, trapped, firingLoad, turn, turn_some turn, fetchCode_clean (turn_some turn) clean, clear, check]

/-- A load of a firing that meets no check writes the value found. -/
theorem firingLoad_done {v : Word} (check : s.m.peCheck ⟨y.job, p, y.node⟩ false sp (y.th.ea ra imm) (wBytes w) = none)
    (load : s.m.peLoad y ⟨y.job, p, y.node⟩ sp (y.th.ea ra imm) (wBytes w) = (s.m, some (.ok v))) :
    s.on (fun m => m.firingLoad p c ws rd ra sp w sx imm) = .next (s.leaves p c { y with th := (y.th.put rd (loadExt w sx v)).next }) := by
  obtain ⟨turn, clean⟩ := turns
  simp only [on_eq, State.leaves, firingLoad, turn, fetchCode_clean (turn_some turn) clean, clear, check, load]

end

section
variable {m : Mach} (clean : m.cleanMemory) {r : NRef} (path : m.hubPath (peTile r.pe) = true)
include clean path

theorem firingRead_clean (j : JobId) (a n : Nat) : m.firingRead r.pe j a n = .ok m := by
  unfold firingRead
  simp only [copyWait_cleanMemory clean, cutOff_path path, hbmCheck_cleanMemory clean, Bool.false_eq_true, if_false]

/-- A load of the constants of a job. -/
theorem peLoad_constants (x : Ctx) (ea : Word) (n : Nat) : m.peLoad x r 2 ea n =
    (m, some (.ok (BitVec.ofNat 64 (bytesNat (memBytes m.mem ((m.job x.job).code.base + (m.job x.job).codeLen + ea.toNat) n))))) := by
  unfold peLoad
  dsimp only
  rw [if_neg (by decide), if_pos rfl, firingRead_clean clean path]
  dsimp only
  rw [alias_clean clean]

/-- The bytes of design memory a load of a firing finds. -/
def dmFound (m : Mach) (x : Ctx) (r : NRef) (a n : Nat) : List Byte :=
  (List.range n).map (fun i => (latestByte (m.storesBelow r x.tag ++ x.stores) (a + i)).getD
    (memGet m.mem ((m.job x.job).dmem.base + m.nDmBase r + a + i)))

/-- A load of design memory. -/
theorem peLoad_design (x : Ctx) (ea : Word) (n : Nat) : m.peLoad x r 3 ea n =
    (m, some (.ok (BitVec.ofNat 64 (bytesNat (m.dmFound x r ea.toNat n))))) := by
  have unread : m.journaledRead r x.tag = m := by
    unfold journaledRead
    split
    · rfl
    · exact journalRead_clean clean ..
  have found : ((m.dmOver r x.tag x.stores ea.toNat n).zip (memBytes m.mem (m.alias_ ((m.job x.job).dmem.base + m.nDmBase r + ea.toNat)) n)).map
      (fun (o, c) => o.getD c) = m.dmFound x r ea.toNat n := by
    rw [dmOver, overlays_eq, alias_clean clean, memBytes, dmFound]
    apply List.ext_getElem <;> simp
  unfold peLoad
  dsimp only
  rw [if_neg (by decide), if_neg (by decide), unread, if_neg (fun h => h rfl), firingRead_clean clean path, found]
  split
  · rfl
  · dsimp only
    rw [found]

end

section
variable {m : Mach} {r : NRef} {store : Bool} {sp : BitVec 2} {ea : Word} {n : Nat}

/-- The extent of the space an access of a firing names. -/
def extent (m : Mach) (r : NRef) (sp : BitVec 2) : Nat := if sp = 1 then 192 else if sp = 2 then (m.job r.job).constLen else m.nDmLen r

/-- Whether an access of a firing names a space it may not use. -/
def badSpace (m : Mach) (r : NRef) (store : Bool) (sp : BitVec 2) : Prop := sp = 0 ∨ (store = true ∧ sp ≠ 3) ∨ (sp = 3 ∧ m.nMode r ≠ 3)

theorem peCheck_misaligned (odd : ea.toNat % n ≠ 0) : m.peCheck r store sp ea n = some { code := 0x04, value := ea } := if_pos odd

variable (aligned : ea.toNat % n = 0)
include aligned

theorem peCheck_space (bad : m.badSpace r store sp) : m.peCheck r store sp ea n = some { code := 0x05, value := ea } :=
  (if_neg (not_not_intro aligned)).trans (if_pos bad)

theorem peCheck_bounds (good : ¬ m.badSpace r store sp) (out : m.extent r sp < ea.toNat + n) :
    m.peCheck r store sp ea n = some { code := 0x06, value := ea } :=
  (if_neg (not_not_intro aligned)).trans ((if_neg good).trans (if_pos out))

theorem peCheck_none (good : ¬ m.badSpace r store sp) (inside : ea.toNat + n ≤ m.extent r sp) : m.peCheck r store sp ea n = none :=
  (if_neg (not_not_intro aligned)).trans ((if_neg good).trans (if_neg (Nat.not_lt.mpr inside)))

end
end Mach
end Sys2Proof.Machine

section
open Sys2Proof Sys2Proof.Machine

/-- Settles O15, space by space. -/
theorem firingLoads : Obligations.FiringLoads := by
  intro s p c ws y rd ra w imm turns clear clean ea n r done
  have path := Mach.hubPath_of_turns turns clear
  have loads {sp w : BitVec 2} (node : sp = 1 → w = 3) (sx : Bool) {v u : Word}
      (check : s.m.peCheck r false sp (y.th.ea ra imm) (Mach.wBytes w) = none)
      (load : s.m.peLoad y r sp (y.th.ea ra imm) (Mach.wBytes w) = (s.m, some (.ok v))) (value : Mach.loadExt w sx v = u) :
      s.on (fun m => m.firingLoad p c ws rd ra sp w sx imm) = done u := by
    rw [Mach.firingLoad_done turns (by rw [memSide_both node]; exact clear) check load, value]
  refine ⟨?_, fun aligned inside => ?_, fun aligned mode inside => ?_⟩
  · rintro rfl aligned inside
    exact loads (fun _ => rfl) false (Mach.peCheck_none aligned (by simp [Mach.badSpace]) inside) rfl rfl
  · have small := bytesNat_lt (memBytes s.m.mem ((s.m.job y.job).code.base + (s.m.job y.job).codeLen + ea) n)
    rw [memBytes_length] at small
    refine loads (sp := 2) (w := w) nofun false (Mach.peCheck_none aligned (by simp [Mach.badSpace]) inside) (Mach.peLoad_constants (r := r) clean path y (y.th.ea ra imm) (Mach.wBytes w)) ?_
    rw [loadExt_zero]
    exact congrArg _ (Nat.mod_eq_of_lt small)
  · have check : s.m.peCheck r false 3 (y.th.ea ra imm) (Mach.wBytes w) = none :=
      Mach.peCheck_none aligned (by simp [Mach.badSpace, mode]) inside
    have load := Mach.peLoad_design (r := r) clean path y (y.th.ea ra imm) (Mach.wBytes w)
    have len : (s.m.dmFound y r ea n).length = n := by simp [Mach.dmFound]
    refine ⟨BitVec.ofNat (8 * n) (bytesNat (s.m.dmFound y r ea n)), fun i low => ?_, loads (sp := 3) (w := w) nofun false check load ?_, loads (sp := 3) (w := w) nofun true check load (loadExt_sign w _)⟩
    · rw [bytesNat_byte len low]
      simp only [Mach.dmFound, List.getElem_map, List.getElem_range, latestByte, SRec.covers, SRec.byteAt]
      split
      next st found => rw [found]; rfl
      next none => rw [none]; rfl
    · rw [loadExt_zero, BitVec.toNat_ofNat]
      rfl

end

namespace Sys2Proof.Machine

/-! Stores of a firing, and its access checks (R107, R108, R119). -/

namespace Mach
section
variable {s : State} {p : PeId} {c : BitVec 4} {ws : BitVec 16} {y : Ctx} (turns : s.turns p c ws y) {rd ra : BitVec 5} {sp w : BitVec 2}
  {imm : BitVec 12} (clear : s.m.peBlock y (memSide sp w) = none)
include turns clear

/-- A store of a firing that meets a check traps. -/
theorem firingStore_traps {tr : Trap} (check : s.m.peCheck ⟨y.job, p, y.node⟩ true sp (y.th.ea ra imm) (wBytes w) = some tr) :
    s.on (fun m => m.firingStore p c ws rd ra sp w imm) = .next (s.traps (.pe p c ws) tr) := by
  obtain ⟨turn, clean⟩ := turns
  simp only [on_eq, State.traps, trapped, firingStore, issuePe, turn, turn_some turn, fetchCode_clean (turn_some turn) clean, check, peIssue_clear clear]

variable (check : s.m.peCheck ⟨y.job, p, y.node⟩ true sp (y.th.ea ra imm) (wBytes w) = none)
include check

/-- A store of a firing that finds its store buffer full overruns. -/
theorem firingStore_overruns (full : s.m.storeLimit ⟨y.job, p, y.node⟩ ≤ y.stores.length) :
    s.on (fun m => m.firingStore p c ws rd ra sp w imm) = .next (s.traps (.pe p c ws) { code := 0x03, reason := 3 }) := by
  obtain ⟨turn, clean⟩ := turns
  simp only [on_eq, State.traps, trapped, firingStore, issuePe, turn, turn_some turn, fetchCode_clean (turn_some turn) clean, check, if_pos full,
    peIssue_clear clear]

/-- A store of a firing takes an entry of its store buffer. -/
theorem firingStore_done (room : y.stores.length < s.m.storeLimit ⟨y.job, p, y.node⟩) :
    s.on (fun m => m.firingStore p c ws rd ra sp w imm) = .next (s.leaves p c { y with
      th := y.th.next, stores := y.stores ++ [⟨(y.th.ea ra imm).toNat, w, y.th.get rd⟩] }) := by
  obtain ⟨turn, clean⟩ := turns
  simp only [on_eq, State.leaves, firingStore, issuePe, turn, fetchCode_clean (turn_some turn) clean, check, if_neg (Nat.not_le.mpr room),
    peIssue_clear clear]

end

/-- A load of the bytes of the latest store gives the store's low bytes. -/
theorem dmFound_latest (m : Mach) {x : Ctx} {l : List SRec} {a : Nat} {w : BitVec 2} {v : Word} (latest : x.stores = l ++ [⟨a, w, v⟩]) (r : NRef) :
    m.dmFound x r a (2 ^ w.toNat) = natBytes (2 ^ w.toNat) v.toNat := by
  apply List.ext_getElem
  · rw [natBytes_length, dmFound, List.length_map, List.length_range]
  · intro i low _
    rw [dmFound, List.length_map, List.length_range] at low
    have covers : (⟨a, w, v⟩ : SRec).covers (a + i) = true := decide_eq_true ⟨Nat.le_add_right a i, Nat.add_lt_add_left low a⟩
    have byte : latestByte (m.storesBelow r x.tag ++ x.stores) (a + i) = some ((⟨a, w, v⟩ : SRec).byteAt (a + i)) := by
      rw [latest, latestByte, ← List.append_assoc, List.reverse_append, List.reverse_singleton, List.singleton_append, List.find?_cons, covers]
      rfl
    simp only [dmFound, List.getElem_map, List.getElem_range, byte, Option.getD_some, natBytes_getElem, SRec.byteAt, Nat.add_sub_cancel_left]
    apply BitVec.eq_of_toNat_eq
    rw [BitVec.toNat_ofNat, BitVec.extractLsb'_toNat, Nat.shiftRight_eq_div_pow]

end Mach
end Sys2Proof.Machine

section
open Sys2Proof Sys2Proof.Machine

theorem firingStores : Claim.FiringStores := by
  intro s p c ws y rd ra w imm turns clear ea r aligned mode inside slots
  have side : s.m.peBlock y (Mach.memSide 3 w) = none := clear
  have check (store : Bool) : s.m.peCheck r store 3 ea (Mach.wBytes w) = none :=
    Mach.peCheck_none aligned (by simp [Mach.badSpace, mode]) inside
  have limit : s.m.storeLimit r = 2 := if_neg slots
  refine ⟨fun room => ⟨Mach.firingStore_done turns side (check true) (by rw [limit]; exact room), fun z => ?_⟩, fun l v latest clean => ?_,
    fun full => Mach.firingStore_overruns turns side (check true) (by rw [limit]; exact full)⟩
  · show (s.m.ctxDone p c z).mem = s.m.mem
    rw [Mach.ctxDone, Mach.mem_countJ]
    rfl
  · have load := Mach.peLoad_design (r := r) clean (Mach.hubPath_of_turns turns clear) y ea (Mach.wBytes w)
    have low : bytesNat (s.m.dmFound y r ea.toNat (Mach.wBytes w)) = v.toNat % 2 ^ (8 * 2 ^ w.toNat) := by
      rw [Mach.wBytes, Mach.dmFound_latest s.m latest, bytesNat_natBytes, pow_mul]
      rfl
    rw [low] at load
    refine ⟨(Mach.firingLoad_done turns side (check false) load).trans ?_, (Mach.firingLoad_done turns side (check false) load).trans ?_⟩
    · rw [loadExt_zero, Nat.mod_mod]
    · have same : BitVec.ofNat (8 * 2 ^ w.toNat) (v.toNat % 2 ^ (8 * 2 ^ w.toNat)) = BitVec.ofNat (8 * 2 ^ w.toNat) v.toNat :=
        BitVec.eq_of_toNat_eq (by rw [BitVec.toNat_ofNat, BitVec.toNat_ofNat, Nat.mod_mod])
      rw [loadExt_sign, same]

theorem firingAccessTraps : Claim.FiringAccessTraps := by
  intro s p c ws y rd ra sp w imm turns clear node ea trap
  have side : s.m.peBlock y (Mach.memSide sp w) = none := by rw [memSide_both node]; exact clear
  have loads {k : BitVec 8} (check : s.m.peCheck ⟨y.job, p, y.node⟩ false sp ea (Mach.wBytes w) = some { code := k, value := ea }) :
      exec (.ld (.pe p c ws) rd ra sp w imm) s = trap k := Mach.firingLoad_traps turns side check
  have stores {k : BitVec 8} (check : s.m.peCheck ⟨y.job, p, y.node⟩ true sp ea (Mach.wBytes w) = some { code := k, value := ea }) :
      exec (.st (.pe p c ws) rd ra sp w imm) s = trap k := Mach.firingStore_traps turns side check
  refine ⟨fun odd => ⟨loads (Mach.peCheck_misaligned odd), stores (Mach.peCheck_misaligned odd)⟩, fun aligned => ⟨fun zero => ?_, fun other => ?_,
    fun design mode => ?_, fun space out => ?_, fun space out => ?_⟩⟩
  · exact loads (Mach.peCheck_space aligned (.inl zero))
  · exact stores (Mach.peCheck_space aligned (.inr (.inl ⟨rfl, other⟩)))
  · exact loads (Mach.peCheck_space aligned (.inr (.inr ⟨design, mode⟩)))
  · obtain rfl := node space
    subst space
    exact loads (Mach.peCheck_bounds aligned (by simp [Mach.badSpace]) out)
  · subst space
    exact loads (Mach.peCheck_bounds aligned (by simp [Mach.badSpace]) out)

/-- Settles O16, by its two parts. -/
theorem firingStoresAndAccessTraps : Obligations.FiringStoresAndAccessTraps := ⟨firingStores, firingAccessTraps⟩

end

namespace Sys2Proof.Machine

/-! Bit counts, extract and deposit, and the reversals (R131). -/

/-- The first of the numbers below 64 that has a property, and 64 where none has: as a word, none before it has the property, and it has it where it is below 64. -/
theorem firstBelow64 (p : Nat → Bool) : let v : Word := BitVec.ofNat 64 (((List.range 64).find? p).getD 64)
    v.toNat ≤ 64 ∧ (∀ i < v.toNat, p i = false) ∧ (v.toNat < 64 → p v.toNat = true) := by
  intro v
  cases found : (List.range 64).find? p with
  | none =>
    have value : v.toNat = 64 := by simp [v, found]
    rw [value]
    have none : ∀ i < 64, p i = false := by simpa using found
    exact ⟨le_rfl, none, fun h => absurd h (lt_irrefl 64)⟩
  | some k =>
    obtain ⟨holds, inside, before⟩ := List.find?_range_eq_some.mp found
    have inside := List.mem_range.mp inside
    have value : v.toNat = k := by simp only [v, found, Option.getD_some, BitVec.toNat_ofNat]; omega
    rw [value]
    exact ⟨inside.le, fun i h => by simpa using before i h, fun _ => holds⟩

section
variable (a m : Word)

/-- The number of 1 bits of a mask below a position. -/
def onesBelow (n : Nat) : Nat := (List.range n).countP (fun i => m.getLsbD i)

/-- The 1 positions of a mask below a position, ascending. -/
def onesUpTo (n : Nat) : List Nat := (List.range n).filter (fun i => m.getLsbD i)

theorem onesUpTo_length (n : Nat) : (onesUpTo m n).length = onesBelow m n := List.countP_eq_length_filter.symm

theorem onesUpTo_succ (n : Nat) : onesUpTo m (n + 1) = onesUpTo m n ++ if m.getLsbD n then [n] else [] := by
  rw [onesUpTo, List.range_succ, List.filter_append, List.filter_singleton, Bool.cond_eq_ite]
  rfl

theorem onesBelow_le (n : Nat) : onesBelow m n ≤ n := by
  simpa [onesBelow] using List.countP_le_length (p := fun i => m.getLsbD i) (l := List.range n)

variable {m} in
/-- The place of a 1 position among those of the mask is the number of those below it. -/
theorem onesUpTo_getElem? {i n : Nat} (inside : i < n) (one : m.getLsbD i = true) : (onesUpTo m n)[onesBelow m i]? = some i := by
  induction n with
  | zero => cases inside
  | succ n ih =>
    rw [onesUpTo_succ]
    rcases Nat.lt_succ_iff_lt_or_eq.mp inside with below | rfl
    · have earlier := ih below
      obtain ⟨low, -⟩ := List.getElem?_eq_some_iff.mp earlier
      rw [List.getElem?_append_left low, earlier]
    · rw [if_pos one, ← onesUpTo_length]
      exact List.getElem?_concat_length

/-- Bits of the listed positions, packed: the number whose bits they are in order. -/
theorem foldl_pack (l : List Nat) : l.zipIdx.foldl (fun n (i, j) => if a.getLsbD i then n + 2 ^ j else n) 0 =
    (List.range l.length).foldl (fun n j => if a.getLsbD (l.getD j 0) then n + 2 ^ j else n) 0 := by
  have pairs : l.zipIdx = (List.range l.length).map (fun j => (l.getD j 0, j)) := by
    apply List.ext_getElem <;> simp +contextual
  rw [pairs, List.foldl_map]

/-- Low bits placed at the 1 positions of a mask: the number whose bits are those at the positions. -/
theorem foldl_deposit (n : Nat) : (onesUpTo m n).zipIdx.foldl (fun n (i, j) => if a.getLsbD j then n + 2 ^ i else n) 0 =
    (List.range n).foldl (fun n i => if (m.getLsbD i && a.getLsbD (onesBelow m i)) then n + 2 ^ i else n) 0 := by
  induction n with
  | zero => rfl
  | succ n ih =>
    rw [onesUpTo_succ, List.range_succ, List.foldl_append, ← ih, List.zipIdx_append, List.foldl_append, onesUpTo_length]
    cases one : m.getLsbD n <;> simp [one]

/-- BEXT: a 1 position's bit stands at its place among the 1 positions. -/
theorem getLsbD_bext_one {i : Nat} (inside : i < 64) (one : m.getLsbD i = true) : (bext a m).getLsbD (onesBelow m i) = a.getLsbD i := by
  have place := onesUpTo_getElem? inside one
  obtain ⟨low, -⟩ := List.getElem?_eq_some_iff.mp place
  have below : onesBelow m i < 64 := (onesBelow_le m i).trans_lt inside
  rw [bext, BitVec.getLsbD_ofNat, decide_eq_true below, Bool.true_and]
  refine (congrArg (Nat.testBit · _) (foldl_pack a _)).trans (((foldl_bits _ _).2 _ low).trans ?_)
  rw [List.getD_eq_getElem?_getD]
  exact congrArg (fun o => a.getLsbD (Option.getD o 0)) place

/-- BEXT: the bits past the 1 positions are 0. -/
theorem getLsbD_bext_past {k : Nat} (past : onesBelow m 64 ≤ k) : (bext a m).getLsbD k = false := by
  have small := (foldl_bits (fun j => a.getLsbD ((ones m).getD j 0)) (ones m).length).1
  rw [← foldl_pack] at small
  have len : (ones m).length = onesBelow m 64 := onesUpTo_length m 64
  rw [bext, BitVec.getLsbD_ofNat, Nat.testBit_lt_two_pow (small.trans_le (Nat.pow_le_pow_right two_pos (len ▸ past))), Bool.and_false]

/-- BDEP: a position of the mask takes the bit of its place among the 1 positions. -/
theorem getLsbD_bdep {i : Nat} (inside : i < 64) : (bdep a m).getLsbD i = (m.getLsbD i && a.getLsbD (onesBelow m i)) := by
  rw [bdep, BitVec.getLsbD_ofNat, decide_eq_true inside, Bool.true_and]
  exact (congrArg (Nat.testBit · i) (foldl_deposit a m 64)).trans ((foldl_bits _ 64).2 i inside)

/-- BSWAP, bit by bit. -/
theorem getLsbD_bswap {i : Nat} (inside : i < 64) : (bswap a).getLsbD i = a.getLsbD (8 * (7 - i / 8) + i % 8) := by
  have len : (natBytes 8 a.toNat).reverse.length = 8 := by rw [List.length_reverse, natBytes_length]
  have low : i % 8 < 8 := Nat.mod_lt _ (by decide)
  have byte := congrArg (BitVec.getLsbD · (i % 8)) (bytesNat_byte len (i := i / 8) (by omega))
  simp only [BitVec.getLsbD_extractLsb', List.getElem_reverse, natBytes_getElem, natBytes_length, BitVec.getLsbD_ofNat, low,
    decide_true, Bool.true_and, Nat.div_add_mod, Nat.testBit_div_two_pow] at byte
  rw [bswap, BitVec.getLsbD_ofNat, ← BitVec.testBit_toNat, Nat.add_comm]
  exact byte

end
end Sys2Proof.Machine

section
open Sys2Proof Sys2Proof.Machine

/-- Settles O7, instruction by instruction. -/
theorem bitManipulationResults : Obligations.BitManipulationResults := by
  intro s x rd ra rb issues
  exact ⟨issueReg_sets issues (congrArg _ List.countP_eq_length_filter.symm), ⟨_, issueReg_sets issues rfl, firstBelow64 _⟩,
    ⟨_, issueReg_sets issues rfl, firstBelow64 _⟩,
    ⟨_, issueReg_sets issues rfl, fun _ inside one => getLsbD_bext_one _ _ inside one, fun _ _ past => getLsbD_bext_past _ _ past⟩,
    ⟨_, issueReg_sets issues rfl, fun _ inside => getLsbD_bdep _ _ inside⟩,
    ⟨_, issueReg_sets issues rfl, fun _ inside => getLsbD_ofBits64 _ inside⟩,
    ⟨_, issueReg_sets issues rfl, fun _ inside => getLsbD_bswap _ inside⟩⟩

end

namespace Sys2Proof.Machine

/-! Floating-point instructions as they issue (R139 to R141): what each outcome of one does to its executor. -/

@[simp] theorem SMap.set_set {α : Type} (m : SMap α) (k : Nat) (v w : α) : SMap.set (SMap.set m k v) k w = SMap.set m k w := by
  induction m with
  | nil => simp [SMap.set]
  | cons e r ih =>
    obtain ⟨k', v'⟩ := e
    by_cases below : k < k'
    · simp [SMap.set, below]
    · by_cases here : k = k' <;> simp [SMap.set, below, here, ih]

namespace Mach
variable (m : Mach) (c : BitVec 4)

@[simp] theorem setCore_setCore (x y : Core) : (m.setCore c x).setCore c y = m.setCore c y :=
  congrArg (fun l => { m with cores := l }) (SMap.set_set ..)

/-- A core that is written back as it stands takes a trap as it would. -/
theorem coreTrap_setCore_self (tr : Trap) : (m.setCore c (m.core c)).coreTrap c tr = m.coreTrap c tr := by
  simp only [coreTrap, core_setCore, setCore_setCore]

end Mach

/-- No signalled exception traps where every trap enable is clear. -/
theorem fpsTraps_disabled {fps : Word} (off : fps.extractLsb' 8 5 = (0 : BitVec 5)) (fl : FFlags) : fpsTraps fps fl = false := by
  simp [fpsTraps, off]

/-- An instruction that signals nothing does not trap, and leaves FPS as it is. -/
@[simp] theorem fpsTraps_none (fps : Word) : fpsTraps fps 0 = false := by simp [fpsTraps]

@[simp] theorem fpsFlag_none (fps : Word) : fpsFlag fps 0 = fps := by simp [fpsFlag]

/-- A thread that goes on keeps its FPS. -/
theorem Thread.next_with_fps {t : Thread} {w : Word} (h : t.fps = w) : { t.next with fps := w } = t.next := by
  subst h
  rfl

section
variable {rm : BitVec 3} {rd : BitVec 5} {f : Rm → Thread → Word × FFlags} {t : Thread}

theorem fpStep_reserved (none : Rm.of rm t.fps = none) : fpStep rm rd f t = .error (illegal, t.fps) := by simp [fpStep, none]

theorem fpStep_traps {r : Rm} (direction : Rm.of rm t.fps = some r) (enabled : fpsTraps t.fps (f r t).2 = true) :
    fpStep rm rd f t = .error ({ code := 0x08, value := (f r t).2.zeroExtend 64 }, fpsFlag t.fps (f r t).2) := by
  simp [fpStep, direction, enabled]

variable {s : State} {tr : Trap} {fps : Word}

/-- A floating-point instruction of a firing that stops is that trap. -/
theorem issueFp_pe {p : PeId} {k : BitVec 4} {ws : BitVec 16} (issues : s.m.issues (.pe p k ws) = true)
    (stops : fpStep rm rd f (s.m.thread (.pe p k ws)) = .error (tr, fps)) :
    s.on (fun m => m.issueFp (.pe p k ws) rm rd f) = .next (s.traps (.pe p k ws) tr) :=
  issue_traps (f := fun t => (fpStep rm rd f t).mapError Prod.fst) issues (congrArg (Except.mapError Prod.fst) stops)

/-- A floating-point instruction of a service core that stops keeps the flags it set and is that trap. -/
theorem issueFp_core {k : BitVec 4} (issues : s.m.issues (.core k) = true) (stops : fpStep rm rd f (s.m.core k).th = .error (tr, fps)) :
    s.on (fun m => m.issueFp (.core k) rm rd f) = .next { s with
      m := (s.m.setCore k { s.m.core k with th := { (s.m.core k).th with fps := fps } }).coreTrap k tr } := by
  obtain ⟨live, fetched, clear⟩ := issues_core issues
  simp [Mach.issueFp, live, fetched, clear, stops]

variable {x : Exec} (issues : s.m.issues x = true)
include issues

/-- The FP trap of an instruction that signals an enabled exception, on either side. -/
theorem issueFp_traps {r : Rm} (direction : Rm.of rm (s.m.thread x).fps = some r) {fl : FFlags} (signals : (f r (s.m.thread x)).2 = fl)
    (enabled : fpsTraps (s.m.thread x).fps fl = true) :
    (∀ p k ws, x = .pe p k ws →
      s.on (fun m => m.issueFp x rm rd f) = .next (s.traps x { code := 0x08, value := fl.zeroExtend 64 })) ∧
    (∀ k, x = .core k → s.on (fun m => m.issueFp x rm rd f) = .next { s with
      m := (s.m.setCore k { s.m.core k with th := { (s.m.core k).th with fps := fpsFlag (s.m.core k).th.fps fl } }).coreTrap k
        { code := 0x08, value := fl.zeroExtend 64 } }) := by
  subst signals
  refine ⟨?_, ?_⟩
  · rintro p k ws rfl
    exact issueFp_pe issues (fpStep_traps direction enabled)
  · rintro k rfl
    exact issueFp_core issues (fpStep_traps direction enabled)

/-- A floating-point instruction whose RM names no direction is illegal. -/
theorem issueFp_illegal (none : Rm.of rm (s.m.thread x).fps = none) :
    s.on (fun m => m.issueFp x rm rd f) = .next (s.traps x illegal) := by
  cases x with
  | parity p k ws => exact absurd issues (not_issues_parity s.m p k ws)
  | pe p k ws => exact issueFp_pe issues (fpStep_reserved none)
  | core k =>
    exact (issueFp_core issues (fpStep_reserved none)).trans
      (congrArg (fun m => Host.Outcome.next ({ s with m := m } : State)) (s.m.coreTrap_setCore_self k illegal))

/-- A floating-point instruction that signals nothing writes its register and goes on. -/
theorem issueFp_silent {r : Rm} (direction : Rm.of rm (s.m.thread x).fps = some r) {v : Word} (value : f r (s.m.thread x) = (v, 0)) :
    s.on (fun m => m.issueFp x rm rd f) = .next (s.sets x rd v) := by
  rw [issueFp_sets issues direction value (fpsTraps_none _), State.setsFp, fpsFlag_none, State.sets,
    Thread.next_with_fps (Thread.put_fps ..)]

end

/-- A reserved RM names no direction, whatever FPS holds. -/
theorem Rm.of_reserved {rm : BitVec 3} (reserved : rm = 5 ∨ rm = 6) (fps : Word) : Rm.of rm fps = none := by
  rcases reserved with rfl | rfl <;> rfl

/-! Comparisons, minimum and maximum (R142). -/

namespace FVal

theorem exists_nan {a : FVal} (h : a.isNan = true) : ∃ q, a = .nan q := by
  cases a with
  | nan q => exact ⟨q, rfl⟩
  | inf s => cases h
  | fin s c e => cases h

theorem isSnan_of_number {a : FVal} (h : a.isNan = false) : a.isSnan = false := by
  cases a with
  | nan q => cases h
  | inf s => rfl
  | fin s c e => rfl

/-- The sign of an operand; that of a NaN counts as +. -/
def sign : FVal → Bool
  | .fin s _ _ => s
  | .inf s => s
  | .nan _ => false

end FVal

/-- The invalid exception, signalled or not. -/
def invalidIf (q : Bool) : FFlags := if q then fInvalid else 0

section
variable (f : Fmt) (a b : FVal) (wa wb : Word)

/-- A comparison: 0 with a NaN, else the relation of the keys; invalid for a NaN where signalling, else for a signalling one. -/
theorem fCmp_eq (signalling : Bool) (p : Int → Int → Bool) : fCmp f signalling p a b =
    (if a.isNan || b.isNan then 0 else flag (p (fKey f a) (fKey f b)),
      invalidIf (if signalling then a.isNan || b.isNan else a.isSnan || b.isSnan)) := by
  cases nan : a.isNan || b.isNan with
  | true => cases signalling <;> simp [fCmp, nan, invalidIf]
  | false =>
    obtain ⟨ha, hb⟩ := Bool.or_eq_false_iff.mp nan
    simp [fCmp, ha, hb, invalidIf, FVal.isSnan_of_number]

theorem fMinMax_flags (max : Bool) : (fMinMax f max a b wa wb).2 = invalidIf (a.isSnan || b.isSnan) := by
  simp only [fMinMax]
  split <;> rfl

theorem fMinMax_nans (max : Bool) (ha : a.isNan = true) (hb : b.isNan = true) : (fMinMax f max a b wa wb).1 = fNan f := by
  simp only [fMinMax, ha, hb]

/-- The word of an operand as an instruction of a format takes it: its low bits. -/
def lowWord (w : Word) : Word := BitVec.ofNat 64 (w.toNat % 2 ^ (f.p + f.w + 1))

theorem fMinMax_left (max : Bool) (ha : a.isNan = true) (hb : b.isNan = false) : (fMinMax f max a b wa wb).1 = lowWord f wb := by
  simp only [fMinMax, ha, hb, lowWord]

theorem fMinMax_right (max : Bool) (ha : a.isNan = false) (hb : b.isNan = true) : (fMinMax f max a b wa wb).1 = lowWord f wa := by
  simp only [fMinMax, ha, hb, lowWord]

/-- The order of minimum and maximum: by the keys, and of equal keys the negative one first. -/
def fLess : Bool := decide (fKey f a < fKey f b) || (fKey f a == fKey f b && a.sign && !b.sign)

variable {a b}

theorem fMinMax_numbers (max : Bool) (ha : a.isNan = false) (hb : b.isNan = false) : (fMinMax f max a b wa wb).1 =
    if max then (if fLess f a b then lowWord f wb else lowWord f wa)
    else if fLess f a b then lowWord f wa
    else if fKey f a == fKey f b && a.sign == b.sign then lowWord f wa else lowWord f wb := by
  simp only [fMinMax, ha, hb]
  rfl

section
variable (ha : a.isNan = false) (hb : b.isNan = false)
include ha hb

/-- The minimum of operands apart is the lesser one, and their maximum the greater one. -/
theorem fMin_left (less : fKey f a < fKey f b) : (fMinMax f false a b wa wb).1 = lowWord f wa := by
  simp [fMinMax_numbers f wa wb _ ha hb, fLess, less]

theorem fMin_right (less : fKey f b < fKey f a) : (fMinMax f false a b wa wb).1 = lowWord f wb := by
  simp [fMinMax_numbers f wa wb _ ha hb, fLess, less.le, less.ne']

theorem fMax_right (less : fKey f a < fKey f b) : (fMinMax f true a b wa wb).1 = lowWord f wb := by
  simp [fMinMax_numbers f wa wb _ ha hb, fLess, less]

theorem fMax_left (less : fKey f b < fKey f a) : (fMinMax f true a b wa wb).1 = lowWord f wa := by
  simp [fMinMax_numbers f wa wb _ ha hb, fLess, less.le, less.ne']

/-- Of operands with equal keys the minimum is the second one where it alone is negative, and the maximum where the first one alone is. -/
theorem fMin_equal (same : fKey f a = fKey f b) :
    (fMinMax f false a b wa wb).1 = lowWord f (if a.sign = false ∧ b.sign = true then wb else wa) := by
  rw [fMinMax_numbers f wa wb _ ha hb, fLess, same]
  cases a.sign <;> cases b.sign <;> simp

theorem fMax_equal (same : fKey f a = fKey f b) :
    (fMinMax f true a b wa wb).1 = lowWord f (if a.sign = true ∧ b.sign = false then wb else wa) := by
  rw [fMinMax_numbers f wa wb _ ha hb, fLess, same]
  cases a.sign <;> cases b.sign <;> simp

end

/-- The sign of an operand is its top bit. -/
theorem fRead_sign {w : Word} (h : (fRead f w).isNan = false) : (fRead f w).sign = w.getLsbD (f.p + f.w) := by
  have top : decide (w.toNat % 2 ^ (f.p + f.w + 1) / 2 ^ (f.p + f.w) = 1) = w.getLsbD (f.p + f.w) := by
    rw [← BitVec.testBit_toNat, Nat.testBit_eq_decide_div_mod_eq, pow_succ, Nat.mod_mul_right_div_self]
  simp only [fRead] at h ⊢
  split_ifs at h ⊢
  · exact top
  · cases h
  · exact top
  · exact top

end
end Sys2Proof.Machine

section
open Sys2Proof Sys2Proof.Machine

/-- Settles O11: a NaN first, then the order by the keys and, of equal keys, by the signs. -/
theorem floatingPointCompareResults : Obligations.FloatingPointCompareResults := by
  intro s x sz rm rd ra rb r issues direction f a b low snan inv neg quiet
  have sets {g : Rm → Thread → Word × FFlags} {q : Bool} (flags : (g r (s.m.thread x)).2 = inv q) (on : quiet q) :
      s.on (fun m => m.issueFp x rm rd g) = .next (s.setsFp x rd ((g r (s.m.thread x)).1, inv q)) :=
    issueFp_sets issues direction (Prod.ext rfl flags) on
  have relation (p : Prop) [Decidable p] : (if a.isNan || b.isNan then 0 else flag (decide p)) = if a.isNan || b.isNan then 0 else if p then 1 else (0 : Word) := by
    simp [flag]
  refine ⟨fun on => ⟨_, sets (congrArg Prod.snd (fCmp_eq ..)) on, (congrArg Prod.fst (fCmp_eq ..)).trans (relation _)⟩,
    fun on => ⟨_, sets (congrArg Prod.snd (fCmp_eq ..)) on, (congrArg Prod.fst (fCmp_eq ..)).trans (relation _)⟩,
    fun on => ⟨_, sets (congrArg Prod.snd (fCmp_eq ..)) on, (congrArg Prod.fst (fCmp_eq ..)).trans (relation _)⟩,
    fun on => ⟨_, sets (fMinMax_flags ..) on, fMinMax_nans _ _ _ _ _ _, fMinMax_left _ _ _ _ _ _, fMinMax_right _ _ _ _ _ _,
      fMin_left _ _ _, fMin_right _ _ _, fun ha hb same => ?_⟩,
    fun on => ⟨_, sets (fMinMax_flags ..) on, fMinMax_nans _ _ _ _ _ _, fMinMax_left _ _ _ _ _ _, fMinMax_right _ _ _ _ _ _,
      fMax_right _ _ _, fMax_left _ _ _, fun ha hb same => ?_⟩⟩
  · exact (fMin_equal f _ _ ha hb same).trans (by rw [fRead_sign f ha, fRead_sign f hb]; rfl)
  · exact (fMax_equal f _ _ ha hb same).trans (by rw [fRead_sign f ha, fRead_sign f hb]; rfl)

end

section
open Sys2Proof Sys2Proof.Machine

theorem floatingPointTraps : Claim.FloatingPointTraps := by
  intro s x sz rm rd ra rb rc r issues direction f a b c inv
  have traps {g : Rm → Thread → Word × FFlags} {fl : FFlags} (signals : (g r (s.m.thread x)).2 = fl) :=
    issueFp_traps (rd := rd) issues direction signals
  simp only [List.forall_mem_cons]
  exact ⟨traps rfl, traps rfl, traps rfl, traps rfl, traps rfl, traps rfl, traps rfl, traps rfl, traps rfl, traps rfl, traps rfl, traps rfl,
    traps rfl, traps rfl, traps (congrArg Prod.snd (fCmp_eq ..)), traps (congrArg Prod.snd (fCmp_eq ..)),
    traps (congrArg Prod.snd (fCmp_eq ..)), traps (fMinMax_flags ..), traps (fMinMax_flags ..), List.forall_mem_nil _⟩

theorem reservedRoundingModeIsIllegal : Claim.ReservedRoundingModeIsIllegal := by
  intro s x sz rm rd ra rb rc issues reserved
  have illegal {g : Rm → Thread → Word × FFlags} := issueFp_illegal (rd := rd) (f := g) issues (Rm.of_reserved reserved _)
  simp only [List.forall_mem_cons]
  exact ⟨illegal, illegal, illegal, illegal, illegal, illegal, illegal, illegal, illegal, illegal, illegal, illegal, illegal, illegal, illegal,
    illegal, illegal, illegal, illegal, illegal, illegal, illegal, illegal, List.forall_mem_nil _⟩

/-- Settles O13, by its two parts. -/
theorem floatingPointTrapsAndModes : Obligations.FloatingPointTrapsAndModes := ⟨floatingPointTraps, reservedRoundingModeIsIllegal⟩

end

namespace Sys2Proof.Machine

/-! Sign operations, and classification, bit by bit (R143, R144). -/

/-- The bit of a format's sign. -/
def signPos (sz : Bool) : Nat := if sz then 63 else 31

theorem fmtOf_sign (sz : Bool) : (fmtOf sz).p + (fmtOf sz).w = signPos sz := by cases sz <;> rfl

section
variable (sz : Bool) (w : Word) {i : Nat} (inside : i < 64)
include inside

theorem getLsbD_fSign : (fSign sz).getLsbD i = decide (i = signPos sz) := by
  revert i
  cases sz <;> decide

theorem getLsbD_fLow : (fLow sz w).getLsbD i = (decide (i ≤ signPos sz) && w.getLsbD i) := by
  cases sz with
  | true => simp [fLow, signPos, Nat.le_of_lt_succ inside]
  | false =>
    have low : ∀ i < 64, (0xFFFFFFFF : Word).getLsbD i = decide (i ≤ 31) := by decide
    rw [fLow, if_neg Bool.false_ne_true, BitVec.getLsbD_and, low i inside, Bool.and_comm]
    rfl

theorem getLsbD_fneg : (fLow sz (w ^^^ fSign sz)).getLsbD i = (decide (i ≤ signPos sz) && (w.getLsbD i != decide (i = signPos sz))) := by
  rw [getLsbD_fLow sz _ inside, BitVec.getLsbD_xor, getLsbD_fSign sz inside]

theorem getLsbD_fabs : (fLow sz (w &&& ~~~(fSign sz))).getLsbD i = (decide (i < signPos sz) && w.getLsbD i) := by
  rw [getLsbD_fLow sz _ inside, BitVec.getLsbD_and, BitVec.getLsbD_not, decide_eq_true inside, Bool.true_and, getLsbD_fSign sz inside]
  rcases lt_trichotomy i (signPos sz) with below | here | above
  · simp [below, below.le, below.ne]
  · simp [here]
  · simp [above.not_gt, above.not_ge]

theorem getLsbD_fcopysign (v : Word) : (fLow sz ((w &&& ~~~(fSign sz)) ||| (v &&& fSign sz))).getLsbD i =
    if i < signPos sz then w.getLsbD i else decide (i = signPos sz) && v.getLsbD i := by
  rw [getLsbD_fLow sz _ inside, BitVec.getLsbD_or, BitVec.getLsbD_and, BitVec.getLsbD_and, BitVec.getLsbD_not, decide_eq_true inside,
    Bool.true_and, getLsbD_fSign sz inside]
  rcases lt_trichotomy i (signPos sz) with below | here | above
  · simp [below, below.le, below.ne]
  · simp [here]
  · simp [above.not_gt, above.not_ge, above.ne']

end

/-- The class code of an operand (R144). -/
def classCode (f : Fmt) : FVal → Nat
  | .nan true => 5
  | .nan false => 4
  | .inf _ => 3
  | .fin _ c _ => if c = 0 then 0 else if c < 2 ^ f.p then 1 else 2

theorem classCode_lt (f : Fmt) (a : FVal) : classCode f a < 8 := by
  cases a with
  | nan q => cases q <;> simp [classCode]
  | inf s => simp [classCode]
  | fin s c e =>
    rw [classCode]
    split_ifs <;> decide

theorem fClass_eq (f : Fmt) (w : Word) : fClass f w = BitVec.ofNat 64 (classCode f (fRead f w) + 8 * (w.getLsbD (f.p + f.w)).toNat) := by
  have toNat (b : Bool) : b2n b = b.toNat := by cases b <;> rfl
  unfold fClass
  rw [toNat]
  cases fRead f w with
  | nan q => cases q <;> rfl
  | inf s => rfl
  | fin s c e => rfl

theorem toNat_fClass (f : Fmt) (w : Word) : (fClass f w).toNat = classCode f (fRead f w) + 8 * (w.getLsbD (f.p + f.w)).toNat := by
  have small := classCode_lt f (fRead f w)
  have bit := Bool.toNat_le (w.getLsbD (f.p + f.w))
  rw [fClass_eq, BitVec.toNat_ofNat]
  omega

/-- The sign a class word carries in its bit 3. -/
theorem getLsbD_fClass (f : Fmt) (w : Word) : (fClass f w).getLsbD 3 = w.getLsbD (f.p + f.w) := by
  have small := classCode_lt f (fRead f w)
  rw [← BitVec.testBit_toNat, toNat_fClass, Nat.testBit_eq_decide_div_mod_eq]
  cases w.getLsbD (f.p + f.w) <;> simp <;> omega

end Sys2Proof.Machine

section
open Sys2Proof Sys2Proof.Machine

theorem floatingPointSignAndClassResults : Claim.FloatingPointSignAndClassResults := by
  intro s x sz rm rd ra rb r issues direction top
  refine ⟨⟨_, issueFp_silent issues direction rfl, fun _ inside => getLsbD_fneg sz _ inside⟩,
    ⟨_, issueFp_silent issues direction rfl, fun _ inside => getLsbD_fabs sz _ inside⟩,
    ⟨_, issueFp_silent issues direction rfl, fun _ inside => getLsbD_fcopysign sz _ inside _⟩,
    ⟨_, issueFp_silent issues direction rfl, ?_⟩⟩
  have small := classCode_lt (fmtOf sz) (fRead (fmtOf sz) (s.reg x ra))
  have bit := Bool.toNat_le ((s.reg x ra).getLsbD ((fmtOf sz).p + (fmtOf sz).w))
  have value : (fClass (fmtOf sz) (s.reg x ra)).toNat = _ := toNat_fClass ..
  refine ⟨?_, (getLsbD_fClass ..).trans (by rw [fmtOf_sign]; rfl), ?_⟩
  · show (fClass (fmtOf sz) (s.reg x ra)).toNat < 16
    omega
  · show (fClass (fmtOf sz) (s.reg x ra)).toNat % 8 = classCode (fmtOf sz) (fRead (fmtOf sz) (s.reg x ra))
    omega

theorem floatingPointStatusAccess : Claim.FloatingPointStatusAccess := by
  intro s x sz rm rd ra issues
  have runs {g : Thread → Thread} : s.on (fun m => m.issue x .both (fun t => .ok (g t))) = .next (s.ran x (g (s.m.thread x))) :=
    congrArg (fun m => Host.Outcome.next ({ s with m := m } : State)) (issue_ok issues rfl)
  exact ⟨issueReg_sets issues rfl, runs, _, runs, fpsWrite_fields ..⟩

/-- Settles O12, by its two parts. -/
theorem floatingPointSignAndStatus : Obligations.FloatingPointSignAndStatus := ⟨floatingPointSignAndClassResults, floatingPointStatusAccess⟩

end

namespace Sys2Proof.Machine

/-! Rounding a magnitude to an integer (R102, Table 6-11). -/

/-- A direction as it acts on the magnitude of a value of a sign. -/
def Rm.onMagnitude (s : Bool) : Rm → Rm
  | .down => if s then .up else .down
  | .up => if s then .down else .up
  | r => r

/-- The integer m is the magnitude t rounded by a direction that acts on magnitudes. -/
def RoundedTo (r : Rm) (t : ℝ) (m : ℕ) : Prop :=
  match r with
  | .zero | .down => m ≤ t ∧ t < m + 1
  | .up => m < t + 1 ∧ t ≤ m
  | .nearEven => |t - m| ≤ 1 / 2 ∧ (|t - m| = 1 / 2 → m % 2 = 0)
  | .nearAway => t - 1 / 2 < m ∧ m ≤ t + 1 / 2

namespace RoundedTo
variable {r : Rm} {t t' : ℝ} {m : ℕ}

/-- However a magnitude is rounded, the result is less than 1 away. -/
theorem near (h : RoundedTo r t m) : t - 1 < m ∧ m < t + 1 := by
  cases r with
  | zero | down => exact ⟨by linarith [h.2], by linarith [h.1]⟩
  | up => exact ⟨by linarith [h.2], h.1⟩
  | nearEven =>
    obtain ⟨lo, hi⟩ := abs_le.mp h.1
    constructor <;> linarith
  | nearAway => exact ⟨by linarith [h.1], by linarith [h.2]⟩

/-- An integer bound of a magnitude bounds its rounding. -/
theorem le_of_le (h : RoundedTo r t m) {n : ℕ} (le : t ≤ n) : m ≤ n := by
  have : (m : ℝ) < (n + 1 : ℕ) := by push_cast; linarith [h.near]
  exact Nat.lt_succ_iff.mp (by exact_mod_cast this)

theorem ge_of_ge (h : RoundedTo r t m) {n : ℕ} (ge : n ≤ t) : n ≤ m := by
  have : (n : ℝ) < (m + 1 : ℕ) := by push_cast; linarith [h.near]
  exact Nat.lt_succ_iff.mp (by exact_mod_cast this)

/-- An integer rounds to itself. -/
theorem self (r : Rm) (m : ℕ) : RoundedTo r m m := by
  cases r <;> simp [RoundedTo]

end RoundedTo

/-- The model's rounding sees of the sign what it makes of the direction. -/
theorem roundInt_onMagnitude (r : Rm) (s : Bool) (q k d : ℕ) : roundInt r s q k d = roundInt (r.onMagnitude s) false q k d := by
  cases r <;> cases s <;> rfl

/-- A magnitude between two integers, rounded by where it lies between them. -/
theorem roundInt_between (r : Rm) {q k d : ℕ} {θ : ℝ} (pos : 0 < θ) (below : θ < 1) (zero : k ≠ 0) (half : θ < 1 / 2 ↔ 2 * k < d)
    (half' : 1 / 2 < θ ↔ d < 2 * k) :
    RoundedTo r (q + θ) (roundInt r false q k d) ∧ (roundInt r false q k d = q ∨ roundInt r false q k d = q + 1) := by
  have up : |(q + θ) - (q + 1 : ℕ)| = 1 - θ := by
    rw [abs_sub_comm, abs_of_pos] <;> push_cast <;> linarith
  have down : |(q + θ) - q| = θ := by rw [add_sub_cancel_left, abs_of_pos pos]
  rw [roundInt.eq_def, if_neg zero]
  cases r with
  | zero => exact ⟨⟨by linarith, by linarith⟩, .inl rfl⟩
  | down =>
    rw [if_neg Bool.false_ne_true]
    exact ⟨⟨by linarith, by linarith⟩, .inl rfl⟩
  | up =>
    rw [if_neg Bool.false_ne_true]
    exact ⟨⟨by push_cast; linarith, by push_cast; linarith⟩, .inr rfl⟩
  | nearAway =>
    dsimp only
    split
    next low => exact ⟨⟨by linarith [half.mpr low], by linarith⟩, .inl rfl⟩
    next high =>
      have := not_lt.mp (mt half.mp high)
      exact ⟨⟨by push_cast; linarith, by push_cast; linarith⟩, .inr rfl⟩
  | nearEven =>
    dsimp only
    split_ifs with low high even
    · have := half.mpr low
      exact ⟨⟨by rw [down]; exact this.le, fun tie => absurd (down.symm.trans tie) this.ne⟩, .inl rfl⟩
    · have := half'.mpr high
      exact ⟨⟨by rw [up]; linarith, fun tie => by rw [up] at tie; linarith⟩, .inr rfl⟩
    · exact ⟨⟨by rw [down]; exact not_lt.mp (mt half'.mp high), fun _ => even⟩, .inl rfl⟩
    · exact ⟨⟨by rw [up]; linarith [not_lt.mp (mt half.mp low)], fun _ => by omega⟩, .inr rfl⟩

/-- What the model computes of a quotient is the quotient rounded. -/
theorem roundInt_rounded (r : Rm) (s : Bool) (n : ℕ) {d : ℕ} (pos : 0 < d) :
    RoundedTo (r.onMagnitude s) (n / d : ℝ) (roundInt r s (n / d) (n % d) d) ∧
      (n % d = 0 ↔ (n / d : ℝ) = roundInt r s (n / d) (n % d) d) := by
  have dpos : (0 : ℝ) < d := by exact_mod_cast pos
  have small : n % d < d := Nat.mod_lt _ pos
  have value : (n / d : ℝ) = (n / d : ℕ) + (n % d : ℕ) / d := by
    rw [eq_comm, ← mul_left_inj' dpos.ne', add_mul, div_mul_cancel₀ _ dpos.ne', div_mul_cancel₀ _ dpos.ne']
    exact_mod_cast Nat.div_add_mod' n d
  rw [roundInt_onMagnitude, value]
  generalize n / d = q
  generalize n % d = k at small
  by_cases zero : k = 0
  · subst zero
    simp [roundInt, RoundedTo.self]
  · have kpos : (0 : ℝ) < k := by exact_mod_cast Nat.pos_of_ne_zero zero
    have below : (k / d : ℝ) < 1 := by rw [div_lt_one dpos]; exact_mod_cast small
    have half : (k / d : ℝ) < 1 / 2 ↔ 2 * k < d := by
      rw [div_lt_div_iff₀ dpos two_pos, one_mul, mul_comm]
      exact_mod_cast Iff.rfl
    have half' : 1 / 2 < (k / d : ℝ) ↔ d < 2 * k := by
      rw [div_lt_div_iff₀ two_pos dpos, one_mul, mul_comm (k : ℝ)]
      exact_mod_cast Iff.rfl
    have pos : 0 < (k / d : ℝ) := div_pos kpos dpos
    obtain ⟨rounded, value⟩ := roundInt_between (r.onMagnitude s) (q := q) pos below zero half half'
    refine ⟨rounded, iff_of_false zero ?_⟩
    rcases value with value | value <;> rw [value] <;> intro same <;> push_cast at same <;> linarith

/-- Two magnitudes that compare alike with every multiple of a half, and so round alike. -/
def Alike (t t' : ℝ) : Prop := ∀ n : ℤ, ((n / 2 : ℝ) ≤ t ↔ (n / 2 : ℝ) ≤ t') ∧ (t ≤ n / 2 ↔ t' ≤ n / 2)

namespace Alike
variable {t t' : ℝ}

theorem refl (t : ℝ) : Alike t t := fun _ => ⟨Iff.rfl, Iff.rfl⟩

/-- Magnitudes strictly between the same neighbouring multiples of a half are alike. -/
theorem of_between {j : ℤ} (lo : j / 2 < t) (hi : t < (j + 1) / 2) (lo' : j / 2 < t') (hi' : t' < (j + 1) / 2) : Alike t t' := by
  intro n
  rcases le_or_gt n j with le | gt
  · have le : (n : ℝ) ≤ j := by exact_mod_cast le
    exact ⟨iff_of_true (by linarith) (by linarith), iff_of_false (by linarith) (by linarith)⟩
  · have ge : (j + 1 : ℝ) ≤ n := by exact_mod_cast gt
    exact ⟨iff_of_false (by linarith) (by linarith), iff_of_true (by linarith) (by linarith)⟩

variable (alike : Alike t t')
include alike

theorem int_le (n : ℤ) : (n : ℝ) ≤ t ↔ (n : ℝ) ≤ t' := by
  have := (alike (2 * n)).1
  rwa [Int.cast_mul, Int.cast_ofNat, mul_div_cancel_left₀ _ two_ne_zero] at this

theorem le_int (n : ℤ) : t ≤ n ↔ t' ≤ n := by
  have := (alike (2 * n)).2
  rwa [Int.cast_mul, Int.cast_ofNat, mul_div_cancel_left₀ _ two_ne_zero] at this

/-- Alike magnitudes are the same integer, if any. -/
theorem eq_nat (n : ℕ) : t = n ↔ t' = n := by
  have le := alike.le_int n
  have ge := alike.int_le n
  rw [Int.cast_natCast] at le ge
  rw [le_antisymm_iff, le_antisymm_iff, le, ge]

end Alike

theorem RoundedTo.of_alike {r : Rm} {t t' : ℝ} {m : ℕ} (h : RoundedTo r t m) (alike : Alike t t') : RoundedTo r t' m := by
  have le := alike.le_int m
  have ge := alike.int_le m
  have above := alike.int_le (m + 1)
  have below := alike.le_int (m - 1)
  obtain ⟨ge_down, le_down⟩ := alike (2 * m - 1)
  obtain ⟨ge_up, le_up⟩ := alike (2 * m + 1)
  push_cast at le ge above below ge_down le_down ge_up le_up
  have down : ((2 * m - 1) / 2 : ℝ) = m - 1 / 2 := by ring
  have up : ((2 * m + 1) / 2 : ℝ) = m + 1 / 2 := by ring
  rw [down] at ge_down le_down
  rw [up] at ge_up le_up
  cases r with
  | zero | down => exact ⟨ge.mp h.1, not_le.mp (mt above.mpr (not_le.mpr h.2))⟩
  | up => exact ⟨by linarith [not_le.mp (mt below.mpr (by linarith [h.1]))], le.mp h.2⟩
  | nearAway => exact ⟨by linarith [not_le.mp (mt ge_up.mpr (by linarith [h.1]))], by linarith [ge_down.mp (by linarith [h.2])]⟩
  | nearEven =>
    obtain ⟨near, even⟩ := h
    rw [abs_le] at near
    refine ⟨abs_le.mpr ⟨by linarith [ge_down.mp (by linarith)], by linarith [le_up.mp (by linarith)]⟩, fun tie => even ?_⟩
    rw [abs_eq (by norm_num)] at tie ⊢
    refine tie.imp (fun tie => ?_) fun tie => ?_
    · linarith [ge_up.mpr (by linarith)]
    · linarith [le_down.mpr (by linarith)]

end Sys2Proof.Machine

namespace Sys2Proof.Machine

/-! From a rounded magnitude to a rounded real number of a grid (Claim.Rounds). -/

/-- The sign of a value as a factor. -/
def sgn (s : Bool) : ℝ := if s then -1 else 1

@[simp] theorem sgn_false : sgn false = 1 := if_neg Bool.false_ne_true
@[simp] theorem sgn_true : sgn true = -1 := if_pos rfl

@[simp] theorem abs_sgn (s : Bool) : |sgn s| = 1 := by cases s <;> simp

theorem sgn_xor (s t : Bool) : sgn (s != t) = sgn s * sgn t := by cases s <;> cases t <;> simp

/-- A number of a grid is rounded to itself. -/
theorem rounds_self {on even : ℝ → Prop} {x : ℝ} (h : on x) (r : Rm) : Claim.Rounds on even r x x := by
  refine ⟨h, ?_⟩
  cases r with
  | down => exact ⟨le_rfl, fun _ _ le => le⟩
  | up => exact ⟨le_rfl, fun _ _ le => le⟩
  | zero => exact ⟨fun _ => ⟨le_rfl, fun _ _ le => le⟩, fun _ => ⟨le_rfl, fun _ _ le => le⟩⟩
  | nearEven =>
    intro z _
    rw [sub_self, abs_zero]
    exact ⟨abs_nonneg _, fun tie => .inl (sub_eq_zero.mp (abs_eq_zero.mp tie)).symm⟩
  | nearAway =>
    intro z _
    rw [sub_self, abs_zero]
    exact ⟨abs_nonneg _, fun tie => (congrArg abs (sub_eq_zero.mp (abs_eq_zero.mp tie)).symm).le⟩

/-- Rounding commutes with a change of unit. -/
theorem rounds_scale {on even : ℝ → Prop} {r : Rm} {x y c : ℝ} (pos : 0 < c)
    (h : Claim.Rounds (fun z => on (z * c)) (fun z => even (z * c)) r x y) : Claim.Rounds on even r (x * c) (y * c) := by
  have unit (z : ℝ) : z / c * c = z := div_mul_cancel₀ z pos.ne'
  obtain ⟨member, h⟩ := h
  have low (h : y ≤ x ∧ ∀ z, on (z * c) → z ≤ x → z ≤ y) : y * c ≤ x * c ∧ ∀ z, on z → z ≤ x * c → z ≤ y * c :=
    ⟨mul_le_mul_of_nonneg_right h.1 pos.le, fun z hz le => (div_le_iff₀ pos).mp (h.2 _ (by rwa [unit]) ((div_le_iff₀ pos).mpr le))⟩
  have high (h : x ≤ y ∧ ∀ z, on (z * c) → x ≤ z → y ≤ z) : x * c ≤ y * c ∧ ∀ z, on z → x * c ≤ z → y * c ≤ z :=
    ⟨mul_le_mul_of_nonneg_right h.1 pos.le, fun z hz le => (le_div_iff₀ pos).mp (h.2 _ (by rwa [unit]) ((le_div_iff₀ pos).mpr le))⟩
  have dist (z : ℝ) : |x * c - z| = |x - z / c| * c := by
    rw [← abs_of_pos pos, ← abs_mul, sub_mul, abs_of_pos pos, unit]
  have here : |x * c - y * c| = |x - y| * c := by rw [dist, mul_div_cancel_right₀ _ pos.ne']
  refine ⟨member, ?_⟩
  cases r with
  | down => exact low h
  | up => exact high h
  | zero => exact ⟨fun nonneg => low (h.1 (nonneg_of_mul_nonneg_left nonneg pos)), fun neg => high (h.2 (neg_of_mul_neg_left neg pos.le))⟩
  | nearEven =>
    intro z hz
    obtain ⟨near, tie⟩ := h (z / c) ((congrArg on (unit z)).mpr hz)
    rw [here, dist]
    refine ⟨mul_le_mul_of_nonneg_right near pos.le, fun same => (tie (mul_right_cancel₀ pos.ne' same)).imp_left fun e => ?_⟩
    rw [← e, unit]
  | nearAway =>
    intro z hz
    obtain ⟨near, tie⟩ := h (z / c) ((congrArg on (unit z)).mpr hz)
    rw [here, dist]
    refine ⟨mul_le_mul_of_nonneg_right near pos.le, fun same => ?_⟩
    rw [← unit z, abs_mul, abs_mul]
    exact mul_le_mul_of_nonneg_right (tie (mul_right_cancel₀ pos.ne' same)) (abs_nonneg c)

/-- Rounding of a negative number is that of its magnitude, by the direction as it acts on magnitudes. -/
theorem rounds_neg {on even : ℝ → Prop} {r : Rm} {x y : ℝ} (pos : 0 < x) (on_neg : ∀ z, on z → on (-z)) (even_neg : ∀ z, even z → even (-z))
    (h : Claim.Rounds on even (r.onMagnitude true) x y) : Claim.Rounds on even r (-x) (-y) := by
  obtain ⟨member, h⟩ := h
  have low (h : y ≤ x ∧ ∀ z, on z → z ≤ x → z ≤ y) : -x ≤ -y ∧ ∀ z, on z → -x ≤ z → -y ≤ z :=
    ⟨neg_le_neg h.1, fun z hz le => neg_le.mp (h.2 _ (on_neg z hz) (neg_le.mp le))⟩
  have high (h : x ≤ y ∧ ∀ z, on z → x ≤ z → y ≤ z) : -y ≤ -x ∧ ∀ z, on z → z ≤ -x → z ≤ -y :=
    ⟨neg_le_neg h.1, fun z hz le => le_neg.mp (h.2 _ (on_neg z hz) (le_neg.mp le))⟩
  have dist (z : ℝ) : |-x - z| = |x - -z| := by rw [← abs_neg]; congr 1; ring
  refine ⟨on_neg y member, ?_⟩
  cases r with
  | down => exact high h
  | up => exact low h
  | zero => exact ⟨fun nonneg => absurd pos (by linarith), fun _ => low (h.1 pos.le)⟩
  | nearEven =>
    intro z hz
    obtain ⟨near, tie⟩ := h (-z) (on_neg z hz)
    rw [dist, dist, neg_neg]
    exact ⟨near, fun same => (tie same).imp (fun e => by rw [← e, neg_neg]) (even_neg y)⟩
  | nearAway =>
    intro z hz
    obtain ⟨near, tie⟩ := h (-z) (on_neg z hz)
    rw [dist, dist, neg_neg, abs_neg]
    exact ⟨near, fun same => abs_neg z ▸ tie same⟩

/-- A magnitude rounded to an integer is rounded in a grid that holds the integer and, from some integer not above the magnitude on, integers only. -/
theorem RoundedTo.rounds {on even : ℝ → Prop} {r : Rm} {t : ℝ} {m : ℕ} (h : RoundedTo r t m) (nonneg : 0 ≤ t) (member : on m)
    (even_member : m % 2 = 0 → even m) (grid : ∀ z, on z → (∃ j : ℤ, z = j) ∨ ∃ n : ℕ, |z| < n ∧ n ≤ t) : Claim.Rounds on even r t m := by
  have low (h : m ≤ t ∧ t < m + 1) : m ≤ t ∧ ∀ z, on z → z ≤ t → z ≤ m := by
    refine ⟨h.1, fun z hz le => ?_⟩
    obtain ⟨j, rfl⟩ | ⟨n, less, under⟩ := grid z hz
    · have : (j : ℝ) < (m + 1 : ℤ) := by push_cast; linarith
      exact_mod_cast Int.lt_add_one_iff.mp (by exact_mod_cast this)
    · have : (n : ℝ) < (m + 1 : ℕ) := by push_cast; linarith
      have : (n : ℝ) ≤ m := by exact_mod_cast Nat.lt_succ_iff.mp (by exact_mod_cast this)
      linarith [le_abs_self z]
  have high (h : m < t + 1 ∧ t ≤ m) : t ≤ m ∧ ∀ z, on z → t ≤ z → m ≤ z := by
    refine ⟨h.2, fun z hz le => ?_⟩
    obtain ⟨j, rfl⟩ | ⟨n, less, under⟩ := grid z hz
    · have : ((m : ℤ) : ℝ) < (j + 1 : ℤ) := by push_cast; linarith
      exact_mod_cast Int.lt_add_one_iff.mp (by exact_mod_cast this)
    · linarith [le_abs_self z]
  have apart (near : |t - m| ≤ 1 / 2) (z : ℝ) (hz : on z) : z = m ∨ 1 / 2 ≤ |t - z| ∨ |t - m| < |t - z| := by
    have integer (j : ℤ) : j = m ∨ 1 / 2 ≤ |t - j| := by
      refine or_iff_not_imp_left.mpr fun ne => ?_
      have : (1 : ℝ) ≤ |(m : ℝ) - j| := by exact_mod_cast Int.one_le_abs (sub_ne_zero.mpr (Ne.symm ne))
      linarith [abs_sub_le (m : ℝ) t j, abs_sub_comm t m]
    obtain ⟨j, rfl⟩ | ⟨n, less, under⟩ := grid z hz
    · exact (integer j).imp (fun e => by rw [e, Int.cast_natCast]) .inl
    · have closer : |t - n| < |t - z| := by
        rw [abs_of_nonneg (sub_nonneg.mpr under)]
        linarith [le_abs_self (t - z), le_abs_self z]
      refine .inr ((integer n).symm.imp (fun half => ?_) fun e => ?_)
      · rw [Int.cast_natCast] at half
        exact half.trans closer.le
      · rwa [← Int.natCast_inj.mp e]
  refine ⟨member, ?_⟩
  cases r with
  | down => exact low h
  | up => exact high h
  | zero => exact ⟨fun _ => low h, fun neg => absurd nonneg (not_le.mpr neg)⟩
  | nearEven =>
    obtain ⟨near, even⟩ := h
    intro z hz
    rcases apart near z hz with rfl | half | far
    · exact ⟨le_rfl, fun _ => .inl rfl⟩
    · exact ⟨near.trans half, fun tie => .inr (even_member (even (near.antisymm (tie ▸ half))))⟩
    · exact ⟨far.le, fun tie => absurd tie far.ne'⟩
  | nearAway =>
    obtain ⟨above, below⟩ := h
    have near : |t - m| ≤ 1 / 2 := abs_le.mpr ⟨by linarith, by linarith⟩
    intro z hz
    rcases apart near z hz with rfl | half | far
    · exact ⟨le_rfl, fun _ => le_rfl⟩
    · refine ⟨near.trans half, fun tie => ?_⟩
      have away : (m : ℝ) = t + 1 / 2 := by
        rcases (abs_eq (by norm_num)).mp (near.antisymm (tie ▸ half)) with e | e <;> linarith
      have close := abs_le.mp (tie.trans_le near)
      rw [abs_of_nonneg (m.cast_nonneg : (0 : ℝ) ≤ m), away]
      exact abs_le.mpr ⟨by linarith, by linarith⟩
    · exact ⟨far.le, fun tie => absurd tie far.ne'⟩

/-- The same, for a value of a sign on a grid that is the same on both sides of 0. -/
theorem RoundedTo.rounds_signed {on even : ℝ → Prop} {r : Rm} {s : Bool} {x c : ℝ} {m : ℕ} (h : RoundedTo (r.onMagnitude s) (x / c) m) (pos : 0 < x)
    (unit : 0 < c) (on_neg : ∀ z, on z → on (-z)) (even_neg : ∀ z, even z → even (-z)) (member : on (m * c))
    (even_member : m % 2 = 0 → even (m * c)) (grid : ∀ z, on (z * c) → (∃ j : ℤ, z = j) ∨ ∃ n : ℕ, |z| < n ∧ n ≤ x / c) :
    Claim.Rounds on even r (sgn s * x) (sgn s * (m * c)) := by
  have magnitude := rounds_scale (on := on) (even := even) unit (h.rounds (div_pos pos unit).le member even_member grid)
  rw [div_mul_cancel₀ _ unit.ne'] at magnitude
  cases s with
  | false =>
    rw [sgn_false, one_mul, one_mul]
    cases r <;> exact magnitude
  | true =>
    rw [sgn_true, neg_one_mul, neg_one_mul]
    exact rounds_neg pos on_neg even_neg magnitude

/-! The grids of a format. -/

section
variable {p : ℕ} {ok : ℤ → Prop}

theorem onGrid_neg (z : ℝ) : Claim.OnGrid p ok z → Claim.OnGrid p ok (-z) := by
  rintro ⟨k, e, small, allowed, rfl⟩
  exact ⟨-k, e, by rwa [Int.natAbs_neg], allowed, by push_cast; ring⟩

theorem evenOnGrid_neg (z : ℝ) : Claim.EvenOnGrid p ok z → Claim.EvenOnGrid p ok (-z) := by
  rintro ⟨k, e, even, small, allowed, least, rfl⟩
  exact ⟨-k, e, by omega, by rwa [Int.natAbs_neg], allowed, by rwa [Int.natAbs_neg], by push_cast; ring⟩

variable {g : ℤ} {m : ℕ} (here : ok g) (next : ok (g + 1)) (small : m ≤ 2 ^ (p + 1))
include here next small

theorem onGrid_mul : Claim.OnGrid p ok (m * 2 ^ g) := by
  rcases small.lt_or_eq with below | rfl
  · exact ⟨m, g, by simpa, here, by simp⟩
  · refine ⟨2 ^ p, g + 1, ?_, next, ?_⟩
    · rw [Int.natAbs_pow]
      exact Nat.pow_lt_pow_right (by decide) (by omega)
    · rw [zpow_add_one₀ two_ne_zero]
      push_cast
      ring

theorem evenOnGrid_mul (digits : 1 ≤ p) (even : m % 2 = 0) (least : 2 ^ p ≤ m ∨ ¬ ok (g - 1)) : Claim.EvenOnGrid p ok (m * 2 ^ g) := by
  rcases small.lt_or_eq with below | rfl
  · exact ⟨m, g, by omega, by simpa, here, by simpa using least, by simp⟩
  · refine ⟨2 ^ p, g + 1, ?_, ?_, next, .inl ?_, ?_⟩
    · exact Int.emod_eq_zero_of_dvd (dvd_pow_self 2 (by omega))
    · rw [Int.natAbs_pow]
      exact Nat.pow_lt_pow_right (by decide) (by omega)
    · rw [Int.natAbs_pow]
      rfl
    · rw [zpow_add_one₀ two_ne_zero]
      push_cast
      ring

end

/-- A grid value in units of an exponent is an integer, or lies below the least magnitude of full precision. -/
theorem onGrid_units {p : ℕ} {ok : ℤ → Prop} {g : ℤ} {t z : ℝ} (least : (∀ e, ok e → g ≤ e) ∨ (2 : ℝ) ^ p ≤ t) (h : Claim.OnGrid p ok (z * 2 ^ g)) :
    (∃ j : ℤ, z = j) ∨ ∃ n : ℕ, |z| < n ∧ n ≤ t := by
  obtain ⟨k, e, small, allowed, value⟩ := h
  have unit : (0 : ℝ) < 2 ^ g := by positivity
  have value : z = k * 2 ^ (e - g) := by
    rw [zpow_sub₀ two_ne_zero, ← mul_div_assoc, ← value, mul_div_cancel_right₀ _ unit.ne']
  rcases le_or_gt g e with le | gt
  · left
    refine ⟨k * 2 ^ (e - g).toNat, ?_⟩
    rw [value]
    push_cast
    rw [← zpow_natCast, Int.toNat_of_nonneg (sub_nonneg.mpr le)]
  · right
    have full := least.resolve_left fun all => absurd (all e allowed) (not_le.mpr gt)
    refine ⟨2 ^ p, ?_, by exact_mod_cast full⟩
    have digits : |(k : ℝ)| < 2 ^ (p + 1) := by
      rw [← Int.cast_abs, Int.abs_eq_natAbs]
      exact_mod_cast small
    have step : (2 : ℝ) ^ (e - g) ≤ 2 ^ (-1 : ℤ) := zpow_le_zpow_right₀ one_le_two (by omega)
    rw [value, abs_mul, abs_of_pos (by positivity : (0 : ℝ) < 2 ^ (e - g))]
    calc |(k : ℝ)| * 2 ^ (e - g) ≤ |(k : ℝ)| * 2 ^ (-1 : ℤ) := mul_le_mul_of_nonneg_left step (abs_nonneg _)
      _ < 2 ^ (p + 1) * 2 ^ (-1 : ℤ) := mul_lt_mul_of_pos_right digits (by positivity)
      _ = ((2 ^ p : ℕ) : ℝ) := by push_cast; rw [pow_succ, zpow_neg_one]; ring

/-- A magnitude rounded to a multiple of a power of 2 that holds the precision is rounded in the format's grid. -/
theorem RoundedTo.rounds_grid {p : ℕ} {ok : ℤ → Prop} {r : Rm} {s : Bool} {x : ℝ} {g : ℤ} {m : ℕ} (h : RoundedTo (r.onMagnitude s) (x / 2 ^ g) m)
    (pos : 0 < x) (digits : 1 ≤ p) (here : ok g) (next : ok (g + 1)) (upto : x / 2 ^ g ≤ 2 ^ (p + 1))
    (least : (∀ e, ok e → g ≤ e) ∨ (2 : ℝ) ^ p ≤ x / 2 ^ g) :
    Claim.Rounds (Claim.OnGrid p ok) (Claim.EvenOnGrid p ok) r (sgn s * x) (sgn s * (m * 2 ^ g)) := by
  have small : m ≤ 2 ^ (p + 1) := h.le_of_le (by exact_mod_cast upto)
  refine h.rounds_signed pos (by positivity) onGrid_neg evenOnGrid_neg (onGrid_mul here next small)
    (fun even => evenOnGrid_mul here next small digits even ?_) fun z => onGrid_units least
  rcases least with all | full
  · exact .inr fun allowed => absurd (all _ allowed) (by omega)
  · exact .inl (h.ge_of_ge (by exact_mod_cast full))

end Sys2Proof.Machine

namespace Sys2Proof.Machine

/-! The word of a rounded value (R135 to R138). -/

namespace Fmt

/-- What the formats of the module have in common: a trailing significand, at least two exponent bits, and at most 64 bits. -/
structure Sound (f : Fmt) : Prop where
  digits : 1 ≤ f.p
  exponents : 2 ≤ f.w
  fits : f.p + f.w + 1 ≤ 64

variable (f : Fmt)

/-- A significand and an exponent as the format stores them: of full precision, or at the least exponent. -/
structure Normal (c : ℕ) (g : ℤ) : Prop where
  digits : c < 2 ^ (f.p + 1)
  least : f.emin ≤ g
  full : c < 2 ^ f.p → g = f.emin

/-- The exponent field and trailing significand of such a value, as one number. -/
def magnitude (c : ℕ) (g : ℤ) : ℕ := (g - f.emin).toNat * 2 ^ f.p + c

theorem maxExp_lt : f.maxExp < 2 ^ f.w := Nat.sub_lt (Nat.two_pow_pos _) one_pos

variable {f} (sound : f.Sound)
include sound

theorem Sound.maxExp_eq : (f.maxExp : ℤ) = 2 * f.bias + 1 := by
  obtain ⟨k, wide⟩ := Nat.exists_eq_add_of_le' sound.exponents
  have : (2 : ℤ) ^ (k + 2) = 2 * 2 ^ (k + 1) := pow_succ' ..
  rw [maxExp, bias, wide, Nat.cast_sub (Nat.two_pow_pos _)]
  push_cast
  show (2 : ℤ) ^ (k + 2) - 1 = 2 * (2 ^ (k + 1) - 1) + 1
  omega

theorem Sound.bias_pos : 1 ≤ f.bias := by
  have : (2 : ℤ) ^ 1 ≤ 2 ^ (f.w - 1) := pow_le_pow_right₀ (by decide) (by have := sound.exponents; omega)
  rw [bias]
  omega

/-- The number of a normal value has its exponent field and its trailing significand. -/
theorem Sound.magnitude_fields {c : ℕ} {g : ℤ} {s : Bool} (normal : f.Normal c g) (below : g ≤ f.bias - f.p) :
    f.magnitude c g / 2 ^ f.p < f.maxExp ∧ (if f.magnitude c g / 2 ^ f.p = 0 then FVal.fin s (f.magnitude c g % 2 ^ f.p) f.emin
      else FVal.fin s (f.magnitude c g % 2 ^ f.p + 2 ^ f.p) (Int.ofNat (f.magnitude c g / 2 ^ f.p) - f.bias - f.p)) = FVal.fin s c g := by
  have unit : 0 < 2 ^ f.p := Nat.two_pow_pos _
  have top := sound.maxExp_eq
  have some := sound.bias_pos
  have least : f.emin = 1 - f.bias - f.p := rfl
  obtain ⟨digits, floor, full⟩ := normal
  rcases lt_or_ge c (2 ^ f.p) with sub | norm
  · obtain rfl := full sub
    have value : f.magnitude c f.emin = c := by rw [magnitude, sub_self, Int.toNat_zero, zero_mul, zero_add]
    rw [value, Nat.div_eq_of_lt sub, Nat.mod_eq_of_lt sub, if_pos rfl]
    exact ⟨by omega, rfl⟩
  · obtain ⟨t, rfl⟩ := Nat.exists_eq_add_of_le' norm
    have small : t < 2 ^ f.p := by rw [pow_succ] at digits; omega
    have value : f.magnitude (t + 2 ^ f.p) g = t + 2 ^ f.p * ((g - f.emin).toNat + 1) := by rw [magnitude]; ring
    rw [value, Nat.add_mul_div_left _ _ unit, Nat.add_mul_mod_self_left, Nat.div_eq_of_lt small, Nat.mod_eq_of_lt small, zero_add,
      if_neg (Nat.succ_ne_zero _)]
    refine ⟨by omega, congrArg _ ?_⟩
    rw [Int.ofNat_eq_natCast]
    omega

end Fmt

theorem fmtOf_sound (sz : Bool) : (fmtOf sz).Sound := by
  cases sz <;> constructor <;> decide

/-- The overflow results of Table 6-11. -/
theorem overflowBits_infinite (f : Fmt) {r : Rm} {s : Bool} (h : r = .nearEven ∨ r = .nearAway ∨ (r = .up ∧ s = false) ∨ (r = .down ∧ s = true)) :
    BitVec.ofNat 64 (overflowBits f r s) = fInfW f s := by
  rcases h with rfl | rfl | ⟨rfl, rfl⟩ | ⟨rfl, rfl⟩ <;> rfl

section
variable {f : Fmt} (sound : f.Sound)
include sound

/-- The word of a normal value reads as that value. -/
theorem fRead_magnitude {c : ℕ} {g : ℤ} (normal : f.Normal c g) (below : g ≤ f.bias - f.p) (s : Bool) :
    let v : Word := BitVec.ofNat 64 (f.signBit s + f.magnitude c g)
    v.toNat < 2 ^ (f.p + f.w + 1) ∧ fRead f v = .fin s c g := by
  obtain ⟨field, value⟩ := sound.magnitude_fields (s := s) normal below
  generalize f.magnitude c g = n at *
  intro v
  have unit : 0 < 2 ^ f.p := Nat.two_pow_pos _
  have small : n < 2 ^ (f.p + f.w) := by
    rw [pow_add, mul_comm]
    exact Nat.lt_mul_of_div_lt (field.trans f.maxExp_lt) unit
  have bit : f.signBit s = b2n s * 2 ^ (f.p + f.w) := rfl
  have double : 2 ^ (f.p + f.w + 1) = 2 * 2 ^ (f.p + f.w) := pow_succ' ..
  have fits : 2 ^ (f.p + f.w + 1) ≤ 2 ^ 64 := Nat.pow_le_pow_right two_pos sound.fits
  have sign_le : b2n s ≤ 1 := by cases s <;> decide
  have total : f.signBit s + n < 2 ^ (f.p + f.w + 1) := by
    rw [bit, double]
    have := Nat.mul_le_mul_right (2 ^ (f.p + f.w)) sign_le
    omega
  have number : v.toNat = f.signBit s + n := by rw [BitVec.toNat_ofNat, Nat.mod_eq_of_lt (total.trans_le fits)]
  refine ⟨number ▸ total, ?_⟩
  have sign : (f.signBit s + n) / 2 ^ (f.p + f.w) = b2n s := by
    rw [bit, add_comm, Nat.add_mul_div_right _ _ (Nat.two_pow_pos _), Nat.div_eq_of_lt small, zero_add]
  have exponent : (f.signBit s + n) / 2 ^ f.p % 2 ^ f.w = n / 2 ^ f.p := by
    rw [bit, add_comm, pow_add, mul_left_comm, Nat.add_mul_div_left _ _ unit, Nat.add_mul_mod_self_right,
      Nat.mod_eq_of_lt (field.trans f.maxExp_lt)]
  have trailing : (f.signBit s + n) % 2 ^ f.p = n % 2 ^ f.p := by
    rw [bit, add_comm, pow_add, mul_left_comm, Nat.add_mul_mod_self_left]
  have negative : decide (b2n s = 1) = s := by cases s <;> decide
  simp only [fRead, number, Nat.mod_eq_of_lt total, sign, exponent, trailing, if_neg field.ne, negative]
  exact value

/-- An infinity's word, and the largest finite magnitude just before it. -/
theorem toNat_fInfW (s : Bool) : (fInfW f s).toNat = f.signBit s + f.inf ∧ 1 ≤ f.inf ∧ f.signBit s + f.inf < 2 ^ 64 := by
  have pos : 1 ≤ f.maxExp := by have := sound.maxExp_eq; have := sound.bias_pos; omega
  have inf_lt : f.inf < 2 ^ (f.p + f.w) := by
    rw [Fmt.inf, pow_add, mul_comm]
    exact Nat.mul_lt_mul_of_pos_left f.maxExp_lt (Nat.two_pow_pos _)
  have sign_le : f.signBit s ≤ 2 ^ (f.p + f.w) := by
    rw [Fmt.signBit]
    cases s <;> simp [b2n]
  have fits : 2 ^ (f.p + f.w + 1) ≤ 2 ^ 64 := Nat.pow_le_pow_right two_pos sound.fits
  rw [pow_succ] at fits
  have total : f.signBit s + f.inf < 2 ^ 64 := by omega
  exact ⟨by rw [fInfW, BitVec.toNat_ofNat, Nat.mod_eq_of_lt total], Nat.mul_pos pos (Nat.two_pow_pos _), total⟩

theorem overflowBits_finite {r : Rm} {s : Bool} (h : r = .zero ∨ (r = .up ∧ s = true) ∨ (r = .down ∧ s = false)) :
    (BitVec.ofNat 64 (overflowBits f r s)).toNat + 1 = (fInfW f s).toNat := by
  obtain ⟨value, pos, total⟩ := toNat_fInfW sound s
  have bits : overflowBits f r s = f.signBit s + (f.inf - 1) := by rcases h with rfl | ⟨rfl, rfl⟩ | ⟨rfl, rfl⟩ <;> rfl
  rw [bits, value, BitVec.toNat_ofNat, Nat.mod_eq_of_lt (by omega)]
  omega

/-- A normal value is past the largest finite magnitude just where its exponent is past the largest one. -/
theorem max_lt_iff {c : ℕ} {g : ℤ} (normal : f.Normal c g) :
    ((2 : ℝ) ^ (f.p + 1) - 1) * (2 : ℝ) ^ (f.bias - f.p) < c * 2 ^ g ↔ f.bias - f.p < g := by
  obtain ⟨digits, floor, full⟩ := normal
  constructor
  · intro past
    by_contra le
    have le := not_lt.mp le
    have digits : (c : ℝ) ≤ 2 ^ (f.p + 1) - 1 := by
      rw [le_sub_iff_add_le]
      exact_mod_cast digits
    have : (2 : ℝ) ^ g ≤ 2 ^ (f.bias - f.p) := zpow_le_zpow_right₀ one_le_two le
    exact past.not_ge (mul_le_mul digits this (by positivity) (c.cast_nonneg.trans digits))
  · intro past
    have norm : 2 ^ f.p ≤ c := by
      by_contra sub
      have := full (not_le.mp sub)
      have := sound.bias_pos
      have least : f.emin = 1 - f.bias - f.p := rfl
      omega
    have norm : (2 : ℝ) ^ f.p ≤ c := by exact_mod_cast norm
    have unit : (0 : ℝ) < 2 ^ (f.bias - f.p) := by positivity
    have step : (2 : ℝ) ^ (f.bias - f.p + 1) ≤ 2 ^ g := zpow_le_zpow_right₀ one_le_two past
    rw [zpow_add_one₀ two_ne_zero] at step
    calc ((2 : ℝ) ^ (f.p + 1) - 1) * (2 : ℝ) ^ (f.bias - f.p) < 2 ^ (f.p + 1) * 2 ^ (f.bias - f.p) := by
          gcongr
          linarith
      _ = 2 ^ f.p * (2 ^ (f.bias - f.p) * 2) := by ring
      _ ≤ c * 2 ^ g := by gcongr

end
end Sys2Proof.Machine

namespace Sys2Proof.Machine

/-! One rounding of an exact value (R135 to R138, Table 6-12). -/

/-- The magnitude n/d * 2^e in units of an exponent. -/
theorem quotient_units (n d : ℕ) (e g : ℤ) : ((n : ℝ) / d * 2 ^ e) / 2 ^ g = n / d * 2 ^ (e - g) := by
  rw [zpow_sub₀ two_ne_zero, mul_div_assoc]

/-- The model's rounding to multiples of a power of 2. -/
theorem roundAt_rounded (r : Rm) (s : Bool) (n : ℕ) {d : ℕ} (pos : 0 < d) (e g : ℤ) :
    RoundedTo (r.onMagnitude s) (((n : ℝ) / d * 2 ^ e) / 2 ^ g) (roundAt r s n d e g).1 ∧
      ((roundAt r s n d e g).2 = true ↔ ((n : ℝ) / d * 2 ^ e) / 2 ^ g = (roundAt r s n d e g).1) := by
  rw [quotient_units]
  by_cases le : g ≤ e
  · simp only [roundAt, if_pos le]
    have scaled : (n : ℝ) / d * 2 ^ (e - g) = (n * 2 ^ (e - g).toNat : ℕ) / d := by
      push_cast
      rw [← zpow_natCast, Int.toNat_of_nonneg (sub_nonneg.mpr le), mul_div_right_comm]
    rw [scaled]
    exact (roundInt_rounded r s _ pos).imp_right fun h => decide_eq_true_iff.trans h
  · simp only [roundAt, if_neg le]
    have scaled : (n : ℝ) / d * 2 ^ (e - g) = n / (d * 2 ^ (g - e).toNat : ℕ) := by
      push_cast
      rw [← zpow_natCast, Int.toNat_of_nonneg (by omega), ← div_div, div_eq_mul_inv _ ((2 : ℝ) ^ (g - e)), ← zpow_neg, neg_sub]
    rw [scaled]
    exact (roundInt_rounded r s _ (Nat.mul_pos pos (Nat.two_pow_pos _))).imp_right fun h => decide_eq_true_iff.trans h

/-- The exponent of the leading bit of a magnitude. -/
theorem leadExp_bounds {n d : ℕ} (npos : 0 < n) (dpos : 0 < d) (e : ℤ) :
    (2 : ℝ) ^ leadExp n d e ≤ n / d * 2 ^ e ∧ (n / d * 2 ^ e : ℝ) < 2 ^ (leadExp n d e + 1) := by
  have dpos' : (0 : ℝ) < d := by exact_mod_cast dpos
  have n_lo : (2 : ℝ) ^ n.log2 ≤ n := by exact_mod_cast Nat.log2_self_le npos.ne'
  have n_hi : (n : ℝ) < 2 ^ (n.log2 + 1) := by exact_mod_cast Nat.lt_log2_self
  have d_lo : (2 : ℝ) ^ d.log2 ≤ d := by exact_mod_cast Nat.log2_self_le dpos.ne'
  have d_hi : (d : ℝ) < 2 ^ (d.log2 + 1) := by exact_mod_cast Nat.lt_log2_self
  have lead : ∃ k : ℤ, leadExp n d e = k + e ∧ (2 : ℝ) ^ k ≤ n / d ∧ n / d < (2 : ℝ) ^ (k + 1) := by
    let k : ℤ := n.log2 - d.log2
    have above : (2 : ℝ) ^ (k - 1) ≤ n / d := by
      rw [le_div_iff₀ dpos', show k - 1 = n.log2 - (d.log2 + 1 : ℕ) by push_cast; omega, zpow_sub₀ two_ne_zero, zpow_natCast, zpow_natCast,
        div_mul_eq_mul_div, div_le_iff₀ (by positivity)]
      exact mul_le_mul n_lo d_hi.le dpos'.le n.cast_nonneg
    have below : (n / d : ℝ) < 2 ^ (k + 1) := by
      rw [div_lt_iff₀ dpos', show k + 1 = (n.log2 + 1 : ℕ) - d.log2 by push_cast; omega, zpow_sub₀ two_ne_zero, zpow_natCast, zpow_natCast,
        div_mul_eq_mul_div, lt_div_iff₀ (by positivity)]
      exact mul_lt_mul n_hi d_lo (by positivity) (by positivity)
    have test : (if 0 ≤ k then d * 2 ^ k.toNat ≤ n else d ≤ n * 2 ^ (-k).toNat) ↔ (2 : ℝ) ^ k ≤ n / d := by
      rw [le_div_iff₀ dpos']
      split
      case isTrue nonneg =>
        rw [mul_comm, ← Int.toNat_of_nonneg nonneg, zpow_natCast, Int.toNat_natCast]
        exact_mod_cast Iff.rfl
      case isFalse neg =>
        obtain ⟨j, eq⟩ := Int.eq_ofNat_of_zero_le (a := -k) (by omega)
        rw [eq, Int.toNat_natCast, neg_eq_iff_eq_neg.mp eq, zpow_neg, zpow_natCast, inv_mul_le_iff₀ (by positivity), mul_comm]
        exact_mod_cast Iff.rfl
    have value : leadExp n d e = (if (2 : ℝ) ^ k ≤ n / d then k else k - 1) + e := congrArg (· + e) (if_congr test rfl rfl)
    split at value
    case isTrue full => exact ⟨k, value, full, below⟩
    case isFalse less => exact ⟨k - 1, value, above, by rw [sub_add_cancel]; exact not_le.mp less⟩
  obtain ⟨k, eq, lo, hi⟩ := lead
  have unit : (0 : ℝ) < 2 ^ e := by positivity
  rw [eq, add_right_comm, zpow_add₀ two_ne_zero, zpow_add₀ two_ne_zero]
  exact ⟨mul_le_mul_of_nonneg_right lo unit.le, mul_lt_mul_of_pos_right hi unit⟩

section
variable {f : Fmt} {g : ℤ} {c : ℕ}

/-- A rounded significand that carries into another digit is a normal value of the next exponent. -/
theorem Fmt.Normal.exists_carry (small : c ≤ 2 ^ (f.p + 1)) (least : f.emin ≤ g) (full : c < 2 ^ f.p → g = f.emin) :
    ∃ c', f.Normal c' (if 2 ^ (f.p + 1) ≤ c then g + 1 else g) ∧
      (c' : ℝ) * 2 ^ (if 2 ^ (f.p + 1) ≤ c then g + 1 else g) = c * 2 ^ g ∧
      f.magnitude c' (if 2 ^ (f.p + 1) ≤ c then g + 1 else g) = if c < 2 ^ f.p then c else (g - f.emin).toNat * 2 ^ f.p + c := by
  split
  case isTrue carry =>
    obtain rfl := small.antisymm carry
    have double : 2 ^ (f.p + 1) = 2 * 2 ^ f.p := pow_succ' ..
    have unit : 0 < 2 ^ f.p := Nat.two_pow_pos _
    refine ⟨2 ^ f.p, ⟨by omega, by omega, fun h => absurd h (lt_irrefl _)⟩, ?_, ?_⟩
    · rw [zpow_add_one₀ two_ne_zero]
      push_cast
      ring
    · rw [if_neg (by omega), magnitude, show (g + 1 - f.emin).toNat = (g - f.emin).toNat + 1 by omega]
      ring
  case isFalse below =>
    refine ⟨c, ⟨not_le.mp below, least, full⟩, rfl, ?_⟩
    split
    case isTrue sub => rw [magnitude, full sub, sub_self, Int.toNat_zero, zero_mul, zero_add]
    case isFalse => rfl

/-- A value rounded with an unbounded exponent lies below the smallest normal magnitude just where the model says so. -/
theorem tiny_iff {l : ℤ} {u : ℕ} (full : 2 ^ f.p ≤ u) (small : u ≤ 2 ^ (f.p + 1)) :
    (decide (l < 1 - f.bias - 1) || (l == 1 - f.bias - 1 && decide (u < 2 ^ (f.p + 1)))) = true ↔ (u : ℝ) * 2 ^ (l - f.p) < 2 ^ (1 - f.bias) := by
  have unit : (0 : ℝ) < 2 ^ (l - f.p) := by positivity
  have lead : (2 : ℝ) ^ f.p * 2 ^ (l - f.p) = 2 ^ l := by rw [← zpow_natCast, ← zpow_add₀ two_ne_zero, add_sub_cancel]
  have next : (2 : ℝ) ^ (f.p + 1) * 2 ^ (l - f.p) = 2 ^ (l + 1) := by rw [pow_succ, mul_right_comm, lead, zpow_add_one₀ two_ne_zero]
  have full : (2 : ℝ) ^ l ≤ u * 2 ^ (l - f.p) := by
    rw [← lead]
    gcongr
    exact_mod_cast full
  have small : (u : ℝ) * 2 ^ (l - f.p) ≤ 2 ^ (l + 1) := by
    rw [← next]
    gcongr
    exact_mod_cast small
  simp only [Bool.or_eq_true, Bool.and_eq_true, decide_eq_true_eq, beq_iff_eq]
  rcases lt_trichotomy l (1 - f.bias - 1) with below | here | above
  · refine iff_of_true (.inl below) (small.trans_lt (zpow_lt_zpow_right₀ one_lt_two (by omega)))
  · rw [show 1 - f.bias = l + 1 by omega, ← next, mul_lt_mul_iff_left₀ unit]
    constructor
    · rintro (less | ⟨-, less⟩)
      · omega
      · exact_mod_cast less
    · exact fun less => .inr ⟨by omega, by exact_mod_cast less⟩
  · refine iff_of_false (by omega) (not_lt.mpr (le_trans ?_ full))
    exact zpow_le_zpow_right₀ one_le_two (by omega)

end

/-- The exponent of the multiples a value is rounded to. -/
def gridExp (f : Fmt) (l : ℤ) : ℤ := if l - f.p < f.emin then f.emin else l - f.p

/-- One rounding, its parts named. -/
theorem fRound_eq (f : Fmt) (r : Rm) (s : Bool) (n d : ℕ) (e : ℤ) : fRound f r s n d e =
    let l := leadExp n d e
    let g := gridExp f l
    let c := (roundAt r s n d e g).1
    let ex := (roundAt r s n d e g).2
    let u := (roundAt r s n d e (l - f.p)).1
    let tiny := decide (l < 1 - f.bias - 1) || (l == 1 - f.bias - 1 && decide (u < 2 ^ (f.p + 1)))
    if f.bias - f.p < (if 2 ^ (f.p + 1) ≤ c then g + 1 else g) then (BitVec.ofNat 64 (overflowBits f r s), 0b00101)
    else (BitVec.ofNat 64 (f.signBit s + if c < 2 ^ f.p then c else (g - f.emin).toNat * 2 ^ f.p + c),
      (if ex then 0 else fInexact) ||| (if tiny && !ex then fUnderflow else 0)) := rfl

/-- The rounding of a quotient delivers every positive real that is alike with it in all units the rounding can look at. -/
theorem fRound_delivers {f : Fmt} (sound : f.Sound) (r : Rm) (s : Bool) {n d : ℕ} {e : ℤ} (npos : 0 < n) (dpos : 0 < d) {x : ℝ} (pos : 0 < x)
    (alike : ∀ g, leadExp n d e - f.p ≤ g → Alike ((n : ℝ) / d * 2 ^ e / 2 ^ g) (x / 2 ^ g)) :
    Claim.Delivers f r (sgn s * x) (fRound f r s n d e) := by
  obtain ⟨lo, hi⟩ := leadExp_bounds npos dpos e
  rw [fRound_eq]
  generalize leadExp n d e = l at *
  dsimp only
  have grid : l - f.p ≤ gridExp f l ∧ f.emin ≤ gridExp f l ∧ (gridExp f l = f.emin ∨ gridExp f l = l - f.p) := by
    unfold gridExp
    split <;> omega
  obtain ⟨above, least, which⟩ := grid
  generalize gridExp f l = g at *
  obtain ⟨hc, exact⟩ := roundAt_rounded r s n dpos e g
  obtain ⟨hu, -⟩ := roundAt_rounded r s n dpos e (l - f.p)
  generalize (roundAt r s n d e g).1 = c at *
  generalize (roundAt r s n d e g).2 = ex at *
  generalize (roundAt r s n d e (l - f.p)).1 = u at *
  have hc := hc.of_alike (alike g above)
  have hu := hu.of_alike (alike _ le_rfl)
  have exact := exact.trans ((alike g above).eq_nat c)
  have upto {g : ℤ} (h : l - f.p ≤ g) : x / 2 ^ g ≤ 2 ^ (f.p + 1) := by
    have bound : (n : ℝ) / d * 2 ^ e / 2 ^ g ≤ (2 ^ (f.p + 1) : ℤ) := by
      push_cast
      rw [div_le_iff₀ (by positivity), ← zpow_natCast, ← zpow_add₀ two_ne_zero]
      exact hi.le.trans (zpow_le_zpow_right₀ one_le_two (by push_cast; omega))
    exact_mod_cast ((alike g h).le_int _).mp bound
  have full : (2 : ℝ) ^ f.p ≤ x / 2 ^ (l - f.p) := by
    have bound : (2 ^ f.p : ℤ) ≤ (n : ℝ) / d * 2 ^ e / 2 ^ (l - f.p) := by
      push_cast
      rwa [le_div_iff₀ (by positivity), ← zpow_natCast, ← zpow_add₀ two_ne_zero, add_sub_cancel]
    exact_mod_cast ((alike _ le_rfl).int_le _).mp (by exact_mod_cast bound)
  have c_small : c ≤ 2 ^ (f.p + 1) := hc.le_of_le (by exact_mod_cast upto above)
  have u_small : u ≤ 2 ^ (f.p + 1) := hu.le_of_le (by exact_mod_cast upto le_rfl)
  have u_full : 2 ^ f.p ≤ u := hu.ge_of_ge (by exact_mod_cast full)
  have precise : g = f.emin ∨ (2 : ℝ) ^ f.p ≤ x / 2 ^ g := which.imp_right fun h => by rwa [h]
  have floor : c < 2 ^ f.p → g = f.emin := fun sub =>
    precise.resolve_right fun full => absurd (hc.ge_of_ge (by exact_mod_cast full)) (not_le.mpr sub)
  obtain ⟨c', normal, value, bits⟩ := Fmt.Normal.exists_carry c_small least floor
  rw [← bits]
  generalize (if 2 ^ (f.p + 1) ≤ c then g + 1 else g) = g' at *
  have size : |sgn s * (c * 2 ^ g : ℝ)| = c' * 2 ^ g' := by rw [abs_mul, abs_sgn, one_mul, value, abs_of_nonneg (by positivity)]
  have u_size : |sgn s * (u * 2 ^ (l - f.p) : ℝ)| = u * 2 ^ (l - f.p) := by rw [abs_mul, abs_sgn, one_mul, abs_of_nonneg (by positivity)]
  have exact : ex = true ↔ sgn s * (c * 2 ^ g : ℝ) = sgn s * x := by
    rw [exact, div_eq_iff (by positivity), eq_comm]
    cases s <;> simp
  refine ⟨sgn s * (c * 2 ^ g), sgn s * (u * 2 ^ (l - f.p)), s, ?_,
    hc.rounds_grid pos sound.digits least (by omega) (upto above) (precise.imp_left fun h _ allowed => h.le.trans allowed),
    hu.rounds_grid pos sound.digits trivial trivial (upto le_rfl) (.inr full), fun past => ?_, fun inside => ?_⟩
  · cases s <;> simp [pos, pos.le]
  · rw [size, max_lt_iff sound normal] at past
    rw [if_pos past]
    exact ⟨rfl, overflowBits_infinite f, overflowBits_finite sound⟩
  · rw [size, ← not_lt, max_lt_iff sound normal] at inside
    obtain ⟨fits, reads⟩ := fRead_magnitude sound normal (not_lt.mp inside) s
    rw [if_neg inside]
    refine ⟨fits, ⟨_, _, reads⟩, ⟨s, c', g', reads, ?_⟩, fun same => ?_, fun apart below => ?_, fun apart normal => ?_⟩
    · rw [← value, ← mul_assoc]
      rfl
    · rw [exact.mpr same]
      simp
    · rw [Bool.eq_false_iff.mpr (mt exact.mp apart), (tiny_iff u_full u_small).mpr (u_size ▸ below)]
      rfl
    · rw [Bool.eq_false_iff.mpr (mt exact.mp apart), Bool.eq_false_iff.mpr (mt (tiny_iff u_full u_small).mp (not_lt.mpr (u_size ▸ normal)))]
      rfl

/-- The rounding of an exact value delivers it. -/
theorem fRound_exact {f : Fmt} (sound : f.Sound) (r : Rm) (s : Bool) {n d : ℕ} (e : ℤ) (npos : 0 < n) (dpos : 0 < d) :
    Claim.Delivers f r (sgn s * (n / d * 2 ^ e)) (fRound f r s n d e) :=
  fRound_delivers sound r s npos dpos (by positivity) fun _ _ => Alike.refl _

end Sys2Proof.Machine

namespace Sys2Proof.Machine

/-! What each operation gives of finite operands (R136, R145, R146). -/

/-- A finite operand's parts. -/
theorem stands_parts {v : FVal} {x : ℝ} (h : Claim.Stands v x) : ∃ s c e, v = .fin s c e ∧ x = sgn s * (c * 2 ^ e) := by
  obtain ⟨s, c, e, rfl, rfl⟩ := h
  exact ⟨s, c, e, rfl, mul_assoc ..⟩

theorem stands_fin (s : Bool) (c : ℕ) (e : ℤ) : Claim.Stands (.fin s c e) (sgn s * (c * 2 ^ e)) := ⟨s, c, e, rfl, (mul_assoc ..).symm⟩

theorem stands_neg {v : FVal} {x : ℝ} (h : Claim.Stands v x) : Claim.Stands v.neg (-x) := by
  obtain ⟨s, c, e, rfl, rfl⟩ := stands_parts h
  have flip : sgn (!s) = -sgn s := by cases s <;> simp
  rw [← neg_mul, ← flip]
  exact stands_fin ..

theorem sgn_ne_zero (s : Bool) : sgn s ≠ 0 := by cases s <;> simp

/-- A finite operand is 0 just where its significand is. -/
@[simp] theorem magnitude_eq_zero (s : Bool) (c : ℕ) (e : ℤ) : sgn s * (c * 2 ^ e) = 0 ↔ c = 0 := by
  rw [mul_eq_zero, mul_eq_zero, or_iff_right (sgn_ne_zero s), or_iff_left (by positivity), Nat.cast_eq_zero]

/-- A signed integer as the model writes it. -/
theorem cast_signed (s : Bool) (k : ℕ) : ((if s then -Int.ofNat k else Int.ofNat k : ℤ) : ℝ) = sgn s * k := by
  cases s <;> simp

/-- An integer's sign and magnitude. -/
theorem sgn_natAbs (t : ℤ) : sgn (decide (t < 0)) * t.natAbs = t := by
  rw [← Int.cast_natCast, Int.natCast_natAbs]
  rcases lt_or_ge t 0 with neg | nonneg
  · rw [decide_eq_true neg, sgn_true, abs_of_neg neg]
    push_cast
    ring
  · rw [decide_eq_false (not_lt.mpr nonneg), sgn_false, abs_of_nonneg nonneg, one_mul]

/-- An exact zero's word. -/
theorem fZero_eq (f : Fmt) (s : Bool) : fZero f s = BitVec.ofNat 64 (if s then 2 ^ (f.p + f.w) else 0) := by
  cases s <;> simp [fZero, Fmt.signBit, b2n]

section
variable {f : Fmt} (sound : f.Sound) (r : Rm)
include sound

/-- The rounding of a nonzero integer multiple of a power of 2. -/
theorem fRound_int {t : ℤ} (nonzero : t ≠ 0) (e : ℤ) : Claim.Delivers f r (t * 2 ^ e) (fRound f r (t < 0) t.natAbs 1 e) := by
  have := fRound_exact sound r (decide (t < 0)) e (Int.natAbs_pos.mpr nonzero) one_pos
  rwa [Nat.cast_one, div_one, ← mul_assoc, sgn_natAbs] at this

/-- A sum of two finite values. -/
theorem addFin_delivers {s₁ s₂ : Bool} {c₁ c₂ : ℕ} {e₁ e₂ : ℤ} {x y : ℝ} (hx : x = sgn s₁ * (c₁ * 2 ^ e₁)) (hy : y = sgn s₂ * (c₂ * 2 ^ e₂)) :
    (x + y ≠ 0 → Claim.Delivers f r (x + y) (addFin f r s₁ c₁ e₁ s₂ c₂ e₂)) ∧
      (x + y = 0 → addFin f r s₁ c₁ e₁ s₂ c₂ e₂ = (fZero f (r == .down), 0)) := by
  have le₁ : (if e₁ ≤ e₂ then e₁ else e₂) ≤ e₁ := by split <;> omega
  have le₂ : (if e₁ ≤ e₂ then e₁ else e₂) ≤ e₂ := by split <;> omega
  simp only [addFin]
  generalize (if e₁ ≤ e₂ then e₁ else e₂) = e at *
  have scaled (s : Bool) (c : ℕ) {k : ℤ} (le : e ≤ k) : sgn s * (c * 2 ^ k : ℝ) =
      ((if s then -Int.ofNat (c * 2 ^ (k - e).toNat) else Int.ofNat (c * 2 ^ (k - e).toNat) : ℤ) : ℝ) * 2 ^ e := by
    rw [cast_signed]
    push_cast
    rw [← zpow_natCast, Int.toNat_of_nonneg (by omega), mul_assoc, mul_assoc, ← zpow_add₀ two_ne_zero, sub_add_cancel]
  rw [hx, hy, scaled s₁ c₁ le₁, scaled s₂ c₂ le₂, ← add_mul, ← Int.cast_add]
  generalize (if s₁ then _ else _ : ℤ) + _ = t
  have zero : (t : ℝ) * 2 ^ e = 0 ↔ t = 0 := by rw [mul_eq_zero, or_iff_left (by positivity), Int.cast_eq_zero]
  rw [Ne, zero]
  exact ⟨fun nonzero => by rw [if_neg nonzero]; exact fRound_int sound r nonzero e, fun zero => if_pos zero⟩

variable {a b c : FVal} {x y z : ℝ}

theorem fAdd_delivers (ha : Claim.Stands a x) (hb : Claim.Stands b y) :
    (x + y ≠ 0 → Claim.Delivers f r (x + y) (fAdd f r a b)) ∧ (x + y = 0 → fAdd f r a b = (fZero f (r == .down), 0)) := by
  obtain ⟨s₁, c₁, e₁, rfl, hx⟩ := stands_parts ha
  obtain ⟨s₂, c₂, e₂, rfl, hy⟩ := stands_parts hb
  exact addFin_delivers sound r hx hy

omit sound in
/-- The exact product of two finite values. -/
theorem product_eq (s₁ s₂ : Bool) (c₁ c₂ : ℕ) (e₁ e₂ : ℤ) :
    sgn s₁ * (c₁ * 2 ^ e₁) * (sgn s₂ * (c₂ * 2 ^ e₂)) = sgn (s₁ != s₂) * ((c₁ * c₂ : ℕ) * 2 ^ (e₁ + e₂)) := by
  rw [sgn_xor, zpow_add₀ two_ne_zero]
  push_cast
  ring

theorem fMul_delivers (ha : Claim.Stands a x) (hb : Claim.Stands b y) :
    (x * y ≠ 0 → Claim.Delivers f r (x * y) (fMul f r a b)) ∧ (x * y = 0 → fMul f r a b = (fZero f (a.sign != b.sign), 0)) := by
  obtain ⟨s₁, c₁, e₁, rfl, rfl⟩ := stands_parts ha
  obtain ⟨s₂, c₂, e₂, rfl, rfl⟩ := stands_parts hb
  rw [product_eq, Ne, magnitude_eq_zero]
  refine ⟨fun nonzero => ?_, fun zero => if_pos zero⟩
  have := fRound_exact sound r (s₁ != s₂) (e₁ + e₂) (Nat.pos_of_ne_zero nonzero) one_pos
  rw [Nat.cast_one, div_one] at this
  rwa [fMul, if_neg nonzero]

theorem fFma_delivers (ha : Claim.Stands a x) (hb : Claim.Stands b y) (hc : Claim.Stands c z) :
    (x * y + z ≠ 0 → Claim.Delivers f r (x * y + z) (fFma f r a b c)) ∧ (x * y + z = 0 → fFma f r a b c = (fZero f (r == .down), 0)) := by
  obtain ⟨s₁, c₁, e₁, rfl, rfl⟩ := stands_parts ha
  obtain ⟨s₂, c₂, e₂, rfl, rfl⟩ := stands_parts hb
  obtain ⟨s₃, c₃, e₃, rfl, hz⟩ := stands_parts hc
  exact addFin_delivers sound r (product_eq ..) hz

/-- A quotient of two finite values, and what Table 6-12 gives of a division by zero. -/
theorem fDiv_delivers (ha : Claim.Stands a x) (hb : Claim.Stands b y) :
    (y ≠ 0 → x ≠ 0 → Claim.Delivers f r (x / y) (fDiv f r a b)) ∧ (y ≠ 0 → x = 0 → fDiv f r a b = (fZero f (a.sign != b.sign), 0)) ∧
      (y = 0 → x ≠ 0 → fDiv f r a b = (fInfW f (a.sign != b.sign), fDivZero)) ∧ (y = 0 → x = 0 → fDiv f r a b = (fNan f, fInvalid)) := by
  obtain ⟨s₁, c₁, e₁, rfl, rfl⟩ := stands_parts ha
  obtain ⟨s₂, c₂, e₂, rfl, rfl⟩ := stands_parts hb
  simp only [Ne, magnitude_eq_zero, fDiv]
  refine ⟨fun divisor nonzero => ?_, fun divisor zero => by rw [if_neg divisor, if_pos zero]; rfl,
    fun divisor nonzero => by rw [if_pos divisor, if_neg nonzero]; rfl, fun divisor zero => by rw [if_pos divisor, if_pos zero]⟩
  have quotient : sgn s₁ * (c₁ * 2 ^ e₁) / (sgn s₂ * (c₂ * 2 ^ e₂)) = sgn (s₁ != s₂) * ((c₁ : ℝ) / c₂ * 2 ^ (e₁ - e₂)) := by
    have self : sgn s₂ * sgn s₂ = 1 := by cases s₂ <;> simp
    have : (c₂ : ℝ) ≠ 0 := by exact_mod_cast divisor
    rw [sgn_xor, zpow_sub₀ two_ne_zero, div_eq_iff (mul_ne_zero (sgn_ne_zero s₂) (by positivity))]
    field_simp
    rw [pow_two, self, mul_one]
  rw [if_neg divisor, if_neg nonzero, quotient]
  exact fRound_exact sound r _ _ (Nat.pos_of_ne_zero nonzero) (Nat.pos_of_ne_zero divisor)

theorem fOfInt_delivers {i : ℤ} (nonzero : i ≠ 0) : Claim.Delivers f r i (fOfInt f r i) := by
  have := fRound_int sound r nonzero 0
  rw [zpow_zero, mul_one] at this
  rwa [fOfInt, if_neg nonzero]

theorem fConv_delivers (ha : Claim.Stands a x) :
    (x ≠ 0 → Claim.Delivers f r x (fConv f r a)) ∧ (x = 0 → fConv f r a = (fZero f a.sign, 0)) := by
  obtain ⟨s, c, e, rfl, rfl⟩ := stands_parts ha
  rw [Ne, magnitude_eq_zero]
  refine ⟨fun nonzero => ?_, fun zero => if_pos zero⟩
  have := fRound_exact sound r s e (Nat.pos_of_ne_zero nonzero) one_pos
  rw [Nat.cast_one, div_one] at this
  rwa [fConv, if_neg nonzero]

end

/-! Square roots: the integer root and a sticky half-bit round as the exact root does. -/

/-- The bisection finds the integer square root. -/
theorem isqrt_eq (n : ℕ) : ∀ k q, q * q ≤ n → n < (q + 2 ^ k) * (q + 2 ^ k) → isqrt n k q = Nat.sqrt n := by
  intro k
  induction k with
  | zero => exact fun q low high => Nat.eq_sqrt.mpr ⟨low, high⟩
  | succ k ih =>
    intro q low high
    rw [isqrt]
    split
    case isTrue le => exact ih _ le (by rw [add_assoc, ← two_mul, ← pow_succ']; exact high)
    case isFalse gt => exact ih _ low (not_le.mp gt)

theorem isqrt_log2 (n : ℕ) : isqrt n (n.log2 / 2 + 1) 0 = Nat.sqrt n := by
  refine isqrt_eq n _ 0 (Nat.zero_le n) ?_
  rw [zero_add, ← pow_add]
  exact Nat.lt_log2_self.trans_le (Nat.pow_le_pow_right two_pos (by omega))

/-- Magnitudes strictly between an integer and the next are alike in units of any higher power of 2. -/
theorem Alike.of_sticky {q h : ℕ} {u v : ℝ} (lo : q < u) (hi : u < q + 1) (lo' : q < v) (hi' : v < q + 1) :
    Alike (u / 2 ^ (h + 1)) (v / 2 ^ (h + 1)) := by
  have unit : (0 : ℝ) < 2 ^ h := by positivity
  have floor : (((q / 2 ^ h : ℕ) : ℤ) : ℝ) * 2 ^ h ≤ q := by exact_mod_cast Nat.div_mul_le_self q (2 ^ h)
  have ceil : (q + 1 : ℝ) ≤ (((q / 2 ^ h : ℕ) : ℤ) + 1) * 2 ^ h := by exact_mod_cast Nat.lt_mul_of_div_lt (Nat.lt_succ_self _) (Nat.two_pow_pos h)
  have between {w : ℝ} (lo : q < w) (hi : w < q + 1) :
      (((q / 2 ^ h : ℕ) : ℤ) : ℝ) / 2 < w / 2 ^ (h + 1) ∧ w / 2 ^ (h + 1) < (((q / 2 ^ h : ℕ) : ℤ) + 1) / 2 := by
    rw [pow_succ, ← div_div, div_lt_div_iff_of_pos_right two_pos, div_lt_div_iff_of_pos_right two_pos, lt_div_iff₀ unit, div_lt_iff₀ unit]
    exact ⟨floor.trans_lt lo, hi.trans_le ceil⟩
  exact .of_between (between lo hi).1 (between lo hi).2 (between lo' hi').1 (between lo' hi').2

/-- The integer root of a scaled operand with its sticky half-bit rounds as the root itself. -/
theorem fRound_sqrt {f : Fmt} (sound : f.Sound) (r : Rm) {n : ℕ} (E : ℤ) (large : 2 ^ (2 * (f.p + 4)) ≤ n) :
    Claim.Delivers f r (√n * 2 ^ E) (fRound f r false (2 * n.sqrt + if n.sqrt * n.sqrt = n then 0 else 1) 1 (E - 1)) := by
  have root_large : 2 ^ (f.p + 4) ≤ n.sqrt := Nat.le_sqrt.mpr (by rwa [← pow_add, ← two_mul])
  have root_pos : 0 < n.sqrt := (Nat.two_pow_pos _).trans_le root_large
  have npos : (0 : ℝ) < n := by exact_mod_cast (Nat.two_pow_pos _).trans_le large
  have := fRound_delivers sound r false (n := 2 * n.sqrt + if n.sqrt * n.sqrt = n then 0 else 1) (d := 1) (e := E - 1) (x := √n * 2 ^ E)
    (by omega) one_pos (by positivity) ?_
  · rwa [sgn_false, one_mul] at this
  intro g above
  have half : (2 : ℝ) ^ (E - 1) = 2 ^ E / 2 := zpow_sub_one₀ two_ne_zero E
  split at above
  case isTrue square =>
    have root : √(n : ℝ) = n.sqrt := by
      rw [Real.sqrt_eq_iff_mul_self_eq npos.le n.sqrt.cast_nonneg]
      exact_mod_cast square.symm
    rw [if_pos square, root, half]
    convert Alike.refl _ using 1
    push_cast
    ring
  case isFalse between =>
    have low : (n.sqrt : ℝ) < √n := by
      rw [Real.lt_sqrt n.sqrt.cast_nonneg, pow_two]
      exact_mod_cast (Nat.sqrt_le n).lt_of_ne between
    have high : √(n : ℝ) < n.sqrt + 1 := by
      rw [Real.sqrt_lt' (by positivity), pow_two]
      exact_mod_cast Nat.lt_succ_sqrt n
    have exponent : E + 1 ≤ g := by
      have upper := (leadExp_bounds (n := 2 * n.sqrt + 1) (by omega) one_pos (E - 1)).2
      have lower : (2 : ℝ) ^ (f.p + 4 + E) ≤ (2 * n.sqrt + 1 : ℕ) / (1 : ℕ) * 2 ^ (E - 1) := by
        have root_large : (2 : ℝ) ^ (f.p + 4 : ℤ) ≤ n.sqrt := by exact_mod_cast root_large
        rw [zpow_add₀ two_ne_zero, half]
        calc (2 : ℝ) ^ (f.p + 4 : ℤ) * 2 ^ E ≤ (n.sqrt + 1 / 2) * 2 ^ E := by
              gcongr
              linarith
          _ = (2 * n.sqrt + 1 : ℕ) / (1 : ℕ) * (2 ^ E / 2) := by push_cast; ring
      have := (zpow_lt_zpow_iff_right₀ one_lt_two).mp (lower.trans_lt upper)
      omega
    obtain ⟨h, rfl⟩ : ∃ h : ℕ, g = E + (h + 1 : ℕ) := ⟨(g - E - 1).toNat, by omega⟩
    have units (w : ℝ) : w * 2 ^ E / 2 ^ (E + (h + 1 : ℕ)) = w / 2 ^ (h + 1) := by
      rw [zpow_add₀ two_ne_zero, zpow_natCast]
      field_simp
    rw [if_neg between, units, half, show ((2 * n.sqrt + 1 : ℕ) : ℝ) / (1 : ℕ) * (2 ^ E / 2) = (n.sqrt + 1 / 2) * 2 ^ E by push_cast; ring, units]
    exact .of_sticky (by linarith) (by linarith) low high

/-- The square root of a positive finite value, of a zero, and of a value below it. -/
theorem fSqrt_delivers {f : Fmt} (sound : f.Sound) (r : Rm) {a : FVal} {x : ℝ} (ha : Claim.Stands a x) :
    (0 < x → Claim.Delivers f r (√x) (fSqrt f r a)) ∧ (x = 0 → fSqrt f r a = (fZero f a.sign, 0)) ∧
      (x < 0 → fSqrt f r a = (fNan f, fInvalid)) := by
  obtain ⟨s, c, e, rfl, hx⟩ := stands_parts ha
  have size : (0 : ℝ) ≤ c * 2 ^ e := by positivity
  have zero : x = 0 ↔ c = 0 := by rw [hx, magnitude_eq_zero]
  refine ⟨fun pos => ?_, fun h => if_pos (zero.mp h), fun neg => ?_⟩
  · have nonzero := mt zero.mpr pos.ne'
    obtain rfl : s = false := by
      cases s with
      | false => rfl
      | true =>
        rw [sgn_true] at hx
        linarith
    rw [sgn_false, one_mul] at hx
    simp only [fSqrt, if_neg nonzero, Bool.false_eq_true, if_false, isqrt_log2]
    generalize key : 2 * (f.p + 4) + (if e % 2 = 0 then 0 else 1) = k
    have even : e - k = 2 * ((e - k) / 2) := by split at key <;> omega
    have bits : 2 * (f.p + 4) ≤ k := by omega
    generalize (e - (k : ℤ)) / 2 = E at *
    have root : √x = √(c * 2 ^ k : ℕ) * 2 ^ E := by
      have unit : (0 : ℝ) ≤ 2 ^ E := by positivity
      rw [← Real.sqrt_sq unit, ← Real.sqrt_mul (Nat.cast_nonneg _), hx, ← zpow_natCast, ← zpow_mul]
      congr 1
      push_cast
      rw [mul_assoc, ← zpow_natCast, ← zpow_add₀ two_ne_zero, show (k : ℤ) + E * 2 = e by omega]
    rw [root]
    refine fRound_sqrt sound r E ((Nat.pow_le_pow_right two_pos bits).trans (Nat.le_mul_of_pos_left _ (Nat.pos_of_ne_zero nonzero)))
  · have nonzero := mt zero.mpr neg.ne
    obtain rfl : s = true := by
      cases s with
      | true => rfl
      | false =>
        rw [sgn_false, one_mul] at hx
        linarith
    simp only [fSqrt, if_neg nonzero, if_true]

end Sys2Proof.Machine

namespace Sys2Proof.Machine

/-! Conversions to an integer (R145, Table 6-13). -/

/-- The magnitude a conversion to an integer rounds to, and whether it is exact. -/
def intMagnitude (r : Rm) (s : Bool) (c : ℕ) (e : ℤ) : ℕ × Bool :=
  if 0 ≤ e then (c * 2 ^ e.toNat, true)
  else (roundInt r s (c / 2 ^ (-e).toNat) (c % 2 ^ (-e).toNat) (2 ^ (-e).toNat), c % 2 ^ (-e).toNat = 0)

/-- The integer a conversion rounds to. -/
def intValue (r : Rm) (s : Bool) (c : ℕ) (e : ℤ) : ℤ :=
  if s then -Int.ofNat (intMagnitude r s c e).1 else Int.ofNat (intMagnitude r s c e).1

theorem fToInt_fin (r : Rm) (signed s : Bool) (c : ℕ) (e : ℤ) : fToInt r signed (.fin s c e) =
    let hi : ℤ := if signed then 2 ^ 63 - 1 else 2 ^ 64 - 1
    let lo : ℤ := if signed then -(2 ^ 63) else 0
    if hi < intValue r s c e then (BitVec.ofInt 64 hi, fInvalid)
    else if intValue r s c e < lo then (BitVec.ofInt 64 lo, fInvalid)
    else (BitVec.ofInt 64 (intValue r s c e), if (intMagnitude r s c e).2 then 0 else fInexact) := rfl

theorem intMagnitude_rounded (r : Rm) (s : Bool) (c : ℕ) (e : ℤ) :
    RoundedTo (r.onMagnitude s) (c * 2 ^ e) (intMagnitude r s c e).1 ∧
      ((intMagnitude r s c e).2 = true ↔ (c * 2 ^ e : ℝ) = (intMagnitude r s c e).1) := by
  unfold intMagnitude
  split
  case isTrue nonneg =>
    have whole : (c * 2 ^ e : ℝ) = (c * 2 ^ e.toNat : ℕ) := by
      push_cast
      rw [← zpow_natCast, Int.toNat_of_nonneg nonneg]
    rw [whole]
    exact ⟨.self _ _, iff_of_true rfl rfl⟩
  case isFalse neg =>
    have quotient : (c * 2 ^ e : ℝ) = c / (2 ^ (-e).toNat : ℕ) := by
      push_cast
      rw [← zpow_natCast, Int.toNat_of_nonneg (by omega), zpow_neg, div_inv_eq_mul]
    rw [quotient]
    exact (roundInt_rounded r s c (Nat.two_pow_pos _)).imp_right fun h => decide_eq_true_iff.trans h

/-- The integer a conversion rounds to is the value rounded, and is the value where the conversion is exact. -/
theorem intValue_rounds (r : Rm) (s : Bool) (c : ℕ) (e : ℤ) :
    Claim.Rounds (fun y => ∃ n : ℤ, y = n) (fun y => ∃ n : ℤ, y = 2 * (n : ℝ)) r (sgn s * (c * 2 ^ e)) (intValue r s c e) ∧
      ((intMagnitude r s c e).2 = true ↔ (intValue r s c e : ℝ) = sgn s * (c * 2 ^ e)) := by
  obtain ⟨rounded, exact⟩ := intMagnitude_rounded r s c e
  have value : (intValue r s c e : ℝ) = sgn s * (intMagnitude r s c e).1 := cast_signed ..
  generalize (intMagnitude r s c e).1 = m at *
  rw [exact, value, mul_right_inj' (sgn_ne_zero s), eq_comm]
  refine ⟨?_, Iff.rfl⟩
  rcases (by positivity : (0 : ℝ) ≤ c * 2 ^ e).eq_or_lt with zero | pos
  · have none : m = 0 := Nat.le_zero.mp (rounded.le_of_le (by rw [← zero, Nat.cast_zero]))
    rw [← zero, none, Nat.cast_zero]
    exact rounds_self ⟨0, by simp⟩ r
  · rw [← div_one (c * 2 ^ e : ℝ)] at rounded
    have := rounded.rounds_signed (on := fun y => ∃ n : ℤ, y = n) (even := fun y => ∃ n : ℤ, y = 2 * (n : ℝ)) pos one_pos
      (fun z ⟨n, h⟩ => ⟨-n, by rw [h, Int.cast_neg]⟩) (fun z ⟨n, h⟩ => ⟨-n, by rw [h]; push_cast; ring⟩) ⟨m, by simp⟩
      (fun even => ⟨(m / 2 : ℕ), by rw [mul_one]; exact_mod_cast (Nat.mul_div_cancel' (Nat.dvd_of_mod_eq_zero even)).symm⟩)
      fun z ⟨n, h⟩ => .inl ⟨n, by rw [← h, mul_one]⟩
    rwa [mul_one] at this

theorem fToInt_delivers (r : Rm) (signed : Bool) {a : FVal} {x : ℝ} (ha : Claim.Stands a x) : Claim.DeliversInt r signed x (fToInt r signed a) := by
  obtain ⟨s, c, e, rfl, rfl⟩ := stands_parts ha
  obtain ⟨rounds, exact⟩ := intValue_rounds r s c e
  rw [fToInt_fin]
  unfold Claim.DeliversInt
  intro lo hi
  have order : lo ≤ hi := by cases signed <;> decide
  refine ⟨intValue r s c e, rounds, fun past => if_pos past, fun under => ?_, fun above below => ?_⟩
  · exact (if_neg (not_lt.mpr (under.le.trans order))).trans (if_pos under)
  · dsimp only
    rw [if_neg (not_lt.mpr below), if_neg (not_lt.mpr above)]
    exact ⟨rfl, fun same => if_pos (exact.mpr same), fun apart => if_neg (mt exact.mp apart)⟩

/-! Infinities and NaNs (R137, Table 6-12). -/

section
variable (f : Fmt) (r : Rm) {a b c : FVal}

/-- Addition, multiplication and division of a NaN give the canonical NaN, with invalid for a signalling one. -/
theorem nan_arithmetic (h : a.isNan = true ∨ b.isNan = true) : fAdd f r a b = (fNan f, invalidIf (a.isSnan || b.isSnan)) ∧
    fMul f r a b = (fNan f, invalidIf (a.isSnan || b.isSnan)) ∧ fDiv f r a b = (fNan f, invalidIf (a.isSnan || b.isSnan)) := by
  rcases h with ha | hb
  · obtain ⟨q, rfl⟩ := FVal.exists_nan ha
    cases b with
    | nan q' => exact ⟨rfl, rfl, rfl⟩
    | inf t => cases q <;> exact ⟨rfl, rfl, rfl⟩
    | fin t c e => cases q <;> exact ⟨rfl, rfl, rfl⟩
  · obtain ⟨q, rfl⟩ := FVal.exists_nan hb
    cases a with
    | nan q' => exact ⟨rfl, rfl, rfl⟩
    | inf s => exact ⟨rfl, rfl, rfl⟩
    | fin s c e => exact ⟨rfl, rfl, rfl⟩

/-- The product of an infinity and a zero. -/
def prodInvalid (a b : FVal) : Bool :=
  match a, b with
  | .inf _, .fin _ k _ => k = 0
  | .fin _ k _, .inf _ => k = 0
  | _, _ => false

theorem fFma_invalid (h : prodInvalid a b = true) : fFma f r a b c = (fNan f, fInvalid) :=
  if_pos (by rw [Bool.or_eq_true]; exact .inr h)

theorem fFma_nan (valid : prodInvalid a b = false) (h : a.isNan = true ∨ b.isNan = true ∨ c.isNan = true) :
    fFma f r a b c = (fNan f, invalidIf (a.isSnan || b.isSnan || c.isSnan)) := by
  have invalid : fFma f r a b c = if a.isSnan || b.isSnan || c.isSnan || prodInvalid a b then (fNan f, fInvalid)
      else if a.isNan || b.isNan || c.isNan then (fNan f, 0) else _ := rfl
  have nan : (a.isNan || b.isNan || c.isNan) = true := by simpa [or_assoc] using h
  rw [invalid, valid, Bool.or_false, if_pos nan, invalidIf]
  split <;> rfl

/-- An infinity times a zero is what makes a product of two operands invalid. -/
theorem prodInvalid_zero (h : prodInvalid a b = true) :
    ∃ x, (a = .inf a.sign ∧ Claim.Stands b x ∨ b = .inf b.sign ∧ Claim.Stands a x) ∧ x = 0 := by
  unfold prodInvalid at h
  split at h
  · exact ⟨_, .inl ⟨rfl, stands_fin ..⟩, (magnitude_eq_zero ..).mpr (of_decide_eq_true h)⟩
  · exact ⟨_, .inr ⟨rfl, stands_fin ..⟩, (magnitude_eq_zero ..).mpr (of_decide_eq_true h)⟩
  · cases h

/-- An infinity times a number that is not 0, with a third operand that is no NaN. -/
theorem fFma_infinite (s : Bool) (number : b.isNan = false) (valid : prodInvalid (.inf s) b = false) :
    (∀ u, fFma f r (.inf s) b (.inf u) = if (s != b.sign) = u then (fInfW f u, 0) else (fNan f, fInvalid)) ∧
      ∀ u k e, fFma f r (.inf s) b (.fin u k e) = (fInfW f (s != b.sign), 0) := by
  have parts (c : FVal) : fFma f r (.inf s) b c = if (FVal.inf s).isSnan || b.isSnan || c.isSnan || prodInvalid (.inf s) b then (fNan f, fInvalid)
      else if (FVal.inf s).isNan || b.isNan || c.isNan then (fNan f, 0) else
        match c with
        | .inf t => if (s != b.sign) = t then (fInfW f (s != b.sign), 0) else (fNan f, fInvalid)
        | _ => (fInfW f (s != b.sign), 0) := by
    cases b <;> rfl
  simp only [parts, number, FVal.isSnan_of_number number, valid]
  refine ⟨fun u => ?_, fun u k e => rfl⟩
  show (if (s != b.sign) = u then (fInfW f (s != b.sign), 0) else (fNan f, fInvalid)) = _
  split
  case isTrue same => rw [same]
  case isFalse => rfl

end
end Sys2Proof.Machine

section
open Sys2Proof Sys2Proof.Machine

theorem floatingPointValues : Claim.FloatingPointValues := by
  intro sz r wa wb wc i f a b c d nan zero sg inf sum
  have sound : f.Sound := fmtOf_sound sz
  have zero_eq (q : Bool) : (fZero f q, 0) = zero q := congrArg (·, 0) (fZero_eq f q)
  clear_value a b c d f
  refine ⟨fun x y hx hy => ?_, fun x hx => ?_, fun ha => ?_, fun x y hx hy hc => ?_, nan_arithmetic f r, fun ha => ?_, fun h valid => ?_,
    fun nonzero _ _ => fOfInt_delivers sound r nonzero, rfl, fun x hx => ?_, fun hd => ?_, fun hd => ?_⟩
  · simp only [sub_eq_add_neg, ← neg_mul]
    have negated := stands_neg hx
    obtain ⟨add, add_zero⟩ := fAdd_delivers sound r hx hy
    obtain ⟨sub, sub_zero⟩ := fAdd_delivers sound r hx (stands_neg hy)
    obtain ⟨mul, mul_zero⟩ := fMul_delivers sound r hx hy
    obtain ⟨div, div_zero, by_zero, both_zero⟩ := fDiv_delivers sound r hx hy
    refine ⟨add, fun h => (add_zero h).trans (zero_eq _), sub, fun h => (sub_zero h).trans (zero_eq _), mul,
      fun h => (mul_zero h).trans (zero_eq _), div, fun y x => (div_zero y x).trans (zero_eq _), by_zero, both_zero, fun z hz => ?_⟩
    obtain ⟨madd, madd_zero⟩ := fFma_delivers sound r hx hy hz
    obtain ⟨msub, msub_zero⟩ := fFma_delivers sound r hx hy (stands_neg hz)
    obtain ⟨nmadd, nmadd_zero⟩ := fFma_delivers sound r negated hy (stands_neg hz)
    obtain ⟨nmsub, nmsub_zero⟩ := fFma_delivers sound r negated hy hz
    exact ⟨madd, fun h => (madd_zero h).trans (zero_eq _), msub, fun h => (msub_zero h).trans (zero_eq _), nmadd,
      fun h => (nmadd_zero h).trans (zero_eq _), nmsub, fun h => (nmsub_zero h).trans (zero_eq _)⟩
  · obtain ⟨root, root_zero, invalid⟩ := fSqrt_delivers sound r hx
    refine ⟨root, fun h => (root_zero h).trans (zero_eq _), invalid, fToInt_delivers r true hx, fToInt_delivers r false hx, fun hb => ?_⟩
    obtain ⟨s, k, e, rfl, rfl⟩ := stands_parts hx
    obtain ⟨t, rfl⟩ : ∃ t, b = .inf t := ⟨_, hb⟩
    have signs : (fInfW f (t != s), (0 : FFlags)) = (fInfW f (s != t), 0) := by rw [bne_comm]
    simp only [Ne, magnitude_eq_zero]
    refine ⟨rfl, rfl, zero_eq _, signs, fun h => ⟨(if_neg h).trans signs, (if_neg h).trans signs⟩, fun h => ⟨if_pos h, if_pos h, ?_, ?_⟩⟩
    · exact fFma_invalid f r (decide_eq_true h)
    · exact fFma_invalid f r (decide_eq_true h)
  · obtain ⟨s, rfl⟩ : ∃ s, a = .inf s := ⟨_, ha⟩
    refine ⟨rfl, rfl, rfl, fun hb => ?_, fun x hb => ?_⟩
    · obtain ⟨t, rfl⟩ : ∃ t, b = .inf t := ⟨_, hb⟩
      exact ⟨rfl, rfl, rfl⟩
    · have valid : b.isNan = false ∧ prodInvalid (.inf s) b = false := by
        rcases hb with ⟨hy, nonzero⟩ | hb
        · obtain ⟨t, k, e, rfl, rfl⟩ := stands_parts hy
          exact ⟨rfl, decide_eq_false (mt (magnitude_eq_zero ..).mpr nonzero)⟩
        · rw [hb]
          exact ⟨rfl, rfl⟩
      obtain ⟨infinite, finite⟩ := fFma_infinite f r s valid.1 valid.2
      refine ⟨fun hc => ?_, fun z hz => ?_⟩
      · obtain ⟨u, rfl⟩ : ∃ u, c = .inf u := ⟨_, hc⟩
        exact infinite u
      · obtain ⟨u, k, e, rfl, -⟩ := stands_parts hz
        exact finite u k e
  · obtain ⟨s, k, e, rfl, -⟩ := stands_parts hx
    obtain ⟨t, l, g, rfl, -⟩ := stands_parts hy
    obtain ⟨u, rfl⟩ : ∃ u, c = .inf u := ⟨_, hc⟩
    rfl
  · obtain ⟨q, rfl⟩ := FVal.exists_nan ha
    exact ⟨rfl, rfl, rfl⟩
  · exact fFma_nan f r (Bool.eq_false_iff.mpr fun h => valid (prodInvalid_zero h)) h
  · obtain ⟨conv, conv_zero⟩ := fConv_delivers sound r hx
    exact ⟨conv, fun h => (conv_zero h).trans (zero_eq _)⟩
  · obtain ⟨s, rfl⟩ : ∃ s, d = .inf s := ⟨_, hd⟩
    rfl
  · obtain ⟨q, rfl⟩ := FVal.exists_nan hd
    rfl

end

section
open Sys2Proof Sys2Proof.Machine

theorem floatingPointIssueResults : Claim.FloatingPointResults := by
  intro s x sz rm rd ra rb rc r issues direction f a b c ok
  have sets {g : Rm → Thread → Word × FFlags} {v : Word × FFlags} (value : g r (s.m.thread x) = v) (quiet : ok v) :
      s.on (fun m => m.issueFp x rm rd g) = .next (s.setsFp x rd v) := issueFp_sets issues direction value quiet
  exact ⟨sets rfl, sets rfl, sets rfl, sets rfl, sets rfl, sets rfl, sets rfl, sets rfl, sets rfl, sets rfl, sets rfl, sets rfl, sets rfl,
    sets rfl⟩

theorem floatingPointCompletes : Claim.FloatingPointCompletes := by
  intro s x sz rm rd ra rb rc issues named off done
  obtain ⟨r, direction⟩ := Option.isSome_iff_exists.mp named
  have sets {g : Rm → Thread → Word × FFlags} : ∃ v, s.on (fun m => m.issueFp x rm rd g) = .next (s.setsFp x rd v) :=
    ⟨_, issueFp_sets issues direction rfl (fpsTraps_disabled off _)⟩
  exact ⟨sets, sets, sets, sets, sets, sets, sets, sets, sets, sets, sets, sets, sets, sets, sets, sets, sets, sets, sets⟩

/-- Settles O10, by its three parts. -/
theorem floatingPointResults : Obligations.FloatingPointResults := ⟨floatingPointValues, floatingPointIssueResults, floatingPointCompletes⟩

end

namespace Sys2Proof.Machine

/-! The bounds of R157, R165, R169, R290, R293, R388 and R448 as one invariant, `Mach.InBounds`. Each function of the machine keeps it: a
lemma named after the function says so, and the lemmas compose along the definitions. -/

/-- The keys of a map rise, so each is held once. -/
def SMap.Rising {α : Type} (m : SMap α) : Prop := m.Pairwise (fun a b => a.1 < b.1)

theorem SMap.rising_set {α : Type} {m : SMap α} (h : SMap.Rising m) (k : Nat) (v : α) : SMap.Rising (SMap.set m k v) := by
  induction m with
  | nil => exact List.pairwise_singleton _ _
  | cons e r ih =>
    obtain ⟨above, rest⟩ := List.pairwise_cons.mp h
    unfold SMap.set
    split
    next below =>
      refine List.pairwise_cons.mpr ⟨fun a ha => ?_, h⟩
      rcases List.mem_cons.mp ha with rfl | ha
      · exact below
      · exact below.trans (above a ha)
    next notBelow =>
      split
      next same => exact List.pairwise_cons.mpr ⟨same ▸ above, rest⟩
      next other =>
        refine List.pairwise_cons.mpr ⟨fun a ha => ?_, ih rest⟩
        rcases SMap.mem_set ha with rfl | ha
        · show e.1 < k
          omega
        · exact above a ha

/-- The bounded stores of a tile: the journal, its entries numbered below 512, each once, the rollback requests, the summary holds and the
    pending traps. -/
structure TileWithin (journal : SMap JEntry) (rbq : List RbReq) (holds : List SumHold) (pend : List PendTrap) : Prop where
  rising : SMap.Rising journal
  below : ∀ e ∈ journal, e.1 < 512
  rbq : rbq.length ≤ 32
  holds : holds.length ≤ 16
  pend : pend.length ≤ 64

/-- A tile's stores lie within their bounds. It speaks of four fields alone, so it stands as it is for a tile with others changed. -/
def Tile.InBounds (x : Tile) : Prop := TileWithin x.journal x.rbq x.holds x.pend

/-- The memories in canonical form, and the module's queues and tiles within their bounds. -/
structure StoresWithin (mem flash : Mem) (errs : List ErrEntry) (posts : List (BitVec 10 × BitVec 32)) (frames : List (List Byte))
    (tiles : SMap Tile) : Prop where
  mem : Memory.wf mem = true
  flash : Memory.wf flash = true
  errs : errs.length ≤ 32
  posts : posts.length ≤ 64
  frames : frames.length ≤ 32
  tiles : ∀ e ∈ tiles, e.2.InBounds

/-- What every step keeps of a module. It speaks of six fields alone, so it stands as it is for a module with others changed. -/
def Mach.InBounds (m : Mach) : Prop := StoresWithin m.mem m.flash m.err.queue m.sched.postQ m.evFrames m.tiles

theorem Mach.inBounds_iff (m : Mach) : m.InBounds ↔ m.memOk = true ∧ m.bounded = true := by
  simp only [Mach.memOk, Mach.bounded, Bool.and_eq_true, decide_eq_true_eq, List.all_eq_true, List.pairwise_map]
  constructor
  · rintro ⟨mem, flash, errs, posts, frames, tiles⟩
    refine ⟨⟨mem, flash⟩, ⟨⟨errs, posts⟩, frames⟩, fun e he => ?_⟩
    obtain ⟨rising, below, rbq, holds, pend⟩ := tiles e he
    exact ⟨⟨⟨⟨rising, below⟩, rbq⟩, holds⟩, pend⟩
  · rintro ⟨⟨mem, flash⟩, ⟨⟨errs, posts⟩, frames⟩, tiles⟩
    refine ⟨mem, flash, errs, posts, frames, fun e he => ?_⟩
    obtain ⟨⟨⟨⟨rising, below⟩, rbq⟩, holds⟩, pend⟩ := tiles e he
    exact ⟨rising, below, rbq, holds, pend⟩

/-- What a firing's read of the module memory leaves is within its bounds. -/
def Mach.HbmRead.InBounds : Mach.HbmRead → Prop
  | .waits => True
  | .cut m | .lost m | .ok m => m.InBounds

theorem Tile.inBounds_default : ({} : Tile).InBounds := ⟨List.Pairwise.nil, by simp, by simp, by simp, by simp⟩

namespace Tile.InBounds
variable {x : Tile}

theorem withDeepQ {q} (h : x.InBounds) : ({ x with deepQ := q } : Tile).InBounds := h

theorem journal_filter {p : Nat × JEntry → Bool} (h : x.InBounds) : ({ x with journal := x.journal.filter p } : Tile).InBounds :=
  { h with
    rising := List.Pairwise.filter p (TileWithin.rising h)
    below := fun e he => TileWithin.below h e (List.mem_of_mem_filter he) }

theorem journal_map {f : Nat × JEntry → Nat × JEntry} (h : x.InBounds) (keys : ∀ e, (f e).1 = e.1) :
    ({ x with journal := x.journal.map f } : Tile).InBounds := by
  refine { h with rising := ?_, below := fun x hx => ?_ }
  · exact List.pairwise_map.mpr ((TileWithin.rising h).imp fun lt => by rwa [keys, keys])
  · obtain ⟨e, he, rfl⟩ := List.mem_map.mp hx
    exact (keys e).trans_lt (TileWithin.below h e he)

end Tile.InBounds

namespace Mach.InBounds
variable {m : Mach} {s : State}

theorem tile (h : m.InBounds) (t : TileId) : (m.tile t).InBounds := by
  unfold Mach.tile SMap.getD
  cases found : SMap.get? m.tiles t.toNat with
  | none => exact Tile.inBounds_default
  | some x => exact StoresWithin.tiles h _ (SMap.mem_of_get? found)

theorem setTile {t : TileId} {x : Tile} (h : m.InBounds) (hx : x.InBounds) : (m.setTile t x).InBounds := by
  refine { h with tiles := fun e he => ?_ }
  rcases SMap.mem_set he with rfl | he
  · exact hx
  · exact StoresWithin.tiles h e he

theorem modTile {t : TileId} {f : Tile → Tile} (h : m.InBounds) (keeps : ∀ x : Tile, x.InBounds → (f x).InBounds) :
    (m.modTile t f).InBounds := h.setTile (keeps _ (h.tile t))

theorem withMem {x : Mem} (h : m.InBounds) (keeps : Memory.wf m.mem = true → Memory.wf x = true) :
    ({ m with mem := x } : Mach).InBounds := { h with mem := keeps (StoresWithin.mem h) }

theorem posts (h : m.InBounds) : m.sched.postQ.length ≤ 64 := StoresWithin.posts h

theorem ite {c : Prop} {_ : Decidable c} {a b : Mach} (ha : a.InBounds) (hb : b.InBounds) : (if c then a else b).InBounds := by
  split
  · exact ha
  · exact hb

theorem iteSnd {α : Type} {c : Prop} {_ : Decidable c} {a b : α × Mach} (ha : a.2.InBounds) (hb : b.2.InBounds) :
    (if c then a else b).2.InBounds := by
  split
  · exact ha
  · exact hb

theorem iteFst {α : Type} {c : Prop} {_ : Decidable c} {a b : Mach × α} (ha : a.1.InBounds) (hb : b.1.InBounds) :
    (if c then a else b).1.InBounds := by
  split
  · exact ha
  · exact hb

theorem iteSome {c : Prop} {_ : Decidable c} {a b : Option Mach} {m' : Mach} (ha : a = some m' → m'.InBounds)
    (hb : b = some m' → m'.InBounds)
    (e : (if c then a else b) = some m') : m'.InBounds := by
  split at e
  · exact ha e
  · exact hb e

theorem ofSome {m' : Mach} (h : m.InBounds) (e : some m = some m') : m'.InBounds := Option.some.inj e ▸ h

theorem ofNone {m' : Mach} (e : none = some m') : m'.InBounds := nomatch e

theorem pair {α : Type} {a : α} (h : m.InBounds) : (a, m).2.InBounds := h

theorem foldl {α : Type} {f : Mach → α → Mach} {l : List α} (h : m.InBounds) (keeps : ∀ m a, m.InBounds → (f m a).InBounds) :
    (l.foldl f m).InBounds := by
  induction l generalizing m with
  | nil => exact h
  | cons a l ih => exact ih (keeps m a h)

theorem sndOf {α : Type} {p : α × Mach} {a : α} {m' : Mach} (h : p.2.InBounds) (e : p = (a, m')) : m'.InBounds := by
  rwa [e] at h

theorem fstOf {α : Type} {p : Mach × α} {a : α} {m' : Mach} (h : p.1.InBounds) (e : p = (m', a)) : m'.InBounds := by
  rwa [e] at h

theorem foldlSnd {α β : Type} {f : β × Mach → α → β × Mach} {l : List α} {b : β} (h : m.InBounds)
    (keeps : ∀ acc a, acc.2.InBounds → (f acc a).2.InBounds) : (l.foldl f (b, m)).2.InBounds := by
  suffices ∀ acc : β × Mach, acc.2.InBounds → (l.foldl f acc).2.InBounds from this _ h
  induction l with
  | nil => exact fun acc h => h
  | cons a l ih => exact fun acc h => ih _ (keeps acc a h)

theorem foldlFst {α β : Type} {f : Mach × β → α → Mach × β} {l : List α} {b : β} (h : m.InBounds)
    (keeps : ∀ acc a, acc.1.InBounds → (f acc a).1.InBounds) : (l.foldl f (m, b)).1.InBounds := by
  suffices ∀ acc : Mach × β, acc.1.InBounds → (l.foldl f acc).1.InBounds from this _ h
  induction l with
  | nil => exact fun acc h => h
  | cons a l ih => exact fun acc h => ih _ (keeps acc a h)

/-! What the module reports, and the queues it reports to -/

theorem evFrame {b} (h : m.InBounds) : (m.evFrame b).InBounds := by
  unfold Mach.evFrame
  split
  next room => exact { h with frames := by simpa using room }
  next full => exact h

theorem raiseSource {n} (h : m.InBounds) : (m.raiseSource n).InBounds := by
  obtain ⟨_, _, _, _, e⟩ := m.raiseSource_eq n
  exact e ▸ h

theorem setEvt {fn v} (h : m.InBounds) : (m.setEvt fn v).InBounds := by
  obtain ⟨_, _, _, _, e⟩ := m.setEvt_eq fn v
  exact e ▸ h

theorem errWrite {e} (h : m.InBounds) : (m.errWrite e).InBounds := by
  unfold Mach.errWrite
  dsimp only
  split
  · exact h
  · refine evFrame (setEvt (raiseSource ?_))
    exact h

theorem insertBy_length {α : Type} (lt : α → α → Bool) (x : α) (l : List α) : (insertBy lt x l).length = l.length + 1 := by
  induction l with
  | nil => rfl
  | cons y r ih =>
    unfold insertBy
    split
    · rfl
    · simp [ih]

theorem logErr {sev block reason j loc d0 d1 d2 d3 perm} (h : m.InBounds) :
    (m.logErr sev block reason j loc d0 d1 d2 d3 perm).InBounds := by
  unfold Mach.logErr
  dsimp only
  split
  · exact h.errWrite
  · split
    next room => exact { h with errs := (insertBy_length ..).trans_le room }
    next full => exact h

theorem requestPost {src} (h : m.InBounds) : (m.requestPost src).InBounds := by
  unfold Mach.requestPost
  dsimp only
  split
  · exact h
  · exact ite h h

/-! Fields the bounds do not speak of, and values that hold a module -/

theorem tiles_map {f : Nat × Tile → Nat × Tile} (h : m.InBounds) (keeps : ∀ e : Nat × Tile, e.2.InBounds → (f e).2.InBounds) :
    ({ m with tiles := m.tiles.map f } : Mach).InBounds := by
  refine { h with tiles := fun x hx => ?_ }
  obtain ⟨e, he, rfl⟩ := List.mem_map.mp hx
  exact keeps e (StoresWithin.tiles h e he)

theorem withFree {x} (h : m.InBounds) : ({ m with free := x } : Mach).InBounds := h

theorem withEpoch {x} (h : m.InBounds) : ({ m with epoch := x } : Mach).InBounds := h

theorem withRepairLog {x} (h : m.InBounds) : ({ m with repairLog := x } : Mach).InBounds := h

theorem memFilter {p} (h : m.InBounds) : ({ m with mem := m.mem.filter p } : Mach).InBounds := h.withMem (Mem.filter_wfFrom _ _)

theorem withJobs {x} (h : m.InBounds) : ({ m with jobs := x } : Mach).InBounds := h

theorem withLost {x} (h : m.InBounds) : ({ m with lost := x } : Mach).InBounds := h

theorem withPmsgs {x} (h : m.InBounds) : ({ m with pmsgs := x } : Mach).InBounds := h

theorem withTgt {x} (h : m.InBounds) : ({ m with tgt := x } : Mach).InBounds := h

theorem withNet {x y} (h : m.InBounds) : ({ m with net := x, govLeft := y } : Mach).InBounds := h

theorem withSnap {x y z} (h : m.InBounds) : ({ m with wave := x, ports := y, lost := z } : Mach).InBounds := h

theorem ofGetD {o : Option Mach} (h : m.InBounds) (keeps : ∀ m', o = some m' → m'.InBounds) : (o.getD m).InBounds := by
  cases o with
  | none => exact h
  | some m' => exact keeps m' rfl

theorem withLockWake {x} (h : m.InBounds) : ({ m with lockWake := x } : Mach).InBounds := h

theorem withFlRt {x} (h : m.InBounds) : ({ m with flRt := x } : Mach).InBounds := h

theorem withObjLen {x} (h : m.InBounds) : ({ m with objLen := x } : Mach).InBounds := h

theorem iteState {c : Prop} {_ : Decidable c} {a b : State} (ha : a.m.InBounds) (hb : b.m.InBounds) : (if c then a else b).m.InBounds := by
  split
  · exact ha
  · exact hb

theorem withEvLost {x} (h : m.InBounds) : ({ m with evLost := x } : Mach).InBounds := h

theorem withErrSel {x} (h : m.InBounds) : ({ m with err := { m.err with sel := x } } : Mach).InBounds := h

theorem withErrLog {x} (h : m.InBounds) : ({ m with err := { m.err with log := x } } : Mach).InBounds := h

theorem withTestOpen {x} (h : m.InBounds) : ({ m with testOpen := x } : Mach).InBounds := h

theorem withFeatures {x} (h : m.InBounds) : ({ m with features := x } : Mach).InBounds := h

/-- An answer of the state control keeps the bounds. -/
theorem answered {e : Err} (h : m.InBounds) : ((e, { s with m := m }) : Err × State).2.m.InBounds := h

theorem iteLift {c : Prop} {_ : Decidable c} {a b : Err × State} (ha : a.2.m.InBounds) (hb : b.2.m.InBounds) :
    (if c then a else b).2.m.InBounds := by
  split
  · exact ha
  · exact hb

theorem withPeers {x y z} (h : m.InBounds) : ({ m with peerWait := x, peerHold := y, peerWakes := z } : Mach).InBounds := h

theorem withMap {x} (h : m.InBounds) : ({ m with map := x } : Mach).InBounds := h

theorem withAgent {x} (h : m.InBounds) : ({ m with agent := x } : Mach).InBounds := h

theorem withAgentQ {x} (h : m.InBounds) : ({ m with agentQ := x } : Mach).InBounds := h

theorem bindOk {α : Type} {x : Load α} {f : α → Load Mach} {m' : Mach} (keeps : ∀ a, f a = .ok m' → m'.InBounds) (e : x >>= f = .ok m') :
    m'.InBounds := by
  cases x with
  | error c => nomatch e
  | ok a => exact keeps a e

theorem withLoads {x} (h : m.InBounds) : ({ m with loads := x } : Mach).InBounds := h

theorem withSop {x} (h : m.InBounds) : ({ m with sop := x } : Mach).InBounds := h

theorem withMps {x} (h : m.InBounds) : ({ m with mps := x } : Mach).InBounds := h

theorem withBusOff {x y} (h : m.InBounds) : ({ m with busOff := x, free := y } : Mach).InBounds := h

/-! The named operations -/

theorem setPe {p x} (h : m.InBounds) : (m.setPe p x).InBounds := h

theorem modPe {p f} (h : m.InBounds) : (m.modPe p f).InBounds := h.setPe

theorem modCluster {c f} (h : m.InBounds) : (m.modCluster c f).InBounds := h

theorem modJob {j f} (h : m.InBounds) : (m.modJob j f).InBounds := h

theorem setCore {c x} (h : m.InBounds) : (m.setCore c x).InBounds := h

theorem drawWord (h : m.InBounds) : (m.drawWord).2.InBounds := h

theorem setObj {i s v} (h : m.InBounds) : (m.setObj i s v).InBounds := h

theorem count {i s n} (h : m.InBounds) : (m.count i s n).InBounds := h.setObj

theorem countJ {base j s n} (h : m.InBounds) : (m.countJ base j s n).InBounds := .ite h h.count

theorem clearIdx {i} (h : m.InBounds) : (m.clearIdx i).InBounds := h

theorem hwSet {f b} (h : m.InBounds) : (m.hwSet f b).InBounds := h

theorem wakeCores (h : m.InBounds) : m.wakeCores.InBounds := h

theorem modIc {f} (h : m.InBounds) : (m.modIc f).InBounds := .wakeCores h

theorem upstream {job bytes x pair} (h : m.InBounds) : (m.upstream job bytes x pair).InBounds := h

theorem hostWrites {job fn addr data pair} (h : m.InBounds) : (m.hostWrites job fn addr data pair).InBounds :=
  h.foldl (fun _ _ h => h.upstream)

theorem upWindow (h : m.InBounds) : m.upWindow.InBounds := h

theorem send {x} (h : m.InBounds) : (m.send x).InBounds := h

theorem modFunc {fn f} (h : m.InBounds) : (m.modFunc fn f).InBounds := h

theorem msi {fn vec job} (h : m.InBounds) : (m.msi fn vec job).InBounds := .ite h.modFunc (.ite h.modFunc h.upstream)

theorem ringRecord {ring r} (h : m.InBounds) : (m.ringRecord ring r).InBounds := .ite (.raiseSource h) h

/-! Memories under their codes -/

theorem modMs {f} (h : m.InBounds) : (m.modMs f).InBounds := h

theorem halfClear {h₀} (h : m.InBounds) : (m.halfClear h₀).InBounds := h.modMs

theorem logHalf {h₀ f} (h : m.InBounds) : (m.logHalf h₀ f).InBounds := h.logErr

theorem halfPoison {h₀} (h : m.InBounds) : (m.halfPoison h₀).InBounds := h.halfClear.modMs.logHalf

theorem halfRead {h₀} (h : m.InBounds) : (m.halfRead h₀).2.InBounds := by
  unfold Mach.halfRead
  dsimp only
  split
  · exact h
  · exact h.halfClear.count
  · exact h.count
  · exact h.count.logHalf.raiseSource

theorem hbmCheck {a n} (h : m.InBounds) : (m.hbmCheck a n).2.InBounds := by
  unfold Mach.hbmCheck
  split
  · exact h
  · refine h.foldlSnd ?_
    intro _ _ h
    split
    next found => exact h.halfRead.sndOf found

theorem halfInject {h₀} (h : m.InBounds) : (m.halfInject h₀).InBounds := by
  refine .ite (.modMs ?_) ?_
  all_goals
    split
    · exact h.modMs
    · exact h

theorem hbmWrite {a d} (h : m.InBounds) : (m.hbmWrite a d).InBounds := by
  refine .withMem (h.foldl (fun _ _ h => ?_)) (memWrite_wf _ _ _)
  refine .halfInject (.ite h.halfClear (.ite (.halfPoison ?_) ?_))
  all_goals
    split
    · exact h.count
    · exact h.count.halfClear.count
    · exact h.count.count
    · exact h.count.count.logHalf.raiseSource

theorem hubWordRead {a} (h : m.InBounds) : (m.hubWordRead a).2.InBounds := by
  unfold Mach.hubWordRead
  dsimp only
  split
  · exact h
  · exact h.modMs.count
  · exact h.count
  · exact h.count.logErr.raiseSource

theorem logPoison {block loc data} (h : m.InBounds) : (m.logPoison block loc data).InBounds := h.logErr

theorem hubWordWrite {a d} (h : m.InBounds) : (m.hubWordWrite a d).InBounds := by
  refine .withMem (.ite h.modMs (.ite (.logPoison (.modMs ?_)) ?_)) (memWrite_wf _ _ _)
  all_goals
    split
    · exact h.count
    · exact h.count.modMs.count
    · exact h.count.count
    · exact h.count.count.logErr.raiseSource

theorem hubWords {a d} (h : m.InBounds) : (m.hubWords a d).InBounds := h.withMem (memWrite_wf _ _ _)

theorem hubWrite {a d} (h : m.InBounds) : (m.hubWrite a d).InBounds := by
  unfold Mach.hubWrite
  extract_lets part head rest body m1 m2
  have parts {m : Mach} {a : Nat} {d : List Byte} (h : m.InBounds) : (part m a d).InBounds := .ite h h.hubWordWrite
  have h2 : m2.InBounds := .ite (parts h) (parts h).hubWords
  exact parts h2

theorem memFold_wf {α : Type} {g : Mem → α → Mem} {l : List α} (mem : Mem) (h : Memory.wf mem = true)
    (keeps : ∀ mem a, Memory.wf mem = true → Memory.wf (g mem a) = true) : Memory.wf (l.foldl g mem) = true := by
  induction l generalizing mem with
  | nil => exact h
  | cons a l ih => exact ih _ (keeps _ a h)

theorem setUnit {u d} (h : m.InBounds) : (m.setUnit u d).InBounds := h.withMem fun wf => memFold_wf _ wf fun _ _ => memWrite_wf _ _ _

theorem hbmZeroNow {a n} (h : m.InBounds) : (m.hbmZeroNow a n).InBounds :=
  .foldl (.modMs (h.withMem (memZero_wf _ _ _))) (fun _ _ h => h.halfInject)

theorem hbmZero {a n} (h : m.InBounds) : (m.hbmZero a n).InBounds := .ite h.modMs h.hbmZeroNow

theorem zeroEnds (h : m.InBounds) : m.zeroEnds.InBounds := h.modMs.foldl (fun _ _ h => h.hbmZero)

theorem logRemap {e w} (h : m.InBounds) : (m.logRemap e w).InBounds := h.logErr

theorem setCh {die h₀ w} (h : m.InBounds) : (m.setCh die h₀ w).InBounds := h.modMs

theorem patchInstall {die e loc lost} (h : m.InBounds) : (m.patchInstall die e loc lost).InBounds :=
  .logErr (.ite h.modMs.logPoison h.modMs)

theorem repairNote {r} (h : m.InBounds) : (m.repairNote r).InBounds := .ite h h

theorem patchLimit {die loc h₀ n} (h : m.InBounds) : (m.patchLimit die loc h₀ n).InBounds := by
  refine .ite h (.ite h.setCh ?_)
  split
  · exact h.patchInstall.repairNote.setCh
  · exact h.logErr

theorem history {die loc} (h : m.InBounds) : (m.history die loc).InBounds := by
  unfold Mach.history
  dsimp only
  split
  · exact .ite h.setCh.logErr.raiseSource.patchLimit h.setCh
  · split
    · exact .ite h.setCh.hwSet.logErr.logErr.raiseSource.patchLimit h.setCh.hwSet.logErr
    · split
      · exact .ite h.setCh.hwSet.logErr.raiseSource.patchLimit h.setCh.hwSet
      · exact h

theorem sramCorrected {die loc} (h : m.InBounds) : (m.sramCorrected die loc).InBounds := .ite h.count.history h.count.history.modMs

theorem sramWrite {die loc} (h : m.InBounds) : (m.sramWrite die loc).InBounds := h.modMs

theorem sramPut {t kind unit l} (h : m.InBounds) : (m.sramPut t kind unit l).InBounds := .ite h (h.foldl (fun _ _ h => h.sramWrite))

theorem hbmWords {a ws} (h : m.InBounds) : (m.hbmWords a ws).InBounds := h.hbmWrite

/-! Node records and memory -/

theorem lineWrite {a v} (h : m.InBounds) : (m.lineWrite a v).InBounds :=
  .withMem (.ite h (h.foldl (fun _ _ h => h.halfClear.halfInject))) (memSetWord_wf _ _ _)

theorem cacheWrite {p k} (h : m.InBounds) : (m.cacheWrite p k).InBounds := .ite h (.sramPut h)

theorem setRecW {r k v} (h : m.InBounds) : (m.setRecW r k v).InBounds := h.cacheWrite.lineWrite

theorem setSetlW {r k l} (h : m.InBounds) : (m.setSetlW r k l).InBounds := h.hbmWrite

theorem setLast {r t} (h : m.InBounds) : (m.setLast r t).InBounds := h.setRecW.setRecW

theorem advanceGen {r} (h : m.InBounds) : (m.advanceGen r).InBounds := h.setRecW

theorem setHeld {r k a b} (h : m.InBounds) : (m.setHeld r k a b).InBounds := h.cacheWrite.lineWrite.cacheWrite.lineWrite

theorem setSettled {r k a b t} (h : m.InBounds) : (m.setSettled r k a b t).InBounds := h.setSetlW.setSetlW.setSetlW.setSetlW

theorem setSft {r t} (h : m.InBounds) : (m.setSft r t).InBounds := h.setSetlW

theorem setPinRbc {r p n} (h : m.InBounds) : (m.setPinRbc r p n).InBounds := h.setSetlW

theorem setLe {r t} (h : m.InBounds) : (m.setLe r t).InBounds := h.setSetlW

theorem setWt {r t} (h : m.InBounds) : (m.setWt r t).InBounds := h.setSetlW

theorem tgtStore {j i t a b} (h : m.InBounds) : (m.tgtStore j i t a b).InBounds := h

theorem tgtForward {r port old t a b} (h : m.InBounds) : (m.tgtForward r port old t a b).InBounds :=
  .ite h (h.foldl (fun _ _ h => .ite (.tgtStore (.ite h.tgtStore h)) h))

theorem settle {r port a b t} (h : m.InBounds) : (m.settle r port a b t).InBounds := h.setSettled.tgtForward

/-! Groups and their entries -/

theorem putWords {p pl i ws} (h : m.InBounds) : (m.putWords p pl i ws).InBounds := by
  unfold Mach.putWords
  split
  · exact h.sramPut
  · exact h.sramPut
  · exact h

theorem deepReq {p i j} (h : m.InBounds) : (m.deepReq p i j).InBounds := by
  refine h.modTile ?_
  exact fun x h => by split <;> exact h

theorem storeEnt {p pl i e} (h : m.InBounds) : (m.storeEnt p pl i e).InBounds := by
  unfold Mach.storeEnt
  split
  · exact h.modPe
  · exact h.modCluster
  · split
    · exact .deepReq (.hbmWords (h.modTile fun _ h => h))
    · exact h.modTile fun _ h => h.withDeepQ

theorem putEnt {p pl i e} (h : m.InBounds) : (m.putEnt p pl i e).InBounds := h.storeEnt.putWords

theorem dropEnt {p pl i} (h : m.InBounds) : (m.dropEnt p pl i).InBounds := by
  unfold Mach.dropEnt
  split
  · exact h.modPe.putWords
  · exact h.modCluster.putWords
  · split
    · split
      · exact .deepReq (.hbmWords (h.modTile fun _ h => h))
      · exact h
    · exact h.modTile fun _ h => h.withDeepQ

theorem deepSync {a n} (h : m.InBounds) : (m.deepSync a n).InBounds := .ite h (h.foldl (fun _ _ h => h.modTile (fun _ h => h)))

theorem modHead {p pl g f} (h : m.InBounds) : (m.modHead p pl g f).InBounds := by
  unfold Mach.modHead
  split
  · exact h.storeEnt.putWords
  · exact h

theorem hregAdd {p pl g} (h : m.InBounds) : (m.hregAdd p pl g).InBounds := by
  unfold Mach.hregAdd
  split
  · exact h
  · exact h.modCluster
  · exact h.modTile (fun _ h => h)

theorem hregRemove {p pl g} (h : m.InBounds) : (m.hregRemove p pl g).InBounds := by
  unfold Mach.hregRemove
  split
  · exact h
  · exact h.modCluster
  · exact h.modTile (fun _ h => h)

theorem ovfInc {p pl g} (h : m.InBounds) : (m.ovfInc p pl g).InBounds := by
  unfold Mach.ovfInc
  split
  · split
    · exact h
    · exact h.modPe
    · exact h.modCluster

theorem ovfFreed {p pl g} (h : m.InBounds) : (m.ovfFreed p pl g).InBounds := by
  unfold Mach.ovfFreed
  split
  · split
    · exact h
    · exact h.modPe
    · exact h.modCluster.modPe

theorem freeEnt {p pl i e} (h : m.InBounds) : (m.freeEnt p pl i e).InBounds := by
  unfold Mach.freeEnt
  split
  · dsimp only
    split
    · exact h.dropEnt.ovfFreed.hregRemove
    · exact h.dropEnt.putEnt
  · dsimp only
    split
    · exact h.dropEnt.ovfFreed.hregRemove
    · exact h.dropEnt

theorem freeGroup {p pl g} (h : m.InBounds) : (m.freeGroup p pl g).InBounds :=
  .ite (h.foldl (fun _ _ h => h.dropEnt)) (.hregRemove (.ovfFreed (h.foldl (fun _ _ h => h.dropEnt))))

theorem spillEnd {p} (h : m.InBounds) : (m.spillEnd p).InBounds := .ite h.setPe h

theorem dropDesc {p g} (h : m.InBounds) : (m.dropDesc p g).InBounds := by
  unfold Mach.dropDesc
  dsimp only
  split
  · exact .spillEnd (h.modPe.modTile (fun _ h => h))
  · exact h.modPe

theorem setGState {p pl g s} (h : m.InBounds) : (m.setGState p pl g s).InBounds := h.modHead

theorem withdraw {p pl g} (h : m.InBounds) : (m.withdraw p pl g).InBounds := h.dropDesc.setGState.countJ

theorem requestRb {r k anti who} (h : m.InBounds) : (m.requestRb r k anti who).InBounds := by
  unfold Mach.requestRb
  refine .ite h ?_
  dsimp only
  split
  next room => exact h.setTile { h.tile _ with rbq := by simpa using room.2 }
  · exact ringRecord (h.setTile (h.tile _))

theorem evalReady {p g} (h : m.InBounds) : (m.evalReady p g).InBounds := by
  unfold Mach.evalReady
  split
  · exact h
  · split
    · exact h
    · split
      · exact .ite h.modPe h
      · exact .ite h h.withdraw
      · exact h

/-! Voltage and droop -/

theorem modPw {f} (h : m.InBounds) : (m.modPw f).InBounds := h

theorem modAvs {t f} (h : m.InBounds) : (m.modAvs t f).InBounds := h.modPw

theorem avsRead {t} (h : m.InBounds) : (m.avsRead t).InBounds := h.modAvs

theorem droop {t} (h : m.InBounds) : (m.droop t).InBounds := .modAvs h

theorem wear {t} (h : m.InBounds) : (m.wear t).InBounds := .ite h h.modAvs.modPw.logErr

theorem avsWindow {t slack} (h : m.InBounds) : (m.avsWindow t slack).InBounds :=
  .ite (.ite h.modAvs.modAvs.wear h.modAvs.modAvs) (.ite (.ite h.modAvs.modAvs h.modAvs.modAvs) h.modAvs.modAvs)

theorem calibrate {l} (h : m.InBounds) : (m.calibrate l).InBounds := h.modPw.foldl (fun _ _ h => .modAvs h)

/-! Queues, slots and credits -/

theorem setQueue {q l} (h : m.InBounds) : (m.setQueue q l).InBounds := h

theorem enq {q p dest} (h : m.InBounds) : (m.enq q p dest).InBounds := h.setQueue

theorem deq {q} (h : m.InBounds) : (m.deq q).InBounds := h.setQueue

theorem modStop {die s f} (h : m.InBounds) : (m.modStop die s f).InBounds := h

theorem writeSwitch {die s v} (h : m.InBounds) : (m.writeSwitch die s v).InBounds := h

theorem freeSlot {src slot} (h : m.InBounds) : (m.freeSlot src slot).InBounds := .ite h (h.modTile (fun _ h => h))

theorem releaseSlot {die s src slot absorbed} (h : m.InBounds) : (m.releaseSlot die s src slot absorbed).InBounds := by
  refine .ite h.freeSlot (.ite h.modStop ?_)
  split
  · exact h.setQueue
  · exact .ite h.enq h.modStop

theorem offerReleases {die s} (h : m.InBounds) : (m.offerReleases die s).InBounds := h.modStop.foldl (fun _ _ h => h.releaseSlot)

theorem releaseItem {p i} (h : m.InBounds) : (m.releaseItem p i).InBounds := h.releaseSlot

theorem intoDie {p} (h : m.InBounds) : (m.intoDie p).InBounds := h.enq

theorem hubRespond {me h₀ cmd xst data} (h : m.InBounds) : (m.hubRespond me h₀ cmd xst data).InBounds := h.intoDie

theorem offerProbes {die x} (h : m.InBounds) : (m.offerProbes die x).InBounds := by
  unfold Mach.offerProbes
  refine .ite h (h.foldl fun m x h => ?_)
  split
  · exact h
  · exact .ite (withPmsgs h.enq) h

theorem endProbe {die s tid} (h : m.InBounds) : (m.endProbe die s tid).InBounds := h

theorem endReq {t tid} (h : m.InBounds) : (m.endReq t tid).InBounds := h.modTile (fun _ h => h)

/-! Writes of journaled state -/

theorem mergeJournaled {r o} (h : m.InBounds) : (m.mergeJournaled r o).InBounds := by
  refine h.foldl fun _ x h => .sramPut (h.modTile fun _ h => h.journal_map fun e => ?_)
  dsimp only
  split
  · rfl
  · split <;> rfl

theorem probeSend {x} (h : m.InBounds) : (m.probeSend x).InBounds := h

theorem formItems {r kind sel ctag tag gen ord fs a b} (h : m.InBounds) : (m.formItems r kind sel ctag tag gen ord fs a b).InBounds :=
  h.foldl (fun _ _ h => h.probeSend)

theorem emitHeld {r k fs a b tag gen} (h : m.InBounds) : (m.emitHeld r k fs a b tag gen).InBounds := by
  unfold Mach.emitHeld
  extract_lets a m1
  have h1 : m1.InBounds := h.setHeld
  exact .ite h1 h1.formItems

theorem emitState {r w v tag gen} (h : m.InBounds) : (m.emitState r w v tag gen).InBounds := by
  unfold Mach.emitState
  extract_lets a m1
  have h1 : m1.InBounds := h.setRecW
  exact .ite h1 h1.formItems

theorem emitArrived {r e} (h : m.InBounds) : (m.emitArrived r e).InBounds := by
  unfold Mach.emitArrived
  extract_lets m1
  have h1 : m1.InBounds := h.foldl fun _ _ h => .ite h.emitHeld.settle h.emitHeld
  exact .ite h1.setSft h1

theorem storeToMem {r s} (h : m.InBounds) : (m.storeToMem r s).InBounds := h.hbmWrite

theorem writeJournal {r e} (h : m.InBounds) : (m.writeJournal r e).InBounds := by
  refine .sramPut (h.modTile fun _ h => h.journal_map fun e => ?_)
  dsimp only
  split <;> rfl

theorem commandDone {r tag} (h : m.InBounds) : (m.commandDone r tag).InBounds := h.setSft.setLast.countJ

theorem command {r e t} (h : m.InBounds) : (m.command r e t).InBounds := by
  unfold Mach.command
  split
  · exact h.emitHeld.settle.commandDone
  · exact h.emitState.commandDone
  · exact h.modJob.commandDone

theorem emitRecord {r e x ord} (h : m.InBounds) : (m.emitRecord r e x ord).InBounds :=
  .foldl (.ite (.countJ (.ite h.countJ h)) (.ite h.countJ h)) (fun _ _ h => h.formItems)

theorem emitBegin {r e} (h : m.InBounds) : (m.emitBegin r e).InBounds := by
  unfold Mach.emitBegin
  split
  · exact h.command
  · exact h
  · extract_lets m1
    have h1 : m1.InBounds := .ite h h.writeJournal
    exact h1.emitArrived.countJ
  · extract_lets m1 sw m2 m3 m4 m5
    have h1 : m1.InBounds := .ite h h.writeJournal
    have h3 : m3.InBounds := emitArrived (h1.foldl fun _ _ h => .ite h.emitState h.countJ)
    have h4 : m4.InBounds := .ite (h3.foldl fun _ _ h => h.storeToMem.mergeJournaled) h3
    have h5 : m5.InBounds := h4.foldl fun _ _ h => h.emitRecord
    exact .ite h5.commandDone h5

/-! Journals, jobs and faults -/

theorem freedSignal {t} (h : m.InBounds) : (m.freedSignal t).InBounds := h

theorem freeEntries {t l} (h : m.InBounds) : (m.freeEntries t l).InBounds :=
  .ite h (.freedSignal (.sramPut (h.modTile fun _ h => h.journal_filter)))

theorem restoreState {r es} (h : m.InBounds) : (m.restoreState r es).InBounds := h.foldl (fun _ _ h => h.setRecW)

theorem rebuildHeld {r t} (h : m.InBounds) : (m.rebuildHeld r t).InBounds := by
  refine .setLast (h.foldl ?_)
  intro _ _ h
  split
  · split
    · dsimp only
      split
      all_goals exact h.setHeld
    · dsimp only
      split
      all_goals exact h.setHeld

theorem rebuildLast {r t} (h : m.InBounds) : (m.rebuildLast r t).InBounds := h.setLast

theorem foldGroup {p pl g} (h : m.InBounds) : (m.foldGroup p pl g).InBounds := .setSft (h.foldl (fun _ _ h => .ite h.settle h))

theorem absorbCount {j n} (h : m.InBounds) : (m.absorbCount j n).InBounds := h.countJ

theorem absorbJob {j} (h : m.InBounds) : (m.absorbJob j).InBounds := by
  refine h.foldl (fun _ _ h => ?_)
  refine .modTile (.spillEnd (.modPe (h.foldl (fun _ _ h => h.absorbCount.foldl (fun _ _ h => h.freeGroup))))) ?_
  exact fun x h => { h with rbq := (List.length_filter_le _ _).trans h.rbq }

theorem undone {j t n} (h : m.InBounds) : (m.undone j t n).InBounds := .ite h (h.countJ.modTile (fun _ h => h))

theorem undoLost {t e} (h : m.InBounds) : (m.undoLost t e).2.InBounds := by
  refine h.foldlSnd fun acc w h => ?_
  dsimp only
  split
  · exact h.sramCorrected
  · exact h.count
  · exact h.count.logErr
  · exact h

theorem undoFiring {r es} (h : m.InBounds) : (m.undoFiring r es).InBounds :=
  .ite (.modJob (h.foldlSnd (fun _ _ h => h.undoLost))) (.restoreState (h.foldlSnd (fun _ _ h => h.undoLost)))

theorem undoJob {j} (h : m.InBounds) : (m.undoJob j).InBounds := by
  refine h.foldl fun m i h => ?_
  extract_lets t specs late nodes m1 m2 gone m3
  have h2 : m2.InBounds := (h.foldl fun _ _ h => h.undoFiring).foldl fun _ _ h => h.rebuildHeld
  have h3 : m3.InBounds := h2.freeEntries.countJ.undone
  exact h3.modTile fun _ h => { h with pend := (List.length_filter_le _ _).trans (TileWithin.pend h) }

theorem abandonJob {j} (h : m.InBounds) : (m.abandonJob j).InBounds :=
  h.foldl (fun _ _ h => .modPe (h.undone.foldl (fun _ _ h => h.emitBegin)))

theorem setMState {v} (h : m.InBounds) : (m.setMState v).InBounds := .ite h (.evFrame (.setEvt h))

theorem setJobState {j s} (h : m.InBounds) : (m.setJobState j s).InBounds :=
  .ite h (.ite h.modJob.setEvt.evFrame.setMState h.modJob.setEvt.evFrame)

theorem completeCmd {k status result} (h : m.InBounds) : (m.completeCmd k status result).InBounds := by
  unfold Mach.completeCmd
  split
  · split
    all_goals exact h
  · exact h

theorem endWaits {j} (h : m.InBounds) : (m.endWaits j).InBounds :=
  .foldl (.foldl (.ite h h.modJob) (fun _ _ h => h.completeCmd)) (fun _ _ h => h.completeCmd)

theorem closeSoon {j} (h : m.InBounds) : (m.closeSoon j).InBounds := h

theorem faultJob {j reason block loc d0 d1 d2 d3} (h : m.InBounds) : (m.faultJob j reason block loc d0 d1 d2 d3).InBounds := by
  unfold Mach.faultJob
  refine .ite h (.ite h.logErr (.ite (.ite h.logErr.modJob h.logErr) (endWaits (absorbJob (undoJob ?_)))))
  exact h.logErr.modJob.setJobState.closeSoon.abandonJob.foldl fun _ _ h => h.foldl fun _ _ h => h.foldGroup

theorem faultTileJobs {t reason block loc e} (h : m.InBounds) : (m.faultTileJobs t reason block loc e).InBounds :=
  h.foldl (fun _ _ h => h.faultJob)

theorem parityFault {p par j e} (h : m.InBounds) : (m.parityFault p par j e).InBounds := by
  unfold Mach.parityFault
  split
  · exact h
  · exact h.faultJob
  · exact h.faultTileJobs

theorem jFreeIdx_lt {t i} (e : m.jFreeIdx t = some i) : i < 512 := by
  obtain ⟨k, _, e⟩ := Option.bind_eq_some_iff.mp e
  obtain ⟨low, e⟩ := Option.ite_none_right_eq_some.mp e
  exact Option.some.inj e ▸ low

theorem journalSet {x : Tile} {i je} {p l} (h : x.InBounds) (low : i < 512) :
    ({ x with journal := SMap.set x.journal i je, peak := p, loadPeak := l } : Tile).InBounds :=
  { h with
    rising := SMap.rising_set (TileWithin.rising h) i je
    below := fun e he => by
      rcases SMap.mem_set he with rfl | he
      · exact low
      · exact TileWithin.below h e he }

theorem jGrant {r k gen n} (h : m.InBounds) : (m.jGrant r k gen n).1.InBounds := by
  refine h.foldlFst fun acc i h => ?_
  dsimp only
  split
  next free => exact sramPut (h.modTile fun x h => InBounds.journalSet h (InBounds.jFreeIdx_lt free))
  · exact h

/-! Links -/

theorem linkSend {f u} (h : m.InBounds) : (m.linkSend f u).InBounds := h.send

theorem hzSend {f kind wave j l} (h : m.InBounds) : (m.hzSend f kind wave j l).InBounds := .foldl h (fun _ _ h => h.linkSend)

theorem pauseUp {j p} (h : m.InBounds) : (m.pauseUp j p).InBounds := by
  refine .ite h ?_
  split
  · exact h.hzSend
  · exact h

theorem pauseAtSet {j p} (h : m.InBounds) : (Mach.pauseAt.set m j p).InBounds := .ite h.modJob.pauseUp h.modJob

theorem pauseAtGo {j tg} (h : m.InBounds) : (Mach.pauseAt.go m j tg).2.InBounds := by
  unfold Mach.pauseAt.go
  dsimp only
  split
  · split
    · exact h.pauseAtSet
    · exact h
  · exact h.pauseAtSet

/-! Traps -/

theorem pauseAt {j t} (h : m.InBounds) : (m.pauseAt j t).2.InBounds := by
  unfold Mach.pauseAt
  split
  · dsimp only
    split
    · exact h
    · split
      · exact h
      · exact h.pauseAtGo
  · dsimp only
    split
    · exact h
    · exact h.pauseAtGo

theorem pauseInside {j t block} (h : m.InBounds) : (m.pauseInside j t block).InBounds := by
  unfold Mach.pauseInside
  extract_lets t
  split
  next paused => exact h.pauseAt.sndOf paused
  · exact h.logErr

theorem pauseStalled {j} (h : m.InBounds) : (m.pauseStalled j).InBounds := .modJob (.ite h h.pauseInside)

theorem modLock {n f} (h : m.InBounds) : (m.modLock n f).InBounds := h

theorem wakeWaiters {n w} (h : m.InBounds) : (m.wakeWaiters n w).InBounds :=
  h.foldl (fun _ _ h => .ite h (.ite (.ite h h) (.ite h.msi (.ite h.evFrame h))))

theorem proxyFreed {n} (h : m.InBounds) : (m.proxyFreed n).InBounds := .ite h h

theorem freeLock {n} (h : m.InBounds) : (m.freeLock n).InBounds := h.proxyFreed.modLock.wakeWaiters

theorem takeLock {n ids} (h : m.InBounds) : (m.takeLock n ids).InBounds := h.modLock

theorem lockDecide {n reqs expired} (h : m.InBounds) : (m.lockDecide n reqs expired).InBounds := by
  unfold Mach.lockDecide
  extract_lets owner bad takes freed woken m1 m2
  have h1 : m1.InBounds := .ite h h.count
  have h2 : m2.InBounds := .ite h1.freeLock h1
  exact .ite h2 h2.takeLock.modLock

theorem lockReq {n id v} (h : m.InBounds) : (m.lockReq n id v).InBounds := h.lockDecide

theorem ownerDeath {id} (h : m.InBounds) : (m.ownerDeath id).InBounds := h.foldl (fun _ _ h => h.freeLock.count)

theorem raiseRecord {j rcd} (h : m.InBounds) : (m.raiseRecord j rcd).InBounds := h.ringRecord.countJ

theorem raiseTrap {j p tag rcd} (h : m.InBounds) : (m.raiseTrap j p tag rcd).InBounds :=
  .ite h.raiseRecord.pauseInside h.raiseRecord.faultJob

theorem freeCtx {p c} (h : m.InBounds) : (m.freeCtx p c).InBounds := h.modPe

theorem abandonSpec {r k jents} (h : m.InBounds) : (m.abandonSpec r k jents).InBounds := by
  unfold Mach.abandonSpec
  dsimp only
  split
  · exact h.freeEntries.countJ.undone.setGState.hregAdd.rebuildLast.evalReady
  · exact h.freeEntries.countJ.undone

theorem firingTrap {p c x tr} (h : m.InBounds) : (m.firingTrap p c x tr).InBounds := by
  unfold Mach.firingTrap
  refine .ite h.freeCtx.raiseTrap ?_
  dsimp only
  split
  next room => exact h.freeCtx.setTile { h.freeCtx.tile _ with pend := by simpa using room }
  · exact h.freeCtx.abandonSpec.countJ

theorem coreTrap {c tr} (h : m.InBounds) : (m.coreTrap c tr).InBounds := .ite h.setCore.logErr.raiseSource.ownerDeath h.setCore

/-! Code and data reads -/

theorem sramLost {die loc} (h : m.InBounds) : (m.sramLost die loc).InBounds := by
  unfold Mach.sramLost
  split
  · dsimp only
    split
    · exact .ite h.freeEnt.faultTileJobs h.freeEnt.faultJob
    · exact .ite h.sramPut.faultTileJobs h
  · dsimp only
    split
    · exact .ite h.freeEnt.faultTileJobs h.freeEnt.faultJob
    · exact .ite h.sramPut.faultTileJobs h
  · dsimp only
    split
    · exact .ite h.faultTileJobs h.faultJob
    · exact .ite h.sramPut.faultTileJobs h
  · dsimp only
    split
    · exact faultJob (m := { m with free := _ }) h
    · exact sramPut (count (m := { m with free := _ }) h)
  · exact h.count.sramPut

theorem sramRead {die loc} (h : m.InBounds) : (m.sramRead die loc).InBounds := by
  unfold Mach.sramRead
  dsimp only
  split
  · exact h
  · exact h.sramCorrected
  · exact h.count.sramLost
  · exact h.count.logErr.sramLost

theorem sramTouch {t kind unit p} (h : m.InBounds) : (m.sramTouch t kind unit p).InBounds :=
  .ite h (h.foldl (fun _ _ h => h.sramRead))

theorem cacheTouch {p kind} (h : m.InBounds) : (m.cacheTouch p kind).InBounds := .ite h (.sramTouch (.ite (.sramPut h) h))

theorem journalRead {t l} (h : m.InBounds) : (m.journalRead t l).InBounds := h.sramTouch

theorem regionFetch {j l} (h : m.InBounds) : (m.regionFetch j l).2.InBounds := by
  induction l generalizing m with
  | nil => exact h
  | cons r rest ih =>
    unfold Mach.regionFetch
    split
    next lost m' read =>
      have h' := h.hbmCheck.sndOf read
      split
      · exact h'.faultJob
      · exact ih h'

theorem cutOff {t j} (h : m.InBounds) : (m.cutOff t j).2.InBounds := by
  unfold Mach.cutOff
  split
  · exact h
  · dsimp only
    split
    · exact h
    · exact .faultJob h

theorem peFetch {r l} (h : m.InBounds) : (m.peFetch r l).2.InBounds := by
  unfold Mach.peFetch
  split
  next found => exact h.cutOff.sndOf found
  next found => exact (h.cutOff.sndOf found).regionFetch

theorem nodeFetch {r} (h : m.InBounds) : (m.nodeFetch r).2.InBounds := by
  unfold Mach.nodeFetch
  dsimp only
  split
  · exact .peFetch (h.foldl (fun _ _ h => h.cacheTouch))
  · exact h.foldl (fun _ _ h => h.cacheTouch)

theorem settledFetch {r} (h : m.InBounds) : (m.settledFetch r).2.InBounds := h.peFetch

theorem fanFetch {r} (h : m.InBounds) : (m.fanFetch r).2.InBounds := h.peFetch

theorem hbmLost {h₀} (h : m.InBounds) : (m.hbmLost h₀).InBounds := by
  unfold Mach.hbmLost
  split
  · exact h.faultJob
  · refine .ite ?_ h
    dsimp only
    split
    · exact h.faultJob
    · exact h

theorem rangeLost {a n} (h : m.InBounds) : (m.rangeLost a n).InBounds := h.foldl (fun _ _ h => h.hbmLost)

theorem deepFetch {p es} (h : m.InBounds) : (m.deepFetch p es).2.InBounds := by
  unfold Mach.deepFetch
  split
  · exact h
  · refine h.foldlSnd ?_
    intro _ _ h
    dsimp only
    split
    · exact h.halfRead.hbmLost
    · exact h.halfRead

/-! Issue -/

theorem ctxDone {p c x} (h : m.InBounds) : (m.ctxDone p c x).InBounds := h.modPe.countJ

theorem coreDone {c x} (h : m.InBounds) : (m.coreDone c x).InBounds := h.setCore

theorem codeFill {p x} (h : m.InBounds) : (m.codeFill p x).InBounds := .ite h (.ite (.foldl h (fun _ _ h => h.sramWrite)) h)

theorem fetchCode {p x b m'} (h : m.InBounds) (e : m.fetchCode p x = some (b, m')) : m'.InBounds := by
  unfold Mach.fetchCode at e
  split at e
  · cases e
    exact h
  · split at e
    · nomatch e
    · split at e
      next cut =>
        cases e
        exact h.cutOff.sndOf cut
      next cut =>
        have filled (m1 : Mach) (h1 : m1.InBounds) : ((m1.codeLocs p x).foldl (fun m l => m.sramRead (peDieOf p) l)
            (m1.codeFill p x)).InBounds :=
          h1.codeFill.foldl fun _ _ h => h.sramRead
        have h' := filled _ (h.cutOff.sndOf cut)
        split at e
        next lost =>
          cases e
          exact (h'.hbmCheck.sndOf lost).faultJob
        next found =>
          cases e
          exact h'.hbmCheck.sndOf found

theorem fetchLocal {c} (h : m.InBounds) : (m.fetchLocal c).2.InBounds := by
  unfold Mach.fetchLocal
  split
  · exact h
  · split
    next found => exact h.hubWordRead.sndOf found

theorem issuePe {p c waits side f} (h : m.InBounds) : (m.issuePe p c waits side f).InBounds := by
  unfold Mach.issuePe
  split
  · exact h
  · split
    · exact h
    next fetched => exact h.fetchCode fetched
    next fetched =>
      split
      · exact (h.fetchCode fetched).firingTrap
      · exact (h.fetchCode fetched).ctxDone

theorem issueSc {c side priv f} (h : m.InBounds) : (m.issueSc c side priv f).InBounds := by
  unfold Mach.issueSc
  refine .ite h ?_
  cases fetch : m.fetchLocal c with
  | mk lost m' =>
    have h' := h.fetchLocal.sndOf fetch
    dsimp only
    refine .ite h'.coreTrap ?_
    split
    · exact h'.coreTrap
    · split
      · exact h'.coreTrap
      · exact h'.coreDone

theorem ctxParity {p c waits} (h : m.InBounds) : (m.ctxParity p c waits).InBounds := by
  unfold Mach.ctxParity
  split
  · exact h
  · exact h.parityFault

theorem issue {x side f} (h : m.InBounds) : (m.issue x side f).InBounds := by
  unfold Mach.issue
  split
  · exact h.issuePe
  · exact h.ctxParity
  · exact h.issueSc

theorem issueReg {x rd f} (h : m.InBounds) : (m.issueReg x rd f).InBounds := h.issue

theorem fetchedPast {x pc} (h : m.InBounds) : (m.fetchedPast x pc).InBounds := by
  unfold Mach.fetchedPast
  split
  · exact .count h
  · exact h
  · exact .setCore h

/-! Issue of divisions, L4 and floating-point instructions -/

theorem issueL4 {x pd f} (h : m.InBounds) : (m.issueL4 x pd f).InBounds := h.issue

theorem issueDiv {x rd ra rb f} (h : m.InBounds) : (m.issueDiv x rd ra rb f).InBounds := h.issue

theorem issueFp {x rm rd f} (h : m.InBounds) : (m.issueFp x rm rd f).InBounds := by
  unfold Mach.issueFp
  split
  · exact h.issue
  · exact h.ctxParity
  next c =>
    refine .ite h ?_
    cases fetch : m.fetchLocal c with
    | mk lost m' =>
      have h' := h.fetchLocal.sndOf fetch
      dsimp only
      refine .ite h'.coreTrap ?_
      split
      · exact h'.coreTrap
      · split
        · exact h'.setCore.coreTrap
        · exact h'.coreDone

/-! Branches -/

theorem issueTaken {x taken f} (h : m.InBounds) : (m.issueTaken x taken f).InBounds := .ite h.issue.fetchedPast h.issue

theorem issueBr {x ra rb off c} (h : m.InBounds) : (m.issueBr x ra rb off c).InBounds := h.issueTaken

/-! Emission -/

theorem issueFiring {x f} (h : m.InBounds) : (m.issueFiring x f).InBounds := by
  unfold Mach.issueFiring
  split
  · exact h.issuePe
  · exact h.ctxParity
  · exact h.issueSc

theorem takeHold {t x} (h : m.InBounds) : (m.takeHold t x).InBounds := by
  refine h.modTile fun y h => ?_
  split
  next room => exact { h with holds := by simpa using room.1 }
  · exact h

theorem firingDone {p c waits} (h : m.InBounds) : (m.firingDone p c waits).InBounds := by
  unfold Mach.firingDone
  split
  · exact h
  · split
    · exact h
    next fetched => exact h.fetchCode fetched
    next fetched =>
      have h' := h.fetchCode fetched
      split
      · exact h'.firingTrap
      · exact .ite h'.count (.ite h'.freeCtx.countJ.modPe.takeHold.abandonSpec.countJ h'.freeCtx.countJ.modPe.modPe)

/-! Matching -/

theorem spaceRollback {p w g} (h : m.InBounds) : (m.spaceRollback p w g).InBounds := h.countJ.requestRb

theorem settleForMove {p w pl g} (h : m.InBounds) : (m.settleForMove p w pl g).InBounds := by
  unfold Mach.settleForMove
  split
  · split
    · exact h.withdraw
    · exact h.spaceRollback.setGState
    · exact h
  · exact h

theorem toDeep {p w g es} (h : m.InBounds) : (m.toDeep p w g es).InBounds :=
  .hregAdd (.ovfInc (.countJ (.modTile (.ite h.spaceRollback h) (fun _ h => h))))

theorem mobRead {p g} (h : m.InBounds) : (m.mobRead p g).InBounds := h.sramTouch

theorem irisRead {p g} (h : m.InBounds) : (m.irisRead p g).InBounds := h.sramTouch

theorem groupRead {p g} (h : m.InBounds) : (m.groupRead p g).2.InBounds := by
  unfold Mach.groupRead
  split
  · exact h
  · split
    · exact h
    · exact h
    · exact .ite h.sramTouch h.sramTouch

theorem mobRoom {p ms n j k fuel} (h : m.InBounds) : (m.mobRoom p ms n j k fuel).1.InBounds := by
  induction fuel generalizing m with
  | zero => exact h
  | succ fuel ih =>
    unfold Mach.mobRoom
    dsimp only
    split
    · exact h
    · split
      · exact h
      · refine ih (evalReady (toDeep (hregRemove (foldl h.settleForMove fun _ _ h => ?_))))
        exact h.dropEnt

theorem mobPut {p ms l} (h : m.InBounds) : (m.mobPut p ms l).InBounds := by
  induction l generalizing m with
  | nil => exact h
  | cons e r ih =>
    unfold Mach.mobPut
    split
    · exact ih h.putEnt
    · exact h

theorem toMob {p g es} (h : m.InBounds) : (m.toMob p g es).InBounds := by
  have moved {ms} : (((m.countJ 0x4300 g.job 0x03).ovfInc p .mob g).mobRoom p ms es.length g.job g.key
      9).1.InBounds := h.countJ.ovfInc.mobRoom
  unfold Mach.toMob
  exact .ite moved.toDeep (.ite moved.mobPut moved.mobPut.hregAdd)

theorem irisDown {p g asIs extra} (h : m.InBounds) : (m.irisDown p g asIs extra).InBounds :=
  .ite h.mobRead.absorbCount (.evalReady (.toMob (.foldl (.ite h.mobRead h.mobRead.settleForMove) (fun _ _ h => h.dropEnt))))

theorem addEnt {p pl g e} (h : m.InBounds) : (m.addEnt p pl g e).InBounds := by
  unfold Mach.addEnt
  split
  · split
    · exact h
    · dsimp only
      split
      · exact h.putEnt
      · split
        · refine .ite h.irisDown.absorbCount ?_
          split
          · exact h.irisDown.putEnt
          · exact h.irisDown.irisDown
        · exact h.irisDown
  · have room {ms} : ((m.mobRead p g).mobRoom p ms 1 g.job g.key 9).1.InBounds := h.mobRead.mobRoom
    refine .ite h.mobRead.absorbCount (.ite room.mobPut (evalReady (toDeep (hregRemove (foldl room.settleForMove fun _ _ h => ?_)))))
    exact h.dropEnt
  · dsimp only
    split
    · exact h.modTile fun _ h => h.withDeepQ
    · split
      · exact h.putEnt
      · exact h.modTile fun _ h => h.withDeepQ

theorem placeNew {p g e} (h : m.InBounds) : (m.placeNew p g e).InBounds := by
  unfold Mach.placeNew
  split
  · dsimp only
    split
    · exact h.putEnt
    · split
      · refine .ite h.irisDown.absorbCount ?_
        split
        · exact h.irisDown.putEnt
        · exact .ite h.irisDown.mobRead.toMob h.irisDown.mobRead.absorbCount
      · exact .ite h.mobRead.toMob h.mobRead.absorbCount

theorem reField {p pl g} (h : m.InBounds) : (m.reField p pl g).InBounds := h.modHead

theorem rbIfFired {p g st anti} (h : m.InBounds) : (m.rbIfFired p g st anti).InBounds := .ite h.requestRb h

theorem afterAnnihilation {p pl g} (h : m.InBounds) : (m.afterAnnihilation p pl g).InBounds :=
  .ite (.ite h.countJ.dropDesc.countJ h.countJ.dropDesc) h.countJ.reField.evalReady

theorem mergeAnti {p pl g t st} (h : m.InBounds) : (m.mergeAnti p pl g t st).InBounds := by
  unfold Mach.mergeAnti
  split
  · exact h.freeEnt.rbIfFired.afterAnnihilation
  · exact h.addEnt.countJ.evalReady

theorem mergeToken {p pl g t h₀} (h : m.InBounds) : (m.mergeToken p pl g t h₀).InBounds := by
  unfold Mach.mergeToken
  dsimp only
  split
  · exact h.freeEnt.afterAnnihilation
  · split
    · exact .evalReady (.rbIfFired (.countJ (.ite h.putEnt h)))
    · split
      · exact h.addEnt
      · refine .evalReady (.ite (.modPe (.rbIfFired ?_)) (.rbIfFired ?_))
        all_goals exact .ite h.addEnt.reField.countJ h.addEnt.reField

theorem mergeArrival {p pl g t} (h : m.InBounds) : (m.mergeArrival p pl g t).InBounds := by
  unfold Mach.mergeArrival
  split
  · exact h
  · exact .ite h.mergeAnti h.mergeToken

theorem newGroup {p t} (h : m.InBounds) : (m.newGroup p t).InBounds := by
  unfold Mach.newGroup
  extract_lets ctl n m1 cid g m2 m3
  have h1 : m1.InBounds := .ite h.modPe h
  have h2 : m2.InBounds := .ite h1.countJ h1
  exact .ite h2.placeNew.modPe h2.placeNew

theorem absorbItem {p it} (h : m.InBounds) : (m.absorbItem p it).InBounds := h.absorbCount.releaseItem

theorem park {p slot it h0 st} (h : m.InBounds) : (m.park p slot it h0 st).InBounds := h.modPe

theorem lookup {p it park} (h : m.InBounds) (keeps : ∀ m : Mach, m.InBounds → (park m).InBounds) : (m.lookup p it park).1.InBounds := by
  have read : (if m.live it.tok.job then m.irisRead p (itemRef it.tok) else m).InBounds := .ite h.irisRead h
  exact iteFst read.absorbItem (iteFst read.newGroup.releaseItem (iteFst read.mergeArrival.releaseItem
    (iteFst (keeps _ read) read.newGroup.releaseItem)))

theorem wakeClass {p h0 n} (h : m.InBounds) : (m.wakeClass p h0 n).InBounds := by
  induction n generalizing m with
  | zero => exact h
  | succ n ih =>
    unfold Mach.wakeClass
    dsimp only
    split
    · exact h
    · refine .ite h (.ite (ih (modPe ?_)) ?_)
      all_goals exact h.lookup fun _ h => h.modPe

theorem missDone {p k ms} (h : m.InBounds) : (m.missDone p k ms).InBounds := h.modPe.releaseItem.wakeClass

theorem missAbsorb {p k ms} (h : m.InBounds) : (m.missAbsorb p k ms).InBounds := h.absorbCount.missDone

theorem probeReqs {p slot j bucket} (h : m.InBounds) : (m.probeReqs p slot j bucket).InBounds := h.modTile (fun _ h => h)

theorem mobProbe {p slot} (h : m.InBounds) : (m.mobProbe p slot).InBounds := by
  unfold Mach.mobProbe
  split
  · exact h
  · have read {g} : ((m.mobRead p g).irisRead p g).InBounds := h.mobRead.irisRead
    exact .ite h (.ite h.missAbsorb (.ite read.missAbsorb (.ite read.mergeArrival.missDone
        (.ite read.modPe.probeReqs read.newGroup.missDone))))

theorem deepProbe {p slot} (h : m.InBounds) : (m.deepProbe p slot).InBounds := by
  unfold Mach.deepProbe
  split
  · exact h
  · exact .ite h (.ite h.missAbsorb (.ite h.irisRead.missAbsorb (.ite h.irisRead.mergeArrival.missDone h.irisRead.newGroup.missDone)))

theorem faultNamed {j reason block loc t} (h : m.InBounds) : (m.faultNamed j reason block loc t).InBounds := .ite h.logErr h.faultJob

theorem matchArrival {p} (h : m.InBounds) : (m.matchArrival p).InBounds := by
  unfold Mach.matchArrival
  dsimp only
  split
  · exact h.setPe
  · refine .ite h.setPe (.ite h.setPe.count (.ite h.setPe (.ite h.setPe.releaseItem.faultNamed (.ite h.setPe.absorbItem ?_))))
    split
    · exact h.setPe.lookup fun _ h => h
    · exact .ite h.setPe.park (h.setPe.lookup fun _ h => h.park)

theorem enterSpill {p} (h : m.InBounds) : (m.enterSpill p).InBounds := .ite h h.setPe.count

theorem deepWrite {t} (h : m.InBounds) : (m.deepWrite t).InBounds := by
  unfold Mach.deepWrite
  dsimp only
  split
  · exact h
  next es rest _ =>
    have taken : (m.setTile t { m.tile t with deepQ := rest }).InBounds := h.setTile (h.tile t).withDeepQ
    cases es with
    | nil => exact taken
    | cons e0 es =>
      refine .ite (taken.setTile (h.tile t)) (.ite (faultJob ?_) ?_)
      · exact taken.modTile fun _ h => h.withDeepQ
      · exact taken.foldl fun _ _ h => h.putEnt

theorem stragglerCheck {p g} (h : m.InBounds) : (m.stragglerCheck p g).InBounds := by
  unfold Mach.stragglerCheck
  exact .ite h.requestRb h

theorem armGroup {p g} (h : m.InBounds) : (m.armGroup p g).InBounds := by
  unfold Mach.armGroup
  split
  · exact h
  · split
    · exact h
    · exact .ite h (.ite h.freeGroup.countJ.logErr (.ite h.nodeFetch
        (.evalReady (.ite h.nodeFetch.modHead.stragglerCheck h.nodeFetch.modHead))))

theorem gather {p} (h : m.InBounds) : (m.gather p).InBounds := by
  unfold Mach.gather
  refine .ite h ?_
  split
  · exact h
  · refine .ite h ?_
    split
    next gone m' read =>
      have h' := h.setPe.groupRead.sndOf read
      refine .ite h' ?_
      split
      · exact h'.armGroup
      · split
        · exact h'.stragglerCheck.evalReady
        · exact h'
      · split
        · exact h'
        · split
          · exact .ite h'.stragglerCheck.modPe h'
          · exact h'

/-! Readiness and dispatch -/

theorem takePos {p j level} (h : m.InBounds) : (m.takePos p j level).2.InBounds := by
  unfold Mach.takePos
  extract_lets x
  split
  · exact h
  · refine .iteSnd (.pair h) (.iteSnd (.pair h) ?_)
    split
    · exact h
    · refine .pair (countJ ?_)
      split
      · exact h.dropDesc.setGState.evalReady
      · exact h.dropDesc

theorem insertDesc {p pl g idx m'} (h : m.InBounds) (e : m.insertDesc p pl g idx = some m') : m'.InBounds := by
  unfold Mach.insertDesc at e
  dsimp only at e
  split at e
  · nomatch e
  next taken => exact Option.some.inj e ▸ setGState (ite (h.takePos.sndOf taken).setPe.countJ (h.takePos.sndOf taken).setPe)

theorem descriptorInsert {p} (h : m.InBounds) : (m.descriptorInsert p).InBounds := by
  unfold Mach.descriptorInsert
  dsimp only
  split
  · split
    · exact h.setPe
    · split
      · refine .ite h.setPe ?_
        split
        next found => exact (h.setPe.insertDesc found).modPe
        · exact h
      · exact h.setPe
  · split
    · exact h
    · split
      · exact h.setPe
      · split
        · refine .ite h.setPe ?_
          split
          next found => exact h.setPe.stragglerCheck.insertDesc found
          · exact h
        · exact h.setPe

theorem descriptorSweep {p j} (h : m.InBounds) : (m.descriptorSweep p j).InBounds := h.modPe

theorem dispatchDesc {p d safe jents} (h : m.InBounds) : (m.dispatchDesc p d safe jents).InBounds := by
  unfold Mach.dispatchDesc
  extract_lets g r tag enter toEmit
  split
  · exact h.dropDesc
  next pl _ =>
    split
    next gone m1 read =>
      have h1 : m1.InBounds := by
        refine sndOf ?_ read
        exact .iteSnd h.deepFetch h.groupRead
      refine .ite h1 ?_
      split
      next lost m2 fetched =>
        have h2 : m2.InBounds := h1.nodeFetch.sndOf fetched
        refine .ite h2 ?_
        extract_lets o arrived head m3 m4 m5 m6 m7 m8
        have h4 : m4.InBounds := .ite h2.dropDesc.freeGroup h2.dropDesc.setGState.hregRemove
        have h5 : m5.InBounds := h4.setLast
        have h6 : m6.InBounds := .ite h5 (.ite h5.countJ (h5.countJ.modTile fun _ h => h))
        have h7 : m7.InBounds :=
          .ite (h6.modTile fun _ h => { h with holds := (List.length_filter_le _ _).trans (TileWithin.holds h) }) h6
        have enters {kick l} : (enter m7 kick l).InBounds := by
          dsimp only [enter]
          split
          · exact h7.modPe
          · exact h7
        have emits {kind l} : (toEmit m7 kind l).InBounds := h7.modPe
        dsimp only [m8]
        clear_value o head
        split
        · exact enters
        · exact emits
        · exact .ite enters emits
        · exact h7

theorem dispatch {p} (h : m.InBounds) : (m.dispatch p).InBounds := by
  unfold Mach.dispatch
  extract_lets x skips m1
  have h1 : m1.InBounds := h.foldl fun _ _ h => h.countJ
  split
  · exact h1
  · exact .ite h1.dispatchDesc (h1.modTile fun _ h => h)

theorem acceptReqs {t} (h : m.InBounds) : (m.acceptReqs t).InBounds := by
  refine h.foldl fun m c h => ?_
  dsimp only
  split
  · exact h.setTile (h.tile t)
  · exact h

theorem journalGrant {t} (h : m.InBounds) : (m.journalGrant t).InBounds := by
  unfold Mach.journalGrant
  extract_lets m1 reqs
  have h1 : m1.InBounds := .ite h.acceptReqs h
  split
  · exact h1.modTile fun _ h => h
  · extract_lets m2 g o n
    have h2 : m2.InBounds := h1.modTile fun _ h => h
    refine .ite h2 (.ite h2.dispatchDesc (.ite ?_ ?_))
    · exact dispatchDesc (.ite h2.jGrant.countJ.countJ h2.jGrant.countJ)
    · exact modPe (.ite h2.countJ.countJ.countJ h2.countJ)

/-! The Emit unit -/

theorem formToken {r t tg m'} (h : m.InBounds) (e : m.formToken r t tg = some m') : m'.InBounds := by
  unfold Mach.formToken at e
  split at e
  · nomatch e
  · refine iteSome (.ofSome (countJ ?_)) (.ofSome (.ite (setLe (countJ ?_)) (countJ ?_))) e
    all_goals exact modPe (h.modTile fun _ h => h)

theorem formTokens {r l} (h : m.InBounds) : (m.formTokens r l).2.InBounds := by
  induction l generalizing m with
  | nil => exact h
  | cons e rest ih =>
    unfold Mach.formTokens
    split
    · exact h.count
    next formed => exact ih (h.formToken formed)

theorem emitFetch {r e} (h : m.InBounds) : (m.emitFetch r e).2.InBounds := by
  unfold Mach.emitFetch
  split
  · exact h
  · split
    next node => exact h.nodeFetch.sndOf node
    next node =>
      have h1 := h.nodeFetch.sndOf node
      split
      next settled => exact h1.settledFetch.sndOf settled
      next settled =>
        have h2 := h1.settledFetch.sndOf settled
        extract_lets s m3
        have h3 : m3.InBounds := .ite h2.journalRead h2
        exact .iteSnd (.pair h3) (.iteSnd (.pair h3) h3.fanFetch)

theorem emitFiring {p} (h : m.InBounds) : (m.emitFiring p).InBounds := by
  unfold Mach.emitFiring
  split
  · exact h
  · exact .ite h (.ite (.iteSnd h h.emitFetch) (.modPe (.formTokens (.ite h (.emitBegin (.iteSnd h h.emitFetch))))))

theorem emitCommand {p code} (h : m.InBounds) : (m.emitCommand p code).InBounds := by
  unfold Mach.emitCommand
  split
  · split
    · exact .ite h.emitFiring h
    · exact h
  · exact h

theorem dispatchKick {p} (h : m.InBounds) : (m.dispatchKick p).InBounds := by
  unfold Mach.dispatchKick
  dsimp only
  split
  · exact .ite h.dispatch h
  · exact h

theorem pushFifo {p own it m'} (h : m.InBounds) (e : m.pushFifo p own it = some m') : m'.InBounds := by
  unfold Mach.pushFifo at e
  exact iteSome .ofNone (.ofSome h.setPe) e

theorem route {p} (h : m.InBounds) : (m.route p).InBounds := by
  unfold Mach.route
  dsimp only
  split
  · exact h
  · refine .ite h.setPe.freeSlot.absorbCount (.ite ?_ (.ite h h.setPe.enq))
    split
    next found => exact (h.pushFifo found).modPe
    · exact h

/-! Posts, tasks and interrupts -/

theorem modSched {f : Sched → Sched} (h : m.InBounds) (keeps : (f m.sched).postQ.length ≤ 64) : (m.modSched f).InBounds :=
  { h with posts := keeps }

theorem reTask {t} (h : m.InBounds) : (m.reTask t).InBounds := h.modSched h.posts

theorem modTask {t f} (h : m.InBounds) : (m.modTask t f).InBounds := by
  refine .reTask (h.modSched ?_)
  exact h.posts

theorem writeTskCfg {t v} (h : m.InBounds) : (m.writeTskCfg t v).InBounds := h.modTask

theorem writeTskEvt {t v} (h : m.InBounds) : (m.writeTskEvt t v).InBounds := h.modTask

theorem storePost {c v} (h : m.InBounds) : (m.storePost c v).InBounds := .ite h.setCore h

theorem posted {i} (h : m.InBounds) : (m.posted i).InBounds := by
  unfold Mach.posted
  dsimp only
  split
  · split
    · exact h.coreDone
    · exact h
  · have erased := h.modSched (f := fun s => { s with hwPost := SMap.erase s.hwPost (i - 16) }) h.posts
    split
    · exact erased
    · exact requestPost (modSched erased erased.posts)

theorem requestPost_postQ {i} : (m.requestPost i).sched.postQ = m.sched.postQ := by
  unfold Mach.requestPost
  dsimp only
  split
  · rfl
  · split <;> rfl

theorem posted_postQ {i} : (m.posted i).sched.postQ = m.sched.postQ := by
  unfold Mach.posted
  dsimp only
  split
  · split <;> rfl
  · split
    · rfl
    · exact requestPost_postQ

theorem admitPost {i} (h : m.InBounds) (room : m.sched.postQ.length < 64) : (m.admitPost i).InBounds := by
  unfold Mach.admitPost
  split
  · refine h.posted.modSched ?_
    simpa [posted_postQ] using room
  · exact h

theorem admitPost_postQ {i} : (m.admitPost i).sched.postQ.length ≤ m.sched.postQ.length + 1 := by
  unfold Mach.admitPost
  split
  · simp [Mach.modSched, posted_postQ]
  · exact Nat.le_succ _

theorem admitPosts {l : List Nat} (h : m.InBounds) (room : m.sched.postQ.length + l.length ≤ 64) : (l.foldl Mach.admitPost m).InBounds := by
  induction l generalizing m with
  | nil => exact h
  | cons i l ih =>
    rw [List.length_cons] at room
    have grows := admitPost_postQ (m := m) (i := i)
    exact ih (h.admitPost (by omega)) (by omega)

theorem postAdmission (h : m.InBounds) : m.postAdmission.InBounds := by
  have bound := h.posts
  refine h.admitPosts ?_
  have short := List.length_take_le (Nat.min 4 (64 - m.sched.postQ.length)) m.posters
  have room : Nat.min 4 (64 - m.sched.postQ.length) ≤ 64 - m.sched.postQ.length := Nat.min_le_right _ _
  omega

theorem taskParity {t} (h : m.InBounds) : (m.taskParity t).InBounds := h.logErr.modTask

theorem postApply (h : m.InBounds) : m.postApply.InBounds := by
  have bound := h.posts
  unfold Mach.postApply
  split
  · exact h
  next rest waiting =>
    rw [waiting] at bound
    have taken : (m.modSched fun s => { s with postQ := rest }).InBounds := h.modSched (Nat.le_of_succ_le bound)
    exact taken.count.modTask.hwSet.hwSet

theorem dispatchTask {t c} (h : m.InBounds) : (m.dispatchTask t c).InBounds := h.modTask.setCore.count

theorem taskDispatch (h : m.InBounds) : m.taskDispatch.InBounds := by
  unfold Mach.taskDispatch
  split
  · exact h.dispatchTask
  · exact h

theorem storeEnd {c} (h : m.InBounds) : (m.storeEnd c).InBounds := .ite h h.setCore.modTask

theorem storeIssued {c} (h : m.InBounds) : (m.storeIssued c).InBounds := by
  unfold Mach.storeIssued
  dsimp only
  split
  · exact h
  · exact h.coreDone

theorem modEvr {r f} (h : m.InBounds) : (m.modEvr r f).InBounds := h

theorem writeEvrCfg {r v} (h : m.InBounds) : (m.writeEvrCfg r v).InBounds := .ite h.modEvr.raiseSource h.modEvr

theorem eventRingWrite {r} (h : m.InBounds) : (m.eventRingWrite r).InBounds := by
  unfold Mach.eventRingWrite
  extract_lets x
  split
  · exact h
  · refine .ite h ?_
    extract_lets rc m1 m2 m3
    have h2 : m2.InBounds := .ite h.hubWrite.count h.hubWrite
    have h3 : m3.InBounds := h2.modEvr.requestPost
    exact .ite h3.raiseSource h3

theorem writeRbqKey {t v} (h : m.InBounds) : (m.writeRbqKey t v).InBounds := by
  unfold Mach.writeRbqKey
  dsimp only
  split
  · split
    · exact h.logErr
    · exact h.faultJob
  next room => exact h.setTile { h.tile t with rbq := by simpa using Nat.lt_of_not_le room }

/-! Rollback -/

theorem queueAntis {r t gen l} (h : m.InBounds) : (m.queueAntis r t gen l).InBounds := .ite h h.modPe

theorem undoFirings {r k t} (h : m.InBounds) : (m.undoFirings r k t).InBounds := by
  unfold Mach.undoFirings
  refine rebuildHeld ?_
  exact h.foldl fun _ _ h => h.restoreState

theorem countRollback {r anti n} (h : m.InBounds) : (m.countRollback r anti n).InBounds := by
  unfold Mach.countRollback
  extract_lets m1 c m2 m3 m4
  have h3 : m3.InBounds := h.advanceGen.setWt.setPinRbc.countJ.undone
  have h4 : m4.InBounds := .ite h3.countJ h3
  exact .ite h4.countJ h4

theorem discardPending {r t} (h : m.InBounds) : (m.discardPending r t).InBounds := by
  refine .countJ (h.modTile ?_)
  exact fun x h => { h with pend := (List.length_filter_le _ _).trans h.pend }

theorem rollbackFetch {r l} (h : m.InBounds) : (m.rollbackFetch r l).2.InBounds := by
  unfold Mach.rollbackFetch
  dsimp only
  split
  · exact h.journalRead
  · split
    next fetched => exact h.journalRead.nodeFetch.sndOf fetched
    next fetched =>
      have h' := h.journalRead.nodeFetch.sndOf fetched
      split
      next settled => exact h'.settledFetch.sndOf settled
      next settled => exact (h'.settledFetch.sndOf settled).fanFetch

theorem rollback {r k anti} (h : m.InBounds) : (m.rollback r k anti).InBounds := by
  unfold Mach.rollback
  extract_lets _ _ a
  refine .ite h.faultJob ?_
  extract_lets
  refine .ite h ?_
  extract_lets
  split
  next lost m' read =>
    have h' := h.rollbackFetch.sndOf read
    refine .ite h' ?_
    extract_lets m1 _ _ _ _ _ m4
    have h1 : m1.InBounds := by
      subst m1
      cases a with
      | none => exact h'
      | some c => exact h'.modPe
    have h4 : m4.InBounds := h1.undoFirings.countRollback.queueAntis.discardPending.freeEntries.countJ
    exact modPe (.ite h4.probeSend h4)

theorem removeFirst_length {α : Type} (p : α → Bool) (l : List α) : (removeFirst p l).length ≤ l.length := by
  induction l with
  | nil => exact Nat.le_refl _
  | cons x l ih =>
    unfold removeFirst
    split
    · exact Nat.le_succ _
    · exact Nat.succ_le_succ ih

theorem rollbackStep {t} (h : m.InBounds) : (m.rollbackStep t).InBounds := by
  unfold Mach.rollbackStep
  split
  · exact h
  next q _ =>
    have taken : (m.modTile t fun x => { x with rbq := removeFirst (· == q) x.rbq }).InBounds :=
      h.modTile fun _ h => { h with rbq := (removeFirst_length _ _).trans (TileWithin.rbq h) }
    exact .ite taken taken.rollback

theorem sweepRead {p} (h : m.InBounds) : (m.sweepRead p).InBounds := .ite h h.sramTouch.sramTouch

theorem sweepBack {p g} (h : m.InBounds) : (m.sweepBack p g).InBounds :=
  h.sweepRead.foldl (fun _ _ h => h.setGState.hregAdd.evalReady)

theorem clearRbc {p j g} (h : m.InBounds) : (m.clearRbc p j g).InBounds := h.foldl (fun _ _ h => .ite h (.ite h.setPinRbc h))

theorem raisePending {j g} (h : m.InBounds) : (m.raisePending j g).InBounds := by
  unfold Mach.raisePending
  refine .ite h (.ite (.pauseInside (.foldl ?_ ?_)) (.ite (.foldl (.foldl ?_ ?_) ?_) (.modJob (.foldl (.foldl ?_ ?_) ?_))))
  case refine_1 | refine_3 | refine_6 =>
    exact h.tiles_map fun e h => { h with pend := (List.length_filter_le _ _).trans (TileWithin.pend h) }
  case refine_2 | refine_4 | refine_7 => exact fun _ _ h => h.raiseRecord.countJ
  case refine_5 | refine_8 => exact fun _ _ h => h.faultJob

theorem sweepCommit {p j g} (h : m.InBounds) : (m.sweepCommit p j g).InBounds := by
  unfold Mach.sweepCommit
  refine .raisePending (.clearRbc (.modTile (h.sweepRead.foldl (fun _ _ h => ?_)) ?_))
  · refine .ite h ?_
    split
    next found => exact h.settledFetch.sndOf found
    next found => exact (h.settledFetch.sndOf found).foldGroup.freeGroup
  · exact fun x h => { h with holds := (List.length_filter_le _ _).trans h.holds }

theorem runSweep {p x} (h : m.InBounds) : (m.runSweep p x).InBounds := by
  unfold Mach.runSweep
  split
  · exact h.sweepCommit
  · exact h.sweepBack

theorem sweep {p} (h : m.InBounds) : (m.sweep p).InBounds := by
  unfold Mach.sweep
  split
  · exact h
  · exact .ite h h.modPe.runSweep

theorem finishSweeps {j} (h : m.InBounds) : (m.finishSweeps j).InBounds :=
  h.foldl (fun _ _ h => h.foldl (fun _ _ h => h.modPe.runSweep))

theorem mapped_keys {kept : List Nat} (e : Nat × JEntry) : (match e with
    | (i, e) => if i ∈ kept then (i, { e with fossil := true }) else (i, e)).1 = e.1 := by
  dsimp only
  split <;> rfl

theorem fossil {t j} (h : m.InBounds) : (m.fossil t j).InBounds := by
  unfold Mach.fossil
  refine modTile (countJ h.freeEntries) fun x h => ?_
  exact h.journal_map mapped_keys

theorem storeWrite {t} (h : m.InBounds) : (m.storeWrite t).InBounds := by
  unfold Mach.storeWrite
  split
  · exact h
  · split
    · split
      · exact h.journalRead.countJ.modTile (fun _ h => h)
      · exact h
    · exact h

theorem storeServed {t head k lost} (h : m.InBounds) : (m.storeServed t head k lost).InBounds := by
  unfold Mach.storeServed
  split
  · exact .ite (h.storeToMem.foldl (fun _ _ h => h.halfPoison)) h.storeToMem
  · exact h

theorem storeAcked {t head} (h : m.InBounds) : (m.storeAcked t head).InBounds := h.modTile (fun _ h => h)

theorem offerReqs {die x} (h : m.InBounds) : (m.offerReqs die x).InBounds := by
  unfold Mach.offerReqs
  refine .ite h (h.foldl fun m x h => ?_)
  split
  · exact h
  · exact .ite (h.enq.modTile fun _ h => h) h

theorem storeAck {t} (h : m.InBounds) : (m.storeAck t).InBounds := by
  unfold Mach.storeAck
  split
  · exact h
  · split
    · exact h.modTile (fun _ h => h)
    · exact .ite h (.countJ (.freeEntries (h.modTile (fun _ h => h))))

theorem rescanRead {deep u} (h : m.InBounds) : (m.rescanRead deep u).InBounds := .ite h.deepFetch h.sramTouch

theorem rescan {deep u j} (h : m.InBounds) : (m.rescan deep u j).InBounds :=
  .ite (h.rescanRead.modTile (fun _ h => h)) h.rescanRead.modCluster

/-! Scrubbing and repair -/

theorem writeback (h : m.InBounds) : m.writeback.InBounds := by
  unfold Mach.writeback
  split
  · exact h
  · exact h.modMs

theorem sramScrub (h : m.InBounds) : m.sramScrub.InBounds := by
  unfold Mach.sramScrub
  extract_lets n m1
  refine .ite h (.ite h ?_)
  have h1 : m1.InBounds := by
    dsimp only [m1]
    split
    · split
      · exact h.sramRead
      · exact h.sramRead.modMs.logPoison
      · exact h
    · split
      · exact h.hubWordRead
      · exact h.hubWordRead.modMs.logPoison
      · exact h
  exact .ite h1.modMs h1.modMs.count

theorem hbmScrub (h : m.InBounds) : m.hbmScrub.InBounds := by
  refine .ite h (.ite h (.ite (.modMs ?_) (.count (.modMs ?_))))
  all_goals
    split
    · exact h.halfRead
    · exact h.halfRead.halfPoison.hbmLost
    · exact h

theorem setPtLoc {die e w} (h : m.InBounds) : (m.setPtLoc die e w).InBounds := h.modMs

theorem patchEnd {die e} (h : m.InBounds) : (m.patchEnd die e).InBounds := .ite h h.modMs.setPtLoc.logErr

theorem patchTake {die e loc} (h : m.InBounds) : (m.patchTake die e loc).InBounds := .patchInstall (.ite h h.sramRead)

theorem writePtLoc {die e v} (h : m.InBounds) : (m.writePtLoc die e v).InBounds :=
  .ite h (.ite h.patchEnd.setPtLoc (.ite h h.patchEnd.patchTake))

theorem writeCh {die h₀ v} (h : m.InBounds) : (m.writeCh die h₀ v).InBounds := .ite h.setCh h

theorem swapUnits {u v} (h : m.InBounds) : (m.swapUnits u v).InBounds := h.setUnit.setUnit.modMs

theorem writeRemap {e v} (h : m.InBounds) : (m.writeRemap e v).InBounds := by
  unfold Mach.writeRemap
  extract_lets v old cap m1 m2 m3
  have h2 : m2.InBounds := modMs (.ite (.ite h.modMs h.swapUnits) h)
  have h3 : m3.InBounds := .ite h2.modMs h2
  exact .ite h h3.logRemap.zeroEnds

theorem remapCopied {e} (h : m.InBounds) : (m.remapCopied e).InBounds := by
  unfold Mach.remapCopied
  refine .ite h ?_
  extract_lets w src hs bytes
  split
  next bad m' read =>
    have h' : m'.InBounds := by
      refine sndOf ?_ read
      exact h.foldlSnd fun _ _ h => h.halfRead
    refine raiseSource (zeroEnds (modMs (h'.swapUnits.setUnit.foldl fun _ _ h => ?_)))
    exact .ite h.halfPoison h.halfClear

theorem softRepair {b} (h : m.InBounds) : (m.softRepair b).2.InBounds := by
  unfold Mach.softRepair
  dsimp only
  split
  · exact h.logErr.modMs.logErr
  · exact h.logErr

theorem softRepairs {l} (h : m.InBounds) : (m.softRepairs l).2.2.InBounds := by
  suffices ∀ acc : BitVec 64 × Bool × Mach, acc.2.2.InBounds → (l.foldl _ acc).2.2.InBounds from this _ h
  induction l with
  | nil => exact fun acc h => h
  | cons b l ih =>
    refine fun acc h => ih _ ?_
    have repaired := h.softRepair (b := b)
    dsimp only
    split
    · exact repaired
    · split <;> exact repaired

theorem patchReload (h : m.InBounds) : m.patchReload.InBounds := by
  refine h.foldl ?_
  intro _ _ h
  split
  · split
    · exact .ite h h.patchInstall
    · exact h
  · exact h

theorem rowRepair (h : m.InBounds) : m.rowRepair.InBounds := by
  refine h.foldl ?_
  intro _ _ h
  split
  · exact .ite h (.ite h.logErr h.logErr.modMs)
  · exact h

theorem unitRepair {all u m'} (h : m.InBounds) (e : m.unitRepair all u = some m') : m'.InBounds := by
  unfold Mach.unitRepair at e
  dsimp only at e
  split at e
  · exact Option.some.inj e ▸ h.logErr
  · split at e
    · exact Option.some.inj e ▸ h.logErr.modMs.repairNote.logRemap
    · nomatch e

theorem remapReload (h : m.InBounds) : m.remapReload.InBounds := by
  unfold Mach.remapReload
  refine memFilter (m := Mach.modMs _ _) (modMs (h.foldl fun m r h => ?_))
  split
  · exact .ite h h.modMs.logRemap
  · exact h

theorem unitRepairs {l us : List (Nat × Nat × Nat)} {m' : Mach} (h : m.InBounds)
    (e : l.foldl (fun (o : Option Mach) u => o.bind fun m => m.unitRepair us u) (some m) = some m') : m'.InBounds := by
  induction l generalizing m with
  | nil => exact ofSome h e
  | cons u l ih =>
    rw [List.foldl_cons, Option.bind_some] at e
    cases repair : m.unitRepair us u with
    | none =>
      rw [repair, List.foldl_fixed' fun _ => rfl] at e
      nomatch e
    | some m1 =>
      rw [repair] at e
      exact ih (h.unitRepair repair) e

theorem memoryRepair {units m'} (h : m.InBounds) (e : m.memoryRepair units = some m') : m'.InBounds := by
  obtain ⟨m1, repaired, rfl⟩ := Option.map_eq_some_iff.mp e
  exact remapReload (unitRepairs h.patchReload.rowRepair repaired)

theorem injectSram {v} (h : m.InBounds) : (m.injectSram v).InBounds := h.modMs

theorem injectHbm {v} (h : m.InBounds) : (m.injectHbm v).InBounds := .ite h.modMs h.modMs

/-! The fabric inside a module -/

theorem countStop {die s sub n} (h : m.InBounds) : (m.countStop die s sub n).InBounds := h.count

theorem discard {die s p syn} (h : m.InBounds) : (m.discard die s p syn).InBounds := .ite h.countStop.faultJob h.countStop.logErr

theorem respond {die s h₀ cmd xst data} (h : m.InBounds) : (m.respond die s h₀ cmd xst data).InBounds := .enq (.ite h.countStop h)

theorem releaseToks {die s src l} (h : m.InBounds) : (m.releaseToks die s src l).InBounds := h.foldl (fun _ _ h => h.releaseSlot)

theorem absorbToks {die s p l} (h : m.InBounds) : (m.absorbToks die s p l).InBounds :=
  .ite h.releaseToks.faultJob h.releaseToks.absorbCount

theorem endFlight {die s tid} (h : m.InBounds) : (m.endFlight die s tid).InBounds := h.modStop

theorem landed {die s tid} (h : m.InBounds) : (m.landed die s tid).InBounds := by
  unfold Mach.landed
  split
  · exact h
  · exact h.endFlight.countStop

theorem absorbAt {die s p noWay} (h : m.InBounds) : (m.absorbAt die s p noWay).InBounds :=
  .ite h.countStop.absorbToks (.ite h.countStop.respond (.ite h.countStop.endFlight h.countStop))

theorem eject {die x p leaving m'} (h : m.InBounds) (e : m.eject die x p leaving = some m') : m'.InBounds := by
  unfold Mach.eject at e
  refine iteSome (iteSome (.ofSome h.absorbAt) .ofNone) (iteSome .ofNone (.ofSome (enq (countStop (countStop ?_))))) e
  exact .ite h.landed h

theorem ejectThrough {die x q n} (h : m.InBounds) : (m.ejectThrough die x q n).InBounds := by
  induction n generalizing m with
  | zero => exact h
  | succ n ih =>
    unfold Mach.ejectThrough
    split
    · exact h
    · dsimp only
      split
      · split
        · exact h
        next ejected => exact .ite (ih (h.eject ejected).setQueue) (h.eject ejected).setQueue
      · split
        · split
          · exact h
          next ejected => exact ih (h.eject ejected).setQueue
        · exact h

theorem checkAt {die s p ecc} (h : m.InBounds) : (m.checkAt die s p ecc).2.InBounds := by
  unfold Mach.checkAt
  refine .iteSnd h.drawWord.discard ?_
  extract_lets m1
  have h1 : m1.InBounds := by
    dsimp only [m1]
    split
    · exact h.countStop
    · exact h
  exact .iteSnd (.pair h1.discard) (.iteSnd (.pair h1.releaseToks.absorbCount) (.pair h1))

theorem hopFrom {die s ring p dest ecc} (h : m.InBounds) : (m.hopFrom die s ring p dest ecc).InBounds :=
  .ite h.checkAt.enq.ejectThrough h.checkAt

theorem injected {die s vc i p} (h : m.InBounds) : (m.injected die s vc i p).InBounds :=
  .ite h.setQueue.countStop.countStop.modStop.modStop h.setQueue.countStop.countStop.modStop

theorem yieldShare {j sub} (h : m.InBounds) : (m.yieldShare j sub).InBounds := h.countJ.countJ

theorem fillCands {die x n} (h : m.InBounds) : (m.fillCands die x n).InBounds := by
  induction n generalizing m with
  | zero => exact h
  | succ n ih =>
    unfold Mach.fillCands
    split
    · exact h
    · exact ih (modStop (foldl h fun _ _ h => h.yieldShare))

theorem candLeaves {die s vc i} (h : m.InBounds) : (m.candLeaves die s vc i).InBounds := by
  unfold Mach.candLeaves
  split
  · exact h
  · dsimp only
    split
    · exact .ite h.injected.countStop.enq h
    · exact h
    · split
      next found => exact (h.eject found).injected
      · exact h
    · exact .ite h.injected.absorbAt h

theorem stopInject {die s} (h : m.InBounds) : (m.stopInject die s).InBounds :=
  h.offerReleases.offerProbes.offerReqs.fillCands.foldl (fun _ _ h => h.candLeaves)

theorem offRing {die s ring} (h : m.InBounds) : (m.offRing die s ring).InBounds :=
  h.foldl (fun _ _ h => h.setQueue.foldl (fun _ _ h => h.enq.countStop))

theorem settleRe {die x} (h : m.InBounds) : (m.settleRe die x).InBounds := by
  unfold Mach.settleRe
  refine h.foldl fun m v h => foldl h.setQueue fun m e h => ?_
  dsimp only
  split
  · exact .ite h.absorbAt h.setQueue
  · exact ofGetD h.setQueue fun _ => h.eject
  · exact h.setQueue

theorem ringHop {die s ring ecc} (h : m.InBounds) : (m.ringHop die s ring ecc).InBounds := by
  unfold Mach.ringHop
  refine .ite h ?_
  extract_lets m1 m2 m3
  have h1 : m1.InBounds := h.foldl fun _ _ h => h.ejectThrough
  have h3 : m3.InBounds := settleRe (.ite h1.offRing h1)
  split
  · exact h3
  · exact hopFrom (modStop (.ite h3.injected h3.deq))

theorem foxglove {die link back vc ecc} (h : m.InBounds) : (m.foxglove die link back vc ecc).InBounds := by
  unfold Mach.foxglove
  dsimp only
  generalize (if back then (fglEnds link).1 else (fglEnds link).2) = far
  split
  · exact h
  · refine .ite h.checkAt.deq (.ite h ?_)
    split
    · exact h
    next ejected =>
      have h' := iteSome h.checkAt.eject (.ofSome h.checkAt) ejected
      exact .ite h'.deq h'.deq.enq

theorem toPort {f p} (h : m.InBounds) : (m.toPort f p).InBounds := h

theorem hubRelease {src slot} (h : m.InBounds) : (m.hubRelease src slot).InBounds := .ite h.freeSlot h.intoDie

theorem peerErr {p} (h : m.InBounds) : (m.peerErr p).InBounds := by
  refine .ite h ?_
  split
  · exact h.toPort
  · exact h

theorem toFabric {p mo} (h : m.InBounds) : (m.toFabric p mo).InBounds := by
  unfold Mach.toFabric
  split
  · exact h.toPort
  · extract_lets hdr m1
    have h1 : m1.InBounds := h.foldl fun _ _ h => h.hubRelease
    exact .ite (.ite h1.faultJob h1.absorbCount) (.ite h.intoDie (.ite h.peerErr h))

theorem bridge {die br toHub vc ecc} (h : m.InBounds) : (m.bridge die br toHub vc ecc).InBounds := by
  refine .ite ?_ ?_
  · split
    · exact h
    · exact .ite h (.ite h.checkAt.deq (.ite (.ite h.checkAt.deq.toFabric h.checkAt.deq.enq) (.ite h.checkAt.deq.enq h)))
  · split
    · exact h
    · exact .ite h.checkAt.deq (.ite (.ite h.checkAt.deq.absorbAt h) (.ite h.checkAt.deq.enq h))

theorem takeTokens {die stop vc cmd} (h : m.InBounds) : (m.takeTokens die stop vc cmd).InBounds := by
  unfold Mach.takeTokens
  extract_lets q
  split
  · exact h
  · extract_lets p
    refine .ite h (.ite ?_ ?_)
    · have taken {mine : List Word} {item : Word → PeId × Item} : (mine.foldl (fun (acc : Mach × List Word) e =>
          match acc.1.pushFifo (item e).1 false (item e).2 with
          | some m => (m, acc.2)
          | none => (acc.1, acc.2 ++ [e])) (m, [])).1.InBounds := by
        refine h.foldlFst fun acc e h => ?_
        split
        next pushed => exact h.pushFifo pushed
        · exact h
      exact .ite (taken (item := fun e => ((mcToken p e).pe, ⟨mcToken p e, p.h.src, e.extractLsb' 43 14⟩))).setQueue
        (taken (item := fun e => ((mcToken p e).pe, ⟨mcToken p e, p.h.src, e.extractLsb' 43 14⟩))).setQueue
    · split
      next pushed => exact (h.pushFifo pushed).setQueue
      · exact h

theorem takeSlotRel {e} (h : m.InBounds) : (m.takeSlotRel e).InBounds := by
  unfold Mach.takeSlotRel
  split
  · dsimp only
    split
    · exact h
    · exact .ite h (.ite h.deq.freeSlot.freeSlot h.deq.freeSlot)
  · dsimp only
    split
    · exact h
    · exact .ite h (.ite h.deq.freeSlot.freeSlot h.deq.freeSlot)

theorem parityLost {a n} (h : m.InBounds) : (m.parityLost a n).InBounds := h.count.logHalf.raiseSource.foldl (fun _ _ h => h.hbmLost)

theorem serveRd {die br par} (h : m.InBounds) : (m.serveRd die br par).InBounds := by
  unfold Mach.serveRd
  split
  · dsimp only
    split
    · exact h
    · exact .ite h (.ite h (.ite h.deq.hubRespond h.deq.parityLost.hubRespond))
  · dsimp only
    split
    · exact h
    · exact .ite h (.ite h (.ite h.deq.hubRespond (.ite h.deq.hbmCheck.rangeLost.hubRespond h.deq.hbmCheck.hubRespond)))

theorem wrEffect {p} (h : m.InBounds) : (m.wrEffect p).InBounds := by
  unfold Mach.wrEffect
  dsimp only
  split
  · exact h.storeServed
  · exact h
  · exact h.hbmWrite

theorem serveWr {die br par} (h : m.InBounds) : (m.serveWr die br par).InBounds := by
  unfold Mach.serveWr
  split
  · dsimp only
    split
    · exact h
    · exact .ite h (.ite h (.ite h (.ite h.deq.hubRespond h.deq.parityLost.hubRespond)))
  · dsimp only
    split
    · exact h
    · exact .ite h (.ite h (.ite h (.ite h.deq.hubRespond h.deq.wrEffect.hubRespond)))

theorem fenceReq {die s} (h : m.InBounds) : (m.fenceReq die s).InBounds := .ite h h.modStop

theorem fenceOpen {die s} (h : m.InBounds) : (m.fenceOpen die s).InBounds := .ite h h.modStop.offerReleases

theorem force {die s} (h : m.InBounds) : (m.force die s).InBounds :=
  .ite h (h.modStop.foldl (fun _ _ h => h.foldl (fun _ _ h => h.setQueue.foldl (fun _ _ h => h.discard))))

theorem fenceAck {die s} (h : m.InBounds) : (m.fenceAck die s).InBounds := .ite h.modStop h

theorem fenceTimeout {die s} (h : m.InBounds) : (m.fenceTimeout die s).InBounds := .ite h.modStop.hwSet.raiseSource h

theorem writeFence {die s v} (h : m.InBounds) : (m.writeFence die s v).InBounds :=
  .ite (.fenceReq (.ite h.force h)) (.fenceOpen (.ite h.force h))

theorem writeRt {die s d v} (h : m.InBounds) : (m.writeRt die s d v).InBounds := .ite h h.modStop

theorem writeStopCfg {die s v} (h : m.InBounds) : (m.writeStopCfg die s v).InBounds :=
  h.modStop.foldl (fun _ _ h => .ite h.offRing h)

theorem stopWrite {die x off v m'} (h : m.InBounds) (e : m.stopWrite die x off v = some m') : m'.InBounds := by
  unfold Mach.stopWrite at e
  refine iteSome (.ofSome h.writeStopCfg) (iteSome (.ofSome h.writeFence) (iteSome (.ofSome (.ite h.modStop h)) fun e => ?_)) e
  refine iteSome .ofNone (iteSome (.ofSome h.writeRt) (iteSome (.ofSome h) (iteSome (.ofSome h) fun e => ?_))) e
  refine iteSome (.ofSome ?_) (iteSome (.ofSome h.writeRbqKey) fun e => ?_) e
  · exact h.modTile fun _ h => h
  exact iteSome .ofNone (iteSome (.ofSome h.writePtLoc) (iteSome (.ofSome h) (iteSome (.ofSome h.writeCh) .ofNone))) e

theorem serveCfgRd {die s} (h : m.InBounds) : (m.serveCfgRd die s).InBounds := by
  unfold Mach.serveCfgRd
  dsimp only
  split
  · exact h
  · refine .ite h ?_
    split
    · exact .respond (.deq (.ite h.avsRead h))
    · exact h.deq.respond

theorem serveCfgWr {die s} (h : m.InBounds) : (m.serveCfgWr die s).InBounds := by
  unfold Mach.serveCfgWr
  dsimp only
  split
  · exact h
  · refine .ite h ?_
    split
    next found => exact (h.deq.stopWrite found).respond
    · exact h.deq.respond

theorem coreResponse {tid status v} (h : m.InBounds) : (m.coreResponse tid status v).InBounds := by
  unfold Mach.coreResponse
  split
  · exact h.logErr
  · refine .ite ?_ (.ite (.setCore h) (.logErr (.count (.setCore h))))
    split
    · exact .ite (.coreDone h) (.coreTrap (.setCore h))
    · exact h

theorem reqEnds {die x tid err e0 e1 m'} (h : m.InBounds) (e : m.reqEnds die x tid err e0 e1 = some m') : m'.InBounds := by
  unfold Mach.reqEnds at e
  refine iteSome .ofNone (fun e => ?_) e
  dsimp only at e
  split at e
  · split at e
    · exact ofSome h.endReq.storeAcked e
    · refine ofSome ?_ e
      split
      · exact h.endReq.faultJob
      · exact h.endReq
  · refine ofSome ?_ e
    split
    · exact h.endProbe.faultJob
    · exact h.endProbe
  · exact ofNone e

theorem takeResponse {e cmd} (h : m.InBounds) : (m.takeResponse e cmd).InBounds := by
  unfold Mach.takeResponse
  dsimp only
  split
  · exact h
  · refine .ite h ?_
    split
    · exact h.deq.coreResponse
    · exact .ofGetD h.deq.logErr fun _ => h.deq.reqEnds

theorem requestTimeout {e tid} (h : m.InBounds) : (m.requestTimeout e tid).InBounds := by
  unfold Mach.requestTimeout
  split
  · refine .ite h ?_
    split
    · exact .ite h (.ofGetD h fun _ => h.endFlight.reqEnds)
    · exact .ite h.endFlight h
  · refine .ite h ?_
    split
    · exact .ite h (coreResponse (h.foldl fun _ _ h => h.foldl fun _ _ h => h.endFlight))
    · exact h

theorem hubReport {x} (h : m.InBounds) : (m.hubReport x).InBounds := h.modJob

theorem hubTerm {slot x} (h : m.InBounds) : (m.hubTerm slot x).InBounds := .hubReport h

theorem hubPlace {slot src t tag} (h : m.InBounds) : (m.hubPlace slot src t tag).InBounds :=
  .ite h.hubTerm.intoDie h.hubTerm.toFabric

theorem hubInject {src t tag} (h : m.InBounds) : (m.hubInject src t tag).InBounds := by
  unfold Mach.hubInject
  split
  · exact h.hubPlace
  · exact .hubReport h

theorem hubDrain (h : m.InBounds) : m.hubDrain.InBounds := by
  unfold Mach.hubDrain
  split
  · exact h
  · refine .ite (.absorbCount h) ?_
    split
    · exact h
    · exact .hubPlace h

/-! Probes and streams -/

theorem modStream {s f} (h : m.InBounds) : (m.modStream s f).InBounds := h

theorem modTrigger {t f} (h : m.InBounds) : (m.modTrigger t f).InBounds := h

theorem ackMsg {t br} (h : m.InBounds) : (m.ackMsg t br).InBounds := by
  unfold Mach.ackMsg
  split
  · exact h
  · exact h.deq.hubRespond

theorem collect {t x} (h : m.InBounds) : (m.collect t x).InBounds := .ite h (.ite h.count (.ite (.faultJob h) (.setObj h)))

theorem probeItem {t} (h : m.InBounds) : (m.probeItem t).InBounds := by
  unfold Mach.probeItem
  split
  · exact h.ackMsg.collect
  · exact h.ackMsg
  · exact h

theorem probeCancel {t} (h : m.InBounds) : (m.probeCancel t).InBounds := by
  unfold Mach.probeCancel
  split
  · exact .count h.ackMsg
  · exact h

theorem closePacket {s fin trunc} (h : m.InBounds) : (m.closePacket s fin trunc).InBounds := by
  unfold Mach.closePacket
  dsimp only
  split
  · exact h
  · exact h.hbmWrite.modStream.count

theorem streamFull {s} (h : m.InBounds) : (m.streamFull s).InBounds := by
  refine .ite ?_ (.ite h h.modStream)
  split
  · exact .pauseInside (.logErr (.count (.ite h h.modStream)))
  · exact .logErr (.count (.ite h h.modStream))

theorem openPacket {s} (h : m.InBounds) : (m.openPacket s).InBounds := h.modStream

theorem settleStream {s} (h : m.InBounds) : (m.settleStream s).InBounds := by
  refine .ite h.streamFull ?_
  split
  · exact .ite h.closePacket.modStream.streamFull (.ite h.openPacket.closePacket.modStream.streamFull h.streamFull)
  · exact .ite h.closePacket.modStream.streamFull h.streamFull

theorem itemWrite {s} (h : m.InBounds) : (m.itemWrite s).InBounds := by
  unfold Mach.itemWrite
  extract_lets x m1
  split
  · exact h.settleStream
  · refine .ite h.streamFull ?_
    have h1 : m1.InBounds := .ite h h.openPacket
    split
    · exact h1
    · exact settleStream (.ite h1.hbmWrite.modStream.count.closePacket h1.hbmWrite.modStream.count)

theorem frontPush {s} (h : m.InBounds) : (m.frontPush s).InBounds := by
  unfold Mach.frontPush
  dsimp only
  split
  · exact h
  · exact .ite h h.modStream.streamFull

theorem packetCommit {s} (h : m.InBounds) : (m.packetCommit s).InBounds := by
  unfold Mach.packetCommit
  dsimp only
  split
  · exact h
  · refine .ite h ?_
    split
    · exact h.modStream.msi
    · exact h.modStream

theorem strRead {s v} (h : m.InBounds) : (m.strRead s v).InBounds := .ite h.modStream h

theorem strMark {s} (h : m.InBounds) : (m.strMark s).InBounds := .ite h.modStream h

theorem strRewind {s} (h : m.InBounds) : (m.strRewind s).InBounds := .ite h.modStream h

theorem strRelease {s} (h : m.InBounds) : (m.strRelease s).InBounds := .ite h.modStream.settleStream h

theorem strClose {s} (h : m.InBounds) : (m.strClose s).InBounds := .ite h.closePacket.settleStream h

theorem strDisable {s discard} (h : m.InBounds) : (m.strDisable s discard).InBounds := .ite h h.modStream.count.settleStream

theorem strCfg {s vectors v} (h : m.InBounds) : (m.strCfg s vectors v).InBounds := .ite h h.modStream

theorem strCtl {s v} (h : m.InBounds) : (m.strCtl s v).InBounds := by
  unfold Mach.strCtl
  split
  · exact h.strMark
  · exact h.strRewind
  · exact h.strRelease
  · exact h.strDisable
  · exact h.strDisable
  · exact h.strClose
  · exact h

theorem trgCtl {t vectors v} (h : m.InBounds) : (m.trgCtl t vectors v).InBounds := .ite h h.modTrigger

theorem offer {s i} (h : m.InBounds) : (m.offer s i).InBounds := .ite h.count h.modStream

theorem trgAct {j t i g} (h : m.InBounds) : (m.trgAct j t i g).2.InBounds := by
  unfold Mach.trgAct
  extract_lets x g0 m1 m2 m3 m4
  have h1 : m1.InBounds := .ite h.offer h
  have h2 : m2.InBounds := .ite h1.msi h1
  have h3 : m3.InBounds := .ite h2.modTrigger h2
  have h4 : m4.InBounds := .ite h3.modTrigger h3
  exact h4

theorem releaseTag {j g l} (h : m.InBounds) : (m.releaseTag j g l).2.InBounds := by
  unfold Mach.releaseTag
  refine foldlSnd (foldl (foldl h fun m i h => ?_) fun m e h => ?_) fun acc e h => ?_
  · split
    · exact h.offer
    · exact h
  · exact h.count.setObj.setObj
  · exact h.trgAct

theorem releaseEnd {s} (h : m.InBounds) : (m.releaseEnd s).InBounds := .ite h.modStream (.ite h.modStream (.ite h.closePacket h))

theorem probeRelease {j g} (h : m.InBounds) : (m.probeRelease j g).InBounds := by
  unfold Mach.probeRelease
  extract_lets out m1
  have h1 : m1.InBounds := h
  split
  next m2 released =>
    have h2 : m2.InBounds := by
      refine sndOf ?_ released
      exact h1.foldlSnd fun _ _ h => h.releaseTag
    extract_lets m3
    have h3 : m3.InBounds := h2.foldl fun _ _ h => h.releaseEnd
    exact .ite h3.pauseInside h3

theorem closeStreams {j} (h : m.InBounds) : (m.closeStreams j).InBounds := h.foldl (fun _ _ h => h.modStream.settleStream)

/-! Life of jobs -/

theorem recordLost (h : m.InBounds) : m.recordLost.InBounds := h.foldl (fun _ _ h => h.logErr)

theorem hubReset {d} (h : m.InBounds) : (m.hubReset d).InBounds := { h with
    mem := rfl
    posts := Nat.zero_le _
    tiles := fun _ he => nomatch he }

theorem moveTo {v} (h : m.InBounds) : (m.moveTo v).InBounds := .evFrame h

theorem enterStandby (h : m.InBounds) : m.enterStandby.InBounds := h.recordLost.hubReset.moveTo

theorem enterBoot (h : m.InBounds) : m.enterBoot.InBounds := h.recordLost.hubReset.moveTo

theorem enterFault {railsDown block loc d0 d1 d2 d3} (h : m.InBounds) : (m.enterFault railsDown block loc d0 d1 d2 d3).InBounds :=
  h.logErr.recordLost.hubReset.moveTo

theorem removeTiles {mask} (h : m.InBounds) : (m.removeTiles mask).InBounds := by
  unfold Mach.removeTiles
  dsimp only
  split
  · exact h.modMs.setObj
  · exact h.modMs

theorem removeDie {d n} (h : m.InBounds) : (m.removeDie d n).InBounds := .foldl (.removeTiles (.logErr h)) (fun _ _ h => h.faultJob)

theorem enterRun {j} (h : m.InBounds) : (m.enterRun j).InBounds := .setJobState (.modJob (.ite h h.modJob))

theorem stopDone {j} (h : m.InBounds) : (m.stopDone j).InBounds := by
  unfold Mach.stopDone
  refine .ite h.finishSweeps (foldl (.ite ?_ ?_) fun _ _ h => h.completeCmd)
  · exact h.finishSweeps.absorbJob.modJob.setJobState.closeStreams
  · exact h.finishSweeps.absorbJob.modJob

theorem enterPaused {j} (h : m.InBounds) : (m.enterPaused j).InBounds :=
  .ite h.modJob.setJobState.closeStreams.stopDone h.modJob.setJobState.closeStreams

/-! Horizons -/

theorem sampleJob {j} (h : m.InBounds) : (m.sampleJob j).InBounds := .ite h.modJob h.modJob

theorem snapshot (h : m.InBounds) : m.snapshot.InBounds := by
  unfold Mach.snapshot
  refine .ite h (.ite (withSnap (withNet ?_)) (withNet ?_))
  all_goals exact h.foldl fun _ _ h => h.sampleJob

theorem pushSweeps {j g} (h : m.InBounds) : (m.pushSweeps j g).InBounds := h.foldl (fun _ _ h => h.modPe)

theorem releaseReads {j g} (h : m.InBounds) : (m.releaseReads j g).InBounds := by
  refine h.modJob.foldl ?_
  intro _ _ h
  split
  · exact h.modJob.hostWrites
  · exact h

theorem commit {j g} (h : m.InBounds) : (m.commit j g).InBounds := by
  unfold Mach.commit
  refine .ite (withTgt ?_) ?_
  all_goals exact probeRelease (releaseReads (pushSweeps (modJob h)))

theorem presentDeep {j} (h : m.InBounds) : (m.presentDeep j).InBounds := h.foldl (fun _ _ h => h.foldl (fun _ _ h => h.evalReady))

theorem timeExhausted {j} (h : m.InBounds) : (m.timeExhausted j).InBounds :=
  .ite h.modJob.setJobState.closeStreams.stopDone h.modJob.setJobState.closeStreams

theorem quiesce {j} (h : m.InBounds) : (m.quiesce j).InBounds := by
  refine .ite (.timeExhausted ?_) (.ite (.enterPaused ?_) (.closeStreams (.setJobState ?_)))
  all_goals
    split
    · exact .ite h h
    · exact .commit (.modJob (.ite h h))

theorem pauseRollbacks {j from_} (h : m.InBounds) : (m.pauseRollbacks j from_).InBounds := by
  refine h.foldl ?_
  intro _ _ h
  split
  · split
    · exact .ite h h.requestRb
    · exact h

theorem pauseStep {j} (h : m.InBounds) : (m.pauseStep j).InBounds := by
  unfold Mach.pauseStep
  dsimp only
  split
  · exact .ite h (.ite h.enterPaused (.modJob (.pauseRollbacks (.ite h h.requestPost))))
  · exact h

theorem deliver {j g s} (h : m.InBounds) : (m.deliver j g s).InBounds := by
  unfold Mach.deliver
  split
  · refine .ite h (.ite (.pauseStep (.presentDeep (.countJ ?_))) h.quiesce.countJ)
    exact .ite h.modJob.commit h.modJob
  · refine .ite (.timeExhausted (.countJ ?_)) (.pauseStep (.presentDeep (.countJ ?_)))
    all_goals exact .ite h.modJob.commit h.modJob

theorem voidReduction {k} (h : m.InBounds) : (m.voidReduction k).InBounds :=
  .ite (.logErr h) (.ite (.enterFault (.logErr h)) (.removeDie (.logErr h)))

theorem horizonDelivery {void} (h : m.InBounds) : (m.horizonDelivery void).InBounds := by
  refine .ite (.ite h h) ?_
  split
  · exact .ite h h.voidReduction
  · exact .foldl (.ite h h) (fun _ _ h => .ite h (.ite h.modJob h.modJob.deliver))

theorem setW {t j w} (h : m.InBounds) : (m.setW t j w).InBounds := h.modTile (fun _ h => h)

theorem governJob {t j} (h : m.InBounds) : (m.governJob t j).InBounds := by
  unfold Mach.governJob
  split
  · refine .ite (countJ ?_) (.ite (countJ ?_) ?_)
    all_goals exact h.setW.modTile fun _ h => h
  · exact h.setW
  · exact h.setW

theorem govRestart (h : m.InBounds) : m.govRestart.InBounds := InBounds.tiles_map h fun _ h => h

theorem governorPeriod (h : m.InBounds) : m.governorPeriod.InBounds := by
  refine .ite h (govRestart ?_)
  exact foldl (h.foldl fun _ _ h => h.modJob) fun _ _ h => h.setObj.foldl fun _ _ h => h.governJob

theorem stallEvent {j} (h : m.InBounds) : (m.stallEvent j).InBounds := by
  refine .ite h ?_
  split
  · exact h.modJob.countJ.requestPost.setEvt
  · exact h.modJob.countJ.requestPost.setEvt.pauseStalled
  · exact h.modJob.countJ.requestPost.setEvt.faultJob

theorem orphanDiscard {j v} (h : m.InBounds) : (m.orphanDiscard j v).2.InBounds := by
  unfold Mach.orphanDiscard
  split
  · exact h
  · split
    · exact h
    · exact h.foldl (fun _ _ h => h.foldl (fun _ _ h => h.foldl (fun _ _ h => h.freeGroup.countJ.logErr)))

theorem pauseTime {j t} (h : m.InBounds) : (m.pauseTime j t).2.InBounds := by
  unfold Mach.pauseTime
  split
  next found => exact (h.pauseAt.sndOf found).setObj
  · exact h.pauseAt

theorem cancelPause {j} (h : m.InBounds) : (m.cancelPause j).InBounds := .ite h (.modJob h)

theorem resume {j v} (h : m.InBounds) : (m.resume j v).2.InBounds := by
  unfold Mach.resume
  exact .iteSnd (.iteSnd h h.cancelPause.modJob.enterRun) (.iteSnd (.iteSnd h h.cancelPause.modJob) h)

/-! Paced targets -/

theorem correctWall {v} (h : m.InBounds) : (m.correctWall v).InBounds := .ite h (.ite h h)

theorem syncInEdge (h : m.InBounds) : m.syncInEdge.InBounds := .ite h.raiseSource.correctWall.count.govRestart h.raiseSource

theorem syncOutPulse (h : m.InBounds) : m.syncOutPulse.InBounds := .ite h h

theorem driveOutput {j i n} (h : m.InBounds) : (m.driveOutput j i n).InBounds := by
  unfold Mach.driveOutput
  refine .ite h ?_
  have fetched {r} : (({ m with tgt := { m.tgt with owed := SMap.erase m.tgt.owed i } } : Mach).settledFetch r).2.InBounds := settledFetch h
  dsimp only
  split
  next fetch => exact fetched.sndOf fetch
  next fetch =>
    have h' := fetched.sndOf fetch
    split
    · exact h'.withTgt
    · exact h'

theorem driveOutputs {j n} (h : m.InBounds) : (m.driveOutputs j n).InBounds := h.foldl (fun _ _ h => .ite h h.driveOutput)

theorem tickOutputs (h : m.InBounds) : m.tickOutputs.InBounds := h.foldl (fun _ _ h => .ite h h.driveOutput)

theorem takeEdge {j ins} (h : m.InBounds) : (m.takeEdge j ins).InBounds := by
  unfold Mach.takeEdge
  extract_lets jb n k late tgt0 m1 m2 tgt2 m3 tgt3 m4 m5
  refine .ite h.pauseInside.logErr ?_
  have h1 : m1.InBounds := h
  have h4 : m4.InBounds := .ite h1.countJ.raiseSource h1.driveOutputs
  refine .ite h4 (modJob ?_)
  exact h4.foldl fun _ _ h => h.hubInject

theorem targetEdge {rising ins} (h : m.InBounds) : (m.targetEdge rising ins).InBounds := by
  refine .ite h (.ite h ?_)
  split
  · exact h.countJ.takeEdge
  · exact h.countJ
  · exact h

/-! The module fabric -/

theorem modPort {f g} (h : m.InBounds) : (m.modPort f g).InBounds := h

theorem countPort {f sub n} (h : m.InBounds) : (m.countPort f sub n).InBounds := h.count

theorem partnerRecord {f who ev reason detail} (h : m.InBounds) : (m.partnerRecord f who ev reason detail).InBounds :=
  h.ringRecord.raiseSource

theorem portRecord {f ev reason} (h : m.InBounds) : (m.portRecord f ev reason).InBounds := h.partnerRecord

theorem pathLost {j f who ev} (h : m.InBounds) : (m.pathLost j f who ev).InBounds := h.faultJob

theorem takeSymbol {f code u eff} (h : m.InBounds) (keeps : m.InBounds → (eff m).InBounds) : (m.takeSymbol f code u eff).InBounds :=
  .ite h (.ite h.countPort (.ite h (keeps h)))

theorem peerSend {dest type data} (h : m.InBounds) : (m.peerSend dest type data).InBounds := .toFabric h

theorem peerAnswer {p data} (h : m.InBounds) : (m.peerAnswer p data).InBounds := h.toFabric

theorem takePeer {type ok f p m'} (h : m.InBounds) (e : m.takePeer type ok = some (f, p, m')) : m'.InBounds := by
  obtain ⟨_, _, e⟩ := Option.map_eq_some_iff.mp e
  cases e
  exact h

theorem lostFail {x} (h : m.InBounds) : (m.lostFail x).InBounds :=
  .partnerRecord (.foldl (.foldl (.foldl h (fun _ _ h => h.hubRelease)) (fun _ _ h => .ite h.pathLost h)) (fun _ _ h => h.toFabric))

theorem lostTidy (h : m.InBounds) : m.lostTidy.InBounds := h

theorem setTree {oldRoot} (h : m.InBounds) : (m.setTree oldRoot).InBounds := .ite h h

theorem mapUpdate {f who out} (h : m.InBounds) : (m.mapUpdate f who out).InBounds := by
  unfold Mach.mapUpdate
  refine foldl (foldl (.partnerRecord (.setTree h)) fun m _ h => ?_) fun _ _ h => h.lostFail
  exact foldl (h.foldl fun _ _ h => h.freeLock.count) fun _ _ h => .ite h.pathLost h

theorem ownChange {f who} (h : m.InBounds) : (m.ownChange f who).InBounds := .foldl (.mapUpdate h) (fun _ _ h => h.peerSend)

theorem leaveUp {f x} (h : m.InBounds) : (m.leaveUp f x).InBounds :=
  .ite (.peerSend (.ownChange (h.foldl (fun _ _ h => h.lostFail)))) (.ownChange (h.foldl (fun _ _ h => h.lostFail)))

theorem portDown {f state reason} (h : m.InBounds) : (m.portDown f state reason).InBounds := by
  unfold Mach.portDown
  extract_lets x m1 m2 m3
  have h2 : m2.InBounds := .ite h.portRecord.countPort h.portRecord
  exact .ite h2.modPort.leaveUp h2.modPort

theorem flEnable {f v} (h : m.InBounds) : (m.flEnable f v).InBounds := .ite (.ite h.modPort h) (.ite h h.portDown)

theorem trained {f} (h : m.InBounds) : (m.trained f).InBounds := .ite h h.modPort.linkSend

theorem portUp {f} (h : m.InBounds) : (m.portUp f).InBounds :=
  .foldl (.ownChange (.portRecord (h.foldl (fun _ _ h => h.lostFail)))) (fun _ _ h => h.peerSend)

theorem oldInstance {f serial epoch} (h : m.InBounds) : (m.oldInstance f serial epoch).InBounds := by
  unfold Mach.oldInstance
  split
  · exact h
  · exact .ite (.mapUpdate (h.foldl (fun _ _ h => h.portDown))) (h.foldl (fun _ _ h => h.portDown))

theorem hold {f reason} (h : m.InBounds) : (m.hold f reason).InBounds := .ite h h.modPort.portRecord

theorem identityFrame {f u} (h : m.InBounds) : (m.identityFrame f u).InBounds := by
  unfold Mach.identityFrame
  refine .ite h (.ite h ?_)
  extract_lets mo serial epoch m1
  have h1 : m1.InBounds := .ite h h.oldInstance
  exact .ite h1.linkSend (.ite h1 (.ite h1.linkSend.modPort.hold (.ite h1.linkSend.modPort.portUp h1.linkSend.modPort)))

theorem identAck {f u} (h : m.InBounds) : (m.identAck f u).InBounds := .ite h (.ite (.ite h.modPort.portUp h.modPort) h.modPort.hold)

theorem heartbeatSend {f} (h : m.InBounds) : (m.heartbeatSend f).InBounds := .ite h h.modPort.linkSend

theorem heartbeat {f u} (h : m.InBounds) : (m.heartbeat f u).InBounds := .ite h h.modPort

theorem heartbeatExpiry {f} (h : m.InBounds) : (m.heartbeatExpiry f).InBounds :=
  .ite h (.ite h.modPort.countPort.portDown h.modPort.countPort)

theorem frameNew {f vc c q} (h : m.InBounds) : (m.frameNew f vc c q).InBounds := h.modPort.countPort.linkSend

theorem frameSend {f} (h : m.InBounds) : (m.frameSend f).InBounds := by
  unfold Mach.frameSend
  refine .ite h ?_
  split
  · split
    · exact h.modPort.linkSend
    · exact h.modPort
  · extract_lets m1
    have h1 : m1.InBounds := .ite h h.modPort
    split
    · exact h1
    · exact .ite (.absorbCount (h1.modPort.foldl fun _ _ h => h.hubRelease)) (.frameNew (h1.foldl fun _ _ h => h.yieldShare))

theorem replayFrom {f s} (h : m.InBounds) : (m.replayFrom f s).InBounds := .ite h.modPort h.modPort.countPort

theorem replayAll {f} (h : m.InBounds) : (m.replayAll f).InBounds := by
  unfold Mach.replayAll
  split
  · exact h
  · exact h.replayFrom

theorem ack {f s} (h : m.InBounds) : (m.ack f s).InBounds := .ite h h.modPort

theorem nak {f s} (h : m.InBounds) : (m.nak f s).InBounds := .ite h.replayFrom h

theorem replayTimeout {f} (h : m.InBounds) : (m.replayTimeout f).InBounds :=
  .ite h (.ite h.modPort.replayAll h.modPort.countPort.portRecord)

theorem retrained {f} (h : m.InBounds) : (m.retrained f).InBounds := .ite h h.modPort.portRecord.replayAll

theorem sendAck {f} (h : m.InBounds) : (m.sendAck f).InBounds := h.modPort.linkSend

theorem sendCredit {f} (h : m.InBounds) : (m.sendCredit f).InBounds := h.modPort.linkSend

theorem hubTake {f p m'} (h : m.InBounds) (e : m.hubTake f p = some m') : m'.InBounds := by
  unfold Mach.hubTake at e
  split at e
  · exact Option.some.inj e ▸ h.toFabric
  · split at e
    · dsimp only at e
      split at e
      · exact Option.some.inj e ▸ h.intoDie
      · nomatch e
    · exact Option.some.inj e ▸ h

theorem unitsFreed {f vc n} (h : m.InBounds) : (m.unitsFreed f vc n).InBounds := .ite h.modPort.sendCredit h.modPort

theorem drainVc {f vc n} (h : m.InBounds) : (m.drainVc f vc n).InBounds := by
  induction n generalizing m with
  | zero => exact h
  | succ n ih =>
    unfold Mach.drainVc
    split
    · exact h
    · split
      · exact h
      next taken =>
        have h' := h.hubTake taken
        exact ih (.ite h'.modPort.unitsFreed h'.modPort)

theorem drainPort {f} (h : m.InBounds) : (m.drainPort f).InBounds := h.foldl (fun _ _ h => h.drainVc)

theorem receivePacket {f vc p} (h : m.InBounds) : (m.receivePacket f vc p).InBounds := by
  refine .ite (.ite h.faultJob.unitsFreed h.logErr.unitsFreed) (.ite h.modPort (.ite h.absorbCount.unitsFreed ?_))
  split
  · exact h
  · exact h.hubTerm.modPort

theorem dataFrame {f u} (h : m.InBounds) : (m.dataFrame f u).InBounds := by
  unfold Mach.dataFrame
  extract_lets x nakOnce m1
  have naks {m : Mach} (h : m.InBounds) : (nakOnce m).InBounds := .ite h h.modPort.linkSend
  refine .ite h ?_
  split
  · exact naks h.countPort
  · extract_lets ps m2 m3
    refine .ite (.ite h.sendAck (naks h)) (.ite (naks h) ?_)
    have h3 : m3.InBounds := drainPort (h.modPort.countPort.foldl fun _ _ h => h.receivePacket)
    exact .ite h3.sendAck h3

theorem credit {f u} (h : m.InBounds) : (m.credit f u).InBounds := .ite h h.modPort

theorem pauseVcs {f u} (h : m.InBounds) : (m.pauseVcs f u).InBounds := .ite h h.modPort.countPort

theorem pauseExpiry {f vc} (h : m.InBounds) : (m.pauseExpiry f vc).InBounds := h.modPort

theorem calTrigger {f} (h : m.InBounds) : (m.calTrigger f).InBounds := .ite h h.modPort.linkSend

theorem calReq {f} (h : m.InBounds) : (m.calReq f).InBounds := .ite h h.modPort.countPort.portRecord

theorem calEnd {f} (h : m.InBounds) : (m.calEnd f).InBounds := .ite h h.modPort.replayAll

theorem linkState (h : m.InBounds) : m.linkState.InBounds := by
  unfold Mach.linkState
  split
  · exact h
  next taken =>
    have h' := h.takePeer taken
    exact .ite h' (foldl h'.withMap.mapUpdate fun _ _ h => h.peerSend)

theorem resync (h : m.InBounds) : m.resync.InBounds := by
  unfold Mach.resync
  dsimp only
  split
  · exact h
  next taken =>
    have h' := h.takePeer taken
    split
    · exact h'
    · exact lostTidy (partnerRecord (foldl (foldl h'.withLost fun _ _ h => h.hubRelease) fun _ _ h => h.toFabric))

theorem resyncTimeout {f} (h : m.InBounds) : (m.resyncTimeout f).InBounds := by
  unfold Mach.resyncTimeout
  split
  · exact h.lostFail
  · exact h

theorem frameAckRelay (h : m.InBounds) : m.frameAckRelay.InBounds := by
  unfold Mach.frameAckRelay
  split
  · exact h
  next taken =>
    have h' := h.takePeer taken
    dsimp only
    split
    · exact h'
    · exact lostTidy (foldl h'.withLost fun _ _ h => h.hubRelease)

theorem peerLock (h : m.InBounds) : m.peerLock.InBounds := by
  unfold Mach.peerLock
  split
  · exact h
  next taken =>
    have h' := h.takePeer taken
    refine .ite h' (.peerAnswer (.ite (.ite (.lockReq (foldl h'.withPeers fun _ _ h => h.peerSend)) h'.count) (.ite h'.withPeers
      (.ite h'.lockReq.withPeers h'.lockReq.withPeers))))

theorem lockWakes (h : m.InBounds) : m.lockWakes.InBounds := by
  unfold Mach.lockWakes
  split
  · exact foldl h.withPeers fun _ _ h => h.peerSend
  · split
    next taken => exact h.takePeer taken
    · exact h

theorem runEnd {j e} (h : m.InBounds) : (m.runEnd j e).InBounds := .foldl (.ite h h.modJob) (fun _ _ h => h.completeCmd)

theorem runReady {j} (h : m.InBounds) : (m.runReady j).InBounds := .ite h.modJob.runEnd.enterRun h

theorem runRefused {j} (h : m.InBounds) : (m.runRefused j).InBounds := .ite h.runEnd h.modJob

theorem runSpanning {j pair} (h : m.InBounds) : (m.runSpanning j pair).2.InBounds := by
  unfold Mach.runSpanning
  dsimp only
  split
  · exact h
  · exact .runReady (h.modJob.foldl (fun _ _ h => h.modJob.peerSend))

theorem checkAnswer {j n ok} (h : m.InBounds) : (m.checkAnswer j n ok).InBounds := .ite h (.ite h.modJob.runReady h.runRefused)

theorem jobCheck (h : m.InBounds) : m.jobCheck.InBounds := by
  unfold Mach.jobCheck
  split
  · exact h
  next taken =>
    have h' := h.takePeer taken
    exact .ite h'.checkAnswer (.ite (h'.foldl fun _ _ h => h.checkAnswer) (.ite h'.modJob.runReady.peerAnswer h'.runRefused.peerAnswer))

/-! Waves -/

theorem hzAck {f wave kind j} (h : m.InBounds) : (m.hzAck f wave kind j).InBounds := h.linkSend

theorem requestDown (h : m.InBounds) : m.requestDown.InBounds := h.foldl (fun _ _ h => h.hzSend)

theorem waveStart (h : m.InBounds) : m.waveStart.InBounds := .ite h (.requestDown h)

theorem waveApply {res} (h : m.InBounds) : (m.waveApply res).InBounds := by
  refine .ite h.logErr (.count (h.foldl (fun _ _ h => ?_)))
  refine .deliver ?_
  split
  · exact .ite h h.modJob
  · exact h

theorem resultDown {res} (h : m.InBounds) : (m.resultDown res).InBounds := h.foldl (fun _ _ h => h.hzSend.linkSend)

theorem frameAcks (h : m.InBounds) : m.frameAcks.InBounds := by
  unfold Mach.frameAcks
  refine lostTidy (withLost (foldl (foldl h fun m f h => ?_) fun _ _ h => ?_))
  · exact ite (linkSend (modPort h)) h
  · exact h.peerSend

theorem waveStep (h : m.InBounds) : m.waveStep.InBounds := by
  refine .ite h (.ite (.frameAcks (.waveApply (.resultDown (.setObj h)))) ?_)
  split
  · exact .frameAcks (.hzSend h)
  · exact h

theorem hzReq {f u} (h : m.InBounds) : (m.hzReq f u).InBounds := .ite h (.ite h.hzAck (.requestDown h))

theorem hzUp {f u} (h : m.InBounds) : (m.hzUp f u).InBounds := .ite h (.ite h.hzAck (.ite (.waveStep (.hzAck h)) h))

theorem hzDown {f u} (h : m.InBounds) : (m.hzDown f u).InBounds := .ite h (.ite h.hzAck (.ite (.waveApply (.resultDown h)) h))

theorem hzPause {f u} (h : m.InBounds) : (m.hzPause f u).InBounds := .ite h h.hzAck.pauseUp

theorem hzAcked {f u} (h : m.InBounds) : (m.hzAcked f u).InBounds := .ite h h

theorem hzRepeat {f} (h : m.InBounds) : (m.hzRepeat f).InBounds := .ite h (h.foldl (fun _ _ h => h.foldl (fun _ _ h => h.linkSend)))

theorem hzFrameAck {f s} (h : m.InBounds) : (m.hzFrameAck f s).InBounds := .ite h (h.modPort.foldl (fun _ _ h => h.hubRelease))

theorem timeSymbol {f u} (h : m.InBounds) : (m.timeSymbol f u).InBounds := .ite h h.correctWall

/-! The loader -/

theorem apertureDrop {r} (h : m.InBounds) : (m.apertureDrop r).InBounds := .ite h h

theorem freeRegion {r zero} (h : m.InBounds) : (m.freeRegion r zero).InBounds := .apertureDrop (.ite h.hbmZero h)

theorem stagingMib {j n} (h : m.InBounds) : (m.stagingMib j n).2.InBounds := by
  have freed : ((m.freeRegion (m.job j).staging (m.job j).enc).modJob j fun x => { x with staging := {} }).InBounds := h.freeRegion.modJob
  unfold Mach.stagingMib
  split
  · exact h
  · dsimp only
    split
    · exact freed.setObj
    · generalize (if m.part = .p4830 then 2 ^ 33 else 2 ^ 34) = top
      split
      · exact h
      · split
        · exact h
        · exact freed.hbmZero.modJob.setObj

theorem releaseProbes {j} (h : m.InBounds) : (m.releaseProbes j).InBounds := by
  unfold Mach.releaseProbes
  refine InBounds.tiles_map (foldl (foldl h fun m a h => ?_) fun m a h => ?_) fun _ h => h
  · exact clearIdx (m := { m with streams := _ }) h
  · exact clearIdx (m := { m with triggers := _ }) h

theorem windowsAtLoad {j} (h : m.InBounds) : (m.windowsAtLoad j).InBounds := h.foldl (fun _ _ h => h.modTile (fun _ h => h))

theorem journal_erase {x : Tile} {p q r s} (h : x.InBounds) :
    TileWithin (x.journal.filter p) (x.rbq.filter q) (x.holds.filter r) (x.pend.filter s) where
  rising := (TileWithin.rising h).filter p
  below e he := TileWithin.below h e (List.mem_of_mem_filter he)
  rbq := (List.length_filter_le _ _).trans (TileWithin.rbq h)
  holds := (List.length_filter_le _ _).trans (TileWithin.holds h)
  pend := (List.length_filter_le _ _).trans (TileWithin.pend h)

theorem dropJobState {j} (h : m.InBounds) : (m.dropJobState j).InBounds := InBounds.tiles_map h fun _ h => InBounds.journal_erase h

theorem clearLoad {j} (h : m.InBounds) : (m.clearLoad j).InBounds := h

theorem unloadJob {j} (h : m.InBounds) : (m.unloadJob j).InBounds := by
  unfold Mach.unloadJob
  extract_lets b m1 m2 tgt m3 m4 m5
  have h2 : m2.InBounds := h.absorbJob.dropJobState.releaseProbes.foldl fun _ _ h => h.freeRegion
  have h3 : m3.InBounds := .ite h2 h2
  exact clearLoad (h3.setJobState.modJob.foldl fun _ _ h => h.clearIdx)

theorem loadStatus {j v} (h : m.InBounds) : (m.loadStatus j v).InBounds := h.setObj

theorem loadEnd {j pair since status off} (h : m.InBounds) : (m.loadEnd j pair since status off).InBounds := by
  unfold Mach.loadEnd
  split
  · split
    · exact h.loadStatus.setObj.setObj.completeCmd
    · exact h.loadStatus.setObj.setObj
  · split
    · exact h.loadStatus.setObj.setObj.completeCmd
    · exact h.loadStatus.setObj.setObj

theorem loadFail {j pair since e design} (h : m.InBounds) : (m.loadFail j pair since e design).InBounds := h.logErr.loadEnd

theorem loadAsk {j v pair} (h : m.InBounds) : (m.loadAsk j v pair).2.InBounds := by
  unfold Mach.loadAsk
  refine .iteSnd h (.iteSnd h (.iteSnd h (.iteSnd h ?_)))
  exact loadStatus (m := { m with loads := _ }) h

/-- One region of `allocate`, with any function in the place of the recursive call: comparing two unfoldings of the recursion, the kernel would
compute `granule`, and here it compares none. -/
theorem allocateNext {j q r} {next : List.below (motive := fun _ => Mach → Mach × Option LoadErr) (q :: r)} (h : m.InBounds)
    (rest : ∀ m, m.InBounds → (next.1 m).1.InBounds) : (Mach.allocate._f j (q :: r) next m).1.InBounds := by
  refine iteFst h (iteFst (rest _ h) (iteFst h ?_))
  split
  · exact rest _ h.modJob
  · exact h

theorem brecOn_cons {α β : Type} {q : α} {r : List α} (step : ∀ l, List.below (motive := fun _ => β) l → β) :
    ∃ next : List.below (motive := fun _ => β) (q :: r), next.1 = List.brecOn r step ∧ List.brecOn (q :: r) step = step (q :: r) next :=
  ⟨_, rfl, rfl⟩

theorem brecOn_inBounds {l : List Mach.RegionAsk} {j} (h : m.InBounds) :
    (List.brecOn (motive := fun _ => Mach → Mach × Option LoadErr) l (Mach.allocate._f j) m).1.InBounds := by
  induction l generalizing m with
  | nil => exact h
  | cons q r ih =>
    obtain ⟨next, first, e⟩ := brecOn_cons (q := q) (r := r) (Mach.allocate._f j)
    rw [e]
    exact h.allocateNext fun m h => first ▸ ih h

theorem allocate {j l} (h : m.InBounds) : (m.allocate j l).1.InBounds := by
  delta Mach.allocate
  exact h.brecOn_inBounds

theorem fillRegions {j g z p init dm} (h : m.InBounds) : (m.fillRegions j g z p init dm).InBounds := by
  unfold Mach.fillRegions
  extract_lets b n c wr m1 m2 m3 m4 m5
  have written (m : Mach) (a : Nat) (d : List Byte) (h : m.InBounds) : (wr m a d).InBounds := .ite h h.hbmWrite
  have h4 : m4.InBounds := written _ _ _ (written _ _ _ (written _ _ _ (written _ _ _ h)))
  exact h4.hbmZero.foldl fun _ _ => written _ _ _

theorem placeToken {t} (h : m.InBounds) : (m.placeToken t).InBounds := by
  unfold Mach.placeToken
  dsimp only
  split
  · exact h.mergeArrival
  · exact h.newGroup

theorem assignProbes {j g z} (h : m.InBounds) : (m.assignProbes j g z).InBounds := by
  refine foldl (foldl (h.foldlFst fun _ _ h => h.modStream) fun _ _ h => ?_) fun _ _ h => ?_
  · exact h.modTile fun _ h => h
  · exact h.modTrigger.modTile fun _ h => h

theorem loadRest {j g z p m'} (h : m.InBounds) (e : m.loadRest j g z p = .ok m') : m'.InBounds := by
  unfold Mach.loadRest at e
  refine bindOk (fun _ => bindOk fun _ => bindOk fun _ => bindOk fun init => bindOk fun dm => bindOk fun toks => bindOk fun _ e => ?_) e
  refine Except.ok.inj e ▸ ?_
  refine setJobState (windowsAtLoad (setObj (assignProbes (foldl (fillRegions (modJob h)) fun _ _ h => ?_))))
  exact h.placeToken

theorem readImage {j lost} (h : m.InBounds) : (m.readImage j lost).InBounds := h.foldl (fun _ _ h => h.halfRead)

theorem hostStore {a d} (h : m.InBounds) : (m.hostStore a d).InBounds := h.hbmWrite

theorem lateWrites (h : m.InBounds) : m.lateWrites.InBounds := .foldl h (fun _ _ h => h.hostStore)

theorem dropRegions {before j} (h : m.InBounds) : (m.dropRegions before j).InBounds := by
  unfold Mach.dropRegions
  exact .withJobs (h.foldl fun _ _ h => h.hbmZero)

theorem loadStart {v} (h : m.InBounds) : (m.loadStart v).InBounds := by
  unfold Mach.loadStart
  split
  · exact h
  · refine .ite h ?_
    extract_lets m1 design failed
    have h1 : m1.InBounds := h.withLoads.loadStatus.readImage
    have fails {m e} (h : m.InBounds) : (failed m e).InBounds := h.readImage.loadFail
    split
    · exact fails h1.lateWrites
    · split
      next allocated =>
        have h2 := h1.allocate.fstOf allocated
        extract_lets m2
        split
        · exact fails h2.lateWrites.dropRegions
        · split
          next loaded => exact loadEnd (bindOk (fun _ => h2.lateWrites.loadRest) loaded)
          · exact fails h2.lateWrites.dropRegions

theorem abortLoads {lost} (h : m.InBounds) : (m.abortLoads lost).InBounds := .foldl (.ite h.lateWrites h) (fun _ _ h => h.loadFail)

theorem unload {j} (h : m.InBounds) : (m.unload j).2.InBounds := by
  unfold Mach.unload
  split
  · exact h.unloadJob
  · exact h.unloadJob
  · exact h.unloadJob
  · exact h.unloadJob
  · exact h.unloadJob
  · exact h

/-! Power, boot and reset -/

theorem faultNow {railsDown block loc d0 d1 d2 d3} (h : m.InBounds) : (m.faultNow railsDown block loc d0 d1 d2 d3).InBounds :=
  .ite h.logErr.hubReset h.enterFault

theorem powerFault (h : m.InBounds) : m.powerFault.InBounds := .ite h h.faultNow

theorem alwaysOnStart (h : m.InBounds) : m.alwaysOnStart.InBounds := .ite h (.moveTo h)

theorem vinRise {mv node} (h : m.InBounds) : (m.vinRise mv node).InBounds := .ite h (.ite h.modPw.alwaysOnStart h.modPw)

theorem vinLoss (h : m.InBounds) : m.vinLoss.InBounds := { h with
    mem := rfl
    errs := Nat.zero_le _
    posts := Nat.zero_le _
    frames := Nat.zero_le _
    tiles := fun _ he => nomatch he }

theorem vinLevel {mv} (h : m.InBounds) : (m.vinLevel mv).InBounds := .ite h (.ite h.modPw.raiseSource h.modPw)

theorem brownOut {mv} (h : m.InBounds) : (m.brownOut mv).InBounds := .ite h h.vinLevel.powerFault

theorem overvoltage {mv} (h : m.InBounds) : (m.overvoltage mv).InBounds := .ite h h.vinLevel.powerFault

theorem refclkLoss (h : m.InBounds) : m.refclkLoss.InBounds := by
  unfold Mach.refclkLoss
  extract_lets m1 m2
  have h1 : m1.InBounds := h.ownerDeath.clearIdx.clearIdx
  have h2 : m2.InBounds := hubReset (.ite h1.recordLost h1)
  exact .ite h { h2 with frames := Nat.zero_le _ }

theorem refclkStart {node} (h : m.InBounds) : (m.refclkStart node).InBounds := .ite h (.ite h.modPw.alwaysOnStart h.modPw)

theorem bootStart (h : m.InBounds) : m.bootStart.InBounds := .ite h.enterBoot h

theorem slotBoot {slot} (h : m.InBounds) : (m.slotBoot slot).InBounds := by
  unfold Mach.slotBoot
  refine setObj (setObj (setObj ?_))
  exact h.withMem fun wf => memFold_wf _ (memWrite_wf _ _ _ wf) fun _ _ => memWrite_wf _ _ _

theorem firmwareLoad (h : m.InBounds) : (m.firmwareLoad).2.InBounds := by
  unfold Mach.firmwareLoad
  split
  · exact h.slotBoot
  · split
    · exact h.logErr.slotBoot
    · exact h.logErr.logErr

theorem flashFree {area log} (h : m.InBounds) : (m.flashFree area log).InBounds := by
  have config {ty i ty' i' ty'' i'' ty''' i''' n o p q e} :
      ({ (((({ m with free := m.free + 1 } : Mach).setObj ty i n).setObj ty' i' o).setObj ty'' i'' p).setObj ty''' i''' q with
        epoch := e } : Mach).InBounds := .withEpoch h.withFree.setObj.setObj.setObj.setObj
  cases area <;> cases log
  · exact h
  · exact .withRepairLog h.withFree
  · exact config
  · exact .withRepairLog config

theorem flashWrite {a d} (h : m.InBounds) : ({ m with flash := memWrite m.flash a d } : Mach).InBounds :=
  { h with flash := memWrite_wf _ _ _ (StoresWithin.flash h) }

theorem flashDone (h : m.InBounds) : m.flashDone.InBounds := by
  have kept : ({ m with flashOp := .keep } : Mach).InBounds := h
  unfold Mach.flashDone
  dsimp only
  split
  · exact h
  · exact kept.flashWrite.flashFree
  · exact h

theorem dropTiles {stage v} (h : m.InBounds) : (m.dropTiles stage v).InBounds := .removeTiles (h.foldl (fun _ _ h => h.logErr))

theorem portsTrain (h : m.InBounds) : m.portsTrain.InBounds := h.foldl (fun _ _ h => .ite h.modPort.flEnable h)

theorem railsUp (h : m.InBounds) : m.railsUp.InBounds := h.foldl (fun _ _ h => h.modPw)

theorem stagePassed {n removed lines units ms} (h : m.InBounds) : (m.stagePassed n removed lines units ms).InBounds := by
  unfold Mach.stagePassed
  split
  · exact h.railsUp.modPw
  · exact .modPw h
  · exact .ite h.softRepairs.modMs.faultNow h.softRepairs.modMs.dropTiles.modMs.modPw
  · exact .ite h.firmwareLoad.modPw h.firmwareLoad.faultNow
  · dsimp only
    split
    next found => exact (h.modMs.memoryRepair found).modPw
    · exact h.faultNow
  · exact h.dropTiles.calibrate.modPw
  · exact .ite (.faultNow h.dropTiles) (.modPw (.portsTrain h.dropTiles))
  · exact .ite h.modPw.mapUpdate h
  · exact h.modPw.setMState

theorem snowEnter (h : m.InBounds) : m.snowEnter.InBounds := .moveTo { h with tiles := fun _ he => nomatch he }

theorem snowCancel (h : m.InBounds) : m.snowCancel.InBounds := .portsTrain h

theorem portsDown {l : List (BitVec 3)} (h : m.InBounds) :
    (l.foldl (fun m f => if (m.port f).state = 0 then m else m.portDown f 0 2) m).InBounds :=
  h.foldl fun _ _ h => .ite h h.portDown

theorem snowBegin (h : m.InBounds) : m.snowBegin.InBounds := by
  unfold Mach.snowBegin
  dsimp only
  split
  · exact h.portsDown.snowEnter
  · exact h.portsDown.modPw

theorem snowRetry (h : m.InBounds) : m.snowRetry.2.InBounds := by
  unfold Mach.snowRetry
  cases m.pw.snow with
  | none => exact h
  | some n =>
    exact .iteSnd (.pair h.snowCancel.modPw) (.iteSnd (.pair h.snowCancel) (.iteSnd (.pair h.snowEnter)
      (.iteSnd (.pair h.snowCancel) (.pair h.modPw))))

theorem wakeAsk (h : m.InBounds) : m.wakeAsk.InBounds := .ite h.modPw h

theorem wakeDone (h : m.InBounds) : m.wakeDone.InBounds := .ite h h.modPw.mapUpdate.setMState.wakeCores

theorem wakeRun {failed lines} (h : m.InBounds) : (m.wakeRun failed lines).InBounds := by
  unfold Mach.wakeRun
  refine .ite h ?_
  extract_lets m1
  split
  next out _ m2 repaired =>
    have h2 : m2.InBounds := (sndOf (p := (m1.softRepairs _).2) (softRepairs h.railsUp.modPw) (congrArg Prod.snd repaired))
    extract_lets m3 ic m4 m5 m6 m7
    have h4 : m4.InBounds := by
      subst m4
      cases m3.ic.kept with
      | none => exact h2.dropTiles.patchReload
      | some kept => exact h2.dropTiles.patchReload
    have h7 : m7.InBounds := calibrate (m := m5) h4
    exact .ite h7.faultNow h7.portsTrain.govRestart.modPw.wakeDone

theorem bootStage {r} (h : m.InBounds) : (m.bootStage r).InBounds := by
  unfold Mach.bootStage
  split
  · exact h.stagePassed
  · exact .ite h.faultNow h
  · exact .ite h.wakeDone h.wakeRun
  · exact .ite h.faultNow h
  · exact h

theorem resetAssert (h : m.InBounds) : m.resetAssert.InBounds := .ite h (.ite h.modPw (.ite h.modPw.hubReset h.modPw.enterStandby))

theorem resetRelease (h : m.InBounds) : m.resetRelease.InBounds := .ite h (.ite h.modPw h.modPw.modPw.bootStart)

theorem ovrUnlock (h : m.InBounds) : m.ovrUnlock.InBounds := h.modPw

theorem ovrRelease (h : m.InBounds) : m.ovrRelease.InBounds := h.modPw.logErr.evFrame.bootStart

theorem moduleCmd {v} (h : m.InBounds) : (m.moduleCmd v).InBounds := by
  unfold Mach.moduleCmd
  split
  · exact h.modPw.bootStart
  · exact h.snowBegin
  · exact h.wakeAsk
  · exact h.enterBoot
  · exact h.enterStandby
  · exact h

theorem shedCancel (h : m.InBounds) : m.shedCancel.InBounds := by
  unfold Mach.shedCancel
  split
  · exact h.fenceOpen.modPw
  · exact h

theorem shedStep (h : m.InBounds) : m.shedStep.InBounds := by
  unfold Mach.shedStep
  split
  · exact .ite h.fenceReq.fenceAck.modPw.modPw h.fenceReq.fenceAck.modPw
  · exact .ite h.modPw (.ite h.modPw h)

theorem tileUp {t} (h : m.InBounds) : (m.tileUp t).InBounds := .ite (.dropTiles h) h

theorem restoreStep (h : m.InBounds) : m.restoreStep.InBounds := by
  unfold Mach.restoreStep
  split
  · exact h
  · split
    · exact h.modPw.tileUp
    · exact h.modPw

theorem powerTiles {v} (h : m.InBounds) : (m.powerTiles v).InBounds := .foldl (.ite h.shedCancel h) (fun _ _ h => h.tileUp.modPw)

theorem powerControl {w} (h : m.InBounds) : (m.powerControl w).InBounds := by
  unfold Mach.powerControl
  extract_lets cap low m1 m2
  have h1 : m1.InBounds := h.modPw
  have h2 : m2.InBounds := .ite h1.shedCancel h1
  exact .ite h (.ite h1.shedStep (.ite h2.restoreStep h2))

theorem currentLimit {ma} (h : m.InBounds) : (m.currentLimit ma).InBounds :=
  .ite h (.ite (h.modPw.foldl (fun _ _ h => h.droop)) h.modPw)

theorem setTj {tj} (h : m.InBounds) : (m.setTj tj).InBounds := h.modPw

theorem thermalAlert {tj} (h : m.InBounds) : (m.thermalAlert tj).InBounds :=
  .ite h (.ite h.setTj (.ite h.setTj.modPw.raiseSource h.setTj.modPw))

theorem thermalEnd {tj} (h : m.InBounds) : (m.thermalEnd tj).InBounds := .ite h h.setTj.modPw

theorem thermalTrip {tj} (h : m.InBounds) : (m.thermalTrip tj).InBounds := .ite h h.setTj.modPw.powerFault

theorem railFault {k} (h : m.InBounds) : (m.railFault k).InBounds := .ite h h.modPw.faultNow

theorem tap {f} (h : m.InBounds) : (m.tap f).InBounds := .ite h h

theorem scanOut (h : m.InBounds) : m.scanOut.InBounds := .send h

/-! The clock -/

theorem tickWall {q} (h : m.InBounds) : (m.tickWall q).InBounds := .ite h (.ite h h)

theorem tickJournals {n} (h : m.InBounds) : (m.tickJournals n).InBounds := h.foldl (fun _ _ h => h.count)

theorem tickLocks (h : m.InBounds) : m.tickLocks.InBounds := .ite h h

theorem tickLimit {n} (h : m.InBounds) : (m.tickLimit n).InBounds := .ite (h.foldl (fun _ _ h => h.foldl (fun _ _ h => h.droop))) h

theorem tickPins (h : m.InBounds) : m.tickPins.InBounds := h.modPw

theorem tickPorts (h : m.InBounds) : m.tickPorts.InBounds := h.foldl (fun _ _ h => h.drainPort)

theorem tick (h : m.InBounds) : m.tick.InBounds := by
  unfold Mach.tick
  refine .ite h ?_
  extract_lets q core m1 m2 m3 ic m4 m5 m6
  have h1 : m1.InBounds := tickWall (m := { m with quanta := _, setNow := _, busOff := _ }) h
  refine .ite h1 ?_
  have h3 : m3.InBounds := tickLimit (tickPins (.ite h1.upWindow h1))
  have h5 : m5.InBounds := .ite h3 (count (m := m4) h3)
  have h6 : m6.InBounds := .ite h5 h5.count
  exact h6.tickJournals.tickLocks.tickPorts.hubDrain.tickOutputs

/-! The object dictionary -/

theorem capChanged {j} (h : m.InBounds) : (m.capChanged j).InBounds := by
  refine .foldl (h.foldl ?_) ?_
  · intro _ _ h
    split
    · exact h.modCluster.rescan.modCluster
    · exact h
  · intro _ _ h
    split
    · exact .modTile (.rescan (h.modTile (fun _ h => h))) (fun _ h => h)
    · exact h

theorem runJob {j pair} (h : m.InBounds) : (m.runJob j pair).2.2.InBounds := by
  unfold Mach.runJob
  split
  · exact h
  · split
    · split
      next found => exact h.runSpanning.sndOf found
      next found => exact h.runSpanning.sndOf found
    · exact h.enterRun

theorem resumeJob {j v pair} (h : m.InBounds) : (m.resumeJob j v pair).2.2.InBounds := by
  unfold Mach.resumeJob
  split
  · split
    next found => exact h.runSpanning.sndOf found
    next found => exact h.runSpanning.sndOf found
  · exact h.resume

theorem stopJob {j pair} (h : m.InBounds) : (m.stopJob j pair).2.2.InBounds := by
  unfold Mach.stopJob
  split
  · exact h
  · exact h
  · exact h.pauseAt.modJob
  · exact h.stopDone

theorem jobCmd {j n} (h : m.InBounds) : (m.jobCmd j n).2.InBounds := by
  unfold Mach.jobCmd
  split
  · exact h.runJob
  · exact h.stopJob
  · exact h.unload

theorem objEffectJ {j sub n} (h : m.InBounds) : (m.objEffectJ j sub n).2.InBounds := by
  unfold Mach.objEffectJ
  split
  · exact h.setObj.powerTiles
  · exact h.orphanDiscard
  · exact h.setObj.capChanged
  · exact h.pauseTime
  · exact h.resumeJob
  · exact h.loadAsk
  · exact h.stagingMib
  · exact h.jobCmd
  · exact h.setObj

theorem objEffect {p idx sub n d} (h : s.m.InBounds) : (s.objEffect p idx sub n d).2.m.InBounds := by
  unfold State.objEffect
  refine iteLift h.objEffectJ (iteLift (answered h.setObj.flEnable) ?_)
  dsimp only
  split
  · exact h.moduleCmd
  · exact h.ovrUnlock
  · exact h.ovrRelease
  · exact h.withFeatures
  · exact ite h.setObj.modPw h.setObj
  · exact h.setObj.withEvLost
  · split <;> exact h
  · exact h
  · exact h
  · exact h
  · exact h
  · exact h.setObj.modPw
  · exact h.setObj
  · exact h.setObj.withTgt
  · exact h.setObj.withErrSel
  · exact h.withErrLog
  · exact h.withTestOpen.logErr
  · exact h.injectSram
  · exact h.injectHbm
  · exact h.setObj

theorem writeRefused {idx sub e} (h : m.InBounds) : (m.writeRefused idx sub e).InBounds := .ite h.modPw h

theorem objWrite {p idx sub d} (h : s.m.InBounds) : (s.objWrite p idx sub d).2.m.InBounds := by
  unfold State.objWrite
  split
  · exact h.answered
  · split
    · exact h.writeRefused
    · exact h.objEffect

/-! The object agent -/

theorem canSend {func node b} (h : m.InBounds) : (m.canSend func node b).InBounds := .ite h h.send

theorem sopReply {node cmd tseq idx sub segno tlen status data} (h : m.InBounds) :
    (m.sopReply node cmd tseq idx sub segno tlen status data).InBounds :=
  .canSend h

theorem sopAnswer {node a} (h : m.InBounds) : (m.sopAnswer node a).InBounds := by
  refine .ite h.sopReply ?_
  split
  · exact .ite (.sopReply h) h
  · exact h

theorem modMbx {fn f} (h : m.InBounds) : (m.modMbx fn f).InBounds := h

theorem mbxAnswer {fn a} (h : m.InBounds) : (m.mbxAnswer fn a).InBounds := .ite h h.modMbx.hwSet

theorem modPair {k f} (h : m.InBounds) : (m.modPair k f).InBounds := h

theorem setWait {k w} (h : m.InBounds) : (m.setWait k w).InBounds := h.modPair

theorem dmaOut {k addr data result} (h : m.InBounds) : (m.dmaOut k addr data result).InBounds :=
  .ite h.completeCmd h.hostWrites.setWait

theorem ringAnswer {k a} (h : m.InBounds) : (m.ringAnswer k a).InBounds := by
  unfold Mach.ringAnswer
  split
  · split
    · exact .ite h.completeCmd (.ite h.completeCmd h.dmaOut)
    · exact h
  · exact h

theorem objPeerAnswer {a} (h : m.InBounds) : (m.objPeerAnswer a).InBounds := h.toFabric

theorem answer {node a} (h : m.InBounds) : (m.answer node a).InBounds := by
  unfold Mach.answer
  refine .ite h ?_
  extract_lets a m1
  have h1 : m1.InBounds := .ite h.count h
  split
  · exact h1.sopAnswer
  · exact h1.mbxAnswer
  · exact h1.ringAnswer
  · exact h1.objPeerAnswer

theorem passOn {a} (h : m.InBounds) : (m.passOn a).InBounds := .ringRecord (.hubWrite h)

theorem serve {a} (h : s.m.InBounds) : (State.serve a s).m.InBounds := by
  unfold State.serve
  extract_lets node
  split
  next answered =>
    have h' := congrArg (fun x => x.2.1.m.InBounds) answered
    refine iteState (withAgent (h' ▸ ?_)) (iteState (passOn (h' ▸ ?_)) (answer (h' ▸ ?_)))
    all_goals
      dsimp only
      split
      · exact h.objWrite
      · exact h

theorem drain {l} (h : s.m.InBounds) : (s.drain l).m.InBounds := by
  induction l generalizing s with
  | nil => exact h.withAgentQ
  | cons a l ih =>
    unfold State.drain
    exact iteState h.withAgentQ (ih h.serve)

theorem submit {a} (h : s.m.InBounds) : (s.submit a).m.InBounds := by
  unfold State.submit
  exact iteState h h.serve

theorem endAccess {f} (h : s.m.InBounds) : (s.endAccess f).m.InBounds := by
  unfold State.endAccess
  split
  · exact h
  · exact InBounds.drain (s := { s with m := _ }) h.withAgent.answer

theorem objDone {v} (h : s.m.InBounds) : (s.objDone v).m.InBounds := by
  unfold State.objDone
  split
  · split
    · exact h.endAccess
    · exact h
  · exact h

theorem writeObj {via idx sub data} (h : s.m.InBounds) : (s.writeObj via idx sub data).m.InBounds := by
  unfold State.writeObj
  split
  · exact h.submit
  · exact h

theorem peerObject (h : s.m.InBounds) : s.peerObject.m.InBounds := by
  unfold State.peerObject
  split
  · exact h
  next taken =>
    have h' := h.takePeer taken
    exact iteState h' (iteState h'.count.answer (InBounds.submit h'.count))

/-! Frames of the field bus -/

theorem setXfer {x} (h : m.InBounds) : (m.setXfer x).InBounds := h

theorem sopLocal {b idx sub seg tlen e data} (h : s.m.InBounds) : (s.sopLocal b idx sub seg tlen e data).m.InBounds :=
  .sopReply (.ite h h.count)

theorem sopRead {b idx sub} (h : s.m.InBounds) : (s.sopRead b idx sub).m.InBounds := by
  unfold State.sopRead
  exact InBounds.submit h.withSop

theorem sopWrite {b idx sub} (h : s.m.InBounds) : (s.sopWrite b idx sub).m.InBounds := by
  unfold State.sopWrite
  dsimp only
  split
  · exact .submit h
  · exact .sopLocal (.setXfer h)

theorem segLost {b} (h : s.m.InBounds) : (s.segLost b).m.InBounds := h.sopLocal

theorem sopReadSeg {b} (h : s.m.InBounds) : (s.sopReadSeg b).m.InBounds := by
  unfold State.sopReadSeg
  split
  · exact h.segLost
  · dsimp only
    split
    all_goals exact .sopLocal h.setXfer

theorem sopWriteSeg {b} (h : s.m.InBounds) : (s.sopWriteSeg b).m.InBounds := by
  unfold State.sopWriteSeg
  split
  · exact h.segLost
  · dsimp only
    split
    · exact .sopLocal h.setXfer
    · split
      · exact h.sopLocal
      · split
        · exact .submit h.setXfer
        · exact .sopLocal h.setXfer

theorem sopAbort {b} (h : s.m.InBounds) : (s.sopAbort b).m.InBounds := by
  unfold State.sopAbort
  split
  all_goals exact .sopLocal h.setXfer

theorem sopLock {b} (h : s.m.InBounds) : (s.sopLock b).m.InBounds := by
  unfold State.sopLock
  split
  · exact h.sopLocal
  · exact sopLocal (s := { s with m := _ }) h.lockReq

theorem sopRequest {b act} (h : s.m.InBounds) (keeps : ∀ s : State, s.m.InBounds → (act s).m.InBounds) :
    (s.sopRequest b act).m.InBounds := by
  have counted : ({ s with m := s.m.count 0x4100 0x01 } : State).m.InBounds := h.count
  unfold State.sopRequest
  dsimp only
  refine iteState counted.sopLocal ?_
  split
  · exact counted.canSend
  · exact iteState counted (iteState counted.sopLocal (keeps _ counted))

theorem sopFrame {cmd ident b act} (h : s.m.InBounds) (keeps : ∀ s : State, s.m.InBounds → (act s).m.InBounds) :
    (s.sopFrame cmd ident b act).m.InBounds := by
  unfold State.sopFrame
  refine iteState h (InBounds.sopRequest ?_ keeps)
  exact .ite h.raiseSource h

/-! The host interface -/

theorem ifBar {fn f} (h : m.InBounds) (keeps : m.InBounds → (f m).InBounds) : (m.ifBar fn f).InBounds := .ite (keeps h) h.send

theorem writeAp {fn e v} (h : m.InBounds) : (m.writeAp fn e v).InBounds := .ite h (.ite h.count h.modFunc)

theorem setBar2 {fn v} (h : m.InBounds) : (m.setBar2 fn v).InBounds := .ite (.ite h h) (.ite h h)

theorem complete {fn a n} (h : m.InBounds) : (m.complete fn a n).InBounds := by
  unfold Mach.complete
  exact .upstream (.ite h.hbmCheck.rangeLost.count h.hbmCheck)

theorem bar2Read {fn o n} (h : m.InBounds) : (m.bar2Read fn o n).InBounds := by
  unfold Mach.bar2Read
  split
  · exact h.count.send
  · exact .ite h (h.foldl (fun _ _ h => h.complete))

theorem ifBar2 {fn o n f} (h : m.InBounds) (keeps : m.InBounds → (f m).InBounds) : (m.ifBar2 fn o n f).InBounds :=
  .ite (h.ifBar keeps) h.send

theorem bar2Write {fn o d} (h : m.InBounds) : (m.bar2Write fn o d).InBounds := by
  unfold Mach.bar2Write
  split
  · exact h.count.modFunc.send
  · refine .ite h ?_
    extract_lets m1
    have h1 : m1.InBounds := .ite h h.hostStore
    split
    · exact h1.countJ
    · exact h1

theorem pairError {k err} (h : m.InBounds) : (m.pairError k err).InBounds := .ite h h.modPair.setEvt.count

theorem dropPair {k} (h : m.InBounds) : (m.dropPair k).InBounds := h

theorem writeRingCfg {fn k v} (h : m.InBounds) : (m.writeRingCfg fn k v).InBounds := by
  unfold Mach.writeRingCfg
  refine .ite h ?_
  extract_lets p owner sq cq m1 m2
  have h1 : m1.InBounds := .ite h h.modPair
  have h2 : m2.InBounds := .ite h1.modPair h1
  exact .ite h2.modPair (.ite h2.dropPair.modPair h2)

theorem writeRingBase {fn k cq v} (h : m.InBounds) : (m.writeRingBase fn k cq v).InBounds := .ite h h.modPair

theorem fetchEntry {k} (h : m.InBounds) : (m.fetchEntry k).InBounds := .ite h h.modPair.upstream

theorem writeSqTail {fn k v} (h : m.InBounds) : (m.writeSqTail fn k v).InBounds :=
  .ite h (.ite h.modPair.requestPost.pairError h.modPair.requestPost.fetchEntry)

theorem writeCqHead {fn k v} (h : m.InBounds) : (m.writeCqHead fn k v).InBounds := .ite h (.ite h.modPair.pairError h.modPair)

theorem completionWrite {k} (h : m.InBounds) : (m.completionWrite k).InBounds := by
  unfold Mach.completionWrite
  dsimp only
  split
  · exact h
  · split
    · refine .ite h ?_
      split
      · exact h.upstream.modPair.setWait.countJ
      · exact h.upstream.modPair.setWait
    · exact h

theorem completionSent {k} (h : m.InBounds) : (m.completionSent k).InBounds := by
  unfold Mach.completionSent
  split
  · exact .ite h (.fetchEntry (.ite h.modPair h.modPair.msi))
  · exact h

theorem takeCmd {k e m'} (h : m.InBounds) (taken : m.takeCmd k e = some m') : m'.InBounds := by
  unfold Mach.takeCmd at taken
  dsimp only at taken
  split at taken
  · nomatch taken
  · refine Option.some.inj taken ▸ ?_
    split
    · exact h.modPair.countJ
    · exact h.modPair

theorem hostCmd {k e states plain args eff} (h : m.InBounds) (keeps : ∀ m : Mach, m.InBounds → (eff m).InBounds) :
    (m.hostCmd k e states plain args eff).InBounds := by
  unfold Mach.hostCmd
  split
  · exact h
  next taken =>
    have h' := h.takeCmd taken
    split
    · exact .ite (keeps _ h') h'.completeCmd
    · exact h'.completeCmd

theorem cmdEnd {k e result} (h : m.InBounds) : (m.cmdEnd k e result).InBounds := h.completeCmd

theorem hostFail {k} (h : m.InBounds) : (m.hostFail k).InBounds := h.cmdEnd.pairError

theorem hostFetch {k op e n host} (h : m.InBounds) : (m.hostFetch k op e n host).InBounds := by
  unfold Mach.hostFetch
  split
  · exact h.hostFail
  · exact .setWait (h.foldl (fun _ _ h => h.upstream))

theorem hostGot {k n} (h : m.InBounds) : (m.hostGot k n).InBounds := by
  unfold Mach.hostGot
  split
  · exact h.countJ
  · exact h

theorem cmdWait {k w f} (h : m.InBounds) (keeps : ∀ m : Mach, m.InBounds → (f m).2.2.InBounds) : (m.cmdWait k w f).InBounds :=
  .ite (keeps _ h.setWait) (keeps _ h.setWait).cmdEnd

theorem control {k e b} (h : m.InBounds) : (m.control k e b).InBounds :=
  .ite h.cmdEnd (.cmdEnd (.ite (.modJob (.hubInject (.ite h.enterRun h))) (.hubInject (.ite h.enterRun h))))

theorem copyOut {k e a n} (h : m.InBounds) : (m.copyOut k e a n).InBounds := by
  unfold Mach.copyOut
  exact .ite h.hbmCheck.rangeLost.cmdEnd h.hbmCheck.dmaOut

theorem copyIn {k e a d} (h : m.InBounds) : (m.copyIn k e a d).InBounds := h.hbmWrite.cmdEnd

theorem tlpSent {t} (h : m.InBounds) : (m.tlpSent t).InBounds := by
  unfold Mach.tlpSent
  split
  · exact h.modPair
  · exact h.completionSent
  · exact h

theorem sendTlp (h : m.InBounds) : m.sendTlp.InBounds := by
  refine .ite h ?_
  split
  · exact h
  · refine .tlpSent ?_
    split
    · exact .countJ (h.foldl (fun _ _ h => h.yieldShare))
    · exact h.foldl (fun _ _ h => h.yieldShare)

theorem releaseMsgs {fn} (h : m.InBounds) : (m.releaseMsgs fn).InBounds := by
  unfold Mach.releaseMsgs
  extract_lets f opens go m1 m2 held
  have h2 : m2.InBounds := h.modFunc.foldl fun _ _ h => h.msi
  exact .ite (h2.modFunc.foldl fun _ _ h => h.msi) h2

theorem msixChange {fn b} (h : m.InBounds) : (m.msixChange fn b).InBounds := h.modFunc.releaseMsgs

theorem clearFn {fn} (h : m.InBounds) : (m.clearFn fn).InBounds := .ownerDeath (h.foldl (fun _ _ h => h.dropPair.modPair))

theorem loseJob {j fn} (h : m.InBounds) : (m.loseJob j fn).InBounds := .ite h h.faultJob

theorem loseVf {j} (h : m.InBounds) : (m.loseVf j).InBounds := h.loseJob.abortLoads.clearFn

theorem losePf (h : m.InBounds) : m.losePf.InBounds :=
  .foldl (.clearFn (.abortLoads (.foldl h (fun _ _ h => h.loseVf)))) (fun _ _ h => .ite h.loseJob (.ite h.pauseInside h))

theorem linkLoss (h : m.InBounds) : m.linkLoss.InBounds := .ite h h.losePf.count.modPw

theorem setVfs {n} (h : m.InBounds) : (m.setVfs n).InBounds := .foldl h (fun _ _ h => h.loseVf)

theorem mbxReq {fn v} (h : s.m.InBounds) : (s.mbxReq fn v).m.InBounds := by
  unfold State.mbxReq
  split
  · dsimp only
    split
    · exact h
    · exact h.modMbx
  · dsimp only
    split
    · exact h
    · split
      · exact h.modMbx.count.answer
      · exact .submit h.modMbx.count

theorem cmdObj {k idx sub d} (h : s.m.InBounds) : (s.cmdObj k idx sub d).2.m.InBounds := h.objWrite

theorem cmdLoad {k e} (h : s.m.InBounds) : (s.cmdLoad k e).m.InBounds := by
  unfold State.cmdLoad
  dsimp only
  split
  next s1 first =>
    have h1 : s1.m.InBounds := by
      have := h.cmdObj (k := k) (idx := jobIdx (e.job.truncate 3)) (sub := 0x60) (d := natBytes 8 e.a0.toNat)
      rwa [first] at this
    split
    next s2 second =>
      have h2 : s2.m.InBounds := by
        have := h1.cmdObj (k := k) (idx := jobIdx (e.job.truncate 3)) (sub := 0x61) (d := natBytes 8 e.a1.toNat)
        rwa [second] at this
      split
      next loading => exact h2.setWait.loadAsk.sndOf loading
      · exact h.cmdEnd
    · exact h.cmdEnd
  · exact h.cmdEnd

theorem hostChecked {k e op eff} (h : s.m.InBounds) (keeps : s.m.InBounds → (eff s).m.InBounds) :
    (s.hostChecked k e op eff).m.InBounds := by
  unfold State.hostChecked
  dsimp only
  split
  · split
    · exact keeps h
    · exact h.cmdEnd
  · exact h.cmdEnd

theorem hostData {k op e d} (h : s.m.InBounds) : (s.hostData k op e d).m.InBounds := by
  unfold State.hostData
  refine InBounds.hostChecked h.hostGot fun h => ?_
  split
  · exact InBounds.submit h.setWait
  · exact h.control
  · exact h.copyIn
  · exact h.copyIn

theorem fetched {k op e n host} (h : s.m.InBounds) : (s.fetched k op e n host).m.InBounds := by
  unfold State.fetched
  split
  · exact h.hostData
  · exact h.hostFetch

theorem hostCommand {k e op eff} (h : s.m.InBounds) (keeps : ∀ s : State, s.m.InBounds → (eff s).m.InBounds) :
    (s.hostCommand k e op eff).m.InBounds := by
  unfold State.hostCommand
  split
  · exact h
  next taken => exact InBounds.hostChecked (s := { s with m := _ }) (h.takeCmd taken) (keeps _)

theorem dmaDone {k ok} (h : s.m.InBounds) : (s.dmaDone k ok).m.InBounds := by
  unfold State.dmaDone
  extract_lets m1 busy
  have h1 : m1.InBounds := h.modPair
  split
  · exact .ite h1.hostFail (.ite h1 h1.completeCmd)
  · exact iteState h1.hostFail (iteState h1 (hostData (s := { s with m := m1 }) h1))
  · exact .ite h1 h1.pairError

/-! Interrupts and locks -/

theorem interruptOffer {c} (h : m.InBounds) : (m.interruptOffer c).InBounds := by
  unfold Mach.interruptOffer
  dsimp only
  split
  · split
    · exact h.count.setCore
    · exact h
  · split
    · exact .ite h.setCore h
    · exact h

theorem interruptEntry {c} (h : m.InBounds) : (m.interruptEntry c).InBounds := by
  unfold Mach.interruptEntry
  dsimp only
  split
  · exact h
  · exact .hwSet (.modIc (.setCore (.ite h.count h.count.count)))

theorem clearActive {s} (h : m.InBounds) : (m.clearActive s).InBounds := .modIc h

theorem exitFrame {c x f below} (h : m.InBounds) : (Mach.reti.exitFrame c m x f below).InBounds := h.setCore

theorem reti {c} (h : m.InBounds) : (m.reti c).InBounds := by
  unfold Mach.reti
  dsimp only
  split
  · exact h.coreDone
  · refine .ite h.coreDone ?_
    split
    · exact .ite h.coreDone.clearActive.setCore.count h.coreDone.clearActive.exitFrame
    · exact h.coreDone.clearActive.exitFrame

theorem writeIcCfg {s v} (h : m.InBounds) : (m.writeIcCfg s v).InBounds := h.modIc

theorem writeSwset {v} (h : m.InBounds) : (m.writeSwset v).InBounds := h.foldl (fun _ _ h => .ite h.raiseSource h)

theorem leaseExpiry {n reqs} (h : m.InBounds) : (m.leaseExpiry n reqs).InBounds :=
  .ite (.ite h h.lockDecide) h.modLock.count.logErr.lockDecide.raiseSource

theorem writeLockCfg {n v} (h : m.InBounds) : (m.writeLockCfg n v).InBounds := h.modLock

theorem icParity {n} (h : m.InBounds) : (m.icParity n).InBounds := h.logErr.modIc

theorem lockParity {n} (h : m.InBounds) : (m.lockParity n).InBounds := h.logErr.proxyFreed.modLock

/-! Registers -/

theorem schedWrite {c o v m'} (h : m.InBounds) (e : m.schedWrite c o v = some m') : m'.InBounds := by
  unfold Mach.schedWrite at e
  refine iteSome (fun e => ?_) (iteSome (.ofSome h.storePost) (iteSome (.ofSome h.storeEnd) (iteSome (.ofSome h)
    (iteSome (.ofSome (h.modSched h.posts)) (iteSome (fun e => ?_) .ofNone))))) e
  · dsimp only at e
    split at e
    · exact ofSome h.writeTskCfg e
    · exact ofSome h.writeTskEvt e
    · exact ofSome h.modTask e
    · exact ofSome h e
  · dsimp only at e
    split at e
    · exact ofSome h.writeEvrCfg e
    · exact ofSome h e
    · exact ofSome h.modEvr e
    · exact ofNone e

theorem icWrite {o v m'} (h : m.InBounds) (e : m.icWrite o v = some m') : m'.InBounds := by
  unfold Mach.icWrite at e
  refine iteSome (.ofSome h.writeIcCfg) (iteSome (.ofSome h.modIc) (iteSome (.ofSome h.modIc) (iteSome (.ofSome h.writeSwset)
    (iteSome (fun e => ?_) .ofNone)))) e
  split at e
  · refine Option.some.inj e ▸ ?_
    exact h
  · exact ofSome h e
  · exact ofNone e

theorem lockWrite {ident o v m'} (h : m.InBounds) (e : m.lockWrite ident o v = some m') : m'.InBounds :=
  iteSome (.ofSome h.lockReq) (iteSome (.ofSome h.writeLockCfg) (iteSome (.ofSome h) .ofNone)) e

theorem streamWrite {o v} (h : m.InBounds) : (m.streamWrite o v).InBounds := by
  unfold Mach.streamWrite
  split
  · exact h.strCfg
  · exact h.strRead
  · exact h.strCtl
  · exact h

theorem triggerWrite {o v} (h : m.InBounds) : (m.triggerWrite o v).InBounds := .ite h.trgCtl h

theorem hubRegWrite {c a v m'} (h : m.InBounds) (e : m.hubRegWrite c a v = some m') : m'.InBounds := by
  unfold Mach.hubRegWrite at e
  dsimp only at e
  split at e
  · exact h.schedWrite e
  · exact h.icWrite e
  · exact iteSome (.ofSome h.withLockWake) h.lockWrite e
  · exact iteSome (.ofSome h.writeRemap) .ofNone e
  · exact iteSome (.ofSome h.streamWrite) .ofNone e
  · exact iteSome (.ofSome h.triggerWrite) .ofNone e
  · exact iteSome (.ofSome h.withFlRt) .ofNone e
  · exact iteSome (.ofSome h.withObjLen) .ofNone e
  · exact iteSome (.ofSome h.modPw) (iteSome (.ofSome h) .ofNone) e
  · exact ofNone e

theorem ringWrite {fn k o v} (h : m.InBounds) : (m.ringWrite fn k o v).InBounds := by
  unfold Mach.ringWrite
  split
  · exact h.writeRingBase
  · exact h.writeRingBase
  · exact h.writeRingCfg
  · exact h.writeSqTail
  · exact h.writeCqHead
  · exact h

theorem msixWrite {fn o v} (h : m.InBounds) : (m.msixWrite fn o v).InBounds := .ite h.modFunc h.modFunc.msixChange

theorem bar0Write {fn o v} (h : m.InBounds) : (m.bar0Write fn o v).InBounds :=
  .ite h (.ite (.ite h.modMbx h) (.ite h.modMbx (.ite h.ringWrite (.ite h.msixWrite (.ite (.ite h (.ofGetD h fun _ => h.lockWrite))
    (.ite h.writeAp (.ite (.ite h.streamWrite h) (.ite (.ite h.triggerWrite h) h))))))))

theorem hubRegWriteState {c a v t} (h : s.m.InBounds) (e : s.hubRegWrite c a v = some t) : t.m.InBounds := by
  unfold State.hubRegWrite at e
  split at e
  · exact Option.some.inj e ▸ h.objDone
  · obtain ⟨m', wrote, rfl⟩ := Option.map_eq_some_iff.mp e
    exact h.hubRegWrite wrote

theorem coreRegWrite {c a v} (h : s.m.InBounds) : (s.coreRegWrite c a v).m.InBounds := by
  unfold State.coreRegWrite
  refine iteState h ?_
  split
  · split
    next wrote => exact iteState (h.hubRegWriteState wrote).storeIssued (h.hubRegWriteState wrote)
    · exact h
  · cases wrote : s.m.stopWrite _ _ _ v with
    | none => exact h
    | some m' => exact h.stopWrite wrote
  · exact h

theorem bar0Get {fn o} (h : m.InBounds) : (m.bar0Get fn o).InBounds := .ite h.send h.send

/-! Loads and stores -/

theorem journaledRead {r tag} (h : m.InBounds) : (m.journaledRead r tag).InBounds := .ite h h.journalRead

theorem firingRead {p j a n} (h : m.InBounds) : (m.firingRead p j a n).InBounds := by
  unfold Mach.firingRead
  split
  · trivial
  · split
    next cut => exact h.cutOff.sndOf cut
    next cut =>
      have h' := h.cutOff.sndOf cut
      split
      next lost => exact h'.hbmCheck.sndOf lost
      next found => exact h'.hbmCheck.sndOf found

theorem peLoad {x r sp ea n} (h : m.InBounds) : (m.peLoad x r sp ea n).1.InBounds := by
  unfold Mach.peLoad
  refine iteFst h (iteFst ?_ (iteFst h.journaledRead (iteFst h.journaledRead ?_)))
  · have read := h.firingRead (p := r.pe) (j := x.job) (n := n)
      (a := (m.job x.job).code.base + (m.job x.job).codeLen + ea.toNat)
    dsimp only
    split
    · exact h
    next cut => rw [cut] at read; exact read
    next lost => rw [lost] at read; exact faultJob read
    next found => rw [found] at read; exact read
  · have read := (h.journaledRead (r := r) (tag := x.tag)).firingRead (p := r.pe) (j := x.job) (n := n)
      (a := (m.job x.job).dmem.base + m.nDmBase r + ea.toNat)
    dsimp only
    split
    · exact h.journaledRead
    next cut => rw [cut] at read; exact read
    next lost => rw [lost] at read; exact read
    next found => rw [found] at read; exact read

theorem firingLoad {p c waits rd ra sp w sx imm} (h : m.InBounds) : (m.firingLoad p c waits rd ra sp w sx imm).InBounds := by
  unfold Mach.firingLoad
  split
  · exact h
  · dsimp only
    split
    · exact h
    next fetched => exact h.fetchCode fetched
    next fetched =>
      have h' := h.fetchCode fetched
      split
      · exact h'.firingTrap
      · exact h'.firingTrap
      · split
        next loaded => exact h'.peLoad.fstOf loaded
        next loaded => exact (h'.peLoad.fstOf loaded).firingTrap
        next loaded => exact (h'.peLoad.fstOf loaded).ctxDone

theorem firingStore {p c waits rd ra sp w imm} (h : m.InBounds) : (m.firingStore p c waits rd ra sp w imm).InBounds := h.issuePe

theorem coreRead {a n} (h : m.InBounds) : (m.coreRead a n).2.InBounds := by
  unfold Mach.coreRead
  split
  · exact .ite h.hbmCheck.rangeLost h.hbmCheck
  · exact h.hubWordRead

theorem coreWrite {a d} (h : m.InBounds) : (m.coreWrite a d).InBounds := .ite h.hbmWrite.deepSync h.hubWrite

theorem windowReq {c d n o a v m'} (h : m.InBounds) (e : m.windowReq c d n o a v = some m') : m'.InBounds := by
  unfold Mach.windowReq at e
  split at e
  · nomatch e
  · refine Option.some.inj e ▸ intoDie ?_
    exact h

theorem coreLoad {c rd w sx ea} (h : m.InBounds) : (m.coreLoad c rd w sx ea).InBounds := by
  unfold Mach.coreLoad
  dsimp only
  split
  · exact h.coreTrap
  · split
    · exact h.coreDone
    · exact h.coreTrap
  · split
    next found => exact (h.windowReq found).setCore
    · exact h
  · exact .ite h (.ite h.coreRead.coreTrap h.coreRead.coreDone)

theorem coreStore {c w ea v} (h : s.m.InBounds) : (s.coreStore c w ea v).m.InBounds := by
  unfold State.coreStore
  dsimp only
  split
  · exact h.coreTrap
  · split
    next wrote => exact (h.hubRegWriteState wrote).storeIssued
    · exact h.coreTrap
  · split
    next sent => exact (h.windowReq sent).coreDone
    · exact h
  · exact iteState h h.coreWrite.storeIssued

theorem issueLoad {x rd ra sp w sx imm} (h : m.InBounds) : (m.issueLoad x rd ra sp w sx imm).InBounds := by
  unfold Mach.issueLoad
  split
  · exact h.firingLoad
  · exact h.ctxParity
  next c =>
    refine .ite h ?_
    cases fetch : m.fetchLocal c with
    | mk lost m' =>
      have h' := h.fetchLocal.sndOf fetch
      dsimp only
      refine .ite h'.coreTrap ?_
      split
      · exact h'.coreTrap
      · exact h'.coreTrap
      · exact h'.coreLoad

theorem issueStore {c rd ra sp w imm} (h : s.m.InBounds) : (s.issueStore c rd ra sp w imm).m.InBounds := by
  unfold State.issueStore
  refine iteState h ?_
  cases fetch : s.m.fetchLocal c with
  | mk lost m' =>
    have h' := h.fetchLocal.sndOf fetch
    dsimp only
    refine iteState h'.coreTrap ?_
    split
    · exact h'.coreTrap
    · exact h'.coreTrap
    · exact InBounds.coreStore (s := { s with m := m' }) h'

/-! Commands of the system -/

theorem issueSys {x priv f} (h : m.InBounds) : (m.issueSys x priv f).InBounds := by
  unfold Mach.issueSys
  split
  · exact h.issueSc
  · exact h.issuePe
  · exact h.ctxParity

theorem issueCsr {x a rd w} (h : m.InBounds) : (m.issueCsr x a rd w).InBounds := by
  unfold Mach.issueCsr
  split
  all_goals exact h.issueSys

theorem issueLock {x rd ra imm take} (h : m.InBounds) : (m.issueLock x rd ra imm take).InBounds := by
  unfold Mach.issueLock
  split
  · exact h.issueSys
  · exact h.issueSys
  · exact .ite h.issueSys h.lockReq.issueSys

theorem stateCommand {k e states args eff} (h : s.m.InBounds) (keeps : ∀ s : State, s.m.InBounds → (eff s).m.InBounds) :
    (s.command k e states args eff).m.InBounds := by
  unfold State.command
  split
  · exact h
  next taken =>
    have h' := h.takeCmd taken
    split
    · split
      · exact keeps _ h'
      · exact h'.cmdEnd
    · exact h'.cmdEnd

theorem stateBar0Write {fn o v} (h : s.m.InBounds) : (s.bar0Write fn o v).m.InBounds := by
  unfold State.bar0Write
  split
  · exact h.send
  · split
    · exact h.mbxReq
    · exact h.bar0Write

/-! The commands -/

/-- Where a command answers a next state, the module there is within its bounds. -/
def Kept (r : Res) : Prop := ∀ t, r = .next t → t.m.InBounds

theorem next {r : Res} {t : State} (e : r = .next t) (h : t.m.InBounds) : Kept r := fun _ e' => Host.Outcome.next.inj (e.symm.trans e') ▸ h

theorem on {f : Mach → Mach} (h : (f s.m).InBounds) : Kept (s.on f) := next rfl h

theorem execRegisterWrite {who addr v} (h : s.m.InBounds) : Kept (execRegisterWrite who addr v s) := by
  refine next rfl ?_
  split
  · exact iteState h.coreRegWrite h
  · exact iteState h h
  · exact iteState h.writeSwitch h
  · exact h.stateBar0Write
  · exact h.bar0Get
  · exact h.send

theorem execSt {x rd ra sp w imm} (h : s.m.InBounds) : Kept (execSt x rd ra sp w imm s) := by
  refine next rfl ?_
  split
  · exact h.firingStore
  · exact h.ctxParity
  · exact h.issueStore

theorem execDone {x} (h : s.m.InBounds) : Kept (execDone x s) := by
  refine on ?_
  split
  · exact h.firingDone
  · exact h.ctxParity
  · exact h.issueSc

theorem execReti {x} (h : s.m.InBounds) : Kept (execReti x s) := by
  refine on ?_
  split
  · exact .ite h.fetchLocal.reti h.issueSys
  · exact h.issueSys
  · exact h.issueSys

theorem execFence {x} (h : s.m.InBounds) : Kept (execFence x s) := by
  refine on ?_
  split
  · exact .ite h h.issueSys
  · exact h.issueSys
  · exact h.issueSys

theorem execMatchArrival {par p} (h : s.m.InBounds) : Kept (execMatchArrival p par s) := by
  refine on ?_
  split
  · exact h.matchArrival
  · exact h
  · exact h.parityFault

theorem execDispatch {par p} (h : s.m.InBounds) : Kept (execDispatch p par s) := by
  refine on ?_
  split
  · exact h.dispatch
  · exact h
  · exact h.parityFault

theorem execEmitFiring {par p} (h : s.m.InBounds) : Kept (execEmitFiring p par s) := by
  refine on ?_
  split
  · exact h.emitFiring
  · exact h
  · exact h.parityFault

theorem execCommitSweep {x} (h : s.m.InBounds) : Kept (execCommitSweep x s) := by
  refine on ?_
  split
  · exact h.sweep
  · exact h.sweep
  · exact h.parityFault

theorem execPostApply {bad} (h : s.m.InBounds) : Kept (execPostApply bad s) := by
  refine on ?_
  split
  · exact h.taskParity.postApply
  · exact h.postApply

theorem execCmdObjRead {k e} (h : s.m.InBounds) : Kept (execCmdObjRead k e s) :=
  next rfl (h.stateCommand fun _ h => InBounds.submit h.setWait)

theorem execCmdPause {k e} (h : s.m.InBounds) : Kept (execCmdPause k e s) := next rfl (h.stateCommand fun _ h => h.cmdObj.cmdEnd)

theorem execCmdControl {k e host} (h : s.m.InBounds) : Kept (execCmdControl k e host s) :=
  next rfl (h.hostCommand fun _ h => iteState h.control h.fetched)

theorem execCmdReadState {k e} (h : s.m.InBounds) : Kept (execCmdReadState k e s) := by
  refine on (.ite h (h.hostCmd fun m h => ?_))
  split
  · exact h.cmdEnd
  · split
    next read => exact .ite (h.regionFetch.sndOf read).cmdEnd (h.regionFetch.sndOf read).dmaOut

theorem execMemorySpaceEnable {fn v} (h : s.m.InBounds) : Kept (execMemorySpaceEnable fn v s) := by
  unfold Machine.execMemorySpaceEnable
  refine on (modFunc ?_)
  split
  · refine .ite (withMps ?_) ?_
    all_goals
      split
      · exact .ite h h.setBar2
      · exact h
  · split
    · exact .ite h h.setBar2
    · exact h

theorem execPowerStateChange {fn d3} (h : s.m.InBounds) : Kept (execPowerStateChange fn d3 s) := by
  unfold Machine.execPowerStateChange
  exact next rfl (.ite h.modFunc.releaseMsgs.wakeAsk h.modFunc.releaseMsgs)

theorem execTransferLapse (h : s.m.InBounds) : Kept (execTransferLapse s) := by
  refine on ?_
  split
  · exact .ite h h.withSop
  · exact h

theorem execObjectTimeout (h : s.m.InBounds) : Kept (execObjectTimeout s) := by
  refine next rfl ?_
  split
  · exact iteState h h.endAccess
  · exact h

theorem execEventFrame (h : s.m.InBounds) : Kept (execEventFrame s) := by
  have bound := StoresWithin.frames h
  refine on ?_
  split
  next waiting =>
    rw [waiting] at bound
    refine .ite h (canSend ?_)
    exact { h with frames := Nat.le_of_succ_le bound }
  · exact h

theorem execErrlogWrite (h : s.m.InBounds) : Kept (execErrlogWrite s) := by
  have bound := StoresWithin.errs h
  refine on ?_
  split
  · exact h
  next waiting =>
    rw [waiting] at bound
    refine errWrite ?_
    exact { h with errs := Nat.le_of_succ_le bound }

theorem execSnowdropSaveRetry (h : s.m.InBounds) : Kept (execSnowdropSaveRetry s) := by
  unfold Machine.execSnowdropSaveRetry
  split
  next retry =>
    refine next rfl ?_
    split
    · exact InBounds.endAccess (s := { s with m := _ }) (h.snowRetry.sndOf retry)
    · exact h.snowRetry.sndOf retry

theorem execModuleCmdWake {via found} (h : s.m.InBounds) : Kept (execModuleCmdWake via found s) := next rfl h.writeObj.wakeRun

theorem execMsixMaskChange {fn b} (h : s.m.InBounds) : Kept (execMsixMaskChange fn b s) := by
  unfold Machine.execMsixMaskChange
  refine on ?_
  split
  · exact h.ifBar fun h => h.msixChange
  · exact h.msixChange

theorem execBusOff (h : s.m.InBounds) : Kept (execBusOff s) := next rfl (.ite h.count.withBusOff h)

theorem execExtest {d} (h : s.m.InBounds) : Kept (execExtest d s) := next rfl (.ite h (.ite h.scanOut.tap h.send.tap))

theorem exec {i : Instr} (h : s.m.InBounds) : Kept (exec i s) := by
  cases i
  case registerWrite => exact h.execRegisterWrite
  case st => exact h.execSt
  case done => exact h.execDone
  case reti => exact h.execReti
  case fence => exact h.execFence
  case matchArrival => exact h.execMatchArrival
  case dispatch => exact h.execDispatch
  case emitFiring => exact h.execEmitFiring
  case commitSweep => exact h.execCommitSweep
  case postApply => exact h.execPostApply
  case cmdObjRead => exact h.execCmdObjRead
  case cmdPause => exact h.execCmdPause
  case cmdControl => exact h.execCmdControl
  case cmdReadState => exact h.execCmdReadState
  case memorySpaceEnable => exact h.execMemorySpaceEnable
  case powerStateChange => exact h.execPowerStateChange
  case transferLapse => exact h.execTransferLapse
  case objectTimeout => exact h.execObjectTimeout
  case eventFrame => exact h.execEventFrame
  case snowdropSaveRetry => exact h.execSnowdropSaveRetry
  case moduleCmdWake => exact h.execModuleCmdWake
  case extest => exact h.execExtest
  case errlogWrite => exact h.execErrlogWrite
  case msixMaskChange => exact h.execMsixMaskChange
  case busOff => exact h.execBusOff
  all_goals refine next rfl ?_
  case objectWrite | pauseTime | resume | orphanDiscard | eccInjectSram | eccInjectHbm | load | stagingMib | keySeal | keyRevoke |
      signLock |
      featureAccept | flEnable | errlogIndex | errlogClear | testUnlock | ovrUnlock | ovrRelease | moduleCmdBoot | moduleCmdSnowdrop |
          moduleCmdReboot |
      moduleCmdStandby | jobCmdRun | jobCmdStop | jobCmdUnload =>
    exact h.writeObj
  case objDone => exact iteState h.objDone h
  case cmdObjWrite => exact h.stateCommand fun _ h => h.fetched
  case cmdLoad => exact h.stateCommand fun _ h => h.cmdLoad
  case cmdDmWrite | cmdStageIn => exact iteState h (h.hostCommand fun _ h => h.fetched)
  case mbxReq => exact iteState h.mbxReq h.send
  case object => exact h.peerObject
  case read => exact h.sopFrame fun _ h => h.sopRead
  case write => exact h.sopFrame fun _ h => h.sopWrite
  case readSeg => exact h.sopFrame fun _ h => h.sopReadSeg
  case writeSeg => exact h.sopFrame fun _ h => h.sopWriteSeg
  case abort => exact h.sopFrame fun _ h => h.sopAbort
  case lock => exact h.sopFrame fun _ h => h.sopLock
  case nodeIdSrc => exact writeObj (s := { s with m := _ }) h.modPw
  case vinLoss => exact h.vinLoss
  case hostDmaCompletion => exact h.dmaDone
  all_goals dsimp only
  case add | sub | and | or | xor | andn | orn | xnor | sll | srl | sra | rol | ror | slt | sltu | min | max | minu | maxu | mul | mulh |
      mulhu |
      popc | clz | ctz | bext | bdep | brev | bswap | addi | andi | ori | xori | slti | sltiu | shiSll | shiSrl | shiSra | shiRol |
          shiRor | lui | lut3
      | frfs =>
    exact h.issueReg
  case div | divu | rem | remu => exact h.issueDiv
  case l4and | l4or | l4xor | l4not | l4mux | l4res | l4eq => exact h.issueL4
  case fadd | fsub | fmul | fdiv | fsqrt | fmin | fmax | feq | flt | fle | fclass | fcopysign | fneg | fabs | fcvtI | fcvtU | fcvtFi |
      fcvtFu |
      fcvtFf | fmadd | fmsub | fnmadd | fnmsub =>
    exact h.issueFp
  case fwfs | fcfs | trap => exact h.issue
  case ld | lds => exact h.issueLoad
  case beq | bne | blt | bge | bltu | bgeu | bset | bclr => exact h.issueBr
  case jal | jalr => exact h.issueTaken
  case emit | emitd | state => exact h.issueFiring
  case wait => exact h.issueSys
  case csrget | csrput | csrswap | csrins => exact h.issueCsr
  case lkacq | lkrel => exact h.issueLock
  case token | tokenMc | anti | antiMc | control => exact h.takeTokens
  case slotRel => exact h.takeSlotRel
  case rd => exact h.serveRd
  case wr => exact h.serveWr
  case cfgRd => exact h.serveCfgRd
  case cfgWr => exact h.serveCfgWr
  case rdRsp | wrAck | cfgRsp | errRsp => exact h.takeResponse
  case mobProbeComplete => exact h.mobProbe
  case deepMatchProbeComplete => exact h.deepProbe
  case deepMatchWrite => exact h.deepWrite
  case arming => exact h.gather
  case descriptorInsert => exact h.descriptorInsert
  case spill => exact h.enterSpill
  case journalGrant => exact h.journalGrant
  case kick => exact h.dispatchKick
  case depositHeld | depositState | readNode => exact h.emitCommand
  case route => exact h.route
  case stopInject => exact h.stopInject
  case ringHop => exact h.ringHop
  case foxgloveTraversal => exact h.foxglove
  case bridgeCrossing => exact h.bridge
  case lksRt => exact h.writeRt
  case lksStopCfg => exact h.writeStopCfg
  case fenceReq => exact h.fenceReq
  case fenceOpen => exact h.fenceOpen
  case force => exact h.force
  case fenceAck => exact h.fenceAck
  case fenceTimeout => exact h.fenceTimeout
  case horizonSnapshot => exact h.snapshot
  case horizonDelivery => exact h.horizonDelivery.waveStep
  case fossilCollection => exact h.fossil
  case descriptorSweep => exact h.descriptorSweep
  case mobRescan => exact h.rescan
  case rollback => exact h.rollbackStep
  case storeWrite => exact h.storeWrite
  case storeAck => exact h.storeAck
  case governorPeriod => exact h.governorPeriod
  case stallEvent => exact h.stallEvent
  case waveStart => exact h.waveStart
  case hzReq => exact h.takeSymbol fun h => h.hzReq
  case hzUp => exact h.takeSymbol fun h => h.hzUp
  case hzDown => exact h.takeSymbol fun h => h.hzDown
  case hzPause => exact h.takeSymbol fun h => h.hzPause
  case hzAck => exact h.takeSymbol fun h => h.hzAcked
  case hzRepeat => exact h.hzRepeat
  case hzFrameAck => exact h.takeSymbol fun h => h.hzFrameAck
  case time => exact h.takeSymbol fun h => h.timeSymbol
  case targetEdge => exact h.targetEdge
  case syncInEdge => exact h.syncInEdge
  case syncOutPulse => exact h.syncOutPulse
  case correctedWriteback => exact h.writeback
  case sramScrub => exact h.sramScrub
  case hbmScrub => exact h.hbmScrub
  case patchInstall | patchEnd => exact h.writePtLoc
  case remapEnable | remapEnd => exact h.writeRemap
  case remapCopyComplete => exact h.remapCopied
  case loadStart => exact h.loadStart
  case tskPost => exact h.storePost
  case postAdmission => exact h.postAdmission
  case taskDispatch => exact h.taskDispatch
  case tskEnd => exact .ite h.storeEnd.storeIssued h
  case tskCfg => exact h.writeTskCfg
  case eventRingWrite => exact h.eventRingWrite
  case evrCfg => exact h.writeEvrCfg
  case tileRbqKey => exact h.writeRbqKey
  case interruptEdge => exact raiseSource (.ite h.icParity h)
  case interruptOffer => exact h.interruptOffer
  case interruptEntry => exact h.interruptEntry
  case icSwset => exact h.writeSwset
  case icCfg => exact h.writeIcCfg
  case lockReq => exact lockDecide (.ite h.lockParity h)
  case leaseExpiry => exact h.leaseExpiry
  case bar2Read => exact h.ifBar2 fun h => h.bar2Read
  case bar2Write => exact h.ifBar2 fun h => h.bar2Write
  case apertureEntry => exact h.ifBar fun h => h.writeAp
  case ringCfg => exact h.ifBar fun h => h.writeRingCfg
  case ringSqTail => exact h.ifBar fun h => h.writeSqTail
  case completionWrite => exact h.completionWrite
  case cmdNop => exact h.hostCmd fun _ h => h.cmdEnd
  case cmdUnload => exact h.hostCmd fun _ h => h.unload.cmdEnd
  case cmdRun => exact h.hostCmd fun _ h => h.cmdWait fun _ h => h.runJob
  case cmdResume => exact h.hostCmd fun _ h => h.cmdWait fun _ h => h.resumeJob
  case cmdStop => exact h.hostCmd fun _ h => h.cmdWait fun _ h => h.stopJob
  case cmdDmRead | cmdStageOut => exact .ite h (h.hostCmd fun _ h => h.copyOut)
  case tlpArbitration => exact h.sendTlp
  case flrVf => exact .ite h.loseVf.count h
  case flrPf => exact .ite h.losePf.count h
  case linkLoss => exact h.linkLoss
  case perstAssert => exact h.linkLoss.modPw
  case vfEnableChange => exact .ite h.setVfs h
  case busMasterEnable => exact h.modFunc.releaseMsgs
  case probeItem => exact h.probeItem
  case probeCancel => exact h.probeCancel
  case frontEndPush => exact h.frontPush
  case itemWrite => exact h.itemWrite
  case packetCommit => exact h.packetCommit
  case strRead => exact h.strRead
  case mark => exact h.strMark
  case rewind => exact h.strRewind
  case release => exact h.strRelease
  case disableFlush | disableDiscard => exact h.strDisable
  case close => exact h.strClose
  case trainingComplete => exact h.trained
  case trainingAbandon => exact .ite h.portDown h
  case downTimeout => exact .ite h.modPort h
  case identityFrameTimer => exact .ite h.linkSend h
  case identityFrame => exact h.identityFrame
  case identAck => exact h.takeSymbol fun h => h.identAck
  case frameSend => exact h.frameSend
  case dataFrame => exact dataFrame (.ite h h.countPort)
  case ack => exact h.takeSymbol fun h => h.ack
  case ackTimer => exact .ite h.sendAck h
  case nak => exact h.takeSymbol fun h => h.nak
  case credit => exact h.takeSymbol fun h => h.credit
  case creditTimer => exact .ite h.drainPort.sendCredit h
  case pause => exact h.takeSymbol fun h => h.pauseVcs
  case pauseExpiry => exact h.pauseExpiry
  case replayTimeout => exact h.replayTimeout
  case retrainComplete => exact h.retrained
  case heartbeatSend => exact h.heartbeatSend
  case heartbeat => exact h.takeSymbol fun h => h.heartbeat
  case heartbeatExpiry => exact h.heartbeatExpiry
  case calibrationTrigger => exact h.calTrigger
  case calReq => exact h.takeSymbol fun h => h.calReq
  case calibrationWindowEnd => exact h.calEnd
  case linkState => exact h.linkState
  case resync => exact h.resync
  case resyncTimeout => exact h.resyncTimeout
  case frameAckRelay => exact h.frameAckRelay
  case peerLock => exact h.peerLock
  case lockWake => exact h.lockWakes
  case jobCheck => exact h.jobCheck
  case flRt | testLogicReset => exact h
  case sopHeartbeat => exact .ite h h.canSend
  case vinRise => exact h.vinRise
  case vinLevelCrossing => exact h.vinLevel
  case brownOut => exact h.brownOut
  case overvoltage => exact h.overvoltage
  case refclkStart => exact h.refclkStart
  case bootStart => exact h.bootStart
  case bootStage => exact h.bootStage
  case resetAssert => exact h.resetAssert
  case resetRelease => exact h.resetRelease
  case powerControl => exact h.powerControl
  case currentLimit => exact h.currentLimit
  case thermalAlert => exact h.thermalAlert
  case thermalRuleEnd => exact h.thermalEnd
  case thermalTrip => exact h.thermalTrip
  case railFault => exact h.railFault
  case avsWindow => exact .ite h.avsWindow h
  case droopResponse => exact .ite h.droop h
  case avsStat => exact h.send.avsRead
  case samplePreload => exact .ite h h.scanOut.tap
  case idcode => exact .ite h.tap.send h
  case highz | bypass => exact .ite h h.send.tap
  case requestTimeout => exact h.requestTimeout
  case refclkLoss => exact h.refclkLoss
  case pciePerstRelease | ovrWindowEnd => exact h.modPw
  case pcieLinkUp => exact .ite h.modPw h
  case qspiOperationComplete => exact .ite h.flashDone.raiseSource h
  case uncorrectableCodeword => exact .ite h h.countPort.raiseSource

end Mach.InBounds
end Sys2Proof.Machine

section
open Sys2Proof Sys2Proof.Machine

/-- Settles O4: the bounds as one invariant (`Mach.InBounds`), which an idle step and every command keep. -/
theorem memoriesAndQueuesStayInBounds : Obligations.MemoriesAndQueuesStayInBounds := by
  intro s t e memOk bounded
  have h : s.m.InBounds := (Mach.inBounds_iff _).mpr ⟨memOk, bounded⟩
  refine (Mach.inBounds_iff _).mp ?_
  unfold step at e
  split at e
  · exact Host.Outcome.next.inj e ▸ h.tick
  next command rest _ => exact Mach.InBounds.exec (s := { s with pending := rest }) h t e

end
